-- ==== Sys2Proof/Word.lean ====
section
/-! DEFINITION. The word types of the Limrov LX9: registers, words of an instruction, buffers.
Bits are numbered from the least significant bit 0; multi-byte values are little-endian (00 R7). -/

namespace Sys2Proof

/-- A byte of memory (00 R7). -/
abbrev Byte := BitVec 8

/-- A scalar register, a control register, a program counter: 64 bits (02 R45). -/
abbrev Word := BitVec 64

/-- An instruction word of L, S or of a column of C: 32 bits (01 R19). -/
abbrev IWord := BitVec 32

/-- A tile buffer of 4 KiB, byte 0 in the lowest eight bits (02 R51). -/
abbrev Buf := BitVec 32768

/-- An operand-file entry: 128 bytes (02 R54). -/
abbrev OEntry := BitVec 1024

/-- A predicate register: 1,024 mask bits (02 R48). -/
abbrev Pred := BitVec 1024

/-- A handle register image or a fixed cell: 128 bits (02 R61, 03 R78). -/
abbrev Cell128 := BitVec 128

end Sys2Proof
end

