-- ==== Sys2Proof/Machine/Fp.lean ====
section
/-! DEFINITION. Floating-point values, exact arithmetic and rounding (03 R70 to R89). Every result is formed exactly,
as a sign, an integer magnitude and a power of two, with a sticky bit for quotients, roots and special functions, and is
rounded once. -/

namespace Sys2Proof.Machine

/-- The floating-point formats of 03 R70. -/
inductive FFmt where
  | e5m2 | e4m3 | bf16 | fp16 | fp32 | fp64
  deriving DecidableEq, Repr

/-- Exponent bits. -/
def FFmt.eb : FFmt → Nat
  | .e5m2 => 5 | .e4m3 => 4 | .bf16 => 8 | .fp16 => 5 | .fp32 => 8 | .fp64 => 11

/-- Fraction bits. -/
def FFmt.fb : FFmt → Nat
  | .e5m2 => 2 | .e4m3 => 3 | .bf16 => 7 | .fp16 => 10 | .fp32 => 23 | .fp64 => 52

/-- Exponent bias. -/
def FFmt.bias (f : FFmt) : Nat := 2 ^ (f.eb - 1) - 1

/-- Bits of an encoding. -/
def FFmt.width (f : FFmt) : Nat := 1 + f.eb + f.fb

/-- The smallest normal value is two to this power (03 R70). -/
def FFmt.emin (f : FFmt) : Int := 1 - (f.bias : Int)

/-- Encoding of positive infinity. E4M3 has none (03 R70); the callers never ask it of E4M3. -/
def FFmt.infBits (f : FFmt) : Nat := (2 ^ f.eb - 1) * 2 ^ f.fb

/-- The canonical NaN (03 R70, R72). -/
def FFmt.nanBits (f : FFmt) : Nat :=
  match f with
  | .e4m3 => 0x7F
  | f => f.infBits + 2 ^ (f.fb - 1)

/-- Encoding of the largest finite value (03 R70). -/
def FFmt.maxBits (f : FFmt) : Nat :=
  match f with
  | .e4m3 => 0x7E
  | f => f.infBits - 1

/-- A value: a NaN (signalling or not), an infinity, or the finite number `±m × 2^e`. -/
inductive FVal where
  | nan (signalling : Bool)
  | inf (neg : Bool)
  | fin (neg : Bool) (m : Nat) (e : Int)
  deriving DecidableEq, Repr

/-- The value of an encoding (03 R70, R71). -/
def FFmt.value (f : FFmt) (bits : Nat) : FVal :=
  let neg := bits.testBit (f.width - 1)
  let ex := (bits / 2 ^ f.fb) % 2 ^ f.eb
  let fr := bits % 2 ^ f.fb
  if ex = 2 ^ f.eb - 1 ∧ f ≠ .e4m3 then
    if fr = 0 then .inf neg else .nan (!fr.testBit (f.fb - 1))
  else if f = .e4m3 ∧ ex = 15 ∧ fr = 7 then .nan false
  else if ex = 0 then .fin neg fr (f.emin - f.fb)
  else .fin neg (2 ^ f.fb + fr) ((ex : Int) - f.bias - f.fb)

/-- The rounding modes of 03 R81. -/
inductive RMode where
  | rne | rz | rd | ru
  deriving DecidableEq, Repr

/-- A choice of the overflow table (03 R84): largest finite, infinity by the mode, or NaN. -/
inductive OvfChoice where
  | largest | infinity | nan
  deriving DecidableEq, Repr

/-- The exception flags of 02 R68: bit 4 NV, 3 DZ, 2 OF, 1 UF, 0 NX. -/
abbrev FFlags := BitVec 5

def flagNV : FFlags := 0x10
def flagDZ : FFlags := 0x08
def flagOF : FFlags := 0x04
def flagUF : FFlags := 0x02
def flagNX : FFlags := 0x01

/-- Whether a magnitude whose discarded part is `rem` of `2^shift`, with `sticky` below it, rounds away from zero. -/
def roundsUp (mode : RMode) (neg odd : Bool) (rem half : Nat) (sticky : Bool) : Bool :=
  let inexact := rem != 0 || sticky
  match mode with
  | .rz => false
  | .rd => neg && inexact
  | .ru => !neg && inexact
  | .rne => if half = 0 then false else
      rem > half || (rem = half && (sticky || odd))

/-- `m × 2^e` (plus a sticky part below one unit of `m`) rounded to a multiple of `2^q`: the multiple and whether it is
inexact (03 R81). -/
def roundTo (mode : RMode) (neg : Bool) (m : Nat) (e q : Int) (sticky : Bool) : Nat × Bool :=
  if q ≤ e then (m * 2 ^ (e - q).toNat, sticky)
  else
    let s := (q - e).toNat
    let w := m / 2 ^ s
    let rem := m % 2 ^ s
    let up := roundsUp mode neg (w % 2 = 1) rem (2 ^ s / 2) sticky
    (if up then w + 1 else w, rem != 0 || sticky)

/-- The result of an overflow of sign `neg` (03 R83, R84). -/
def overflowBits (f : FFmt) (mode : RMode) (c : OvfChoice) (neg : Bool) : Nat :=
  let sgn := if neg then 2 ^ (f.width - 1) else 0
  match c with
  | .nan => f.nanBits
  | .largest => sgn + f.maxBits
  | .infinity =>
    let toInf := match mode with | .rne => true | .rz => false | .rd => neg | .ru => !neg
    if toInf && f ≠ .e4m3 then sgn + f.infBits else sgn + f.maxBits

/-- The finite value `±(m + sticky) × 2^e` rounded into a format: its encoding and the flags raised (03 R81 to R84). -/
def FFmt.round (f : FFmt) (mode : RMode) (c : OvfChoice) (neg : Bool) (m : Nat) (e : Int) (sticky : Bool) :
    Nat × FFlags :=
  let sgn := if neg then 2 ^ (f.width - 1) else 0
  if m = 0 then (sgn, 0)
  else
    let top : Int := e + m.log2
    let qn : Int := top - f.fb
    let qmin : Int := f.emin - f.fb
    let (r, inexact) := roundTo mode neg m e (max qn qmin) sticky
    let (ru, _) := roundTo mode neg m e qn sticky
    let tiny := (ru.log2 : Int) + qn < f.emin
    let enc := (max qn qmin - qmin).toNat * 2 ^ f.fb + r
    if enc > f.maxBits then (overflowBits f mode c neg, flagOF ||| flagNX)
    else (sgn + enc, (if inexact then flagNX else 0) ||| (if tiny && inexact then flagUF else 0))

/-- The overflow choice of a format that no table governs: FP32 and FP64 (03 R83). -/
def ovfIeee : OvfChoice := .infinity

/-- An infinity of sign `neg`; into E4M3 it is an overflow of that sign raising NV only (03 R85). -/
def FFmt.infOf (f : FFmt) (mode : RMode) (c : OvfChoice) (neg : Bool) : Nat × FFlags :=
  if f = .e4m3 then (overflowBits f mode c neg, flagNV)
  else ((if neg then 2 ^ (f.width - 1) else 0) + f.infBits, 0)

/-- A value delivered into a format: NaN becomes canonical (03 R72), a finite value is rounded. -/
def FFmt.deliver (f : FFmt) (mode : RMode) (c : OvfChoice) (v : FVal) : Nat × FFlags :=
  match v with
  | .nan s => (f.nanBits, if s then flagNV else 0)
  | .inf n => f.infOf mode c n
  | .fin n m e => f.round mode c n m e false

def FVal.isNan : FVal → Bool
  | .nan _ => true
  | _ => false

def FVal.isSnan : FVal → Bool
  | .nan s => s
  | _ => false

def FVal.isInf : FVal → Bool
  | .inf _ => true
  | _ => false

def FVal.isZero : FVal → Bool
  | .fin _ m _ => m = 0
  | _ => false

def FVal.neg : FVal → Bool
  | .nan _ => false
  | .inf n => n
  | .fin n _ _ => n

def FVal.flip : FVal → FVal
  | .nan s => .nan s
  | .inf n => .inf (!n)
  | .fin n m e => .fin (!n) m e

/-- The canonical NaN with the flags of a NaN operand: NV when one of them signals (03 R72). -/
def FFmt.nanOf (f : FFmt) (vs : List FVal) : Nat × FFlags :=
  (f.nanBits, if vs.any FVal.isSnan then flagNV else 0)

/-- The signed integer of a finite value at scale `2^q`, for `q` at or below its exponent. -/
def signedAt (neg : Bool) (m : Nat) (e q : Int) : Int :=
  let a : Int := (m * 2 ^ (e - q).toNat : Nat)
  if neg then -a else a

/-- The exact sum of two finite values; a zero sum of unlike signs is `+0` (03 R86, under RNE). -/
def addFin (n1 : Bool) (m1 : Nat) (e1 : Int) (n2 : Bool) (m2 : Nat) (e2 : Int) : FVal :=
  let q := min e1 e2
  let t := signedAt n1 m1 e1 q + signedAt n2 m2 e2 q
  if t = 0 then .fin (n1 && n2) 0 0 else .fin (t < 0) t.natAbs q

/-- Addition rounded once by RNE (03 R86). -/
def FFmt.add (f : FFmt) (c : OvfChoice) (a b : FVal) : Nat × FFlags :=
  match a, b with
  | .inf n1, .inf n2 => if n1 = n2 then f.infOf .rne c n1 else (f.nanBits, flagNV)
  | .inf n, .fin _ _ _ => f.infOf .rne c n
  | .fin _ _ _, .inf n => f.infOf .rne c n
  | .fin n1 m1 e1, .fin n2 m2 e2 => f.deliver .rne c (addFin n1 m1 e1 n2 m2 e2)
  | a, b => f.nanOf [a, b]

/-- The exact product of two values that are no NaN; `none` for an infinity times zero. -/
def mulExact (a b : FVal) : Option FVal :=
  let n := a.neg != b.neg
  match a, b with
  | .fin _ m1 e1, .fin _ m2 e2 => some (.fin n (m1 * m2) (e1 + e2))
  | x, y => if x.isZero || y.isZero then none else some (.inf n)

/-- Multiplication rounded once by RNE (03 R86). -/
def FFmt.mul (f : FFmt) (c : OvfChoice) (a b : FVal) : Nat × FFlags :=
  if a.isNan || b.isNan then f.nanOf [a, b]
  else match mulExact a b with
    | none => (f.nanBits, flagNV)
    | some v => f.deliver .rne c v

/-- Fused `a × b + d` rounded once; an infinity times zero raises NV even beside a quiet NaN addend (03 R86). -/
def FFmt.fma (f : FFmt) (c : OvfChoice) (a b d : FVal) : Nat × FFlags :=
  if a.isNan || b.isNan then f.nanOf [a, b, d]
  else match mulExact a b with
    | none => (f.nanBits, flagNV)
    | some p => f.add c p d

/-- The integer square root by bits: the greatest `r` with `r × r ≤ n`, built from bit `k - 1` down. -/
def isqrtBits (n : Nat) : Nat → Nat → Nat
  | 0, r => r
  | k + 1, r => let r' := r + 2 ^ k; isqrtBits n k (if r' * r' ≤ n then r' else r)

def isqrt (n : Nat) : Nat := isqrtBits n (n.log2 / 2 + 1) 0

/-- Division rounded once (03 R89, TDIV). -/
def FFmt.div (f : FFmt) (c : OvfChoice) (a b : FVal) : Nat × FFlags :=
  let n := a.neg != b.neg
  match a, b with
  | .inf _, .inf _ => (f.nanBits, flagNV)
  | .inf _, .fin _ _ _ => f.infOf .rne c n
  | .fin _ _ _, .inf _ => f.round .rne c n 0 0 false
  | .fin _ m1 e1, .fin _ m2 e2 =>
    if m2 = 0 then
      if m1 = 0 then (f.nanBits, flagNV)
      else let (r, _) := f.infOf .rne c n; (r, flagDZ)
    else
      let s := m2.log2 + 72
      let num := m1 * 2 ^ s
      f.round .rne c n (num / m2) (e1 - e2 - s) (num % m2 != 0)
  | a, b => f.nanOf [a, b]

/-- Reciprocal rounded once (03 R89, TRCP). -/
def FFmt.rcp (f : FFmt) (c : OvfChoice) (a : FVal) : Nat × FFlags :=
  f.div c (.fin false 1 0) a

/-- A finite magnitude as an even power of two times an integer of at least 144 bits. -/
def evenScaled (m : Nat) (e : Int) : Nat × Int :=
  let s : Nat := 144 + (if (e - 144) % 2 = 0 then 0 else 1)
  (m * 2 ^ s, e - s)

/-- Square root rounded once (03 R89, TSQRT). -/
def FFmt.sqrt (f : FFmt) (c : OvfChoice) (a : FVal) : Nat × FFlags :=
  match a with
  | .nan _ => f.nanOf [a]
  | .inf n => if n then (f.nanBits, flagNV) else f.infOf .rne c false
  | .fin n m e =>
    if m = 0 then f.round .rne c n 0 0 false
    else if n then (f.nanBits, flagNV)
    else
      let (ms, es) := evenScaled m e
      let r := isqrt ms
      f.round .rne c false r (es / 2) (r * r != ms)

/-- Reciprocal square root rounded once (03 R89, TRSQ). -/
def FFmt.rsqrt (f : FFmt) (c : OvfChoice) (a : FVal) : Nat × FFlags :=
  match a with
  | .nan _ => f.nanOf [a]
  | .inf n => if n then (f.nanBits, flagNV) else f.round .rne c false 0 0 false
  | .fin n m e =>
    if m = 0 then let (r, _) := f.infOf .rne c n; (r, flagDZ)
    else if n then (f.nanBits, flagNV)
    else
      let (ms, es) := if e % 2 = 0 then (m, e) else (m * 2, e - 1)
      let k := ms.log2 + 160
      let k2 := k + k % 2
      let r := isqrt (2 ^ k2 / ms)
      f.round .rne c false r (-(es / 2) - (k2 / 2 : Nat)) (r * r * ms != 2 ^ k2)

/-! ### Special functions, by intervals in fixed point -/

/-- Sum of the odd powers series of the inverse hyperbolic tangent, at scale `2^p`: partial sum from term `i`, with
`pw` the current power of `num/den` at that scale. -/
def atanhSum (num den : Nat) : Nat → Nat → Nat → Nat → Nat
  | 0, _, _, acc => acc
  | k + 1, i, pw, acc => atanhSum num den k (i + 1) (pw * num * num / (den * den)) (acc + pw / (2 * i + 1))

/-- `2^p × atanh(num/den)` from below, and a bound of the error, for `num/den` at most one third. -/
def atanhLo (p num den : Nat) : Nat × Nat :=
  let n := p / 3 + 2
  (atanhSum num den n 0 (2 ^ p * num / den) 0, 3 * n + 3)

/-- `2^p × ln 2` from below with the bound of its error. -/
def ln2Lo (p : Nat) : Nat × Nat := let (a, w) := atanhLo p 1 3; (2 * a, 2 * w)

/-- Partial sums of the exponential series at scale `2^p`. -/
def expSum (p r : Nat) : Nat → Nat → Nat → Nat → Nat
  | 0, _, _, acc => acc
  | k + 1, i, term, acc => expSum p r k (i + 1) (term * r / 2 ^ p / (i + 1)) (acc + term)

/-- `2^p × exp(r / 2^p)` from below for `r` below `2^p`, and a bound of the error of the sum (not of `r`). -/
def expLo (p r : Nat) : Nat × Nat :=
  let n := p + 4
  (expSum p r n 0 (2 ^ p) 0, 3 * n + 8)

/-- A value known to lie strictly between `lo × 2^e` and `hi × 2^e`. -/
structure FIval where
  lo : Nat
  hi : Nat
  e : Int

/-- `exp` of the exact value `±m × 2^e` at working precision `p`. -/
def expIval (p : Nat) (neg : Bool) (m : Nat) (e : Int) : FIval :=
  let pe : Int := p
  -- x at scale 2^p, as floor and ceiling magnitudes
  let s := e + pe
  let xlo : Int := if 0 ≤ s then signedAt neg m e (-pe)
    else if neg then -((m / 2 ^ (-s).toNat : Nat) : Int) - 1 else ((m / 2 ^ (-s).toNat : Nat) : Int)
  let (l2, w2) := ln2Lo p
  let k := xlo / (l2 : Int)
  -- r = x - k ln 2 lies in [rlo, rlo + err]
  let err : Nat := 2 + k.natAbs * w2
  let rmid := xlo - k * (l2 : Int)
  let rlo : Nat := (rmid - (k.natAbs * w2 : Nat)).toNat
  let under : Nat := ((k.natAbs * w2 : Nat) - rmid).toNat
  let (y, we) := expLo p rlo
  let lo := y - 2 * under
  { lo := lo, hi := y + we + 4 * (err + k.natAbs * w2) + 4, e := k - pe }

/-- `exp2` of `±m × 2^e`, a value that is no integer, at working precision `p`. -/
def exp2Ival (p : Nat) (neg : Bool) (m : Nat) (e : Int) : FIval :=
  let d := (-e).toNat
  let x : Int := if neg then -(m : Int) else m
  let k := x / (2 ^ d : Nat)
  let fr : Nat := (x % (2 ^ d : Nat)).toNat
  let (l2, w2) := ln2Lo p
  let r := fr * l2 / 2 ^ d
  let (y, we) := expLo p r
  { lo := y, hi := y + we + 4 * (w2 + 2) + 4, e := k - (p : Int) }

/-- The natural logarithm's magnitude and sign for `m × 2^e` (not one), at working precision `p`. -/
def logIval (p : Nat) (m : Nat) (e : Int) : Bool × FIval :=
  let k0 : Int := m.log2
  -- x = y × 2^k with y in [3/4, 3/2)
  let big := 2 * m ≥ 3 * 2 ^ m.log2
  let d : Nat := if big then 2 ^ (m.log2 + 1) else 2 ^ m.log2
  let k : Int := e + k0 + (if big then 1 else 0)
  let down := m < d
  let num := if down then d - m else m - d
  let (a, w) := atanhLo p num (m + d)
  let (l2, w2) := ln2Lo p
  let yl : Int := 2 * (a : Int)
  let t : Int := k * (l2 : Int) + (if down then -yl else yl)
  let err : Int := (k.natAbs * w2 + 2 * w + 2 : Nat)
  let neg := t < 0
  let mag : Int := t.natAbs
  (neg, { lo := (mag - err).toNat, hi := (mag + err).toNat, e := -(p : Int) })

/-- The hyperbolic tangent of `m × 2^e`, positive, at working precision `p`. -/
def tanhIval (p : Nat) (m : Nat) (e : Int) : FIval :=
  let x := expIval p false m (e + 1)
  -- y = exp(2x) lies between ylo and yhi at scale 2^p
  let sc := fun (v : Nat) => if 0 ≤ x.e + p then v * 2 ^ (x.e + (p : Int)).toNat else v / 2 ^ (-(x.e + (p : Int))).toNat
  let ylo := sc x.lo
  let yhi := sc x.hi + 1
  let one := 2 ^ p
  { lo := (ylo - one) * one / (ylo + one), hi := (yhi - one) * one / (yhi + one) + 1, e := -(p : Int) }

/-- The encoding an interval determines: both ends, each with a sticky part, round alike. -/
def FFmt.roundIval (f : FFmt) (c : OvfChoice) (neg : Bool) (v : FIval) : Option (Nat × FFlags) :=
  let a := f.round .rne c neg v.lo v.e true
  let b := f.round .rne c neg (v.hi - 1) v.e true
  if v.lo ≠ 0 ∧ a = b then some a else none

/-- The working precisions tried in turn (log entry 9). -/
def zivPrecisions : List Nat := [128, 256, 512, 1024, 2048, 4096, 8192, 16384]

/-- The first precision whose interval determines the encoding; the last one's lower end if none does (log entry 9). -/
def FFmt.ziv (f : FFmt) (c : OvfChoice) (iv : Nat → Bool × FIval) : List Nat → Nat × FFlags
  | [] => let (n, v) := iv 16384; f.round .rne c n v.lo v.e true
  | p :: ps => let (n, v) := iv p
    match f.roundIval c n v with
    | some r => r
    | none => f.ziv c iv ps

/-- The position of the leading bit of a finite magnitude. -/
def topBit (m : Nat) (e : Int) : Int := e + m.log2

/-- `one` plus or minus less than `2^-80`, as a finite value with a sticky part. -/
def FFmt.nearOne (f : FFmt) (c : OvfChoice) (neg below : Bool) : Nat × FFlags :=
  f.round .rne c neg (if below then 2 ^ 80 - 1 else 2 ^ 80) (-80) true

/-- A magnitude beyond every format's range, large or small. -/
def FFmt.extreme (f : FFmt) (c : OvfChoice) (large : Bool) : Nat × FFlags :=
  f.round .rne c false (2 ^ 80) (if large then 40000 else -40000) true

/-- TEXP (03 R89). -/
def FFmt.exp (f : FFmt) (c : OvfChoice) (a : FVal) : Nat × FFlags :=
  match a with
  | .nan _ => f.nanOf [a]
  | .inf n => if n then f.round .rne c false 0 0 false else f.infOf .rne c false
  | .fin n m e =>
    if m = 0 then f.round .rne c false 1 0 false
    else if topBit m e < -82 then f.nearOne c false n
    else if topBit m e ≥ 14 then f.extreme c (!n)
    else f.ziv c (fun p => (false, expIval p n m e)) zivPrecisions

/-- TEXP2 (03 R89). An integer argument gives the exact power of two. -/
def FFmt.exp2 (f : FFmt) (c : OvfChoice) (a : FVal) : Nat × FFlags :=
  match a with
  | .nan _ => f.nanOf [a]
  | .inf n => if n then f.round .rne c false 0 0 false else f.infOf .rne c false
  | .fin n m e =>
    if m = 0 then f.round .rne c false 1 0 false
    else if topBit m e < -82 then f.nearOne c false n
    else if topBit m e ≥ 14 then f.extreme c (!n)
    else if 0 ≤ e then f.round .rne c false 1 (signedAt n m e 0) false
    else if m % 2 ^ (-e).toNat = 0 then
      let k : Int := (m / 2 ^ (-e).toNat : Nat)
      f.round .rne c false 1 (if n then -k else k) false
    else f.ziv c (fun p => (false, exp2Ival p n m e)) zivPrecisions

/-- TLOG (03 R89). -/
def FFmt.log (f : FFmt) (c : OvfChoice) (a : FVal) : Nat × FFlags :=
  match a with
  | .nan _ => f.nanOf [a]
  | .inf n => if n then (f.nanBits, flagNV) else f.infOf .rne c false
  | .fin n m e =>
    if m = 0 then let (r, _) := f.infOf .rne c true; (r, flagDZ)
    else if n then (f.nanBits, flagNV)
    else if e ≤ 0 ∧ m = 2 ^ (-e).toNat then f.round .rne c false 0 0 false
    else f.ziv c (fun p => logIval p m e) zivPrecisions

/-- TTANH (03 R89). -/
def FFmt.tanh (f : FFmt) (c : OvfChoice) (a : FVal) : Nat × FFlags :=
  match a with
  | .nan _ => f.nanOf [a]
  | .inf n => f.round .rne c n 1 0 false
  | .fin n m e =>
    if m = 0 then f.round .rne c n 0 0 false
    else if topBit m e < -40 then
      let s := 75 - m.log2
      f.round .rne c n (m * 2 ^ s - 1) (e - s) true
    else if topBit m e ≥ 7 then f.nearOne c n true
    else f.ziv c (fun p => (n, tanhIval p m e)) zivPrecisions

/-! ### Order, minimum and maximum, compares -/

/-- Strictly below, for values that are no NaN; zeros are equal. -/
def FVal.lt (a b : FVal) : Bool :=
  match a, b with
  | .inf n1, .inf n2 => n1 && !n2
  | .inf n1, _ => n1
  | _, .inf n2 => !n2
  | .fin n1 m1 e1, .fin n2 m2 e2 => let q := min e1 e2; signedAt n1 m1 e1 q < signedAt n2 m2 e2 q
  | _, _ => false

/-- Minimum or maximum, which orders `-0` below `+0` and gives the canonical NaN for a NaN operand (03 R87).
The operands' encodings come along so that the result is one of them. -/
def FFmt.minmax (f : FFmt) (isMax : Bool) (abits bbits : Nat) : Nat × FFlags :=
  let a := f.value abits
  let b := f.value bbits
  if a.isNan || b.isNan then f.nanOf [a, b]
  else
    let less := a.lt b || (!(b.lt a) && a.neg && !b.neg)
    if less != isMax then (abits, 0) else (bbits, 0)

/-- The root of a reduction: a NaN, which has met no pair if it is not canonical, becomes the canonical NaN, and a signalling one
raises NV (03 R72, R87). -/
def FFmt.reduced (f : FFmt) (bits : Nat) : Nat × FFlags :=
  let v := f.value bits
  if v.isNan then f.nanOf [v] else (bits, 0)

/-- The compares of 03 R88. -/
inductive FCond where
  | eq | ne | lt | le | gt | ge | un
  deriving DecidableEq, Repr

/-- One compare: the truth value and the flags (03 R88). -/
def FCond.eval (c : FCond) (a b : FVal) : Bool × FFlags :=
  let snan := a.isSnan || b.isSnan
  let anan := a.isNan || b.isNan
  let quietNV : FFlags := if snan then flagNV else 0
  let orderNV : FFlags := if anan then flagNV else 0
  match c with
  | .eq => (!anan && !(a.lt b) && !(b.lt a), quietNV)
  | .ne => (anan || a.lt b || b.lt a, quietNV)
  | .un => (anan, quietNV)
  | .lt => (!anan && a.lt b, orderNV)
  | .le => (!anan && !(b.lt a), orderNV)
  | .gt => (!anan && b.lt a, orderNV)
  | .ge => (!anan && !(a.lt b), orderNV)

/-! ### Integers of a float -/

/-- A finite value rounded to an integer, and whether that is inexact (03 R85). -/
def roundInt (mode : RMode) (neg : Bool) (m : Nat) (e : Int) : Int × Bool :=
  let (r, inexact) := roundTo mode neg m e 0 false
  ((if neg then -(r : Int) else r), inexact)

/-! ### The fixed-point cell (03 R78 to R80) -/

/-- The effect of FXADD on a cell at its ordering point (03 R79). -/
def fxAddCell (cell : Cell128) (sigma : Int) (x : BitVec 32) : Cell128 :=
  match FFmt.value .fp32 x.toNat with
  | .nan _ => cell ||| (1 <<< 127)
  | .inf false => cell ||| (1 <<< 126)
  | .inf true => cell ||| (1 <<< 125)
  | .fin n m e =>
    let q := (roundInt .rne n m (e - sigma)).1
    if q < -(2 ^ 123) ∨ q > 2 ^ 123 - 1 then cell ||| (1 <<< 124)
    else
      let v : BitVec 124 := cell.extractLsb' 0 124 + BitVec.ofInt 124 q
      (cell.extractLsb' 124 4 ++ v)

/-- The FP32 value FXRD returns; a result of zero is +0 (03 R80). -/
def fxReadCell (cell : Cell128) (sigma : Int) : BitVec 32 :=
  let nan := cell.getLsbD 127
  let pinf := cell.getLsbD 126
  let ninf := cell.getLsbD 125
  let oor := cell.getLsbD 124
  let f := FFmt.fp32
  if nan || oor || (pinf && ninf) then BitVec.ofNat 32 f.nanBits
  else if pinf then BitVec.ofNat 32 f.infBits
  else if ninf then BitVec.ofNat 32 (2 ^ 31 + f.infBits)
  else
    let v := (cell.extractLsb' 0 124).toInt
    let r := (f.round .rne ovfIeee (v < 0) v.natAbs sigma false).1
    if r % 2 ^ 31 = 0 then 0 else BitVec.ofNat 32 r

/-! ### Random draws (03 R94 to R96) -/

/-- The rotation of one Threefry round (03 R95). -/
def threefryRot (n : Nat) : Nat :=
  match n % 8 with
  | 0 => 13 | 1 => 15 | 2 => 26 | 3 => 6 | 4 => 17 | 5 => 29 | 6 => 16 | _ => 24

/-- Rounds `13 - k` to 12 of Threefry-2x32 (03 R95). -/
def threefryRounds (ks : Nat → BitVec 32) : Nat → BitVec 32 × BitVec 32 → BitVec 32 × BitVec 32
  | 0, w => w
  | k + 1, (w0, w1) =>
    let n := 12 - k
    let w0 := w0 + w1
    let w1 := w1.rotateLeft (threefryRot n) ^^^ w0
    if n % 4 = 3 then
      let j := (n + 1) / 4
      threefryRounds ks k (w0 + ks (j % 3), w1 + ks ((j + 1) % 3) + BitVec.ofNat 32 j)
    else threefryRounds ks k (w0, w1)

/-- RNG(s, n) for a job seed, a rank and a step (03 R94). -/
def rngDraw (jobseed : Word) (vrid : Nat) (stepno : Word) (stream : Nat) (index : BitVec 32) : Word :=
  let key0 : BitVec 32 := jobseed.extractLsb' 0 32
  let key1 : BitVec 32 := jobseed.extractLsb' 32 32 ^^^ BitVec.ofNat 32 vrid
  let ctr1 : BitVec 32 := (BitVec.ofNat 32 (stream % 16) <<< 28) ||| ((stepno.extractLsb' 0 28).setWidth 32)
  let ks2 := key0 ^^^ key1 ^^^ 0x1BD11BDA
  let ks : Nat → BitVec 32 := fun j => match j with | 0 => key0 | 1 => key1 | _ => ks2
  let (w0, w1) := threefryRounds ks 13 (index + key0, ctr1 + key1)
  w1 ++ w0

/-- The FP32 uniform value of a 32-bit half of a draw (03 R96). -/
def uniformBits (h : BitVec 32) : BitVec 32 :=
  BitVec.ofNat 32 (FFmt.round .fp32 .rne ovfIeee false (h.toNat / 256) (-24) false).1

end Sys2Proof.Machine
end

