-- ==== Sys2Proof/Names.lean ====
section
/-! DEFINITION. Small names that instructions and state share: register numbers, condition codes, atomic operations, strands. -/

namespace Sys2Proof

/-- A scalar register number x0 to x31 (02 R47). -/
abbrev XReg := BitVec 5

/-- A predicate register number; 0 to 95 name registers (02 R48). -/
abbrev PReg := BitVec 7

/-- A handle register number h0 to h15 (02 R61). -/
abbrev HReg := BitVec 4

/-- A stream register number z0 to z15 (02 R60). -/
abbrev ZReg := BitVec 4

/-- A ring register number g0 to g15 (02 R59). -/
abbrev GReg := BitVec 4

/-- The condition codes of CMP and CMPI (06 R141). -/
inductive Cond where
  | eq | ne | lt | ge | ltu | geu | le | gt | leu | gtu
  deriving DecidableEq, Repr

/-- The atomic operations of ATOM (06 R141). -/
inductive AtomOp where
  | add | min | max | minu | maxu | and | or | xor | swap
  deriving DecidableEq, Repr

/-- The three strands of a core: loader, computer, storer (01 R19). -/
inductive StrandId where
  | l | c | s
  deriving DecidableEq, Repr

/-- Names one strand of one core of one gang of one rank of this package. Where an event concerns a core or a gang, the
fields that do not matter are ignored. -/
structure SRef where
  vr : Nat
  gang : Nat
  core : Nat
  strand : StrandId
  deriving DecidableEq, Repr

end Sys2Proof
end

