-- ==== Sys2Proof/Machine/Rank.lean ====
section
/-! DEFINITION. A rank with its gangs, cores and strands: plain data, the part of the state that travels with a migration
(15 R376). Registers that software reads and writes whole are bit vectors; counts, identities and positions are naturals. -/

namespace Sys2Proof.Machine

/-! ## Memory -/

/-- Bytes by address in canonical form: addresses strictly rising, no entry equal to 0, which is what an unlisted address
reads as (17 R436: after bring-up every byte of memory is 0). -/
abbrev Memory := List Host.Cell

/-! ## Strand -/

/-- One trap bank (02 R66). -/
structure TrapBank where
  tpc : Word := 0
  tcause : Word := 0
  tval : Word := 0
  tstat : Word := 0
  deriving DecidableEq, Repr

/-- A hardware loop: the registers that RDCTL returns, the active flag, and the latched copy with the count LCNT that
runs the loop (02 R64, 07 R171). -/
structure HwLoop where
  lps : Word := 0
  lpe : Word := 0
  lpc : Word := 0
  active : Bool := false
  ls : Word := 0
  le : Word := 0
  lcnt : Word := 0
  deriving DecidableEq, Repr

/-- A join register (02 R62): armed with a mask and a marker number, or fired. -/
inductive Join where
  | idle
  | armed (mask : Word) (m : BitVec 16)
  | fired (abandoned : Bool)
  deriving DecidableEq, Repr

/-- A marker that has not retired: its engine, its number and what lies ahead of it, the commands by identity or the
stream registers that were running with their binding number (07 R190, 09 R249). -/
structure Marker where
  engine : Nat
  num : BitVec 16
  cmds : List Nat
  streams : List (Nat × Nat)
  deriving DecidableEq, Repr

/-- An open patch-word chain: its class, index and template, and the amendments held, oldest first (06 R153). -/
structure Chain where
  cls : Nat
  idx : Nat
  tpl : Nat
  amends : List (Nat × BitVec 16)
  deriving DecidableEq, Repr

/-- A pending asynchronous trap (12 R307): `src` 1 for a stream, 2 for a refusal. -/
structure AsyncTrap where
  cause : Nat
  tval : Word
  detail : Nat
  src : Nat
  zidx : Nat
  deriving DecidableEq, Repr

/-- The object a strand waits for (07 R197). `step` is a STEP before the phase boundary that it makes, `held` one after it
(01 R35), `transit` a supervisor instruction on a rank in transit (15 R378). The waits from `access` on end with the instruction complete; the others
end with the instruction executed again. -/
inductive Wait where
  | queue (i : Nat)
  | ring (g : Nat) (room : Bool)
  | rendezvous (k : Nat)
  | join (j : Nat)
  | allowance (w : Nat)
  | waiti
  | handle (h : Nat)
  | fence
  | phase
  | step
  | held
  | transit (vr : Nat)
  | engineRoom (e : Nat)
  | pinRoom
  | unitRoom
  | paging (va : Word) (gen : Word)
  | windowIdle (w : Nat)
  | notice (d : XReg)
  | access (id : Nat)
  | csave (d : XReg) (gang : Nat)
  | drain (d : XReg) (value : Word) (ids : List Nat)
  | flush (value : Word)
  deriving DecidableEq, Repr

/-- A handle register (02 R61): valid bit, permissions R W A E from bit 3 down, aperture, peer package, physical address
of the page, its virtual address and size, the engine permission mask, the generation, and the space it was taken in. -/
structure Handle where
  valid : Bool := false
  perm : BitVec 4 := 0
  aper : BitVec 2 := 0
  peer : BitVec 12 := 0
  frame : Nat := 0
  va : Nat := 0
  large : Bool := false
  emask : BitVec 16 := 0
  gen : Word := 0
  sup : Bool := false
  deriving DecidableEq, Repr

/-- An XLATE at `pc` whose handle has not been delivered: its walk's result, invalid while the page is awaited, and the
generation it was made under (07 R182, 13 R326). -/
structure XlateWork where
  pc : Word
  h : Nat
  va : Word
  perm : BitVec 4
  left : Nat
  gen : Word
  handle : Handle
  deriving DecidableEq, Repr

/-- The state of one strand (02 R45, R66; 07 R189 R190 R197; 12 R300). `ext` is the first word of an instruction of two words that
the strand has accepted, one word in a cycle (01 R19). -/
structure Strand where
  x : Vector Word 32
  p : Vector Pred 96
  pc : Word
  lp0 : HwLoop
  lp1 : HwLoop
  dzt : Bool
  sup : Bool
  fpflags : FFlags
  tvec : Word
  tlevel : Nat
  bank1 : TrapBank
  bank2 : TrapBank
  joins : Vector Join 8
  recs : Vector (BitVec 16) 37
  markers : List Marker
  rvPend : Vector Bool 24
  rvGen : Vector (BitVec 32) 24
  chain : Option Chain
  wait : Option Wait
  waitiLeft : Nat
  waited : Nat
  asyncs : List AsyncTrap
  xlates : List XlateWork
  selvr : BitVec 24
  selslot : BitVec 4
  ecCount : Nat
  ext : Option (BitVec 32)
  ended : Bool
  deriving DecidableEq, Repr

/-! ## Core -/

/-- A live tile register: the allocation that made it live, and its buffer (02 R51, 08 R201). -/
structure Tile where
  alloc : Nat
  buf : Buf
  deriving DecidableEq, Repr

/-- The format tag of an accumulator (02 R53). -/
inductive AccTag where
  | f32 | i32 | f64
  deriving DecidableEq, Repr

/-- An accumulator (02 R53, 09 R226). -/
structure Acc where
  tag : AccTag
  buf : Buf
  deriving DecidableEq, Repr

/-- The scales a queue entry carries (09 R225, R239). -/
inductive Scales where
  | none
  | act (rows : List (BitVec 32))
  | weight (sb : BitVec 32)
  deriving DecidableEq, Repr

/-- An entry of a tile queue: its identity, its tag, its scales, and its data once landed (02 R57, 09 R240). `fmt` is
absent for an entry that a V operation wrote, whose tag is a size only (08 R202). -/
structure TEntry where
  id : Nat
  landed : Bool
  data : Buf
  fmt : Option Nat
  esz : Nat
  rows : Nat
  cols : Nat
  scales : Scales
  deriving DecidableEq, Repr

/-- A tile queue q0 to q11: head counter, closed flag and the entries; the tail is the head plus their number. -/
structure TQueue where
  head : BitVec 16
  closed : Bool
  ents : List TEntry
  deriving DecidableEq, Repr

/-- An entry of a scalar queue. -/
structure SEntry where
  id : Nat
  landed : Bool
  data : Word
  deriving DecidableEq, Repr

/-- A scalar queue q12 to q15. -/
structure SQueue where
  head : BitVec 16
  closed : Bool
  ents : List SEntry
  deriving DecidableEq, Repr

/-- Where a pending result lands (02 R65). -/
inductive PDest where
  | tile (r : Nat) (alloc : Nat)
  | acc (a : Nat)
  | oent (i : Nat)
  | pred (i : Nat)
  | tqueue (q : Nat) (id : Nat)
  | squeue (q : Nat) (id : Nat)
  | vlat
  | mlat
  deriving DecidableEq, Repr

/-- A value and the bits of it that are written at the landing. -/
structure PWrite where
  dest : PDest
  value : Buf
  mask : Buf
  deriving DecidableEq, Repr

/-- An addition into an accumulator made at the landing (09 R227, R231): the addends and the selected elements. -/
structure PAccum where
  acc : Nat
  tag : AccTag
  addend : Buf
  elems : List Nat
  deriving DecidableEq, Repr

/-- An entry of the pending-write queue (02 R65, 12 R312): the offset left, what it writes, the flags it sets. A result of the
X column, which takes none of the sixteen entries (06 R151), lands in the same order: `fromX` marks it, `clear` are the flags
that its WRCTL of FPFLAGS clears. -/
structure Pending where
  left : Nat
  writes : List PWrite
  accum : Option PAccum
  flags : FFlags
  clear : FFlags
  fromX : Bool
  deriving DecidableEq, Repr

/-- The states of a stream register (02 R60). -/
inductive ZState where
  | unbound | bound | running | done | faulted
  deriving DecidableEq, Repr

/-- A stream register with the copy of its descriptor and the unit's position (02 R60, 09 R234 R242). `serial` tells
bindings apart; `idxTaken` are the indices taken for the entry in progress; the group fields are those of 09 R238; `laid` are the
bytes of the own scratchpad, by offset, that the copy which started the stream has written (05 R131, 09 R256). -/
structure Stream where
  st : ZState := .unbound
  descAddr : Nat := 0
  desc : BitVec 512 := 0
  q : Nat := 0
  serial : Nat := 0
  ordinal : Nat := 0
  count : BitVec 16 := 0
  idxTaken : List (BitVec 32) := []
  grp : Nat := 0
  grpLoaded : Bool := false
  gstart : Nat := 0
  gcount : Nat := 0
  gt : Nat := 0
  laid : List (Nat × Byte) := []
  deriving DecidableEq, Repr

/-- The state of one core of a gang (02 R45). The scratchpad and the rings belong to the slot, since they persist. -/
structure Core where
  coreno : Nat
  member : Nat
  l : Strand
  c : Strand
  s : Strand
  shape : Word
  tiles : Vector (Option Tile) 16
  accs : Vector Acc 4
  ofile : Vector OEntry 8
  vlat : Buf
  mlat : Buf
  tq : Vector TQueue 12
  sq : Vector SQueue 4
  pwq : List Pending
  vBusy : Nat
  mBusy : Nat
  sinceIssue : Nat
  frozen : Bool
  streams : Vector Stream 16
  handles : Vector Handle 16
  nextId : Nat
  deriving DecidableEq, Repr

/-! ## Gang -/

/-- A rendezvous point (02 R63). -/
structure RvPoint where
  count : Nat
  arrivals : Nat
  gen : BitVec 32
  deriving DecidableEq, Repr

/-- A launch record of 128 bytes with the entry table of 384 bytes copied at its posting (14 R338, R345). -/
structure LaunchRec where
  raw : BitVec 1024
  etab : BitVec 3072
  deriving DecidableEq, Repr

/-- The condition of a posted gang (14 R337, R343 to R345, 12 R308). `halting` and `saved` carry the frame slot and WHY. -/
inductive GCond where
  | waiting
  | ready
  | starting
  | placed
  | halting (slot : Nat) (why : Nat)
  | saved (slot : Nat) (why : Nat) (restore : Bool)
  deriving DecidableEq, Repr

/-- Who posted a gang (01 R27). -/
inductive GSource where
  | launch | hostQueue (slot : Nat) | sched (e : Nat) | pcp
  deriving DecidableEq, Repr

/-- A gang of a rank (01 R25, 14 R337). `levels` are the priority levels gained and `readyCycles` the cycles towards the next
(14 R342); `pads` and `rings` hold the scratchpads and ring registers of a gang whose frame is being read or travels (12 R312). -/
structure Gang where
  id : Nat
  launch : LaunchRec
  source : GSource
  age : Nat
  levels : Nat
  readyCycles : Nat
  cond : GCond
  cycle : Word
  rvs : Vector RvPoint 24
  cores : List Core
  pads : Memory
  rings : List (Nat × Word)
  deriving DecidableEq, Repr

/-! ## Rank -/

/-- Where a store goes: a scratchpad of the slot (core × 2^19 + offset), memory of this package, host memory, another package. -/
inductive StoreTo where
  | scratch (addr : Nat)
  | phys (addr : Nat)
  | host (addr : Nat)
  | peer (pkg : Nat) (addr : Nat)
  deriving DecidableEq, Repr

/-- A buffered store of the phase (05 R117): the issuing core, strand and gang, where it goes, its bytes from the lowest
address, the virtual address it named, its place in the order of the rank's stores, and whether it has left for another package. -/
structure BStore where
  core : Nat
  strand : StrandId
  gang : Nat
  dst : StoreTo
  bytes : List Byte
  va : Word
  order : Nat := 0
  sent : Bool := false
  deriving DecidableEq, Repr

/-- One byte that a retired engine command wrote (05 R453), in the order of the command. -/
structure EByte where
  dst : StoreTo
  val : Byte
  deriving DecidableEq, Repr

/-- The writes of one engine command that retired in the phase (05 R122 step 3). -/
structure EWrites where
  core : Nat
  strand : StrandId
  order : Nat
  bytes : List EByte
  deriving DecidableEq, Repr

/-- A posted window write held at the target's owner's port (05 R122 step 4). -/
structure PostedW where
  srcVr : Nat
  srcCore : Nat
  srcStrand : StrandId
  order : Nat
  core : Nat
  off : Nat
  bytes : List Byte
  deriving DecidableEq, Repr

/-- What an access in flight does (07 R162): the destination register, the size code, the operands it carries. `cmdLoad` and
`cmdStore` are accesses of an engine command at another package (10 R270): the command, and where the bytes stand in it. -/
inductive AccOp where
  | load (d : XReg) (sz : Nat)
  | atom (op : AtomOp) (d : XReg) (sz : Nat) (v : Word)
  | acas (d : XReg) (sz : Nat) (expected new : Word)
  | fxadd (sigma : BitVec 9) (v : BitVec 32)
  | fxrd (d : XReg) (sigma : BitVec 9)
  | store (bytes : List Byte)
  | cmdLoad (id pos n : Nat)
  | cmdStore (id : Nat) (bytes : List Byte)
  deriving DecidableEq, Repr

/-- Where an access in flight goes. -/
inductive AccTo where
  | phys (addr : Nat)
  | host (addr : Nat)
  | peer (pkg : Nat) (addr : Nat)
  | window (w : Nat) (vr : Nat) (core : Nat) (off : Nat)
  deriving DecidableEq, Repr

/-- An access that has left its core and has not performed (07 R162, R197; 13 R336). `hold` is whether its strand holds
for it; `sent` whether its demand flit has left; `slots` counts fabric slots since it was sent or last kept waiting;
`resend` counts the slots to a resend after a full fault queue. -/
structure Access where
  id : Nat
  by' : SRef
  op : AccOp
  dst : AccTo
  va : Word
  hold : Bool
  viaHandle : Bool
  sent : Bool
  slots : Nat
  resend : Option Nat
  order : Nat
  deriving DecidableEq, Repr

/-- A collective graph in its slot (10 R274 to R276): header, tree descriptors and op records as loaded. -/
structure Graph where
  header : BitVec 128
  trees : List (BitVec 128)
  ops : List (BitVec 256)
  deriving DecidableEq, Repr

/-- A chunk of a collective in a landing area (10 R277), whole once its last frame has come (17 R423). -/
structure Chunk where
  slot : Nat
  replay : Nat
  endpoint : Nat
  src : Nat
  tag : Nat
  bytes : List Byte
  whole : Bool
  deriving DecidableEq, Repr

/-- The state of a pipeline schedule table (14 R362). -/
inductive SchedSt where
  | idle | loaded | ready | busy | halting | halted | done | fault
  deriving DecidableEq, Repr

/-- The pipeline schedule table of a rank: image, record blocks and dynamic state (14 R355 to R357, R361). -/
structure Sched where
  st : SchedSt
  header : BitVec 256
  entries : List (BitVec 256)
  recs : List (BitVec 4096)
  supLoaded : Bool
  pos : Nat
  stash : Nat
  acr : Nat
  gcr : Nat
  arra : List Nat
  arrg : List Nat
  ainu : Nat
  ginu : Nat
  posted : Bool
  outst : Bool
  entryDone : List (Nat × Bool)
  bubin : Word
  bubdn : Word
  bubst : Word
  deriving DecidableEq, Repr

/-- A completion record (14 R340). -/
structure Completion where
  value : BitVec 16
  abandoned : Bool
  deriving DecidableEq, Repr

/-- A pair of template planes: 64 templates of 512 bits, template t at bits 512t up (09 R259), and a pending swap. -/
structure Planes where
  active : BitVec 32768
  staging : BitVec 32768
  swap : Bool
  deriving DecidableEq, Repr

/-- A context-frame slot that is occupied, and by which gang (12 R296, R310). -/
structure FrameSlot where
  slot : Nat
  gang : Nat
  deriving DecidableEq, Repr

/-- Where a rank of this package is (15 R366). -/
inductive RPlace where
  | resident (slot : Nat)
  | fallow
  | transit
  deriving DecidableEq, Repr

/-- How far a rank has come at its step boundary (01 R35, R36). -/
inductive StepSt where
  | running | arrived
  deriving DecidableEq, Repr

/-- A rank that this package holds (01 R15; 02 R45, R66, R69; 12 R295). `migSwap` is a TSWAP of class 2 that one of its
supervisor strands has requested (09 R262); `walk` is set when the task unit is to walk the ready gangs (14 R343); `closing` while
a boundary or a quiescent commit of the rank is under way (01 R32); `abroad` when it has reached another package in the phase. -/
structure Rank where
  vr : Nat
  job : Nat
  place : RPlace
  gangs : List Gang
  phaseno : Word
  stepno : Word
  stepSt : StepSt
  ptroot : Word
  ovf : Word
  ovfForce : Word
  engways : Word
  jobseed : Word
  frpool : Word
  frames : List FrameSlot
  gen : Word
  stephold : Bool
  wtbl : Vector Word 16
  walLimit : Vector (BitVec 16) 16
  walOut : Vector (BitVec 16) 16
  sched : Sched
  completions : Vector Completion 64
  graphs : List (Nat × Graph)
  replays : List (Nat × BitVec 32)
  migSwap : Bool
  copyPlanes : Planes
  collPlanes : Planes
  granPlanes : Planes
  landing : List Chunk
  sbuf : List BStore
  engView : List EWrites
  posted : List PostedW
  accesses : List Access
  coupling : Option Nat
  pagedOnce : List (Nat × Nat)
  walk : Bool
  closing : Bool
  abroad : Bool
  deriving DecidableEq, Repr

/-- A job loaded on this package (17 R429): its identity, N, seed, the coupling group of each coupled VR (01 R34), and the
ranks held elsewhere that have arrived at the step boundary. -/
structure Job where
  id : Nat
  n : Nat
  seed : Word
  groups : List (Nat × Nat)
  arrived : List Nat
  deriving DecidableEq, Repr

end Sys2Proof.Machine
end

