-- ==== Sys2Proof/Syntax.lean ====
section
/-! DEFINITION. The instruction set: one constructor per row of spec/opcode_table.json. The first part is the encoded
words of L, S and the X column (06 R135 to R149); the second part is the events, the steps of the machine that no word
encodes (95), each with what it needs to be told: an index into the state, or what an outside party sends. -/

namespace Sys2Proof

/-- The header of a demand flit (17 R414): destination and source package, destination and source rank, request number. -/
structure DHdr where
  dpkg : Nat
  spkg : Nat
  dvr : Nat
  svr : Nat
  seq : Nat
  deriving DecidableEq, Repr

/-- What a remote access names at its target: a physical address, or a core and a byte of its scratchpad. -/
inductive RTo where
  | phys (addr : Nat)
  | window (core : Nat) (off : Nat)
  deriving DecidableEq, Repr

/-- What a remote atomic does at its home: ATOM, ACAS, FXADD. -/
inductive RAtom where
  | atom (op : AtomOp) (sz : Nat) (v : BitVec 64)
  | acas (sz : Nat) (expected new : BitVec 64)
  | fxadd (sigma : BitVec 9) (v : BitVec 32)
  deriving DecidableEq, Repr

/-- A gather on its way (16 R395, R396): the submitting package and its command, the shard, the blocks and the step. -/
structure GatherMsg where
  dom : Nat
  pkg : Nat
  cmd : Nat
  job : Nat
  shard : Nat
  block : Nat
  nblk : Nat
  step : Nat
  deriving DecidableEq, Repr

/-- A gradient block (16 R383) with the shard it is addressed to and the domain and package of the root holder that keeps it;
`payload` holds 16,384 FP32 encodings. -/
structure GBlock where
  sdom : Nat
  spkg : Nat
  job : Nat
  shard : Nat
  block : Nat
  step : Nat
  ecnt : Nat
  fmt : Nat
  payload : List (BitVec 32)
  crc : BitVec 32
  deriving DecidableEq, Repr

/-- A shard record (16 R381). -/
structure ShardRec where
  job : Nat
  shard : Nat
  role : Nat
  efmt : Nat
  rule : Nat
  elems : Nat
  c : Nat
  p1 : BitVec 32
  p2 : BitVec 32
  hp : List (BitVec 32)
  sbase : Nat
  ebase : Nat
  mv : Bool
  mdom : Nat
  mpkg : Nat
  hdom : Nat
  hpkg : Nat
  bmap : Nat
  tclose : Nat
  deriving DecidableEq, Repr

/-- A demand message by kind (17 R414). -/
inductive Demand where
  | remoteLoad (q : DHdr) (tgt : RTo) (n : Nat)
  | loadData (q : DHdr) (bytes : List Byte)
  | postedWrite (q : DHdr) (tgt : RTo) (core : Nat) (strand : StrandId) (order : Nat) (bytes : List Byte)
  | writeAck (q : DHdr)
  | atomic (q : DHdr) (addr : Nat) (op : RAtom)
  | atomicResult (q : DHdr) (old : BitVec 64)
  | keepWaiting (q : DHdr)
  | refusal (q : DHdr) (detail : Nat)
  | schedArrival (q : DHdr) (grad : Bool) (mb : Nat) (step : BitVec 64)
  | slotPost (q : DHdr) (grad : Bool) (count : Nat) (step : BitVec 64)
  | transferAck (q : DHdr) (fid xfer : Nat)
  | transferNack (q : DHdr) (fid xfer : Nat)
  | placement (q : DHdr) (vr : Nat) (entry : BitVec 64)
  | directory (q : DHdr) (job shard : Nat) (mv : Bool) (mdom mpkg hdom hpkg : Nat) (target : Option ShardRec)
  | gather (q : DHdr) (g : GatherMsg)
  | blockAck (q : DHdr) (job shard block step : Nat)
  deriving DecidableEq, Repr

/-- A scheduled flit (17 R407): furrow, index, transfer number, 56 bytes of payload. -/
structure Flit where
  fid : Nat
  idx : Nat
  xfer : Nat
  payload : BitVec 448
  deriving DecidableEq, Repr

/-- A node of a collective tree at one package (10 R280): graph slot, tree index, group, replay number, range. -/
structure TreeKey where
  job : Nat
  slot : Nat
  tree : Nat
  lo : Nat
  hi : Nat
  replay : Nat
  pos : Nat
  len : Nat
  deriving DecidableEq, Repr

/-- The consumer of the transfers of a furrow that this package terminates (17 R411). A node's value comes with what its tree
needs: the operator and format, the record width, the descriptor, the tag of the lowest rank's REDUCE (10 R275 to R283). -/
inductive Consumer where
  | landing (vr slot endpoint src tag : Nat)
  | node (key : TreeKey) (level k : Nat) (opf : BitVec 16) (recw : Nat) (desc : BitVec 128) (tag : Nat)
  | granary (job shard : Nat)
  | boundary (group : Nat)
  deriving DecidableEq, Repr

/-- A value of a tree that is consumed by a node held elsewhere, and the furrow that leads to it (10 R282): value `k` of
`level` in the loop of R280, leaves at level 0. -/
structure NodeHold where
  slot : Nat
  tree : Nat
  level : Nat
  k : Nat
  pkg : Nat
  fid : Nat
  deriving DecidableEq, Repr

/-- The boundary furrow of a coupling group (17 R415): its FID, period, offset and latency. -/
structure BoundaryFurrow where
  group : Nat
  fid : Nat
  per : Nat
  off : Nat
  lat : Nat
  deriving DecidableEq, Repr

/-- What the PCP loads with the furrow table (17 R408): the period, the entries, the origins and the consumer of each furrow
that this package terminates, the holders of tree nodes, the furrows for chunks and granary blocks by key, and the boundary
furrows. -/
structure FurrowLoad where
  sper : Nat
  entries : List (BitVec 128)
  consumers : List (Nat × List Nat × Consumer)
  holders : List NodeHold
  routes : List (Nat × Nat)
  boundary : List BoundaryFurrow
  deriving DecidableEq, Repr

/-- The transport header of a frame as its receiver sees it (17 R423), with the port, the package it came from and
whether its CRC holds. -/
structure FrameHdr where
  port : Nat
  dom : Nat
  pkg : Nat
  seq : Nat
  ackseq : Nat
  last : Bool
  endpt : Nat
  dvr : Nat
  svr : Nat
  tag : Nat
  replay : Nat
  offset : Nat
  crcOk : Bool
  deriving DecidableEq, Repr

/-- A part of a migration as it reaches the destination (17 R426): bytes of a page or a table in a frame of the destination, or
the rank's state in the engine's own form (15 R376) with the job and its placement entries, of which every package that holds a rank of
it has a copy (15 R367). -/
inductive MigPart where
  | page (addr : Nat) (bytes : List Byte)
  | rank (r : Machine.Rank) (job : Option Machine.Job) (entries : List (Nat × BitVec 64))
  deriving DecidableEq, Repr

/-- A rank as the supervisor places it at job load (15 R367). -/
structure RankPlan where
  vr : Nat
  slot : Option Nat
  ptroot : BitVec 64
  coupling : Option Nat
  planes : BitVec 32768 × BitVec 32768 × BitVec 32768
  deriving DecidableEq, Repr

/-- What LOADJOB leaves in this package, as the loader makes it from the image's sections (17 R432, R433): the ranks it
holds, the placement entries of the job, the coupling group of each coupled VR, the bytes of memory and of scratchpads by slot and place, the rule
slots, the gangs that the runtime posts, the compute records of each program of the portable section with the address of its code (R434, R435), and
the class-2 templates of an image that has any (09 R259). -/
structure LoadPlan where
  job : Nat
  ranks : List RankPlan
  entries : List (Nat × BitVec 64)
  groups : List (Nat × Nat)
  bytes : List (Nat × BitVec 8)
  scratch : List (Nat × Nat × BitVec 8)
  rules : List (Nat × List (BitVec 32))
  gangs : List (Nat × Machine.LaunchRec)
  records : List (Nat × List (BitVec 128))
  migr : Option (BitVec 32768)
  deriving DecidableEq, Repr

/-- The outcome of a bring-up stage (17 R436): whether it completed, and what it establishes; the time base where this package is one of
the first of its domain (17 R405). -/
structure StageEnd where
  ok : Bool
  good : BitVec 16
  pkgid : BitVec 64
  fwver : BitVec 16
  dtb : Option (BitVec 64)
  deriving DecidableEq, Repr

/-- Where an uncorrectable error was consumed (17 R439): by a strand, or by a strand's page-table walk, and so on. -/
inductive EccSite where
  | gang (r : SRef)
  | walk (r : SRef)
  | engine (e : Nat) (slot : Nat)
  | shard (job shard : Nat)
  | flit (fid xfer : Nat)
  | command (id : Nat)
  deriving DecidableEq, Repr

/-- How the runtime serves a request for an atomic permit (18 R442): remap, or migrate into a frame. -/
inductive Permit where
  | remap | migrate (frame : Nat)
  deriving DecidableEq, Repr


/-- A rank by its job and its VR, which counts from 0 in each job (01 R14). -/
structure JobRank where
  job : Nat
  vr : Nat
  deriving DecidableEq, Repr

/-- The instructions and events of the machine. -/
inductive Instr where
  /-- NOP: Does nothing (R193). -/
  | nop
  /-- FEAT: Writes the feature word of a selector into rd (R195). -/
  | feat (d : XReg) (s : BitVec 12)
  /-- RDCTL: Reads a control register into rd (R194). -/
  | rdctl (d : XReg) (c : BitVec 12)
  /-- SHAPE_WRITE: WRCTL of SHAPE from C sets the shape from the next bundle (R50). -/
  | shapeWrite (a : XReg)
  /-- FPFLAGS_CLEAR: WRCTL of FPFLAGS clears the flags written as 1 (R68). -/
  | fpflagsClear (a : XReg)
  /-- LOOP_REGISTER_WRITE: WRCTL to LPS, LPE or LPC changes what RDCTL returns but not the running loop (R64). -/
  | loopRegisterWrite (a : XReg) (k : BitVec 3)
  /-- RING_REGISTER_WRITE: WRCTL of a ring register replaces all fields or raises ILLOP (R59). -/
  | ringRegisterWrite (a : XReg) (g : GReg)
  /-- WAL_WRITE: WRCTL of WALn.LIMIT clamps it to 1..ceiling (R69). -/
  | walWrite (a : XReg) (n : BitVec 4)
  /-- WRCTL: Writes a control register that has no row of its own from ra (R194). -/
  | wrctl (a : XReg) (c : BitVec 12)
  /-- RAND: Writes the Threefry draw RNG(s, n) for the current step into rd (R196). -/
  | rand (d : XReg) (a : XReg) (s : BitVec 4)
  /-- EXIT: Ends the strand; L's EXIT closes the core's queues and unbinds the strand's streams (R193). -/
  | exit
  /-- TRAP: Raises SWTRAP with the code as TVAL (R193). -/
  | trap (n : BitVec 12)
  /-- WAITI: Holds the strand for n arithmetic-clock cycles while the gang is placed (R193). -/
  | waiti (n : BitVec 12)
  /-- ADD: Adds two registers modulo 2^n (R163). -/
  | add (d : XReg) (a : XReg) (b : XReg) (w : Bool)
  /-- SUB: Subtracts two registers modulo 2^n (R163). -/
  | sub (d : XReg) (a : XReg) (b : XReg) (w : Bool)
  /-- AND: Bitwise and (R163). -/
  | and (d : XReg) (a : XReg) (b : XReg) (w : Bool)
  /-- OR: Bitwise or (R163). -/
  | or (d : XReg) (a : XReg) (b : XReg) (w : Bool)
  /-- XOR: Bitwise exclusive or (R163). -/
  | xor (d : XReg) (a : XReg) (b : XReg) (w : Bool)
  /-- ANDN: Bitwise a and not b (R163). -/
  | andn (d : XReg) (a : XReg) (b : XReg) (w : Bool)
  /-- SHL: Shifts left by b (R163). -/
  | shl (d : XReg) (a : XReg) (b : XReg) (w : Bool)
  /-- SHR: Shifts right logically by b (R163). -/
  | shr (d : XReg) (a : XReg) (b : XReg) (w : Bool)
  /-- SAR: Shifts right arithmetically by b (R163). -/
  | sar (d : XReg) (a : XReg) (b : XReg) (w : Bool)
  /-- ROT: Rotates left by b (R163). -/
  | rot (d : XReg) (a : XReg) (b : XReg) (w : Bool)
  /-- MUL: Multiplies modulo 2^n (R163). -/
  | mul (d : XReg) (a : XReg) (b : XReg) (w : Bool)
  /-- MULH: High half of the signed product (R163). -/
  | mulh (d : XReg) (a : XReg) (b : XReg) (w : Bool)
  /-- MULHU: High half of the unsigned product (R163). -/
  | mulhu (d : XReg) (a : XReg) (b : XReg) (w : Bool)
  /-- DIV: Signed division truncating toward zero, trapping DIVZ on zero when DZT is set (R164). -/
  | div (d : XReg) (a : XReg) (b : XReg) (w : Bool)
  /-- DIVU: Unsigned division (R164). -/
  | divu (d : XReg) (a : XReg) (b : XReg) (w : Bool)
  /-- REM: Signed remainder (R164). -/
  | rem (d : XReg) (a : XReg) (b : XReg) (w : Bool)
  /-- REMU: Unsigned remainder (R164). -/
  | remu (d : XReg) (a : XReg) (b : XReg) (w : Bool)
  /-- MIN: Signed minimum (R163). -/
  | min (d : XReg) (a : XReg) (b : XReg) (w : Bool)
  /-- MAX: Signed maximum (R163). -/
  | max (d : XReg) (a : XReg) (b : XReg) (w : Bool)
  /-- MINU: Unsigned minimum (R163). -/
  | minu (d : XReg) (a : XReg) (b : XReg) (w : Bool)
  /-- MAXU: Unsigned maximum (R163). -/
  | maxu (d : XReg) (a : XReg) (b : XReg) (w : Bool)
  /-- ADDS: Signed saturating add (R163). -/
  | adds (d : XReg) (a : XReg) (b : XReg) (w : Bool)
  /-- SUBS: Signed saturating subtract (R163). -/
  | subs (d : XReg) (a : XReg) (b : XReg) (w : Bool)
  /-- CLZ: Counts leading zero bits (R163). -/
  | clz (d : XReg) (a : XReg) (w : Bool)
  /-- POPC: Counts one bits (R163). -/
  | popc (d : XReg) (a : XReg) (w : Bool)
  /-- SEXT: Sign-extends a byte, half or word (R163). -/
  | sext (d : XReg) (a : XReg) (k : BitVec 2)
  /-- ZEXT: Zero-extends a byte, half or word (R163). -/
  | zext (d : XReg) (a : XReg) (k : BitVec 2)
  /-- ADDI: Adds a sign-extended immediate (R165). -/
  | addi (d : XReg) (a : XReg) (i : BitVec 16)
  /-- ANDI: Ands a zero-extended immediate (R165). -/
  | andi (d : XReg) (a : XReg) (i : BitVec 16)
  /-- ORI: Ors a zero-extended immediate (R165). -/
  | ori (d : XReg) (a : XReg) (i : BitVec 16)
  /-- XORI: Exclusive-ors a zero-extended immediate (R165). -/
  | xori (d : XReg) (a : XReg) (i : BitVec 16)
  /-- SHLI: Shifts left by an immediate (R166). -/
  | shli (d : XReg) (a : XReg) (w : Bool) (n : BitVec 6)
  /-- SHRI: Shifts right logically by an immediate (R166). -/
  | shri (d : XReg) (a : XReg) (w : Bool) (n : BitVec 6)
  /-- SARI: Shifts right arithmetically by an immediate (R166). -/
  | sari (d : XReg) (a : XReg) (w : Bool) (n : BitVec 6)
  /-- ROTI: Rotates left by an immediate (R166). -/
  | roti (d : XReg) (a : XReg) (w : Bool) (n : BitVec 6)
  /-- LI: Loads a sign-extended immediate (R165). -/
  | li (d : XReg) (i : BitVec 16)
  /-- LIS: Shifts rd left 16 and ors in an immediate (R165). -/
  | lis (d : XReg) (i : BitVec 16)
  /-- CMP: Compares two registers under cc into bit 0 of a predicate (R167). -/
  | cmp (p : PReg) (a : XReg) (b : XReg) (c : Cond) (w : Bool)
  /-- CMPI: Compares a register with a signed immediate into a predicate (R167). -/
  | cmpi (p : PReg) (a : XReg) (c : Cond) (i : BitVec 10)
  /-- PAND: Predicate and (R168). -/
  | pand (d : PReg) (a : PReg) (b : PReg)
  /-- POR: Predicate or (R168). -/
  | por (d : PReg) (a : PReg) (b : PReg)
  /-- PXOR: Predicate exclusive or (R168). -/
  | pxor (d : PReg) (a : PReg) (b : PReg)
  /-- PANDN: Predicate and-not (R168). -/
  | pandn (d : PReg) (a : PReg) (b : PReg)
  /-- PNOT: Predicate not (R168). -/
  | pnot (d : PReg) (a : PReg)
  /-- PMOV: Predicate move (R168). -/
  | pmov (d : PReg) (a : PReg)
  /-- PSET: Sets a predicate to 1 (R168). -/
  | pset (d : PReg)
  /-- PCLR: Clears a predicate to 0 (R168). -/
  | pclr (d : PReg)
  /-- SEL: Selects ra or rb by a predicate (R169). -/
  | sel (d : XReg) (a : XReg) (b : XReg) (p : PReg)
  /-- BR: Branches by a signed word offset (R170). -/
  | br (o : BitVec 26)
  /-- BRP: Branches if a predicate, optionally inverted, holds (R170). -/
  | brp (p : PReg) (n : Bool) (o : BitVec 18)
  /-- CALL: Writes the return address to x31 and branches (R170). -/
  | call (o : BitVec 26)
  /-- JR: Jumps to a register, writing the return address into rd (R170). -/
  | jr (d : XReg) (a : XReg)
  /-- LPSET: Starts a hardware loop with a count from a register (R171). -/
  | lpset (l : Bool) (c : XReg) (e : BitVec 20)
  /-- LPSETI: Starts a hardware loop with an immediate count (R171). -/
  | lpseti (l : Bool) (c : BitVec 13) (e : BitVec 12)
  /-- LD: Loads from global memory through a handle (R176). -/
  | ld (d : XReg) (h : HReg) (i : XReg) (s : BitVec 2) (o : BitVec 10)
  /-- ST: Buffers a store to global memory through a handle (R176). -/
  | st (d : XReg) (h : HReg) (i : XReg) (s : BitVec 2) (o : BitVec 10)
  /-- SLD: Loads from scratch space (R175). -/
  | sld (d : XReg) (a : XReg) (s : BitVec 2) (o : BitVec 14)
  /-- SST: Stores to scratch space, at once, buffered or posted through a window (R175). -/
  | sst (d : XReg) (a : XReg) (s : BitVec 2) (o : BitVec 14)
  /-- ATOM: Performs an atomic operation selected by aop at the home (R177). -/
  | atom (d : XReg) (h : HReg) (i : XReg) (v : XReg) (o : AtomOp) (s : Bool)
  /-- ACAS: Compare-and-swap at the home, holding for the answer (R178). -/
  | acas (d : XReg) (h : HReg) (i : XReg) (n : XReg) (s : Bool)
  /-- FXADD: Posts a scaled FP32 addend into a 128-bit fixed cell (R179). -/
  | fxadd (v : XReg) (h : HReg) (i : XReg) (s : BitVec 9)
  /-- FXRD: Reads a fixed cell as committed at phase start and converts it to FP32 (R180). -/
  | fxrd (v : XReg) (h : HReg) (i : XReg) (s : BitVec 9)
  /-- XLATE: Walks the page tables and places a handle with the requested permissions (R181). -/
  | xlate (h : HReg) (a : XReg) (p : BitVec 4)
  /-- HREL: Clears a handle's valid bit (R183). -/
  | hrel (h : HReg)
  /-- HCHK: Writes a handle's validity into a predicate (R183). -/
  | hchk (s : HReg) (p : PReg)
  /-- HMOV: Copies a handle between registers (R183). -/
  | hmov (h : HReg) (s : HReg)
  /-- QPUSH: Pushes a scalar into a queue or ring, waiting for room (R185). -/
  | qpush (d : XReg) (c : Bool) (i : BitVec 4)
  /-- QPOP: Pops an entry from a queue or ring, waiting for data (R185). -/
  | qpop (d : XReg) (c : Bool) (i : BitVec 4)
  /-- QPEEK: Reads the head entry without removing it (R185). -/
  | qpeek (d : XReg) (c : Bool) (i : BitVec 4)
  /-- QCLOSE: Closes a queue that L feeds (R185). -/
  | qclose (i : BitVec 4)
  /-- QWAIT_DATA: Waits until a queue or ring holds an entry (R187). -/
  | qwaitData (c : Bool) (i : BitVec 4) (l : BitVec 19)
  /-- QWAIT_ROOM: Waits until a queue or ring has room (R187). -/
  | qwaitRoom (c : Bool) (i : BitVec 4) (l : BitVec 19)
  /-- SDESC: Sets a stream register's descriptor address (R244). -/
  | sdesc (z : ZReg) (x : XReg)
  /-- SSET: Stores one descriptor field (R245). -/
  | sset (z : ZReg) (f : BitVec 4) (x : XReg)
  /-- SBIND: Reads the descriptor and starts the stream into a queue (R246). -/
  | sbind (z : ZReg) (q : BitVec 4)
  /-- SUNBIND: Stops a stream at an entry boundary (R247). -/
  | sunbind (z : ZReg)
  /-- SSTAT: Returns a stream's state word (R248). -/
  | sstat (z : ZReg) (d : XReg)
  /-- PHASE: Fences the strand and waits at the phase boundary (R31). -/
  | phase
  /-- RVINIT: Sets a rendezvous point's count (R63). -/
  | rvinit (a : BitVec 5) (c : BitVec 12)
  /-- RVARR: Records an arrival at a rendezvous point (R189). -/
  | rvarr (a : BitVec 5)
  /-- RVWAIT: Arrives if needed and waits for the generation to complete (R189). -/
  | rvwait (a : BitVec 5)
  /-- CFENCE: Waits until every earlier access of the strand has performed (R119). -/
  | cfence
  /-- MARK: Places a numbered marker behind the strand's work on an engine (R190). -/
  | mark (b : XReg) (e : BitVec 6)
  /-- MJOIN: Arms a join with an engine mask and marker number (R191). -/
  | mjoin (a : XReg) (b : XReg) (j : BitVec 3)
  /-- MWAIT: Returns or waits for a join's state (R192). -/
  | mwait (a : XReg) (b : XReg) (j : BitVec 3)
  /-- STEP: Acts as PHASE and holds the rank at its step boundary (R35). -/
  | step
  /-- EC: Passes a patch word to an engine, holding the chain or submitting the command (R250). -/
  | ec (c : BitVec 4) (i : BitVec 6) (p : BitVec 32)
  /-- ECR: Passes a patch word from a register to an engine (R250). -/
  | ecr (c : BitVec 4) (i : BitVec 6) (s : XReg)
  /-- TLOAD: Loads a whole staging plane after a CRC check (R261). -/
  | tload (c : BitVec 3) (a : XReg)
  /-- TDIFF: Patches a copy of the active plane into staging after a CRC check (R261). -/
  | tdiff (c : BitVec 3) (a : XReg)
  /-- TSWAP: Requests that the staging plane become active at the phase boundary (R262). -/
  | tswap (c : BitVec 3)
  /-- TCRC: Returns the CRC-32C of the active plane (R263). -/
  | tcrc (c : BitVec 3) (a : XReg)
  /-- TRET: Returns one trap level (R305). -/
  | tret
  /-- RDSYS: Reads a system register (R295). -/
  | rdsys (d : XReg) (i : BitVec 11)
  /-- L2CTL_WRITE: WRSYS of L2CTL switches the L2 mode after a full write-back (R294). -/
  | l2ctlWrite (a : XReg)
  /-- NRING_WRITE: WRSYS configuring the notice ring (R299). -/
  | nringWrite (a : XReg)
  /-- FRPOOL_WRITE: WRSYS of FRPOOL, refused while slots are occupied (R296). -/
  | frpoolWrite (a : XReg)
  /-- STEPHOLD_WRITE: WRSYS of STEPHOLD holds or releases the step collective (R372). -/
  | stepholdWrite (a : XReg)
  /-- WTBL_WRITE: WRSYS of a window table entry, setting WAL LIMIT to CEIL (R103). -/
  | wtblWrite (a : XReg) (n : BitVec 4)
  /-- WRSYS: Writes a system register that has no row of its own (R295). -/
  | wrsys (a : XReg) (i : BitVec 11)
  /-- LDOVF: Loads the rank's overflow table, in force from the next boundary (R298). -/
  | ldovf (a : XReg)
  /-- CSAVE: Pre-empts a gang into a frame slot and holds until the frame is complete (R297). -/
  | csave (d : XReg) (a : XReg)
  /-- CREST: Posts a saved frame for restore (R314). -/
  | crest (d : XReg) (a : XReg)
  /-- SHOOT: Shoots down a page, bumps GEN and holds until old accesses perform (R323). -/
  | shoot (d : XReg) (a : XReg) (s : Bool)
  /-- PLOCK: Takes one pin on a page (R328). -/
  | plock (d : XReg) (a : XReg)
  /-- PINQ: Returns the pin count naming a physical frame (R329). -/
  | pinq (d : XReg) (a : XReg)
  /-- PUNLOCK: Releases one pin of a page (R328). -/
  | punlock (d : XReg) (a : XReg)
  /-- VMAP: Replaces PTROOT and invalidates every handle of the rank (R297). -/
  | vmap (d : XReg) (a : XReg)
  /-- KILL: Kills or discards a gang of the selected rank (R297). -/
  | kill (d : XReg) (a : XReg)
  /-- IDLE: Holds until a notice waits or a cycle limit expires (R297). -/
  | idle (d : XReg) (a : XReg)
  /-- GLAUNCH: Posts a gang launch record or reports its refusal (R347). -/
  | glaunch (d : XReg) (a : XReg)
  /-- GKILL: Kills or discards a gang of the rank (R348). -/
  | gkill (d : XReg) (a : XReg)
  /-- GSTAT: Reports a gang's condition or a completion record (R349). -/
  | gstat (d : XReg) (a : XReg)
  /-- SCHLD: Loads a schedule-table image (R364). -/
  | schld (d : XReg) (a : XReg)
  /-- SCHGO: Starts the schedule table, posting initial credits (R362). -/
  | schgo (d : XReg) (a : XReg)
  /-- SCHHALT: Halts the schedule table (R362). -/
  | schhalt (d : XReg)
  /-- SCHSTAT: Returns the schedule table's state word (R364). -/
  | schstat (d : XReg)
  /-- SLOTPOST: Releases input buffers and posts slots to a neighbour (R364). -/
  | slotpost (a : XReg) (b : XReg)
  /-- WAITI_EXPIRY: The WAITI count runs out and the strand continues (R193). -/
  | waitiExpiry (r : SRef)
  /-- XLATE_DELIVER: The handle of an XLATE becomes usable 6 cycles after issue or after its walk (R182); the strand and its handle register. -/
  | xlateDeliver (r : SRef) (h : Nat)
  /-- QTIMEOUT: The QWAIT limit expires and QTIMEOUT is raised (R187). -/
  | qtimeout (r : SRef)
  /-- LOAD_STREAM_ENTRY: The load stream unit produces one tagged entry into its queue when room exists (R236); the core and the stream register. -/
  | loadStreamEntry (r : SRef) (z : Nat)
  /-- STORE_STREAM_DRAIN: The store stream unit drains one landed entry to scratch space (R240); the core and the stream register. -/
  | storeStreamDrain (r : SRef) (z : Nat)
  /-- MJTIMEOUT: The MWAIT limit expires and MJTIMEOUT is raised (R192). -/
  | mjtimeout (r : SRef)
  /-- MARKER_RETIRE: Everything ahead of a marker has retired and the engine sets the retire record (R190); the strand and the engine number. -/
  | markerRetire (r : SRef) (e : Nat)
  /-- IDLE_EXPIRY: The IDLE limit expires and the strand continues with 0 (R297). -/
  | idleExpiry (r : SRef)
  /-- BUNDLE_ISSUE: C issues its next bundle once delay, columns, pending-write room and queues allow (R150); the header, M, V and X words of the bundle at the pc of the acting C strand. -/
  | bundleIssue (h m v x : BitVec 32)
  /-- PENDING_WRITE_LAND: A pending-write entry reaches offset zero and lands in its destination and latch (R65); the core whose oldest due entry lands. -/
  | pendingWriteLand (r : SRef)
  /-- ASYNC_TRAP: A pending stream fault or refusal is taken at the strand's next instruction boundary (R307). -/
  | asyncTrap (r : SRef)
  /-- STRAND_WAIT_RELEASE: The named object of a strand's wait becomes ready and the strand continues (R197). -/
  | strandWaitRelease (r : SRef)
  /-- MEMORY_ACCESS_COMPLETE: An issued access performs at its ordering point or its value returns to the strand (R162); the access in flight. -/
  | memoryAccessComplete (id : Nat)
  /-- PHASE_BOUNDARY: Commits the phase's writes in canonical order, runs transfers, increments PHASENO and releases PHASE (R31). -/
  | phaseBoundary (vr : Nat)
  /-- QUIESCENT_COMMIT: A quiesced rank commits its phase's writes without changing PHASENO (R33). -/
  | quiescentCommit (vr : Nat)
  /-- STEP_ARRIVAL: The rank arrives at its step boundary once all conditions hold (R35); of a rank held elsewhere it is
  recorded that it has arrived, or that it has arrived and STEPHOLD keeps it (R372). -/
  | stepArrival (rank : JobRank) (held : Bool)
  /-- STEP_COLLECTIVE_COMPLETE: All ranks have arrived, none in transit or held; STEPNO increments and ranks resume (R370). -/
  | stepCollectiveComplete (job : Nat)
  /-- BOUNDARY_FLIT_SEND: Each period every coupled rank sends its arrival byte (R415). -/
  | boundaryFlitSend (group : Nat)
  /-- BOUNDARY_RESULT: The combined minimum reaches the group and triggers commit, quiescent commit or retry (R415). -/
  | boundaryResult (group v : Nat)
  /-- GANG_PLACE: The cluster task unit walks ready gangs and places those whose cores are free (R343). -/
  | gangPlace (slot : Nat)
  /-- GANG_START: After the start rendezvous every strand begins at its entry point (R345). -/
  | gangStart (vr gang : Nat)
  /-- GANG_COMPLETE: All cores finished and commands retired; the completion marker retires and cores return (R28). -/
  | gangComplete (vr gang : Nat)
  /-- PRIORITY_AGING: A ready gang gains one priority level per 2^20 resident cycles (R342). -/
  | priorityAging (vr gang : Nat)
  /-- GANG_HALT: Every strand, stream and command of a pre-empted gang has halted and the frame is written (R308). -/
  | gangHalt (vr gang : Nat)
  /-- HOST_QUEUE_POST: The unit reads a host queue entry and posts or refuses it (R353). -/
  | hostQueuePost (slot : Nat)
  /-- HQBASE_WRITE: Host write of HQBASE, refused with ERR for an illegal LOGN (R352). -/
  | hqbaseWrite (slot : Nat) (v : BitVec 64)
  /-- HQ_TAIL_WRITE: Host advances the host queue tail (R353). -/
  | hqTailWrite (slot : Nat) (v : BitVec 16)
  /-- HQ_ENABLE: Host sets or clears HQCTL.EN (R353); `v` is the value that it writes to HQCTL, without TD. -/
  | hqEnable (slot : Nat) (v : BitVec 64)
  /-- HQ_TEARDOWN: Host writes TD to discard entries and gangs of the queue, killing started ones with KILL (R354). -/
  | hqTeardown (slot : Nat) (kill : Bool)
  /-- HQ_ERR_CLEAR: Host clears HQCTL.ERR by writing 1 (R352). -/
  | hqErrClear (slot : Nat)
  /-- SCHED_HEAD_ISSUE: An eligible head entry takes its credit and stash slot and posts its record block (R358). -/
  | schedHeadIssue (vr : Nat)
  /-- COPY_COMMAND: A copy engine starts a queued copy command (R255). -/
  | copyCommand (id : Nat)
  /-- COPY_RETIRE: A copy's last byte has performed and the command retires (R270). -/
  | copyRetire (id : Nat)
  /-- COLLECTIVE_COMMAND: A collective command starts replay of its graph with a new replay number (R278). -/
  | collectiveCommand (id : Nat)
  /-- COLL_OP_START: A ready op of a graph starts (R278). -/
  | collOpStart (id op : Nat)
  /-- COLL_OP_COMPLETE: An op completes and decrements its successors; the last one retires the command (R278). -/
  | collOpComplete (id op : Nat)
  /-- TREE_NODE_COMBINE: A node holder combines two subtree operands and forwards or delivers the result (R280). -/
  | treeNodeCombine (key : TreeKey) (level k : Nat)
  /-- MIGRATION_COMMAND: The migration engine checks, saves gangs and copies pages and state of a rank (R374). -/
  | migrationCommand (id : Nat)
  /-- MIGRATION_COMMIT: Installs the rank at the destination once every package acknowledges the placement entry (R376). -/
  | migrationCommit (id : Nat)
  /-- GRANARY_GATHER: A gather command is judged at the home and served, deferred or ended (R396); a gather at its home. -/
  | granaryGather (g : GatherMsg)
  /-- ENGINE_RESET: The supervisor resets an engine, discarding commands and firing joins ABANDONED (R273); the engine number, and for a collective engine its cluster slot. -/
  | engineReset (e slot : Nat)
  /-- GRADIENT_BLOCK_ARRIVE: A gradient block is judged at the arrival point as malformed, stale, early, duplicate or applied (R392). -/
  | gradientBlockArrive (b : GBlock)
  /-- GRANARY_BLOCK_APPLY: An update lane runs the rule program over a block and writes its emission (R389). -/
  | granaryBlockApply (job shard block : Nat)
  /-- GRANARY_STEP_CLOSE: All blocks applied: C advances, powers update, copies swap and deferred gathers are served (R393). -/
  | granaryStepClose (job shard : Nat)
  /-- STEP_CLOSE_TIMEOUT: TCLOSE expires; the missing-block bitmap and an EVENT 1 notice are written (R394). -/
  | stepCloseTimeout (job shard : Nat)
  /-- REG: Granary command installing or replacing a shard record (R399); the fields of the command block. -/
  | reg (job shard : Nat) (a b : BitVec 64)
  /-- DROP: Granary command removing a shard record (R399); the fields of the command block. -/
  | drop (job shard : Nat) (a b : BitVec 64)
  /-- RULE: Granary command loading a rule slot (R388); the fields of the command block. -/
  | rule (job shard : Nat) (a b : BitVec 64)
  /-- HYPER: Granary command replacing hyperparameters at the next close (R399); the fields of the command block. -/
  | hyper (job shard : Nat) (a b : BitVec 64)
  /-- PROMOTE: Granary command making a mirror the home (R401); the fields of the command block. -/
  | promote (job shard : Nat) (a b : BitVec 64)
  /-- SEED: Granary command seeding a new mirror from the home (R401); the fields of the command block. -/
  | seed (job shard : Nat) (a b : BitVec 64)
  /-- SNAP: Granary command copying record, counters and state at the next close (R399); the fields of the command block. -/
  | snap (job shard : Nat) (a b : BitVec 64)
  /-- REPLAY: Granary command making root holders resend named blocks (R385); the fields of the command block. -/
  | replay (job shard : Nat) (a b : BitVec 64)
  /-- GRANARY_UNKNOWN_CODE: A granary command block with an undefined code completes with status 2 (R399). -/
  | granaryUnknownCode (code job shard : Nat)
  /-- SEED_SNAPSHOT_INSTALL: A seed target installs the snapshot, judges held blocks and confirms (R401); the snapshot of the record, of the master state and of the served copies. -/
  | seedSnapshotInstall (rec : ShardRec) (state : List Byte) (served : List Byte)
  /-- SEED_CONFIRM: The home receives the target's confirmation and completes SEED (R401). -/
  | seedConfirm (job shard : Nat)
  /-- GRANARY_KEEPER_FAIL: A granary keeping a shard fails, changing roles or losing the shard (R401); the package whose copy of the shard fails. -/
  | granaryKeeperFail (dom pkg job shard : Nat)
  /-- REMOTE_LOAD: Demand flit carrying a remote load to its target (R414). -/
  | remoteLoad (q : DHdr) (tgt : RTo) (n : Nat)
  /-- LOAD_DATA: Demand flit returning load data (R414). -/
  | loadData (q : DHdr) (bytes : List Byte)
  /-- POSTED_WRITE: Demand flit carrying a posted window or peer write (R105). -/
  | postedWrite (q : DHdr) (tgt : RTo) (core : Nat) (strand : StrandId) (order : Nat) (bytes : List Byte)
  /-- WRITE_ACKNOWLEDGEMENT: Acknowledgement of a posted write, decrementing WALw.OUT (R105). -/
  | writeAcknowledgement (q : DHdr)
  /-- ATOMIC: Demand flit carrying a remote atomic, checked against the frame state table (R334). -/
  | atomic (q : DHdr) (addr : Nat) (op : RAtom)
  /-- ATOMIC_RESULT: Demand flit returning an atomic's result or acknowledgement (R414). -/
  | atomicResult (q : DHdr) (old : BitVec 64)
  /-- KEEP_WAITING_NOTICE: Notice that a parked remote access is still waiting (R335). -/
  | keepWaitingNotice (q : DHdr)
  /-- REFUSAL: Demand flit refusing a remote access (R334). -/
  | refusal (q : DHdr) (detail : Nat)
  /-- SCHEDULE_ARRIVAL: An activation or gradient arrival sets its bitmap bit at the neighbour's table (R359). -/
  | scheduleArrival (q : DHdr) (grad : Bool) (mb : Nat) (step : BitVec 64)
  /-- SLOT_POST: A slot post adds credits at the neighbour's table (R359). -/
  | slotPost (q : DHdr) (grad : Bool) (count : Nat) (step : BitVec 64)
  /-- TRANSFER_ACK: A terminating package acknowledges a furrow transfer (R411). -/
  | transferAck (q : DHdr) (fid xfer : Nat)
  /-- TRANSFER_NACK: A NACK makes the origin resend at its next departure or give up after eight attempts (R411). -/
  | transferNack (q : DHdr) (fid xfer : Nat)
  /-- PLACEMENT_UPDATE: A placement or directory update is installed and acknowledged (R376); a placement entry or a directory change. -/
  | placementUpdate (d : Demand)
  /-- GATHER: Demand flit forwarding a gather to the shard's home (R396). -/
  | gather (q : DHdr) (g : GatherMsg)
  /-- BLOCK_ACKNOWLEDGEMENT: A granary acknowledges a judged block to the root holder (R385). -/
  | blockAcknowledgement (q : DHdr) (job shard block step : Nat)
  /-- FRAME_STATE_SET: The target supervisor sets a frame's state, performing or refusing parked accesses (R335). -/
  | frameStateSet (index : Nat) (st : BitVec 8)
  /-- FAULT_QUEUE_RESEND: An access returned from a full fault queue is sent again 65,536 slots later (R335). -/
  | faultQueueResend (id : Nat)
  /-- KEEP_WAITING_TIMER: Every 65,536 slots the target sends a keep-waiting notice for a parked access (R335). -/
  | keepWaitingTimer (q : DHdr)
  /-- REMOTE_TIMEOUT: A remote access without answer for 262,144 slots is refused as dead (R336). -/
  | remoteTimeout (id : Nat)
  /-- FURROW_DEPART: A ready transfer departs its origin at the slot matching OFF (R409). -/
  | furrowDepart (fid : Nat)
  /-- SCHEDULED_FLIT_ARRIVE: A router receives a scheduled flit and routes, terminates or combines it by FID (R410). -/
  | scheduledFlitArrive (input : Nat) (f : Flit)
  /-- FLIT_FORWARD: A scheduled flit is sent 40 slots later, a collision dropping the higher input (R412). -/
  | flitForward (link : Nat)
  /-- TRANSFER_FAIL: The last flit's slot passes with a flit missing or a bad CRC; a NACK is sent (R411). -/
  | transferFail (fid xfer : Nat)
  /-- HEADLAND_SLOT: A headland slot of an output goes to the rotating input with a waiting demand flit (R413). -/
  | headlandSlot (link : Nat)
  /-- TRAINING_RECORD: A link training offer or agreement is received and the link comes up, retries or is fenced (R420). -/
  | trainingRecord (link : Nat) (rec : BitVec 128)
  /-- LINK_LOSS_OF_LOCK: A link loses lock, is fenced and retrained (R421). -/
  | linkLossOfLock (link : Nat)
  /-- COLLECTIVE_CHUNK: Transport frame carrying a collective chunk (R423). -/
  | collectiveChunk (f : FrameHdr) (slot : Nat) (bytes : List Byte)
  /-- FRAME_ACK: Transport cumulative acknowledgement (R425). -/
  | frameAck (f : FrameHdr)
  /-- FRAME_NACK: Transport gap report causing a resend (R425). -/
  | frameNack (f : FrameHdr) (gap : Nat)
  /-- MIGRATION_DATA: Transport frame carrying migration data (R426), or its arrival inside the domain when the header names it. -/
  | migrationData (f : FrameHdr) (part : MigPart)
  /-- GRANARY_BLOCK: Transport frame carrying a granary block (R426). -/
  | granaryBlock (f : FrameHdr) (b : GBlock)
  /-- DEMAND_TRAFFIC_FRAME: Transport frame carrying demand traffic across domains (R423). -/
  | demandTrafficFrame (f : FrameHdr) (d : Demand)
  /-- TRANSPORT_RESEND: 16 µs without acknowledgement resends a frame, failing the connection after 32 resends (R425). -/
  | transportResend (port dom pkg : Nat)
  /-- PARTITION: Host message writing PARTCFG once affected slots are idle (R291). -/
  | partition
  /-- LOADJOB: Host message loading a Folxus image and selecting its code (R433). -/
  | loadjob (plan : LoadPlan)
  /-- ENDJOB: Host message ending a job (R429). -/
  | endjob (job : Nat)
  /-- RESET: Host message starting bring-up again (R436). -/
  | reset
  /-- SUPERVISOR_MESSAGE: Host message with code 0x80–0xFF passed to the supervisor (R429). -/
  | supervisorMessage
  /-- MAILBOX_UNKNOWN_CODE: A host message with an undefined code is answered with status 1 (R429). -/
  | mailboxUnknownCode
  /-- HOST_BAR_WRITE: Host write of a BAR0 register that has no row of its own (R427). -/
  | hostBarWrite (off : Nat) (v : BitVec 64)
  /-- SPDM_REQUEST: An SPDM request over DOE is answered (R430). -/
  | spdmRequest (bytes : List Byte)
  /-- MANAGEMENT_REQUEST: An MCTP/PLDM management request is served (R438). -/
  | managementRequest (bytes : List Byte)
  /-- POWER_GOOD: Power-good starts bring-up (R436). -/
  | powerGood
  /-- BRINGUP_STAGE: A bring-up stage completes and the next begins, or STAGE becomes failed (R436). -/
  | bringupStage (e : StageEnd)
  /-- POWER_LIMIT: A power or thermal limit gates whole clock cycles of clusters (R438); the cluster slots whose next cycle is gated. -/
  | powerLimit (slots : BitVec 16)
  /-- ECC_UNCORRECTABLE: An uncorrectable error kills the consuming gang or resets an engine (R439). -/
  | eccUncorrectable (w : EccSite)
  /-- STACK_FAILURE: An HBM4E stack fails in operation, withdrawing its slot and losing its rank (R379). -/
  | stackFailure (slot : Nat)
  /-- SPTROOT_WRITE: The PCP writes the supervisor's page-table root (R290). -/
  | sptrootWrite (part : Nat) (v : BitVec 64)
  /-- SUPERVISOR_SHOOT: The PCP shoots down a supervisor-space mapping through its control port (R290). -/
  | supervisorShoot (part : Nat) (va : BitVec 64) (large : Bool)
  /-- FURROW_TABLE_LOAD: The PCP loads the furrow table and period, refusing it whole on a bad entry (R408). -/
  | furrowTableLoad (t : FurrowLoad)
  /-- GRAPH_LOAD: The supervisor loads a collective graph into a slot after a CRC check (R274). -/
  | graphLoad (vr slot : Nat) (header : BitVec 128) (trees : List (BitVec 128)) (ops : List (BitVec 256))
  /-- SERVICE_REQUEST: The PCP takes a service-ring request, refusing a malformed one (R440). -/
  | serviceRequest (r : SRef)
  /-- ATOMIC_PERMIT: Service request CODE 1 remaps with RAP or migrates the page local, then shoots it down (R442). -/
  | atomicPermit (r : SRef) (p : Permit)
  /-- COMMIT: Service request CODE 2 makes a rank-managed page present (R442); the free frames the runtime takes, first the page, then tables as needed. -/
  | commit (r : SRef) (frames : List Nat)
  /-- SERVICE_REPLY: The PCP pushes a reply into g15, holding it until room appears (R441). -/
  | serviceReply (r : SRef)
  /-- BUBBLE_CYCLE: In each arithmetic-clock cycle in which a READY schedule table's head entry is not eligible, one cycle is counted in BUBIN, BUBDN or BUBST by the first failing condition (R361). -/
  | bubbleCycle (vr : Nat)
  /-- NOTICE_WRITE: A held notice is written to the notice ring when room appears (R299). -/
  | noticeWrite
  /-- ECC_CORRECTED: A single-bit error is corrected and counted (R439). -/
  | eccCorrected
  /-- MODULE_FAULT: A limit exceeded despite gating stops every gang and sets HSTAT.ERR (R438). -/
  | moduleFault
  deriving DecidableEq, Repr

end Sys2Proof
end

