-- ==== Sys2Proof/WellFormed.lean ====
section
/-! DEFINITION. Which instructions are well formed: the operand values that an encoding admits (06 R136 to R141, R154
check 2). What depends on the strand or on its state is checked by the meanings. -/

namespace Sys2Proof

/-- The engine classes and indices of 06 R141: 0 copy with index 0 to 31, 1 collective, 2 migration, 3 granary with
index 0. -/
def engineNamed (c i : Nat) : Prop := (c = 0 ∧ i ≤ 31) ∨ (1 ≤ c ∧ c ≤ 3 ∧ i = 0)

/-- The control indices whose WRCTL is the row WRCTL itself: not SHAPE, FPFLAGS, a loop register, a ring register or a
window allowance, which have rows of their own. -/
def wrctlPlain (c : Nat) : Prop := c ≠ 0xA ∧ c ≠ 9 ∧ ¬ (0x10 ≤ c ∧ c ≤ 0x15) ∧ ¬ (0x70 ≤ c ∧ c ≤ 0x7F) ∧ ¬ (0x30 ≤ c ∧ c ≤ 0x3F)

/-- The system indices whose WRSYS is the row WRSYS itself: not L2CTL, NRING, FRPOOL, STEPHOLD or a window table entry,
which have rows of their own. -/
def wrsysPlain (i : Nat) : Prop := i ≠ 0xA ∧ i ≠ 0x10 ∧ i ≠ 0x45 ∧ i ≠ 0x47 ∧ ¬ (0x50 ≤ i ∧ i ≤ 0x5F)

def engineNamedB (c i : Nat) : Bool := (c == 0 && i ≤ 31) || (1 ≤ c && c ≤ 3 && i == 0)

def wrctlPlainB (c : Nat) : Bool :=
  c != 0xA && c != 9 && !(0x10 ≤ c && c ≤ 0x15) && !(0x70 ≤ c && c ≤ 0x7F) && !(0x30 ≤ c && c ≤ 0x3F)

def wrsysPlainB (i : Nat) : Bool := i != 0xA && i != 0x10 && i != 0x45 && i != 0x47 && !(0x50 ≤ i && i ≤ 0x5F)

/-- The checks of an encoding on its operands (06 R154 check 2). Events have none. -/
def Instr.WellFormed : Instr → Prop
  | .loopRegisterWrite _ k => k.toNat ≤ 5
  | .wrctl _ c => wrctlPlain c.toNat
  | .sext _ _ k => k.toNat ≤ 2
  | .zext _ _ k => k.toNat ≤ 2
  | .shli _ _ w n => (w = true → n.toNat < 32)
  | .shri _ _ w n => (w = true → n.toNat < 32)
  | .sari _ _ w n => (w = true → n.toNat < 32)
  | .roti _ _ w n => (w = true → n.toNat < 32)
  | .cmp p _ _ _ _ => p.toNat < 96
  | .cmpi p _ _ _ => p.toNat < 96
  | .pand d a b => d.toNat < 96 ∧ a.toNat < 96 ∧ b.toNat < 96
  | .por d a b => d.toNat < 96 ∧ a.toNat < 96 ∧ b.toNat < 96
  | .pxor d a b => d.toNat < 96 ∧ a.toNat < 96 ∧ b.toNat < 96
  | .pandn d a b => d.toNat < 96 ∧ a.toNat < 96 ∧ b.toNat < 96
  | .pnot d a => d.toNat < 96 ∧ a.toNat < 96
  | .pmov d a => d.toNat < 96 ∧ a.toNat < 96
  | .pset d => d.toNat < 96
  | .pclr d => d.toNat < 96
  | .sel _ _ _ p => p.toNat < 96
  | .brp p _ _ => p.toNat < 96
  | .xlate _ _ p => p.toNat ≠ 0
  | .hchk _ p => p.toNat < 96
  | .rvinit a c => a.toNat < 24 ∧ 1 ≤ c.toNat ∧ c.toNat ≤ 512
  | .rvarr a => a.toNat < 24
  | .rvwait a => a.toNat < 24
  | .mark _ e => e.toNat ≤ 36
  | .ec c i _ => engineNamed c.toNat i.toNat
  | .ecr c i _ => engineNamed c.toNat i.toNat
  | .tload c _ => c.toNat ≤ 3
  | .tdiff c _ => c.toNat ≤ 3
  | .tswap c => c.toNat ≤ 3
  | .tcrc c _ => c.toNat ≤ 3
  | .wrsys _ i => wrsysPlain i.toNat
  | _ => True

/-- The same check, as the decoder makes it. -/
def Instr.wellFormed (i : Instr) : Bool :=
  match i with
  | .loopRegisterWrite _ k => decide (k.toNat ≤ 5)
  | .wrctl _ c => wrctlPlainB c.toNat
  | .sext _ _ k => decide (k.toNat ≤ 2)
  | .zext _ _ k => decide (k.toNat ≤ 2)
  | .shli _ _ w n => decide ((w = true → n.toNat < 32))
  | .shri _ _ w n => decide ((w = true → n.toNat < 32))
  | .sari _ _ w n => decide ((w = true → n.toNat < 32))
  | .roti _ _ w n => decide ((w = true → n.toNat < 32))
  | .cmp p _ _ _ _ => decide (p.toNat < 96)
  | .cmpi p _ _ _ => decide (p.toNat < 96)
  | .pand d a b => decide (d.toNat < 96 ∧ a.toNat < 96 ∧ b.toNat < 96)
  | .por d a b => decide (d.toNat < 96 ∧ a.toNat < 96 ∧ b.toNat < 96)
  | .pxor d a b => decide (d.toNat < 96 ∧ a.toNat < 96 ∧ b.toNat < 96)
  | .pandn d a b => decide (d.toNat < 96 ∧ a.toNat < 96 ∧ b.toNat < 96)
  | .pnot d a => decide (d.toNat < 96 ∧ a.toNat < 96)
  | .pmov d a => decide (d.toNat < 96 ∧ a.toNat < 96)
  | .pset d => decide (d.toNat < 96)
  | .pclr d => decide (d.toNat < 96)
  | .sel _ _ _ p => decide (p.toNat < 96)
  | .brp p _ _ => decide (p.toNat < 96)
  | .xlate _ _ p => decide (p.toNat ≠ 0)
  | .hchk _ p => decide (p.toNat < 96)
  | .rvinit a c => decide (a.toNat < 24 ∧ 1 ≤ c.toNat ∧ c.toNat ≤ 512)
  | .rvarr a => decide (a.toNat < 24)
  | .rvwait a => decide (a.toNat < 24)
  | .mark _ e => decide (e.toNat ≤ 36)
  | .ec c i _ => engineNamedB c.toNat i.toNat
  | .ecr c i _ => engineNamedB c.toNat i.toNat
  | .tload c _ => decide (c.toNat ≤ 3)
  | .tdiff c _ => decide (c.toNat ≤ 3)
  | .tswap c => decide (c.toNat ≤ 3)
  | .tcrc c _ => decide (c.toNat ≤ 3)
  | .wrsys _ i => wrsysPlainB i.toNat
  | _ => true

end Sys2Proof
end

