-- ==== Sys2Proof/Decode.lean ====
section
/-! DEFINITION. Decoding of strand words and bundles, total on any words, and the encoder (06 R136 to R149).
A word with a value that no row lists, or with a zero field that is not zero, decodes to nothing and raises ILLOP
(06 R154). -/

namespace Sys2Proof

/-- Bits `lo + n - 1` down to `lo` of a word. -/
def fld (w lo n : Nat) : BitVec n := BitVec.ofNat n (w / 2 ^ lo)

/-- One bit of a word. -/
def flag (w lo : Nat) : Bool := w / 2 ^ lo % 2 == 1

/-- The code of a condition (06 R141). -/
def Cond.code : Cond → Nat
  | .eq => 0 | .ne => 1 | .lt => 2 | .ge => 3 | .ltu => 4 | .geu => 5 | .le => 6 | .gt => 7 | .leu => 8 | .gtu => 9

/-- The condition of a code; 10 to 15 name none (06 R141). -/
def Cond.ofCode : Nat → Option Cond
  | 0 => some .eq | 1 => some .ne | 2 => some .lt | 3 => some .ge | 4 => some .ltu
  | 5 => some .geu | 6 => some .le | 7 => some .gt | 8 => some .leu | 9 => some .gtu
  | _ => none

/-- The code of an atomic operation (06 R141). -/
def AtomOp.code : AtomOp → Nat
  | .add => 0 | .min => 1 | .max => 2 | .minu => 3 | .maxu => 4 | .and => 5 | .or => 6 | .xor => 7 | .swap => 8

/-- The atomic operation of a code; 9 to 15 name none (06 R141). -/
def AtomOp.ofCode : Nat → Option AtomOp
  | 0 => some .add | 1 => some .min | 2 => some .max | 3 => some .minu | 4 => some .maxu
  | 5 => some .and | 6 => some .or | 7 => some .xor | 8 => some .swap
  | _ => none

/-- Major opcode 0x00 (06 R137 to R141). -/
def decodeMisc (w : Nat) : Option Instr :=
  if w / 2 ^ 0 % 2 ^ 26 = 0x0 then some (.nop) else
  if w / 2 ^ 12 % 2 ^ 9 = 0x1 then some (.feat (fld w 21 5) (fld w 0 12)) else
  if w / 2 ^ 12 % 2 ^ 9 = 0x2 then some (.rdctl (fld w 21 5) (fld w 0 12)) else
  if w / 2 ^ 12 % 2 ^ 4 = 0x3 ∧ w / 2 ^ 21 % 2 ^ 5 = 0x0 ∧ w / 2 ^ 0 % 2 ^ 12 = 0xA then some (.shapeWrite (fld w 16 5)) else
  if w / 2 ^ 12 % 2 ^ 4 = 0x3 ∧ w / 2 ^ 21 % 2 ^ 5 = 0x0 ∧ w / 2 ^ 0 % 2 ^ 12 = 0x9 then some (.fpflagsClear (fld w 16 5)) else
  if w / 2 ^ 12 % 2 ^ 4 = 0x3 ∧ w / 2 ^ 21 % 2 ^ 5 = 0x0 ∧ w / 2 ^ 3 % 2 ^ 9 = 0x2 then some (.loopRegisterWrite (fld w 16 5) (fld w 0 3)) else
  if w / 2 ^ 12 % 2 ^ 4 = 0x3 ∧ w / 2 ^ 21 % 2 ^ 5 = 0x0 ∧ w / 2 ^ 4 % 2 ^ 8 = 0x7 then some (.ringRegisterWrite (fld w 16 5) (fld w 0 4)) else
  if w / 2 ^ 12 % 2 ^ 4 = 0x3 ∧ w / 2 ^ 21 % 2 ^ 5 = 0x0 ∧ w / 2 ^ 4 % 2 ^ 8 = 0x3 then some (.walWrite (fld w 16 5) (fld w 0 4)) else
  if w / 2 ^ 12 % 2 ^ 4 = 0x3 ∧ w / 2 ^ 21 % 2 ^ 5 = 0x0 then some (.wrctl (fld w 16 5) (fld w 0 12)) else
  if w / 2 ^ 4 % 2 ^ 12 = 0x400 then some (.rand (fld w 21 5) (fld w 16 5) (fld w 0 4)) else
  if w / 2 ^ 0 % 2 ^ 26 = 0x5000 then some (.exit) else
  if w / 2 ^ 12 % 2 ^ 14 = 0x6 then some (.trap (fld w 0 12)) else
  if w / 2 ^ 12 % 2 ^ 14 = 0x7 then some (.waiti (fld w 0 12)) else
  none

/-- Major opcode 0x01 (06 R137 to R141). -/
def decodeAlu (w : Nat) : Option Instr :=
  if w / 2 ^ 0 % 2 ^ 6 = 0x0 ∧ w / 2 ^ 7 % 2 ^ 4 = 0x0 then some (.add (fld w 21 5) (fld w 16 5) (fld w 11 5) (flag w 6)) else
  if w / 2 ^ 0 % 2 ^ 6 = 0x1 ∧ w / 2 ^ 7 % 2 ^ 4 = 0x0 then some (.sub (fld w 21 5) (fld w 16 5) (fld w 11 5) (flag w 6)) else
  if w / 2 ^ 0 % 2 ^ 6 = 0x2 ∧ w / 2 ^ 7 % 2 ^ 4 = 0x0 then some (.and (fld w 21 5) (fld w 16 5) (fld w 11 5) (flag w 6)) else
  if w / 2 ^ 0 % 2 ^ 6 = 0x3 ∧ w / 2 ^ 7 % 2 ^ 4 = 0x0 then some (.or (fld w 21 5) (fld w 16 5) (fld w 11 5) (flag w 6)) else
  if w / 2 ^ 0 % 2 ^ 6 = 0x4 ∧ w / 2 ^ 7 % 2 ^ 4 = 0x0 then some (.xor (fld w 21 5) (fld w 16 5) (fld w 11 5) (flag w 6)) else
  if w / 2 ^ 0 % 2 ^ 6 = 0x5 ∧ w / 2 ^ 7 % 2 ^ 4 = 0x0 then some (.andn (fld w 21 5) (fld w 16 5) (fld w 11 5) (flag w 6)) else
  if w / 2 ^ 0 % 2 ^ 6 = 0x6 ∧ w / 2 ^ 7 % 2 ^ 4 = 0x0 then some (.shl (fld w 21 5) (fld w 16 5) (fld w 11 5) (flag w 6)) else
  if w / 2 ^ 0 % 2 ^ 6 = 0x7 ∧ w / 2 ^ 7 % 2 ^ 4 = 0x0 then some (.shr (fld w 21 5) (fld w 16 5) (fld w 11 5) (flag w 6)) else
  if w / 2 ^ 0 % 2 ^ 6 = 0x8 ∧ w / 2 ^ 7 % 2 ^ 4 = 0x0 then some (.sar (fld w 21 5) (fld w 16 5) (fld w 11 5) (flag w 6)) else
  if w / 2 ^ 0 % 2 ^ 6 = 0x9 ∧ w / 2 ^ 7 % 2 ^ 4 = 0x0 then some (.rot (fld w 21 5) (fld w 16 5) (fld w 11 5) (flag w 6)) else
  if w / 2 ^ 0 % 2 ^ 6 = 0xA ∧ w / 2 ^ 7 % 2 ^ 4 = 0x0 then some (.mul (fld w 21 5) (fld w 16 5) (fld w 11 5) (flag w 6)) else
  if w / 2 ^ 0 % 2 ^ 6 = 0xB ∧ w / 2 ^ 7 % 2 ^ 4 = 0x0 then some (.mulh (fld w 21 5) (fld w 16 5) (fld w 11 5) (flag w 6)) else
  if w / 2 ^ 0 % 2 ^ 6 = 0xC ∧ w / 2 ^ 7 % 2 ^ 4 = 0x0 then some (.mulhu (fld w 21 5) (fld w 16 5) (fld w 11 5) (flag w 6)) else
  if w / 2 ^ 0 % 2 ^ 6 = 0xD ∧ w / 2 ^ 7 % 2 ^ 4 = 0x0 then some (.div (fld w 21 5) (fld w 16 5) (fld w 11 5) (flag w 6)) else
  if w / 2 ^ 0 % 2 ^ 6 = 0xE ∧ w / 2 ^ 7 % 2 ^ 4 = 0x0 then some (.divu (fld w 21 5) (fld w 16 5) (fld w 11 5) (flag w 6)) else
  if w / 2 ^ 0 % 2 ^ 6 = 0xF ∧ w / 2 ^ 7 % 2 ^ 4 = 0x0 then some (.rem (fld w 21 5) (fld w 16 5) (fld w 11 5) (flag w 6)) else
  if w / 2 ^ 0 % 2 ^ 6 = 0x10 ∧ w / 2 ^ 7 % 2 ^ 4 = 0x0 then some (.remu (fld w 21 5) (fld w 16 5) (fld w 11 5) (flag w 6)) else
  if w / 2 ^ 0 % 2 ^ 6 = 0x11 ∧ w / 2 ^ 7 % 2 ^ 4 = 0x0 then some (.min (fld w 21 5) (fld w 16 5) (fld w 11 5) (flag w 6)) else
  if w / 2 ^ 0 % 2 ^ 6 = 0x12 ∧ w / 2 ^ 7 % 2 ^ 4 = 0x0 then some (.max (fld w 21 5) (fld w 16 5) (fld w 11 5) (flag w 6)) else
  if w / 2 ^ 0 % 2 ^ 6 = 0x13 ∧ w / 2 ^ 7 % 2 ^ 4 = 0x0 then some (.minu (fld w 21 5) (fld w 16 5) (fld w 11 5) (flag w 6)) else
  if w / 2 ^ 0 % 2 ^ 6 = 0x14 ∧ w / 2 ^ 7 % 2 ^ 4 = 0x0 then some (.maxu (fld w 21 5) (fld w 16 5) (fld w 11 5) (flag w 6)) else
  if w / 2 ^ 0 % 2 ^ 6 = 0x15 ∧ w / 2 ^ 7 % 2 ^ 4 = 0x0 then some (.adds (fld w 21 5) (fld w 16 5) (fld w 11 5) (flag w 6)) else
  if w / 2 ^ 0 % 2 ^ 6 = 0x16 ∧ w / 2 ^ 7 % 2 ^ 4 = 0x0 then some (.subs (fld w 21 5) (fld w 16 5) (fld w 11 5) (flag w 6)) else
  if w / 2 ^ 0 % 2 ^ 6 = 0x17 ∧ w / 2 ^ 7 % 2 ^ 9 = 0x0 then some (.clz (fld w 21 5) (fld w 16 5) (flag w 6)) else
  if w / 2 ^ 0 % 2 ^ 6 = 0x18 ∧ w / 2 ^ 7 % 2 ^ 9 = 0x0 then some (.popc (fld w 21 5) (fld w 16 5) (flag w 6)) else
  if w / 2 ^ 0 % 2 ^ 11 = 0x19 ∧ w / 2 ^ 13 % 2 ^ 3 = 0x0 then some (.sext (fld w 21 5) (fld w 16 5) (fld w 11 2)) else
  if w / 2 ^ 0 % 2 ^ 11 = 0x1A ∧ w / 2 ^ 13 % 2 ^ 3 = 0x0 then some (.zext (fld w 21 5) (fld w 16 5) (fld w 11 2)) else
  none

/-- Major opcode 0x02 (06 R137 to R141). -/
def decodeAddi (w : Nat) : Option Instr :=
  some (.addi (fld w 21 5) (fld w 16 5) (fld w 0 16))

/-- Major opcode 0x03 (06 R137 to R141). -/
def decodeAndi (w : Nat) : Option Instr :=
  some (.andi (fld w 21 5) (fld w 16 5) (fld w 0 16))

/-- Major opcode 0x04 (06 R137 to R141). -/
def decodeOri (w : Nat) : Option Instr :=
  some (.ori (fld w 21 5) (fld w 16 5) (fld w 0 16))

/-- Major opcode 0x05 (06 R137 to R141). -/
def decodeXori (w : Nat) : Option Instr :=
  some (.xori (fld w 21 5) (fld w 16 5) (fld w 0 16))

/-- Major opcode 0x06 (06 R137 to R141). -/
def decodeShi (w : Nat) : Option Instr :=
  if w / 2 ^ 6 % 2 ^ 1 = 0x0 ∧ w / 2 ^ 8 % 2 ^ 8 = 0x0 then some (.shli (fld w 21 5) (fld w 16 5) (flag w 7) (fld w 0 6)) else
  if w / 2 ^ 6 % 2 ^ 1 = 0x0 ∧ w / 2 ^ 8 % 2 ^ 8 = 0x40 then some (.shri (fld w 21 5) (fld w 16 5) (flag w 7) (fld w 0 6)) else
  if w / 2 ^ 6 % 2 ^ 1 = 0x0 ∧ w / 2 ^ 8 % 2 ^ 8 = 0x80 then some (.sari (fld w 21 5) (fld w 16 5) (flag w 7) (fld w 0 6)) else
  if w / 2 ^ 6 % 2 ^ 1 = 0x0 ∧ w / 2 ^ 8 % 2 ^ 8 = 0xC0 then some (.roti (fld w 21 5) (fld w 16 5) (flag w 7) (fld w 0 6)) else
  none

/-- Major opcode 0x07 (06 R137 to R141). -/
def decodeLi (w : Nat) : Option Instr :=
  if w / 2 ^ 16 % 2 ^ 5 = 0x0 then some (.li (fld w 21 5) (fld w 0 16)) else
  none

/-- Major opcode 0x08 (06 R137 to R141). -/
def decodeLis (w : Nat) : Option Instr :=
  if w / 2 ^ 16 % 2 ^ 5 = 0x0 then some (.lis (fld w 21 5) (fld w 0 16)) else
  none

/-- Major opcode 0x09 (06 R137 to R141). -/
def decodeCmp (w : Nat) : Option Instr :=
  if w / 2 ^ 0 % 2 ^ 4 = 0x0 then (Cond.ofCode (w / 2 ^ 5 % 16)).map fun c => .cmp (fld w 19 7) (fld w 14 5) (fld w 9 5) c (flag w 4) else
  none

/-- Major opcode 0x0A (06 R137 to R141). -/
def decodeCmpi (w : Nat) : Option Instr :=
  (Cond.ofCode (w / 2 ^ 10 % 16)).map fun c => .cmpi (fld w 19 7) (fld w 14 5) c (fld w 0 10)

/-- Major opcode 0x0B (06 R137 to R141). -/
def decodePlog (w : Nat) : Option Instr :=
  if w / 2 ^ 0 % 2 ^ 5 = 0x0 then some (.pand (fld w 19 7) (fld w 12 7) (fld w 5 7)) else
  if w / 2 ^ 0 % 2 ^ 5 = 0x2 then some (.por (fld w 19 7) (fld w 12 7) (fld w 5 7)) else
  if w / 2 ^ 0 % 2 ^ 5 = 0x4 then some (.pxor (fld w 19 7) (fld w 12 7) (fld w 5 7)) else
  if w / 2 ^ 0 % 2 ^ 5 = 0x6 then some (.pandn (fld w 19 7) (fld w 12 7) (fld w 5 7)) else
  if w / 2 ^ 0 % 2 ^ 12 = 0x8 then some (.pnot (fld w 19 7) (fld w 12 7)) else
  if w / 2 ^ 0 % 2 ^ 12 = 0xA then some (.pmov (fld w 19 7) (fld w 12 7)) else
  if w / 2 ^ 0 % 2 ^ 19 = 0xC then some (.pset (fld w 19 7)) else
  if w / 2 ^ 0 % 2 ^ 19 = 0xE then some (.pclr (fld w 19 7)) else
  none

/-- Major opcode 0x0C (06 R137 to R141). -/
def decodeSel (w : Nat) : Option Instr :=
  if w / 2 ^ 0 % 2 ^ 4 = 0x0 then some (.sel (fld w 21 5) (fld w 16 5) (fld w 11 5) (fld w 4 7)) else
  none

/-- Major opcode 0x0D (06 R137 to R141). -/
def decodeBr (w : Nat) : Option Instr :=
  some (.br (fld w 0 26))

/-- Major opcode 0x0E (06 R137 to R141). -/
def decodeBrp (w : Nat) : Option Instr :=
  some (.brp (fld w 19 7) (flag w 18) (fld w 0 18))

/-- Major opcode 0x0F (06 R137 to R141). -/
def decodeCall (w : Nat) : Option Instr :=
  some (.call (fld w 0 26))

/-- Major opcode 0x10 (06 R137 to R141). -/
def decodeJr (w : Nat) : Option Instr :=
  if w / 2 ^ 0 % 2 ^ 16 = 0x0 then some (.jr (fld w 21 5) (fld w 16 5)) else
  none

/-- Major opcode 0x11 (06 R137 to R141). -/
def decodeLpset (w : Nat) : Option Instr :=
  some (.lpset (flag w 25) (fld w 20 5) (fld w 0 20))

/-- Major opcode 0x12 (06 R137 to R141). -/
def decodeLpseti (w : Nat) : Option Instr :=
  some (.lpseti (flag w 25) (fld w 12 13) (fld w 0 12))

/-- Major opcode 0x13 (06 R137 to R141). -/
def decodeLd (w : Nat) : Option Instr :=
  some (.ld (fld w 21 5) (fld w 17 4) (fld w 12 5) (fld w 10 2) (fld w 0 10))

/-- Major opcode 0x14 (06 R137 to R141). -/
def decodeSt (w : Nat) : Option Instr :=
  some (.st (fld w 21 5) (fld w 17 4) (fld w 12 5) (fld w 10 2) (fld w 0 10))

/-- Major opcode 0x15 (06 R137 to R141). -/
def decodeSld (w : Nat) : Option Instr :=
  some (.sld (fld w 21 5) (fld w 16 5) (fld w 14 2) (fld w 0 14))

/-- Major opcode 0x16 (06 R137 to R141). -/
def decodeSst (w : Nat) : Option Instr :=
  some (.sst (fld w 21 5) (fld w 16 5) (fld w 14 2) (fld w 0 14))

/-- Major opcode 0x17 (06 R137 to R141). -/
def decodeAtom (w : Nat) : Option Instr :=
  if w / 2 ^ 0 % 2 ^ 1 = 0x0 ∧ w / 2 ^ 2 % 2 ^ 1 = 0x1 then (AtomOp.ofCode (w / 2 ^ 3 % 16)).map fun o => .atom (fld w 21 5) (fld w 17 4) (fld w 12 5) (fld w 7 5) o (flag w 1) else
  none

/-- Major opcode 0x18 (06 R137 to R141). -/
def decodeAcas (w : Nat) : Option Instr :=
  if w / 2 ^ 0 % 2 ^ 5 = 0x0 ∧ w / 2 ^ 6 % 2 ^ 1 = 0x1 then some (.acas (fld w 21 5) (fld w 17 4) (fld w 12 5) (fld w 7 5) (flag w 5)) else
  none

/-- Major opcode 0x19 (06 R137 to R141). -/
def decodeFxadd (w : Nat) : Option Instr :=
  if w / 2 ^ 0 % 2 ^ 3 = 0x0 then some (.fxadd (fld w 21 5) (fld w 17 4) (fld w 12 5) (fld w 3 9)) else
  none

/-- Major opcode 0x1A (06 R137 to R141). -/
def decodeFxrd (w : Nat) : Option Instr :=
  if w / 2 ^ 0 % 2 ^ 3 = 0x0 then some (.fxrd (fld w 21 5) (fld w 17 4) (fld w 12 5) (fld w 3 9)) else
  none

/-- Major opcode 0x1B (06 R137 to R141). -/
def decodeXlate (w : Nat) : Option Instr :=
  if w / 2 ^ 0 % 2 ^ 13 = 0x0 then some (.xlate (fld w 22 4) (fld w 17 5) (fld w 13 4)) else
  none

/-- Major opcode 0x1C (06 R137 to R141). -/
def decodeHop (w : Nat) : Option Instr :=
  if w / 2 ^ 0 % 2 ^ 20 = 0x0 ∧ w / 2 ^ 24 % 2 ^ 2 = 0x0 then some (.hrel (fld w 20 4)) else
  if w / 2 ^ 0 % 2 ^ 9 = 0x0 ∧ w / 2 ^ 20 % 2 ^ 6 = 0x10 then some (.hchk (fld w 16 4) (fld w 9 7)) else
  if w / 2 ^ 0 % 2 ^ 16 = 0x0 ∧ w / 2 ^ 24 % 2 ^ 2 = 0x2 then some (.hmov (fld w 20 4) (fld w 16 4)) else
  none

/-- Major opcode 0x1D (06 R137 to R141). -/
def decodeQop (w : Nat) : Option Instr :=
  if w / 2 ^ 0 % 2 ^ 15 = 0x0 ∧ w / 2 ^ 19 % 2 ^ 1 = 0x0 then some (.qpush (fld w 21 5) (flag w 20) (fld w 15 4)) else
  if w / 2 ^ 0 % 2 ^ 15 = 0x800 ∧ w / 2 ^ 19 % 2 ^ 1 = 0x0 then some (.qpop (fld w 21 5) (flag w 20) (fld w 15 4)) else
  if w / 2 ^ 0 % 2 ^ 15 = 0x1000 ∧ w / 2 ^ 19 % 2 ^ 1 = 0x0 then some (.qpeek (fld w 21 5) (flag w 20) (fld w 15 4)) else
  if w / 2 ^ 0 % 2 ^ 15 = 0x1800 ∧ w / 2 ^ 19 % 2 ^ 7 = 0x0 then some (.qclose (fld w 15 4)) else
  none

/-- Major opcode 0x1E (06 R137 to R141). -/
def decodeQwait (w : Nat) : Option Instr :=
  if w / 2 ^ 19 % 2 ^ 1 = 0x0 ∧ w / 2 ^ 24 % 2 ^ 1 = 0x0 then some (.qwaitData (flag w 25) (fld w 20 4) (fld w 0 19)) else
  if w / 2 ^ 19 % 2 ^ 1 = 0x1 ∧ w / 2 ^ 24 % 2 ^ 1 = 0x0 then some (.qwaitRoom (flag w 25) (fld w 20 4) (fld w 0 19)) else
  none

/-- Major opcode 0x1F (06 R137 to R141). -/
def decodeStrm (w : Nat) : Option Instr :=
  if w / 2 ^ 0 % 2 ^ 10 = 0x0 ∧ w / 2 ^ 15 % 2 ^ 4 = 0x0 ∧ w / 2 ^ 23 % 2 ^ 3 = 0x0 then some (.sdesc (fld w 19 4) (fld w 10 5)) else
  if w / 2 ^ 0 % 2 ^ 10 = 0x0 ∧ w / 2 ^ 23 % 2 ^ 3 = 0x1 then some (.sset (fld w 19 4) (fld w 15 4) (fld w 10 5)) else
  if w / 2 ^ 0 % 2 ^ 15 = 0x0 ∧ w / 2 ^ 23 % 2 ^ 3 = 0x2 then some (.sbind (fld w 19 4) (fld w 15 4)) else
  if w / 2 ^ 0 % 2 ^ 19 = 0x0 ∧ w / 2 ^ 23 % 2 ^ 3 = 0x3 then some (.sunbind (fld w 19 4)) else
  if w / 2 ^ 0 % 2 ^ 10 = 0x0 ∧ w / 2 ^ 15 % 2 ^ 4 = 0x0 ∧ w / 2 ^ 23 % 2 ^ 3 = 0x4 then some (.sstat (fld w 19 4) (fld w 10 5)) else
  none

/-- Major opcode 0x20 (06 R137 to R141). -/
def decodeSync (w : Nat) : Option Instr :=
  if w / 2 ^ 0 % 2 ^ 26 = 0x0 then some (.phase) else
  if w / 2 ^ 12 % 2 ^ 5 = 0x0 ∧ w / 2 ^ 22 % 2 ^ 4 = 0x1 then some (.rvinit (fld w 17 5) (fld w 0 12)) else
  if w / 2 ^ 0 % 2 ^ 17 = 0x0 ∧ w / 2 ^ 22 % 2 ^ 4 = 0x2 then some (.rvarr (fld w 17 5)) else
  if w / 2 ^ 0 % 2 ^ 17 = 0x0 ∧ w / 2 ^ 22 % 2 ^ 4 = 0x3 then some (.rvwait (fld w 17 5)) else
  if w / 2 ^ 0 % 2 ^ 26 = 0x1000000 then some (.cfence) else
  if w / 2 ^ 6 % 2 ^ 6 = 0x0 ∧ w / 2 ^ 17 % 2 ^ 9 = 0xA0 then some (.mark (fld w 12 5) (fld w 0 6)) else
  if w / 2 ^ 3 % 2 ^ 9 = 0x0 ∧ w / 2 ^ 22 % 2 ^ 4 = 0x6 then some (.mjoin (fld w 17 5) (fld w 12 5) (fld w 0 3)) else
  if w / 2 ^ 3 % 2 ^ 9 = 0x0 ∧ w / 2 ^ 22 % 2 ^ 4 = 0x7 then some (.mwait (fld w 17 5) (fld w 12 5) (fld w 0 3)) else
  if w / 2 ^ 0 % 2 ^ 26 = 0x2000000 then some (.step) else
  none

/-- Major opcode 0x21 (06 R137 to R141). -/
def decodeEc (w w1 : Nat) : Option Instr :=
  if w / 2 ^ 0 % 2 ^ 16 = 0x0 then some (.ec (fld w 22 4) (fld w 16 6) (BitVec.ofNat 32 w1)) else
  none

/-- Major opcode 0x22 (06 R137 to R141). -/
def decodeEcr (w : Nat) : Option Instr :=
  if w / 2 ^ 0 % 2 ^ 11 = 0x0 then some (.ecr (fld w 22 4) (fld w 16 6) (fld w 11 5)) else
  none

/-- Major opcode 0x23 (06 R137 to R141). -/
def decodeTpl (w : Nat) : Option Instr :=
  if w / 2 ^ 0 % 2 ^ 9 = 0x0 ∧ w / 2 ^ 14 % 2 ^ 6 = 0x0 ∧ w / 2 ^ 23 % 2 ^ 3 = 0x0 then some (.tload (fld w 20 3) (fld w 9 5)) else
  if w / 2 ^ 0 % 2 ^ 9 = 0x0 ∧ w / 2 ^ 14 % 2 ^ 6 = 0x0 ∧ w / 2 ^ 23 % 2 ^ 3 = 0x2 then some (.tdiff (fld w 20 3) (fld w 9 5)) else
  if w / 2 ^ 0 % 2 ^ 20 = 0x0 ∧ w / 2 ^ 23 % 2 ^ 3 = 0x4 then some (.tswap (fld w 20 3)) else
  if w / 2 ^ 0 % 2 ^ 9 = 0x0 ∧ w / 2 ^ 14 % 2 ^ 6 = 0x0 ∧ w / 2 ^ 23 % 2 ^ 3 = 0x6 then some (.tcrc (fld w 20 3) (fld w 9 5)) else
  none

/-- Major opcode 0x24 (06 R137 to R141). -/
def decodeSys (w : Nat) : Option Instr :=
  if w / 2 ^ 0 % 2 ^ 26 = 0x0 then some (.tret) else
  if w / 2 ^ 11 % 2 ^ 5 = 0x0 ∧ w / 2 ^ 21 % 2 ^ 5 = 0x1 then some (.rdsys (fld w 16 5) (fld w 0 11)) else
  if w / 2 ^ 16 % 2 ^ 10 = 0x40 ∧ w / 2 ^ 0 % 2 ^ 11 = 0xA then some (.l2ctlWrite (fld w 11 5)) else
  if w / 2 ^ 16 % 2 ^ 10 = 0x40 ∧ w / 2 ^ 0 % 2 ^ 11 = 0x10 then some (.nringWrite (fld w 11 5)) else
  if w / 2 ^ 16 % 2 ^ 10 = 0x40 ∧ w / 2 ^ 0 % 2 ^ 11 = 0x45 then some (.frpoolWrite (fld w 11 5)) else
  if w / 2 ^ 16 % 2 ^ 10 = 0x40 ∧ w / 2 ^ 0 % 2 ^ 11 = 0x47 then some (.stepholdWrite (fld w 11 5)) else
  if w / 2 ^ 16 % 2 ^ 10 = 0x40 ∧ w / 2 ^ 4 % 2 ^ 7 = 0x5 then some (.wtblWrite (fld w 11 5) (fld w 0 4)) else
  if w / 2 ^ 16 % 2 ^ 10 = 0x40 then some (.wrsys (fld w 11 5) (fld w 0 11)) else
  if w / 2 ^ 0 % 2 ^ 11 = 0x0 ∧ w / 2 ^ 16 % 2 ^ 10 = 0x60 then some (.ldovf (fld w 11 5)) else
  if w / 2 ^ 0 % 2 ^ 11 = 0x0 ∧ w / 2 ^ 21 % 2 ^ 5 = 0x4 then some (.csave (fld w 16 5) (fld w 11 5)) else
  if w / 2 ^ 0 % 2 ^ 11 = 0x0 ∧ w / 2 ^ 21 % 2 ^ 5 = 0x5 then some (.crest (fld w 16 5) (fld w 11 5)) else
  if w / 2 ^ 1 % 2 ^ 10 = 0x0 ∧ w / 2 ^ 21 % 2 ^ 5 = 0x6 then some (.shoot (fld w 16 5) (fld w 11 5) (flag w 0)) else
  if w / 2 ^ 0 % 2 ^ 11 = 0x0 ∧ w / 2 ^ 21 % 2 ^ 5 = 0x7 then some (.plock (fld w 16 5) (fld w 11 5)) else
  if w / 2 ^ 0 % 2 ^ 11 = 0x1 ∧ w / 2 ^ 21 % 2 ^ 5 = 0x7 then some (.pinq (fld w 16 5) (fld w 11 5)) else
  if w / 2 ^ 0 % 2 ^ 11 = 0x0 ∧ w / 2 ^ 21 % 2 ^ 5 = 0x8 then some (.punlock (fld w 16 5) (fld w 11 5)) else
  if w / 2 ^ 0 % 2 ^ 11 = 0x0 ∧ w / 2 ^ 21 % 2 ^ 5 = 0x9 then some (.vmap (fld w 16 5) (fld w 11 5)) else
  if w / 2 ^ 0 % 2 ^ 11 = 0x0 ∧ w / 2 ^ 21 % 2 ^ 5 = 0xA then some (.kill (fld w 16 5) (fld w 11 5)) else
  if w / 2 ^ 0 % 2 ^ 11 = 0x0 ∧ w / 2 ^ 21 % 2 ^ 5 = 0xB then some (.idle (fld w 16 5) (fld w 11 5)) else
  none

/-- Major opcode 0x25 (06 R137 to R141). -/
def decodeGang (w : Nat) : Option Instr :=
  if w / 2 ^ 0 % 2 ^ 14 = 0x0 ∧ w / 2 ^ 24 % 2 ^ 2 = 0x0 then some (.glaunch (fld w 19 5) (fld w 14 5)) else
  if w / 2 ^ 0 % 2 ^ 14 = 0x0 ∧ w / 2 ^ 24 % 2 ^ 2 = 0x1 then some (.gkill (fld w 19 5) (fld w 14 5)) else
  if w / 2 ^ 0 % 2 ^ 14 = 0x0 ∧ w / 2 ^ 24 % 2 ^ 2 = 0x2 then some (.gstat (fld w 19 5) (fld w 14 5)) else
  none

/-- Major opcode 0x26 (06 R137 to R141). -/
def decodeSched (w : Nat) : Option Instr :=
  if w / 2 ^ 0 % 2 ^ 13 = 0x0 ∧ w / 2 ^ 23 % 2 ^ 3 = 0x0 then some (.schld (fld w 18 5) (fld w 13 5)) else
  if w / 2 ^ 0 % 2 ^ 13 = 0x0 ∧ w / 2 ^ 23 % 2 ^ 3 = 0x1 then some (.schgo (fld w 18 5) (fld w 13 5)) else
  if w / 2 ^ 0 % 2 ^ 18 = 0x0 ∧ w / 2 ^ 23 % 2 ^ 3 = 0x2 then some (.schhalt (fld w 18 5)) else
  if w / 2 ^ 0 % 2 ^ 18 = 0x0 ∧ w / 2 ^ 23 % 2 ^ 3 = 0x3 then some (.schstat (fld w 18 5)) else
  if w / 2 ^ 0 % 2 ^ 8 = 0x0 ∧ w / 2 ^ 18 % 2 ^ 8 = 0x80 then some (.slotpost (fld w 13 5) (fld w 8 5)) else
  none

/-- The instruction of a strand word by its major opcode; `w1` is the word after it, which only EC reads (06 R137). -/
def decodeMajor (w w1 : Nat) : Option Instr :=
  match w / 2 ^ 26 with
  | 0x00 => decodeMisc w
  | 0x01 => decodeAlu w
  | 0x02 => decodeAddi w
  | 0x03 => decodeAndi w
  | 0x04 => decodeOri w
  | 0x05 => decodeXori w
  | 0x06 => decodeShi w
  | 0x07 => decodeLi w
  | 0x08 => decodeLis w
  | 0x09 => decodeCmp w
  | 0x0A => decodeCmpi w
  | 0x0B => decodePlog w
  | 0x0C => decodeSel w
  | 0x0D => decodeBr w
  | 0x0E => decodeBrp w
  | 0x0F => decodeCall w
  | 0x10 => decodeJr w
  | 0x11 => decodeLpset w
  | 0x12 => decodeLpseti w
  | 0x13 => decodeLd w
  | 0x14 => decodeSt w
  | 0x15 => decodeSld w
  | 0x16 => decodeSst w
  | 0x17 => decodeAtom w
  | 0x18 => decodeAcas w
  | 0x19 => decodeFxadd w
  | 0x1A => decodeFxrd w
  | 0x1B => decodeXlate w
  | 0x1C => decodeHop w
  | 0x1D => decodeQop w
  | 0x1E => decodeQwait w
  | 0x1F => decodeStrm w
  | 0x20 => decodeSync w
  | 0x21 => decodeEc w w1
  | 0x22 => decodeEcr w
  | 0x23 => decodeTpl w
  | 0x24 => decodeSys w
  | 0x25 => decodeGang w
  | 0x26 => decodeSched w
  | _ => none

/-- The well-formed instruction of a strand word, or nothing (06 R154 check 2). -/
def decodeWord (w w1 : Nat) : Option Instr := (decodeMajor w w1).filter Instr.wellFormed

/-- How many words an instruction of L or S occupies: two for EC (06 R135). -/
def wordsOf : Instr → Nat
  | .ec _ _ _ => 2
  | _ => 1

/-- The bundle of four words (06 R144); its columns are decoded when it issues. -/
def decodeBundle (w0 w1 w2 w3 : Nat) : Instr :=
  .bundleIssue (BitVec.ofNat 32 w0) (BitVec.ofNat 32 w1) (BitVec.ofNat 32 w2) (BitVec.ofNat 32 w3)

/-- A word made of its fixed bits and the values of its fields, each with the place of its lowest bit. -/
def pack1 (b v1 l1 : Nat) : Nat := b + v1 * 2 ^ l1
def pack2 (b v1 l1 v2 l2 : Nat) : Nat := pack1 b v1 l1 + v2 * 2 ^ l2
def pack3 (b v1 l1 v2 l2 v3 l3 : Nat) : Nat := pack2 b v1 l1 v2 l2 + v3 * 2 ^ l3
def pack4 (b v1 l1 v2 l2 v3 l3 v4 l4 : Nat) : Nat := pack3 b v1 l1 v2 l2 v3 l3 + v4 * 2 ^ l4
def pack5 (b v1 l1 v2 l2 v3 l3 v4 l4 v5 l5 : Nat) : Nat := pack4 b v1 l1 v2 l2 v3 l3 v4 l4 + v5 * 2 ^ l5
def pack6 (b v1 l1 v2 l2 v3 l3 v4 l4 v5 l5 v6 l6 : Nat) : Nat :=
  pack5 b v1 l1 v2 l2 v3 l3 v4 l4 v5 l5 + v6 * 2 ^ l6

/-- The words of an instruction, first word first; an event has none. -/
def encode : Instr → List Nat
  | .nop => [0x00000000]
  | .feat d s => [pack2 0x00001000 d.toNat 21 s.toNat 0]
  | .rdctl d c => [pack2 0x00002000 d.toNat 21 c.toNat 0]
  | .shapeWrite a => [pack1 0x0000300A a.toNat 16]
  | .fpflagsClear a => [pack1 0x00003009 a.toNat 16]
  | .loopRegisterWrite a k => [pack2 0x00003010 a.toNat 16 k.toNat 0]
  | .ringRegisterWrite a g => [pack2 0x00003070 a.toNat 16 g.toNat 0]
  | .walWrite a n => [pack2 0x00003030 a.toNat 16 n.toNat 0]
  | .wrctl a c => [pack2 0x00003000 a.toNat 16 c.toNat 0]
  | .rand d a s => [pack3 0x00004000 d.toNat 21 a.toNat 16 s.toNat 0]
  | .exit => [0x00005000]
  | .trap n => [pack1 0x00006000 n.toNat 0]
  | .waiti n => [pack1 0x00007000 n.toNat 0]
  | .add d a b w => [pack4 0x04000000 d.toNat 21 a.toNat 16 b.toNat 11 w.toNat 6]
  | .sub d a b w => [pack4 0x04000001 d.toNat 21 a.toNat 16 b.toNat 11 w.toNat 6]
  | .and d a b w => [pack4 0x04000002 d.toNat 21 a.toNat 16 b.toNat 11 w.toNat 6]
  | .or d a b w => [pack4 0x04000003 d.toNat 21 a.toNat 16 b.toNat 11 w.toNat 6]
  | .xor d a b w => [pack4 0x04000004 d.toNat 21 a.toNat 16 b.toNat 11 w.toNat 6]
  | .andn d a b w => [pack4 0x04000005 d.toNat 21 a.toNat 16 b.toNat 11 w.toNat 6]
  | .shl d a b w => [pack4 0x04000006 d.toNat 21 a.toNat 16 b.toNat 11 w.toNat 6]
  | .shr d a b w => [pack4 0x04000007 d.toNat 21 a.toNat 16 b.toNat 11 w.toNat 6]
  | .sar d a b w => [pack4 0x04000008 d.toNat 21 a.toNat 16 b.toNat 11 w.toNat 6]
  | .rot d a b w => [pack4 0x04000009 d.toNat 21 a.toNat 16 b.toNat 11 w.toNat 6]
  | .mul d a b w => [pack4 0x0400000A d.toNat 21 a.toNat 16 b.toNat 11 w.toNat 6]
  | .mulh d a b w => [pack4 0x0400000B d.toNat 21 a.toNat 16 b.toNat 11 w.toNat 6]
  | .mulhu d a b w => [pack4 0x0400000C d.toNat 21 a.toNat 16 b.toNat 11 w.toNat 6]
  | .div d a b w => [pack4 0x0400000D d.toNat 21 a.toNat 16 b.toNat 11 w.toNat 6]
  | .divu d a b w => [pack4 0x0400000E d.toNat 21 a.toNat 16 b.toNat 11 w.toNat 6]
  | .rem d a b w => [pack4 0x0400000F d.toNat 21 a.toNat 16 b.toNat 11 w.toNat 6]
  | .remu d a b w => [pack4 0x04000010 d.toNat 21 a.toNat 16 b.toNat 11 w.toNat 6]
  | .min d a b w => [pack4 0x04000011 d.toNat 21 a.toNat 16 b.toNat 11 w.toNat 6]
  | .max d a b w => [pack4 0x04000012 d.toNat 21 a.toNat 16 b.toNat 11 w.toNat 6]
  | .minu d a b w => [pack4 0x04000013 d.toNat 21 a.toNat 16 b.toNat 11 w.toNat 6]
  | .maxu d a b w => [pack4 0x04000014 d.toNat 21 a.toNat 16 b.toNat 11 w.toNat 6]
  | .adds d a b w => [pack4 0x04000015 d.toNat 21 a.toNat 16 b.toNat 11 w.toNat 6]
  | .subs d a b w => [pack4 0x04000016 d.toNat 21 a.toNat 16 b.toNat 11 w.toNat 6]
  | .clz d a w => [pack3 0x04000017 d.toNat 21 a.toNat 16 w.toNat 6]
  | .popc d a w => [pack3 0x04000018 d.toNat 21 a.toNat 16 w.toNat 6]
  | .sext d a k => [pack3 0x04000019 d.toNat 21 a.toNat 16 k.toNat 11]
  | .zext d a k => [pack3 0x0400001A d.toNat 21 a.toNat 16 k.toNat 11]
  | .addi d a i => [pack3 0x08000000 d.toNat 21 a.toNat 16 i.toNat 0]
  | .andi d a i => [pack3 0x0C000000 d.toNat 21 a.toNat 16 i.toNat 0]
  | .ori d a i => [pack3 0x10000000 d.toNat 21 a.toNat 16 i.toNat 0]
  | .xori d a i => [pack3 0x14000000 d.toNat 21 a.toNat 16 i.toNat 0]
  | .shli d a w n => [pack4 0x18000000 d.toNat 21 a.toNat 16 w.toNat 7 n.toNat 0]
  | .shri d a w n => [pack4 0x18004000 d.toNat 21 a.toNat 16 w.toNat 7 n.toNat 0]
  | .sari d a w n => [pack4 0x18008000 d.toNat 21 a.toNat 16 w.toNat 7 n.toNat 0]
  | .roti d a w n => [pack4 0x1800C000 d.toNat 21 a.toNat 16 w.toNat 7 n.toNat 0]
  | .li d i => [pack2 0x1C000000 d.toNat 21 i.toNat 0]
  | .lis d i => [pack2 0x20000000 d.toNat 21 i.toNat 0]
  | .cmp p a b c w => [pack5 0x24000000 p.toNat 19 a.toNat 14 b.toNat 9 c.code 5 w.toNat 4]
  | .cmpi p a c i => [pack4 0x28000000 p.toNat 19 a.toNat 14 c.code 10 i.toNat 0]
  | .pand d a b => [pack3 0x2C000000 d.toNat 19 a.toNat 12 b.toNat 5]
  | .por d a b => [pack3 0x2C000002 d.toNat 19 a.toNat 12 b.toNat 5]
  | .pxor d a b => [pack3 0x2C000004 d.toNat 19 a.toNat 12 b.toNat 5]
  | .pandn d a b => [pack3 0x2C000006 d.toNat 19 a.toNat 12 b.toNat 5]
  | .pnot d a => [pack2 0x2C000008 d.toNat 19 a.toNat 12]
  | .pmov d a => [pack2 0x2C00000A d.toNat 19 a.toNat 12]
  | .pset d => [pack1 0x2C00000C d.toNat 19]
  | .pclr d => [pack1 0x2C00000E d.toNat 19]
  | .sel d a b p => [pack4 0x30000000 d.toNat 21 a.toNat 16 b.toNat 11 p.toNat 4]
  | .br o => [pack1 0x34000000 o.toNat 0]
  | .brp p n o => [pack3 0x38000000 p.toNat 19 n.toNat 18 o.toNat 0]
  | .call o => [pack1 0x3C000000 o.toNat 0]
  | .jr d a => [pack2 0x40000000 d.toNat 21 a.toNat 16]
  | .lpset l c e => [pack3 0x44000000 l.toNat 25 c.toNat 20 e.toNat 0]
  | .lpseti l c e => [pack3 0x48000000 l.toNat 25 c.toNat 12 e.toNat 0]
  | .ld d h i s o => [pack5 0x4C000000 d.toNat 21 h.toNat 17 i.toNat 12 s.toNat 10 o.toNat 0]
  | .st d h i s o => [pack5 0x50000000 d.toNat 21 h.toNat 17 i.toNat 12 s.toNat 10 o.toNat 0]
  | .sld d a s o => [pack4 0x54000000 d.toNat 21 a.toNat 16 s.toNat 14 o.toNat 0]
  | .sst d a s o => [pack4 0x58000000 d.toNat 21 a.toNat 16 s.toNat 14 o.toNat 0]
  | .atom d h i v o s => [pack6 0x5C000004 d.toNat 21 h.toNat 17 i.toNat 12 v.toNat 7 o.code 3 s.toNat 1]
  | .acas d h i n s => [pack5 0x60000040 d.toNat 21 h.toNat 17 i.toNat 12 n.toNat 7 s.toNat 5]
  | .fxadd v h i s => [pack4 0x64000000 v.toNat 21 h.toNat 17 i.toNat 12 s.toNat 3]
  | .fxrd v h i s => [pack4 0x68000000 v.toNat 21 h.toNat 17 i.toNat 12 s.toNat 3]
  | .xlate h a p => [pack3 0x6C000000 h.toNat 22 a.toNat 17 p.toNat 13]
  | .hrel h => [pack1 0x70000000 h.toNat 20]
  | .hchk s p => [pack2 0x71000000 s.toNat 16 p.toNat 9]
  | .hmov h s => [pack2 0x72000000 h.toNat 20 s.toNat 16]
  | .qpush d c i => [pack3 0x74000000 d.toNat 21 c.toNat 20 i.toNat 15]
  | .qpop d c i => [pack3 0x74000800 d.toNat 21 c.toNat 20 i.toNat 15]
  | .qpeek d c i => [pack3 0x74001000 d.toNat 21 c.toNat 20 i.toNat 15]
  | .qclose i => [pack1 0x74001800 i.toNat 15]
  | .qwaitData c i l => [pack3 0x78000000 c.toNat 25 i.toNat 20 l.toNat 0]
  | .qwaitRoom c i l => [pack3 0x78080000 c.toNat 25 i.toNat 20 l.toNat 0]
  | .sdesc z x => [pack2 0x7C000000 z.toNat 19 x.toNat 10]
  | .sset z f x => [pack3 0x7C800000 z.toNat 19 f.toNat 15 x.toNat 10]
  | .sbind z q => [pack2 0x7D000000 z.toNat 19 q.toNat 15]
  | .sunbind z => [pack1 0x7D800000 z.toNat 19]
  | .sstat z d => [pack2 0x7E000000 z.toNat 19 d.toNat 10]
  | .phase => [0x80000000]
  | .rvinit a c => [pack2 0x80400000 a.toNat 17 c.toNat 0]
  | .rvarr a => [pack1 0x80800000 a.toNat 17]
  | .rvwait a => [pack1 0x80C00000 a.toNat 17]
  | .cfence => [0x81000000]
  | .mark b e => [pack2 0x81400000 b.toNat 12 e.toNat 0]
  | .mjoin a b j => [pack3 0x81800000 a.toNat 17 b.toNat 12 j.toNat 0]
  | .mwait a b j => [pack3 0x81C00000 a.toNat 17 b.toNat 12 j.toNat 0]
  | .step => [0x82000000]
  | .ec c i p => [pack2 0x84000000 c.toNat 22 i.toNat 16, p.toNat]
  | .ecr c i s => [pack3 0x88000000 c.toNat 22 i.toNat 16 s.toNat 11]
  | .tload c a => [pack2 0x8C000000 c.toNat 20 a.toNat 9]
  | .tdiff c a => [pack2 0x8D000000 c.toNat 20 a.toNat 9]
  | .tswap c => [pack1 0x8E000000 c.toNat 20]
  | .tcrc c a => [pack2 0x8F000000 c.toNat 20 a.toNat 9]
  | .tret => [0x90000000]
  | .rdsys d i => [pack2 0x90200000 d.toNat 16 i.toNat 0]
  | .l2ctlWrite a => [pack1 0x9040000A a.toNat 11]
  | .nringWrite a => [pack1 0x90400010 a.toNat 11]
  | .frpoolWrite a => [pack1 0x90400045 a.toNat 11]
  | .stepholdWrite a => [pack1 0x90400047 a.toNat 11]
  | .wtblWrite a n => [pack2 0x90400050 a.toNat 11 n.toNat 0]
  | .wrsys a i => [pack2 0x90400000 a.toNat 11 i.toNat 0]
  | .ldovf a => [pack1 0x90600000 a.toNat 11]
  | .csave d a => [pack2 0x90800000 d.toNat 16 a.toNat 11]
  | .crest d a => [pack2 0x90A00000 d.toNat 16 a.toNat 11]
  | .shoot d a s => [pack3 0x90C00000 d.toNat 16 a.toNat 11 s.toNat 0]
  | .plock d a => [pack2 0x90E00000 d.toNat 16 a.toNat 11]
  | .pinq d a => [pack2 0x90E00001 d.toNat 16 a.toNat 11]
  | .punlock d a => [pack2 0x91000000 d.toNat 16 a.toNat 11]
  | .vmap d a => [pack2 0x91200000 d.toNat 16 a.toNat 11]
  | .kill d a => [pack2 0x91400000 d.toNat 16 a.toNat 11]
  | .idle d a => [pack2 0x91600000 d.toNat 16 a.toNat 11]
  | .glaunch d a => [pack2 0x94000000 d.toNat 19 a.toNat 14]
  | .gkill d a => [pack2 0x95000000 d.toNat 19 a.toNat 14]
  | .gstat d a => [pack2 0x96000000 d.toNat 19 a.toNat 14]
  | .schld d a => [pack2 0x98000000 d.toNat 18 a.toNat 13]
  | .schgo d a => [pack2 0x98800000 d.toNat 18 a.toNat 13]
  | .schhalt d => [pack1 0x99000000 d.toNat 18]
  | .schstat d => [pack1 0x99800000 d.toNat 18]
  | .slotpost a b => [pack2 0x9A000000 a.toNat 13 b.toNat 8]
  | .bundleIssue h m v x => [h.toNat, m.toNat, v.toNat, x.toNat]
  | _ => []

/-- The instruction of the encoding whose bits are `w`, numbered as the opcode table numbers them: the first word is the
low 32 bits, the word after it the next 32. Every row the table gives bits is one word of 32. -/
def decodeTableWord (nbits w : Nat) : Option Instr :=
  if nbits < 32 then none else decodeWord (w % 2 ^ 32) (w / 2 ^ 32 % 2 ^ 32)

end Sys2Proof
end

