-- ==== Sys2Proof/Config.lean ====
section
/-! DEFINITION. What the manual leaves open and the model leaves free: constants without a value.
Each is applied to the free-value counter of State, which the step reads and advances, so that every use is a fresh
value and nothing can be proved of any of them (log entries 4 and 5). -/

namespace Sys2Proof.Config

/-- A byte whose value the manual does not define (05 R131 R132 R133, 14 R351, 15 R374). Log entry 5. -/
opaque freeByte : Nat → BitVec 8

/-- A 64-bit value that the manual does not define (17 R430, R438 message contents). Log entry 5. -/
opaque freeWord : Nat → BitVec 64

/-- Whether work in flight (a memory access, an engine command, a message, a wait release) ends in this cycle.
The manual bounds or leaves open every such latency (01 R44). Log entry 4. -/
opaque elapsed : Nat → Bool

/-- What a physical address that names no memory reads as (13 R319: "Nothing"). Log entry 12. -/
opaque nothingByte : Nat → BitVec 8

end Sys2Proof.Config
end

