-- ==== Sys2Proof/Machine/State.lean ====
section
/-! DEFINITION. The state of one package of the Limrov LX9 with the ranks it holds (log entry 2): plain data. Registers
that software reads and writes whole are bit vectors; counts, identities and positions are naturals. -/

namespace Sys2Proof.Machine

/-! ## Cluster slot -/

/-- A cluster slot (01 R17, 14 R352, 17 R439): its rank, the host queue, the scratchpads of its 256 cores (core n at
n × 2^19), their phase-start values (04 R99), the ring registers (core × 16 + n) and whether its next cycle is gated. -/
structure Slot where
  occupant : Option Nat
  hqbase : Word
  hqptr : Word
  hqctl : Word
  pads : Memory
  shadow : Memory
  rings : List (Nat × Word)
  gated : Bool
  deriving DecidableEq, Repr

/-! ## Translation and remote accesses -/

/-- An entry of the page-lock table (13 R328): rank, page, size, frame, pin count, in order of creation. -/
structure Lock where
  vr : Nat
  va : Nat
  large : Bool
  frame : Nat
  count : Nat
  deriving DecidableEq, Repr

/-- A byte that atomics have changed at its home since it was committed (05 R125, R126): its value there, the ranks that have
changed it, and whether an FXADD and whether an ATOM or ACAS has (05 R127). -/
structure HomeByte where
  addr : Nat
  val : Byte
  vrs : List Nat
  fixed : Bool
  atom : Bool
  deriving DecidableEq, Repr

/-- A write of another package, or of this one through the peer aperture, that its home holds until the boundary of the rank that
made it (05 R122; 13 R334): the rank, whether an engine command made it, core, strand and order, the address and the bytes. -/
structure HeldW where
  vr : Nat
  engine : Bool
  core : Nat
  strand : StrandId
  order : Nat
  addr : Nat
  bytes : List Byte
  deriving DecidableEq, Repr

/-- An access parked in the fault queue of this package (13 R335): the message, and the slots since its last notice. -/
structure Parked where
  msg : Demand
  slots : Nat
  deriving DecidableEq, Repr

/-! ## Engine commands -/

/-- A page that a submitted command has pinned (09 R251, 13 R328). -/
structure Pin where
  vr : Nat
  va : Nat
  large : Bool
  frame : Nat
  deriving DecidableEq, Repr

/-- Where one end of a command lies: scratch space, or a page in an aperture by physical (or bus) address. -/
inductive Space where
  | scratch (addr : Nat)
  | glob (aper : BitVec 2) (peer : Nat) (addr : Nat)
  deriving DecidableEq, Repr

/-- The progress of one op of a graph (10 R268, R278): its counter, whether it runs, its element position as a multiple of 64 bytes,
its staging half, the halves of a PERMUTE done. -/
structure OpSt where
  counter : Nat
  pos : Nat
  half : Bool
  running : Bool
  complete : Bool
  sent : Bool
  received : Bool
  deriving DecidableEq, Repr

/-- What a command of each class does (09 R254 R257, 15 R373, 16 R395). `data` of a copy holds its source bytes and `imgs`
of a collective its four buffers, both as at submission (05 R132), a byte of another package once it has come (10 R270); `row` and
`byte` of a copy are its micro-program counter (10 R268); `data` of a collective is what its ops have written, in order, with the index
of each op. -/
inductive CmdBody where
  | copy (src dst : Space) (rlen nrow : Nat) (sstr dstr : Int) (follow : Option (Nat × Nat)) (data : List (Option Byte))
    (row byte : Nat)
  | coll (slot : Nat) (graph : Graph) (opf : BitVec 16) (bufs : List Space) (replay : Nat) (step : Nat) (ops : List OpSt)
    (imgs : List (List (Option Byte))) (data : List (Nat × EByte))
  | migr (tpl : BitVec 512) (stage : Nat) (taken : List Nat) (pages gangs : Nat) (newRoot : Nat)
  | gran (g : GatherMsg) (dst : Space) (dstr : Int) (scales status : Space) (sent : Bool)
  deriving DecidableEq, Repr

/-- The state of a command (10 R267). -/
inductive CmdSt where
  | queued | running | halted
  deriving DecidableEq, Repr

/-- A command submitted and not retired (09 R251 R252): identity, issuing strand, engine number, and the cluster slot of
a collective engine, its order in the strand, its body, its pins; the command as built from template and chain (12 R313); `wrote` are
the writes it has made outside the core, in order, `spoiled` the runs that the issuing strand has written meanwhile (05 R131), and
`ending` is set once all is done but for its writes at other packages (10 R270). -/
structure Cmd where
  id : Nat
  by' : SRef
  sup : Bool
  engine : Nat
  slot : Nat
  order : Nat
  st : CmdSt
  pins : List Pin
  body : CmdBody
  raw : BitVec 512
  wrote : List EByte
  spoiled : List (StoreTo × Nat)
  ending : Bool
  deriving DecidableEq, Repr

/-- A collective tree in progress at this package (10 R280 R282): its key, the operator and format, the descriptor, the
tag of the lowest rank's REDUCE, the step of its submission, and the subtree values held, by level and index. -/
structure TreeSt where
  key : TreeKey
  opf : BitVec 16
  recw : Nat
  desc : BitVec 128
  tag : Nat
  step : Nat
  nodes : List (Nat × Nat × List Byte)
  differs : Bool
  deriving DecidableEq, Repr

/-! ## Granary -/

/-- A shard that this package holds a record of, with the granary's own state (16 R381 R382 R392 R394 R399 R401). `kept` are the
blocks applied while a target is seeded, `held` those that a target holds before its snapshot; `unconfirmed` is set while the
mirror that the directory names has not confirmed, `failed` lists the packages whose copies have failed (16 R403). -/
structure Shard where
  rec' : ShardRec
  received : List Nat
  applying : List GBlock
  dup : BitVec 32
  stale : BitVec 32
  early : BitVec 32
  malf : BitVec 32
  served : Nat
  timer : Option Nat
  timedOut : Bool
  hyper : Option (List (BitVec 32))
  snaps : List Nat
  deferred : List GatherMsg
  seeding : Option (Nat × Nat × Bool)
  kept : List GBlock
  held : List GBlock
  lost : Bool
  unconfirmed : Bool
  failed : List (Nat × Nat)
  deriving DecidableEq, Repr

/-- A supervisor command of the granary that has not completed (16 R399): its code, its shard, its status when known. -/
structure GranCmd where
  id : Nat
  code : Nat
  job : Nat
  shard : Nat
  status : Option Nat
  deriving DecidableEq, Repr

/-- A block that a root holder keeps until the granaries named at its delivery acknowledge it (16 R385). -/
structure KeptBlock where
  block : GBlock
  named : List (Nat × Nat)
  waiting : List (Nat × Nat)
  deriving DecidableEq, Repr

/-- A gradient that a root held here is forming: the values by element position (16 R384). -/
structure Building where
  job : Nat
  shard : Nat
  step : Nat
  vals : List (Nat × BitVec 32)
  deriving DecidableEq, Repr

/-- The granary of the package. -/
structure Granary where
  shards : List Shard
  building : List Building
  rules : List (Nat × Nat × List (BitVec 32))
  cmds : List GranCmd
  kept : List KeptBlock
  deriving DecidableEq, Repr

/-! ## Fabric and transport -/

/-- A transfer of a furrow that this package originates (17 R409, R411), and the command and op that wait for it (10 R278). -/
structure XferOut where
  fid : Nat
  xfer : Nat
  bytes : List Byte
  ready : Nat
  departed : Option Nat
  attempts : Nat
  awaiting : List Nat
  op : Option (Nat × Nat)
  deriving DecidableEq, Repr

/-- A transfer being received (17 R411): the flits so far by index, the slot of the last one, and whether one was in error. -/
structure XferIn where
  fid : Nat
  xfer : Nat
  flits : List (Nat × BitVec 448)
  lastSlot : Nat
  failed : Bool
  deriving DecidableEq, Repr

/-- The operands that a combine node has of a transfer, by flit index (17 R416). -/
structure Combining where
  fid : Nat
  xfer : Nat
  left : List (Nat × BitVec 448)
  right : List (Nat × BitVec 448)
  deriving DecidableEq, Repr

/-- A flit that leaves on an output link in a later slot (17 R409, R412). -/
structure Departing where
  link : Nat
  slot : Nat
  input : Nat
  flit : Flit
  deriving DecidableEq, Repr

/-- One link (17 R418 to R421): up, fenced, lanes and speed in use, and where its training stands. -/
structure Link where
  up : Bool
  fenced : Bool
  lanes : Nat
  spd : Nat
  offer : Option (BitVec 128)
  round : Nat
  deriving DecidableEq, Repr

/-- A demand message waiting for headland slots of an output link, and the input it came by (17 R413). -/
structure HeadFlit where
  link : Nat
  input : Nat
  msg : Demand
  deriving DecidableEq, Repr

/-- The fabric state of the package: the time base with its fraction of a slot in 34ths, the schedule, transfers, links
and headland queues (17 R405 to R421). `joining` is set until a package that joins its domain has taken the time base of its first
trained neighbour. `bytes` holds the arrival byte that this package sent last for each coupling group (17 R415). -/
structure Fabric where
  dtb : Word
  joining : Bool
  frac : Nat
  sper : Nat
  furrows : List (BitVec 128)
  consumers : List (Nat × List Nat × Consumer)
  holders : List NodeHold
  routes : List (Nat × Nat)
  boundary : List BoundaryFurrow
  bytes : List (Nat × Nat)
  sent : List (Nat × Nat)
  outs : List XferOut
  ins : List XferIn
  delivered : List (Nat × Nat)
  departing : List Departing
  combining : List Combining
  head : List HeadFlit
  links : List Link
  deriving DecidableEq, Repr

/-- What a frame carries by kind (17 R423): a collective chunk, page data of a migration, a granary block, demand traffic; an
ACK or NACK carries nothing. -/
inductive FrameBody where
  | chunk (slot : Nat) (bytes : List Byte)
  | migration (p : MigPart)
  | block (b : GBlock)
  | demand (d : Demand)
  | none
  deriving DecidableEq, Repr

/-- A frame sent and not acknowledged (17 R425), and the command and op that wait for it (10 R278). -/
structure OutFrame where
  seq : Nat
  kind : Nat
  hdr : FrameHdr
  body : FrameBody
  op : Option (Nat × Nat)
  age : Nat
  resends : Nat
  deriving DecidableEq, Repr

/-- A transport connection: a local port and a remote package (17 R425). -/
structure Conn where
  port : Nat
  dom : Nat
  pkg : Nat
  sendSeq : Nat
  recvNext : Nat
  unacked : List OutFrame
  failed : Bool
  halved : Bool
  deriving DecidableEq, Repr

/-! ## Boot, host interface, service ring -/

/-- HSTAT's own fields (17 R428). -/
structure Boot where
  stage : BitVec 4
  fail : BitVec 4
  err : Bool
  ready : Bool
  fwver : BitVec 16
  deriving DecidableEq, Repr

/-- The host interface beside HSTAT and the host queues (17 R427, R429): mailboxes by slot, MBIN and MBOUT, the messages
passed to the supervisor. -/
structure HostIf where
  inbound : List (Nat × BitVec 512)
  outbound : List (Nat × BitVec 512)
  mbin : Word
  mbout : Word
  toSup : List (BitVec 512)
  deriving DecidableEq, Repr

/-- A request of the service ring that has been taken (18 R440): its core, its word, its reply when decided, and the accesses that
the SHOOT made for it waits for (18 R442). -/
structure Service where
  by' : SRef
  word : Word
  reply : Option Word
  ids : List Nat
  deriving DecidableEq, Repr

/-- A placement or directory change that packages have not all acknowledged (15 R376, 16 R398): the messages without answer,
and the migration command or the granary command that waits. -/
structure Publication where
  awaiting : List Nat
  cmd : Option Nat
  gran : Option Nat
  deriving DecidableEq, Repr

/-- What leaves the package: demand messages and flits on links, training records, frames, answers to the host and to the supervisor.
`report` names a graph slot whose graph has a bad CRC (0) or a second chunk for an op (1) (10 R274, R277); `boundary` tells the other
packages that a rank of this one has passed a boundary (05 R122, log entry 34). -/
inductive Out where
  | demand (link : Nat) (m : Demand)
  | flit (link : Nat) (w : BitVec 512)
  | training (link : Nat) (rec : BitVec 128)
  | migration (pkg : Nat) (p : MigPart)
  | frame (port : Nat) (kind : Nat) (h : FrameHdr) (body : FrameBody)
  | snapshot (dom pkg : Nat) (rec : ShardRec) (state served : List Byte)
  | confirm (dom pkg job shard : Nat)
  | stepArrival (job vr : Nat) (held : Bool)
  | boundary (vr : Nat)
  | pcp (v : Word)
  | report (what vr slot : Nat)
  | replay (job shard step : Nat) (blocks : List Nat)
  | doe (answer : List Byte)
  | management (answer : List Byte)
  deriving DecidableEq, Repr

/-- An access of the package control processor to a system register through its control port (12 R288, R290; 17 R405): a read or a
write of the register of an index, of a rank, a slot or a partition where its scope asks for one; a read of the domain time base;
`tableBase` sets the base of the frame state table (13 R334), whose bytes are held here by index; `drained` answers a shoot-down of the
supervisor space once the accesses named have performed; `replay` is the part of a REPLAY of another package that falls to a root holder
here, `replayed` tells the package that posted one whether every other holder has resent (16 R385, R399). -/
inductive PcpAct where
  | read (vr slot part : Nat) (i : Nat)
  | write (vr part : Nat) (i : Nat) (v : Word)
  | dtb
  | tableBase (v : Word)
  | drained (v : Word) (ids : List Nat)
  | replay (job shard step : Nat) (blocks : List Nat)
  | replayed (job shard : Nat) (all : Bool)
  deriving DecidableEq, Repr

/-- One turn of a clock cycle: a strand issues, an event takes place, or the oldest act of the package control processor. -/
inductive Turn where
  | strand (r : SRef)
  | event (i : Instr)
  | pcp
  deriving DecidableEq, Repr

/-! ## The package -/

/-- The state of the package. `cur` is the strand whose turn it is, `trapped` whether that strand has just entered a
trap, `agenda` the turns left in the cycle, `pcp` the acts of the package control processor on system registers and `inputs` those of
outside parties, in order, `net` the messages of the
package to itself, `out` what it has sent, `free` the counter of free values, `nextId` and `nextAge` count identities
and postings (log entries 2 to 6): these are the model's own fields. -/
structure State where
  cur : SRef
  trapped : Bool
  agenda : List Turn
  pcp : List PcpAct
  inputs : List Instr
  net : List Demand
  out : List Out
  free : Nat
  nextId : Nat
  nextAge : Nat
  boot : Boot
  pkgid : Word
  clavail : BitVec 16
  partcfg : Word
  sptroot : Vector Word 16
  supgen : Vector Word 16
  l2ctl : Word
  nring : Word
  nhead : BitVec 16
  ntail : BitVec 16
  notices : List (BitVec 1024)
  frameStates : List (Nat × BitVec 8)
  fstBase : Word
  locks : List Lock
  faultq : List Parked
  home : List HomeByte
  held : List HeldW
  mem : Memory
  hostMem : Memory
  place : List (Nat × Word)
  jobs : List Job
  ranks : List Rank
  slots : Vector Slot 16
  cmds : List Cmd
  trees : List TreeSt
  migPlanes : Planes
  granary : Granary
  fabric : Fabric
  conns : List Conn
  host : HostIf
  services : List Service
  pubs : List Publication
  incoming : List Rank
  corrected : Nat
  dropped : Nat
  deriving DecidableEq, Repr

/-- Why a step stops. -/
inductive Fault where
  /-- Raised by the meaning of an instruction of L, S or C when no strand of the state is acting (`cur` names none). No
  step of the machine gives an instruction to a strand that does not exist. Safe: the machine goes no further. -/
  | noStrand
  deriving DecidableEq, Repr

/-- Why the model gives no meaning. -/
inductive Refusal where
  /-- Raised by `exec` for an instruction whose meaning has not been written. Safe: the machine goes no further. -/
  | notModelled (mnemonic : String)
  deriving DecidableEq, Repr

/-! ## Reset -/

/-- A template plane pair of zeros (09 R259). -/
def Planes.zero : Planes := { active := 0, staging := 0, swap := false }

/-- A slot with nothing in it (14 R352, 17 R437). -/
def Slot.reset : Slot :=
  { occupant := none, hqbase := 0, hqptr := 0, hqctl := 0, pads := [], shadow := [], rings := [], gated := false }

/-- A link before training (17 R420). -/
def Link.reset : Link := { up := false, fenced := false, lanes := 0, spd := 0, offer := none, round := 0 }

/-- The fabric at reset (17 R405 to R421). The time base has no reset value in the spec (log entry 1). -/
def Fabric.reset : Fabric :=
  { dtb := 0, joining := false, frac := 0, sper := 1024, furrows := [], consumers := [], holders := [], routes := [], boundary := [], bytes := [], sent := [],
    outs := [], ins := [], delivered := [], departing := [], combining := [], head := [],
    links := List.replicate 32 Link.reset }

/-- The machine at power-good, before bring-up stage 1 (17 R428, R436, R437): every register of the system book holds its
reset value, no job is loaded, every host queue is disabled, memory lists nothing. PKGID and CLAVAIL get their values
from bring-up; before it they hold 0 (log entry 1). -/
def State.reset : State :=
  { cur := { vr := 0, gang := 0, core := 0, strand := .l }, trapped := false, agenda := [], pcp := [], inputs := [], net := [],
    out := [], free := 0, nextId := 0, nextAge := 0,
    boot := { stage := 0, fail := 0, err := false, ready := false, fwver := 0 },
    pkgid := 0, clavail := 0, partcfg := 0, sptroot := Vector.replicate 16 0, supgen := Vector.replicate 16 0, l2ctl := 0,
    nring := 0, nhead := 0, ntail := 0, notices := [], frameStates := [], fstBase := 0, locks := [], faultq := [],
    home := [], held := [], mem := [], hostMem := [], place := [], jobs := [], ranks := [],
    slots := Vector.replicate 16 Slot.reset, cmds := [], trees := [], migPlanes := Planes.zero,
    granary := { shards := [], building := [], rules := [], cmds := [], kept := [] }, fabric := Fabric.reset, conns := [],
    host := { inbound := [], outbound := [], mbin := 0, mbout := 0, toSup := [] }, services := [], pubs := [], incoming := [], corrected := 0,
    dropped := 0 }

end Sys2Proof.Machine
end

