-- ==== Sys2Proof/Machine/Mem.lean ====
section
/-! DEFINITION. Memories as sorted lists of the bytes that are not zero, little-endian words (00 R7), bit fields of
records, and the physical address space of the package (13 R319). -/

namespace Sys2Proof.Machine

/-- One byte; an unlisted address reads as 0 (17 R436). -/
def memRead : Memory → Nat → Byte
  | [], _ => 0
  | (k, v) :: t, a => if a = k then v else if a < k then 0 else memRead t a

/-- Writes one byte and keeps the canonical form: writing 0 removes the entry. -/
def memWrite : Memory → Nat → Byte → Memory
  | [], a, b => if b = 0 then [] else [(a, b)]
  | (k, v) :: t, a, b =>
    if a < k then (if b = 0 then (k, v) :: t else (a, b) :: (k, v) :: t)
    else if a = k then (if b = 0 then t else (a, b) :: t)
    else (k, v) :: memWrite t a b

/-- The canonical form from a lower bound on: addresses strictly rising, no byte 0. -/
def memWfFrom : Nat → Memory → Bool
  | _, [] => true
  | lo, (k, v) :: t => decide (lo ≤ k) && v != 0 && memWfFrom (k + 1) t

/-- The canonical form of a memory. -/
def Memory.wf (m : Memory) : Bool := memWfFrom 0 m

/-- `n` bytes from an address up. -/
def memBytes (m : Memory) (a : Nat) : Nat → List Byte
  | 0 => []
  | n + 1 => memRead m a :: memBytes m (a + 1) n

/-- Writes bytes from an address up. -/
def memPut (m : Memory) (a : Nat) : List Byte → Memory
  | [] => m
  | b :: bs => memPut (memWrite m a b) (a + 1) bs

/-- The canonical form of a list of bytes by address. -/
def memCanon (l : Memory) : Memory := l.foldl (fun m c => memWrite m c.1 c.2) []

/-- The number that bytes hold, lowest address first (00 R7). -/
def leNat : List Byte → Nat
  | [] => 0
  | b :: bs => b.toNat + 256 * leNat bs

/-- The `n` low bytes of a number, lowest first (00 R7). -/
def leBytes : Nat → Nat → List Byte
  | 0, _ => []
  | n + 1, v => BitVec.ofNat 8 v :: leBytes n (v / 256)

/-- The bytes of addresses `a` up to `a + n - 1` removed from a memory. -/
def memClear (m : Memory) (a n : Nat) : Memory := m.filter fun c => c.1 < a || a + n ≤ c.1

/-- The part of a memory from `a` up to `a + n - 1`. -/
def memPart (m : Memory) (a n : Nat) : Memory := m.filter fun c => a ≤ c.1 && c.1 < a + n

/-- A field of a record: `n` bits from bit `lo` up. -/
def bitsAt {k : Nat} (v : BitVec k) (lo n : Nat) : Nat := (v.extractLsb' lo n).toNat

/-- One bit of a record. -/
def bitAt {k : Nat} (v : BitVec k) (i : Nat) : Bool := v.getLsbD i

/-- A record with the field of `n` bits from `lo` replaced. -/
def putBits {k : Nat} (v : BitVec k) (lo n : Nat) (x : Nat) : BitVec k :=
  (v &&& ~~~(BitVec.ofNat k ((2 ^ n - 1) * 2 ^ lo))) ||| BitVec.ofNat k ((x % 2 ^ n) * 2 ^ lo)

/-- The signed number of `n` bits. -/
def signedOf (n v : Nat) : Int := if v % 2 ^ n < 2 ^ (n - 1) then (v % 2 ^ n : Nat) else (v % 2 ^ n : Nat) - (2 ^ n : Nat)

/-- The HBM4E stack that holds a physical address (13 R319): 64 GiB each, one every 0x0010_0000_0000. -/
def stackOf (a : Nat) : Option Nat :=
  if a / 0x1000000000 < 16 then some (a / 0x1000000000) else none

/-- Whether a physical address lies in the LPDDR-6 (13 R319). -/
def inLpddr (a : Nat) : Bool := 0x40000000000 ≤ a && a < 0x80000000000

/-- Whether a physical address names memory (13 R319). -/
def physExists (a : Nat) : Bool := (stackOf a).isSome || inLpddr a

/-- A byte of physical memory; an address that names nothing reads as a value the model leaves open (log entry 12). -/
def physRead (m : Memory) (a : Nat) : Byte := if physExists a then memRead m a else Config.nothingByte a

/-- Writes a byte of physical memory; at an address that names nothing, nothing is written (log entry 12). -/
def physWrite (m : Memory) (a : Nat) (b : Byte) : Memory := if physExists a then memWrite m a b else m

/-- Bytes of physical memory. -/
def physBytes (m : Memory) (a : Nat) : Nat → List Byte
  | 0 => []
  | n + 1 => physRead m a :: physBytes m (a + 1) n

/-- Writes bytes of physical memory. -/
def physPut (m : Memory) (a : Nat) : List Byte → Memory
  | [] => m
  | b :: bs => physPut (physWrite m a b) (a + 1) bs

/-- One bit of CRC-32C, reflected (09 R261). -/
def crcBit (c : BitVec 32) : BitVec 32 := if c.getLsbD 0 then (c >>> 1) ^^^ 0x82F63B78 else c >>> 1

/-- CRC-32C over more bytes, before the final exclusive-or (09 R261). -/
def crcBytes (c : BitVec 32) : List Byte → BitVec 32
  | [] => c
  | b :: bs => crcBytes (crcBit (crcBit (crcBit (crcBit (crcBit (crcBit (crcBit (crcBit (c ^^^ b.setWidth 32))))))))) bs

/-- CRC-32C (09 R261). -/
def crc32c (bs : List Byte) : BitVec 32 := ~~~ crcBytes 0xFFFFFFFF bs

/-- The value of a key in an association list, 0 when unlisted. -/
def assocGet (l : List (Nat × Word)) (k : Nat) : Word := match l.find? (·.1 == k) with | some e => e.2 | none => 0

/-- Sets a key of an association list in rising order of keys; a value of 0 is not listed. -/
def assocSet : List (Nat × Word) → Nat → Word → List (Nat × Word)
  | [], k, v => if v = 0 then [] else [(k, v)]
  | (k', v') :: t, k, v =>
    if k < k' then (if v = 0 then (k', v') :: t else (k, v) :: (k', v') :: t)
    else if k = k' then (if v = 0 then t else (k, v) :: t)
    else (k', v') :: assocSet t k v

/-- Puts an element into a sorted list, after those it is equal to. -/
def insertBy {α : Type} (lt : α → α → Bool) (x : α) : List α → List α
  | [] => [x]
  | y :: t => if lt x y then x :: y :: t else y :: insertBy lt x t

/-- Sorts a list; equal elements keep their order. -/
def sortBy {α : Type} (lt : α → α → Bool) (l : List α) : List α := l.foldl (fun r x => insertBy lt x r) []

end Sys2Proof.Machine
end

