-- ==== Sys2Proof/Machine/Base.lean ====
section
/-! DEFINITION. Reaching the parts of the state: ranks, gangs, cores, strands, slots, scratchpads, and what a core sees of
locations outside it (05 R116, R453). -/

namespace Sys2Proof.Machine

/-! ### Finding and changing parts -/

def Core.strand (c : Core) : StrandId → Strand
  | .l => c.l
  | .c => c.c
  | .s => c.s

def Core.setStrand (c : Core) (i : StrandId) (st : Strand) : Core :=
  match i with
  | .l => { c with l := st }
  | .c => { c with c := st }
  | .s => { c with s := st }

/-- STRANDID (02 R66). -/
def strandCode : StrandId → Nat
  | .l => 0 | .c => 1 | .s => 2

/-- Changes one strand of a core. -/
def Core.modStrand (c : Core) (i : StrandId) (f : Strand → Strand) : Core := c.setStrand i (f (c.strand i))

def Gang.core? (g : Gang) (n : Nat) : Option Core := g.cores.find? fun c => c.coreno == n

def Gang.modCore (g : Gang) (n : Nat) (f : Core → Core) : Gang :=
  { g with cores := g.cores.map fun c => if c.coreno = n then f c else c }

def Rank.gang? (r : Rank) (g : Nat) : Option Gang := r.gangs.find? fun x => x.id == g

def Rank.modGang (r : Rank) (g : Nat) (f : Gang → Gang) : Rank :=
  { r with gangs := r.gangs.map fun x => if x.id = g then f x else x }

def State.rank? (s : State) (vr : Nat) : Option Rank := s.ranks.find? fun r => r.vr == vr

def State.modRank (s : State) (vr : Nat) (f : Rank → Rank) : State :=
  { s with ranks := s.ranks.map fun r => if r.vr = vr then f r else r }

def State.gang? (s : State) (vr g : Nat) : Option Gang := (s.rank? vr).bind fun r => r.gang? g

def State.modGang (s : State) (vr g : Nat) (f : Gang → Gang) : State := s.modRank vr fun r => r.modGang g f

def State.core? (s : State) (r : SRef) : Option Core := (s.gang? r.vr r.gang).bind fun g => g.core? r.core

def State.modCore (s : State) (r : SRef) (f : Core → Core) : State := s.modGang r.vr r.gang fun g => g.modCore r.core f

def State.strand? (s : State) (r : SRef) : Option Strand := (s.core? r).map fun c => c.strand r.strand

def State.modStrand (s : State) (r : SRef) (f : Strand → Strand) : State :=
  s.modCore r fun c => c.modStrand r.strand f

def State.slot (s : State) (k : Nat) : Slot := s.slots[k]?.getD Slot.reset

def State.modSlot (s : State) (k : Nat) (f : Slot → Slot) : State :=
  { s with slots := s.slots.setIfInBounds k (f (s.slot k)) }

/-- The slot a rank is resident in. -/
def Rank.slot? (r : Rank) : Option Nat :=
  match r.place with
  | .resident k => some k
  | _ => none

def State.slotOf (s : State) (vr : Nat) : Option Nat := (s.rank? vr).bind Rank.slot?

/-- The supervisor address of context-frame slot k (12 R296). -/
def Rank.slotAddr (r : Rank) (k : Nat) : Nat := bitsAt r.frpool 28 36 * 2 ^ 28 + k * 2 ^ 28

/-- The partition of a slot (12 R295, PARTCFG). -/
def State.partOf (s : State) (slot : Nat) : Nat := bitsAt s.partcfg (4 * slot) 4

/-- A handle, stream or ring register file access with a default outside its range. -/
def Core.handle (c : Core) (h : Nat) : Handle := c.handles[h]?.getD {}

def Core.stream (c : Core) (z : Nat) : Stream := c.streams[z]?.getD {}

def Core.setStream (c : Core) (z : Nat) (st : Stream) : Core := { c with streams := c.streams.setIfInBounds z st }

def Core.setHandle (c : Core) (h : Nat) (v : Handle) : Core := { c with handles := c.handles.setIfInBounds h v }

/-! ### Scalar registers and predicates (02 R47, R48) -/

/-- x0 reads zero in every use (02 R47). -/
def Strand.rx (st : Strand) (i : XReg) : Word := if i = 0 then 0 else st.x[i.toNat]?.getD 0

/-- Writes to x0 are discarded (02 R47). -/
def Strand.wx (st : Strand) (i : XReg) (v : Word) : Strand :=
  if i = 0 then st else { st with x := st.x.setIfInBounds i.toNat v }

/-- Bit 0 of a predicate, which is what L, S and the X column read (02 R48). -/
def Strand.rp (st : Strand) (i : PReg) : Bool := (st.p[i.toNat]?.getD 0).getLsbD 0

/-- Writes bit 0 of a predicate and clears the others (02 R48). -/
def Strand.wp (st : Strand) (i : PReg) (v : Bool) : Strand :=
  { st with p := st.p.setIfInBounds i.toNat (if v then 1 else 0) }

/-! ### Completing a unit: the loop test (07 R172) -/

/-- The end of one loop's test: whether the loop repeats, and the loop after it. -/
def HwLoop.test (lp : HwLoop) : Bool × HwLoop :=
  if 1 < lp.lcnt.toNat then (true, { lp with lcnt := lp.lcnt - 1, lpc := lp.lcnt - 1 })
  else (false, { lp with lcnt := 0, lpc := 0, active := false })

/-- A unit at `pc` of `size` bytes completes and has not transferred control: the loops whose latched end it is are
tested, lp1 first, lp0 only if lp1 ends on it (07 R172). -/
def Strand.advance (st : Strand) (size : Word) : Strand :=
  let st := { st with ext := none }
  if st.lp1.active && st.lp1.le == st.pc then
    let (again, lp1) := st.lp1.test
    if again then { st with lp1 := lp1, pc := lp1.ls }
    else
      let st := { st with lp1 := lp1 }
      if st.lp0.active && st.lp0.le == st.pc then
        let (again0, lp0) := st.lp0.test
        if again0 then { st with lp0 := lp0, pc := lp0.ls } else { st with lp0 := lp0, pc := st.pc + size }
      else { st with pc := st.pc + size }
  else if st.lp0.active && st.lp0.le == st.pc then
    let (again0, lp0) := st.lp0.test
    if again0 then { st with lp0 := lp0, pc := lp0.ls } else { st with lp0 := lp0, pc := st.pc + size }
  else { st with pc := st.pc + size }

/-! ### Free values (log entry 5) -/

/-- `n` bytes that the manual does not define, each fresh. -/
def State.freeBytes (s : State) (n : Nat) : List Byte × State :=
  ((List.range n).map fun i => Config.freeByte (s.free + i), { s with free := s.free + n })

/-- A decision the manual leaves to timing, fresh (log entry 4). -/
def State.elapse (s : State) : Bool × State := (Config.elapsed s.free, { s with free := s.free + 1 })

/-! ### Scratchpads -/

/-- The bytes of a scratchpad of a slot. -/
def State.padBytes (s : State) (slot core off n : Nat) : List Byte :=
  memBytes (s.slot slot).pads (core * 0x80000 + off) n

/-- Writes bytes of a scratchpad of a slot, at once. -/
def State.padPut (s : State) (slot core off : Nat) (bs : List Byte) : State :=
  s.modSlot slot fun k => { k with pads := memPut k.pads (core * 0x80000 + off) bs }

/-- Where a scratch address of a core lies (04 R97, R98): its own scratchpad by either alias, another core's, a window. -/
inductive ScratchAt where
  | own (off : Nat)
  | other (core off : Nat)
  | window (w : Nat) (o : Nat)
  | unmapped
  deriving DecidableEq, Repr

def scratchAt (coreno a : Nat) : ScratchAt :=
  if a < 0x80000 then .own a
  else if 0x1000000 ≤ a ∧ a < 0x9000000 then
    let n := (a - 0x1000000) / 0x80000
    let off := (a - 0x1000000) % 0x80000
    if n = coreno then .own off else .other n off
  else if 0x40000000 ≤ a ∧ a < 0x80000000 then .window ((a - 0x40000000) / 0x4000000) ((a - 0x40000000) % 0x4000000)
  else .unmapped

/-- The ring register gn of a core (02 R59); it persists with the slot. -/
def State.ring (s : State) (vr core n : Nat) : Word :=
  match s.slotOf vr with
  | some k => assocGet (s.slot k).rings (core * 16 + n)
  | none => 0

def State.setRing (s : State) (vr core n : Nat) (v : Word) : State :=
  match s.slotOf vr with
  | some k => s.modSlot k fun sl => { sl with rings := assocSet sl.rings (core * 16 + n) v }
  | none => s

/-! ### What a core sees outside itself (05 R116, R453) -/

/-- The location `n` bytes on. -/
def StoreTo.plus (d : StoreTo) (n : Nat) : StoreTo :=
  match d with
  | .scratch a => .scratch (a + n)
  | .phys a => .phys (a + n)
  | .host a => .host (a + n)
  | .peer p a => .peer p (a + n)

/-- Whether `d` is a byte of a run of `n` bytes from `b`, and which. -/
def StoreTo.within (b : StoreTo) (n : Nat) (d : StoreTo) : Option Nat :=
  match b, d with
  | .scratch x, .scratch y => if x ≤ y ∧ y < x + n then some (y - x) else none
  | .phys x, .phys y => if x ≤ y ∧ y < x + n then some (y - x) else none
  | .host x, .host y => if x ≤ y ∧ y < x + n then some (y - x) else none
  | .peer p x, .peer q y => if p = q ∧ x ≤ y ∧ y < x + n then some (y - x) else none
  | _, _ => none

/-- The byte a buffered store holds for a location. -/
def BStore.byte? (b : BStore) (d : StoreTo) : Option Byte :=
  (b.dst.within b.bytes.length d).bind fun i => b.bytes[i]?

/-- The byte that the last of the retired engine commands of a core leaves at a location. DESIGN CHOICE (log entry 44): where two
commands of a core that retired in one phase wrote the same byte outside it, the core sees that of the one that retired last; the
boundary takes them in the order of 05 R122 step 3. -/
def engByte? (l : List EWrites) (core : Nat) (d : StoreTo) : Option Byte :=
  (l.reverse.filter fun w => w.core == core).findSome? fun w =>
    (w.bytes.reverse.find? fun e => e.dst == d).map fun e => e.val

/-- The byte of the core's own latest buffered store to a location (05 R116). -/
def bufByte? (l : List BStore) (core : Nat) (d : StoreTo) : Option Byte :=
  (l.reverse.filter fun b => b.core == core).findSome? fun b => b.byte? d

/-- The byte a core's own writes of the phase give it at a location outside it: retired engine writes stand over
buffered stores (05 R453). -/
def Rank.viewByte? (r : Rank) (core : Nat) (d : StoreTo) : Option Byte :=
  match engByte? r.engView core d with
  | some b => some b
  | none => bufByte? r.sbuf core d

/-- The committed value of a location (05 R121): scratchpads at the phase's start (04 R99), memory, host memory. -/
def State.committedByte (s : State) (slot : Nat) (d : StoreTo) : Byte :=
  match d with
  | .scratch a => memRead (s.slot slot).shadow a
  | .phys a => physRead s.mem a
  | .host a => memRead s.hostMem a
  | .peer _ _ => 0

/-- Bytes of a location outside the core as a core's load returns them (05 R116). -/
def State.viewBytes (s : State) (vr core slot : Nat) (d : StoreTo) (n : Nat) : List Byte :=
  (List.range n).map fun i =>
    match (s.rank? vr).bind fun r => r.viewByte? core (d.plus i) with
    | some b => b
    | none => s.committedByte slot (d.plus i)

/-- Buffers a store until the boundary, at the end of the rank's stores (05 R117). DESIGN CHOICE (log entry 44): both strands of the
core see it from then on, well within the 64 cycles of 01 R42. -/
def State.bufferStore (s : State) (vr : Nat) (b : BStore) : State :=
  { s with
    nextId := s.nextId + 1
    ranks := s.ranks.map fun r => if r.vr = vr then { r with sbuf := r.sbuf ++ [{ b with order := s.nextId }] } else r }

/-- A store of a core of a rank to scratch space: at once into its own scratchpad, buffered into another (04 R98, R99). -/
def State.storeScratch (s : State) (r : SRef) (slot addr : Nat) (bs : List Byte) : State :=
  match scratchAt r.core addr with
  | .own off => s.padPut slot r.core off bs
  | .other n off =>
    s.bufferStore r.vr { core := r.core, strand := r.strand, gang := r.gang, dst := .scratch (n * 0x80000 + off),
                         bytes := bs, va := BitVec.ofNat 64 addr }
  | _ => s

/-- A load of a core from scratch space, windows aside (04 R98, R99). -/
def State.loadScratch (s : State) (r : SRef) (slot addr n : Nat) : List Byte :=
  match scratchAt r.core addr with
  | .own off => s.padBytes slot r.core off n
  | .other k off => s.viewBytes r.vr r.core slot (.scratch (k * 0x80000 + off)) n
  | _ => []

/-! ### Launch records (14 R338) -/

def LaunchRec.gangid (l : LaunchRec) : Nat := bitsAt l.raw 0 32
def LaunchRec.nmem (l : LaunchRec) : Nat := bitsAt l.raw 32 4 + 1
def LaunchRec.pri (l : LaunchRec) : Nat := bitsAt l.raw 36 3
def LaunchRec.sup (l : LaunchRec) : Bool := bitAt l.raw 39
def LaunchRec.tol (l : LaunchRec) : Bool := bitAt l.raw 40
def LaunchRec.dkind (l : LaunchRec) : Nat := bitsAt l.raw 42 2
def LaunchRec.cen (l : LaunchRec) : Bool := bitAt l.raw 44
def LaunchRec.dslot (l : LaunchRec) : Nat := bitsAt l.raw 64 6
def LaunchRec.dentry (l : LaunchRec) : Nat := bitsAt l.raw 64 8
def LaunchRec.dnum (l : LaunchRec) : BitVec 16 := l.raw.extractLsb' 80 16
def LaunchRec.cslot (l : LaunchRec) : Nat := bitsAt l.raw 128 6
def LaunchRec.cnum (l : LaunchRec) : BitVec 16 := l.raw.extractLsb' 144 16
def LaunchRec.arg (l : LaunchRec) : Word := l.raw.extractLsb' 192 64
def LaunchRec.etabAddr (l : LaunchRec) : Nat := bitsAt l.raw 256 32

/-- Member k's rectangle: x, y, width, height. -/
def LaunchRec.rect (l : LaunchRec) (k : Nat) : Nat × Nat × Nat × Nat :=
  let b := 384 + 16 * k
  (bitsAt l.raw b 4, bitsAt l.raw (b + 4) 4, bitsAt l.raw (b + 8) 4 + 1, bitsAt l.raw (b + 12) 4 + 1)

def LaunchRec.rvcnt (l : LaunchRec) (k : Nat) : Nat := bitsAt l.raw (640 + 10 * k) 10

/-- The entry point of member k for L (0), C (1) or S (2). -/
def LaunchRec.entryPoint (l : LaunchRec) (k i : Nat) : Word := l.etab.extractLsb' (192 * k + 64 * i) 64

/-- The cores of a rectangle, ascending. -/
def rectCores (q : Nat × Nat × Nat × Nat) : List Nat :=
  (List.range q.2.2.2).flatMap fun j => (List.range q.2.2.1).map fun i => 16 * (q.2.1 + j) + (q.1 + i)

/-- The cores of all members with the member of each, ascending by CORENO (01 R25). -/
def LaunchRec.coreList (l : LaunchRec) : List (Nat × Nat) :=
  let all := (List.range l.nmem).flatMap fun k => (rectCores (l.rect k)).map fun n => (n, k)
  (List.range 256).filterMap fun n => all.find? fun e => e.1 == n

/-- Whether a gang holds its cores: from its placement until its frame is written (14 R343, 12 R308). -/
def Gang.holdsCores (g : Gang) : Bool :=
  match g.cond with
  | .starting | .placed | .halting _ _ => true
  | _ => false

/-- Whether the gang has started and is on its cores and issuing. -/
def Gang.isPlaced (g : Gang) : Bool := g.cond == .placed

/-- Whether the gang counts as running for the boundaries of its rank: a halted gang does (12 R309). -/
def Gang.running (g : Gang) : Bool :=
  match g.cond with
  | .starting | .placed | .halting _ _ | .saved _ _ _ => true
  | _ => false

end Sys2Proof.Machine
end

