-- ==== Sys2Proof/Machine/StreamOps.lean ====
section
/-! DEFINITION. Stream descriptors and the stream units: which elements an entry names, taking indices, delivering an
entry to a load queue, draining one from a store queue, stopping at an entry boundary (09 R234 to R242, R247). -/

namespace Sys2Proof.Machine

/-- The element size in bytes of a format code (09 R235, codes of 08 R220). -/
def fmtSize (f : Nat) : Nat :=
  match f with
  | 0 => 8 | 1 => 4 | 2 => 2 | 3 => 2 | 4 => 1 | 5 => 1 | 6 => 1 | 7 => 1 | 8 => 2 | 9 => 2 | 10 => 4 | 11 => 4 | _ => 8

/-- Field Fn of a descriptor (09 R234). -/
def descField (d : BitVec 512) (n : Nat) : Nat := bitsAt d (32 * n) 32

/-- Field Fn, signed. -/
def descSigned (d : BitVec 512) (n : Nat) : Int := signedOf 32 (descField d n)

def descKind (d : BitVec 512) : Nat := bitsAt d 0 4
def descFmt (d : BitVec 512) : Nat := bitsAt d 8 4
def descSck (d : BitVec 512) : Nat := bitsAt d 16 2
def descOvz (d : BitVec 512) : Bool := bitAt d 21
def descEmpty (d : BitVec 512) : Bool := bitAt d 22
def descCols (d : BitVec 512) : Nat := bitsAt d 32 8
def descRows (d : BitVec 512) : Nat := bitsAt d 40 6

/-- The columns of the entries' tag: a scale side-stream is tagged ROWS × 1 (09 R239). -/
def descTagCols (d : BitVec 512) : Nat := if descKind d = 4 then 1 else descCols d

/-- Whether every field in a list is 0. -/
def descZero (d : BitVec 512) (l : List Nat) : Bool := l.all fun n => descField d n == 0

/-- The field rules of SBIND (09 R234 to R239): `store` for q8 to q11. -/
def descValid (d : BitVec 512) (store : Bool) : Bool :=
  let kind := descKind d
  let fmt := descFmt d
  let sck := descSck d
  let reserved := bitsAt d 4 4 == 0 && bitsAt d 12 4 == 0 && bitsAt d 18 3 == 0 && bitsAt d 23 9 == 0 && bitsAt d 46 18 == 0
  let geom := 1 ≤ descRows d && descRows d ≤ 32 && 1 ≤ descCols d && descCols d ≤ 128 / fmtSize fmt
  let scale := sck != 3 && (sck == 0 || ((fmt == 4 || fmt == 5) && kind != 4))
  let ragged := kind == 3
  let limited := kind == 2 || kind == 3
  let flags := (ragged || !descEmpty d) && (limited || !descOvz d)
  let fields := match kind with
    | 0 => descZero d [9, 10, 13, 14, 15] && descField d 6 != 0 && descField d 8 != 0
    | 1 => descZero d [13, 14, 15] && descField d 6 != 0 && descField d 8 != 0 && descField d 10 != 0
    | 2 => descZero d [5, 7, 8, 9, 10, 15] && descField d 13 ≤ 1
    | 3 => descZero d [5, 6, 7, 8, 9, 10] && descField d 13 % 8 == 0 && descField d 15 ≤ 65535
    | _ => descZero d [2, 3, 4, 5, 7, 8, 9, 10, 13, 14, 15] && fmt == 1 && !store
  kind ≤ 4 && fmt ≤ 13 && reserved && geom && scale && flags && fields

/-- The index queue of a gather: q12 or q13 for a load, q14 or q15 for a store, as a scalar-queue number 0 to 3
(09 R234). -/
def indexQueue (d : BitVec 512) (store : Bool) : Nat := (if store then 2 else 0) + descField d 13 % 2

/-- A row of an entry: a zero row, or the address of its element 0 with its source row number. -/
inductive RowSrc where
  | zero
  | at' (base : Int) (rho : Nat)
  deriving DecidableEq, Repr

/-- A stream fault: cause, TVAL, as recorded at the owner (09 R241). -/
structure SFault where
  cause : Nat
  tval : Word
  deriving DecidableEq, Repr

/-- The TVAL of GROUPOVR (09 R241). -/
def groupovr (reason z value : Nat) : SFault :=
  { cause := 0xC, tval := BitVec.ofNat 64 (reason * 2 ^ 60 + z * 2 ^ 56 + value % 2 ^ 32) }

/-- Whether a byte address is one that descriptors and templates may name (04 R97): the own scratchpad or the cluster
range of a core of the gang. -/
def nameable (cores : List Nat) (a : Int) : Bool :=
  (0 ≤ a && a < 0x80000) || (0x1000000 ≤ a && a < 0x9000000 && cores.contains ((a - 0x1000000) / 0x80000).toNat)

/-- The fault of an access of `n` bytes at an address that must be aligned to `n`, if any (04 R97, R98). -/
def spanFault (cores : List Nat) (a : Int) (n : Nat) : Option SFault :=
  match (List.range n).find? fun i => !nameable cores (a + i) with
  | some i => some { cause := 0xB, tval := BitVec.ofInt 64 (a + i) }
  | none => if a % n = 0 then none else some { cause := 0xA, tval := BitVec.ofInt 64 a }

/-- The rows of entry `e` of an affine stream (09 R236). -/
def affineRows (d : BitVec 512) (e : Nat) : List RowSrc :=
  let n1 := max 1 (descField d 6)
  let n2 := max 1 (descField d 8)
  let b1 : Int := (e % n1 : Nat)
  let b2 : Int := (e / n1 % n2 : Nat)
  let b3 : Int := if descKind d = 1 then (e / (n1 * n2) : Nat) else 0
  let base : Int := (descField d 2 : Int) + b3 * descSigned d 9 + b2 * descSigned d 7 + b1 * descSigned d 5
  (List.range (descRows d)).map fun (i : Nat) => .at' (base + (i : Int) * descSigned d 3) (e * descRows d + i)

/-- The row of an index of a gather (09 R237). -/
def gatherRow (d : BitVec 512) (z : Nat) (idx : BitVec 32) : Except SFault RowSrc :=
  let n := idx.toNat
  let lim := descField d 14
  if n = 0xFFFFFFFF then .ok .zero
  else if lim ≠ 0 ∧ lim ≤ n then (if descOvz d then .ok .zero else .error (groupovr 0 z n))
  else .ok (.at' ((descField d 2 : Int) + n * descSigned d 3) n)

/-- The rows of entry `t` of a group (09 R238). -/
def raggedRows (d : BitVec 512) (z start count t : Nat) : Except SFault (List RowSrc) :=
  (List.range (descRows d)).mapM fun i =>
    let k := t * descRows d + i
    let rho := start + k
    let lim := descField d 14
    if count ≤ k then .ok .zero
    else if lim ≠ 0 ∧ lim ≤ rho then (if descOvz d then .ok .zero else .error (groupovr 1 z rho))
    else .ok (.at' ((descField d 2 : Int) + rho * descSigned d 3) rho)

/-- The element addresses of an entry, row by row, with the element's place in the buffer; zero rows name none. -/
def entryElems (d : BitVec 512) (rows : List RowSrc) : List (Int × Nat) :=
  let cols := descCols d
  let sz := fmtSize (descFmt d)
  (rows.zipIdx).flatMap fun p =>
    match p.1 with
    | .zero => []
    | .at' base _ => (List.range cols).map fun (j : Nat) => (base + (j : Int) * descSigned d 4, (p.2 * cols + j) * sz)

/-- The first fault among accesses of `n` bytes. -/
def firstFault (cores : List Nat) (n : Nat) (l : List Int) : Option SFault := l.findSome? fun a => spanFault cores a n

/-- What a stream unit reads at a scratch address (09 R242): its own scratchpad at the port, under what the copy that started the stream
has written there (05 R131); another core's phase-start value. -/
def State.streamRead (s : State) (slot core : Nat) (laid : List (Nat × Byte)) (a : Int) (n : Nat) : List Byte :=
  match scratchAt core a.toNat with
  | .own off => (s.padBytes slot core off n).zipIdx.map fun p => match laid.reverse.find? fun e => e.1 == off + p.2 with
    | some e => e.2
    | none => p.1
  | .other k off => memBytes (s.slot slot).shadow (k * 0x80000 + off) n
  | _ => []

/-- A buffer holding bytes at places. -/
def bufOf (l : List (Nat × List Byte)) : Buf :=
  BitVec.ofNat 32768 (l.foldl (fun acc p => acc ||| (leNat p.2 <<< (8 * p.1))) 0)

/-- The bytes of a buffer from a place on. -/
def bufBytes (b : Buf) (at' n : Nat) : List Byte := leBytes n (b.toNat >>> (8 * at'))

/-- The addresses of the scales of an entry (09 R239). -/
def scaleAddrs (d : BitVec 512) (e : Nat) (rows : List RowSrc) : List Int :=
  let sbase : Int := descField d 11
  match descSck d with
  | 1 => rows.filterMap fun r => match r with
    | .zero => none
    | .at' _ rho => some (sbase + rho * descSigned d 12)
  | 2 => [sbase + e * descSigned d 12]
  | _ => []

/-- FP32 1.0, the scale of a zero row (09 R239). -/
def scaleOne : BitVec 32 := 0x3F800000

/-- The scales of an entry (09 R239). -/
def State.entryScales (s : State) (slot core : Nat) (laid : List (Nat × Byte)) (d : BitVec 512) (e : Nat) (rows : List RowSrc) :
    Scales :=
  let rd := fun (a : Int) => BitVec.ofNat 32 (leNat (s.streamRead slot core laid a 4))
  match descSck d with
  | 1 => .act (rows.map fun r => match r with
    | .zero => scaleOne
    | .at' _ rho => rd ((descField d 11 : Int) + rho * descSigned d 12))
  | 2 => .weight (rd ((descField d 11 : Int) + e * descSigned d 12))
  | _ => .none

/-- The values of entry `e` of a scale side-stream, by address (09 R239, kind 4). -/
def sideAddrs (d : BitVec 512) (e : Nat) : List Int :=
  (List.range (descRows d)).map fun i => (descField d 11 : Int) + (e * descRows d + i : Nat) * descSigned d 12

/-- Records a fault of stream z: the stream stops and its owner has a pending trap (09 R241). -/
def State.streamFault (s : State) (r : SRef) (z : Nat) (f : SFault) : State :=
  s.modCore r fun c =>
    let c := c.setStream z { c.stream z with st := .faulted }
    c.modStrand (if z < 8 then .l else .s) fun st =>
      { st with asyncs := st.asyncs ++ [{ cause := f.cause, tval := f.tval, detail := 0, src := 1, zidx := z }] }

/-- The stream after an entry: counters on, and done after the last (09 R236, R237, R246). -/
def Stream.next (st : Stream) : Stream :=
  let d := st.desc
  let total := match descKind d with
    | 0 => descField d 6 * descField d 8
    | 1 => descField d 6 * descField d 8 * descField d 10
    | _ => descField d 6
  let st := { st with ordinal := st.ordinal + 1, count := st.count + 1, idxTaken := [] }
  if descKind d = 3 then
    if st.gcount ≤ (st.gt + 1) * descRows d then
      { st with grp := st.grp + 1, grpLoaded := false, gt := 0,
                st := if descField d 15 ≤ st.grp + 1 then .done else st.st }
    else { st with gt := st.gt + 1 }
  else if total ≤ st.ordinal then { st with st := .done } else st

/-- Delivers an entry of rows into the load queue, or faults (09 R236, R239, R240). -/
def State.deliverEntry (s : State) (r : SRef) (z slot : Nat) (cores : List Nat) (st : Stream) (rows : List RowSrc) : State :=
  let d := st.desc
  let side := descKind d = 4
  let sz := fmtSize (descFmt d)
  let elems := if side then (sideAddrs d st.ordinal).zipIdx.map fun p => (p.1, p.2 * 4) else entryElems d rows
  match firstFault cores sz (elems.map Prod.fst), firstFault cores 4 (scaleAddrs d st.ordinal rows) with
  | some f, _ => s.streamFault r z f
  | none, some f => s.streamFault r z f
  | none, none =>
    let data := bufOf (elems.map fun p => (p.2, s.streamRead slot r.core st.laid p.1 sz))
    let scales := s.entryScales slot r.core st.laid d st.ordinal rows
    s.modCore r fun c =>
      let e : TEntry := { id := c.nextId, landed := true, data := data, fmt := some (descFmt d), esz := sz,
                          rows := descRows d, cols := descTagCols d, scales := scales }
      let q := c.tq[st.q]?.getD { head := 0, closed := false, ents := [] }
      { c.setStream z st.next with nextId := c.nextId + 1, tq := c.tq.setIfInBounds st.q { q with ents := q.ents ++ [e] } }

/-- Writes the elements of an entry in ascending order (09 R240). -/
def State.writeElems (s : State) (r : SRef) (slot sz : Nat) (data : Buf) : List (Int × Nat) → State
  | [] => s
  | (a, p) :: t => (s.storeScratch { r with strand := .s } slot a.toNat (bufBytes data p sz)).writeElems r slot sz data t

/-- Drains the head entry of the store queue into its rows, or faults and drains nothing (09 R240, log entry 13). -/
def State.drainEntry (s : State) (r : SRef) (z slot : Nat) (cores : List Nat) (st : Stream) (e : TEntry)
    (rows : List RowSrc) : State :=
  let d := st.desc
  let sz := fmtSize (descFmt d)
  if e.esz ≠ sz ∨ e.rows ≠ descRows d ∨ e.cols ≠ descCols d then s.streamFault r z (groupovr 2 z 0)
  else
    let elems := entryElems d rows
    match firstFault cores sz (elems.map Prod.fst) with
    | some f => s.streamFault r z f
    | none =>
      (s.writeElems r slot sz e.data elems).modCore r fun c =>
        let q := c.tq[st.q]?.getD { head := 0, closed := false, ents := [] }
        { c.setStream z st.next with tq := c.tq.setIfInBounds st.q { q with head := q.head + 1, ents := q.ents.drop 1 } }

/-- The rows of the indices taken so far, the rest of the entry zero rows (09 R237, R247). -/
def gatherRows (d : BitVec 512) (idxs : List (BitVec 32)) : List RowSrc :=
  let got := idxs.map fun x => match gatherRow d 0 x with | .ok r => r | .error _ => .zero
  got ++ List.replicate (descRows d - got.length) .zero

/-- What the unit does with the rows of its entry: deliver to a load queue, or drain the head of a store queue. -/
def State.finishEntry (s : State) (r : SRef) (z slot : Nat) (cores : List Nat) (st : Stream) (rows : List RowSrc) : State :=
  if st.q < 8 then s.deliverEntry r z slot cores st rows
  else match ((s.core? r).bind fun c => c.tq[st.q]?).bind fun q => q.ents.head? with
    | some e => s.drainEntry r z slot cores st e rows
    | none => s

/-- Takes at most `n` indices from the index queue for the entry in progress (09 R237). A refused index faults. -/
def State.takeIndices (s : State) (r : SRef) (z qi rows : Nat) : Nat → State
  | 0 => s
  | n + 1 =>
    match s.core? r with
    | none => s
    | some c =>
      let st := c.stream z
      let q := c.sq[qi]?.getD { head := 0, closed := false, ents := [] }
      if st.st ≠ .running ∨ rows ≤ st.idxTaken.length then s
      else match q.ents with
        | [] => s
        | e :: rest =>
          if !e.landed then s
          else
            let idx : BitVec 32 := e.data.setWidth 32
            let s := s.modCore r fun c =>
              { c.setStream z { st with idxTaken := st.idxTaken ++ [idx] } with
                sq := c.sq.setIfInBounds qi { q with head := q.head + 1, ents := rest } }
            match gatherRow st.desc z idx with
            | .error f => s.streamFault r z f
            | .ok _ => s.takeIndices r z qi rows n

/-- A stream ends as done without a further entry (09 R237, R238). -/
def State.streamDone (s : State) (r : SRef) (z : Nat) : State :=
  s.modCore r fun c => c.setStream z { c.stream z with st := .done }

/-- After the last, incomplete entry of a gather the stream is done unless it faulted (09 R237). -/
def State.streamEndDone (s : State) (r : SRef) (z : Nat) : State :=
  s.modCore r fun c => if (c.stream z).st = .faulted then c else c.setStream z { c.stream z with st := .done }

/-- One action of the unit for stream z when its queue lets it proceed: take indices, begin a group, or produce or drain
one entry (09 R236 to R240). -/
def State.streamAct (s : State) (r : SRef) (z slot : Nat) (cores : List Nat) (st : Stream) : State :=
  let d := st.desc
  let store := 8 ≤ st.q
  match descKind d with
  | 2 =>
    if descField d 6 = 0 then s.streamDone r z
    else
      let qi := indexQueue d store
      let s := s.takeIndices r z qi (descRows d) (descRows d)
      match s.core? r with
      | none => s
      | some c =>
        let st := c.stream z
        let q := c.sq[qi]?.getD { head := 0, closed := false, ents := [] }
        let dry := q.ents.isEmpty && q.closed && (!store || c.c.ended)
        if st.st ≠ .running then s
        else if st.idxTaken.length = descRows d then s.finishEntry r z slot cores st (gatherRows d st.idxTaken)
        else if dry && st.idxTaken.isEmpty then s.streamDone r z
        else if dry then (s.finishEntry r z slot cores st (gatherRows d st.idxTaken)).streamEndDone r z
        else s
  | 3 =>
    if descField d 15 ≤ st.grp then s.streamDone r z
    else if !st.grpLoaded then
      let a : Int := (descField d 13 : Int) + 8 * st.grp
      match spanFault cores a 8 with
      | some f => s.streamFault r z f
      | none =>
        let w := leNat (s.streamRead slot r.core st.laid a 8)
        let st' := { st with grpLoaded := true, gstart := w % 2 ^ 32, gcount := w / 2 ^ 32, gt := 0 }
        let skip := st'.gcount = 0 && !descEmpty d
        s.modCore r fun c => c.setStream z
          (if skip then { st' with grp := st.grp + 1, grpLoaded := false,
                                   st := if descField d 15 ≤ st.grp + 1 then .done else st'.st } else st')
    else match raggedRows d z st.gstart st.gcount st.gt with
      | .error f => s.streamFault r z f
      | .ok rows => s.finishEntry r z slot cores st rows
  | 4 => if descField d 6 = 0 then s.streamDone r z else s.finishEntry r z slot cores st []
  | _ => s.finishEntry r z slot cores st (affineRows d st.ordinal)

/-- Whether the queue of stream z lets the unit act: room in a load queue, a landed entry in a store queue. -/
def Core.streamReady (c : Core) (st : Stream) : Bool :=
  let q := c.tq[st.q]?.getD { head := 0, closed := false, ents := [] }
  if st.q < 8 then q.ents.length < 4
  else match q.ents.head? with
    | some e => e.landed
    | none => false

/-- Whether a stream goes on although its queue does not let the unit act: a gather whose index queue is closed and empty before its next
entry, and a ragged stream whose groups are done or whose next group yields nothing (09 R237, R238, R246). -/
def State.streamPasses (s : State) (r : SRef) (slot : Nat) (cores : List Nat) (c : Core) (st : Stream) : Bool :=
  let d := st.desc
  match descKind d with
  | 2 =>
    let q := c.sq[indexQueue d (8 ≤ st.q)]?.getD { head := 0, closed := false, ents := [] }
    descField d 6 == 0 || (st.idxTaken.isEmpty && q.ents.isEmpty && q.closed && (st.q < 8 || c.c.ended))
  | 3 =>
    let a : Int := (descField d 13 : Int) + 8 * st.grp
    descField d 15 ≤ st.grp || (!st.grpLoaded && !descEmpty d && (spanFault cores a 8).isNone &&
      leNat (s.streamRead slot r.core st.laid a 8) / 2 ^ 32 == 0)
  | _ => false

/-- The cores of the gang of a strand. -/
def State.gangCores (s : State) (r : SRef) : List Nat :=
  match s.gang? r.vr r.gang with
  | some g => g.cores.map fun c => c.coreno
  | none => []

/-- Stops stream z at an entry boundary: a gather's begun entry is completed with the indices it has taken (09 R247). The
register is bound again, its queues are free and a fault record is cleared. -/
def State.stopStream (s : State) (r : SRef) (z : Nat) : State :=
  match s.core? r, s.slotOf r.vr with
  | some c, some slot =>
    let st := c.stream z
    let s := if st.st = .running ∧ descKind st.desc = 2 ∧ st.idxTaken ≠ [] then
        s.finishEntry r z slot (s.gangCores r) st (gatherRows st.desc st.idxTaken) else s
    s.modCore r fun c =>
      let c := c.setStream z { c.stream z with st := if st.st = .unbound then .unbound else .bound, idxTaken := [] }
      c.modStrand (if z < 8 then .l else .s) fun x =>
        { x with asyncs := x.asyncs.filter fun a => !(a.src == 1 && a.zidx == z) }
  | _, _ => s

/-- Stops every stream of a strand: EXIT, a kill and a teardown act as SUNBIND on each (09 R247). -/
def State.stopStreams (s : State) (r : SRef) (i : StrandId) : State :=
  match i with
  | .l => [0, 1, 2, 3, 4, 5, 6, 7].foldl (fun s z => s.stopStream r z) s
  | .s => [8, 9, 10, 11, 12, 13, 14, 15].foldl (fun s z => s.stopStream r z) s
  | .c => s

end Sys2Proof.Machine
end

