-- ==== Sys2Proof/Machine/Ops.lean ====
section
/-! DEFINITION. The shared operations: the strand whose turn it is, completing an instruction, waiting, notices (12 R299),
completion markers and dependences (14 R340, R341), killing a gang (14 R351), taking a trap (12 R301) and returning from
one (12 R305). -/

namespace Sys2Proof.Machine

/-! ### The acting strand -/

/-- A meaning that acts for the strand whose turn it is. -/
def State.acting (s : State) (f : Strand → State) : Host.Outcome State Fault Refusal :=
  match s.strand? s.cur with
  | some st => .next (f st)
  | none => .fault .noStrand

/-- The size in bytes of an instruction word of L and S. -/
def wordBytes : Word := 4

/-- A strand as it stands after its instruction completed: its counts and its wait are cleared; in L and S the pc advances under
the loop test (07 R172); in the X column the bundle's own completion moves the pc (07 R171). -/
def Strand.finish (st : Strand) (i : StrandId) (size : Word) : Strand :=
  let st := { st with waited := 0, waitiLeft := 0, wait := none }
  if i = .c then st else st.advance size

/-- The instruction of the acting strand completes with the strand as `st`. -/
def State.complete (s : State) (size : Word) (st : Strand) : State :=
  s.modStrand s.cur fun _ => st.finish s.cur.strand size

/-- A one-word instruction of the acting strand completes. -/
def State.retire (s : State) (st : Strand) : State := s.complete wordBytes st

/-- An instruction of the acting strand completes with `v` in rd (07 R162). -/
def State.writeReg (s : State) (d : XReg) (v : Strand → Word) : Host.Outcome State Fault Refusal :=
  s.acting fun st => s.retire (st.wx d (v st))

/-- The acting strand completes a transfer of control to `t`; no loop is tested (07 R172, R173). -/
def State.transfer (s : State) (st : Strand) (t : Word) : State :=
  s.modStrand s.cur fun _ => { st with pc := t, waited := 0, waitiLeft := 0, wait := none }

/-- The acting strand waits for an object (07 R197); its counts of elapsed cycles stand. -/
def State.hold (s : State) (w : Wait) : State := s.modStrand s.cur fun st => { st with wait := some w }

/-- The acting strand waits with a limit in cycles (07 R187, R192, R193; 12 R297). -/
def State.holdFor (s : State) (w : Wait) (limit : Nat) : State :=
  s.modStrand s.cur fun st => { st with wait := some w, waitiLeft := limit }

/-- A fresh identity. -/
def State.fresh (s : State) : Nat × State := (s.nextId, { s with nextId := s.nextId + 1 })

/-! ### Notices (12 R299) -/

/-- The fields of a kill notice (12 R299). -/
def noticeRec (kind strand core gang vr : Nat) (t b1 b2 : TrapBank) (cycle phase : Word) : BitVec 1024 :=
  let bank := fun (b : TrapBank) (at' : Nat) =>
    (b.tpc.toNat + 2 ^ 64 * b.tcause.toNat + 2 ^ 128 * b.tval.toNat + 2 ^ 192 * b.tstat.toNat) * 2 ^ at'
  BitVec.ofNat 1024 (kind + 2 ^ 8 * strand + 2 ^ 16 * core + 2 ^ 32 * gang + 2 ^ 64 * (vr % 2 ^ 24) + bank t 128 + bank b1 384
    + bank b2 640 + 2 ^ 896 * cycle.toNat + 2 ^ 960 * phase.toNat)

/-- A notice of one kind and one more word at byte 0x10, as KIND 5 (14 R360). -/
def noticeShort (kind vr word : Nat) : BitVec 1024 := BitVec.ofNat 1024 (kind + 2 ^ 64 * (vr % 2 ^ 24) + 2 ^ 128 * (word % 2 ^ 64))

/-- LOGN of NRING. -/
def State.nringLog (s : State) : Nat := bitsAt s.nring 0 5

/-- Whether the notice ring is configured and has room (12 R299). -/
def State.noticeRoom (s : State) : Bool := 4 ≤ s.nringLog && (s.ntail - s.nhead).toNat < 2 ^ s.nringLog

/-- Writes one record at the producer's place and advances NTAIL (12 R299). -/
def State.putNotice (s : State) (n : BitVec 1024) : State :=
  let a := bitsAt s.nring 12 52 * 4096 + (s.ntail.toNat % 2 ^ s.nringLog) * 128
  { s with mem := physPut s.mem a (leBytes 128 n.toNat), ntail := s.ntail + 1 }

/-- Gives a notice: written at once when none is held and there is room, else held in order (12 R299). -/
def State.notify (s : State) (n : BitVec 1024) : State :=
  if s.notices.isEmpty && s.noticeRoom then s.putNotice n else { s with notices := s.notices ++ [n] }

/-! ### Completion records and dependences (14 R340, R341) -/

/-- Whether record `c` resolves a dependence on `num` (14 R341), and whether as ABANDONED. -/
def Completion.resolves (c : Completion) (num : BitVec 16) : Option Bool :=
  if (c.value - num).toNat < 0x8000 then some c.abandoned else none

/-- How the dependence of a waiting gang is resolved, if it is: `some true` is ABANDONED (14 R341). -/
def Rank.depResolved (r : Rank) (g : Gang) : Option Bool :=
  match g.launch.dkind with
  | 1 => (r.completions[g.launch.dslot]?).bind fun c => c.resolves g.launch.dnum
  | 2 => (r.sched.entryDone.find? fun e => e.1 == g.launch.dentry).map fun e => e.2
  | _ => some false

/-- Retires a number on a completion record (14 R340). -/
def Rank.retireRecord (r : Rank) (slot : Nat) (num : BitVec 16) (abandoned : Bool) : Rank :=
  match r.completions[slot]? with
  | none => r
  | some c =>
    if 0x8000 ≤ (num - c.value).toNat then r
    else { r with completions := r.completions.setIfInBounds slot { value := num, abandoned := abandoned } }

/-- Retires the completion marker of a gang that has one (14 R340). -/
def Rank.retireGang (r : Rank) (l : LaunchRec) (abandoned : Bool) : Rank :=
  if l.cen then r.retireRecord l.cslot l.cnum abandoned else r

/-- Whether a gang waits and its dependence has resolved so that it may run (14 R341). -/
def Rank.canReady (r : Rank) (g : Gang) : Bool :=
  g.cond == .waiting && match r.depResolved g with
    | some ab => !ab || g.launch.tol
    | none => false

/-- Waiting gangs whose dependence has resolved favourably become ready, and the unit walks (14 R341, R343). -/
def Rank.markReady (r : Rank) : Rank :=
  { r with
    gangs := r.gangs.map fun g => if r.canReady g then { g with cond := .ready } else g
    walk := r.walk || r.gangs.any r.canReady }

/-- The waiting gang posted first whose dependence has resolved ABANDONED and that is not tolerant (14 R341). -/
def Rank.nextDiscard (r : Rank) : Option Gang :=
  (r.gangs.filter fun g => g.cond == .waiting && r.depResolved g == some true && !g.launch.tol).foldl
    (fun b g => match b with
      | none => some g
      | some x => if g.age < x.age then some g else some x) none

/-- Removes a gang from its rank, with its frame; its cores become free (14 R343, R351). -/
def Rank.dropGang (r : Rank) (g : Nat) : Rank :=
  { r with
    gangs := r.gangs.filter fun x => x.id != g
    frames := r.frames.filter fun f => f.gang != g
    pagedOnce := r.pagedOnce.filter fun p => p.1 != g
    walk := true }

/-- Resolves dependences and makes the discards that follow, in order of posting (14 R341). -/
def Rank.settle : Nat → Rank → Rank
  | 0, r => r.markReady
  | n + 1, r =>
    let r := r.markReady
    match r.nextDiscard with
    | none => r
    | some g => Rank.settle n ((r.dropGang g.id).retireGang g.launch true)

/-- Resolves all that has become resolvable. -/
def Rank.settleAll (r : Rank) : Rank := r.settle r.gangs.length

/-! ### The schedule table's fault (14 R360) -/

/-- The table enters FAULT with a notice of KIND 5; a dependence on the head entry resolves ABANDONED, and a gang that is
still running is no longer the table's (log entry 14). -/
def State.schedFault (s : State) (vr case : Nat) : State :=
  match s.rank? vr with
  | none => s
  | some r =>
    let pos := r.sched.pos
    (s.modRank vr fun r =>
      let sc := r.sched
      { r with
        sched := { sc with st := .fault, outst := false, entryDone := sc.entryDone ++ [(pos, true)] }
        gangs := r.gangs.map fun (g : Gang) => match g.source with
          | .sched _ => { g with source := .pcp }
          | _ => g : Rank }.settleAll).notify
        (noticeShort 5 vr (case + 256 * pos))

/-! ### Engine commands discarded -/

/-- A location `n` bytes on in a space. -/
def Space.plus (p : Space) (n : Int) : Space :=
  match p with
  | .scratch a => .scratch ((a : Int) + n).toNat
  | .glob ap pr a => .glob ap pr ((a : Int) + n).toNat

/-- The location that a command of a core names. -/
def Space.toStore (core : Nat) : Space → StoreTo
  | .scratch a => match scratchAt core a with
    | .own off => .scratch (core * 0x80000 + off)
    | .other k off => .scratch (k * 0x80000 + off)
    | _ => .scratch (core * 0x80000)
  | .glob ap pr a => if ap = 2 then .peer pr a else if ap = 3 then .host a else .phys a

/-- Fields of an op record (10 R276). -/
def opKind (o : BitVec 256) : Nat := bitsAt o 0 4
def opSbuf (o : BitVec 256) : Nat := bitsAt o 4 2
def opDbuf (o : BitVec 256) : Nat := bitsAt o 6 2
def opVlen (o : BitVec 256) : Bool := bitAt o 11
def opTree (o : BitVec 256) : Nat := bitsAt o 16 6
def opDeps (o : BitVec 256) : Nat := bitsAt o 32 16
def opCidx (o : BitVec 256) : Nat := bitsAt o 48 16
def opEndpt (o : BitVec 256) : Nat := bitsAt o 64 6
def opPeer (o : BitVec 256) : Nat := bitsAt o 72 24
def opSoff (o : BitVec 256) : Nat := bitsAt o 96 32
def opDoff (o : BitVec 256) : Nat := bitsAt o 128 32
def opLen (o : BitVec 256) : Nat := bitsAt o 160 32
def opTag (o : BitVec 256) : Nat := bitsAt o 192 16
def opSucc (o : BitVec 256) (k : Nat) : Nat := bitsAt o (208 + 16 * k) 16

/-- The element size of an op in a graph; a MERGE counts FP32 words (10 R276). -/
def Graph.opEsz (g : Graph) (o : BitVec 256) : Nat := if opKind o = 3 then 4 else 2 ^ bitsAt g.header 32 2

/-- The source of a migration template: a slot, or fallow (15 R373). -/
def migrSource (t : BitVec 512) : RPlace := if bitsAt t 30 2 = 0 then .resident (bitsAt t 20 4) else .fallow

/-- Whether a migration template's destination is in this package (15 R373). -/
def State.migrHere (s : State) (t : BitVec 512) : Bool := bitsAt t 64 12 == bitsAt s.pkgid 0 12 && bitsAt t 80 10 == bitsAt s.pkgid 16 10

/-- A frame that a migration has taken, and its size: bit 0 of the number marks one of 256 MiB (15 R375). -/
def takenFrame (a : Nat) : Nat := a - a % 2
def takenSize (a : Nat) : Nat := if a % 2 = 1 then 0x10000000 else 65536

/-- The runs of bytes that a command would write. -/
def State.writeRuns (s : State) (b : CmdBody) : List (Space × Nat) :=
  match b with
  | .copy _ dst rlen nrow _ dstr _ _ _ _ => (List.range nrow).map fun r => (dst.plus ((r : Int) * dstr), rlen)
  | .coll _ g _ bufs _ _ _ _ _ => g.ops.flatMap fun o =>
      let e := g.opEsz o
      let buf := fun (k n : Nat) => (bufs[k]?.getD (.scratch 0)).plus n
      if opKind o = 1 ∨ opKind o = 3 ∨ opKind o = 4 ∨ opKind o = 5 then
        (buf (opDbuf o) (opDoff o * e), opLen o * e) ::
          (if opVlen o ∧ opKind o ≠ 4 then [(buf 3 (4 * opCidx o), 4)] else [])
      else []
  | .migr t stage taken _ _ _ =>
      if stage = 0 then [] else (.glob 0 0 (bitsAt t 256 64), 16) ::
        if s.migrHere t ∧ stage = 2 then taken.map fun a => (.glob 0 0 (takenFrame a), takenSize a) else []
  | .gran g dst dstr scales status _ =>
      let fp8 := s.granary.shards.any fun x => x.rec'.job == g.job && x.rec'.shard == g.shard && x.rec'.efmt == 2
      (List.range g.nblk).map (fun i => (dst.plus ((i : Int) * dstr), if fp8 then 16384 else 32768)) ++
        (if fp8 then [(scales, 4 * g.nblk)] else []) ++ [(status, 4)]

/-- The writes of a run of bytes from a space. -/
def runWrites (core : Nat) (p : Space) (bs : List Byte) : List EByte :=
  bs.zipIdx.map fun q => { dst := (p.toStore core).plus q.2, val := q.1 }

/-- The writes of a copy in the loop order of R255, for the rows from `i`. -/
def copyWrites (core : Nat) (dst : Space) (rlen : Nat) (dstr : Int) : Nat → Nat → List Byte → List EByte
  | 0, _, _ => []
  | n + 1, i, bs => runWrites core (dst.plus ((i : Int) * dstr)) (bs.take rlen) ++ copyWrites core dst rlen dstr n (i + 1) (bs.drop rlen)

/-- What a command leaves at the locations it writes, as far as that is known before it retires: all of a copy whose source bytes it
has, the ops of a collective that are complete (10 R270). -/
def Cmd.finalWrites (c : Cmd) : List EByte := match c.body with
  | .copy _ dst rlen nrow _ dstr _ data _ _ => copyWrites c.by'.core dst rlen dstr nrow 0 (data.map fun b => b.getD 0)
  | .coll _ _ _ _ _ _ _ _ data => data.map fun p => p.2
  | _ => []

/-- Those of its writes that a command has already made: what lies before its micro-program counter (10 R268). -/
def Cmd.doneWrites (c : Cmd) : List EByte := match c.body with
  | .copy _ _ rlen _ _ _ _ _ row byte => c.finalWrites.take (row * rlen + byte)
  | _ => []

/-- Writes bytes where they are committed: a scratchpad and its phase-start copy, memory, host memory. What another
package holds is not of this state. -/
def State.putCommitted (s : State) (slot : Nat) (d : StoreTo) (bs : List Byte) : State :=
  match d with
  | .scratch a => s.modSlot slot fun k => { k with pads := memPut k.pads a bs, shadow := memPut k.shadow a bs }
  | .phys a => { s with mem := physPut s.mem a bs }
  | .host a => { s with hostMem := memPut s.hostMem a bs }
  | .peer _ _ => s

/-- Where the frame of a saved gang keeps a scratchpad byte of a core of it (12 R310, R312). -/
def State.framedByte (s : State) (vr gang : Nat) (d : StoreTo) : StoreTo :=
  match d, s.rank? vr, s.gang? vr gang with
  | .scratch a, some r, some g => match g.cond with
    | .saved k _ _ => match g.cores.findIdx? fun c => c.coreno == a / 0x80000 with
      | some i => .phys (r.slotAddr k + 0x1000 + i * 0xE8000 + a % 0x80000)
      | none => d
    | _ => d
  | _, _, _ => d

/-- The bytes of runs take values that are not defined, those of a saved gang's own scratchpads in its frame (05 R133, 14 R351). -/
def State.undefine (s : State) (slot : Nat) (r : SRef) : List (Space × Nat) → State
  | [] => s
  | (p, n) :: t =>
    let (bs, s) := s.freeBytes n
    let d := p.toStore r.core
    let s := if s.framedByte r.vr r.gang d = d then s.putCommitted slot d bs
      else bs.zipIdx.foldl (fun (s : State) (q : Byte × Nat) => s.putCommitted slot (s.framedByte r.vr r.gang (d.plus q.2)) [q.1]) s
    s.undefine slot r t

/-- Releases one pin (13 R328). -/
def releasePin (locks : List Lock) (p : Pin) : List Lock :=
  (locks.map fun l =>
    if l.vr = p.vr ∧ l.va = p.va ∧ l.large = p.large ∧ l.frame = p.frame then { l with count := l.count - 1 } else l).filter
    fun l => l.count != 0

def State.releasePins (s : State) (ps : List Pin) : State := { s with locks := ps.foldl releasePin s.locks }

/-- Sets the placement entry of a VR (15 R367). -/
def State.setPlace (s : State) (vr : Nat) (e : Word) : State := { s with place := (s.place.filter fun p => p.1 != vr) ++ [(vr, e)] }

/-- The entry of a VR with another STATE and SLOT, which is 0 but for STATE 0 (15 R367). -/
def State.restate (s : State) (vr st slot : Nat) : Word := match s.place.find? fun p => p.1 == vr with
  | some p => putBits (putBits p.2 62 2 st) 32 4 (if st = 0 then slot else 0)
  | none => BitVec.ofNat 64 (st * 2 ^ 62 + if st = 0 then slot * 2 ^ 32 else 0)

/-- The other packages are told of a rank that has arrived at its step boundary, and whether STEPHOLD or a migration keeps the
step collective for it (15 R370, R372, log entry 2). -/
def State.tell (s : State) (vr : Nat) : State := match s.rank? vr with
  | some r =>
    if r.stepSt = .arrived then { s with out := s.out ++ [.stepArrival r.job vr (r.stephold || r.place == .transit)] } else s
  | none => s

/-- What a job knows of a rank held elsewhere: arrived at the step boundary, unless STEPHOLD keeps it (15 R370, R372). -/
def awayArrived (j : Job) (vr : Nat) (held : Bool) : Job :=
  { j with arrived := (j.arrived.filter fun v => v != vr) ++ if held then [] else [vr] }

/-- A rank leaves this package; that it has arrived at its step boundary stays known (15 R370). -/
def State.leaveRank (s : State) (r : Rank) : State :=
  { s with
    ranks := s.ranks.filter fun x => x.vr != r.vr
    jobs := if r.stepSt = .arrived then s.jobs.map fun (j : Job) => if j.id = r.job then awayArrived j r.vr r.stephold else j
      else s.jobs }

/-- Step 7 of a migration: the source slot is freed, or the rank leaves this package (15 R374). -/
def State.freeSource (s : State) (t : BitVec 512) : State :=
  let vr := bitsAt t 32 24
  let s := match migrSource t with
    | .resident k => s.modSlot k fun sl => if sl.occupant = some vr then { sl with occupant := none } else sl
    | _ => s
  if s.migrHere t then s
  else match s.rank? vr with
    | some r => s.leaveRank r
    | none => s

/-- A migration that ends before its commit leaves the rank in the state before it; one that is discarded after it has freed its
source (15 R368, R374). -/
def State.abandonMigr (s : State) (c : Cmd) : State :=
  match c.body with
  | .migr t stage _ _ _ _ =>
    let vr := bitsAt t 32 24
    if stage = 1 ∨ stage = 2 then
      ((s.modRank vr fun r => { r with place := migrSource t }).setPlace vr (s.restate vr (if bitsAt t 30 2 = 0 then 0 else 1) (bitsAt t 20 4))).tell vr
    else if stage = 3 then s.freeSource t
    else s
  | _ => s

/-- Discards commands: their destinations are undefined and their pins released (10 R273, 14 R351). -/
def State.discardCmds (s : State) (p : Cmd → Bool) : State :=
  let gone := s.cmds.filter p
  gone.foldl (fun s c => ((s.undefine ((s.slotOf c.by'.vr).getD 16) c.by' (s.writeRuns c.body)).releasePins c.pins).abandonMigr c)
    { s with cmds := s.cmds.filter fun c => !p c }

/-! ### Killing and discarding a gang (14 R341, R351) -/

/-- Ends a gang that has not completed: kills a started gang, discards one that has not started. Its streams are unbound
as by SUNBIND, its commands discarded, its marker retires ABANDONED and dependants resolve; an outstanding gang of the
schedule table faults the table (14 R341, R351, R360). -/
def State.endGang (s : State) (vr g : Nat) : State :=
  match s.gang? vr g with
  | none => s
  | some x =>
    let s := if x.holdsCores then
        x.cores.foldl (fun s c =>
          let r : SRef := { vr := vr, gang := g, core := c.coreno, strand := .l }
          (s.stopStreams r .l).stopStreams r .s) s else s
    let s := s.discardCmds fun c => c.by'.vr == vr && c.by'.gang == g
    let s := s.modRank vr fun r => ((r.dropGang g).retireGang x.launch true).settleAll
    match x.source with
    | .sched _ => s.schedFault vr 5
    | _ => s

/-- Ends a started gang with a kill notice (12 R299). -/
def State.killNotice (s : State) (r : SRef) (kind : Nat) (t : TrapBank) : State :=
  match s.gang? r.vr r.gang with
  | none => s
  | some g =>
    let st := (g.core? r.core).map fun c => c.strand r.strand
    let sid := strandCode r.strand
    let phase := match s.rank? r.vr with | some k => k.phaseno | none => 0
    let n := noticeRec kind sid r.core r.gang r.vr t ((st.map Strand.bank1).getD {}) ((st.map Strand.bank2).getD {}) g.cycle phase
    (s.endGang r.vr r.gang).notify n

/-! ### Traps (12 R300 to R307) -/

/-- TSTAT as trap entry writes it (12 R300). -/
def tstatOf (detail src zidx : Nat) (chain : Bool) : Word :=
  BitVec.ofNat 64 (detail * 256 + src * 64 + (if chain then 32 else 0) + zidx)

/-- Trap entry of R301, for any strand: `ret` is the return address of the cause. -/
def State.trapEntry (s : State) (r : SRef) (cause : Nat) (val : Word) (detail src zidx : Nat) (ret : Word) : State :=
  match s.strand? r with
  | none => s
  | some st =>
    let b : TrapBank := { tpc := ret, tcause := BitVec.ofNat 64 cause, tval := val,
                          tstat := tstatOf detail src zidx st.chain.isSome }
    let s := { s with trapped := true }
    if st.tlevel = 2 then s.killNotice r 1 b
    else if st.tvec = 0 then s.killNotice r 2 b
    else s.modStrand r fun st =>
      let st := if st.tlevel = 0 then { st with bank1 := b } else { st with bank2 := b }
      { st with tlevel := st.tlevel + 1, pc := st.tvec + BitVec.ofNat 64 (64 * cause), wait := none, waited := 0, waitiLeft := 0,
                ext := none }

/-- A synchronous trap of the acting strand whose return address is the instruction itself. -/
def State.trap (s : State) (st : Strand) (cause : Nat) (val : Word) (detail : Nat := 0) : State :=
  s.trapEntry s.cur cause val detail 0 0 st.pc

/-- TVAL of ILLOP and PRIV (06 R155). -/
def tvalWord (word : Nat) (bits : BitVec 32) : Word := BitVec.ofNat 64 (word * 2 ^ 32) + bits.setWidth 64

/-- The first word of an instruction, as TVAL reports it; the X column is word 3 (06 R155). -/
def State.wordVal (s : State) (i : Instr) : Word :=
  tvalWord (if s.cur.strand = .c then 3 else 0) (BitVec.ofNat 32 ((encode i).headD 0))

/-- ILLOP of the acting instruction (12 R303). -/
def State.illop (s : State) (st : Strand) (i : Instr) : State := s.trap st 1 (s.wordVal i)

/-- PRIV of the acting instruction (12 R303). -/
def State.priv (s : State) (st : Strand) (i : Instr) : State := s.trap st 2 (s.wordVal i)

/-- TRET: one level back; bank n keeps its contents (12 R305). -/
def Strand.trapReturn (st : Strand) : Strand :=
  let b := if st.tlevel = 1 then st.bank1 else st.bank2
  { st with pc := b.tpc, tlevel := st.tlevel - 1, waited := 0, waitiLeft := 0, wait := none }

/-- Records a refusal of a posted access at its strand (12 R307). -/
def State.postRefusal (s : State) (r : SRef) (va : Word) (detail : Nat) : State :=
  s.modStrand r fun st =>
    { st with asyncs := st.asyncs ++ [{ cause := 0x10, tval := va, detail := detail, src := 2, zidx := 0 }] }

/-- The asynchronous trap that a boundary of the strand takes: stream faults first, lowest z first, then refusals in
order of arrival (12 R307). -/
def Strand.nextAsync (st : Strand) : Option AsyncTrap :=
  match (st.asyncs.filter fun a => a.src == 1).foldl (fun b a => match b with
      | none => some a
      | some x => if a.zidx < x.zidx then some a else some x) (none : Option AsyncTrap) with
  | some a => some a
  | none => st.asyncs.find? fun a => a.src == 2

end Sys2Proof.Machine
end

