-- ==== Sys2Proof/Machine/Flags.lean ====
section
/-! DEFINITION. STATUS (02 R67), FPFLAGS (02 R68), the compare conditions (06 R141, 07 R167). -/

namespace Sys2Proof.Machine

/-- STATUS as RDCTL returns it (02 R67). -/
def Strand.status (st : Strand) : Word :=
  BitVec.ofNat 64 ((if st.dzt then 1 else 0) + (if st.sup then 4 else 0) + (if st.lp0.active then 64 else 0)
    + (if st.lp1.active then 128 else 0))

/-- The reserved bits of STATUS (02 R67). -/
def statusReserved : Word := 0xFFFFFFFFFFFFFF32

/-- WRCTL of STATUS: only DZT is written; the read-only fields ignore what is written (07 R194). -/
def Strand.writeStatus (st : Strand) (v : Word) : Strand := { st with dzt := v.getLsbD 0 }

/-- FPFLAGS as RDCTL returns it (02 R68). -/
def Strand.fpflagsWord (st : Strand) : Word := st.fpflags.setWidth 64

/-- Clears the flags written as 1 (02 R68). -/
def Strand.clearFlags (st : Strand) (v : Word) : Strand := { st with fpflags := st.fpflags &&& ~~~(v.setWidth 5) }

/-- Sets flags that operations raise (02 R68). -/
def Strand.raiseFlags (st : Strand) (f : FFlags) : Strand := { st with fpflags := st.fpflags ||| f }

/-- The truth of a condition on two n-bit values (07 R167). -/
def condHolds (c : Cond) {n : Nat} (a b : BitVec n) : Bool :=
  match c with
  | .eq => a == b
  | .ne => a != b
  | .lt => a.slt b
  | .ge => b.sle a
  | .ltu => a.ult b
  | .geu => b.ule a
  | .le => a.sle b
  | .gt => b.slt a
  | .leu => a.ule b
  | .gtu => b.ult a

end Sys2Proof.Machine
end

