-- ==== Sys2Proof/Machine/Walk.lean ====
section
/-! DEFINITION. Page-table walks (13 R315 to R322), transparent paging (13 R330, R331), frame slots (12 R296), and fetching
the bytes of an instruction (06 R135). -/

namespace Sys2Proof.Machine

/-! ### Walks -/

/-- What a walk finds (13 R320). -/
inductive WalkRes where
  | leaf (e : BitVec 128) (at' : Nat) (large : Bool)
  | absent (rm : Bool)
  | badClass
  | badFrame
  deriving DecidableEq, Repr

/-- The byte that the home holds: the committed value as modified by the atomics of the phase (05 R125). -/
def State.homeByte (s : State) (a : Nat) : Byte := match s.home.find? fun e => e.addr == a with
  | some e => e.val
  | none => physRead s.mem a

def State.homeBytes (s : State) (a n : Nat) : List Byte := (List.range n).map fun i => s.homeByte (a + i)

/-- A page-table entry as it stands in memory, not under the phase rule (13 R320): with the atomics that have performed. -/
def State.pte (s : State) (a : Nat) : BitVec 128 := BitVec.ofNat 128 (leNat (s.homeBytes a 16))

/-- Fields of a leaf entry (13 R318). -/
def leafV (e : BitVec 128) : Bool := bitAt e 0
def leafAper (e : BitVec 128) : BitVec 2 := e.extractLsb' 2 2
def leafRap (e : BitVec 128) : Bool := bitAt e 4
def leafR (e : BitVec 128) : Bool := bitAt e 5
def leafW (e : BitVec 128) : Bool := bitAt e 6
def leafX (e : BitVec 128) : Bool := bitAt e 7
def leafRM (e : BitVec 128) : Bool := bitAt e 10
def leafEmask (e : BitVec 128) : BitVec 16 := e.extractLsb' 12 16
def leafL2c (e : BitVec 128) : Nat := bitsAt e 28 4
def leafPeer (e : BitVec 128) : BitVec 12 := e.extractLsb' 112 12

/-- The address that NEXT of a pointer names (13 R317). -/
def pteNext (e : BitVec 128) : Nat := bitsAt e 64 48 * 65536

/-- The physical address of the page of a leaf; a 256 MiB leaf takes bits 75 to 64 as 0 (13 R318). -/
def leafFrame (e : BitVec 128) (large : Bool) : Nat :=
  let f := bitsAt e 64 48 * 65536
  if large then f / 0x10000000 * 0x10000000 else f

/-- The size of a page (13 R315). -/
def pageSize (large : Bool) : Nat := if large then 0x10000000 else 0x10000

/-- The address of the page that holds `va`. -/
def pageVa (va : Nat) (large : Bool) : Nat := va / pageSize large * pageSize large

/-- Whether a frame lies where its aperture asks: a stack of a slot of the partition that is not withdrawn, or the LPDDR-6
(13 R319, 12 R292). -/
def State.frameOk (s : State) (part : Nat) (ap : BitVec 2) (frame : Nat) : Bool :=
  if ap = 0 then
    match stackOf frame with
    | some k => s.partOf k == part && bitAt s.clavail k
    | none => false
  else if ap = 1 then inLpddr frame
  else true

/-- The checks of a leaf that a walk ends in (13 R320). -/
def State.checkLeaf (s : State) (part : Nat) (e : BitVec 128) (a : Nat) (large : Bool) : WalkRes :=
  if 3 ≤ leafL2c e then .badClass
  else if s.frameOk part (leafAper e) (leafFrame e large) then .leaf e a large
  else .badFrame

/-- The walk of R320 from a root for a 48-bit address. -/
def State.walk (s : State) (part : Nat) (root : Word) (va : Nat) : WalkRes :=
  if !bitAt root 0 then .absent true
  else
    let e3 := s.pte (bitsAt root 12 52 * 4096 + va / 2 ^ 40 % 256 * 16)
    if !leafV e3 then .absent (leafRM e3)
    else
      let a2 := pteNext e3 + va / 2 ^ 28 % 4096 * 16
      let e2 := s.pte a2
      if !leafV e2 then .absent (leafRM e2)
      else if bitAt e2 1 then s.checkLeaf part e2 a2 true
      else
        let a1 := pteNext e2 + va / 2 ^ 16 % 4096 * 16
        let e1 := s.pte a1
        if !leafV e1 then .absent (leafRM e1) else s.checkLeaf part e1 a1 false

/-- The partition of a rank's slot. -/
def State.partOfRank (s : State) (vr : Nat) : Nat := match s.slotOf vr with
  | some k => s.partOf k
  | none => 0

/-- The root that a strand walks: its rank's, or for a supervisor strand its partition's (12 R290). -/
def State.rootOf (s : State) (vr : Nat) (sup : Bool) : Word :=
  if sup then s.sptroot[s.partOfRank vr]?.getD 0
  else match s.rank? vr with
    | some r => r.ptroot
    | none => 0

/-- The generation of the space that a strand walks (12 R290, R295). -/
def State.genOf (s : State) (vr : Nat) (sup : Bool) : Word :=
  if sup then s.supgen[s.partOfRank vr]?.getD 0
  else match s.rank? vr with
    | some r => r.gen
    | none => 0

/-- The walk of a strand. -/
def State.walkFor (s : State) (vr : Nat) (sup : Bool) (va : Nat) : WalkRes :=
  s.walk (s.partOfRank vr) (s.rootOf vr sup) va

/-- An atomic OR of bits into a byte of memory, and into what its home holds of it (13 R322). -/
def State.orByte (s : State) (a : Nat) (bits : Byte) : State :=
  { s with
    mem := physWrite s.mem a (physRead s.mem a ||| bits)
    home := s.home.map fun e => if e.addr = a then { e with val := e.val ||| bits } else e }

/-- Sets A, and D where asked, in a leaf in memory (13 R322). -/
def State.markLeaf (s : State) (a : Nat) (dirty : Bool) : State := s.orByte (a + 1) (if dirty then 0x03 else 0x01)

/-- Sets D alone (13 R322). -/
def State.markDirty (s : State) (a : Nat) : State := s.orByte (a + 1) 0x02

/-! ### Frame slots and halting -/

/-- The lowest free context-frame slot (12 R296). -/
def Rank.freeSlot (r : Rank) : Option Nat :=
  (List.range (bitsAt r.frpool 0 8)).find? fun k => !(r.frames.any fun f => f.slot == k)

/-- Requests pre-emption of a placed gang into a frame slot (12 R308). -/
def Rank.requestHalt (r : Rank) (g slot why : Nat) : Rank :=
  { (r.modGang g fun x => { x with cond := .halting slot why }) with frames := r.frames ++ [{ slot := slot, gang := g }] }

/-- Pages a gang for an absent page that is not rank-managed (13 R330, R331): a notice once for each page and save,
pre-emption into a free slot if there is one, else the gang stays. -/
def State.pageGang (s : State) (r : SRef) (va : Nat) (detail : Nat) (pc : Word) : State :=
  match s.rank? r.vr, s.gang? r.vr r.gang with
  | some k, some g =>
    let page := va / 65536
    let pick := match g.cond with
      | .placed => (k.freeSlot.map fun f => (f, true))
      | .halting f _ => some (f, false)
      | _ => none
    let saves := match pick with
      | some (_, true) => true
      | _ => false
    let told := !saves && k.pagedOnce.any fun p => p.1 == r.gang && p.2 == page
    let s := match pick with
      | some (f, true) => s.modRank r.vr fun k => k.requestHalt r.gang f 1
      | _ => s
    if told then s
    else
      let t : TrapBank := { tpc := pc, tcause := 7, tval := BitVec.ofNat 64 va, tstat := tstatOf detail 0 0 false }
      let addr := match pick with
        | some (f, _) => k.slotAddr f
        | none => 0
      let sid := strandCode r.strand
      let kept := if saves then k.pagedOnce.filter fun p => p.1 != r.gang else k.pagedOnce
      (s.modRank r.vr fun k => { k with pagedOnce := kept ++ [(r.gang, page)] }).notify
        (noticeRec 4 sid r.core r.gang r.vr t { tpc := BitVec.ofNat 64 addr } {} g.cycle k.phaseno)
  | _, _ => s

/-! ### Fetch (06 R135) -/

/-- What a fetch gives: the bytes with the leaf's place and the free values among them, a trap, or a page to be paged in. -/
inductive Fetch where
  | ok (bytes : List Byte) (leafAt : Nat) (used : Nat)
  | trap (cause : Nat) (val : Word) (detail : Nat)
  | page (va : Nat)
  deriving DecidableEq, Repr

/-- Bytes of a page of code by aperture (04 R107), and how many of them are open: those of another package (log entry 15). DESIGN
CHOICE (log entry 44): a fetch reads committed memory as it stands in its cycle, neither the core's own buffered stores nor older bytes
that an instruction cache might hold. -/
def State.codeBytes (s : State) (e : BitVec 128) (a n : Nat) : List Byte × Nat :=
  if leafAper e = 3 then (memBytes s.hostMem a n, 0)
  else if leafAper e = 2 ∧ (leafPeer e).toNat ≠ bitsAt s.pkgid 0 12 then ((List.range n).map fun i => Config.freeByte (s.free + i), n)
  else (physBytes s.mem a n, 0)

/-- Fetches a unit of `n` bytes at an address aligned to `n` for a strand (06 R135, 13 R320). -/
def State.fetch (s : State) (vr : Nat) (sup : Bool) (pc : Word) (n : Nat) : Fetch :=
  let va := pc.toNat
  if 2 ^ 48 ≤ va then .trap 7 pc 0x84
  else if va % n ≠ 0 then .trap 0xA pc 0
  else match s.walkFor vr sup va with
    | .absent true => .trap 7 pc 0x82
    | .absent false => .page va
    | .badClass => .trap 7 pc 0x83
    | .badFrame => .trap 7 pc 0x82
    | .leaf e a large =>
      let (bs, used) := s.codeBytes e (leafFrame e large + va % pageSize large) n
      if leafX e then .ok bs a used else .trap 8 pc 3

/-- A fetch that does not give bytes: the trap, or paging with the strand waiting (06 R135, 13 R330). -/
def State.fetchFail (s : State) (r : SRef) (st : Strand) (f : Fetch) : State :=
  match f with
  | .trap c v d => s.trapEntry r c v d 0 0 st.pc
  | .page va =>
    (s.pageGang r va 0x82 st.pc).modStrand r fun st =>
      { st with wait := some (.paging (BitVec.ofNat 64 va) (s.genOf r.vr st.sup)) }
  | .ok _ _ _ => s

end Sys2Proof.Machine
end

