-- ==== Sys2Proof/Machine/Operands.lean ====
section
/-! DEFINITION. The operand forms of the strand instructions: immediates (06 R136), scratch operands with their checks (04 R97,
R98, R104; 07 R175), handle operands with theirs (04 R106, 07 R176), queue and ring operands with their TVAL (02 R57, R59;
12 R304). -/

namespace Sys2Proof.Machine

/-- An immediate of `n` bits sign-extended (00 R7). -/
def sextImm {n : Nat} (i : BitVec n) : Word := i.signExtend 64

/-- An immediate of `n` bits zero-extended. -/
def zextImm {n : Nat} (i : BitVec n) : Word := i.setWidth 64

/-- The low bytes of a register as a store writes them. -/
def lowBytes (v : Word) (n : Nat) : List Byte := leBytes n v.toNat

/-- Bytes zero-extended to a register. -/
def zextBytes (bs : List Byte) : Word := BitVec.ofNat 64 (leNat bs)

/-! ### Ownership (02 R45) -/

/-- Whether a strand owns register `k` of 16 of which L has the lower half and S the upper. -/
def ownsHalf (i : StrandId) (k : Nat) : Bool :=
  match i with
  | .l => k < 8
  | .s => 8 ≤ k && k < 16
  | .c => false

/-! ### Scratch operands -/

/-- The address of SLD and SST, a 64-bit sum (07 R175). -/
def scratchOperand (x : Word) (off : BitVec 14) (sz : Nat) : Word := x + (sextImm off) * BitVec.ofNat 64 (2 ^ sz)

/-- The window-table entry of a rank (04 R103). -/
def State.wtbl (s : State) (vr w : Nat) : Word := match s.rank? vr with
  | some r => r.wtbl[w]?.getD 0
  | none => 0

/-- Fields of a window-table entry (04 R103). -/
def wtblV (e : Word) : Bool := bitAt e 63
def wtblTarget (e : Word) : Nat := bitsAt e 32 24
def wtblFirst (e : Word) : Nat := bitsAt e 24 8
def wtblCnt (e : Word) : Nat := bitsAt e 16 8
def wtblCeil (e : Word) : BitVec 16 := e.extractLsb' 0 16

/-- Whether a byte of scratch space lies in a row of R97 that the strand may name, windows included (04 R97, R104). -/
def State.scratchMapped (s : State) (r : SRef) (cores : List Nat) (a : Nat) : Bool :=
  match scratchAt r.core a with
  | .own _ => a < 0x80000 || cores.contains r.core
  | .other k _ => cores.contains k
  | .window w o => wtblV (s.wtbl r.vr w) && o / 0x80000 ≤ wtblCnt (s.wtbl r.vr w)
  | .unmapped => false

/-- The violation of an SLD or SST of `n` bytes at an address: SCRADDR before ALIGN (04 R97, R98; 07 R175). -/
def State.scratchViolation (s : State) (r : SRef) (a : Word) (n : Nat) : Option (Nat × Word) :=
  if 2 ^ 32 ≤ a.toNat then some (0xB, a)
  else match (List.range n).find? fun i => !s.scratchMapped r (s.gangCores r) (a.toNat + i) with
    | some i => some (0xB, a + BitVec.ofNat 64 i)
    | none => if a.toNat % n = 0 then none else some (0xA, a)

/-- The target of a window address: rank, core and byte (04 R104). -/
def State.windowTarget (s : State) (vr w o : Nat) : Nat × Nat × Nat :=
  let e := s.wtbl vr w
  (wtblTarget e, wtblFirst e + o / 0x80000, o % 0x80000)

/-- The violation of a record of `n` bytes in the own scratchpad at an address aligned to `al` (14 R347, R364; 09 R261). -/
def recordViolation (a : Word) (n al : Nat) : Option (Nat × Word) :=
  if 0x80000 < a.toNat + n then some (0xB, a) else if a.toNat % al = 0 then none else some (0xA, a)

/-- The offset in the own scratchpad that a scratch address names, by either alias (04 R98). -/
def padOff (core : Nat) (a : Word) : Nat := match scratchAt core a.toNat with
  | .own off => off
  | _ => a.toNat

/-- The violation of a record of `n` bytes in the own scratchpad, by either alias: TVAL of SCRADDR is the first byte outside (04 R97,
R98; 09 R261; 14 R364). -/
def recordSpan (core : Nat) (a : Word) (n al : Nat) : Option (Nat × Word) :=
  match scratchAt core a.toNat with
  | .own off =>
    if 0x80000 < off + n then some (0xB, a + BitVec.ofNat 64 (0x80000 - off)) else if off % al = 0 then none else some (0xA, a)
  | _ => some (0xB, a)

/-! ### Handle operands -/

/-- The offset within the page (04 R106). -/
def handleOffset (x : Word) (off : BitVec 10) (sz : Nat) : Word := x + (zextImm off) * BitVec.ofNat 64 (2 ^ sz)

/-- The permission that an access needs, with its XPERM detail (07 R176, 12 R303). -/
inductive Perm where
  | r | w | a
  deriving DecidableEq, Repr

/-- The bit of the handle's permissions for a need: R is bit 3, W bit 2, A bit 1 (06 R141). -/
def Perm.bit : Perm → Nat
  | .r => 3
  | .w => 2
  | .a => 1

def Perm.detail : Perm → Nat
  | .r => 1
  | .w => 2
  | .a => 4

/-- TVAL of STALEH: the handle index and the address of its page (07 R176). -/
def stalehVal (idx : Nat) (h : Handle) : Word := BitVec.ofNat 64 (idx * 2 ^ 48 + h.va % 2 ^ 48)

/-- The checks of R176 in their order; a failure is a cause, its TVAL and its DETAIL. -/
def Handle.violation (h : Handle) (idx : Nat) (need : Perm) (po : Word) (n al : Nat) : Option (Nat × Word × Nat) :=
  let va := BitVec.ofNat 64 h.va + po
  if !h.valid then some (9, stalehVal idx h, 0)
  else if !bitAt h.perm need.bit then some (8, va, need.detail)
  else if pageSize h.large < po.toNat + n then some (7, va, 1)
  else if po.toNat % al ≠ 0 then some (0xA, va, 0)
  else none

/-- Whether an XLATE into handle `h` has not been delivered: instructions that name it wait (07 R182). -/
def Strand.handlePending (st : Strand) (h : Nat) : Bool := st.xlates.any fun x => x.h == h

/-! ### Queue and ring operands -/

/-- TVAL of QCLOSED and QTIMEOUT (12 R304). -/
def queueVal (ring : Bool) (idx : Nat) (tail head : BitVec 16) : Word :=
  BitVec.ofNat 64 ((if ring then 2 ^ 40 else 0) + idx * 2 ^ 32 + tail.toNat * 2 ^ 16 + head.toNat)

/-- Fields of a ring register (02 R59). -/
def ringTail (g : Word) : BitVec 16 := g.extractLsb' 48 16
def ringHead (g : Word) : BitVec 16 := g.extractLsb' 32 16
def ringEsz (g : Word) : Nat := bitsAt g 28 4
def ringLogn (g : Word) : Nat := bitsAt g 24 4
def ringBase (g : Word) : Nat := bitsAt g 0 22 * 64

/-- Entries in a ring, and whether it is full (02 R59). -/
def ringCount (g : Word) : Nat := (ringTail g - ringHead g).toNat
def ringFull (g : Word) : Bool := ringCount g == 2 ^ ringLogn g

/-- The scratch address of ring entry `i` (07 R186). -/
def ringSlot (g : Word) (i : BitVec 16) : Nat := ringBase g + i.toNat % 2 ^ ringLogn g * 2 ^ (ringEsz g + 3)

/-- A ring register with another tail or head. -/
def ringWithTail (g : Word) (t : BitVec 16) : Word := putBits g 48 16 t.toNat
def ringWithHead (g : Word) (h : BitVec 16) : Word := putBits g 32 16 h.toNat

/-- Whether the whole area of a ring lies in the own scratchpad or in one scratchpad of the cluster range (02 R59) of a core
of the gang (04 R97). -/
def ringAreaOk (coreno : Nat) (cores : List Nat) (g : Word) : Bool :=
  let a := ringBase g
  let n := 2 ^ (ringEsz g + 3 + ringLogn g)
  match scratchAt coreno a, scratchAt coreno (a + n - 1) with
  | .own x, .own y => x + n == y + 1
  | .other j x, .other k y => j == k && x + n == y + 1 && cores.contains j
  | _, _ => false

/-- The first address of a ring's area that breaks its bounds, for SCRADDR (02 R59, 04 R97). -/
def ringOffending (coreno : Nat) (cores : List Nat) (g : Word) : Nat :=
  let a := ringBase g
  match scratchAt coreno a with
  | .own off => a + (0x80000 - off)
  | .other k off => if cores.contains k then a + (0x80000 - off) else a
  | _ => a

/-- The place of a ring entry in the scratchpads of the slot (core × 2^19 + byte): its accesses perform at once at the port
that holds it (02 R59). -/
def ringPlace (coreno a : Nat) : Nat :=
  match scratchAt coreno a with
  | .own off => coreno * 0x80000 + off
  | .other k off => k * 0x80000 + off
  | _ => 0

/-- The 8 bytes of a ring entry as its port holds them. DESIGN CHOICE (log entry 44): what the owner of the scratchpad reads from an area
that another core uses as a ring in the phase, and what the area holds afterwards, are these bytes too (02 R59 leaves them open). -/
def State.ringRead (s : State) (vr coreno a : Nat) : Word :=
  match s.slotOf vr with
  | some k => zextBytes (memBytes (s.slot k).pads (ringPlace coreno a) 8)
  | none => 0

/-- Writes the 8 bytes of a ring entry at its port. -/
def State.ringWrite (s : State) (vr coreno a : Nat) (v : Word) : State :=
  match s.slotOf vr with
  | some k => s.modSlot k fun sl => { sl with pads := memPut sl.pads (ringPlace coreno a) (lowBytes v 8) }
  | none => s

end Sys2Proof.Machine
end

