-- ==== Sys2Proof/Machine/Alu.lean ====
section
/-! DEFINITION. Integer arithmetic, compares, predicate logic and select (07 R163 to R169). -/

namespace Sys2Proof.Machine

/-! ### The operations on n-bit values (07 R163, R164) -/

/-- A shift amount: the low 6 bits, or the low 5 for 32-bit values (07 R163). -/
def shiftAmount {n : Nat} (b : BitVec n) : Nat := b.toNat % n

/-- Clamps an exact result to n signed bits (07 R163). -/
def clampSigned (n : Nat) (x : Int) : BitVec n :=
  BitVec.ofInt n (if x < -(2 ^ (n - 1) : Nat) then -(2 ^ (n - 1) : Nat) else if (2 ^ (n - 1) : Nat) ≤ x then (2 ^ (n - 1) : Nat) - 1 else x)

/-- Leading zero bits (07 R163). -/
def leadingZeros {n : Nat} (a : BitVec n) : Nat := if a.toNat = 0 then n else n - 1 - Nat.log2 a.toNat

/-- One bits (07 R163). -/
def oneBits {n : Nat} (a : BitVec n) : Nat := ((List.range n).filter fun i => a.getLsbD i).length

/-- Signed quotient: all bits set for a divisor of 0, the dividend for the overflow case (07 R164). -/
def divSigned {n : Nat} (a b : BitVec n) : BitVec n := if b = 0 then BitVec.allOnes n else a.sdiv b

/-- Unsigned quotient (07 R164). -/
def divUnsigned {n : Nat} (a b : BitVec n) : BitVec n := if b = 0 then BitVec.allOnes n else a.udiv b

/-- Signed remainder, of the sign of the dividend (07 R164). -/
def remSigned {n : Nat} (a b : BitVec n) : BitVec n := if b = 0 then a else a.srem b

/-- Unsigned remainder (07 R164). -/
def remUnsigned {n : Nat} (a b : BitVec n) : BitVec n := if b = 0 then a else a.umod b

/-- High half of the signed product (07 R163). -/
def mulHighSigned {n : Nat} (a b : BitVec n) : BitVec n := BitVec.ofInt n (a.toInt * b.toInt / (2 ^ n : Nat))

/-- High half of the unsigned product (07 R163). -/
def mulHighUnsigned {n : Nat} (a b : BitVec n) : BitVec n := BitVec.ofNat n (a.toNat * b.toNat / 2 ^ n)

/-- An operation at 64 bits, or on the low 32 bits with its result sign-extended (07 R163, the W forms). -/
def atWidth (w : Bool) (f : (n : Nat) → BitVec n → BitVec n → BitVec n) (a b : Word) : Word :=
  if w then (f 32 (a.setWidth 32) (b.setWidth 32)).signExtend 64 else f 64 a b

/-- An ALU operation on two registers (07 R163). -/
def State.aluOp (s : State) (d a b : XReg) (w : Bool) (f : (n : Nat) → BitVec n → BitVec n → BitVec n) :
    Host.Outcome State Fault Refusal :=
  s.writeReg d fun st => atWidth w f (st.rx a) (st.rx b)

/-- A division: DIVZ for a divisor of 0 with STATUS.DZT set, TVAL 0, rd unwritten (07 R164). -/
def State.divOp (s : State) (d a b : XReg) (w : Bool) (f : (n : Nat) → BitVec n → BitVec n → BitVec n) :
    Host.Outcome State Fault Refusal :=
  s.acting fun st =>
    if st.dzt && (if w then (st.rx b).setWidth 32 == (0 : BitVec 32) else st.rx b == 0) then s.trap st 4 0
    else s.retire (st.wx d (atWidth w f (st.rx a) (st.rx b)))

/-! ### ALU -/

/-- ADD (07 R163). -/
def execAdd (d a b : XReg) (w : Bool) (s : State) : Host.Outcome State Fault Refusal :=
  s.aluOp d a b w fun _ x y => x + y

/-- SUB (07 R163). -/
def execSub (d a b : XReg) (w : Bool) (s : State) : Host.Outcome State Fault Refusal :=
  s.aluOp d a b w fun _ x y => x - y

/-- AND (07 R163). -/
def execAnd (d a b : XReg) (w : Bool) (s : State) : Host.Outcome State Fault Refusal :=
  s.aluOp d a b w fun _ x y => x &&& y

/-- OR (07 R163). -/
def execOr (d a b : XReg) (w : Bool) (s : State) : Host.Outcome State Fault Refusal :=
  s.aluOp d a b w fun _ x y => x ||| y

/-- XOR (07 R163). -/
def execXor (d a b : XReg) (w : Bool) (s : State) : Host.Outcome State Fault Refusal :=
  s.aluOp d a b w fun _ x y => x ^^^ y

/-- ANDN (07 R163). -/
def execAndn (d a b : XReg) (w : Bool) (s : State) : Host.Outcome State Fault Refusal :=
  s.aluOp d a b w fun _ x y => x &&& ~~~y

/-- SHL (07 R163). -/
def execShl (d a b : XReg) (w : Bool) (s : State) : Host.Outcome State Fault Refusal :=
  s.aluOp d a b w fun _ x y => x <<< shiftAmount y

/-- SHR (07 R163). -/
def execShr (d a b : XReg) (w : Bool) (s : State) : Host.Outcome State Fault Refusal :=
  s.aluOp d a b w fun _ x y => x >>> shiftAmount y

/-- SAR (07 R163). -/
def execSar (d a b : XReg) (w : Bool) (s : State) : Host.Outcome State Fault Refusal :=
  s.aluOp d a b w fun _ x y => x.sshiftRight (shiftAmount y)

/-- ROT (07 R163). -/
def execRot (d a b : XReg) (w : Bool) (s : State) : Host.Outcome State Fault Refusal :=
  s.aluOp d a b w fun _ x y => x.rotateLeft (shiftAmount y)

/-- MUL (07 R163). -/
def execMul (d a b : XReg) (w : Bool) (s : State) : Host.Outcome State Fault Refusal :=
  s.aluOp d a b w fun _ x y => x * y

/-- MULH (07 R163). -/
def execMulh (d a b : XReg) (w : Bool) (s : State) : Host.Outcome State Fault Refusal :=
  s.aluOp d a b w fun _ x y => mulHighSigned x y

/-- MULHU (07 R163). -/
def execMulhu (d a b : XReg) (w : Bool) (s : State) : Host.Outcome State Fault Refusal :=
  s.aluOp d a b w fun _ x y => mulHighUnsigned x y

/-- DIV (07 R164). -/
def execDiv (d a b : XReg) (w : Bool) (s : State) : Host.Outcome State Fault Refusal :=
  s.divOp d a b w fun _ x y => divSigned x y

/-- DIVU (07 R164). -/
def execDivu (d a b : XReg) (w : Bool) (s : State) : Host.Outcome State Fault Refusal :=
  s.divOp d a b w fun _ x y => divUnsigned x y

/-- REM (07 R164). -/
def execRem (d a b : XReg) (w : Bool) (s : State) : Host.Outcome State Fault Refusal :=
  s.divOp d a b w fun _ x y => remSigned x y

/-- REMU (07 R164). -/
def execRemu (d a b : XReg) (w : Bool) (s : State) : Host.Outcome State Fault Refusal :=
  s.divOp d a b w fun _ x y => remUnsigned x y

/-- MIN (07 R163). -/
def execMin (d a b : XReg) (w : Bool) (s : State) : Host.Outcome State Fault Refusal :=
  s.aluOp d a b w fun _ x y => if x.slt y then x else y

/-- MAX (07 R163). -/
def execMax (d a b : XReg) (w : Bool) (s : State) : Host.Outcome State Fault Refusal :=
  s.aluOp d a b w fun _ x y => if x.slt y then y else x

/-- MINU (07 R163). -/
def execMinu (d a b : XReg) (w : Bool) (s : State) : Host.Outcome State Fault Refusal :=
  s.aluOp d a b w fun _ x y => if x.ult y then x else y

/-- MAXU (07 R163). -/
def execMaxu (d a b : XReg) (w : Bool) (s : State) : Host.Outcome State Fault Refusal :=
  s.aluOp d a b w fun _ x y => if x.ult y then y else x

/-- ADDS (07 R163). -/
def execAdds (d a b : XReg) (w : Bool) (s : State) : Host.Outcome State Fault Refusal :=
  s.aluOp d a b w fun n x y => clampSigned n (x.toInt + y.toInt)

/-- SUBS (07 R163). -/
def execSubs (d a b : XReg) (w : Bool) (s : State) : Host.Outcome State Fault Refusal :=
  s.aluOp d a b w fun n x y => clampSigned n (x.toInt - y.toInt)

/-- CLZ (07 R163). -/
def execClz (d a : XReg) (w : Bool) (s : State) : Host.Outcome State Fault Refusal :=
  s.writeReg d fun st => atWidth w (fun n x _ => BitVec.ofNat n (leadingZeros x)) (st.rx a) 0

/-- POPC (07 R163). -/
def execPopc (d a : XReg) (w : Bool) (s : State) : Host.Outcome State Fault Refusal :=
  s.writeReg d fun st => atWidth w (fun n x _ => BitVec.ofNat n (oneBits x)) (st.rx a) 0

/-- SEXT.B, .H, .W (07 R163). -/
def execSext (d a : XReg) (k : BitVec 2) (s : State) : Host.Outcome State Fault Refusal :=
  s.writeReg d fun st => ((st.rx a).setWidth (8 * 2 ^ k.toNat)).signExtend 64

/-- ZEXT.B, .H, .W (07 R163). -/
def execZext (d a : XReg) (k : BitVec 2) (s : State) : Host.Outcome State Fault Refusal :=
  s.writeReg d fun st => ((st.rx a).setWidth (8 * 2 ^ k.toNat)).setWidth 64

/-! ### Immediates (07 R165, R166) -/

/-- ADDI (07 R165). -/
def execAddi (d a : XReg) (i : BitVec 16) (s : State) : Host.Outcome State Fault Refusal :=
  s.writeReg d fun st => st.rx a + sextImm i

/-- ANDI (07 R165). -/
def execAndi (d a : XReg) (i : BitVec 16) (s : State) : Host.Outcome State Fault Refusal :=
  s.writeReg d fun st => st.rx a &&& zextImm i

/-- ORI (07 R165). -/
def execOri (d a : XReg) (i : BitVec 16) (s : State) : Host.Outcome State Fault Refusal :=
  s.writeReg d fun st => st.rx a ||| zextImm i

/-- XORI (07 R165). -/
def execXori (d a : XReg) (i : BitVec 16) (s : State) : Host.Outcome State Fault Refusal :=
  s.writeReg d fun st => st.rx a ^^^ zextImm i

/-- LI (07 R165). -/
def execLi (d : XReg) (i : BitVec 16) (s : State) : Host.Outcome State Fault Refusal := s.writeReg d fun _ => sextImm i

/-- LIS (07 R165). -/
def execLis (d : XReg) (i : BitVec 16) (s : State) : Host.Outcome State Fault Refusal :=
  s.writeReg d fun st => (st.rx d <<< 16) ||| zextImm i

/-- A shift by an immediate amount (07 R166). -/
def State.shiftImm (s : State) (d a : XReg) (w : Bool) (n : BitVec 6) (f : (n : Nat) → BitVec n → BitVec n → BitVec n) :
    Host.Outcome State Fault Refusal :=
  s.writeReg d fun st => atWidth w f (st.rx a) (n.setWidth 64)

/-- SHLI (07 R166). -/
def execShli (d a : XReg) (w : Bool) (n : BitVec 6) (s : State) : Host.Outcome State Fault Refusal :=
  s.shiftImm d a w n fun _ x y => x <<< shiftAmount y

/-- SHRI (07 R166). -/
def execShri (d a : XReg) (w : Bool) (n : BitVec 6) (s : State) : Host.Outcome State Fault Refusal :=
  s.shiftImm d a w n fun _ x y => x >>> shiftAmount y

/-- SARI (07 R166). -/
def execSari (d a : XReg) (w : Bool) (n : BitVec 6) (s : State) : Host.Outcome State Fault Refusal :=
  s.shiftImm d a w n fun _ x y => x.sshiftRight (shiftAmount y)

/-- ROTI (07 R166). -/
def execRoti (d a : XReg) (w : Bool) (n : BitVec 6) (s : State) : Host.Outcome State Fault Refusal :=
  s.shiftImm d a w n fun _ x y => x.rotateLeft (shiftAmount y)

/-! ### Compares, predicate logic, select (07 R167 to R169) -/

/-- Completes with a truth value in bit 0 of a predicate, its other bits cleared (02 R48). -/
def State.writePred (s : State) (p : PReg) (v : Strand → Bool) : Host.Outcome State Fault Refusal :=
  s.acting fun st => s.retire (st.wp p (v st))

/-- CMP (07 R167). -/
def execCmp (p : PReg) (a b : XReg) (c : Cond) (w : Bool) (s : State) : Host.Outcome State Fault Refusal :=
  s.writePred p fun st =>
    if w then condHolds c ((st.rx a).setWidth 32) ((st.rx b).setWidth 32) else condHolds c (st.rx a) (st.rx b)

/-- CMPI (07 R167). -/
def execCmpi (p : PReg) (a : XReg) (c : Cond) (i : BitVec 10) (s : State) : Host.Outcome State Fault Refusal :=
  s.writePred p fun st => condHolds c (st.rx a) (sextImm i)

/-- PAND (07 R168). -/
def execPand (d a b : PReg) (s : State) : Host.Outcome State Fault Refusal :=
  s.writePred d fun st => st.rp a && st.rp b

/-- POR (07 R168). -/
def execPor (d a b : PReg) (s : State) : Host.Outcome State Fault Refusal :=
  s.writePred d fun st => st.rp a || st.rp b

/-- PXOR (07 R168). -/
def execPxor (d a b : PReg) (s : State) : Host.Outcome State Fault Refusal :=
  s.writePred d fun st => st.rp a != st.rp b

/-- PANDN (07 R168). -/
def execPandn (d a b : PReg) (s : State) : Host.Outcome State Fault Refusal :=
  s.writePred d fun st => st.rp a && !st.rp b

/-- PNOT (07 R168). -/
def execPnot (d a : PReg) (s : State) : Host.Outcome State Fault Refusal :=
  s.writePred d fun st => !st.rp a

/-- PMOV (07 R168). -/
def execPmov (d a : PReg) (s : State) : Host.Outcome State Fault Refusal :=
  s.writePred d fun st => st.rp a

/-- PSET (07 R168). -/
def execPset (d : PReg) (s : State) : Host.Outcome State Fault Refusal :=
  s.writePred d fun _ => true

/-- PCLR (07 R168). -/
def execPclr (d : PReg) (s : State) : Host.Outcome State Fault Refusal :=
  s.writePred d fun _ => false

/-- SEL (07 R169). -/
def execSel (d a b : XReg) (p : PReg) (s : State) : Host.Outcome State Fault Refusal :=
  s.writeReg d fun st => if st.rp p then st.rx a else st.rx b

end Sys2Proof.Machine
end

