-- ==== Sys2Proof/Machine/Control.lean ====
section
/-! DEFINITION. Branches, hardware loops and the MISC group: control registers, features, random draws, EXIT, TRAP, WAITI
(07 R170 to R174, R193 to R196; 02 R66), and TRET (12 R305). -/

namespace Sys2Proof.Machine

/-! ### Branches (07 R170, R173) -/

/-- A taken branch to a target outside the latched range of an active loop ends that loop (07 R173). -/
def HwLoop.leave (lp : HwLoop) (t : Word) : HwLoop :=
  if lp.active && (t.ult lp.ls || lp.le.ult t) then { lp with lcnt := 0, lpc := 0, active := false } else lp

/-- A taken BR or BRP: neither tested nor kept inside a loop it leaves (07 R173). -/
def State.branchTo (s : State) (st : Strand) (t : Word) : State :=
  s.transfer { st with lp0 := st.lp0.leave t, lp1 := st.lp1.leave t } t

/-- BR (07 R170). -/
def execBr (o : BitVec 26) (s : State) : Host.Outcome State Fault Refusal :=
  s.acting fun st => s.branchTo st (st.pc + sextImm o * 4)

/-- BRP (07 R170). -/
def execBrp (p : PReg) (n : Bool) (o : BitVec 18) (s : State) : Host.Outcome State Fault Refusal :=
  s.acting fun st => if st.rp p != n then s.branchTo st (st.pc + sextImm o * 4) else s.retire st

/-- CALL: neither tests nor ends a loop (07 R170, R173). -/
def execCall (o : BitVec 26) (s : State) : Host.Outcome State Fault Refusal :=
  s.acting fun st => s.transfer (st.wx 31 (st.pc + 4)) (st.pc + sextImm o * 4)

/-- JR (07 R170, R173). -/
def execJr (d a : XReg) (s : State) : Host.Outcome State Fault Refusal :=
  s.acting fun st =>
    let t := st.rx a
    if t.extractLsb' 0 2 = 0 then s.transfer (st.wx d (st.pc + 4)) t else s.trap st 0xA t

/-! ### Hardware loops (07 R171) -/

/-- The unit size: 16 bytes in C, 4 in L and S (07 R171). -/
def unitBytes (i : StrandId) : Word := if i = .c then 16 else 4

/-- One of the two loops. -/
def Strand.loop (st : Strand) (l : Bool) : HwLoop := if l then st.lp1 else st.lp0

def Strand.setLoop (st : Strand) (l : Bool) (v : HwLoop) : Strand := if l then { st with lp1 := v } else { st with lp0 := v }

/-- Starts a loop: ILLOP on an active one; a count of 0 skips the body (07 R171). -/
def State.startLoop (s : State) (i : Instr) (l : Bool) (count : Strand → Word) (e : Nat) : Host.Outcome State Fault Refusal :=
  s.acting fun st =>
    if (st.loop l).active then s.illop st i
    else
      let u := unitBytes s.cur.strand
      let n := count st
      let first := st.pc + u
      let last := st.pc + u * BitVec.ofNat 64 (e + 1)
      let lp := { st.loop l with lps := first, lpe := last, lpc := n }
      if n = 0 then s.transfer (st.setLoop l lp) (last + u)
      else s.retire (st.setLoop l { lp with active := true, ls := first, le := last, lcnt := n })

/-- LPSET (07 R171). -/
def execLpset (l : Bool) (c : XReg) (e : BitVec 20) (s : State) : Host.Outcome State Fault Refusal :=
  s.startLoop (.lpset l c e) l (fun st => st.rx c) e.toNat

/-- LPSETI (07 R171). -/
def execLpseti (l : Bool) (c : BitVec 13) (e : BitVec 12) (s : State) : Host.Outcome State Fault Refusal :=
  s.startLoop (.lpseti l c e) l (fun _ => c.setWidth 64) e.toNat

/-! ### MISC (07 R193 to R196) -/

/-- NOP (07 R193). -/
def execNop (s : State) : Host.Outcome State Fault Refusal := s.acting fun st => s.retire st

/-- The number of ranks of the job of a rank (07 R195, selector 5). -/
def State.jobSize (s : State) (vr : Nat) : Nat :=
  match s.rank? vr with
  | some r => match s.jobs.find? fun j => j.id == r.job with
    | some j => j.n
    | none => 0
  | none => 0

/-- The feature words of the G-LX9-M1 (07 R195). -/
def State.feature (s : State) (vr sel : Nat) : Word :=
  match sel with
  | 0 => 0x00010101
  | 1 => 0x0000004034400200
  | 2 => 0x0100601810400100
  | 3 => 0xFF
  | 4 => 0xF
  | 5 => BitVec.ofNat 64 (s.jobSize vr)
  | _ => 0

/-- FEAT (07 R195). -/
def execFeat (d : XReg) (sel : BitVec 12) (s : State) : Host.Outcome State Fault Refusal :=
  s.writeReg d fun _ => s.feature s.cur.vr sel.toNat

/-- The state codes of the schedule table (14 R362). -/
def SchedSt.code : SchedSt → Nat
  | .idle => 0 | .loaded => 1 | .ready => 2 | .busy => 3 | .halting => 4 | .halted => 5 | .done => 6 | .fault => 7

/-- A field of the rank, with 0 where there is none. -/
def State.rankField (s : State) (vr : Nat) (f : Rank → Word) : Word := match s.rank? vr with
  | some r => f r
  | none => 0

/-- The registers that RDCTL returns, none for an index that is not in the table or that the strand may not name
(02 R45, R66). -/
def State.readCtl (s : State) (r : SRef) (st : Strand) (c : Nat) : Option Word :=
  let vr := r.vr
  match c with
  | 0x000 => some (match s.gang? vr r.gang with | some g => g.cycle | none => 0)
  | 0x001 => some (s.rankField vr Rank.phaseno)
  | 0x002 => some (BitVec.ofNat 64 vr)
  | 0x003 => some (BitVec.ofNat 64 r.core)
  | 0x004 => some (BitVec.ofNat 64 r.gang)
  | 0x005 => some (match s.core? r with | some k => BitVec.ofNat 64 k.member | none => 0)
  | 0x006 => some (BitVec.ofNat 64 (strandCode r.strand))
  | 0x008 => some st.status
  | 0x009 => some st.fpflagsWord
  | 0x00A => some (match s.core? r with | some k => k.shape | none => 0)
  | 0x010 => some st.lp0.lps
  | 0x011 => some st.lp0.lpe
  | 0x012 => some st.lp0.lpc
  | 0x013 => some st.lp1.lps
  | 0x014 => some st.lp1.lpe
  | 0x015 => some st.lp1.lpc
  | 0x020 => some st.tvec
  | 0x021 => some (BitVec.ofNat 64 st.tlevel)
  | 0x022 => some st.bank1.tpc
  | 0x023 => some st.bank1.tcause
  | 0x024 => some st.bank1.tval
  | 0x025 => some st.bank1.tstat
  | 0x026 => some st.bank2.tpc
  | 0x027 => some st.bank2.tcause
  | 0x028 => some st.bank2.tval
  | 0x029 => some st.bank2.tstat
  | 0x040 => some (s.rankField vr Rank.stepno)
  | 0x050 => some (s.rankField vr fun k => k.sched.bubin)
  | 0x051 => some (s.rankField vr fun k => k.sched.bubdn)
  | 0x052 => some (s.rankField vr fun k => k.sched.bubst)
  | 0x053 => some (s.rankField vr fun k => BitVec.ofNat 64 (k.sched.pos + k.sched.st.code * 65536))
  | 0x060 => some (s.rankField vr Rank.engways)
  | n =>
    if 0x030 ≤ n ∧ n < 0x040 then some (s.rankField vr fun k =>
      (k.walLimit[n - 0x030]?.getD 0).setWidth 64 ||| (k.walOut[n - 0x030]?.getD 0).setWidth 64 <<< 16)
    else if 0x070 ≤ n ∧ n < 0x080 then (if r.strand = .c then none else some (s.ring vr r.core (n - 0x070)))
    else none

/-- RDCTL (07 R194). -/
def execRdctl (d : XReg) (c : BitVec 12) (s : State) : Host.Outcome State Fault Refusal :=
  s.acting fun st =>
    match s.readCtl s.cur st c.toNat with
    | some v => s.retire (st.wx d v)
    | none => s.illop st (.rdctl d c)

/-- Whether a value is legal for SHAPE (02 R50). -/
def shapeLegal (v : Word) : Bool :=
  let rows := bitsAt v 0 6
  let cols := bitsAt v 8 8
  bitsAt v 18 46 == 0 && bitsAt v 6 2 == 0 && 1 ≤ rows && rows ≤ 32 && 1 ≤ cols && cols ≤ 128 / 2 ^ bitsAt v 16 2

/-- WRCTL of SHAPE: C only; an illegal value leaves SHAPE unchanged (02 R50, 07 R194). -/
def execShapeWrite (a : XReg) (s : State) : Host.Outcome State Fault Refusal :=
  s.acting fun st =>
    let v := st.rx a
    if s.cur.strand ≠ .c ∨ !shapeLegal v then s.illop st (.shapeWrite a)
    else (s.modCore s.cur fun k => { k with shape := v }).retire st

/-- WRCTL of FPFLAGS: clears the flags written as 1; a reserved bit is ILLOP (02 R68, 07 R194). -/
def execFpflagsClear (a : XReg) (s : State) : Host.Outcome State Fault Refusal :=
  s.acting fun st =>
    let v := st.rx a
    if bitsAt v 5 59 ≠ 0 then s.illop st (.fpflagsClear a) else s.retire (st.clearFlags v)

/-- WRCTL of LPS, LPE or LPC: what RDCTL returns, never the running copy (02 R64). -/
def execLoopRegisterWrite (a : XReg) (k : BitVec 3) (s : State) : Host.Outcome State Fault Refusal :=
  s.acting fun st =>
    let v := st.rx a
    let l := 3 ≤ k.toNat
    let lp := st.loop l
    s.retire (st.setLoop l (match k.toNat % 3 with
      | 0 => { lp with lps := v }
      | 1 => { lp with lpe := v }
      | _ => { lp with lpc := v }))

/-- WRCTL of a ring register: all fields at once; ILLOP from C and for an illegal field (02 R59, 07 R194). -/
def execRingRegisterWrite (a : XReg) (g : GReg) (s : State) : Host.Outcome State Fault Refusal :=
  s.acting fun st =>
    let v := st.rx a
    if s.cur.strand = .c ∨ 10 ≤ ringEsz v ∨ 13 ≤ ringLogn v ∨ bitsAt v 22 2 ≠ 0 then s.illop st (.ringRegisterWrite a g)
    else (s.setRing s.cur.vr s.cur.core g.toNat v).retire st

/-- WRCTL of WALn: LIMIT clamped to 1 and the ceiling; OUT ignores what is written (02 R69, 07 R194). -/
def execWalWrite (a : XReg) (n : BitVec 4) (s : State) : Host.Outcome State Fault Refusal :=
  s.acting fun st =>
    let v := st.rx a
    if bitsAt v 32 32 ≠ 0 then s.illop st (.walWrite a n)
    else
      let ceil := wtblCeil (s.wtbl s.cur.vr n.toNat)
      let lim : BitVec 16 := v.extractLsb' 0 16
      let lim := if lim = 0 then 1 else if ceil.ult lim then ceil else lim
      (s.modRank s.cur.vr fun k => { k with walLimit := k.walLimit.setIfInBounds n.toNat lim }).retire st

/-- The registers of WRCTL that have no row of their own: none for a read-only register, an index out of the table or a
reserved bit (02 R66, R67; 12 R300; 07 R194). -/
def Strand.writeCtl (st : Strand) (c : Nat) (v : Word) : Option Strand :=
  let tstatOk := bitsAt v 16 48 == 0 && !bitAt v 4
  match c with
  | 0x008 => if v &&& statusReserved = 0 then some (st.writeStatus v) else none
  | 0x020 => if bitsAt v 0 12 = 0 then some { st with tvec := v } else none
  | 0x022 => some { st with bank1 := { st.bank1 with tpc := v } }
  | 0x023 => some { st with bank1 := { st.bank1 with tcause := v } }
  | 0x024 => some { st with bank1 := { st.bank1 with tval := v } }
  | 0x025 => if tstatOk then some { st with bank1 := { st.bank1 with tstat := v } } else none
  | 0x026 => some { st with bank2 := { st.bank2 with tpc := v } }
  | 0x027 => some { st with bank2 := { st.bank2 with tcause := v } }
  | 0x028 => some { st with bank2 := { st.bank2 with tval := v } }
  | 0x029 => if tstatOk then some { st with bank2 := { st.bank2 with tstat := v } } else none
  | _ => none

/-- WRCTL (07 R194). -/
def execWrctl (a : XReg) (c : BitVec 12) (s : State) : Host.Outcome State Fault Refusal :=
  s.acting fun st =>
    match st.writeCtl c.toNat (st.rx a) with
    | some st' => s.retire st'
    | none => s.illop st (.wrctl a c)

/-- RAND: the draw of stream `n` of the rank for the current step (07 R196, 03 R94). -/
def execRand (d a : XReg) (n : BitVec 4) (s : State) : Host.Outcome State Fault Refusal :=
  s.acting fun st =>
    let v := match s.rank? s.cur.vr with
      | some k => rngDraw k.jobseed k.vr k.stepno n.toNat ((st.rx a).setWidth 32)
      | none => 0
    s.retire (st.wx d v)

/-- Closes every queue of a core (02 R58). -/
def Core.closeQueues (k : Core) : Core :=
  { k with tq := k.tq.map fun q => { q with closed := true }, sq := k.sq.map fun q => { q with closed := true } }

/-- EXIT: the strand ends; its streams are unbound, an open chain is discarded, and L's EXIT closes the queues of the core
(07 R193, 09 R247, 02 R58). -/
def execExit (s : State) : Host.Outcome State Fault Refusal :=
  s.acting fun _ =>
    let s := s.stopStreams s.cur s.cur.strand
    let s := if s.cur.strand = .l then s.modCore s.cur Core.closeQueues else s
    s.modStrand s.cur fun st => { st with ended := true, chain := none, wait := none, waited := 0, waitiLeft := 0 }

/-- TRAP: SWTRAP with the code as TVAL; the return address is the next instruction (07 R193, 12 R303). -/
def execTrap (n : BitVec 12) (s : State) : Host.Outcome State Fault Refusal :=
  s.acting fun st => s.trapEntry s.cur 0xE (n.setWidth 64) 0 0 0 (st.pc + 4)

/-- WAITI: holds the strand for n cycles (07 R193). -/
def execWaiti (n : BitVec 12) (s : State) : Host.Outcome State Fault Refusal :=
  s.acting fun st => if n = 0 then s.retire st else s.holdFor .waiti n.toNat

/-- WAITI_EXPIRY: the count has run out and the strand continues (07 R193). -/
def execWaitiExpiry (r : SRef) (s : State) : Host.Outcome State Fault Refusal :=
  .next (match s.strand? r with
    | some st =>
      if st.wait = some .waiti ∧ st.waitiLeft ≤ st.waited then { s with cur := r }.retire st else s
    | none => s)

/-- TRET: one trap level back; ILLOP at level 0 (12 R305, 06 R143). -/
def execTret (s : State) : Host.Outcome State Fault Refusal :=
  s.acting fun st => if st.tlevel = 0 then s.illop st .tret else s.modStrand s.cur fun _ => st.trapReturn

end Sys2Proof.Machine
end

