-- ==== Sys2Proof/Machine/Frame.lean ====
section
/-! DEFINITION. The context frame (12 R310 to R314): what a save writes to memory and what a restore reads back. Where R312 names a
field and no place for it inside its block, the place is the model's (log entry 19). -/

namespace Sys2Proof.Machine

/-! ### Bytes in memory -/

/-- The bytes of a list that are not 0, from an address up, as a memory. -/
def bytesMem (a : Nat) : List Byte → Memory
  | [] => []
  | b :: t => if b = 0 then bytesMem (a + 1) t else (a, b) :: bytesMem (a + 1) t

/-- Replaces `n` bytes from a physical address by a memory whose addresses count from 0; where nothing exists nothing is
written (log entry 12). -/
def physPaste (m : Memory) (a n : Nat) (part : Memory) : Memory :=
  (m.filter fun c => c.1 < a) ++ ((memPart part 0 n).map fun c => (a + c.1, c.2)).filter (fun c => physExists c.1) ++
    m.filter fun c => a + n ≤ c.1

/-- A number of `n` bytes at a physical address. -/
def physNat (m : Memory) (a n : Nat) : Nat := leNat (physBytes m a n)

/-- A list of words as bytes, filled up with zeros to `n` words. -/
def wordBlock (n : Nat) (l : List Nat) : List Byte := ((l ++ List.replicate n 0).take n).flatMap (leBytes 8)

/-- A word and a flag as read from a frame. -/
def wordOf (n : Nat) : Word := BitVec.ofNat 64 n
def ofBool (b : Bool) : Nat := if b then 1 else 0

/-! ### The frame header (12 R311) -/

def frameHeader (r : Rank) (g : Gang) (why ncmd : Nat) : List Byte :=
  let n := g.cores.length
  let rv := fun (p : RvPoint) => p.count + p.arrivals * 2 ^ 16 + p.gen.toNat * 2 ^ 32
  leBytes 8 1 ++ leBytes 8 (r.vr % 2 ^ 24 + g.id * 2 ^ 32) ++ leBytes 8 (n + g.launch.nmem * 2 ^ 16 + ncmd * 2 ^ 32) ++
    leBytes 8 (0x1000 + n * 0xE8000) ++ leBytes 8 g.cycle.toNat ++ leBytes 8 r.phaseno.toNat ++ leBytes 8 why ++ leBytes 8 0 ++
    leBytes 128 g.launch.raw.toNat ++ (g.rvs.toList.flatMap fun p => leBytes 8 (rv p)) ++
    leBytes 32 (g.cores.map fun k => 2 ^ k.coreno).sum ++ leBytes 0xE60 0

/-- A rendezvous point of the header. -/
def rvOfWord (w : Nat) : RvPoint := { count := w % 2 ^ 10, arrivals := w / 2 ^ 16 % 2 ^ 10, gen := BitVec.ofNat 32 (w / 2 ^ 32) }

/-! ### Strand blocks (12 R312) -/

def HwLoop.words (l : HwLoop) : List Nat := [l.lps.toNat, l.lpe.toNat, l.lpc.toNat, ofBool l.active, l.ls.toNat, l.le.toNat, l.lcnt.toNat]

def HwLoop.ofWords (w : Nat → Nat) (i : Nat) : HwLoop :=
  { lps := wordOf (w i), lpe := wordOf (w (i + 1)), lpc := wordOf (w (i + 2)), active := w (i + 3) % 2 == 1, ls := wordOf (w (i + 4)),
    le := wordOf (w (i + 5)), lcnt := wordOf (w (i + 6)) }

def TrapBank.words (b : TrapBank) : List Nat := [b.tpc.toNat, b.tcause.toNat, b.tval.toNat, b.tstat.toNat]

def TrapBank.ofWords (w : Nat → Nat) (i : Nat) : TrapBank :=
  { tpc := wordOf (w i), tcause := wordOf (w (i + 1)), tval := wordOf (w (i + 2)), tstat := wordOf (w (i + 3)) }

/-- A join: idle 0, armed 1 with its mask and marker, fired 2, fired ABANDONED 3. -/
def Join.words : Join → List Nat
  | .idle => [0, 0, 0]
  | .armed m k => [1, m.toNat, k.toNat]
  | .fired ab => [2 + ofBool ab, 0, 0]

def Join.ofWords (w : Nat → Nat) (i : Nat) : Join :=
  match w i with
  | 1 => .armed (wordOf (w (i + 1))) (BitVec.ofNat 16 (w (i + 2)))
  | 2 => .fired false
  | 3 => .fired true
  | _ => .idle

/-- A chain: class + 1 with index and template, the number of amendments, then each with its field. -/
def Chain.words : Option Chain → List Nat
  | none => [0, 0, 0, 0]
  | some c => [c.cls + 1, c.idx, c.tpl, c.amends.length] ++ c.amends.map fun a => a.1 * 2 ^ 16 + a.2.toNat

def Chain.ofWords (w : Nat → Nat) (i : Nat) : Option Chain :=
  if w i = 0 then none
  else some { cls := w i - 1, idx := w (i + 1), tpl := w (i + 2),
              amends := (List.range (w (i + 3))).map fun k => (w (i + 4 + k) / 2 ^ 16 % 32, BitVec.ofNat 16 (w (i + 4 + k))) }

/-- The kind of a wait, and the awaited destination of one for a value (07 R197). -/
def Wait.words : Option Wait → List Nat
  | none => [0, 0]
  | some (.access id) => [1, id]
  | some .phase => [2, 0]
  | some .step => [3, 0]
  | some .held => [4, 0]
  | some _ => [5, 0]

/-- The words of a strand block after its predicates: x0 to x31, PC, DZT and PRIV of STATUS, FPFLAGS, the loops, TVEC, TLEVEL, the
banks, the joins, the rendezvous points, the wait record, the chain. -/
def Strand.words (st : Strand) : List Nat :=
  (st.x.toList.map fun x => x.toNat) ++ [st.pc.toNat, ofBool st.dzt + 2 * ofBool st.sup, st.fpflags.toNat] ++ st.lp0.words ++ st.lp1.words ++
    [st.tvec.toNat, st.tlevel] ++ st.bank1.words ++ st.bank2.words ++ (st.joins.toList.flatMap Join.words) ++
    (st.rvPend.toList.zipIdx.map fun p => if p.1 then 2 ^ p.2 else 0).sum :: (st.rvGen.toList.map fun g => g.toNat) ++
    [st.waitiLeft, st.waited] ++ Wait.words st.wait ++ Chain.words st.chain

/-- The bytes of a strand block. -/
def Strand.block (st : Strand) : List Byte := (st.p.toList.flatMap fun p => leBytes 128 p.toNat) ++ wordBlock 512 st.words

/-- A strand as its block in a frame at `a` gives it. Its PRIV never changes (12 R288), and what it waits for is kept. -/
def Strand.ofBlock (st : Strand) (m : Memory) (a : Nat) : Strand :=
  let w := fun (i : Nat) => physNat m (a + 0x3000 + 8 * i) 8
  { st with
    p := Vector.ofFn fun i => BitVec.ofNat 1024 (physNat m (a + 128 * i.val) 128)
    x := Vector.ofFn fun i => wordOf (w i.val)
    pc := wordOf (w 32), dzt := w 33 % 2 == 1, fpflags := BitVec.ofNat 5 (w 34)
    lp0 := HwLoop.ofWords w 35, lp1 := HwLoop.ofWords w 42
    tvec := wordOf (w 49), tlevel := min 2 (w 50), bank1 := TrapBank.ofWords w 51, bank2 := TrapBank.ofWords w 55
    joins := Vector.ofFn fun i => Join.ofWords w (59 + 3 * i.val)
    rvPend := Vector.ofFn fun i => w 83 / 2 ^ i.val % 2 == 1
    rvGen := Vector.ofFn fun i => BitVec.ofNat 32 (w (84 + i.val))
    waitiLeft := w 108, waited := w 109, chain := Chain.ofWords w 112, ext := none }

/-! ### Core records (12 R312) -/

/-- The buffers of the tile pool: tile register k in buffer k, then the entries of the queues in order; 64 of 4 KiB. -/
def Core.pool (k : Core) : List Buf :=
  (k.tiles.toList.map fun t => match t with
    | some t => t.buf
    | none => 0) ++ k.tq.toList.flatMap fun q => q.ents.map fun e => e.data

/-- Tile queues with the data of their entries taken from buffer `i` up. -/
def fillQueues (b : Nat → Buf) : Nat → List TQueue → List TQueue
  | _, [] => []
  | i, q :: t => { q with ents := q.ents.zipIdx.map fun p => { p.1 with data := b (i + p.2) } } :: fillQueues b (i + q.ents.length) t

/-- The two values that a pending entry keeps: its result, or its addend, and the metadata of a TCOMP. -/
def Pending.values (e : Pending) : Buf × Buf :=
  match e.accum, e.writes with
  | some a, _ => (a.addend, 0)
  | none, [] => (0, 0)
  | none, [w] => (w.value, 0)
  | none, w :: v :: _ => (w.value, v.value)

/-- A pending entry with what a frame gives for it. -/
def Pending.filled (e : Pending) (left : Nat) (v aux : Buf) : Pending :=
  match e.accum, e.writes with
  | some a, _ => { e with left := left, accum := some { a with addend := v } }
  | none, w :: x :: t => { e with left := left, writes := { w with value := v } :: { x with value := aux } :: t }
  | none, [w] => { e with left := left, writes := [{ w with value := v }] }
  | none, [] => { e with left := left }

/-- A pending-write entry: header of 64 bytes, value, metadata. -/
def Pending.block (e : Pending) : List Byte :=
  wordBlock 8 [e.left, e.flags.toNat, ofBool e.accum.isSome, ofBool e.fromX, e.writes.length] ++ leBytes 4096 e.values.1.toNat ++
    leBytes 512 e.values.2.toNat

/-- The words of the last block after o0 to o7: SHAPE, the rings, the queue counters and closed flags, the tags of the accumulators, the
tile-register map, the handles, the stream registers. `rings` are g0 to g15. -/
def Core.words (k : Core) (rings : List Nat) : List Nat :=
  k.shape.toNat :: rings ++ (k.tq.toList.flatMap fun q => [q.head.toNat, ofBool q.closed, q.ents.length]) ++
    (k.sq.toList.flatMap fun q => [q.head.toNat, ofBool q.closed, q.ents.length]) ++
    (k.accs.toList.map fun a => match a.tag with | .f32 => 0 | .i32 => 1 | .f64 => 2) ++
    (k.tiles.toList.map fun t => ofBool t.isSome) ++
    (k.handles.toList.flatMap fun h =>
      [ofBool h.valid + 2 * h.perm.toNat + 32 * h.aper.toNat + 128 * h.peer.toNat + 2 ^ 19 * h.emask.toNat + 2 ^ 35 * ofBool h.large,
       h.frame, h.va, h.gen.toNat]) ++
    (k.streams.toList.flatMap fun z =>
      (List.range 8).map (fun i => bitsAt z.desc (64 * i) 64) ++ [z.q + 16 * z.count.toNat + 2 ^ 32 * z.ordinal, z.gt])

/-- A core record after its scratchpad (12 R312). -/
def Core.record (k : Core) (rings : List Nat) : List Byte :=
  (((k.pool ++ List.replicate 64 0).take 64).flatMap fun (b : Buf) => leBytes 4096 b.toNat) ++
    (((k.pwq.map Pending.block) ++ List.replicate 16 (leBytes 5120 0)).take 16).flatMap (fun b => (b ++ leBytes 5120 0).take 5120) ++
    (k.accs.toList.flatMap fun x => leBytes 4096 x.buf.toNat) ++ leBytes 4096 k.vlat.toNat ++ leBytes 4096 k.mlat.toNat ++
    k.l.block ++ k.c.block ++ k.s.block ++ (k.ofile.toList.flatMap fun o => leBytes 512 o.toNat) ++ wordBlock 512 (k.words rings)

/-- A core as its record at `a` gives it; what a field of variable length holds beside its values is kept (log entry 19). -/
def Core.ofRecord (k : Core) (m : Memory) (a : Nat) : Core :=
  let b := fun (at' n : Nat) => BitVec.ofNat 32768 (physNat m (a + at') n)
  let buf := fun (i : Nat) => b (0x80000 + 4096 * i) 4096
  let w := fun (i : Nat) => physNat m (a + 0xE7000 + 8 * i) 8
  { k with
    tiles := Vector.ofFn fun i => match k.tiles[i] with
      | some t => some { t with buf := buf i.val }
      | none => none
    tq := (k.tq.zip (Vector.ofFn fun (i : Fin 12) => i.val)).map fun p =>
      let q := (fillQueues buf 16 k.tq.toList)[p.2]?.getD p.1
      { q with head := BitVec.ofNat 16 (w (17 + 3 * p.2)), closed := w (18 + 3 * p.2) % 2 == 1 }
    sq := (k.sq.zip (Vector.ofFn fun (i : Fin 4) => i.val)).map fun p =>
      { p.1 with head := BitVec.ofNat 16 (w (53 + 3 * p.2)), closed := w (54 + 3 * p.2) % 2 == 1 }
    pwq := k.pwq.zipIdx.map fun p =>
      if 16 ≤ p.2 then p.1
      else
        let at' := 0xC0000 + 5120 * p.2
        p.1.filled (physNat m (a + at') 8) (b (at' + 64) 4096) (b (at' + 4160) 512)
    accs := Vector.ofFn fun i => { k.accs[i] with buf := b (0xD4000 + 4096 * i.val) 4096 }
    vlat := b 0xD8000 4096, mlat := b 0xD9000 4096
    l := k.l.ofBlock m (a + 0xDA000), c := k.c.ofBlock m (a + 0xDE000), s := k.s.ofBlock m (a + 0xE2000)
    ofile := Vector.ofFn fun i => BitVec.ofNat 1024 (physNat m (a + 0xE6000 + 512 * i.val) 512)
    shape := wordOf (w 0) }

/-! ### Command records (12 R313, 10 R269) -/

/-- The micro-program counter of a command (10 R268): of a copy its row and byte; of a collective the counter of each op, then of each
op its element position and staging half. -/
def Cmd.counter (c : Cmd) : List Byte := match c.body with
  | .copy _ _ _ _ _ _ _ _ row byte => leBytes 8 c.id ++ leBytes 8 row ++ leBytes 8 byte
  | .coll _ _ _ _ replay _ ops _ _ => leBytes 8 c.id ++ leBytes 8 replay ++ (ops.flatMap fun o => leBytes 2 o.counter) ++
      ops.flatMap fun o => leBytes 8 (2 * o.pos + ofBool o.half)
  | _ => leBytes 8 c.id

/-- A command record: its header, the command as built from template and chain, its micro-program counter. -/
def Cmd.record (c : Cmd) : List Byte :=
  let replay := match c.body with
    | .coll _ _ _ _ r _ _ _ _ => r
    | _ => 0
  wordBlock 16 [c.engine, c.by'.core + 2 ^ 16 * strandCode c.by'.strand, if c.st = .queued then 0 else 1, replay, 192 + c.counter.length] ++
    leBytes 64 c.raw.toNat ++ c.counter

/-- A command with the micro-program counter that its record at `a` gives. -/
def Cmd.ofRecord (c : Cmd) (m : Memory) (a : Nat) : Cmd := match c.body with
  | .copy p d l n x y f bs _ _ => { c with body := .copy p d l n x y f bs (physNat m (a + 200) 8) (physNat m (a + 208) 8) }
  | .coll g gr o bufs rp stp ops im w =>
    let at' := a + 208
    { c with body := .coll g gr o bufs rp stp (ops.zipIdx.map fun q =>
        let v := physNat m (at' + 2 * ops.length + 8 * q.2) 8
        { q.1 with counter := physNat m (at' + 2 * q.2) 2, pos := v / 2, half := v % 2 == 1 }) im w }
  | _ => c

/-! ### Writing and reading a frame -/

/-- The ring registers of a core of a saved or placed gang, from the registers given. -/
def ringWords (rings : List (Nat × Word)) (core : Nat) : List Nat := (List.range 16).map fun i => (assocGet rings (core * 16 + i)).toNat

/-- Writes the core records of a frame to memory from address `a`, with scratchpads and rings from those given. -/
def putCores (m pads : Memory) (rings : List (Nat × Word)) (a : Nat) : List Core → Memory
  | [] => m
  | k :: t =>
    let pad := (memPart pads (k.coreno * 0x80000) 0x80000).map fun c => (c.1 - k.coreno * 0x80000, c.2)
    putCores (physPaste m a 0xE8000 (pad ++ bytesMem 0x80000 (k.record (ringWords rings k.coreno)))) pads rings (a + 0xE8000) t

/-- Writes the frame of a gang into a slot of its rank (12 R310 to R313). -/
def State.putFrame (s : State) (r : Rank) (g : Gang) (slot why : Nat) (pads : Memory) (rings : List (Nat × Word)) : State :=
  let cs := s.cmds.filter fun c => c.by'.vr == r.vr && c.by'.gang == g.id
  let a := r.slotAddr slot
  let m := physPaste s.mem a 0x1000 (bytesMem 0 (frameHeader r g why cs.length))
  let m := putCores m pads rings (a + 0x1000) g.cores
  { s with mem := physPut m (a + 0x1000 + g.cores.length * 0xE8000) (cs.flatMap Cmd.record) }

/-- A saved gang as its frame gives it: CYCLE and the rendezvous points, its cores, their scratchpads and rings (12 R314). -/
def State.unframe (s : State) (r : Rank) (g : Gang) : Gang := match g.cond with
  | .saved slot _ _ =>
    let a := r.slotAddr slot
    let at' := fun (i : Nat) => a + 0x1000 + i * 0xE8000
    { g with
      cycle := wordOf (physNat s.mem (a + 0x20) 8)
      rvs := Vector.ofFn fun k => rvOfWord (physNat s.mem (a + 0xC0 + 8 * k.val) 8)
      cores := g.cores.zipIdx.map fun p => p.1.ofRecord s.mem (at' p.2)
      pads := memCanon (g.cores.zipIdx.flatMap fun p =>
        (memPart s.mem (at' p.2) 0x80000).map fun c => (c.1 - at' p.2 + p.1.coreno * 0x80000, c.2))
      rings := g.cores.zipIdx.flatMap fun p => (List.range 16).map fun i =>
        (p.1.coreno * 16 + i, wordOf (physNat s.mem (at' p.2 + 0xE7008 + 8 * i) 8)) }
  | _ => g

/-- The command records of a frame at `a`, read back into the halted commands of its gang, in order (12 R313, 10 R269). -/
def readRecords (m : Memory) : Nat → List Cmd → List Cmd
  | _, [] => []
  | a, c :: t => c.ofRecord m a :: readRecords m (a + 192 + c.counter.length) t

/-- The strand of a saved gang takes what has changed of it: its block in the frame is written again; the unit walks, for the gang
may now be restored (07 R197; 12 R314; 14 R344). -/
def State.reframe (s : State) (r : SRef) : State :=
  match s.rank? r.vr, s.gang? r.vr r.gang, s.strand? r with
  | some k, some g, some st => match g.cond, g.cores.findIdx? fun c => c.coreno == r.core with
    | .saved slot _ _, some i =>
      { s with mem := physPut s.mem (k.slotAddr slot + 0x1000 + i * 0xE8000 + 0xDA000 + 0x4000 * (strandCode r.strand)) st.block }.modRank
        r.vr fun k => { k with walk := true }
    | _, _ => s
  | _, _, _ => s

end Sys2Proof.Machine
end

