-- ==== Sys2Proof/Machine/Net.lean ====
section
/-! DEFINITION. Sending demand messages: the package's own number, the placement of a rank (15 R367), the route of a demand
flit (17 R414, R418), fabric notices (17 R417). -/

namespace Sys2Proof.Machine

/-- The package number and the domain of this package (12 R295). -/
def State.ownPkg (s : State) : Nat := bitsAt s.pkgid 0 12
def State.ownDom (s : State) : Nat := bitsAt s.pkgid 16 10

/-- The placement entry of a VR; STATE 3 where none is listed (15 R367). -/
def State.placeEntry (s : State) (vr : Nat) : Word := match s.place.find? fun e => e.1 == vr with
  | some e => e.2
  | none => 0xC000000000000000

/-- The package of a placement entry and its domain (15 R367). -/
def placePkg (e : Word) : Nat := bitsAt e 36 12
def placeDom (e : Word) : Nat := bitsAt e 48 10
def placeState (e : Word) : Nat := bitsAt e 62 2

/-- The package to which traffic for a VR is sent: this one for a rank it holds, else by the placement entry (15 R367). -/
def State.pkgOf (s : State) (vr : Nat) : Nat :=
  if s.ranks.any fun r => r.vr == vr then s.ownPkg else placePkg (s.placeEntry vr)

/-- The header of a demand message (17 R414). -/
def demandHdr : Demand → DHdr
  | .remoteLoad q _ _ => q
  | .loadData q _ => q
  | .postedWrite q _ _ _ _ _ => q
  | .writeAck q => q
  | .atomic q _ _ => q
  | .atomicResult q _ => q
  | .keepWaiting q => q
  | .refusal q _ => q
  | .schedArrival q _ _ _ => q
  | .slotPost q _ _ _ => q
  | .transferAck q _ _ => q
  | .transferNack q _ _ => q
  | .placement q _ _ => q
  | .directory q _ _ _ _ _ _ _ _ => q
  | .gather q _ => q
  | .blockAck q _ _ _ _ => q

/-- Coordinate `i` of a package: three bits each of x, y, z, w (log entry 16). -/
def pkgCoord (p i : Nat) : Nat := p / 8 ^ i % 8

/-- The direction of the next hop from a package to another: dimension by dimension, the shorter way round, a tie the
positive way (17 R414, R418). -/
def hopDirection (src dst : Nat) : Option Nat :=
  ([0, 1, 2, 3].find? fun i => pkgCoord src i != pkgCoord dst i).map fun i =>
    if (pkgCoord dst i + 8 - pkgCoord src i) % 8 ≤ 4 then 2 * i else 2 * i + 1

/-- The output link of a demand message: parallel link (source package) mod 4 (17 R414), or the next parallel link of the
direction that is not fenced (17 R421). -/
def State.linkFor (s : State) (q : DHdr) : Option Nat :=
  (hopDirection s.ownPkg q.dpkg).map fun d =>
    let up := fun (k : Nat) => match s.fabric.links[4 * d + (q.spkg + k) % 4]? with
      | some l => l.up && !l.fenced
      | none => false
    4 * d + (q.spkg + ([0, 1, 2, 3].find? up).getD 0) % 4

/-- Whether no path reaches the package that a message is for: no link of the direction of its first hop is up (13 R334, log entry 16). -/
def State.noPath (s : State) (q : DHdr) : Bool := match hopDirection s.ownPkg q.dpkg with
  | none => false
  | some d => [0, 1, 2, 3].all fun k => match s.fabric.links[4 * d + k]? with
    | some l => !l.up || l.fenced
    | none => true

/-- Sends a demand message of this package, or forwards one that came by an input: to the package itself at once, else to
the headland queue of its link (17 R413, R414). -/
def State.forward (s : State) (input : Nat) (m : Demand) : State :=
  match s.linkFor (demandHdr m) with
  | none => { s with net := s.net ++ [m] }
  | some l => { s with fabric := { s.fabric with head := s.fabric.head ++ [{ link := l, input := input, msg := m }] } }

/-- A message of this package's own, or one to pass on (17 R414). -/
def State.mine (s : State) (q : DHdr) (m : Demand) (f : State → State) : State := if q.dpkg = s.ownPkg then f s else s.forward 32 m

/-- Sends a message from local injection, input 32 (17 R413). -/
def State.send (s : State) (m : Demand) : State := s.forward 32 m

/-- The header of a message from this package for a rank. -/
def State.hdrFor (s : State) (dvr svr seq : Nat) : DHdr :=
  { dpkg := s.pkgOf dvr, spkg := s.ownPkg, dvr := dvr, svr := svr, seq := seq % 2 ^ 32 }

/-- The header of the answer to a message. -/
def replyHdr (q : DHdr) : DHdr := { dpkg := q.spkg, spkg := q.dpkg, dvr := q.svr, svr := q.dvr, seq := q.seq }

/-- A fabric event's notice of KIND 7; `rest` holds bytes 0x11 to 0x17 (17 R417). -/
def State.fabricEvent (s : State) (event rest : Nat) : State :=
  s.notify (BitVec.ofNat 1024 (7 + 2 ^ 64 * s.fabric.dtb.toNat + 2 ^ 128 * event + 2 ^ 136 * (rest % 2 ^ 56)))

/-- Whether a domain neighbour path exists: some link is up and not fenced (17 R421). -/
def State.linked (s : State) : Bool := s.fabric.links.any fun l => l.up && !l.fenced

end Sys2Proof.Machine
end

