-- ==== Sys2Proof/Machine/Access.lean ====
section
/-! DEFINITION. Loads, stores, atomics, fixed cells and handles (07 R175 to R183), the accesses in flight that they leave and
their completion (07 R162; 05 R114 to R127), handle delivery (07 R182, 13 R326). -/

namespace Sys2Proof.Machine

/-! ### Bytes that a running command of the core writes (05 R131) -/

/-- Whether a command writes a location. -/
def State.cmdHits (s : State) (c : Cmd) (d : StoreTo) : Bool :=
  (s.writeRuns c.body).any fun p => ((p.1.toStore c.by'.core).within p.2 d).isSome

/-- The commands of a core that have not retired and that its strand `r` issued, or that the other strand issued. -/
def State.coreCmds (s : State) (r : SRef) (own : Bool) : List Cmd :=
  s.cmds.filter fun c => c.by'.vr == r.vr && c.by'.gang == r.gang && c.by'.core == r.core && (c.by'.strand == r.strand) == own

/-- Whether a command of the strand that has not retired writes a location (05 R131). -/
def State.raced (s : State) (r : SRef) (d : StoreTo) : Bool := (s.coreCmds r true).any fun c => s.cmdHits c d

/-- The bytes a load returns, those that a running command of the strand writes being open (05 R131). -/
def State.openOwn (s : State) (r : SRef) (d : StoreTo) (bs : List Byte) : List Byte × State :=
  (bs.zipIdx.map fun p => if s.raced r (d.plus p.2) then Config.freeByte (s.free + p.2) else p.1,
   { s with free := s.free + bs.length })

/-- The value that a location has once the commands of the other strand have written it, where that is known. -/
def afterByte (l : List EByte) (d : StoreTo) : Option Byte := (l.reverse.find? fun e => e.dst == d).map fun e => e.val

/-- An access of up to 8 bytes that races with a command of the other strand returns the bytes as they were before it or as they are
after it, never a mixture (01 R42, 05 R453): a free value says which, unless the command has written some of them. -/
def State.pickRaced (s : State) (r : SRef) (d : StoreTo) (bs : List Byte) : List Byte × State :=
  let cs := s.coreCmds r false
  let all := cs.flatMap Cmd.finalWrites
  let done := cs.flatMap Cmd.doneWrites
  let locs := (List.range bs.length).map fun i => d.plus i
  if !(locs.any fun x => (afterByte all x).isSome) then (bs, s)
  else
    let after := bs.zipIdx.map fun p => (afterByte all (d.plus p.2)).getD p.1
    let (late, s) := s.elapse
    (if late || locs.any fun x => (afterByte done x).isSome then after else bs, s)

/-- The bytes a load returns under the races of the core with its engine commands (01 R42; 05 R131, R453). -/
def State.openRaced (s : State) (r : SRef) (d : StoreTo) (bs : List Byte) : List Byte × State :=
  if s.cmds.isEmpty then (bs, s)
  else
    let (bs, s) := s.pickRaced r d bs
    s.openOwn r d bs

/-- The strand stores to bytes that a running command of its own writes: what it stores there, and what the command leaves there, is
open (05 R131). -/
def State.spoil (s : State) (r : SRef) (d : StoreTo) (bs : List Byte) : List Byte × State :=
  if s.cmds.isEmpty then (bs, s)
  else
    let mine := fun (c : Cmd) => c.by'.vr == r.vr && c.by'.gang == r.gang && c.by'.core == r.core && c.by'.strand == r.strand &&
      (List.range bs.length).any fun i => s.cmdHits c (d.plus i)
    let s' := { s with cmds := s.cmds.map fun (c : Cmd) => if mine c then { c with spoiled := c.spoiled ++ [(d, bs.length)] } else c }
    let (bs, t) := s.openOwn r d bs
    (bs, { s' with free := t.free })

/-! ### Accesses in flight -/

/-- Whether an access goes through the peer aperture. -/
def AccTo.isPeer (d : AccTo) : Bool := match d with
  | .peer _ _ => true
  | _ => false

/-- Adds an access to those in flight. -/
def Rank.addAccess (k : Rank) (a : Access) : Rank := { k with accesses := k.accesses ++ [a], abroad := k.abroad || a.dst.isPeer }

/-- Adds an access of the acting strand to those in flight; the strand holds for it or goes on. -/
def State.issue (s : State) (st : Strand) (op : AccOp) (dst : AccTo) (va : Word) (holds viaHandle : Bool) : State :=
  let (id, s) := s.fresh
  let a : Access := { id := id, by' := s.cur, op := op, dst := dst, va := va, hold := holds, viaHandle := viaHandle,
                      sent := false, slots := 0, resend := none, order := id }
  let s := s.modRank s.cur.vr fun k => k.addAccess a
  if holds then s.hold (.access id) else s.retire st

/-- Where an access through a handle goes (04 R107). -/
def Handle.accTo (h : Handle) (po : Nat) : AccTo :=
  if h.aper = 3 then .host (h.frame + po) else if h.aper = 2 then .peer h.peer.toNat (h.frame + po) else .phys (h.frame + po)

/-- Where a store through a handle commits (04 R107). -/
def Handle.storeTo (h : Handle) (po : Nat) : StoreTo :=
  if h.aper = 3 then .host (h.frame + po) else if h.aper = 2 then .peer h.peer.toNat (h.frame + po) else .phys (h.frame + po)

/-! ### Scratch loads and stores (07 R175) -/

/-- SLD (07 R175; 04 R98, R99, R105). -/
def execSld (d a : XReg) (sz : BitVec 2) (o : BitVec 14) (s : State) : Host.Outcome State Fault Refusal :=
  s.acting fun st =>
    let n := 2 ^ sz.toNat
    let addr := scratchOperand (st.rx a) o sz.toNat
    match s.scratchViolation s.cur addr n with
    | some (c, v) => s.trap st c v
    | none =>
      let slot := (s.slotOf s.cur.vr).getD 16
      match scratchAt s.cur.core addr.toNat with
      | .window w off =>
        let t := s.windowTarget s.cur.vr w off
        s.issue st (.load d n) (.window w t.1 t.2.1 t.2.2) addr true false
      | .own off =>
        let (bs, s) := s.openRaced s.cur (.scratch (s.cur.core * 0x80000 + off)) (s.padBytes slot s.cur.core off n)
        s.retire (st.wx d (zextBytes bs))
      | .other k off =>
        let (bs, s) := s.openRaced s.cur (.scratch (k * 0x80000 + off)) (s.loadScratch s.cur slot addr.toNat n)
        s.retire (st.wx d (zextBytes bs))
      | .unmapped => s.retire (st.wx d 0)

/-- SST: at once into the own scratchpad, buffered into another, posted through a window under WALw (07 R175; 04 R98, R99,
R105; 02 R69). -/
def execSst (d a : XReg) (sz : BitVec 2) (o : BitVec 14) (s : State) : Host.Outcome State Fault Refusal :=
  s.acting fun st =>
    let n := 2 ^ sz.toNat
    let addr := scratchOperand (st.rx a) o sz.toNat
    let bs := lowBytes (st.rx d) n
    match s.scratchViolation s.cur addr n with
    | some (c, v) => s.trap st c v
    | none =>
      match scratchAt s.cur.core addr.toNat with
      | .window w off =>
        let t := s.windowTarget s.cur.vr w off
        match s.rank? s.cur.vr with
        | none => s
        | some k =>
          let out := k.walOut[w]?.getD 0
          if (k.walLimit[w]?.getD 0).ule out then s.hold (.allowance w)
          else
            (s.modRank s.cur.vr fun k => { k with walOut := k.walOut.setIfInBounds w (out + 1) }).issue st
              (.store bs) (.window w t.1 t.2.1 t.2.2) addr false false
      | _ =>
        let (bs, s) := s.spoil s.cur ((Space.scratch addr.toNat).toStore s.cur.core) bs
        (s.storeScratch s.cur ((s.slotOf s.cur.vr).getD 16) addr.toNat bs).retire st

/-! ### Handle operands -/

/-- An instruction that names handle `h`: ILLOP when the strand does not own it (02 R45), a wait while an XLATE into it is
outstanding (07 R182), else `f`. -/
def State.withHandle (s : State) (st : Strand) (i : Instr) (h : Nat) (f : Handle → State) : State :=
  if !ownsHalf s.cur.strand h then s.illop st i
  else if st.handlePending h then s.hold (.handle h)
  else f (match s.core? s.cur with
    | some k => k.handle h
    | none => {})

/-- An access of `n` bytes through a handle after the checks of R176. -/
def State.handleAccess (s : State) (st : Strand) (i : Instr) (h : Nat) (need : Perm) (po : Word) (n al : Nat)
    (f : Handle → State) : State :=
  s.withHandle st i h fun hd =>
    match hd.violation h need po n al with
    | some (c, v, dt) => s.trap st c v dt
    | none => f hd

/-- LD: with rd = x0 the access does not hold the strand (07 R176). -/
def execLd (d : XReg) (h : HReg) (x : XReg) (sz : BitVec 2) (o : BitVec 10) (s : State) : Host.Outcome State Fault Refusal :=
  s.acting fun st =>
    let n := 2 ^ sz.toNat
    let po := handleOffset (st.rx x) o sz.toNat
    s.handleAccess st (.ld d h x sz o) h.toNat .r po n n fun hd =>
      s.issue st (.load d n) (hd.accTo po.toNat) (BitVec.ofNat 64 hd.va + po) (d != 0) true

/-- ST: buffered until the boundary, whatever the aperture (07 R176). -/
def execSt (d : XReg) (h : HReg) (x : XReg) (sz : BitVec 2) (o : BitVec 10) (s : State) : Host.Outcome State Fault Refusal :=
  s.acting fun st =>
    let n := 2 ^ sz.toNat
    let po := handleOffset (st.rx x) o sz.toNat
    s.handleAccess st (.st d h x sz o) h.toNat .w po n n fun hd =>
      let (bs, s) := s.spoil s.cur (hd.storeTo po.toNat) (lowBytes (st.rx d) n)
      (s.bufferStore s.cur.vr { core := s.cur.core, strand := s.cur.strand, gang := s.cur.gang, dst := hd.storeTo po.toNat,
                                bytes := bs, va := BitVec.ofNat 64 hd.va + po }).retire st

/-- ATOM: posted with rd = x0 (07 R177). -/
def execAtom (d : XReg) (h : HReg) (x v : XReg) (op : AtomOp) (w : Bool) (s : State) : Host.Outcome State Fault Refusal :=
  s.acting fun st =>
    let n := if w then 8 else 4
    let po := st.rx x
    s.handleAccess st (.atom d h x v op w) h.toNat .a po n n fun hd =>
      s.issue st (.atom op d n (st.rx v)) (hd.accTo po.toNat) (BitVec.ofNat 64 hd.va + po) (d != 0) true

/-- ACAS: never posted (07 R178). -/
def execAcas (d : XReg) (h : HReg) (x n' : XReg) (w : Bool) (s : State) : Host.Outcome State Fault Refusal :=
  s.acting fun st =>
    let n := if w then 8 else 4
    let po := st.rx x
    s.handleAccess st (.acas d h x n' w) h.toNat .a po n n fun hd =>
      s.issue st (.acas d n (st.rx d) (st.rx n')) (hd.accTo po.toNat) (BitVec.ofNat 64 hd.va + po) true true

/-- FXADD: posted, to a cell aligned to 16 bytes (07 R179). -/
def execFxadd (v : XReg) (h : HReg) (x : XReg) (g : BitVec 9) (s : State) : Host.Outcome State Fault Refusal :=
  s.acting fun st =>
    let po := st.rx x
    s.handleAccess st (.fxadd v h x g) h.toNat .a po 16 16 fun hd =>
      s.issue st (.fxadd g ((st.rx v).setWidth 32)) (hd.accTo po.toNat) (BitVec.ofNat 64 hd.va + po) false true

/-- FXRD: holds until the value returns (07 R180). -/
def execFxrd (v : XReg) (h : HReg) (x : XReg) (g : BitVec 9) (s : State) : Host.Outcome State Fault Refusal :=
  s.acting fun st =>
    let po := st.rx x
    s.handleAccess st (.fxrd v h x g) h.toNat .r po 16 16 fun hd =>
      s.issue st (.fxrd v g) (hd.accTo po.toNat) (BitVec.ofNat 64 hd.va + po) true true

/-! ### Performing at the home (05 R114, R125 to R127) -/

/-- Writes bytes at the home for rank `vr`, by FXADD or by another atomic; plain loads see them after a boundary (05 R126). -/
def State.homePut (s : State) (vr a : Nat) (fixed : Bool) : List Byte → State
  | [] => s
  | b :: bs =>
    let old := (s.home.find? fun e => e.addr == a).getD { addr := a, val := b, vrs := [], fixed := false, atom := false }
    let e : HomeByte := { old with val := b, vrs := if old.vrs.contains vr then old.vrs else old.vrs ++ [vr],
                                   fixed := old.fixed || fixed, atom := old.atom || !fixed }
    { s with home := (s.home.filter fun (e : HomeByte) => e.addr != a) ++ [e] }.homePut vr (a + 1) fixed bs

/-- The new value of ATOM (07 R177). -/
def atomApply (op : AtomOp) {n : Nat} (old v : BitVec n) : BitVec n :=
  match op with
  | .add => old + v
  | .min => if v.slt old then v else old
  | .max => if old.slt v then v else old
  | .minu => if v.ult old then v else old
  | .maxu => if old.ult v then v else old
  | .and => old &&& v
  | .or => old ||| v
  | .xor => old ^^^ v
  | .swap => v

/-- An atomic performs at its home; the old value zero-extended (07 R177 to R179). -/
def State.atomAt (s : State) (vr a : Nat) (op : RAtom) : Word × State :=
  match op with
  | .atom o n v =>
    let old : Word := zextBytes (s.homeBytes a n)
    let new := if n = 8 then atomApply o old v else (atomApply o (old.setWidth 32) (v.setWidth 32)).setWidth 64
    (old, s.homePut vr a false (lowBytes new n))
  | .acas n e v =>
    let old : Word := zextBytes (s.homeBytes a n)
    (old, s.homePut vr a false (if old = zextBytes (lowBytes e n) then lowBytes v n else s.homeBytes a n))
  | .fxadd g v =>
    let cell : Cell128 := BitVec.ofNat 128 (leNat (s.homeBytes a 16))
    (0, s.homePut vr a true (leBytes 16 (fxAddCell cell g.toInt v).toNat))

/-- The atomic that an access asks of its home. -/
def AccOp.atomic? : AccOp → Option RAtom
  | .atom o _ n v => some (.atom o n v)
  | .acas _ n e v => some (.acas n e v)
  | .fxadd g v => some (.fxadd g v)
  | _ => none

/-- The register that an access writes. -/
def AccOp.dest : AccOp → XReg
  | .load d _ => d
  | .atom _ d _ _ => d
  | .acas d _ _ _ => d
  | .fxrd d _ => d
  | _ => 0

/-- The access in flight of a package, by identity. -/
def State.access? (s : State) (id : Nat) : Option (Rank × Access) :=
  s.ranks.findSome? fun k => (k.accesses.find? fun a => a.id == id).map fun a => (k, a)

/-- Removes an access. -/
def State.dropAccess (s : State) (id : Nat) : State :=
  { s with ranks := s.ranks.map fun k => { k with accesses := k.accesses.filter fun a => a.id != id } }

/-- Changes an access. -/
def State.modAccess (s : State) (id : Nat) (f : Access → Access) : State :=
  { s with ranks := s.ranks.map fun k => { k with accesses := k.accesses.map fun a => if a.id = id then f a else a } }

/-- An access ends with a value: it leaves the list, and a strand that holds for it completes with the value in its
register, which goes into the frame of a saved gang (12 R314). A strand that has been killed takes nothing (07 R162, R197). -/
def State.endAccess (s : State) (a : Access) (v : Word) : State :=
  let s := s.dropAccess a.id
  match s.strand? a.by' with
  | some st =>
    if st.wait = some (.access a.id) then
      ({ s with cur := a.by' }.retire (st.wx a.op.dest v)).reframe a.by'
    else s
  | none => s

/-- The bytes that a load of the issuing core returns for bytes that its target gave: its own writes of the phase stand
over them (05 R116); through a window they do not. -/
def Rank.overlay (k : Rank) (core : Nat) (d : StoreTo) (bs : List Byte) : List Byte :=
  bs.zipIdx.map fun p => match k.viewByte? core (d.plus p.2) with
    | some b => b
    | none => p.1

/-- A load of bytes in memory of this package or of the host performs (05 R116, R127). -/
def State.loadAt (s : State) (k : Rank) (a : Access) (d : StoreTo) : State :=
  match a.op with
  | .fxrd _ g =>
    let cell : Cell128 := BitVec.ofNat 128 (leNat ((List.range 16).map fun i => s.committedByte 16 (d.plus i)))
    s.endAccess a ((fxReadCell cell g.toInt).setWidth 64)
  | .load _ n =>
    let bs := k.overlay a.by'.core d ((List.range n).map fun i => s.committedByte 16 (d.plus i))
    let (bs, s) := s.openRaced a.by' d bs
    s.endAccess a (zextBytes bs)
  | _ => s.endAccess a 0

/-- The number of bytes that an access reads. -/
def AccOp.bytes : AccOp → Nat
  | .load _ n => n
  | .atom _ _ n _ => n
  | .acas _ n _ _ => n
  | .fxadd _ _ => 16
  | .fxrd _ _ => 16
  | .store bs => bs.length
  | .cmdLoad _ _ n => n
  | .cmdStore _ bs => bs.length

/-- The demand message that an access sends to its target (04 R105, 13 R334, 17 R414). -/
def State.accessMsg (s : State) (a : Access) : Option Demand :=
  match a.dst with
  | .window _ vr core off =>
    let q := s.hdrFor vr a.by'.vr a.id
    match a.op with
    | .store bs => some (.postedWrite q (.window core off) a.by'.core a.by'.strand a.order bs)
    | o => some (.remoteLoad q (.window core off) o.bytes)
  | .peer pkg addr =>
    let q : DHdr := { dpkg := pkg, spkg := s.ownPkg, dvr := 0, svr := a.by'.vr, seq := a.id % 2 ^ 32 }
    match a.op.atomic?, a.op with
    | some r, _ => some (.atomic q addr r)
    | none, .store bs => some (.postedWrite q (.phys addr) a.by'.core a.by'.strand a.order bs)
    | none, .cmdStore _ bs => some (.postedWrite q (.phys addr) a.by'.core a.by'.strand a.order bs)
    | none, o => some (.remoteLoad q (.phys addr) o.bytes)
  | _ => none

/-- Bytes that a command fetches from another package come: those of a copy's source, or of a buffer of a collective, from a position on
(10 R270); `used` of them are free values. -/
def State.cmdData (s : State) (id pos : Nat) (bs : List Byte) (used : Nat) : State :=
  let put := fun (at' : Nat) (l : List (Option Byte)) => l.zipIdx.map fun p =>
    if at' ≤ p.2 ∧ p.2 < at' + bs.length then some (bs[p.2 - at']?.getD 0) else p.1
  { s with
    free := s.free + used
    cmds := s.cmds.map fun (c : Cmd) => if c.id ≠ id then c else match c.body with
      | .copy p d l n x y f data r b => { c with body := .copy p d l n x y f (put pos data) r b }
      | .coll g gr o bufs rp stp ops im w =>
        { c with body := .coll g gr o bufs rp stp ops (im.zipIdx.map fun q => if q.2 = pos / 2 ^ 40 then put (pos % 2 ^ 40) q.1 else q.1) w }
      | _ => c }

/-- A remote access is refused (12 R307, 13 R334, R336): a strand that holds for it traps REMOTE with SRC 0; a posted one is
recorded, and a window store is counted out; bytes that a command would have read are open. -/
def State.refuseAccess (s : State) (a : Access) (detail : Nat) : State :=
  let s := s.dropAccess a.id
  let s := match a.dst, a.op with
    | .window w _ _ _, .store _ => s.modRank a.by'.vr fun k =>
        { k with walOut := k.walOut.setIfInBounds w ((k.walOut[w]?.getD 0) - 1) }
    | _, .cmdLoad cmd pos n => s.cmdData cmd pos ((List.range n).map fun i => Config.freeByte (s.free + i)) n
    | _, _ => s
  match s.strand? a.by' with
  | none => s
  | some st =>
    if st.wait = some (.access a.id) then (s.trapEntry a.by' 0x10 a.va detail 0 0 st.pc).reframe a.by'
    else s.postRefusal a.by' a.va detail

/-- The order field of a posted write through the peer aperture (log entry 21): the place of the store, or of the command, in its
strand, and what made it: a store (0), an engine command (1), or a shoot-down that writes it to memory at once (2). -/
def peerOrder (n kind : Nat) : Nat := 3 * n + kind

/-- Sends one peer write as a posted access of its strand: the virtual address named, package, address, order field, bytes. -/
def State.sendPeer (s : State) (r : SRef) (va : Word) (pkg addr order : Nat) (bs : List Byte) : State :=
  let (id, s) := s.fresh
  let a : Access := { id := id, by' := r, op := .store bs, dst := .peer pkg addr, va := va, hold := false, viaHandle := true, sent := true,
                      slots := 0, resend := none, order := order }
  let s := s.modRank r.vr fun k => k.addAccess a
  match s.accessMsg a with
  | some m => if s.noPath (demandHdr m) then s.refuseAccess a 0 else s.send m
  | none => s

/-- Whether two accesses are atomics that share a byte at one home, whatever package holds it. -/
def Access.meets (a b : Access) : Bool :=
  let meet := fun (p q : Nat) => decide (p < q + b.op.bytes ∧ q < p + a.op.bytes)
  a.op.atomic?.isSome && b.op.atomic?.isSome && match a.dst, b.dst with
    | .phys p, .phys q => meet p q
    | .peer k p, .peer j q => k == j && meet p q
    | _, _ => false

/-- Whether an atomic access waits for an earlier one of the same core on the same bytes: the atomics of a core perform there in the
order of their issue (05 R115, R120, log entry 4). -/
def Rank.behind (k : Rank) (a : Access) : Bool :=
  k.accesses.any fun b => b.order < a.order && b.by'.gang == a.by'.gang && b.by'.core == a.by'.core && b.meets a

/-- Whether an L2 is being written back for a change of its mode, while it accepts no access (12 R294). -/
def State.flushing (s : State) : Bool := s.ranks.any fun r => r.gangs.any fun g => g.cores.any fun k =>
  [k.l, k.c, k.s].any fun st => match st.wait with
    | some (.flush _) => true
    | _ => false

/-- MEMORY_ACCESS_COMPLETE: an access of this package or of the host performs at its home and its value returns to the
strand; a remote one leaves for its target, whose answer ends it (07 R162; 05 R114, R116, R125). -/
def execMemoryAccessComplete (id : Nat) (s : State) : Host.Outcome State Fault Refusal :=
  .next (match s.access? id with
    | none => s
    | some (k, a) => if k.behind a then s else match a.dst with
      | .phys p => if s.flushing then s else match a.op.atomic? with
        | some r => let (old, s) := s.atomAt k.vr p r; s.endAccess a old
        | none => s.loadAt k a (.phys p)
      | .host p => s.loadAt k a (.host p)
      | _ => if a.sent then s else match s.accessMsg a with
        | some m =>
          if a.dst.isPeer && s.noPath (demandHdr m) then s.refuseAccess a 0
          else (s.modAccess id fun a => { a with sent := true, slots := 0 }).send m
        | none => s)

/-- FAULT_QUEUE_RESEND: an access that a full fault queue returned is sent again 65,536 slots later (13 R335). -/
def execFaultQueueResend (id : Nat) (s : State) : Host.Outcome State Fault Refusal :=
  .next (match s.access? id with
    | none => s
    | some (_, a) => match a.resend, s.accessMsg a with
      | some 0, some m => (s.modAccess id fun a => { a with resend := none, slots := 0 }).send m
      | _, _ => s)

/-- REMOTE_TIMEOUT: no answer and no keep-waiting notice for 262,144 slots (13 R336). -/
def execRemoteTimeout (id : Nat) (s : State) : Host.Outcome State Fault Refusal :=
  .next (match s.access? id with
    | none => s
    | some (_, a) => if a.sent && 262144 ≤ a.slots && a.resend.isNone then s.refuseAccess a 0 else s)

/-! ### Handles (07 R181 to R183) -/

/-- The request bits of XLATE (06 R141): R 3, W 2, A 1, E 0. -/
def permR (p : BitVec 4) : Bool := bitAt p 3
def permW (p : BitVec 4) : Bool := bitAt p 2
def permA (p : BitVec 4) : Bool := bitAt p 1

/-- The first permission that a leaf does not grant, as XPERM's DETAIL (07 R181, 13 R321). -/
def xlateDenied (e : BitVec 128) (p : BitVec 4) : Option Nat :=
  let m := leafEmask e
  let rOk := leafR e && bitAt m 0
  let wOk := leafW e && bitAt m 1
  if permR p && !rOk then some 1
  else if permW p && !wOk then some 2
  else if permA p && !(rOk && wOk && (leafAper e == 0 || leafAper e == 1 || (leafAper e == 2 && leafRap e))) then some 4
  else none

/-- The handle on a page (02 R61). -/
def handleOf (e : BitVec 128) (large : Bool) (va : Nat) (p : BitVec 4) (gen : Word) (sup : Bool) : Handle :=
  { valid := true, perm := p, aper := leafAper e, peer := leafPeer e, frame := leafFrame e large, va := pageVa va large,
    large := large, emask := leafEmask e, gen := gen, sup := sup }

/-- XLATE: the walk is made at issue; a fault traps then, a granted walk marks the leaf and delivers its handle after 6
cycles (07 R181, R182; 13 R320, R322, R330). -/
def execXlate (h : HReg) (a : XReg) (p : BitVec 4) (s : State) : Host.Outcome State Fault Refusal :=
  s.acting fun st =>
    s.withHandle st (.xlate h a p) h.toNat fun _ =>
      let va := st.rx a
      if 2 ^ 48 ≤ va.toNat then s.trap st 7 va 4
      else match s.walkFor s.cur.vr st.sup va.toNat with
        | .absent true => s.trap st 7 va 2
        | .badClass => s.trap st 7 va 3
        | .badFrame => s.trap st 7 va 2
        | .absent false => (s.pageGang s.cur va.toNat 2 st.pc).hold (.paging va (s.genOf s.cur.vr st.sup))
        | .leaf e at' large =>
          match xlateDenied e p with
          | some dt => s.trap st 8 va dt
          | none =>
            let gen := s.genOf s.cur.vr st.sup
            (s.markLeaf at' (permW p || permA p)).retire
              { st with xlates := st.xlates ++ [{ pc := st.pc, h := h.toNat, va := va, perm := p, left := 6, gen := gen,
                                                  handle := handleOf e large va.toNat p gen st.sup }] }

/-- XLATE_DELIVER: the handle becomes usable. If a shoot-down has bumped the generation, the walk restarts from the root, and
delivers, traps or pages as at issue (07 R182, 13 R326, R330); a strand whose page is awaited issues nothing meanwhile. -/
def execXlateDeliver (r : SRef) (h : Nat) (s : State) : Host.Outcome State Fault Refusal :=
  .next (match s.strand? r with
    | none => s
    | some st => match st.xlates.find? fun x => x.h == h with
      | none => s
      | some x =>
        if x.left ≠ 0 then s
        else
          let drop := fun (s : State) => s.modStrand r fun st => { st with xlates := st.xlates.filter fun y => y.h != h }
          let va := x.va.toNat
          if s.genOf r.vr st.sup = x.gen then
            (if x.handle.valid then (drop s).modCore r fun k => k.setHandle h x.handle else s)
          else match s.walkFor r.vr st.sup va with
          | .leaf e at' large =>
            match xlateDenied e x.perm with
            | some dt => (drop s).trapEntry r 8 x.va dt 0 0 x.pc
            | none =>
              ((drop s).markLeaf at' (permW x.perm || permA x.perm)).modCore r fun k =>
                k.setHandle h (handleOf e large va x.perm (s.genOf r.vr st.sup) st.sup)
          | .absent false =>
            let gen := s.genOf r.vr st.sup
            (s.pageGang r va 2 x.pc).modStrand r fun st =>
              { st with xlates := st.xlates.map fun y => if y.h = h then { y with gen := gen, handle := {} } else y
                        wait := if st.wait = none then some (.paging x.va gen) else st.wait }
          | .absent true => (drop s).trapEntry r 7 x.va 2 0 0 x.pc
          | .badClass => (drop s).trapEntry r 7 x.va 3 0 0 x.pc
          | .badFrame => (drop s).trapEntry r 7 x.va 2 0 0 x.pc)

/-- HREL (07 R183). -/
def execHrel (h : HReg) (s : State) : Host.Outcome State Fault Refusal :=
  s.acting fun st => s.withHandle st (.hrel h) h.toNat fun hd =>
    (s.modCore s.cur fun k => k.setHandle h.toNat { hd with valid := false }).retire st

/-- HCHK (07 R183). -/
def execHchk (h : HReg) (p : PReg) (s : State) : Host.Outcome State Fault Refusal :=
  s.acting fun st => s.withHandle st (.hchk h p) h.toNat fun hd => s.retire (st.wp p hd.valid)

/-- HMOV (07 R183). -/
def execHmov (h hs : HReg) (s : State) : Host.Outcome State Fault Refusal :=
  s.acting fun st => s.withHandle st (.hmov h hs) h.toNat fun _ =>
    s.withHandle st (.hmov h hs) hs.toNat fun hd =>
      (s.modCore s.cur fun k => k.setHandle h.toNat hd).retire st

end Sys2Proof.Machine
end

