-- ==== Sys2Proof/Machine/Queue.lean ====
section
/-! DEFINITION. Queues and rings (07 R184 to R187; 02 R56 to R59). -/

namespace Sys2Proof.Machine

/-- A scalar queue q12 to q15 of a core. -/
def Core.squeue (k : Core) (i : Nat) : SQueue := k.sq[i - 12]?.getD { head := 0, closed := false, ents := [] }

def Core.setSqueue (k : Core) (i : Nat) (q : SQueue) : Core := { k with sq := k.sq.setIfInBounds (i - 12) q }

/-- A tile queue q0 to q11 of a core. -/
def Core.tqueue (k : Core) (i : Nat) : TQueue := k.tq[i]?.getD { head := 0, closed := false, ents := [] }

def Core.setTqueue (k : Core) (i : Nat) (q : TQueue) : Core := { k with tq := k.tq.setIfInBounds i q }

/-- The tail counter (02 R57). -/
def SQueue.tail (q : SQueue) : BitVec 16 := q.head + BitVec.ofNat 16 q.ents.length
def TQueue.tail (q : TQueue) : BitVec 16 := q.head + BitVec.ofNat 16 q.ents.length

/-- The depths of the queues (02 R56). -/
def scalarDepth : Nat := 16
def tileDepth : Nat := 4

/-- Whether a stream holds its queues: from SBIND until it is done or unbound (09 R246). -/
def Stream.bound (z : Stream) : Bool := z.st == .running || z.st == .faulted

/-- Whether a stream is bound to tile queue `i` (09 R246). -/
def Core.tileBound (k : Core) (i : Nat) : Bool := k.streams.toList.any fun z => z.bound && z.q == i

/-- Whether scalar queue `i` is the index queue of a bound gather (09 R237, R246). -/
def Core.indexBound (k : Core) (i : Nat) : Bool :=
  k.streams.toList.any fun z => z.bound && descKind z.desc == 2 && 12 + indexQueue z.desc (8 ≤ z.q) == i

/-- The core of the acting strand, or the state unchanged. -/
def State.withCore (s : State) (f : Core → State) : State := match s.core? s.cur with
  | some k => f k
  | none => s

/-- A ring operation on gn: ILLOP when it is not configured (02 R59). -/
def State.withRing (s : State) (st : Strand) (i : Instr) (g : Nat) (f : Word → State) : State :=
  let w := s.ring s.cur.vr s.cur.core g
  if ringLogn w = 0 then s.illop st i else f w

/-- SCRADDR of a ring access whose area breaks its bounds, TVAL the entry's address (02 R59, 07 R186; log entry 17). -/
def State.ringAccess (s : State) (st : Strand) (w : Word) (i : BitVec 16) (f : Nat → State) : State :=
  if ringAreaOk s.cur.core (s.gangCores s.cur) w then f (ringSlot w i) else s.trap st 0xB (BitVec.ofNat 64 (ringSlot w i))

/-- QPUSH (07 R184 to R186). -/
def execQpush (d : XReg) (c : Bool) (i : BitVec 4) (s : State) : Host.Outcome State Fault Refusal :=
  s.acting fun st =>
    let n := i.toNat
    if c then
      s.withRing st (.qpush d c i) n fun w =>
        if ringFull w then s.hold (.ring n true)
        else s.ringAccess st w (ringTail w) fun a =>
          ((s.ringWrite s.cur.vr s.cur.core a (st.rx d)).setRing s.cur.vr s.cur.core n
            (ringWithTail w (ringTail w + 1))).retire st
    else if s.cur.strand ≠ .l ∨ !(n == 12 || n == 13) then s.illop st (.qpush d c i)
    else s.withCore fun k =>
      let q := k.squeue n
      if scalarDepth ≤ q.ents.length then s.hold (.queue n)
      else if q.closed then s.trap st 6 (queueVal false n q.tail q.head)
      else (s.modCore s.cur fun k =>
        { k.setSqueue n { q with ents := q.ents ++ [{ id := k.nextId, landed := true, data := st.rx d }] } with
          nextId := k.nextId + 1 }).retire st

/-- QPOP and QPEEK: `pop` tells them apart (07 R184 to R186). -/
def State.takeEntry (s : State) (instr : Instr) (d : XReg) (c : Bool) (n : Nat) (pop : Bool) :
    Host.Outcome State Fault Refusal :=
  s.acting fun st =>
    if c then
      s.withRing st instr n fun w =>
        if ringCount w = 0 then s.hold (.ring n false)
        else s.ringAccess st w (ringHead w) fun a =>
          let v := s.ringRead s.cur.vr s.cur.core a
          (if pop then s.setRing s.cur.vr s.cur.core n (ringWithHead w (ringHead w + 1)) else s).retire (st.wx d v)
    else if s.cur.strand ≠ .s ∨ !(n == 14 || n == 15) then s.illop st instr
    else s.withCore fun k =>
      let q := k.squeue n
      if k.indexBound n then s.illop st instr
      else match q.ents with
        | [] => if q.closed && k.c.ended then s.trap st 6 (queueVal false n q.tail q.head) else s.hold (.queue n)
        | e :: rest =>
          if !e.landed then s.hold (.queue n)
          else (if pop then s.modCore s.cur fun k => k.setSqueue n { q with head := q.head + 1, ents := rest } else s).retire
            (st.wx d e.data)

/-- QPOP (07 R185, R186). -/
def execQpop (d : XReg) (c : Bool) (i : BitVec 4) (s : State) : Host.Outcome State Fault Refusal :=
  s.takeEntry (.qpop d c i) d c i.toNat true

/-- QPEEK (07 R185, R186). -/
def execQpeek (d : XReg) (c : Bool) (i : BitVec 4) (s : State) : Host.Outcome State Fault Refusal :=
  s.takeEntry (.qpeek d c i) d c i.toNat false

/-- QCLOSE: L only, a load queue with no stream bound to it, or q12 or q13 (07 R184, R185). -/
def execQclose (i : BitVec 4) (s : State) : Host.Outcome State Fault Refusal :=
  s.acting fun st => s.withCore fun k =>
    let n := i.toNat
    if s.cur.strand ≠ .l then s.illop st (.qclose i)
    else if n < 8 then
      (if k.tileBound n then s.illop st (.qclose i)
       else (s.modCore s.cur fun k => k.setTqueue n { k.tqueue n with closed := true }).retire st)
    else if n = 12 ∨ n = 13 then (s.modCore s.cur fun k => k.setSqueue n { k.squeue n with closed := true }).retire st
    else s.illop st (.qclose i)

/-- The limit of a QWAIT or MWAIT has expired: it counts the cycles the strand has waited (07 R187, R192). -/
def Strand.expired (st : Strand) (limit : Nat) : Bool := limit != 0 && st.waitiLeft == limit && limit ≤ st.waited

/-- QWAIT: `room` for QWAIT.ROOM (07 R184, R187). -/
def State.queueWait (s : State) (instr : Instr) (c : Bool) (n limit : Nat) (room : Bool) : Host.Outcome State Fault Refusal :=
  s.acting fun st =>
    if c then
      s.withRing st instr n fun w =>
        if (if room then !ringFull w else ringCount w != 0) then s.retire st
        else if st.expired limit then s.trap st 5 (queueVal true n (ringTail w) (ringHead w))
        else s.holdFor (.ring n room) limit
    else if room && (s.cur.strand != .l || !(n == 12 || n == 13)) then s.illop st instr
    else if !room && (s.cur.strand != .s || !(n == 14 || n == 15)) then s.illop st instr
    else s.withCore fun k =>
      let q := k.squeue n
      if (if room then q.ents.length < scalarDepth else !q.ents.isEmpty) then s.retire st
      else if q.closed && (room || k.c.ended) then s.trap st 6 (queueVal false n q.tail q.head)
      else if st.expired limit then s.trap st 5 (queueVal false n q.tail q.head)
      else s.holdFor (.queue n) limit

/-- QWAIT.DATA (07 R187). -/
def execQwaitData (c : Bool) (i : BitVec 4) (l : BitVec 19) (s : State) : Host.Outcome State Fault Refusal :=
  s.queueWait (.qwaitData c i l) c i.toNat l.toNat false

/-- QWAIT.ROOM (07 R187). -/
def execQwaitRoom (c : Bool) (i : BitVec 4) (l : BitVec 19) (s : State) : Host.Outcome State Fault Refusal :=
  s.queueWait (.qwaitRoom c i l) c i.toNat l.toNat true

/-- Whether the queue that a strand waits for lets it go on: room for L, data or the producer's end for S (07 R185, R187). -/
def Core.queueReady (k : Core) (i : StrandId) (n : Nat) : Bool :=
  let q := k.squeue n
  if i = .l then q.ents.length < scalarDepth else !q.ents.isEmpty || (q.closed && k.c.ended)

/-- Whether a ring lets a strand that waits for room or for data go on. -/
def ringReady (w : Word) (room : Bool) : Bool := ringLogn w == 0 || (if room then !ringFull w else ringCount w != 0)

/-- QTIMEOUT: the limit of a QWAIT expires while its condition does not hold (07 R187). -/
def execQtimeout (r : SRef) (s : State) : Host.Outcome State Fault Refusal :=
  .next (match s.strand? r, s.core? r with
    | some st, some k =>
      if st.waitiLeft = 0 ∨ st.waited < st.waitiLeft then s
      else match st.wait with
        | some (.queue n) =>
          if k.queueReady r.strand n then s
          else s.trapEntry r 5 (queueVal false n (k.squeue n).tail (k.squeue n).head) 0 0 0 st.pc
        | some (.ring n room) =>
          let w := s.ring r.vr r.core n
          if ringReady w room then s else s.trapEntry r 5 (queueVal true n (ringTail w) (ringHead w)) 0 0 0 st.pc
        | _ => s
    | _, _ => s)

end Sys2Proof.Machine
end

