-- ==== Sys2Proof/Machine/Sync.lean ====
section
/-! DEFINITION. PHASE, STEP and CFENCE (07 R188, 05 R119), rendezvous points (07 R189), markers and joins (07 R190 to R192,
10 R272), asynchronous traps (12 R307), the end of a wait (07 R197). -/

namespace Sys2Proof.Machine

/-- Whether an access of a strand has not performed (05 R119). -/
def State.outstanding (s : State) (r : SRef) : Bool := match s.rank? r.vr with
  | some k => k.accesses.any fun a => a.by' == r && match a.op with
    | .cmdLoad _ _ _ | .cmdStore _ _ => false
    | _ => true
  | none => false

/-- PHASE: the strand waits at the boundary (07 R188, 01 R31). -/
def execPhase (s : State) : Host.Outcome State Fault Refusal := s.acting fun _ => s.hold .phase

/-- STEP: the strand waits at the phase boundary that the STEP makes, then holds (07 R188, 01 R35). -/
def execStep (s : State) : Host.Outcome State Fault Refusal := s.acting fun _ => s.hold .step

/-- CFENCE: every earlier access of the strand has performed (05 R119). -/
def execCfence (s : State) : Host.Outcome State Fault Refusal :=
  s.acting fun st => if s.outstanding s.cur then s.hold .fence else s.retire st

/-! ### Rendezvous points (07 R189) -/

/-- A rendezvous point of the gang of the acting strand. -/
def Gang.rv (g : Gang) (k : Nat) : RvPoint := g.rvs[k]?.getD { count := 0, arrivals := 0, gen := 0 }

/-- Acts on a point of the acting strand's gang. -/
def State.withRv (s : State) (k : Nat) (f : RvPoint → State) : State := match s.gang? s.cur.vr s.cur.gang with
  | some g => f (g.rv k)
  | none => s

def State.setRv (s : State) (k : Nat) (p : RvPoint) : State :=
  s.modGang s.cur.vr s.cur.gang fun g => { g with rvs := g.rvs.setIfInBounds k p }

/-- One arrival: the one that reaches the count opens the next generation (07 R189). -/
def RvPoint.arrive (p : RvPoint) : RvPoint :=
  if p.arrivals + 1 = p.count then { p with arrivals := 0, gen := p.gen + 1 } else { p with arrivals := p.arrivals + 1 }

/-- The strand's record of its arrival (07 R189). -/
def Strand.arrived (st : Strand) (k : Nat) (gen : BitVec 32) : Strand :=
  { st with rvPend := st.rvPend.setIfInBounds k true, rvGen := st.rvGen.setIfInBounds k gen }

/-- RVINIT (02 R63, 07 R189). -/
def execRvinit (a : BitVec 5) (c : BitVec 12) (s : State) : Host.Outcome State Fault Refusal :=
  s.acting fun st => s.withRv a.toNat fun p =>
    if p.count = 0 then (s.setRv a.toNat { p with count := c.toNat }).retire st
    else if p.count = c.toNat then s.retire st
    else s.illop st (.rvinit a c)

/-- RVARR (07 R189). -/
def execRvarr (a : BitVec 5) (s : State) : Host.Outcome State Fault Refusal :=
  s.acting fun st => s.withRv a.toNat fun p =>
    if p.count = 0 then s.illop st (.rvarr a)
    else (s.setRv a.toNat p.arrive).retire (st.arrived a.toNat p.gen)

/-- RVWAIT (07 R189). -/
def execRvwait (a : BitVec 5) (s : State) : Host.Outcome State Fault Refusal :=
  s.acting fun st => s.withRv a.toNat fun p =>
    let k := a.toNat
    if p.count = 0 then s.illop st (.rvwait a)
    else
      let pend := st.rvPend[k]?.getD false
      let p' := if pend then p else p.arrive
      let st' := if pend then st else st.arrived k p.gen
      let s' := if pend then s else s.setRv k p'
      if st'.rvGen[k]?.getD 0 = p'.gen then (s'.modStrand s'.cur fun _ => st').hold (.rendezvous k)
      else s'.retire { st' with rvPend := st'.rvPend.setIfInBounds k false }

/-! ### Markers and joins (07 R190 to R192) -/

/-- Whether a record has reached a marker (07 R191). -/
def recReached (rec m : BitVec 16) : Bool := (rec - m).toNat < 0x8000

/-- Fires every armed join whose engines have all reached its marker (07 R191). -/
def Strand.fireJoins (st : Strand) : Strand :=
  { st with joins := st.joins.map fun j => match j with
      | .armed mask m =>
        if (List.range 37).all fun e => !bitAt mask e || recReached (st.recs[e]?.getD 0) m then .fired false else j
      | _ => j }

/-- Sets the retire record of an engine (07 R190). -/
def Strand.setRec (st : Strand) (e : Nat) (m : BitVec 16) : Strand :=
  { st with recs := st.recs.setIfInBounds e m }.fireJoins

/-- MARK (07 R190, 09 R249, 10 R272). -/
def execMark (b : XReg) (e : BitVec 6) (s : State) : Host.Outcome State Fault Refusal :=
  s.acting fun st => s.withCore fun k =>
    let n := e.toNat
    let m : BitVec 16 := (st.rx b).setWidth 16
    if n = 33 ∧ !st.sup then s.priv st (.mark b e)
    else if (n = 35 ∧ s.cur.strand = .s) ∨ (n = 36 ∧ s.cur.strand = .l) then s.retire (st.setRec n m)
    else
      let cmds := (s.cmds.filter fun c => c.by' == s.cur && c.engine == n).map Cmd.id
      let zs := if n = 35 then [0, 1, 2, 3, 4, 5, 6, 7] else if n = 36 then [8, 9, 10, 11, 12, 13, 14, 15] else []
      let streams := (zs.filter fun z => (k.stream z).st == .running).map fun z => (z, (k.stream z).serial)
      s.retire { st with markers := st.markers ++ [{ engine := n, num := m, cmds := cmds, streams := streams }] }

/-- Whether everything ahead of a marker has retired (07 R190, 09 R249). -/
def State.markerDone (s : State) (k : Core) (m : Marker) : Bool :=
  (m.cmds.all fun id => !(s.cmds.any fun c => c.id == id)) &&
  (m.streams.all fun p => !((k.stream p.1).st == .running && (k.stream p.1).serial == p.2))

/-- MARKER_RETIRE: the oldest marker of the strand on an engine retires once all ahead of it has (07 R190). -/
def execMarkerRetire (r : SRef) (e : Nat) (s : State) : Host.Outcome State Fault Refusal :=
  .next (match s.strand? r, s.core? r with
    | some st, some k => match st.markers.find? fun m => m.engine == e with
      | some m =>
        if s.markerDone k m then s.modStrand r fun st => { st with markers := st.markers.erase m }.setRec e m.num else s
      | none => s
    | _, _ => s)

/-- MJOIN (07 R191). -/
def execMjoin (a b : XReg) (j : BitVec 3) (s : State) : Host.Outcome State Fault Refusal :=
  s.acting fun st =>
    let mask := st.rx a
    if bitsAt mask 37 27 ≠ 0 then s.illop st (.mjoin a b j)
    else if bitAt mask 33 ∧ !st.sup then s.priv st (.mjoin a b j)
    else s.retire { st with joins := st.joins.setIfInBounds j.toNat (.armed mask ((st.rx b).setWidth 16)) }.fireJoins

/-- TVAL of MJTIMEOUT: the join and its marker (07 R192). -/
def mjtimeoutVal (j : Nat) (m : BitVec 16) : Word := BitVec.ofNat 64 (j + m.toNat * 65536)

/-- MWAIT (07 R192). -/
def execMwait (a b : XReg) (j : BitVec 3) (s : State) : Host.Outcome State Fault Refusal :=
  s.acting fun st =>
    match st.joins[j.toNat]?.getD .idle with
    | .idle => s.retire (st.wx a 0)
    | .fired ab => s.retire (st.wx a (if ab then 2 else 1))
    | .armed _ m =>
      let limit := bitsAt (st.rx b) 0 32
      if st.expired limit then s.trap st 0xF (mjtimeoutVal j.toNat m) else s.holdFor (.join j.toNat) limit

/-- MJTIMEOUT: the limit of an MWAIT expires with its join armed (07 R192). -/
def execMjtimeout (r : SRef) (s : State) : Host.Outcome State Fault Refusal :=
  .next (match s.strand? r with
    | some st => match st.wait with
      | some (.join j) => match st.joins[j]?.getD .idle with
        | .armed _ m =>
          if st.waitiLeft ≠ 0 ∧ st.waitiLeft ≤ st.waited then s.trapEntry r 0xF (mjtimeoutVal j m) 0 0 0 st.pc else s
        | _ => s
      | _ => s
    | none => s)

/-! ### Asynchronous traps and the end of waits -/

/-- Whether a strand stands where an asynchronous trap is taken: at an instruction boundary, or in a wait that ends with it
(12 R307). -/
def Strand.atBoundary (st : Strand) : Bool :=
  match st.wait with
  | none => true
  | some (.queue _) | some (.ring _ _) | some (.rendezvous _) | some (.join _) | some (.allowance _) | some .waiti => true
  | _ => false

/-- ASYNC_TRAP: a pending stream fault or refusal is taken at TLEVEL 0 (12 R307). -/
def execAsyncTrap (r : SRef) (s : State) : Host.Outcome State Fault Refusal :=
  .next (match s.strand? r with
    | some st =>
      if st.tlevel ≠ 0 ∨ st.ended ∨ !st.atBoundary then s
      else match st.nextAsync with
        | none => s
        | some a =>
          (s.modStrand r fun st => { st with asyncs := st.asyncs.erase a }).trapEntry r a.cause a.tval a.detail a.src a.zidx st.pc
    | none => s)

/-- The rank that a supervisor strand selects (12 R295). -/
def Strand.selected (st : Strand) : Nat := st.selvr.toNat

/-- Gangs posted to a rank's unit that have not started (14 R337). -/
def Rank.pendingGangs (r : Rank) : Nat :=
  (r.gangs.filter fun g => g.cond == .waiting || g.cond == .ready || (g.cond == .starting && g.cores.isEmpty)).length

/-- The commands of a strand outstanding in an engine (09 R252). -/
def State.outstandingCmds (s : State) (r : SRef) (e : Nat) : Nat :=
  (s.cmds.filter fun c => c.by' == r && c.engine == e).length

/-- Whether a rank is in transit, or the command that has moved it has not retired (15 R366, R378). -/
def State.inTransit (s : State) (vr : Nat) : Bool :=
  (match s.rank? vr with
    | some r => r.place == .transit
    | none => false) || s.cmds.any fun c => match c.body with
    | .migr t stage _ _ _ _ => stage != 0 && bitsAt t 32 24 == vr
    | _ => false

/-- Whether this package has been the source of a rank's move: it is in transit, or its entry names another place (15 R377). -/
def State.movedAway (s : State) (vr : Nat) : Bool :=
  let e := s.placeEntry vr
  s.inTransit vr || placeState e == 2 || (placeState e < 2 && !(placePkg e == s.ownPkg && placeDom e == s.ownDom))

/-- Whether the object of a wait that ends with re-execution is ready (07 R197). -/
def State.waitReady (s : State) (r : SRef) (st : Strand) (k : Core) (w : Wait) : Bool :=
  match w with
  | .queue n => k.queueReady r.strand n
  | .ring g room => ringReady (s.ring r.vr r.core g) room
  | .rendezvous p => match s.gang? r.vr r.gang with
    | some g => st.rvGen[p]?.getD 0 != (g.rv p).gen
    | none => false
  | .join j => match st.joins[j]?.getD .idle with
    | .armed _ _ => false
    | _ => true
  | .allowance n => match s.rank? r.vr with
    | some q => (q.walOut[n]?.getD 0).ult (q.walLimit[n]?.getD 0)
    | none => false
  | .handle h => !st.handlePending h
  | .fence => !s.outstanding r
  | .engineRoom e => s.outstandingCmds r e < 16
  | .pinRoom => s.locks.length < 65536
  | .unitRoom => match s.rank? r.vr with
    | some q => q.pendingGangs < 256
    | none => false
  | .paging _ gen => s.genOf r.vr st.sup != gen
  | .windowIdle n => match s.rank? st.selected with
    | some q => q.walOut[n]?.getD 0 == 0
    | none => true
  | .notice _ => s.ntail != s.nhead
  | .transit vr => !s.inTransit vr
  | _ => false

/-- STRAND_WAIT_RELEASE: the object of the wait is ready. The instruction executes again; a CSAVE, SHOOT, VMAP or WRSYS of
L2CTL that held completes with its value (07 R197; 12 R294, R297; 13 R323). -/
def execStrandWaitRelease (r : SRef) (s : State) : Host.Outcome State Fault Refusal :=
  .next (match s.strand? r, s.core? r with
    | some st, some k => match st.wait with
      | none => s
      | some (.csave d g) => match (s.rank? st.selected).bind fun q => q.gang? g with
        | some x => match x.cond with
          | .halting _ _ => s
          | .saved slot _ _ => match s.rank? st.selected with
            | some q => { s with cur := r }.retire (st.wx d (BitVec.ofNat 64 (q.slotAddr slot)))
            | none => s
          | _ => { s with cur := r }.retire (st.wx d 2)
        | none => { s with cur := r }.retire (st.wx d 2)
      | some (.drain d v ids) =>
        if ids.any fun id => (s.access? id).isSome then s else { s with cur := r }.retire (st.wx d v)
      | some (.flush v) => { s with cur := r, l2ctl := v }.retire st
      | some w => if s.waitReady r st k w then s.modStrand r fun st => { st with wait := none } else s
    | _, _ => s)

end Sys2Proof.Machine
end

