-- ==== Sys2Proof/Machine/Sys.lean ====
section
/-! DEFINITION. The system registers and the supervisor instructions (12 R288 to R299, R308, R314; 13 R323 to R329), and the
PCP's acts on them. -/

namespace Sys2Proof.Machine

/-! ### Privilege and selection (12 R289, R295) -/

/-- A SYS instruction: PRIV at rank privilege (06 R143). -/
def State.asSup (s : State) (i : Instr) (f : Strand → State) : Host.Outcome State Fault Refusal :=
  s.acting fun st => if st.sup then f st else s.priv st i

/-- Acts on the rank in SELVR: ILLOP when this package does not hold it, PRIV when it is resident in another partition, a
wait while it is in transit (12 R295, 15 R378). -/
def State.onSelected (s : State) (st : Strand) (i : Instr) (f : Rank → State) : State :=
  match s.rank? st.selected with
  | none => if s.inTransit st.selected then s.hold (.transit st.selected) else s.illop st i
  | some r =>
    if s.inTransit r.vr then s.hold (.transit r.vr)
    else match r.place with
    | .resident k => if s.partOf k = s.partOfRank s.cur.vr then f r else s.priv st i
    | _ => f r

/-- The SLOTVR of a slot (12 R295). -/
def State.slotvr (s : State) (k : Nat) : Word := match (s.slot k).occupant with
  | some v => 0x8000000000000000 ||| BitVec.ofNat 64 (v % 2 ^ 24)
  | none => 0

/-! ### RDSYS and WRSYS (12 R295) -/

/-- A register of scope Rank (12 R295). -/
def Rank.sysReg (r : Rank) (i : Nat) : Option Word :=
  match i with
  | 0x041 => some r.ptroot
  | 0x042 => some r.ovf
  | 0x043 => some r.engways
  | 0x044 => some r.jobseed
  | 0x045 => some r.frpool
  | 0x046 => some r.gen
  | 0x047 => some (if r.stephold then 1 else 0)
  | n => if 0x050 ≤ n ∧ n < 0x060 then some (r.wtbl[n - 0x050]?.getD 0) else none

/-- A register of scope package (12 R295). -/
def State.pkgReg (s : State) (i : Nat) : Option Word :=
  match i with
  | 0x000 => some s.pkgid
  | 0x008 => some (s.clavail.setWidth 64)
  | 0x009 => some s.partcfg
  | 0x00A => some s.l2ctl
  | 0x010 => some s.nring
  | 0x011 => some (s.nhead.setWidth 64)
  | 0x012 => some (s.ntail.setWidth 64)
  | _ => none

/-- A register of scope package, strand or partition (12 R295). -/
def State.sysReg (s : State) (st : Strand) (i : Nat) : Option Word :=
  match i with
  | 0x001 => some (st.selvr.setWidth 64)
  | 0x002 => some (st.selslot.setWidth 64)
  | 0x003 => some (s.sptroot[s.partOfRank s.cur.vr]?.getD 0)
  | i => s.pkgReg i

/-- Whether an index of imm11 is one of the table (12 R295). -/
def sysListed (i : Nat) : Bool :=
  i ≤ 0x003 || (0x008 ≤ i && i ≤ 0x00A) || (0x010 ≤ i && i ≤ 0x012) || i == 0x020 || (0x041 ≤ i && i ≤ 0x047) || (0x050 ≤ i && i ≤ 0x05F)

/-- A SYS instruction that names a register: ILLOP for an index that is not listed, before its privilege is checked (06 R154). -/
def State.asSysReg (s : State) (i : Instr) (n : Nat) (f : Strand → State) : Host.Outcome State Fault Refusal :=
  if sysListed n then s.asSup i f else s.acting fun st => s.illop st i

/-- RDSYS (12 R295). -/
def execRdsys (d : XReg) (i : BitVec 11) (s : State) : Host.Outcome State Fault Refusal :=
  s.asSysReg (.rdsys d i) i.toNat fun st =>
    match s.sysReg st i.toNat with
    | some v => s.retire (st.wx d v)
    | none =>
      if i = 0x020 then
        (if s.partOf st.selslot.toNat = s.partOfRank s.cur.vr then s.retire (st.wx d (s.slotvr st.selslot.toNat))
         else s.priv st (.rdsys d i))
      else if 0x041 ≤ i.toNat ∧ i.toNat < 0x048 ∨ 0x050 ≤ i.toNat ∧ i.toNat < 0x060 then
        s.onSelected st (.rdsys d i) fun r => s.retire (st.wx d ((r.sysReg i.toNat).getD 0))
      else s.illop st (.rdsys d i)

/-- WRSYS to a register that has no row of its own: ILLOP for a read-only register, an index out of the table or a reserved
bit (12 R295). -/
def execWrsys (a : XReg) (i : BitVec 11) (s : State) : Host.Outcome State Fault Refusal :=
  s.asSysReg (.wrsys a i) i.toNat fun st =>
    let v := st.rx a
    let bad := s.illop st (.wrsys a i)
    match i.toNat with
    | 0x001 => if bitsAt v 24 40 = 0 then s.retire { st with selvr := v.setWidth 24 } else bad
    | 0x002 => if bitsAt v 4 60 = 0 then s.retire { st with selslot := v.setWidth 4 } else bad
    | 0x011 => if bitsAt v 16 48 = 0 then { s with nhead := v.setWidth 16 }.retire st else bad
    | 0x043 => s.onSelected st (.wrsys a i) fun r =>
        if bitsAt v 16 48 = 0 then (s.modRank r.vr fun r => { r with engways := v }).retire st else bad
    | 0x044 => s.onSelected st (.wrsys a i) fun r => (s.modRank r.vr fun r => { r with jobseed := v }).retire st
    | _ => bad

/-- Whether the supervisor's strands may not write this value to NRING (12 R299). -/
def nringBad (v : Word) : Bool := bitsAt v 5 7 != 0 || (1 ≤ bitsAt v 0 5 && bitsAt v 0 5 ≤ 3) || 16 ≤ bitsAt v 0 5

/-- Whether a value may not be written to FRPOOL of a rank: a reserved bit, or while a slot is occupied (12 R296). -/
def Rank.frpoolBad (r : Rank) (v : Word) : Bool := bitsAt v 8 20 != 0 || !r.frames.isEmpty

/-- The partitions that the slots name (12 R291). -/
def State.onePartition (s : State) : Bool := (List.range 16).all fun k => s.partOf k == s.partOf 0

/-- Whether a gang but that of the writing strand is placed in any slot, or an engine command is queued or running (12 R294). R294 gives
the WRSYS of a strand an effect, and a strand issues only while its gang is placed: DEDUCED (log entry 45). -/
def State.busyPackage (s : State) (own : Option (Nat × Nat)) : Bool :=
  (s.ranks.any fun r => (r.slot?).isSome && r.gangs.any fun g => g.holdsCores && own != some (r.vr, g.id)) ||
    s.cmds.any fun c => c.st != .halted

/-- Whether a value may not be written to L2CTL (12 R291, R293). -/
def State.l2ctlBad (s : State) (v : Word) : Bool := bitsAt v 2 62 != 0 || (bitAt v 0 && !s.onePartition)

/-- L2CTL_WRITE: a change of mode needs a package with nothing else placed and no command; it holds while the L2 is written back
(12 R293, R294). -/
def execL2ctlWrite (a : XReg) (s : State) : Host.Outcome State Fault Refusal :=
  s.asSup (.l2ctlWrite a) fun st =>
    let v := st.rx a
    if s.l2ctlBad v then s.illop st (.l2ctlWrite a)
    else if v = s.l2ctl then s.retire st
    else if s.busyPackage (some (s.cur.vr, s.cur.gang)) then s.illop st (.l2ctlWrite a)
    else s.hold (.flush v)

/-- NRING_WRITE (12 R299). -/
def execNringWrite (a : XReg) (s : State) : Host.Outcome State Fault Refusal :=
  s.asSup (.nringWrite a) fun st =>
    if nringBad (st.rx a) then s.illop st (.nringWrite a) else { s with nring := st.rx a }.retire st

/-- FRPOOL_WRITE: ILLOP while a slot is occupied (12 R296). -/
def execFrpoolWrite (a : XReg) (s : State) : Host.Outcome State Fault Refusal :=
  s.asSup (.frpoolWrite a) fun st => s.onSelected st (.frpoolWrite a) fun r =>
    if r.frpoolBad (st.rx a) then s.illop st (.frpoolWrite a)
    else (s.modRank r.vr fun r => { r with frpool := st.rx a }).retire st

/-- Sets HOLD of a rank; of one that has arrived the other packages are told (15 R372, log entry 2). -/
def State.setHold (s : State) (r : Rank) (v : Bool) : State :=
  (s.modRank r.vr fun r => { r with stephold := v }).tell r.vr

/-- STEPHOLD_WRITE (15 R372). -/
def execStepholdWrite (a : XReg) (s : State) : Host.Outcome State Fault Refusal :=
  s.asSup (.stepholdWrite a) fun st => s.onSelected st (.stepholdWrite a) fun r =>
    let v := st.rx a
    if bitsAt v 1 63 ≠ 0 then s.illop st (.stepholdWrite a)
    else (s.setHold r (bitAt v 0)).retire st

/-- The coupling group of a VR in a job (01 R34). -/
def State.groupOf (s : State) (job vr : Nat) : Option Nat :=
  match s.jobs.find? fun j => j.id == job with
  | some j => (j.groups.find? fun p => p.1 == vr).map fun p => p.2
  | none => none

/-- Whether a window-table value is refused (04 R103, 12 R292). DESIGN CHOICE (log entry 44): a CNT of 128 to 255, which R103's field
does not hold and its list of cases does not name, is refused too. -/
def State.wtblBad (s : State) (r : Rank) (v : Word) : Bool :=
  let t := wtblTarget v
  let coupled := r.coupling.isSome && s.groupOf r.job t == r.coupling && t != r.vr
  let away := match s.slotOf t, r.slot? with
    | some k, some j => s.partOf k != s.partOf j
    | _, _ => false
  bitsAt v 56 7 != 0 || 255 < wtblFirst v + wtblCnt v || 127 < wtblCnt v || wtblCeil v == 0 || (wtblV v && (!coupled || away))

/-- Sets a window-table entry, and WALw.LIMIT to its CEIL (04 R103). -/
def Rank.setWtbl (r : Rank) (n : Nat) (v : Word) : Rank :=
  { r with wtbl := r.wtbl.setIfInBounds n v, walLimit := r.walLimit.setIfInBounds n (wtblCeil v) }

/-- WTBL_WRITE: sets WALw.LIMIT to CEIL; completed once WALw.OUT is 0 (04 R103). -/
def execWtblWrite (a : XReg) (n : BitVec 4) (s : State) : Host.Outcome State Fault Refusal :=
  s.asSup (.wtblWrite a n) fun st => s.onSelected st (.wtblWrite a n) fun r =>
    let v := st.rx a
    if s.wtblBad r v then s.illop st (.wtblWrite a n)
    else if r.walOut[n.toNat]?.getD 0 ≠ 0 then s.hold (.windowIdle n.toNat)
    else (s.modRank r.vr fun r => r.setWtbl n.toNat v).retire st

/-! ### LDOVF, CSAVE, CREST, KILL, IDLE (12 R297, R298) -/

/-- Whether an overflow table is legal (03 R84). -/
def ovfLegal (v : Word) : Bool :=
  bitsAt v 14 50 == 0 && ([0, 2, 4, 6, 8, 10, 12].all fun k => bitsAt v k 2 != 3) &&
    [4, 8, 10, 12].all fun k => bitsAt v k 2 != 1

/-- Whether a gang is placed or saved (12 R298, 01 R33). -/
def Rank.active (r : Rank) : Bool := r.gangs.any Gang.running

/-- LDOVF: in force after the rank's next phase boundary, or at once when no gang is placed or saved (12 R298). -/
def execLdovf (a : XReg) (s : State) : Host.Outcome State Fault Refusal :=
  s.asSup (.ldovf a) fun st =>
    let v := st.rx a
    if !ovfLegal v then s.illop st (.ldovf a)
    else match s.rank? st.selected with
      | none => s.illop st (.ldovf a)
      | some r =>
        let other := match r.slot? with
          | some k => s.partOf k != s.partOfRank s.cur.vr
          | none => false
        if other then s.priv st (.ldovf a)
        else (s.modRank r.vr fun r => { r with ovf := v, ovfForce := if r.active then r.ovfForce else v }).retire st

/-- CSAVE (12 R297). -/
def execCsave (d a : XReg) (s : State) : Host.Outcome State Fault Refusal :=
  s.asSup (.csave d a) fun st => s.onSelected st (.csave d a) fun r =>
    let g := bitsAt (st.rx a) 0 32
    match r.gang? g with
    | some x =>
      if x.cond = .placed ∨ x.cond = .starting then
        match r.freeSlot with
        | some k => (s.modRank r.vr fun r => r.requestHalt g k 0).hold (.csave d g)
        | none => s.retire (st.wx d 1)
      else s.retire (st.wx d 2)
    | none => s.retire (st.wx d 2)

/-- The occupied frame slot at an address, with its gang (12 R296, R297). -/
def Rank.frameAt (r : Rank) (a : Nat) : Option (Nat × Gang) :=
  match r.frames.find? fun f => r.slotAddr f.slot == a with
  | some f => (r.gang? f.gang).map fun g => (f.slot, g)
  | none => none

/-- Whether a frame header in memory is that of a gang (12 R311). -/
def State.headerOk (s : State) (a vr gang : Nat) : Bool :=
  leNat (physBytes s.mem a 8) == 1 && leNat (physBytes s.mem (a + 8) 8) == vr % 2 ^ 24 + gang * 2 ^ 32

/-- CREST: posts a frame for restore (12 R297, R314). -/
def execCrest (d a : XReg) (s : State) : Host.Outcome State Fault Refusal :=
  s.asSup (.crest d a) fun st => s.onSelected st (.crest d a) fun r =>
    let addr := (st.rx a).toNat
    match r.frameAt addr with
    | some (_, g) => match g.cond with
      | .saved k why _ =>
        if !s.headerOk addr r.vr g.id then s.retire (st.wx d 1)
        else if r.slot?.isNone then s.retire (st.wx d 2)
        else (s.modRank r.vr fun r => { r.modGang g.id fun g => { g with cond := .saved k why true } with walk := true }).retire (st.wx d 0)
      | _ => s.retire (st.wx d 1)
    | none => s.retire (st.wx d 1)

/-- Kills or discards a gang of a rank for the acting strand; a strand of that gang ends and writes nothing (14 R348). -/
def State.killFor (s : State) (st : Strand) (d : XReg) (vr g : Nat) : State :=
  match s.gang? vr g with
  | none => s.retire (st.wx d 2)
  | some _ =>
    let s := s.endGang vr g
    match s.strand? s.cur with
    | some st => s.retire (st.wx d 0)
    | none => s

/-- KILL (12 R297). -/
def execKill (d a : XReg) (s : State) : Host.Outcome State Fault Refusal :=
  s.asSup (.kill d a) fun st => s.onSelected st (.kill d a) fun r => s.killFor st d r.vr (bitsAt (st.rx a) 0 32)

/-- IDLE (12 R297). -/
def execIdle (d a : XReg) (s : State) : Host.Outcome State Fault Refusal :=
  s.asSup (.idle d a) fun st =>
    let limit := bitsAt (st.rx a) 0 32
    if s.ntail ≠ s.nhead then s.retire (st.wx d 1)
    else if limit ≠ 0 ∧ st.waitiLeft = limit ∧ limit ≤ st.waited then s.retire (st.wx d 0)
    else s.holdFor (.notice d) limit

/-- IDLE_EXPIRY: the limit expires with no notice waiting and the strand continues with 0 (12 R297). -/
def execIdleExpiry (r : SRef) (s : State) : Host.Outcome State Fault Refusal :=
  .next (match s.strand? r with
    | some st => match st.wait with
      | some (.notice d) =>
        if s.ntail = s.nhead ∧ st.waitiLeft ≠ 0 ∧ st.waitiLeft ≤ st.waited then { s with cur := r }.retire (st.wx d 0) else s
      | _ => s
    | none => s)

/-! ### Shoot-downs (13 R323 to R325) -/

/-- Writes every buffered store of a strand to memory (13 R323, R324); one through the peer aperture leaves as an access of the strand,
which its target writes at once and answers (13 R334, R336). -/
def State.flushStrand (s : State) (r : SRef) : State :=
  match s.rank? r.vr with
  | none => s
  | some k =>
    let mine := fun (b : BStore) => b.core == r.core && b.strand == r.strand && b.gang == r.gang
    let out := k.sbuf.filter fun b => mine b && !b.sent
    let s := s.modRank r.vr fun k => { k with sbuf := k.sbuf.filter fun b => !mine b }
    out.foldl (fun s b => match b.dst with
      | .peer p a => s.sendPeer r b.va p a (peerOrder b.order 2) b.bytes
      | d => s.putCommitted ((s.slotOf r.vr).getD 16) d b.bytes) s

/-- Clears the handles of a core whose page overlaps a range; `sup` tells the supervisor's space from the rank's
(13 R323, 12 R290). -/
def Core.shootHandles (k : Core) (sup : Bool) (lo size : Nat) : Core :=
  { k with handles := k.handles.map fun h =>
      if h.sup = sup ∧ h.va < lo + size ∧ lo < h.va + pageSize h.large then { h with valid := false } else h }

/-- Changes every core of every gang of a rank. -/
def Rank.modCores (r : Rank) (f : Core → Core) : Rank :=
  { r with gangs := r.gangs.map fun g => { g with cores := g.cores.map f } }

/-- Clears the handles of every core of a rank on a range and increments GEN (13 R323). -/
def Rank.shoot (r : Rank) (lo size : Nat) : Rank :=
  { r.modCores fun k => k.shootHandles false lo size with gen := r.gen + 1 }

/-- The accesses of a rank's strands that passed the handle check and have not performed (13 R323). -/
def Rank.handleAccesses (r : Rank) : List Nat :=
  (r.accesses.filter fun a => a.viaHandle && match a.op with
    | .cmdLoad _ _ _ | .cmdStore _ _ => false
    | _ => true).map fun a => a.id

/-- The accesses that a shoot-down by the acting strand waits for: those of the rank, and the stores of the strand that have left for
another package (13 R323). -/
def State.shotAccesses (s : State) (vr : Nat) : List Nat :=
  let of := fun (v : Nat) => match s.rank? v with
    | some r => r.accesses
    | none => []
  (match s.rank? vr with
    | some r => r.handleAccesses
    | none => []) ++
    ((of s.cur.vr).filter fun a => a.by' == s.cur && a.order % 3 == 2 && a.dst.isPeer && (match a.op with | .store _ => true | _ => false)).map fun a => a.id

/-- The acting strand holds until accesses have performed, then writes rd (13 R323). -/
def State.drain (s : State) (d : XReg) (v : Word) (ids : List Nat) : State :=
  match s.strand? s.cur with
  | some st => if ids.isEmpty then s.retire (st.wx d v) else s.hold (.drain d v ids)
  | none => s

/-- SHOOT (12 R297, 13 R323). -/
def execShoot (d a : XReg) (large : Bool) (s : State) : Host.Outcome State Fault Refusal :=
  s.asSup (.shoot d a large) fun st => s.onSelected st (.shoot d a large) fun r =>
    let va := st.rx a
    if 2 ^ 48 ≤ va.toNat then s.trap st 7 va 4
    else
      let s := s.flushStrand s.cur
      (s.modRank r.vr fun r => r.shoot (pageVa va.toNat large) (pageSize large)).drain d (r.gen + 1) (s.shotAccesses r.vr)

/-- VMAP: the whole space is shot down after PTROOT has been replaced (12 R297, 13 R316, R325). -/
def execVmap (d a : XReg) (s : State) : Host.Outcome State Fault Refusal :=
  s.asSup (.vmap d a) fun st => s.onSelected st (.vmap d a) fun r =>
    let v := st.rx a
    if bitsAt v 1 11 ≠ 0 then s.illop st (.vmap d a)
    else
      let s := s.flushStrand s.cur
      (s.modRank r.vr fun r => { r with ptroot := v }.shoot 0 (2 ^ 48)).drain d r.ptroot (s.shotAccesses r.vr)

/-- The accesses of the supervisor strands of a partition that passed the handle check and have not performed (12 R290). -/
def State.supAccesses (s : State) (part : Nat) : List Nat :=
  (s.ranks.filter fun r => s.partOfRank r.vr == part && (r.slot?).isSome).flatMap fun r =>
    (r.accesses.filter fun a => a.viaHandle && match r.gang? a.by'.gang with
      | some g => g.launch.sup
      | none => false).map fun a => a.id

/-- A shoot-down of a range of a partition's supervisor space: the handles on it are cleared and the partition's generation
increments; the package control processor is answered with `v` once the accesses that passed before have performed (12 R290; 13 R323). -/
def State.shootSup (s : State) (part lo size : Nat) (v : Word) : State :=
  { s with
    supgen := s.supgen.setIfInBounds part ((s.supgen[part]?.getD 0) + 1)
    pcp := s.pcp ++ [.drained v (s.supAccesses part)]
    ranks := s.ranks.map fun r =>
      if s.partOfRank r.vr != part || (r.slot?).isNone then r else r.modCores fun k => k.shootHandles true lo size }

/-- SUPERVISOR_SHOOT: the PCP shoots down a mapping of a partition's supervisor, in the way of SHOOT (12 R290). -/
def execSupervisorShoot (part : Nat) (va : BitVec 64) (large : Bool) (s : State) : Host.Outcome State Fault Refusal :=
  .next (s.shootSup part (pageVa va.toNat large) (pageSize large) ((s.supgen[part]?.getD 0) + 1))

/-- SPTROOT_WRITE: only the PCP writes SPTROOT; the whole space is shot down with it, in the way of VMAP. Reserved bits stay 0
(12 R290; 13 R316, R325). -/
def execSptrootWrite (part : Nat) (v : BitVec 64) (s : State) : Host.Outcome State Fault Refusal :=
  .next ({ s with sptroot := s.sptroot.setIfInBounds part (putBits v 1 11 0) }.shootSup part 0 (2 ^ 48) (s.sptroot[part]?.getD 0))

/-! ### The control port of the PCP (12 R288, R290, R295) -/

/-- A register as the PCP reads it through its control port, by index, with the rank, slot or partition of its scope; 0 where there is
none (log entry 45). -/
def State.pcpRead (s : State) (vr slot part i : Nat) : Word :=
  if i = 0x003 then s.sptroot[part]?.getD 0
  else if i = 0x020 then s.slotvr slot
  else if i = 0x001 ∨ i = 0x002 then 0
  else match s.rank? vr with
    | some r => ((r.sysReg i).orElse fun _ => s.pkgReg i).getD 0
    | none => (s.pkgReg i).getD 0

/-- A write of the PCP to a register of a rank; a value that a WRSYS would be refused for changes nothing (log entry 45). -/
def State.pcpWriteRank (s : State) (r : Rank) (i : Nat) (v : Word) : State :=
  if i = 0x043 ∧ bitsAt v 16 48 = 0 then s.modRank r.vr fun r => { r with engways := v }
  else if i = 0x044 then s.modRank r.vr fun r => { r with jobseed := v }
  else if i = 0x045 ∧ !r.frpoolBad v then s.modRank r.vr fun r => { r with frpool := v }
  else if i = 0x047 ∧ bitsAt v 1 63 = 0 then s.setHold r (bitAt v 0)
  else if 0x050 ≤ i ∧ i < 0x060 ∧ !s.wtblBad r v then s.modRank r.vr fun r => r.setWtbl (i - 0x050) v
  else s

/-- A write of the PCP: of a register of the package or of a partition, or of a rank. -/
def State.pcpWrite (s : State) (vr part i : Nat) (v : Word) : State :=
  if i = 0x003 then { s with sptroot := s.sptroot.setIfInBounds part (putBits v 1 11 0) }.shootSup part 0 (2 ^ 48) (s.sptroot[part]?.getD 0)
  else if i = 0x00A then (if s.l2ctlBad v || s.busyPackage none then s else { s with l2ctl := v })
  else if i = 0x010 then (if nringBad v then s else { s with nring := v })
  else if i = 0x011 then (if bitsAt v 16 48 = 0 then { s with nhead := v.setWidth 16 } else s)
  else match s.rank? vr with
    | some r => s.pcpWriteRank r i v
    | none => s

/-- Whether the oldest act of the PCP waits: for the accesses that a shoot-down waits for (13 R323), for a rank in transit (15 R378), for
the outstanding writes of a window whose table entry it writes (04 R103). -/
def State.pcpWaits (s : State) (a : PcpAct) : Bool :=
  match a with
  | .drained _ ids => ids.any fun id => (s.access? id).isSome
  | .dtb | .tableBase _ | .replay _ _ _ _ | .replayed _ _ _ => false
  | .read vr _ _ i => 0x041 ≤ i && s.inTransit vr
  | .write vr _ i _ => (0x041 ≤ i && s.inTransit vr) || (0x050 ≤ i && i < 0x060 && match s.rank? vr with
    | some r => r.walOut[i - 0x050]?.getD 0 != 0
    | none => false)

/-- The oldest act of the PCP takes place, if it need not wait; a read is answered. Those on root holders are of the granary. -/
def State.pcpTurn (s : State) : State :=
  match s.pcp with
  | [] => s
  | a :: t =>
    if s.pcpWaits a then s
    else
      let s := { s with pcp := t }
      match a with
      | .drained v _ => { s with out := s.out ++ [.pcp v] }
      | .tableBase v => { s with fstBase := v }
      | .dtb => { s with out := s.out ++ [.pcp s.fabric.dtb] }
      | .read vr slot part i => { s with out := s.out ++ [.pcp (s.pcpRead vr slot part i)] }
      | .write vr part i v => s.pcpWrite vr part i v
      | .replay _ _ _ _ | .replayed _ _ _ => s

/-! ### Pins (13 R328, R329) -/

/-- PLOCK: one pin on the page at its current frame; 0 when entries are short (12 R297, 13 R328). -/
def execPlock (d a : XReg) (s : State) : Host.Outcome State Fault Refusal :=
  s.asSup (.plock d a) fun st => s.onSelected st (.plock d a) fun r =>
    let va := st.rx a
    if 2 ^ 48 ≤ va.toNat then s.trap st 7 va 4
    else match s.walkFor r.vr false va.toNat with
      | .absent _ => s.trap st 7 va 2
      | .badClass => s.trap st 7 va 3
      | .badFrame => s.trap st 7 va 2
      | .leaf e _ large =>
        let p : Lock := { vr := r.vr, va := pageVa va.toNat large, large := large, frame := leafFrame e large, count := 1 }
        let same := fun (l : Lock) => l.vr == p.vr && l.va == p.va && l.large == p.large && l.frame == p.frame
        let n := match s.locks.find? same with
          | some l => l.count
          | none => 0
        if 65536 - s.locks.length < 4096 ∨ n = 65535 then s.retire (st.wx d 0)
        else
          let locks := if n = 0 then s.locks ++ [p] else s.locks.map fun l => if same l then { l with count := l.count + 1 } else l
          { s with locks := locks }.retire (st.wx d (BitVec.ofNat 64 (n + 1)))

/-- The entry that PUNLOCK releases a pin of: at the page's current frame if it is present, else the oldest (13 R328). -/
def State.unlockEntry (s : State) (vr va : Nat) : Option Lock :=
  let mine := s.locks.filter fun l => l.vr == vr && l.va == pageVa va l.large
  match s.walkFor vr false va with
  | .leaf e _ large =>
    match mine.find? fun l => l.large == large && l.frame == leafFrame e large with
    | some l => some l
    | none => mine.head?
  | _ => mine.head?

/-- PUNLOCK: ILLOP when no entry of the page exists (12 R297, 13 R328). -/
def execPunlock (d a : XReg) (s : State) : Host.Outcome State Fault Refusal :=
  s.asSup (.punlock d a) fun st => s.onSelected st (.punlock d a) fun r =>
    match s.unlockEntry r.vr (st.rx a).toNat with
    | none => s.illop st (.punlock d a)
    | some l =>
      { s with locks := releasePin s.locks { vr := l.vr, va := l.va, large := l.large, frame := l.frame } }.retire
        (st.wx d (BitVec.ofNat 64 (l.count - 1)))

/-- PINQ: the pins that name a physical frame, of any rank (12 R297, 13 R329). -/
def execPinq (d a : XReg) (s : State) : Host.Outcome State Fault Refusal :=
  s.asSup (.pinq d a) fun st =>
    let pa := (st.rx a).toNat
    let hit := s.locks.filter fun l => l.frame / pageSize l.large == pa / pageSize l.large
    s.retire (st.wx d (BitVec.ofNat 64 (hit.map fun l => l.count).sum))

/-- NOTICE_WRITE: the oldest held notice is written when there is room (12 R299). -/
def execNoticeWrite (s : State) : Host.Outcome State Fault Refusal :=
  .next (match s.notices with
    | n :: t => if s.noticeRoom then { s with notices := t }.putNotice n else s
    | [] => s)

end Sys2Proof.Machine
end

