-- ==== Sys2Proof/Machine/Stream.lean ====
section
/-! DEFINITION. The STRM instructions and the steps of the stream units (09 R243 to R249, R236 to R242). -/

namespace Sys2Proof.Machine

/-- The state codes of SSTAT (09 R248). -/
def ZState.code : ZState → Nat
  | .unbound => 0 | .bound => 1 | .running => 2 | .done => 3 | .faulted => 4

/-- An instruction on a stream register: ILLOP when the strand does not own it (09 R243, 02 R45). -/
def State.withStream (s : State) (st : Strand) (i : Instr) (z : Nat) (f : Stream → State) : State :=
  if !ownsHalf s.cur.strand z then s.illop st i
  else match s.core? s.cur with
    | some k => f (k.stream z)
    | none => s

/-- SDESC (09 R244). -/
def execSdesc (z : ZReg) (x : XReg) (s : State) : Host.Outcome State Fault Refusal :=
  s.acting fun st => s.withStream st (.sdesc z x) z.toNat fun zr =>
    let a := st.rx x
    if zr.st = .running ∨ zr.st = .faulted then s.illop st (.sdesc z x)
    else match recordViolation a 64 64 with
      | some (c, v) => s.trap st c v
      | none => (s.modCore s.cur fun k => k.setStream z.toNat { zr with st := .bound, descAddr := a.toNat }).retire st

/-- SSET: a word store by the strand at the port (09 R245). -/
def execSset (z : ZReg) (f : BitVec 4) (x : XReg) (s : State) : Host.Outcome State Fault Refusal :=
  s.acting fun st => s.withStream st (.sset z f x) z.toNat fun zr =>
    if zr.st = .unbound then s.illop st (.sset z f x)
    else (s.padPut ((s.slotOf s.cur.vr).getD 16) s.cur.core (zr.descAddr + 4 * f.toNat) (lowBytes (st.rx x) 4)).retire st

/-- Why a binding is refused (09 R246). -/
inductive BindFail where
  | illop | closed
  deriving DecidableEq, Repr

/-- SBIND of stream z of a core to a queue, given the descriptor: the checks in their order, then the stream runs
(09 R246). -/
def Core.bindStream (k : Core) (z q : Nat) (d : BitVec 512) : Except BindFail Core :=
  let zr := k.stream z
  let store := 8 ≤ z
  if zr.st ≠ .bound ∧ zr.st ≠ .done then .error .illop
  else if (if store then !(8 ≤ q && q < 12) else !(q < 8)) then .error .illop
  else if k.tileBound q then .error .illop
  else if !descValid d store then .error .illop
  else if descKind d = 2 ∧ k.indexBound (12 + indexQueue d store) then .error .illop
  else if (k.tqueue q).closed then .error .closed
  else .ok { k.setStream z { st := .running, descAddr := zr.descAddr, desc := d, q := q, serial := k.nextId } with
             nextId := k.nextId + 1 }

/-- The descriptor at a stream register's address in the core's own scratchpad. -/
def State.descAt (s : State) (vr core a : Nat) : BitVec 512 :=
  BitVec.ofNat 512 (leNat (s.padBytes ((s.slotOf vr).getD 16) core a 64))

/-- SBIND (09 R246). -/
def execSbind (z : ZReg) (q : BitVec 4) (s : State) : Host.Outcome State Fault Refusal :=
  s.acting fun st => s.withStream st (.sbind z q) z.toNat fun zr => s.withCore fun k =>
    match k.bindStream z.toNat q.toNat (s.descAt s.cur.vr s.cur.core zr.descAddr) with
    | .ok k' => (s.modCore s.cur fun _ => k').retire st
    | .error .illop => s.illop st (.sbind z q)
    | .error .closed =>
      s.trap st 6 (queueVal false q.toNat (k.tqueue q.toNat).tail (k.tqueue q.toNat).head)

/-- SUNBIND (09 R247). -/
def execSunbind (z : ZReg) (s : State) : Host.Outcome State Fault Refusal :=
  s.acting fun st => s.withStream st (.sunbind z) z.toNat fun zr =>
    if zr.st = .unbound then s.illop st (.sunbind z)
    else
      let s := s.stopStream s.cur z.toNat
      match s.strand? s.cur with
      | some st => s.retire st
      | none => s

/-- SSTAT (09 R248). -/
def execSstat (z : ZReg) (d : XReg) (s : State) : Host.Outcome State Fault Refusal :=
  s.acting fun st => s.withStream st (.sstat z d) z.toNat fun zr =>
    s.retire (st.wx d (BitVec.ofNat 64 (zr.descAddr * 2 ^ 32 + zr.count.toNat * 2 ^ 16 + zr.q * 2 ^ 8 + zr.st.code)))

/-- One action of the unit of stream z of a core whose gang is on its cores (09 R236 to R242). -/
def State.streamTurn (s : State) (r : SRef) (z : Nat) : State :=
  match s.gang? r.vr r.gang, s.core? r, s.slotOf r.vr with
  | some g, some k, some slot =>
    let zr := k.stream z
    let cores := s.gangCores r
    if g.isPlaced && zr.st == .running && (k.streamReady zr || s.streamPasses r slot cores k zr) then s.streamAct r z slot cores zr
    else s
  | _, _, _ => s

/-- LOAD_STREAM_ENTRY (09 R236 to R240). -/
def execLoadStreamEntry (r : SRef) (z : Nat) (s : State) : Host.Outcome State Fault Refusal :=
  .next (if z < 8 then s.streamTurn r z else s)

/-- STORE_STREAM_DRAIN (09 R240). -/
def execStoreStreamDrain (r : SRef) (z : Nat) (s : State) : Host.Outcome State Fault Refusal :=
  .next (if 8 ≤ z ∧ z < 16 then s.streamTurn r z else s)

end Sys2Proof.Machine
end

