-- ==== Sys2Proof/Machine/Engine.lean ====
section
/-! DEFINITION. Engine commands: patch words and chains (06 R153), building a command from its template, the submission checks
(09 R250 to R258, 10 R279, 15 R373, 16 R395), copies (09 R255, R256), retiring (10 R270, 05 R453), engine reset (10 R273). -/

namespace Sys2Proof.Machine

/-! ### Planes and templates (09 R253, R259) -/

/-- Template t of a plane. -/
def planeTpl (p : BitVec 32768) (t : Nat) : BitVec 512 := p.extractLsb' (512 * t) 512

/-- Field f of a template (09 R253). -/
def tplField (t : BitVec 512) (f : Nat) : Nat := bitsAt t (16 * f) 16

/-- Two fields as one 32-bit number. -/
def tplWord (t : BitVec 512) (f : Nat) : Nat := bitsAt t (16 * f) 32

/-- A template with one field replaced (06 R153). -/
def tplSet (t : BitVec 512) (f v : Nat) : BitVec 512 := putBits t (16 * f) 16 v

/-- The planes of an engine class for a rank; class 2 is the package's (09 R259). -/
def State.planes (s : State) (vr cls : Nat) : Planes :=
  if cls = 2 then s.migPlanes
  else match s.rank? vr with
    | some r => match cls with
      | 0 => r.copyPlanes
      | 1 => r.collPlanes
      | _ => r.granPlanes
    | none => Planes.zero

/-! ### Submission checks (09 R251) -/

/-- One range that a command names: its space word, the runs by offset and length, and whether it is written. -/
structure Region where
  space : Nat
  runs : List (Int × Nat)
  written : Bool
  deriving DecidableEq, Repr

/-- A check that fails: ILLOP, or a cause with TVAL and DETAIL. -/
inductive SubFail where
  | illop
  | trap (cause : Nat) (val : Word) (detail : Nat)
  deriving DecidableEq, Repr

/-- Whether a region is named by a handle, and which (09 R254, DSPACE). -/
def Region.handle? (g : Region) : Option Nat := if bitAt (BitVec.ofNat 16 g.space) 15 then some (g.space % 16) else none

/-- Whether the other bits of a space word are 0 (09 R254). -/
def spaceOk (w : Nat) : Bool := w / 16 % 2048 == 0

/-- The first byte of `n` bytes of scratch space that templates may not name, looking pad by pad (04 R97). -/
def firstUnnameable (cores : List Nat) : Nat → Int → Nat → Option Int
  | 0, _, _ => none
  | k + 1, a, n =>
    if n = 0 then none
    else if !nameable cores a then some a
    else
      let left := 0x80000 - (a % 0x80000).toNat
      if n ≤ left then none else firstUnnameable cores k (a + left) (n - left)

/-- Checks 2 to 6 of R251 for class k over the regions of a command. -/
def submitCheck (i : StrandId) (k : Core) (cores : List Nat) (cls : Nat) (gs : List Region) : Option SubFail :=
  let hs := gs.filterMap fun g => g.handle?.map fun h => (g, h, k.handle h)
  if hs.any fun p => !ownsHalf i p.2.1 then some .illop
  else match hs.find? fun p => !p.2.2.valid with
    | some p => some (.trap 9 (stalehVal p.2.1 p.2.2) 0)
    | none =>
      let denied := fun (p : Region × Nat × Handle) =>
        !(bitAt p.2.2.perm 0 && bitAt p.2.2.emask (2 * cls + (if p.1.written then 1 else 0)))
      match hs.find? denied with
      | some p =>
        let a : Int := match p.1.runs with
          | q :: _ => q.1
          | [] => 0
        some (.trap 8 (BitVec.ofInt 64 (p.2.2.va + a)) (5 + 32 * cls))
      | none =>
        let outside := fun (p : Region × Nat × Handle) => p.1.runs.findSome? fun (q : Int × Nat) =>
          let size : Int := (pageSize p.2.2.large : Nat)
          let va : Int := (p.2.2.va : Nat)
          if q.2 = 0 then (none : Option Int)
          else if q.1 < 0 ∨ size ≤ q.1 then some (va + q.1)
          else if size < q.1 + (q.2 : Nat) then some (va + size) else none
        match hs.findSome? outside with
        | some a => some (.trap 7 (BitVec.ofInt 64 a) 1)
        | none =>
          let bad := gs.findSome? fun g => if g.handle?.isSome then none else g.runs.findSome? fun q =>
            firstUnnameable cores (q.2 / 0x80000 + 2) q.1 q.2
          bad.map fun a => .trap 0xB (BitVec.ofInt 64 a) 0

/-- The space that a region's word and offset name. -/
def regionSpace (k : Core) (space : Nat) (off : Nat) : Space :=
  if bitAt (BitVec.ofNat 16 space) 15 then
    let h := k.handle (space % 16)
    .glob h.aper h.peer.toNat (h.frame + off)
  else .scratch off

/-- A byte as a command of a core reads it at submission: its own scratchpad at the port, all else in its view (05 R118,
R132); one that is reached through the peer aperture is fetched later, unless the core has written it (10 R270). -/
def State.readLoc (s : State) (vr core slot : Nat) (d : StoreTo) : Option Byte :=
  match d with
  | .scratch a => if a / 0x80000 = core then some (memRead (s.slot slot).pads a) else (s.viewBytes vr core slot d 1).head?
  | .peer _ _ => (s.rank? vr).bind fun r => r.viewByte? core d
  | _ => (s.viewBytes vr core slot d 1).head?

/-- Bytes as a command of a core reads them. -/
def State.readRun (s : State) (vr core slot : Nat) (p : Space) (n : Nat) : List (Option Byte) :=
  (List.range n).map fun i => s.readLoc vr core slot ((p.toStore core).plus i)

/-- Bytes of several runs, in order. -/
def State.readRuns (s : State) (vr core slot : Nat) (l : List (Space × Nat)) : List (Option Byte) :=
  l.flatMap fun q => s.readRun vr core slot q.1 q.2

/-! ### Building commands -/

/-- A command to be submitted: its regions and its body. -/
structure Build where
  regions : List Region
  body : State → CmdBody × State

/-- Field 0 of a template for a class (09 R253); FOLLOW is for copies only. -/
def ctrlOk (t : BitVec 512) (cls : Nat) : Bool :=
  bitAt t 15 && bitsAt t 8 4 == cls && bitsAt t 12 3 == 0 && bitsAt t 0 6 == 0 && (cls == 0 || !bitAt t 6)

/-- A copy (09 R254 to R256). -/
def buildCopy (r : SRef) (k : Core) (slot : Nat) (t : BitVec 512) : Option Build :=
  let ss := tplField t 1
  let ds := tplField t 4
  let sa := tplWord t 2
  let da := tplWord t 5
  let rlen := tplField t 7
  let nrow := tplField t 8
  let sstr := signedOf 32 (tplWord t 9)
  let dstr := signedOf 32 (tplWord t 11)
  let fq := tplField t 13
  let follow := bitAt t 6
  if !ctrlOk t 0 ∨ bitsAt t 224 288 ≠ 0 ∨ !spaceOk ss ∨ !spaceOk ds ∨ rlen = 0 ∨ fq / 128 ≠ 0 ∨ fq / 8 % 2 ≠ 0 ∨
      (follow ∧ 32768 ≤ ds) then none
  else
    let rows := fun (a : Nat) (st : Int) => (List.range nrow).map fun (i : Nat) => ((a : Int) + (i : Int) * st, rlen)
    some { regions := [{ space := ss, runs := rows sa sstr, written := false },
                       { space := ds, runs := rows da dstr, written := true }],
           body := fun s =>
             let src := regionSpace k ss sa
             (.copy src (regionSpace k ds da) rlen nrow sstr dstr (if follow then some (fq % 8, fq / 16 % 8) else none)
               (s.readRuns r.vr r.core slot ((List.range nrow).map fun (i : Nat) => (src.plus ((i : Int) * sstr), rlen))) 0 0, s) }

/-- Fields of a graph (10 R274, R275). -/
def Graph.cnt (g : Graph) : Nat := bitsAt g.header 64 32
def Graph.recw (g : Graph) : Nat := bitsAt g.header 40 8
def Graph.esz (g : Graph) : Nat := 2 ^ bitsAt g.header 32 2
def treeDkind (t : BitVec 128) : Nat := bitsAt t 120 2
def treeDvr (t : BitVec 128) : Nat := bitsAt t 96 24
def treeDep (t : BitVec 128) : Nat := bitsAt t 80 6
def treeLo (t : BitVec 128) : Nat := bitsAt t 48 24
def treeHi (t : BitVec 128) : Nat := bitsAt t 24 24

/-- The operator and format of OPF (09 R257). -/
def opfOp (o : BitVec 16) : Nat := bitsAt o 8 4
def opfFmt (o : BitVec 16) : Nat := bitsAt o 0 4

/-- Which buffers the ops of a graph read and write: a MERGE reads what it combines; with VLEN a sending op reads its count word in BUF3,
a receiving op writes its own (10 R276, R277; 13 R321). -/
def Graph.reads (g : Graph) (b : Nat) : Bool :=
  g.ops.any fun o => ((opKind o == 0 || opKind o == 2 || opKind o == 4 || opKind o == 5) && opSbuf o == b) ||
    (opKind o == 3 && opDbuf o == b) || (opVlen o && b == 3 && (opKind o == 0 || opKind o == 2 || opKind o == 5))
def Graph.writes (g : Graph) (b : Nat) : Bool :=
  g.ops.any fun o => ((opKind o == 1 || opKind o == 3 || opKind o == 4 || opKind o == 5) && opDbuf o == b) ||
    (opVlen o && b == 3 && (opKind o == 1 || opKind o == 3 || opKind o == 5))

/-- Whether an op and the trees of a graph have legal codes (10 R275, R276) and blocks for a granary are FP32 sums
(16 R384). -/
def Graph.legal (g : Graph) (n : Nat) (opf : BitVec 16) : Bool :=
  (g.ops.all fun o => opKind o ≤ 5 && (opKind o != 2 || opTree o < g.trees.length)) &&
  (g.trees.all fun t => treeDkind t != 3 && treeLo t ≤ treeHi t && treeHi t < n &&
    (treeDkind t != 2 || (opfOp opf == 0 && opfFmt opf == 1)))

/-- A collective (09 R257, 10 R279). -/
def buildColl (r : SRef) (rk : Rank) (n : Nat) (k : Core) (slot : Nat) (t : BitVec 512) : Option Build :=
  let opf : BitVec 16 := t.extractLsb' 272 16
  let count := tplWord t 15
  let gslot := tplField t 2
  let fmt := opfFmt opf
  let op := opfOp opf
  if !ctrlOk t 1 ∨ tplField t 1 ≠ 0 ∨ 64 ≤ gslot ∨ bitsAt t 288 224 ≠ 0 ∨ bitsAt opf 12 4 ≠ 0 ∨ bitsAt opf 4 4 ≠ 0 ∨
      5 ≤ op ∨ 14 ≤ fmt then none
  else match rk.graphs.find? fun p => p.1 == gslot with
    | none => none
    | some (_, g) =>
      let spaceW := fun (b : Nat) => tplField t (3 + 3 * b)
      let addr := fun (b : Nat) => tplWord t (4 + 3 * b)
      let named := [0, 1, 2, 3].filter fun b => g.reads b || g.writes b
      if count = 0 ∨ count ≠ g.cnt ∨ fmtSize fmt ≠ g.esz ∨ (op ≤ 2 ∧ 4 ≤ fmt ∧ fmt ≤ 9) ∨
          (op = 3 ∧ (fmt ≠ 1 ∨ g.recw = 0 ∨ count % g.recw ≠ 0)) ∨ !g.legal n opf ∨ [0, 1, 2, 3].any fun b => !spaceOk (spaceW b) then none
      else
        let len := count * g.esz
        some { regions := named.flatMap fun b =>
                 (if g.reads b then [{ space := spaceW b, runs := [((addr b : Int), len)], written := false }] else []) ++
                 (if g.writes b then [{ space := spaceW b, runs := [((addr b : Int), len)], written := true }] else []),
               body := fun s =>
                 let bufs := [0, 1, 2, 3].map fun b => if named.contains b then regionSpace k (spaceW b) (addr b) else .scratch 0
                 let rd := fun (b : Nat) => if g.reads b then s.readRun r.vr r.core slot (regionSpace k (spaceW b) (addr b)) len else []
                 let replay := match rk.replays.find? fun p => p.1 == gslot with
                   | some p => (p.2 + 1).toNat
                   | none => 1
                 let ops := g.ops.map fun o =>
                   ({ counter := opDeps o, pos := 0, half := false, running := false, complete := false, sent := false, received := false } : OpSt)
                 let s := s.modRank r.vr fun q =>
                   { q with replays := (q.replays.filter fun p => p.1 != gslot) ++ [(gslot, BitVec.ofNat 32 replay)] }
                 (.coll gslot g opf bufs replay rk.stepno.toNat ops ([0, 1, 2, 3].map rd) [], s) }

/-- A migration command: physical addresses and no handles (15 R373). A free-frame list in this package is read as the command is
submitted, in the view of its core (05 R132). -/
def buildMigr (r : SRef) (slot : Nat) (t : BitVec 512) : Option Build :=
  if !ctrlOk t 2 ∨ bitsAt t 24 4 ≠ 0 ∨ 2 ≤ bitsAt t 30 2 ∨ 2 ≤ bitsAt t 28 2 ∨ bitsAt t 56 8 ≠ 0 ∨ bitsAt t 76 4 ≠ 0 ∨
      bitsAt t 90 6 ≠ 0 ∨ bitsAt t 320 192 ≠ 0 ∨ bitsAt t 96 3 ≠ 0 ∨ bitsAt t 256 4 ≠ 0 then none
  else some { regions := [],
              body := fun s =>
                let entry := fun (i : Nat) => leNat (s.viewBytes r.vr r.core slot (.phys (bitsAt t 96 64 + 8 * i)) 8)
                (.migr t 0 (if s.migrHere t then (List.range (bitsAt t 160 32)).map entry else []) 0 0 0, s) }

/-- The emission format of a shard by this package's directory, BF16 when it is unknown (16 R395). -/
def State.shardEfmt (s : State) (job shard : Nat) : Nat :=
  match s.granary.shards.find? fun x => x.rec'.job == job && x.rec'.shard == shard with
  | some x => x.rec'.efmt
  | none => 0

/-- A gather (16 R395). -/
def buildGather (rk : Rank) (dom pkg id efmt : Nat) (k : Core) (t : BitVec 512) : Option Build :=
  let ds := tplField t 6
  let nblk := tplField t 5
  let da := tplWord t 7
  let dstr := signedOf 32 (tplWord t 9)
  let sca := tplWord t 11
  let sta := tplWord t 13
  let size := if efmt = 2 then 16384 else 32768
  if !ctrlOk t 3 ∨ tplField t 1 ≠ 0 ∨ bitsAt t 56 8 ≠ 0 ∨ !spaceOk ds ∨ bitsAt t 240 272 ≠ 0 ∨ sta % 4 ≠ 0 ∨
      (efmt = 2 ∧ sca % 4 ≠ 0) then none
  else
    let runs := ((List.range nblk).map fun (i : Nat) => ((da : Int) + (i : Int) * dstr, size)) ++
      (if efmt = 2 then [((sca : Int), 4 * nblk)] else []) ++ [((sta : Int), 4)]
    some { regions := [{ space := ds, runs := runs, written := true }],
           body := fun s =>
             (.gran { dom := dom, pkg := pkg, cmd := id, job := rk.job, shard := bitsAt t 32 24, block := tplField t 4,
                      nblk := nblk, step := rk.stepno.toNat }
               (regionSpace k ds da) dstr (regionSpace k ds sca) (regionSpace k ds sta) false, s) }

/-- The shard that a gather template names. -/
def tplShard (t : BitVec 512) : Nat := bitsAt t 32 24

/-- Check 1 of R251: the command that the template builds, if it is legal. -/
def State.buildCmd (s : State) (r : SRef) (rk : Rank) (k : Core) (slot cls : Nat) (t : BitVec 512) : Option Build :=
  match cls with
  | 0 => buildCopy r k slot t
  | 1 => buildColl r rk (s.jobSize r.vr) k slot t
  | 2 => buildMigr r slot t
  | _ => buildGather rk s.ownDom s.ownPkg s.nextId (s.shardEfmt rk.job (tplShard t)) k t

/-! ### Pins (13 R328) -/

/-- Whether a page-lock entry can take one more pin. -/
def pinRoom (locks : List Lock) (p : Pin) : Bool :=
  match locks.find? fun l => l.vr == p.vr && l.va == p.va && l.large == p.large && l.frame == p.frame with
  | some l => l.count < 65535
  | none => locks.length < 65536

/-- Takes one pin: in the entry of its page and frame, or in a new one. -/
def takePin (locks : List Lock) (p : Pin) : List Lock :=
  if locks.any fun l => l.vr == p.vr && l.va == p.va && l.large == p.large && l.frame == p.frame then
    locks.map fun l => if l.vr = p.vr ∧ l.va = p.va ∧ l.large = p.large ∧ l.frame = p.frame then { l with count := l.count + 1 } else l
  else locks ++ [{ vr := p.vr, va := p.va, large := p.large, frame := p.frame, count := 1 }]

/-- Takes pins one after the other; none when an entry cannot be had. -/
def takePins (locks : List Lock) : List Pin → Option (List Lock)
  | [] => some locks
  | p :: t => if pinRoom locks p then takePins (takePin locks p) t else none

/-! ### EC and ECR (09 R250, R251) -/

/-- Sets D in the leaves of the handles through which a command writes, also where the leaf has come to name another frame (13 R322). -/
def State.dirtyLeaves (s : State) (vr : Nat) (k : Core) : List Region → State
  | [] => s
  | g :: t =>
    match g.handle? with
    | some h =>
      let hd := k.handle h
      let s := if !g.written then s else match s.walkFor vr hd.sup hd.va with
        | .leaf _ a _ => s.markDirty a
        | _ => s
      s.dirtyLeaves vr k t
    | none => s.dirtyLeaves vr k t

/-- The engine number of a class and index (10 R272). -/
def engineNo (cls idx : Nat) : Nat := if cls = 0 then idx else 31 + cls

/-- A failed check leaves the chain closed and submits nothing (09 R251). -/
def State.submitFail (s : State) (st : Strand) (p : BitVec 32) (f : SubFail) : State :=
  let s := s.modStrand s.cur fun st => { st with chain := none }
  match f with
  | .illop => s.trapEntry s.cur 1 (tvalWord 1 p) 0 0 0 st.pc
  | .trap c v d => s.trapEntry s.cur c v d 0 0 st.pc

/-- Submits the command that a closing patch word builds (09 R250 to R252). -/
def State.submit (s : State) (st : Strand) (size : Word) (cls idx : Nat) (p : BitVec 32) (amends : List (Nat × BitVec 16)) :
    State :=
  match s.rank? s.cur.vr, s.core? s.cur, s.slotOf s.cur.vr with
  | some rk, some k, some slot =>
    let base := planeTpl (s.planes s.cur.vr cls).active (bitsAt p 26 6)
    let t := amends.foldl (fun t a => tplSet t a.1 a.2.toNat) base
    match s.buildCmd s.cur rk k slot cls t with
    | none => s.submitFail st p .illop
    | some b =>
      match (b.regions.filterMap Region.handle?).find? fun h => st.handlePending h with
      | some h => s.hold (.handle h)
      | none =>
        let kcls := match cls with | 0 => 3 | 1 => 5 | 2 => 6 | _ => 7
        match submitCheck s.cur.strand k (s.gangCores s.cur) kcls b.regions with
        | some f => s.submitFail st p f
        | none =>
          let e := engineNo cls idx
          if 16 ≤ s.outstandingCmds s.cur e then s.hold (.engineRoom e)
          else
            let hs := (b.regions.filterMap Region.handle?).dedup
            let pins := hs.map fun h => let hd := k.handle h
              ({ vr := s.cur.vr, va := hd.va, large := hd.large, frame := hd.frame } : Pin)
            match takePins s.locks pins with
            | none => s.hold .pinRoom
            | some locks =>
              let s := { s with locks := locks }
              let (body, s) := b.body s
              let (id, s) := s.fresh
              let c : Cmd := { id := id, by' := s.cur, sup := st.sup, engine := e, slot := slot, order := st.ecCount,
                               st := .queued, pins := pins, body := body, raw := t, wrote := [], spoiled := [], ending := false }
              let s := { s with cmds := s.cmds ++ [c] }
              (s.dirtyLeaves s.cur.vr k b.regions).complete size { st with chain := none, ecCount := st.ecCount + 1 }
  | _, _, _ => s

/-- Whether a patch word breaks a rule that its bits alone show: its zero field, or an amendment of field 0 (06 R153). -/
def patchBad (p : BitVec 32) : Bool := bitsAt p 16 4 != 0 || (bitsAt p 21 5 == 0 && bitAt p 20)

/-- A patch word of the acting strand: held in the chain, or closing it (06 R153). `bad` is the ILLOP of the chain rules. -/
def State.patch (s : State) (st : Strand) (size : Word) (cls idx : Nat) (p : BitVec 32) (bad : Word) : State :=
  let tpl := bitsAt p 26 6
  let fld := bitsAt p 21 5
  let chain := bitAt p 20
  let other := match st.chain with
    | some c => c.cls != cls || c.idx != idx || c.tpl != tpl
    | none => (false : Bool)
  if patchBad p || other then s.trap st 1 bad
  else
    let held := match st.chain with
      | some c => c.amends
      | none => []
    let amends := if fld = 0 then held else held ++ [(fld, p.extractLsb' 0 16)]
    if chain then s.complete size { st with chain := some { cls := cls, idx := idx, tpl := tpl, amends := amends } }
    else s.submit st size cls idx p amends

/-- EC: two words; the chain rules report the patch word, WORD 1; its own bits are checked before the privilege of its class (09 R250;
06 R153, R154, R155). -/
def execEc (c : BitVec 4) (i : BitVec 6) (p : BitVec 32) (s : State) : Host.Outcome State Fault Refusal :=
  s.acting fun st =>
    if patchBad p then s.trap st 1 (tvalWord 1 p)
    else if c = 2 ∧ !st.sup then s.priv st (.ec c i p)
    else s.patch st 8 c.toNat i.toNat p (tvalWord 1 p)

/-- ECR: the patch word is in a register, so that the privilege of the class comes before it (09 R250; 06 R153, R154). DESIGN CHOICE
(log entry 44): ILLOP for the patch word gives WORD 1 and the low 32 bits of the register, as for EC. -/
def execEcr (c : BitVec 4) (i : BitVec 6) (x : XReg) (s : State) : Host.Outcome State Fault Refusal :=
  s.acting fun st =>
    let p : BitVec 32 := (st.rx x).setWidth 32
    if c = 2 ∧ !st.sup then s.priv st (.ecr c i x)
    else s.patch st 4 c.toNat i.toNat p (tvalWord 1 p)

/-! ### Running and retiring -/

/-- The command of an identity. -/
def State.cmd? (s : State) (id : Nat) : Option Cmd := s.cmds.find? fun c => c.id == id

def State.modCmd (s : State) (id : Nat) (f : Cmd → Cmd) : State :=
  { s with cmds := s.cmds.map fun c => if c.id = id then f c else c }

/-- Whether the gang of a command is on its cores, so that its engine may run it (10 R269). -/
def State.cmdLive (s : State) (c : Cmd) : Bool := match s.gang? c.by'.vr c.by'.gang with
  | some g => g.isPlaced
  | none => false

/-- Whether a command is the first of its strand in its engine (09 R252). -/
def State.cmdFirst (s : State) (c : Cmd) : Bool :=
  match s.cmds.find? fun x => x.by' == c.by' && x.engine == c.engine with
  | some x => x.id == c.id
  | none => false

/-- Starts a queued command (10 R267). -/
def State.startCmd (s : State) (id : Nat) : State := match s.cmd? id with
  | some c => if c.st = .queued ∧ s.cmdLive c ∧ s.cmdFirst c then s.modCmd id fun c => { c with st := .running } else s
  | none => s

/-- Whether a location is in a core's own scratchpad. -/
def ownPad (core : Nat) (d : StoreTo) : Bool := match d with
  | .scratch a => a / 0x80000 == core
  | _ => false

/-- A write into a scratchpad of the slot. -/
def putOwn (m : Memory) (w : EByte) : Memory := match w.dst with
  | .scratch a => memWrite m a w.val
  | _ => m

/-- Puts the writes of a command that are in the issuing core's own scratchpad there, at its port (05 R453). -/
def State.putOwnWrites (s : State) (c : Cmd) (writes : List EByte) : State :=
  let own := writes.filter fun w => ownPad c.by'.core w.dst
  match s.slotOf c.by'.vr with
  | some slot => s.modSlot slot fun sl => { sl with pads := own.foldl putOwn sl.pads }
  | none => s

/-- A command retires with its writes in their order: those into the issuing core's own scratchpad perform at its port, the
others join the core's view until the boundary; its pins are released (05 R453, 10 R270, R271). -/
def State.retireCmd (s : State) (c : Cmd) (writes : List EByte) : State :=
  let rest := writes.filter fun w => !ownPad c.by'.core w.dst
  let s := { s with cmds := s.cmds.filter fun x => x.id != c.id }.putOwnWrites c writes
  let s := if rest.isEmpty then s else s.modRank c.by'.vr fun r =>
    { r with engView := r.engView ++ [{ core := c.by'.core, strand := c.by'.strand, order := c.order, bytes := rest }] }
  s.releasePins c.pins

/-! ### Accesses of commands at other packages (10 R270) -/

/-- Where a list of bytes lacks some, in pieces of at most 32: the offset and the length of each such piece. -/
def fetchRuns (l : List (Option Byte)) : List (Nat × Nat) :=
  (List.range ((l.length + 31) / 32)).filterMap fun i =>
    let c := (l.drop (32 * i)).take 32
    if c.any Option.isNone then some (32 * i, c.length) else none

/-- The virtual address by which a command of a handle names a byte of another package: from the page it has pinned. -/
def Cmd.peerVa (c : Cmd) (a : Nat) : Word :=
  match c.pins.find? fun p => p.frame ≤ a && a < p.frame + pageSize p.large with
  | some p => BitVec.ofNat 64 (p.va + (a - p.frame))
  | none => BitVec.ofNat 64 a

/-- An access of a command at another package. -/
def State.cmdAccess (s : State) (c : Cmd) (op : AccOp) (pkg addr order : Nat) : State :=
  let (id, s) := s.fresh
  s.modRank c.by'.vr fun k => k.addAccess
    { id := id, by' := c.by', op := op, dst := .peer pkg addr, va := c.peerVa addr, hold := false, viaHandle := false, sent := false,
      slots := 0, resend := none, order := order }

/-- Fetches the bytes that a run from a space lacks; `pos` numbers them for the command. -/
def State.fetchRun (s : State) (c : Cmd) (p : Space) (pos : Nat) (l : List (Option Byte)) : State :=
  (fetchRuns l).foldl (fun s q => match (p.plus q.1).toStore c.by'.core with
    | .peer pkg a => s.cmdAccess c (.cmdLoad c.id (pos + q.1) q.2) pkg a 0
    | _ => s) s

/-- Fetches all that a command lacks of its sources. -/
def State.fetchSources (s : State) (c : Cmd) : State := match c.body with
  | .copy src _ rlen nrow sstr _ _ data _ _ => (List.range nrow).foldl (fun (s : State) (i : Nat) =>
      s.fetchRun c (src.plus ((i : Int) * sstr)) (i * rlen) ((data.drop (i * rlen)).take rlen)) s
  | .coll _ _ _ bufs _ _ _ imgs _ => (bufs.zip imgs).zipIdx.foldl (fun s q => s.fetchRun c q.1.1 (q.2 * 2 ^ 40) q.1.2) s
  | _ => s

/-- Bytes of a command that go to other packages, in runs of at most 48 (17 R414). -/
def peerRuns : List EByte → List (Nat × Nat × List Byte)
  | [] => []
  | e :: t => match e.dst with
    | .peer p a => match peerRuns t with
      | (p', a', bs) :: rest =>
        if p = p' ∧ a + 1 = a' ∧ bs.length < 48 then (p, a, e.val :: bs) :: rest else (p, a, [e.val]) :: (p', a', bs) :: rest
      | [] => [(p, a, [e.val])]
    | _ => peerRuns t

/-- Whether an access of a command at another package has not performed. -/
def State.cmdAway (s : State) (c : Cmd) : Bool := match s.rank? c.by'.vr with
  | some r => r.accesses.any fun a => match a.op with
    | .cmdLoad id _ _ => id == c.id
    | .cmdStore id _ => id == c.id
    | _ => false
  | none => false

/-- What a command writes, the bytes that its strand has written meanwhile being open (05 R131). -/
def State.openSpoiled (s : State) (c : Cmd) (writes : List EByte) : List EByte × State :=
  if c.spoiled.isEmpty then (writes, s)
  else
    (writes.zipIdx.map fun p =>
      if c.spoiled.any fun q => (q.1.within q.2 p.1.dst).isSome then { p.1 with val := Config.freeByte (s.free + p.2) } else p.1,
     { s with free := s.free + writes.length })

/-- All that a command writes is known: it retires, once its writes at other packages have performed there (10 R270). -/
def State.endCmd (s : State) (c : Cmd) (writes : List EByte) : State :=
  let (ws, s) := s.openSpoiled c writes
  let away := peerRuns ws
  if away.isEmpty then s.retireCmd c ws
  else
    let s := away.foldl (fun s q => s.cmdAccess c (.cmdStore c.id q.2.2) q.1 q.2.1 (peerOrder c.order 1)) s
    s.modCmd c.id fun c => { c with wrote := ws, ending := true }

/-- A command whose writes at other packages were under way retires if they have performed. -/
def State.finishCmd (s : State) (c : Cmd) : State := if s.cmdAway c then s else s.retireCmd c c.wrote

/-- Starts a queued command of an engine and has it fetch what it lacks of its sources. -/
def State.startAndFetch (s : State) (c : Cmd) : State :=
  if c.st = .queued ∧ s.cmdLive c ∧ s.cmdFirst c then (s.startCmd c.id).fetchSources c else s

/-- COPY_COMMAND: a copy engine starts a queued copy command (09 R255, 10 R267). -/
def execCopyCommand (id : Nat) (s : State) : Host.Outcome State Fault Refusal :=
  .next (match s.cmd? id with
    | some c => match c.body with
      | .copy _ _ _ _ _ _ _ _ _ _ => s.startAndFetch c
      | _ => s
    | none => s)

/-- The follow-on stream of a copy: SBIND of a register of the destination core as its L would; a failure faults the
register with GROUPOVR, reason 3 (09 R256). The descriptor and the stream read the command's writes in that core's scratchpad (05 R131). -/
def State.followOn (s : State) (c : Cmd) (dst : Space) (z q : Nat) (writes : List EByte) : State :=
  let core := match dst.toStore c.by'.core with
    | .scratch a => a / 0x80000
    | _ => c.by'.core
  let r : SRef := { vr := c.by'.vr, gang := c.by'.gang, core := core, strand := .l }
  match s.core? r, s.slotOf r.vr with
  | some k, some slot =>
    let laid := writes.filterMap fun w => match w.dst with
      | .scratch a => if a / 0x80000 = core ∧ core ≠ c.by'.core then some (a % 0x80000, w.val) else none
      | _ => none
    let seen := fun (i : Nat) => let a := (k.stream z).descAddr + i
      match laid.reverse.find? fun e => e.1 == a with
      | some e => e.2
      | none => memRead (s.slot slot).pads (core * 0x80000 + a)
    match k.bindStream z q (BitVec.ofNat 512 (leNat ((List.range 64).map seen))) with
    | .ok k' => s.modCore r fun _ => k'.setStream z { k'.stream z with laid := laid }
    | .error _ => s.streamFault r z (groupovr 3 z 0)
  | _, _ => s

/-- The source of byte `i` of a copy's row. -/
def copySource (core : Nat) (src : Space) (sstr : Int) (row i : Nat) : StoreTo := ((src.plus ((row : Int) * sstr)).toStore core).plus i

/-- Bytes of a copy's row that move next: a source byte that has changed since the submission, unless the command itself writes it, is
open (05 R132). -/
def State.copyBytes (s : State) (c : Cmd) (src : Space) (sstr : Int) (row byte : Nat) (bs : List (Option Byte)) : List Byte × State :=
  let slot := (s.slotOf c.by'.vr).getD 16
  let val := fun (i : Nat) (b : Option Byte) =>
    let d := copySource c.by'.core src sstr row (byte + i)
    match b, s.readLoc c.by'.vr c.by'.core slot d with
    | some v, some w => if v = w || s.cmdHits c d then v else Config.freeByte (s.free + i)
    | some v, none => v
    | none, _ => Config.freeByte (s.free + i)
  (bs.zipIdx.map fun p => val p.2 p.1, { s with free := s.free + bs.length })

/-- The last byte of a copy has performed: the command retires, and its follow-on stream starts (10 R270; 09 R256). -/
def State.retireCopy (s : State) (c : Cmd) (dst : Space) (follow : Option (Nat × Nat)) : State :=
  if s.cmdAway c then s
  else
    let s := s.retireCmd c c.wrote
    match follow with
    | some (z, q) => s.followOn c dst z q c.wrote
    | none => s

/-- A running copy moves its next bytes, at most 64 of the row: into the issuing core's own scratchpad at once, elsewhere with the
retirement; after the last row it retires (10 R268, R270). -/
def State.copyStep (s : State) (c : Cmd) : State := match c.body with
  | .copy src dst rlen nrow sstr dstr follow data row byte =>
    if nrow ≤ row then
      (if (peerRuns c.wrote).isEmpty then s.retireCopy c dst follow
       else (peerRuns c.wrote).foldl (fun s q => s.cmdAccess c (.cmdStore c.id q.2.2) q.1 q.2.1 (peerOrder c.order 1))
         (s.modCmd c.id fun c => { c with ending := true }))
    else
      let bs := ((data.drop (row * rlen + byte)).take (min 64 (rlen - byte)))
      if bs.any Option.isNone then s
      else
        let (vs, s) := s.copyBytes c src sstr row byte bs
        let (ws, s) := s.openSpoiled c (runWrites c.by'.core ((dst.plus ((row : Int) * dstr)).plus byte) vs)
        let s := s.putOwnWrites c ws
        let next := if rlen ≤ byte + 64 then (row + 1, 0) else (row, byte + 64)
        s.modCmd c.id fun c => { c with wrote := c.wrote ++ ws.filter (fun w => !ownPad c.by'.core w.dst), body := .copy src dst rlen nrow sstr dstr follow data next.1 next.2 }
  | _ => s

/-- COPY_RETIRE: a running copy goes on, and retires when its last byte has performed at its ordering point (10 R268, R270; 09 R256). -/
def execCopyRetire (id : Nat) (s : State) : Host.Outcome State Fault Refusal :=
  .next (match s.cmd? id with
    | some c => match c.body with
      | .copy _ dst _ _ _ _ follow _ _ _ =>
        if c.st = .running ∧ s.cmdLive c ∧ s.cmdFirst c then
          (if c.ending then s.retireCopy c dst follow else s.copyStep c)
        else s
      | _ => s
    | none => s)

/-! ### Engine reset (10 R273) -/

/-- A reset of engine `e` seen by one strand: its record goes to 0, its markers on the engine go, and every armed join whose
mask names the engine fires ABANDONED (10 R273, 02 R62, 07 R191). -/
def Strand.engineReset (st : Strand) (e : Nat) : Strand :=
  { st with
    recs := st.recs.setIfInBounds e 0
    markers := st.markers.filter fun m => m.engine != e
    joins := st.joins.map fun j => match j with
      | .armed mask _ => if bitAt mask e then .fired true else j
      | _ => j }

/-- Whether the reset of an engine reaches a rank: a collective engine serves the rank of its slot (10 R267). -/
def Rank.servedBy (r : Rank) (e slot : Nat) : Bool := e != 32 || r.slot? == some slot

/-- Resets an engine: discards its commands and resets its retire records (10 R273). -/
def State.resetEngine (s : State) (e slot : Nat) : State :=
  let s := s.discardCmds fun c => c.engine == e && (e != 32 || c.slot == slot)
  { s with ranks := s.ranks.map fun r => if !r.servedBy e slot then r else
      { r with gangs := r.gangs.map fun g => { g with cores := g.cores.map fun k =>
          { k with l := k.l.engineReset e, s := k.s.engineReset e } } } }

/-- ENGINE_RESET (10 R273). -/
def execEngineReset (e slot : Nat) (s : State) : Host.Outcome State Fault Refusal := .next (s.resetEngine e slot)

end Sys2Proof.Machine
end

