-- ==== Sys2Proof/Machine/Template.lean ====
section
/-! DEFINITION. Template planes: TLOAD, TDIFF, TSWAP, TCRC (09 R259 to R263). -/

namespace Sys2Proof.Machine

/-- Changes the planes of an engine class (09 R259). -/
def State.modPlanes (s : State) (vr cls : Nat) (f : Planes → Planes) : State :=
  if cls = 2 then { s with migPlanes := f s.migPlanes }
  else s.modRank vr fun r => match cls with
    | 0 => { r with copyPlanes := f r.copyPlanes }
    | 1 => { r with collPlanes := f r.collPlanes }
    | _ => { r with granPlanes := f r.granPlanes }

/-- The 4,096 bytes of a plane, template 0 first (09 R259). -/
def planeBytes (p : BitVec 32768) : List Byte := leBytes 4096 p.toNat

/-- The CRC of a plane (09 R261). -/
def planeCrc (p : BitVec 32768) : BitVec 32 := crc32c (planeBytes p)

/-- Applies the words of a TDIFF to a plane, or answers the word that breaks the layout (09 R261). -/
def applyDiff (p : BitVec 32768) : List (BitVec 32) → Except (BitVec 32) (BitVec 32768)
  | [] => .ok p
  | w :: t =>
    if bitsAt w 16 5 ≠ 0 then .error w
    else applyDiff (putBits p (512 * bitsAt w 26 6 + 16 * bitsAt w 21 5) 16 (bitsAt w 0 16)) t

/-- Words of 32 bits from bytes. -/
def wordsOfBytes (n : Nat) (bs : List Byte) : List (BitVec 32) :=
  (List.range n).map fun i => BitVec.ofNat 32 (leNat ((bs.drop (4 * i)).take 4))

/-- The staging plane goes back to the active plane and the load traps (09 R261). -/
def State.rollBack (s : State) (st : Strand) (cls cause : Nat) (v : Word) : State :=
  (s.modPlanes s.cur.vr cls fun p => { p with staging := p.active }).trapEntry s.cur cause v 0 0 0 st.pc

/-- The end of TLOAD and TDIFF: the CRC decides (09 R261). -/
def State.stage (s : State) (st : Strand) (cls : Nat) (expected : BitVec 32) (new : BitVec 32768) : State :=
  let c := planeCrc new
  if c = expected then (s.modPlanes s.cur.vr cls fun p => { p with staging := new }).retire st
  else s.rollBack st cls 0xD (expected.setWidth 64 <<< 32 ||| c.setWidth 64)

/-- The privilege of a class (06 R143). -/
def State.withClass (s : State) (st : Strand) (i : Instr) (cls : Nat) (f : State) : State :=
  if cls = 2 ∧ !st.sup then s.priv st i else f

/-- TLOAD (09 R261). -/
def execTload (c : BitVec 3) (a : XReg) (s : State) : Host.Outcome State Fault Refusal :=
  s.acting fun st => s.withClass st (.tload c a) c.toNat <|
    let addr := st.rx a
    match recordSpan s.cur.core addr 4104 8 with
    | some (cause, v) => s.trap st cause v
    | none =>
      let bs := s.padBytes ((s.slotOf s.cur.vr).getD 16) s.cur.core (padOff s.cur.core addr) 4104
      let hi : BitVec 32 := BitVec.ofNat 32 (leNat ((bs.drop 4).take 4))
      if hi ≠ 0 then s.rollBack st c.toNat 1 (hi.setWidth 64)
      else s.stage st c.toNat (BitVec.ofNat 32 (leNat (bs.take 4))) (BitVec.ofNat 32768 (leNat (bs.drop 8)))

/-- TDIFF (09 R261). -/
def execTdiff (c : BitVec 3) (a : XReg) (s : State) : Host.Outcome State Fault Refusal :=
  s.acting fun st => s.withClass st (.tdiff c a) c.toNat <|
    let addr := st.rx a
    let slot := (s.slotOf s.cur.vr).getD 16
    match recordSpan s.cur.core addr 8 8 with
    | some (cause, v) => s.trap st cause v
    | none =>
      let h := s.padBytes slot s.cur.core (padOff s.cur.core addr) 8
      let lo : BitVec 32 := BitVec.ofNat 32 (leNat (h.take 4))
      let n := bitsAt lo 0 16
      if bitsAt lo 16 16 ≠ 0 ∨ 2048 < n then s.rollBack st c.toNat 1 (lo.setWidth 64)
      else match recordSpan s.cur.core addr (8 + 4 * n) 8 with
        | some (cause, v) => s.trap st cause v
        | none =>
          let ws := wordsOfBytes n (s.padBytes slot s.cur.core (padOff s.cur.core addr + 8) (4 * n))
          match applyDiff (s.planes s.cur.vr c.toNat).active ws with
          | .error w => s.rollBack st c.toNat 1 (w.setWidth 64)
          | .ok new => s.stage st c.toNat (BitVec.ofNat 32 (leNat (h.drop 4))) new

/-- TSWAP: the swap takes place at the boundary that ends the phase of the rank (09 R262). -/
def execTswap (c : BitVec 3) (s : State) : Host.Outcome State Fault Refusal :=
  s.acting fun st => s.withClass st (.tswap c) c.toNat <|
    (if c = 2 then s.modRank s.cur.vr fun r => { r with migSwap := true }
     else s.modPlanes s.cur.vr c.toNat fun p => { p with swap := true }).retire st

/-- TCRC (09 R263). -/
def execTcrc (c : BitVec 3) (a : XReg) (s : State) : Host.Outcome State Fault Refusal :=
  s.acting fun st => s.withClass st (.tcrc c a) c.toNat <|
    s.retire (st.wx a ((planeCrc (s.planes s.cur.vr c.toNat).active).setWidth 64))

end Sys2Proof.Machine
end

