-- ==== Sys2Proof/Machine/Gang.lean ====
section
/-! DEFINITION. The cluster task unit: posting gangs and their refusal (14 R337 to R339), placement, aging, starting (14 R342
to R345, 02 R45), pre-emption and the context frame (12 R308 to R314), GLAUNCH, GKILL, GSTAT (14 R347 to R349), the host queue
(14 R352 to R354). -/

namespace Sys2Proof.Machine

/-! ### Posting (14 R338, R339) -/

/-- Whether two rectangles overlap. -/
def rectsMeet (a b : Nat × Nat × Nat × Nat) : Bool :=
  decide (a.1 < b.1 + b.2.2.1 ∧ b.1 < a.1 + a.2.2.1 ∧ a.2.1 < b.2.1 + b.2.2.2 ∧ b.2.1 < a.2.1 + a.2.2.2)

/-- Reason 1 of R339. -/
def LaunchRec.rectsBad (l : LaunchRec) : Bool :=
  let ks := List.range l.nmem
  (ks.any fun k => let q := l.rect k; 16 < q.1 + q.2.2.1 || 16 < q.2.1 + q.2.2.2) ||
    ks.any fun k => (List.range k).any fun j => rectsMeet (l.rect j) (l.rect k)

/-- The parts of reason 4 of R339 that the record itself shows; `etab` is the posting core where its ETAB counts. -/
def LaunchRec.fieldsBad (l : LaunchRec) (etab : Option Nat) : Bool :=
  let dep := bitsAt l.raw 64 64
  let comp := bitsAt l.raw 128 64
  bitsAt l.raw 45 19 != 0 || bitAt l.raw 41 || l.gangid == 0 || l.dkind == 3 ||
  (match l.dkind with
    | 1 => bitsAt l.raw 70 10 != 0 || bitsAt l.raw 96 32 != 0
    | 2 => bitsAt l.raw 72 56 != 0
    | _ => dep != 0) ||
  bitsAt l.raw 134 10 != 0 || bitsAt l.raw 160 32 != 0 || (!l.cen && comp != 0) ||
  bitsAt l.raw 288 32 != 0 || bitsAt l.raw 320 64 != 0 || bitsAt l.raw 880 16 != 0 || bitsAt l.raw 896 128 != 0 ||
  ((List.range 24).any fun k => 512 < l.rvcnt k) ||
  match etab with
    | some n => (recordSpan n (BitVec.ofNat 64 l.etabAddr) (24 * l.nmem) 8).isSome
    | none => false

/-- Whether an entry point is misaligned (14 R338, R339). -/
def LaunchRec.entriesBad (l : LaunchRec) : Bool :=
  (List.range l.nmem).any fun k =>
    (l.entryPoint k 0).toNat % 4 != 0 || (l.entryPoint k 1).toNat % 16 != 0 || (l.entryPoint k 2).toNat % 4 != 0

/-- Whether a record names an entry that the schedule table does not have (14 R339, reason 4). -/
def Rank.entryBad (r : Rank) (l : LaunchRec) : Bool :=
  l.dkind == 2 && (r.sched.st == .idle || r.sched.entries.length ≤ l.dentry)

/-- The reason for which a record is refused, none if it is posted (14 R339): `maySup` tells whether its poster may set SUP. -/
def Rank.refusal (r : Rank) (l : LaunchRec) (maySup : Bool) (etab : Option Nat) : Option Nat :=
  if l.rectsBad then some 1
  else if r.gangs.any fun g => g.id == l.gangid then some 2
  else if l.sup && !maySup then some 3
  else if l.fieldsBad etab || l.entriesBad || r.entryBad l then some 4
  else none

/-- A gang as posted (14 R337). -/
def Gang.posted (l : LaunchRec) (src : GSource) (age : Nat) : Gang :=
  { id := l.gangid, launch := l, source := src, age := age, levels := 0, readyCycles := 0,
    cond := if l.dkind = 0 then .ready else .waiting, cycle := 0,
    rvs := Vector.ofFn fun k => { count := l.rvcnt k.val, arrivals := 0, gen := 0 },
    cores := [], pads := [], rings := [] }

/-- Posts a gang that is not refused; its dependence is resolved at once where it can be (14 R337, R341). -/
def State.post (s : State) (vr : Nat) (l : LaunchRec) (src : GSource) : State :=
  { s.modRank vr fun r => { r with gangs := r.gangs ++ [Gang.posted l src s.nextAge], walk := true }.settleAll with
    nextAge := s.nextAge + 1 }

/-! ### GLAUNCH, GKILL, GSTAT (14 R347 to R349) -/

/-- The launch record and entry table that a GLAUNCH reads from the own scratchpad at the port (14 R345, R347). -/
def State.launchAt (s : State) (r : SRef) (a : Nat) : LaunchRec :=
  let slot := (s.slotOf r.vr).getD 16
  let raw : BitVec 1024 := BitVec.ofNat 1024 (leNat (s.padBytes slot r.core a 128))
  let l : LaunchRec := { raw := raw, etab := 0 }
  let e := BitVec.ofNat 64 l.etabAddr
  let n := if (recordSpan r.core e (24 * l.nmem) 8).isSome then 0 else 24 * l.nmem
  { l with etab := BitVec.ofNat 3072 (leNat (s.padBytes slot r.core (padOff r.core e) n)) }

/-- GLAUNCH (14 R347). -/
def execGlaunch (d a : XReg) (s : State) : Host.Outcome State Fault Refusal :=
  s.acting fun st =>
    let addr := st.rx a
    match recordViolation addr 128 128 with
    | some (c, v) => s.trap st c v
    | none => match s.rank? s.cur.vr with
      | none => s
      | some r =>
        if 256 ≤ r.pendingGangs then s.hold .unitRoom
        else
          let l := s.launchAt s.cur addr.toNat
          match r.refusal l st.sup (some s.cur.core) with
          | some n => s.retire (st.wx d (BitVec.ofNat 64 (2 ^ 63 + n)))
          | none => (s.post r.vr l .launch).retire (st.wx d (BitVec.ofNat 64 l.gangid))

/-- GKILL (14 R348). -/
def execGkill (d a : XReg) (s : State) : Host.Outcome State Fault Refusal :=
  s.acting fun st =>
    let g := bitsAt (st.rx a) 0 32
    match s.gang? s.cur.vr g with
    | some x => if x.launch.sup ∧ !st.sup then s.retire (st.wx d 3) else s.killFor st d s.cur.vr g
    | none => s.retire (st.wx d 2)

/-- The code of a gang's condition (14 R349). -/
def GCond.code : GCond → Nat
  | .waiting => 1
  | .ready => 2
  | .starting | .placed => 3
  | .halting _ _ | .saved _ _ _ => 4

/-- GSTAT (14 R349). -/
def execGstat (d a : XReg) (s : State) : Host.Outcome State Fault Refusal :=
  s.acting fun st =>
    let v := st.rx a
    let w : Nat :=
      if bitAt v 63 then
        match (s.rank? s.cur.vr).bind fun r => r.completions[bitsAt v 0 6]? with
        | some c => c.value.toNat + (if c.abandoned then 65536 else 0)
        | none => 0
      else match s.gang? s.cur.vr (bitsAt v 0 32) with
        | some g => g.cond.code
        | none => 0
    s.retire (st.wx d (BitVec.ofNat 64 w))

/-! ### Placement (14 R342 to R344) -/

/-- The effective priority of a gang (14 R342). -/
def Gang.priority (g : Gang) : Nat := g.launch.pri - g.levels

/-- Whether the unit restores a gang by itself (14 R344). -/
def Gang.unitRestored (g : Gang) : Bool := match g.cond with
  | .saved _ 2 false => true
  | _ => false

/-- Whether a strand of the gang waits for a value that has not returned: restore waits for it (12 R314). -/
def Gang.awaits (g : Gang) : Bool := g.cores.any fun k => [k.l, k.s].any fun st => match st.wait with
  | some (.access _) => true
  | _ => false

/-- Whether the unit may place a gang: it is ready, or its frame is to be restored and awaits no value (14 R343, R344;
12 R314). -/
def Gang.candidate (g : Gang) : Bool := match g.cond with
  | .ready => true
  | .saved _ why restore => (restore || why == 2) && !g.awaits
  | _ => false

/-- The order of the walk: effective priority, then gangs that the unit restores by itself, then age (14 R342, R344). -/
def Gang.before (g h : Gang) : Bool :=
  if g.priority != h.priority then g.priority < h.priority
  else if g.unitRestored != h.unitRestored then g.unitRestored
  else g.age < h.age

/-- The gangs that the unit walks, in order. -/
def Rank.walkOrder (r : Rank) : List Gang := sortBy Gang.before (r.gangs.filter Gang.candidate)

/-- The cores of a gang, as numbers. -/
def Gang.coreNos (g : Gang) : List Nat := g.launch.coreList.map fun e => e.1

/-- The cores that are held. -/
def Rank.heldCores (r : Rank) : List Nat := (r.gangs.filter Gang.holdsCores).flatMap Gang.coreNos

/-- The walk of R343: the gangs to place, given the cores that are not free and those reserved. -/
def walkPlace : List Gang → List Nat → List Nat → List Nat
  | [], _, _ => []
  | g :: t, held, reserved =>
    let cs := g.coreNos
    if cs.any fun n => held.contains n || reserved.contains n then walkPlace t held (reserved ++ cs)
    else g.id :: walkPlace t (held ++ cs) reserved

/-- The first `n` free context-frame slots. -/
def Rank.freeSlots (r : Rank) (n : Nat) : List Nat :=
  ((List.range (bitsAt r.frpool 0 8)).filter fun k => !(r.frames.any fun f => f.slot == k)).take n

/-- Pre-emption for the supervisor gang that stands first in the walk (14 R344). -/
def Rank.preempt (r : Rank) (first : Gang) : Rank :=
  let taken := r.gangs.filter fun g => (g.cond == .placed || g.cond == .starting) && !g.launch.sup &&
    g.coreNos.any fun n => first.coreNos.contains n
  let slots := r.freeSlots taken.length
  if !first.launch.sup || slots.length < taken.length then r
  else (taken.zip slots).foldl (fun r p => r.requestHalt p.1.id p.2 2) r

/-- Replaces the scratchpads of cores by those of another memory. -/
def padsFrom (m src : Memory) : List Nat → Memory
  | [] => m
  | n :: t =>
    let a := n * 0x80000
    padsFrom ((m.filter fun c => c.1 < a) ++ memPart src a 0x80000 ++ m.filter fun c => a + 0x80000 ≤ c.1) src t

/-- Sets ring registers of a slot. -/
def ringsFrom (l : List (Nat × Word)) (src : List (Nat × Word)) : List Nat → List (Nat × Word)
  | [] => l
  | k :: t => ringsFrom (assocSet l k (assocGet src k)) src t

/-- The ring registers of cores. -/
def ringKeys (cores : List Nat) : List Nat := cores.flatMap fun n => (List.range 16).map fun i => n * 16 + i

/-- Writes the scratchpads and rings of a saved gang back to the cores it is placed on (12 R314). -/
def State.restorePads (s : State) (slot : Nat) (g : Gang) : State :=
  if g.cores.isEmpty then s
  else s.modSlot slot fun k =>
    { k with pads := padsFrom k.pads g.pads g.coreNos, rings := ringsFrom k.rings g.rings (ringKeys g.coreNos) }

/-- The halted commands of a saved gang take the micro-program counters of their records (12 R313, R314). -/
def State.readCmds (s : State) (r : Rank) (g : Gang) : State := match g.cond with
  | .saved slot _ _ =>
    let mine := fun (c : Cmd) => c.by'.vr == r.vr && c.by'.gang == g.id
    let cs := readRecords s.mem (r.slotAddr slot + 0x1000 + g.cores.length * 0xE8000) (s.cmds.filter mine)
    { s with cmds := s.cmds.map fun (c : Cmd) => (cs.find? fun x => x.id == c.id).getD c }
  | _ => s

/-- GANG_PLACE: the walk of the unit of a slot over the ready gangs (14 R343). -/
def execGangPlace (slot : Nat) (s : State) : Host.Outcome State Fault Refusal :=
  .next (match (s.slot slot).occupant.bind s.rank? with
    | none => s
    | some r =>
      if !r.walk || r.slot? != some slot then s
      else
        let order := r.walkOrder
        let r1 := match order.head? with
          | some g => r.preempt g
          | none => r
        let ids := walkPlace order r1.heldCores []
        let read := fun (g : Gang) => if ids.contains g.id then s.unframe r g else g
        let s' := (order.filter fun g => ids.contains g.id).foldl (fun s g => (s.restorePads slot (read g)).readCmds r g) s
        s'.modRank r.vr fun _ =>
          { r1 with
            gangs := r1.gangs.map fun g => if ids.contains g.id then { read g with cond := .starting, pads := [], rings := [] } else g
            frames := r1.frames.filter fun f => !ids.contains f.gang
            walk := false })

/-- PRIORITY_AGING: a gang that has been ready for 2^20 cycles gains one level (14 R342). -/
def execPriorityAging (vr gang : Nat) (s : State) : Host.Outcome State Fault Refusal :=
  .next (s.modGang vr gang fun g =>
    if g.cond = .ready ∧ 2 ^ 20 ≤ g.readyCycles then { g with levels := g.levels + 1, readyCycles := g.readyCycles - 2 ^ 20 }
    else g)

/-! ### Starting (02 R45, R66; 14 R345) -/

/-- A hardware loop that is inactive. -/
def HwLoop.idle : HwLoop := {}

/-- A strand at the start of its gang (02 R45, R66). -/
def Strand.start (arg pc : Word) (sup : Bool) : Strand :=
  { x := (Vector.replicate 32 0).setIfInBounds 1 arg, p := Vector.replicate 96 0, pc := pc, lp0 := HwLoop.idle, lp1 := HwLoop.idle,
    dzt := false, sup := sup, fpflags := 0, tvec := 0, tlevel := 0, bank1 := {}, bank2 := {},
    joins := Vector.replicate 8 .idle, recs := Vector.replicate 37 0, markers := [],
    rvPend := Vector.replicate 24 false, rvGen := Vector.replicate 24 0, chain := none, wait := none, waitiLeft := 0,
    waited := 0, asyncs := [], xlates := [], selvr := 0, selslot := 0, ecCount := 0, ext := none, ended := false }

/-- A core at the start of its gang (02 R45). DESIGN CHOICE (log entry 44): DELAY does not delay the first bundle of C, which has no
previous one to count from (06 R150). -/
def Core.start (l : LaunchRec) (coreno member : Nat) : Core :=
  { coreno := coreno, member := member,
    l := Strand.start l.arg (l.entryPoint member 0) l.sup,
    c := Strand.start l.arg (l.entryPoint member 1) l.sup,
    s := Strand.start l.arg (l.entryPoint member 2) l.sup,
    shape := 0x22020, tiles := Vector.replicate 16 none, accs := Vector.replicate 4 { tag := .f32, buf := 0 },
    ofile := Vector.replicate 8 0, vlat := 0, mlat := 0,
    tq := Vector.replicate 12 { head := 0, closed := false, ents := [] },
    sq := Vector.replicate 4 { head := 0, closed := false, ents := [] }, pwq := [], vBusy := 0, mBusy := 0,
    sinceIssue := 64, frozen := false, streams := Vector.replicate 16 {}, handles := Vector.replicate 16 {}, nextId := 0 }

/-- A wait as restore finds it: a page that was awaited is asked for again, also that of a walk under way (13 R330, R332). -/
def Strand.restored (st : Strand) : Strand :=
  let st := { st with xlates := st.xlates.map fun (y : XlateWork) => if y.handle.valid then y else { y with gen := y.gen - 1 } }
  match st.wait with
  | some (.paging _ _) => { st with wait := none }
  | _ => st

def Core.restored (k : Core) : Core := { k with l := k.l.restored, c := k.c.restored, s := k.s.restored }

/-- Changes every core of a gang. -/
def Gang.mapCores (g : Gang) (f : Core → Core) : Gang := { g with cores := g.cores.map f }

/-- Whether the task unit of a rank starts no gang: while a boundary of the rank is under way, until its step 4 is complete (01 R32,
14 R343), and from its arrival at a step boundary to the completion of the step collective (15 R369). -/
def Rank.startHeld (r : Rank) : Bool := r.closing || r.stepSt == .arrived

def State.startHeldFor (s : State) (vr : Nat) : Bool := match s.rank? vr with
  | some r => r.startHeld
  | none => false

/-- GANG_START: every strand begins at its entry point, or a saved gang resumes where it halted, its scratchpads and
rings having been written back at placement (14 R345, 12 R314). -/
def execGangStart (vr gang : Nat) (s : State) : Host.Outcome State Fault Refusal :=
  .next (match s.gang? vr gang with
    | some g =>
      if g.cond != .starting then s
      else if g.cores.isEmpty then
        if s.startHeldFor vr then s else s.modGang vr gang fun g =>
          { g with cond := .placed, cores := g.launch.coreList.map fun e => Core.start g.launch e.1 e.2 }
      else
        let s := { s with cmds := s.cmds.map fun (c : Cmd) =>
          if c.by'.vr = vr ∧ c.by'.gang = gang ∧ c.st = CmdSt.halted then { c with st := .running } else c }
        s.modRank vr fun r =>
          { r.modGang gang fun g => { g.mapCores Core.restored with cond := .placed } with
            pagedOnce := r.pagedOnce.filter fun p => p.1 != gang
            walk := true }
    | _ => s)

/-! ### The context frame (12 R308 to R313) -/

/-- A strand that halts between the words of an instruction halts before it (12 R308). -/
def Core.halted (k : Core) : Core := { k with l := { k.l with ext := none }, s := { k.s with ext := none } }

/-- Writes a halted gang into its frame slot and frees its cores (12 R308 to R313). -/
def State.saveGang (s : State) (vr : Nat) (g : Gang) (slot frame why : Nat) : State :=
  match s.rank? vr with
  | none => s
  | some r =>
    let mine := fun (c : Cmd) => c.by'.vr == vr && c.by'.gang == g.id
    let s := { s with cmds := s.cmds.map fun (c : Cmd) => if mine c ∧ c.st = CmdSt.running then { c with st := .halted } else c }
    let s := s.putFrame r g frame why (s.slot slot).pads (s.slot slot).rings
    s.modRank vr fun r =>
      { r.modGang g.id fun g =>
          { g.mapCores Core.halted with cond := .saved frame why false, levels := 0, readyCycles := 0 } with
        walk := true }

/-- GANG_HALT: every strand, stream and command of the gang has halted and the frame is complete (12 R308, R310; 10 R269). A
gang that had not started issuing is halted at its entry points. -/
def execGangHalt (vr gang : Nat) (s : State) : Host.Outcome State Fault Refusal :=
  .next (match s.gang? vr gang, s.slotOf vr with
    | some g, some slot => match g.cond with
      | .halting frame why =>
        let g := if g.cores.isEmpty then { g with cores := g.launch.coreList.map fun e => Core.start g.launch e.1 e.2 } else g
        (s.modGang vr gang fun _ => g).saveGang vr g slot frame why
      | _ => s
    | _, _ => s)

/-! ### The host queue (14 R352 to R354) -/

/-- Fields of a slot's host-queue registers. -/
def Slot.hqHead (k : Slot) : BitVec 16 := k.hqptr.extractLsb' 0 16
def Slot.hqTail (k : Slot) : BitVec 16 := k.hqptr.extractLsb' 16 16
def Slot.hqLogn (k : Slot) : Nat := bitsAt k.hqbase 0 4
def Slot.hqEn (k : Slot) : Bool := bitAt k.hqctl 0

/-- Sets ERR and LASTERR (14 R352). -/
def Slot.hqRefuse (k : Slot) (reason : Nat) : Slot := { k with hqctl := putBits (putBits k.hqctl 8 8 reason) 16 1 1 }

/-- The entry of the host queue at a counter value: a launch record and its entry table (14 R353). -/
def State.hostEntry (s : State) (slot : Nat) (i : BitVec 16) : LaunchRec :=
  let k := s.slot slot
  let a := bitsAt k.hqbase 9 55 * 512 + i.toNat % 2 ^ k.hqLogn * 512
  { raw := BitVec.ofNat 1024 (leNat (memBytes s.hostMem a 128)),
    etab := BitVec.ofNat 3072 (leNat (memBytes s.hostMem (a + 128) 384)) }

/-- HOST_QUEUE_POST: the unit reads the entry at HEAD and posts it for the resident rank, or drops it with ERR (14 R353). -/
def execHostQueuePost (slot : Nat) (s : State) : Host.Outcome State Fault Refusal :=
  .next (
    let k := s.slot slot
    match k.occupant.bind s.rank? with
    | none => s
    | some r =>
      if r.slot? != some slot || !k.hqEn || bitAt k.hqctl 1 || k.hqHead == k.hqTail || k.hqLogn == 0 || 256 ≤ r.pendingGangs then s
      else
        let l := s.hostEntry slot k.hqHead
        let s' := s.modSlot slot fun k => { k with hqptr := putBits k.hqptr 0 16 (k.hqHead + 1).toNat }
        match r.refusal l true none with
        | some n => s'.modSlot slot fun k => k.hqRefuse n
        | none => s'.post r.vr l (.hostQueue slot))

/-- HQBASE_WRITE (14 R352). -/
def execHqbaseWrite (slot : Nat) (v : BitVec 64) (s : State) : Host.Outcome State Fault Refusal :=
  .next (s.modSlot slot fun k =>
    if 13 ≤ bitsAt v 0 4 then k.hqRefuse 0xFF else { k with hqbase := putBits v 4 5 0 })

/-- HQ_TAIL_WRITE (14 R352, R353). -/
def execHqTailWrite (slot : Nat) (v : BitVec 16) (s : State) : Host.Outcome State Fault Refusal :=
  .next (s.modSlot slot fun k => { k with hqptr := putBits k.hqptr 16 16 v.toNat })

/-- HQ_ENABLE: the host writes EN and KILL of HQCTL, and no TD (14 R352, R353). -/
def execHqEnable (slot : Nat) (v : BitVec 64) (s : State) : Host.Outcome State Fault Refusal :=
  .next (s.modSlot slot fun k => { k with hqctl := putBits (putBits k.hqctl 0 1 (bitsAt v 0 1)) 2 1 (bitsAt v 2 1) })

/-- HQ_ERR_CLEAR (14 R352). -/
def execHqErrClear (slot : Nat) (s : State) : Host.Outcome State Fault Refusal :=
  .next (s.modSlot slot fun k => { k with hqctl := putBits k.hqctl 16 1 0 })

/-- Step 1 of R354 for `n` unread entries: each is read and discarded, and a marker retires ABANDONED with its cascade. -/
def State.drainHostQueue (s : State) (slot : Nat) : Nat → State
  | 0 => s
  | n + 1 =>
    let k := s.slot slot
    let l := s.hostEntry slot k.hqHead
    let s := match k.occupant with
      | some vr => s.modRank vr fun r => (r.retireGang l true).settleAll
      | none => s
    (s.modSlot slot fun k => { k with hqptr := putBits k.hqptr 0 16 (k.hqHead + 1).toNat }).drainHostQueue slot n

/-- The gangs of the queue of a slot that satisfy a condition, in order of posting. -/
def State.queueGangs (s : State) (slot : Nat) (p : Gang → Bool) : List (Nat × Nat) :=
  let all := s.ranks.flatMap fun r => (r.gangs.filter fun g => g.source == .hostQueue slot && p g).map fun g => (g.age, r.vr, g.id)
  (sortBy (fun a b => a.1 < b.1) all).map fun e => (e.2.1, e.2.2)

/-- HQ_TEARDOWN (14 R354). -/
def execHqTeardown (slot : Nat) (kill : Bool) (s : State) : Host.Outcome State Fault Refusal :=
  .next (
    let k := s.slot slot
    let s := s.drainHostQueue slot (k.hqTail - k.hqHead).toNat
    let s := (s.queueGangs slot fun g => !g.running).foldl (fun s p => s.endGang p.1 p.2) s
    let s := if kill then (s.queueGangs slot Gang.running).foldl (fun s p => s.endGang p.1 p.2) s else s
    s.modSlot slot fun k => { k with hqctl := putBits (putBits k.hqctl 0 2 0) 2 1 (if kill then 1 else 0) })

end Sys2Proof.Machine
end

