-- ==== Sys2Proof/Machine/Send.lean ====
section
/-! DEFINITION. Furrow transfers and transport frames as their senders use them (17 R407, R409, R423 to R426), chunks of
collectives (10 R277, R284), demand messages to another domain. -/

namespace Sys2Proof.Machine

/-! ### Furrow transfers (17 R407, R409) -/

/-- Sets a number under a key. -/
def numSet (l : List (Nat × Nat)) (k v : Nat) : List (Nat × Nat) := (l.filter fun e => e.1 != k) ++ [(k, v)]

/-- The number under a key, 0 when there is none. -/
def numGet (l : List (Nat × Nat)) (k : Nat) : Nat := match l.find? fun e => e.1 == k with
  | some e => e.2
  | none => 0

/-- Changes the fabric state. -/
def State.modFabric (s : State) (f : Fabric → Fabric) : State := { s with fabric := f s.fabric }

/-- Gives a furrow a transfer that the sender holds whole in this slot; `dests` acknowledge it, `op` waits for it. -/
def State.startXfer (s : State) (fid : Nat) (bs : List Byte) (dests : List Nat) (op : Option (Nat × Nat)) : State :=
  s.modFabric fun f =>
    let x := numGet f.sent fid
    { f with
      sent := numSet f.sent fid ((x + 1) % 65536)
      outs := f.outs ++ [{ fid := fid, xfer := x, bytes := bs, ready := f.dtb.toNat, departed := none, attempts := 0,
                           awaiting := dests, op := op }] }

/-- The furrow of a key (log entry 21). -/
def State.route? (s : State) (key : Nat) : Option Nat := (s.fabric.routes.find? fun e => e.1 == key).map fun e => e.2

/-- The key of chunks to an endpoint of a VR under a tag, and of blocks of a shard (log entry 21). -/
def chunkKey (vr endpt tag : Nat) : Nat := (vr * 64 + endpt) * 65536 + tag
def blockKey (job shard : Nat) : Nat := 2 ^ 48 + job * 2 ^ 24 + shard

/-- The bytes of a transfer that carries a piece of a chunk, a tree's value or a gradient block (log entry 21): a replay number,
the length with whether the piece is the last of its chunk, a number of 64 bits (the offset of the piece, or the step of the
submission), and the content. -/
def xferBody (replay : Nat) (last : Bool) (n : Nat) (bs : List Byte) : List Byte :=
  leBytes 4 replay ++ leBytes 4 (2 * bs.length + if last then 1 else 0) ++ leBytes 8 n ++ bs

/-- The content of a transfer that carries a tree's value: its range, the operator and format and RECW of its members, whether they differ,
and the value (log entry 21). -/
def nodeBody (pos len : Nat) (opf : BitVec 16) (recw : Nat) (differs : Bool) (bs : List Byte) : List Byte :=
  leBytes 8 pos ++ leBytes 8 len ++ leBytes 2 opf.toNat ++ leBytes 1 recw ++ leBytes 1 (if differs then 1 else 0) ++ bs

/-! ### Transport frames (17 R423 to R426) -/

/-- The connection of a local port and a remote package, fresh if there was none. -/
def State.conn (s : State) (port dom pkg : Nat) : Conn :=
  match s.conns.find? fun c => c.port == port && c.dom == dom && c.pkg == pkg with
  | some c => c
  | none => { port := port, dom := dom, pkg := pkg, sendSeq := 0, recvNext := 0, unacked := [], failed := false, halved := false }

def State.setConn (s : State) (c : Conn) : State :=
  { s with conns := (s.conns.filter fun x => !(x.port == c.port && x.dom == c.dom && x.pkg == c.pkg)) ++ [c] }

/-- The frames that a connection may have outstanding (17 R425). -/
def connWindow : Nat := 4096

/-- A header with nothing in it but where it goes. -/
def frameHdr (port dom pkg : Nat) : FrameHdr :=
  { port := port, dom := dom, pkg := pkg, seq := 0, ackseq := 0, last := true, endpt := 0, dvr := 0, svr := 0, tag := 0, replay := 0,
    offset := 0, crcOk := true }

/-- Numbers a data frame and sends it, or keeps it until the connection has room; the header names the package that the
frame goes to (17 R425). -/
def State.sendFrame (s : State) (kind : Nat) (h : FrameHdr) (body : FrameBody) (op : Option (Nat × Nat)) : State :=
  let c := s.conn h.port h.dom h.pkg
  if c.failed then s
  else
    let h := { h with seq := c.sendSeq, ackseq := c.recvNext }
    let f : OutFrame := { seq := c.sendSeq, kind := kind, hdr := h, body := body, op := op, age := 0, resends := 0 }
    let s := s.setConn { c with sendSeq := (c.sendSeq + 1) % 2 ^ 32, unacked := c.unacked ++ [f] }
    if c.unacked.length < connWindow then { s with out := s.out ++ [.frame h.port kind h body] } else s

/-- A demand message to a package of another domain (17 R423, R424): over the rail of the destination package. -/
def State.sendFar (s : State) (dom : Nat) (m : Demand) : State :=
  s.sendFrame 6 (frameHdr ((demandHdr m).dpkg % 16) dom s.ownPkg) (.demand m) none

/-- The domain to which traffic for a VR goes: this one for a rank held here. -/
def State.domOf (s : State) (vr : Nat) : Nat :=
  if s.ranks.any fun r => r.vr == vr then s.ownDom else placeDom (s.placeEntry vr)

/-- Sends a demand message for a VR, wherever it is. -/
def State.sendVr (s : State) (m : Demand) : State :=
  let d := s.domOf (demandHdr m).dvr
  if d = s.ownDom then s.send m else s.sendFar d m

/-- Sends a demand message to a package of a domain. -/
def State.sendTo (s : State) (dom : Nat) (m : Demand) : State := if dom = s.ownDom then s.send m else s.sendFar dom m

/-! ### Chunks (10 R277, R284) -/

/-- A piece of a chunk arrives at an endpoint of a rank held here: a piece at offset 0 begins a chunk, another continues it. -/
def Rank.landPiece (r : Rank) (c : Chunk) (offset : Nat) : Rank :=
  let same := fun (x : Chunk) => !x.whole && x.replay == c.replay && x.endpoint == c.endpoint && x.src == c.src && x.tag == c.tag &&
    x.bytes.length == offset
  if offset = 0 then { r with landing := r.landing ++ [c] }
  else { r with landing := r.landing.map fun x => if same x then { x with bytes := x.bytes ++ c.bytes, whole := c.whole } else x }

/-- Whether an op record takes a chunk of a replay number (10 R277). -/
def opTakes (o : BitVec 256) (replay : Nat) (c : Chunk) : Bool :=
  (opKind o == 1 || opKind o == 3 || opKind o == 5) && replay == c.replay && opEndpt o == c.endpoint && opTag o == c.tag &&
    (opKind o == 5 || opPeer o == c.src)

/-- Whether some op of a command of the rank takes a chunk, among those that have received or those that have not. -/
def State.chunkOp (s : State) (vr : Nat) (c : Chunk) (received : Bool) : Bool :=
  s.cmds.any fun x => x.by'.vr == vr && match x.body with
    | .coll _ g _ _ replay _ ops _ _ => (g.ops.zip ops).any fun p => opTakes p.1 replay c && p.2.received == received
    | _ => false

/-- Whether the op that a chunk matches has already received one (10 R277). -/
def State.chunkTaken (s : State) (vr : Nat) (c : Chunk) : Bool := s.chunkOp vr c true && !s.chunkOp vr c false

/-- A piece of a chunk for a VR: into its landing area, or dropped and counted where the rank is in transit or the op has
already received; that is reported to the supervisor (10 R277, 15 R377). -/
def State.deposit (s : State) (vr : Nat) (c : Chunk) (offset : Nat) : State :=
  match s.rank? vr with
  | none => { s with dropped := s.dropped + 1 }
  | some r =>
    if r.place = .transit then { s with dropped := s.dropped + 1 }
    else if s.chunkTaken vr c then { s with dropped := s.dropped + 1, out := s.out ++ [.report 1 vr c.slot] }
    else s.modRank vr fun r => r.landPiece c offset

/-- Bytes in pieces of at most 8,192, with their offsets (17 R423). -/
def pieces : Nat → Nat → List Byte → List (Nat × List Byte)
  | 0, _, _ => []
  | n + 1, o, bs => if bs.length ≤ 8192 then [(o, bs)] else (o, bs.take 8192) :: pieces n (o + 8192) (bs.drop 8192)

/-- Sends a piece of a chunk over the furrow of its endpoint (log entry 21). -/
def State.chunkFurrow (s : State) (vr : Nat) (c : Chunk) (offset : Nat) (pkg : Nat) (op : Option (Nat × Nat)) : State :=
  match s.route? (chunkKey vr c.endpoint c.tag) with
  | some fid => s.startXfer fid (xferBody c.replay c.whole offset c.bytes) [pkg] op
  | none => { s with dropped := s.dropped + 1 }

/-- Sends a chunk: at once into the landing area of a rank held here, over a furrow in the domain, over the transport to another
domain. Answers whether the next holder has accepted it; else the op waits for an acknowledgement (10 R278, R284). -/
def State.sendChunk (s : State) (vr : Nat) (c : Chunk) (op : Option (Nat × Nat)) : Bool × State :=
  if s.ranks.any fun r => r.vr == vr then (true, s.deposit vr c 0)
  else
    let e := s.placeEntry vr
    if 2 ≤ placeState e then (false, { s with dropped := s.dropped + 1 })
    else if placeDom e = s.ownDom then (false, s.chunkFurrow vr c 0 (placePkg e) op)
    else
      let h := { frameHdr (placePkg e % 16) (placeDom e) s.ownPkg with
        endpt := c.endpoint, dvr := vr, svr := c.src, tag := c.tag, replay := c.replay }
      let ps := pieces (c.bytes.length + 1) 0 c.bytes
      (false, ps.foldl (fun s p =>
        let last := p.1 + p.2.length == c.bytes.length
        s.sendFrame 1 { h with offset := p.1, last := last } (.chunk c.slot p.2) (if last then op else none)) s)

/-! ### Accepted sends (10 R278) -/

/-- The next holder has accepted the last element of an op's send. -/
def State.markSent (s : State) (op : Option (Nat × Nat)) : State :=
  match op with
  | none => s
  | some (id, i) => { s with cmds := s.cmds.map fun (x : Cmd) => if x.id = id then
      (match x.body with
       | .coll a g f b r t ops im d => { x with body := .coll a g f b r t (ops.modify i fun o => { o with sent := true }) im d }
       | _ => x) else x }

/-! ### Receiving frames (17 R425) -/

/-- Whether a sequence number comes before another, modulo 2^32. -/
def seqBefore (a b : Nat) : Bool := a != b && (b + 2 ^ 32 - a) % 2 ^ 32 < 2 ^ 31

/-- A cumulative acknowledgement: frames before it are done, their ops sent; frames that come into the window leave. -/
def State.ackFrames (s : State) (c : Conn) (ackseq : Nat) : State :=
  let done := c.unacked.filter fun f => seqBefore f.seq ackseq
  let rest := c.unacked.filter fun f => !seqBefore f.seq ackseq
  let fresh := (c.unacked.drop connWindow).take done.length
  let s := s.setConn { c with unacked := rest }
  let s := { s with out := s.out ++ fresh.map fun f => Out.frame f.hdr.port f.kind f.hdr f.body }
  done.foldl (fun s f => s.markSent f.op) s

/-- A frame of no payload to the peer of a connection: an ACK (2), or a NACK (3) whose SEQ is the first number missing. -/
def State.answerFrame (s : State) (c : Conn) (kind : Nat) : State :=
  { s with out := s.out ++ [Out.frame c.port kind { frameHdr c.port c.dom s.ownPkg with seq := c.recvNext, ackseq := c.recvNext } .none] }

/-- A data frame comes in: a bad CRC or an old number is dropped, a gap is named, the next number in order is delivered; `act`
is what the delivery does (17 R425). -/
def State.recvFrame (s : State) (h : FrameHdr) (act : State → State) : State :=
  if !h.crcOk then s
  else
    let s := s.ackFrames (s.conn h.port h.dom h.pkg) h.ackseq
    let c := s.conn h.port h.dom h.pkg
    if h.seq = c.recvNext then
      let c := { c with recvNext := (c.recvNext + 1) % 2 ^ 32 }
      act ((s.setConn c).answerFrame c 2)
    else if seqBefore h.seq c.recvNext then s.answerFrame c 2
    else s.answerFrame c 3

end Sys2Proof.Machine
end

