-- ==== Sys2Proof/Machine/Table.lean ====
section
/-! DEFINITION. The pipeline schedule table (14 R355 to R364) and the completion of a gang (01 R28; 14 R340, R359). -/

namespace Sys2Proof.Machine

/-! ### The image (14 R355, R356) -/

/-- Fields of the header (14 R355). -/
def hdrNent (h : BitVec 256) : Nat := bitsAt h 0 9
def hdrNrec (h : BitVec 256) : Nat := bitsAt h 16 6
def Sched.scap (t : Sched) : Nat := bitsAt t.header 24 8
def Sched.na (t : Sched) : Nat := bitsAt t.header 32 8
def Sched.ng (t : Sched) : Nat := bitsAt t.header 40 8
def Sched.auto (t : Sched) : Bool := bitAt t.header 48
def Sched.upvr (t : Sched) : Nat := bitsAt t.header 64 24
def Sched.upv (t : Sched) : Bool := bitAt t.header 88
def Sched.dnvr (t : Sched) : Nat := bitsAt t.header 128 24
def Sched.dnv (t : Sched) : Bool := bitAt t.header 152

/-- Fields of an entry (14 R356). -/
def entKind (e : BitVec 256) : Nat := bitsAt e 0 4
def entMb (e : BitVec 256) : Nat := bitsAt e 4 12
def entIn (e : BitVec 256) : Nat := bitsAt e 16 2
def entOut (e : BitVec 256) : Nat := bitsAt e 18 2
def entRec (e : BitVec 256) : Nat := bitsAt e 24 5
def entPri (e : BitVec 256) : Nat := bitsAt e 29 3
def entArg (e : BitVec 256) : Nat := bitsAt e 64 64

/-- Whether a header keeps R355. -/
def headerLegal (h : BitVec 256) : Bool :=
  1 ≤ hdrNent h && hdrNent h ≤ 256 && 1 ≤ hdrNrec h && hdrNrec h ≤ 32 && bitsAt h 9 7 == 0 && bitsAt h 22 2 == 0 &&
    bitsAt h 49 15 == 0 && bitsAt h 89 39 == 0 && bitsAt h 153 103 == 0

/-- Whether an entry keeps R356 under a header. -/
def entryLegal (h e : BitVec 256) : Bool :=
  let up := bitAt h 88
  let dn := bitAt h 152
  let dirs := match entKind e with
    | 1 => entIn e ≤ 1 && entOut e ≤ 1
    | 2 => (entIn e == 0 || entIn e == 2) && (entOut e == 0 || entOut e == 2)
    | 3 => entIn e == 0 && entOut e == 0
    | 4 => entIn e == 0 && entOut e == 0
    | _ => false
  dirs && bitsAt e 20 4 == 0 && bitsAt e 32 32 == 0 && bitsAt e 128 128 == 0 && entRec e < hdrNrec h &&
    (entIn e != 1 || up) && (entIn e != 2 || dn) && (entOut e != 1 || dn) && (entOut e != 2 || up)

/-- A record block as a launch record with its entry table (14 R353, R355). -/
def blockRec (b : BitVec 4096) : LaunchRec := { raw := b.extractLsb' 0 1024, etab := b.extractLsb' 1024 3072 }

/-- Whether a record block satisfies reasons 1, 3 and 4 of R339 with DKIND 0 (14 R356). -/
def blockLegal (sup : Bool) (b : BitVec 4096) : Bool :=
  let l := blockRec b
  l.dkind == 0 && !l.rectsBad && (sup || !l.sup) && !l.fieldsBad none && !l.entriesBad

/-- The table with its dynamic state cleared (14 R357). -/
def Sched.clear (t : Sched) : Sched :=
  { t with pos := 0, stash := 0, acr := 0, gcr := 0, arra := [], arrg := [], ainu := 0, ginu := 0, posted := false, outst := false,
           entryDone := [] }

/-- Changes the table of a rank. -/
def State.modSched (s : State) (vr : Nat) (f : Sched → Sched) : State := s.modRank vr fun r => { r with sched := f r.sched }

/-- The table of the acting strand's rank. -/
def State.withSched (s : State) (f : Rank → Sched → State) : State := match s.rank? s.cur.vr with
  | some r => f r r.sched
  | none => s

/-! ### Messages (14 R359, R362) -/

/-- Sends an arrival of a microbatch to a neighbour. -/
def State.sendArrival (s : State) (r : Rank) (dvr : Nat) (grad : Bool) (mb : Nat) : State :=
  s.sendVr (.schedArrival (s.hdrFor dvr r.vr 0) grad mb r.stepno)

/-- Posts slots to a neighbour: activation slots go upstream, gradient slots downstream. -/
def State.sendSlots (s : State) (r : Rank) (grad : Bool) (n : Nat) : State :=
  s.sendVr (.slotPost (s.hdrFor (if grad then r.sched.dnvr else r.sched.upvr) r.vr 0) grad n r.stepno)

/-- Posts the initial credits once in a step (14 R362). -/
def State.postCredits (s : State) (vr : Nat) : State := match s.rank? vr with
  | none => s
  | some r =>
    if r.sched.posted then s
    else
      let s := if r.sched.upv then s.sendSlots r false r.sched.na else s
      let s := if r.sched.dnv then s.sendSlots r true r.sched.ng else s
      s.modSched vr fun t => { t with posted := true }

/-! ### SCHLD, SCHGO, SCHHALT, SCHSTAT, SLOTPOST (14 R362, R364) -/

/-- Numbers of `w` bits, `n` of them, from bytes. -/
def unpackWords (w n : Nat) (bs : List Byte) : List (BitVec w) := match n with
  | 0 => []
  | k + 1 => BitVec.ofNat w (leNat (bs.take (w / 8))) :: unpackWords w k (bs.drop (w / 8))

/-- SCHLD (14 R364). -/
def execSchld (d a : XReg) (s : State) : Host.Outcome State Fault Refusal :=
  s.acting fun st => s.withSched fun r t =>
    let addr := st.rx a
    let slot := (s.slotOf s.cur.vr).getD 16
    match recordSpan s.cur.core addr 32 32 with
    | some (c, v) => s.trap st c v
    | none =>
      let h : BitVec 256 := BitVec.ofNat 256 (leNat (s.padBytes slot s.cur.core (padOff s.cur.core addr) 32))
      let n := 32 + 32 * hdrNent h + 512 * hdrNrec h
      match recordSpan s.cur.core addr n 32 with
      | some (c, v) => s.trap st c v
      | none =>
        let ents := unpackWords 256 (hdrNent h) (s.padBytes slot s.cur.core (padOff s.cur.core addr + 32) (32 * hdrNent h))
        let recs := unpackWords 4096 (hdrNrec h) (s.padBytes slot s.cur.core (padOff s.cur.core addr + 32 + 32 * hdrNent h) (512 * hdrNrec h))
        if t.st = .ready ∨ t.st = .busy ∨ t.st = .halting then s.retire (st.wx d 1)
        else if !headerLegal h || !(ents.all (entryLegal h)) || !(recs.all (blockLegal st.sup)) then s.retire (st.wx d 2)
        else (s.modSched r.vr fun t =>
          { t.clear with st := .loaded, header := h, entries := ents, recs := recs, supLoaded := st.sup }).retire (st.wx d 0)

/-- SCHGO (14 R361, R362). -/
def execSchgo (d a : XReg) (s : State) : Host.Outcome State Fault Refusal :=
  s.acting fun st => s.withSched fun r t =>
    if t.st = .loaded ∨ t.st = .halted then
      ((s.postCredits r.vr).modSched r.vr fun t =>
        { t with st := if t.pos = t.entries.length then .done else .ready,
                 bubin := if bitAt (st.rx a) 0 then 0 else t.bubin, bubdn := if bitAt (st.rx a) 0 then 0 else t.bubdn,
                 bubst := if bitAt (st.rx a) 0 then 0 else t.bubst }).retire (st.wx d 0)
    else s.retire (st.wx d 1)

/-- SCHHALT (14 R362). -/
def execSchhalt (d : XReg) (s : State) : Host.Outcome State Fault Refusal :=
  s.acting fun st => s.withSched fun r t =>
    match t.st with
    | .ready => (s.modSched r.vr fun t => { t with st := .halted }).retire (st.wx d 0)
    | .busy => (s.modSched r.vr fun t => { t with st := .halting }).retire (st.wx d 0)
    | .halting => s.retire (st.wx d 0)
    | _ => s.retire (st.wx d 1)

/-- SCHSTAT (14 R364). -/
def execSchstat (d : XReg) (s : State) : Host.Outcome State Fault Refusal :=
  s.acting fun st => s.withSched fun _ t =>
    s.retire (st.wx d (BitVec.ofNat 64 (t.ginu * 2 ^ 56 + t.ainu * 2 ^ 48 + t.gcr * 2 ^ 40 + t.acr * 2 ^ 32 + t.stash * 2 ^ 24
      + t.st.code * 2 ^ 16 + t.pos)))

/-- The bitmap without its `n` lowest set bits; a bitmap is the list of its set bits, ascending. -/
def dropLowest (n : Nat) (l : List Nat) : List Nat := l.drop n

/-- Sets a bit of a bitmap. -/
def setBitIn (l : List Nat) (b : Nat) : List Nat := if l.contains b then l else insertBy (fun x y => x < y) b l

/-- SLOTPOST (14 R364). -/
def execSlotpost (a b : XReg) (s : State) : Host.Outcome State Fault Refusal :=
  s.acting fun st => s.withSched fun r t =>
    let k := st.rx a
    let n := st.rx b
    let grad := bitAt k 0
    let bad := bitsAt k 1 63 ≠ 0 ∨ bitsAt n 8 56 ≠ 0 ∨ n = 0 ∨ t.st = .idle ∨ t.st = .fault ∨
      (if grad then t.ginu < n.toNat ∨ t.dnv = false else t.ainu < n.toNat ∨ t.upv = false)
    if bad then s.illop st (.slotpost a b)
    else ((s.modSched r.vr fun t =>
      if grad then { t with arrg := dropLowest n.toNat t.arrg, ginu := t.ginu - n.toNat }
      else { t with arra := dropLowest n.toNat t.arra, ainu := t.ainu - n.toNat }).sendSlots r grad n.toNat).retire st

/-! ### Running the table (14 R358 to R361) -/

/-- The head entry. -/
def Sched.headEntry (t : Sched) : Option (BitVec 256) := t.entries[t.pos]?

/-- The first condition of the head entry that fails: 0 input, 1 output target, 2 stash (14 R358). -/
def Sched.waitCause (t : Sched) (e : BitVec 256) : Option Nat :=
  if (entIn e = 1 ∧ !t.arra.contains (entMb e)) ∨ (entIn e = 2 ∧ !t.arrg.contains (entMb e)) then some 0
  else if (entOut e = 1 ∧ t.acr = 0) ∨ (entOut e = 2 ∧ t.gcr = 0) then some 1
  else if entKind e = 1 ∧ t.scap ≤ t.stash then some 2
  else none

/-- SCHED_HEAD_ISSUE: an eligible head entry takes its credit and stash slot and its record block is posted; a refusal
faults the table (14 R358, R360). It waits while the unit is full (14 R337). -/
def execSchedHeadIssue (vr : Nat) (s : State) : Host.Outcome State Fault Refusal :=
  .next (match s.rank? vr with
    | none => s
    | some r => match r.sched.headEntry with
      | none => s
      | some e =>
        if r.sched.st != .ready || r.slot?.isNone || (r.sched.waitCause e).isSome || 256 ≤ r.pendingGangs then s
        else
          let s := s.modSched vr fun t =>
            { t with st := .busy, outst := true, acr := if entOut e = 1 then t.acr - 1 else t.acr,
                     gcr := if entOut e = 2 then t.gcr - 1 else t.gcr, stash := if entKind e = 1 then t.stash + 1 else t.stash }
          let b := blockRec ((r.sched.recs[entRec e]?).getD 0)
          let l := { b with raw := putBits (putBits b.raw 192 64 (entArg e)) 36 3 (entPri e) }
          match r.refusal l r.sched.supLoaded none with
          | some _ => s.schedFault vr 5
          | none => s.post vr l (.sched r.sched.pos))

/-- BUBBLE_CYCLE: one cycle of a READY table whose head is not eligible is counted by its cause (14 R361). -/
def execBubbleCycle (vr : Nat) (s : State) : Host.Outcome State Fault Refusal :=
  .next (match s.rank? vr with
    | none => s
    | some r => match r.sched.headEntry with
      | none => s
      | some e =>
        if r.sched.st != .ready then s
        else match r.sched.waitCause e with
          | some 0 => s.modSched vr fun t => { t with bubin := t.bubin + 1 }
          | some 1 => s.modSched vr fun t => { t with bubdn := t.bubdn + 1 }
          | some _ => s.modSched vr fun t => { t with bubst := t.bubst + 1 }
          | none => s)

/-- A fault of a table that is not at fault already (14 R360). -/
def State.tableFault (s : State) (r : Rank) (case : Nat) : State :=
  if r.sched.st = .fault then s else s.schedFault r.vr case

/-- The rank whose table takes an arrival or a post; one for a rank in transit or not held here is dropped and counted (15 R377). -/
def State.tableFor (s : State) (vr : Nat) : Option Rank := if s.inTransit vr then none else s.rank? vr

/-- SCHEDULE_ARRIVAL: an arrival of the current step from the neighbour sets its bit (14 R359, R360). -/
def execScheduleArrival (q : DHdr) (grad : Bool) (mb : Nat) (step : BitVec 64) (s : State) : Host.Outcome State Fault Refusal :=
  .next (s.mine q (.schedArrival q grad mb step) fun s => match s.tableFor q.dvr with
    | none => { s with dropped := s.dropped + 1 }
    | some r =>
      let t := r.sched
      let from' := if grad then t.dnv && q.svr == t.dnvr else t.upv && q.svr == t.upvr
      if t.st = .idle ∨ step ≠ r.stepno ∨ !from' then s
      else if (if grad then t.arrg else t.arra).contains mb then s.tableFault r 1
      else if grad then
        (if t.ng < t.ginu + 1 then s.tableFault r 2
         else s.modSched r.vr fun t => { t with arrg := setBitIn t.arrg mb, ginu := t.ginu + 1 })
      else if t.na < t.ainu + 1 then s.tableFault r 2
      else s.modSched r.vr fun t => { t with arra := setBitIn t.arra mb, ainu := t.ainu + 1 })

/-- SLOT_POST: posts of the current step from the neighbour add their count to its credit (14 R359, R360). -/
def execSlotPost (q : DHdr) (grad : Bool) (count : Nat) (step : BitVec 64) (s : State) : Host.Outcome State Fault Refusal :=
  .next (s.mine q (.slotPost q grad count step) fun s => match s.tableFor q.dvr with
    | none => { s with dropped := s.dropped + 1 }
    | some r =>
      let t := r.sched
      let from' := if grad then t.upv && q.svr == t.upvr else t.dnv && q.svr == t.dnvr
      if t.st = .idle ∨ step ≠ r.stepno ∨ !from' then s
      else if 255 < (if grad then t.gcr else t.acr) + count then s.tableFault r 3
      else s.modSched r.vr fun t =>
        if grad then { t with gcr := t.gcr + count } else { t with acr := t.acr + count })

/-- The completion of the outstanding gang of the table, in the order of R359. -/
def State.entryComplete (s : State) (vr : Nat) : State := match s.rank? vr with
  | none => s
  | some r => match r.sched.headEntry with
    | none => s
    | some e =>
      let t := r.sched
      let s := if entOut e = 1 then s.sendArrival r t.dnvr false (entMb e)
        else if entOut e = 2 then s.sendArrival r t.upvr true (entMb e) else s
      if entKind e = 2 ∧ t.stash = 0 then s.schedFault vr 4
      else
        let s := if entKind e = 2 then s.modSched vr fun t => { t with stash := t.stash - 1 } else s
        let s := if !t.auto then s
          else if entIn e = 1 ∧ t.arra.contains (entMb e) then
            (s.modSched vr fun t => { t with arra := t.arra.erase (entMb e), ainu := t.ainu - 1 }).sendSlots r false 1
          else if entIn e = 2 ∧ t.arrg.contains (entMb e) then
            (s.modSched vr fun t => { t with arrg := t.arrg.erase (entMb e), ginu := t.ginu - 1 }).sendSlots r true 1
          else s
        s.modRank vr fun r =>
          { r with sched := { r.sched with
              outst := false, pos := r.sched.pos + 1, entryDone := r.sched.entryDone ++ [(r.sched.pos, false)],
              st := if r.sched.st = SchedSt.halting then SchedSt.halted
                else if r.sched.pos + 1 = r.sched.entries.length then .done else .ready } }.settleAll

/-- Whether a gang has completed: all its cores are finished and its commands have retired (01 R28). -/
def State.gangDone (s : State) (vr : Nat) (g : Gang) : Bool :=
  g.cond == .placed && (g.cores.all fun k => k.l.ended && k.c.ended && k.s.ended) &&
    !(s.cmds.any fun c => c.by'.vr == vr && c.by'.gang == g.id)

/-- GANG_COMPLETE: the completion marker retires, the cores return, and the table goes on (01 R28; 14 R340, R341, R359). -/
def execGangComplete (vr gang : Nat) (s : State) : Host.Outcome State Fault Refusal :=
  .next (match s.gang? vr gang with
    | none => s
    | some g =>
      if !s.gangDone vr g then s
      else
        let s := s.modRank vr fun r => ((r.dropGang gang).retireGang g.launch false).settleAll
        match g.source with
        | .sched _ => s.entryComplete vr
        | _ => s)

/-! ### The step boundary (14 R362) -/

/-- The rank arrives at its step boundary: issue stops. -/
def Sched.atStep (t : Sched) : Sched := if t.st = .ready then { t with st := .halted } else t

/-- Whether stash and stage buffers are empty (01 R35, 14 R362). -/
def Sched.drained (t : Sched) : Bool := t.stash == 0 && t.ainu == 0 && t.ginu == 0

/-- The rank resumes after its step boundary. -/
def State.schedResume (s : State) (vr : Nat) : State := match s.rank? vr with
  | none => s
  | some r => match r.sched.st with
    | .loaded | .halted => s.modSched vr Sched.clear
    | .done => ((s.modSched vr Sched.clear).postCredits vr).modSched vr fun t =>
        { t with st := if t.pos = t.entries.length then .done else .ready }
    | _ => s.modSched vr fun t => { t with entryDone := [] }

end Sys2Proof.Machine
end

