-- ==== Sys2Proof/Machine/Column.lean ====
section
/-! DEFINITION. What the M and V columns share: the layout of a column word and its operand specifiers (06 R145, R148), shapes
and guards (02 R48 to R50), reading operands (08 R199), taking destinations (08 R200), formats and conversions (03 R84, R85). -/

namespace Sys2Proof.Machine

/-! ### Column words (06 R145) -/

/-- A column word by its fields. -/
structure ColWord where
  word : BitVec 32
  op : Nat
  d : Nat
  a : Nat
  b : Nat
  lua : Bool
  lub : Bool
  mod : Nat
  deriving DecidableEq, Repr

def colWord (w : BitVec 32) : ColWord :=
  { word := w, op := bitsAt w 25 7, d := bitsAt w 18 7, a := bitsAt w 11 7, b := bitsAt w 4 7, lua := bitAt w 3, lub := bitAt w 2,
    mod := bitsAt w 0 2 }

/-- An operand specifier, named (06 R145). `own` is the latch of the column itself. -/
inductive Spec where
  | tile (r : Nat)
  | acc (a : Nat)
  | oent (i : Nat)
  | latch (own : Bool)
  | queue (q : Nat)
  | illegal
  deriving DecidableEq, Repr

def specOf (v : Nat) : Spec :=
  let ix := v % 32
  match v / 32 with
  | 0 => if ix < 16 then .tile ix else if ix < 20 then .acc (ix - 16) else .illegal
  | 1 => if ix < 8 then .oent ix else .illegal
  | 2 => if ix = 0 then .latch true else if ix = 1 then .latch false else .illegal
  | _ => if ix < 16 then .queue ix else .illegal

/-- What an operation asks of an operand field (06 R145, R146; 08 R200 to R220; 09 R221). -/
inductive Role where
  | src | srcTile | pair | accSrc | scalarQ
  | dst | dstTile | dstTileQ | dstRead | accDst
  | oent | pred | imm | zero
  deriving DecidableEq, Repr

/-- Whether a field satisfies its role: levels, directions, ownership (02 R53 to R56). -/
def Role.ok (r : Role) (v : Nat) : Bool :=
  match r, specOf v with
  | .imm, _ => true
  | .zero, _ => v == 0
  | .pred, _ => v < 96
  | .src, .tile _ => true
  | .src, .oent _ => true
  | .src, .latch _ => true
  | .src, .queue q => q < 8 || q == 12 || q == 13
  | .srcTile, .tile _ => true
  | .srcTile, .latch _ => true
  | .srcTile, .queue q => q < 8
  | .pair, .tile t => t % 2 == 0
  | .pair, .queue q => q < 8 && q % 2 == 0
  | .accSrc, .acc _ => true
  | .accDst, .acc _ => true
  | .scalarQ, .queue q => q == 12 || q == 13
  | .dst, .tile _ => true
  | .dst, .oent _ => true
  | .dst, .queue q => 8 ≤ q && (q < 12 || q == 14 || q == 15)
  | .dstRead, .tile _ => true
  | .dstRead, .oent _ => true
  | .dstRead, .latch own => own
  | .dstRead, .queue q => 8 ≤ q && (q < 12 || q == 14 || q == 15)
  | .dstTile, .tile _ => true
  | .dstTile, .oent _ => true
  | .dstTileQ, .tile _ => true
  | .dstTileQ, .queue q => 8 ≤ q && q < 12
  | .oent, .oent _ => true
  | _, _ => false

/-- Whether a role reads a value. -/
def Role.isSource (r : Role) : Bool := match r with
  | .src | .srcTile | .pair | .accSrc | .scalarQ => true
  | _ => false

/-- Whether a role takes a destination. -/
def Role.isDest (r : Role) : Bool := match r with
  | .dst | .dstTile | .dstTileQ | .dstRead | .accDst => true
  | _ => false

/-- Whether a last-use bit may stand with a field (02 R52). -/
def lastUseOk (lu : Bool) (r : Role) (v : Nat) : Bool :=
  !lu || (r.isSource && match specOf v with
    | .tile _ => true
    | _ => false)

/-- The roles of d, a and b of an operation. -/
structure Roles where
  d : Role
  a : Role
  b : Role
  deriving DecidableEq, Repr

/-- The checks that the roles make of a word (06 R154 check 2). -/
def Roles.ok (r : Roles) (c : ColWord) : Bool :=
  r.d.ok c.d && r.a.ok c.a && r.b.ok c.b && lastUseOk c.lua r.a c.a && lastUseOk c.lub r.b c.b

/-- The queue heads that a field reads. -/
def Role.reads (r : Role) (v : Nat) : List Nat :=
  if r.isSource then match specOf v with
    | .queue q => if r = .pair then [q, q + 1] else [q]
    | _ => []
  else []

def Roles.reads (r : Roles) (c : ColWord) : List Nat := r.a.reads c.a ++ r.b.reads c.b

/-- The queue that a word writes. -/
def Roles.writesQueue (r : Roles) (c : ColWord) : List Nat :=
  if r.d.isDest then match specOf c.d with
    | .queue q => [q]
    | _ => []
  else []

/-- The tile registers that a word frees (02 R51, 09 R221). -/
def Roles.frees (r : Roles) (c : ColWord) : List Nat :=
  let one := fun (lu : Bool) (r : Role) (v : Nat) => if lu then match specOf v with
    | .tile t => if r = .pair then [t, t + 1] else [t]
    | _ => [] else []
  one c.lua r.a c.a ++ one c.lub r.b c.b

/-! ### Shapes and guards (02 R48, R50) -/

def Core.rows (k : Core) : Nat := bitsAt k.shape 0 6
def Core.cols (k : Core) : Nat := bitsAt k.shape 8 8
def Core.eszCode (k : Core) : Nat := bitsAt k.shape 16 2
def Core.esz (k : Core) : Nat := 2 ^ k.eszCode

/-- The mask bit that governs element (i, j) (02 R48). -/
def laneOf (cols eb i j : Nat) : Nat :=
  let w := max 1 (4 / eb)
  i * ((cols + w - 1) / w) + j / w

/-- A guard with its inversion; 127 selects all (06 R144). -/
def Strand.guard (st : Strand) (g : Nat) (inv : Bool) : Pred :=
  if g = 127 then BitVec.allOnes 1024
  else let p := st.p[g]?.getD 0
    if inv then ~~~p else p

/-! ### Buffers -/

/-- `n` bytes of a buffer, as a number. -/
def bufElem {k : Nat} (b : BitVec k) (off n : Nat) : Nat := bitsAt b (8 * off) (8 * n)

/-- The value and the mask of elements at byte places: place, size, value. -/
def bufWrite (l : List (Nat × Nat × Nat)) : Buf × Buf :=
  (BitVec.ofNat 32768 (l.foldl (fun acc e => acc ||| ((e.2.2 % 2 ^ (8 * e.2.1)) <<< (8 * e.1))) 0),
   BitVec.ofNat 32768 (l.foldl (fun acc e => acc ||| ((2 ^ (8 * e.2.1) - 1) <<< (8 * e.1))) 0))

/-- A buffer after a masked write. -/
def bufMerge (old value mask : Buf) : Buf := (old &&& ~~~mask) ||| (value &&& mask)

/-! ### Reading operands (08 R199) -/

/-- The head entry of a tile queue. -/
def Core.tileHead (k : Core) (q : Nat) : Option TEntry := (k.tqueue q).ents.head?

/-- The buffer of a tile register. -/
def Core.tileBuf (k : Core) (t : Nat) : Buf := match k.tiles[t]?.getD none with
  | some x => x.buf
  | none => 0

/-- Whether a tile register is free. -/
def Core.tileFree (k : Core) (t : Nat) : Bool := (k.tiles[t]?.getD none).isNone

/-- A latch as a column names it: V's own is vlat, M's own is mlat (02 R55). -/
def Core.latch (k : Core) (isM own : Bool) : Buf := if isM = own then k.mlat else k.vlat

/-- Element (i, j) of a V source (08 R199): an o-entry is a row vector, or a column vector where `colVec` says so. -/
def Core.elem (k : Core) (v cols eb : Nat) (colVec : Bool) (i j : Nat) : Nat :=
  let at' := (i * cols + j) * eb
  match specOf v with
  | .tile t => bufElem (k.tileBuf t) at' eb
  | .oent o => bufElem (k.ofile[o]?.getD 0) ((if colVec then i else j) * eb) eb
  | .latch own => bufElem (k.latch false own) at' eb
  | .queue q =>
    if q < 12 then bufElem ((k.tileHead q).map TEntry.data |>.getD 0) at' eb
    else match (k.squeue q).ents.head? with
      | some e => e.data.toNat % 2 ^ (8 * eb)
      | none => 0
  | _ => 0

/-! ### Destinations (08 R200, R201; 02 R51, R57) -/

/-- Takes a destination at issue: a free tile gets a buffer of zeros, a queue gets an entry. -/
def Core.takeDest (k : Core) (v : Nat) (fmt : Option Nat) (esz rows cols : Nat) : PDest × Core :=
  match specOf v with
  | .tile t => match k.tiles[t]?.getD none with
    | some x => (.tile t x.alloc, k)
    | none => (.tile t k.nextId, { k with tiles := k.tiles.setIfInBounds t (some { alloc := k.nextId, buf := 0 }), nextId := k.nextId + 1 })
  | .oent o => (.oent o, k)
  | .acc a => (.acc a, k)
  | .queue q =>
    if q < 12 then
      let e : TEntry := { id := k.nextId, landed := false, data := 0, fmt := fmt, esz := esz, rows := rows, cols := cols, scales := .none }
      (.tqueue q k.nextId, { k.setTqueue q { k.tqueue q with ents := (k.tqueue q).ents ++ [e] } with nextId := k.nextId + 1 })
    else
      let e : SEntry := { id := k.nextId, landed := false, data := 0 }
      (.squeue q k.nextId, { k.setSqueue q { k.squeue q with ents := (k.squeue q).ents ++ [e] } with nextId := k.nextId + 1 })
  | _ => (.mlat, k)

/-- The pending entry of a result whose image is laid out as a tile: `els` the elements by place, size and value, `o` the
image of an o-entry where it is another, `size` the element size, `latch` the column's own latch (02 R55, R57; 08 R200). -/
def Core.result (k : Core) (isM : Bool) (v : Nat) (fmt : Option Nat) (esz rows cols left : Nat) (els : List (Nat × Nat × Nat))
    (o : List (Nat × Nat × Nat)) (flags : FFlags) : Pending × Core :=
  let (val, mask) := bufWrite els
  let lat : PWrite := { dest := if isM then .mlat else .vlat, value := val, mask := mask }
  let entry := fun (ws : List PWrite) =>
    ({ left := left, writes := ws, accum := none, flags := flags, clear := 0, fromX := false } : Pending)
  match specOf v with
  | .latch _ => (entry [lat], k)
  | .oent i =>
    let (ov, om) := bufWrite o
    (entry [{ dest := .oent i, value := ov, mask := om }, lat], k)
  | _ =>
    let (d, k) := k.takeDest v fmt esz rows cols
    let first := bufWrite (els.filter fun e => e.1 == 0)
    let w : PWrite := match d with
      | .squeue _ _ => { dest := d, value := first.1, mask := first.2 }
      | _ => { dest := d, value := val &&& mask, mask := mask }
    (entry [w, lat], k)

/-! ### Formats (03 R70; 08 R220) -/

/-- A format code of R220 as a floating-point format. -/
def fltOf (c : Nat) : Option FFmt := match c with
  | 0 => some .fp64
  | 1 => some .fp32
  | 2 => some .fp16
  | 3 => some .bf16
  | 4 => some .e4m3
  | 5 => some .e5m2
  | _ => none

/-- Whether an integer code is unsigned. -/
def codeUnsigned (c : Nat) : Bool := c % 2 == 1

/-- A number of `n` bits read by signedness. -/
def intOf (n : Nat) (unsigned : Bool) (v : Nat) : Int := if unsigned then (v % 2 ^ n : Nat) else signedOf n v

/-- A choice of the overflow table by its two bits (03 R84). -/
def ovfChoice (v : Nat) : OvfChoice := match v with
  | 1 => .infinity
  | 2 => .nan
  | _ => .largest

/-- The overflow table's choice for a destination format; FP32 and FP64 have none and follow IEEE 754 (03 R83, R84). -/
def ovfFor (ovf : Word) (f : FFmt) : OvfChoice := match f with
  | .fp16 => ovfChoice (bitsAt ovf 0 2)
  | .bf16 => ovfChoice (bitsAt ovf 2 2)
  | .e4m3 => ovfChoice (bitsAt ovf 4 2)
  | .e5m2 => ovfChoice (bitsAt ovf 6 2)
  | _ => ovfIeee

/-- Whether the table gives the indefinite for integers of a size in bytes; conversions to 64 bits always clamp (03 R85). -/
def ovfIndefinite (ovf : Word) (size : Nat) : Bool := match size with
  | 1 => bitsAt ovf 8 2 == 2
  | 2 => bitsAt ovf 10 2 == 2
  | 4 => bitsAt ovf 12 2 == 2
  | _ => false

/-- An integer delivered into a code of R220, and whether it was out of range (03 R85). -/
def intDeliver (ovf : Word) (c : Nat) (v : Int) : Nat × Bool :=
  let size := fmtSize c
  let n := 8 * size
  let lo : Int := if codeUnsigned c then 0 else -(2 ^ (n - 1) : Nat)
  let hi : Int := if codeUnsigned c then (2 ^ n : Nat) - 1 else (2 ^ (n - 1) : Nat) - 1
  let enc := fun (x : Int) => (x % (2 ^ n : Nat)).toNat
  if lo ≤ v ∧ v ≤ hi then (enc v, false)
  else if ovfIndefinite ovf size then (2 ^ (n - 1), true)
  else (enc (if v < lo then lo else hi), true)

/-- A conversion between codes of R220 (03 R85). -/
def convert (sc dc : Nat) (mode : RMode) (ovf : Word) (bits : Nat) : Nat × FFlags :=
  match fltOf sc, fltOf dc with
  | some f, some g => g.deliver mode (ovfFor ovf g) (f.value bits)
  | some f, none => match f.value bits with
    | .nan _ => (0, flagNV)
    | .inf neg => ((intDeliver ovf dc (if neg then -(2 ^ 80 : Nat) else (2 ^ 80 : Nat))).1, flagNV)
    | .fin n m e =>
      let (v, inexact) := roundInt mode n m e
      let (r, out) := intDeliver ovf dc v
      (r, if out then flagNV else if inexact then flagNX else 0)
  | none, some g =>
    let v := intOf (8 * fmtSize sc) (codeUnsigned sc) bits
    g.round mode (ovfFor ovf g) (v < 0) v.natAbs 0 false
  | none, none =>
    let v := intOf (8 * fmtSize sc) (codeUnsigned sc) bits
    if fmtSize sc < fmtSize dc then ((v % (2 ^ (8 * fmtSize dc) : Nat)).toNat, 0) else ((intDeliver ovf dc v).1, 0)

end Sys2Proof.Machine
end

