-- ==== Sys2Proof/Machine/Vec.lean ====
section
/-! DEFINITION. The V column (08 R198 to R220): legality of a word, its checks at issue, what it computes. -/

namespace Sys2Proof.Machine

/-! ### Words (06 R146; 08 R206 to R220) -/

/-- The roles of the operands of a V opcode, none for an opcode that is illegal. -/
def vRoles (op mod : Nat) : Option Roles :=
  if (0x01 ≤ op ∧ op ≤ 0x03) ∨ op = 0x06 ∨ op = 0x07 ∨ op = 0x0A ∨ (0x18 ≤ op ∧ op ≤ 0x24) ∨ op = 0x30 then some ⟨.dst, .src, .src⟩
  else if op = 0x04 ∨ op = 0x05 then some ⟨.dstTile, .src, .src⟩
  else if op = 0x08 ∨ op = 0x09 ∨ (0x0B ≤ op ∧ op ≤ 0x11) ∨ op = 0x31 ∨ op = 0x35 ∨ op = 0x36 then some ⟨.dst, .src, .zero⟩
  else if 0x28 ≤ op ∧ op ≤ 0x2E then some ⟨.pred, .src, .src⟩
  else if op = 0x32 then some ⟨.dst, .imm, .imm⟩
  else if op = 0x33 then some ⟨.dst, .zero, .zero⟩
  else if op = 0x34 then some ⟨.dstTileQ, .srcTile, .zero⟩
  else if 0x37 ≤ op ∧ op ≤ 0x3A then some ⟨.dstTile, .src, .zero⟩
  else if op = 0x3B then some ⟨.dst, .src, .oent⟩
  else if op = 0x3C then some ⟨.dstTileQ, .srcTile, .oent⟩
  else if op = 0x3D then some ⟨if mod = 2 then .pred else .dst, .scalarQ, .zero⟩
  else if op = 0x3E then some ⟨.zero, .imm, .imm⟩
  else if op = 0x3F then some ⟨.dst, .src, .imm⟩
  else none

/-- Check 2 of a V word that is not empty (06 R154; 08 R203, R219, R220); `guard` is the V guard field. -/
def vLegal (c : ColWord) (guard : Nat) : Bool :=
  match vRoles c.op c.mod with
  | none => false
  | some r =>
    r.ok c &&
    ((c.op != 0x34 && c.op != 0x3C && c.op != 0x3E) || guard == 127) &&
    (c.op != 0x3E || (c.a < 32 && c.b + 1 ≤ 128 / 2 ^ c.mod)) &&
    (c.op != 0x3F || c.b / 8 < 14)

/-- The element size of an operation and the format of its type, none where it has a size only (06 R148, 08 R198); `esz` is
that of SHAPE. -/
def vType (op mod esz : Nat) : Option Nat × Nat :=
  if op ≤ 0x11 then match mod with
    | 0 => (some 1, 4) | 1 => (some 0, 8) | 2 => (some 3, 2) | _ => (some 2, 2)
  else if op ≤ 0x24 then match mod with
    | 0 => (some 10, 4) | 1 => (some 11, 4) | 2 => (some 8, 2) | _ => (some 6, 1)
  else if op ≤ 0x2E ∨ (0x37 ≤ op ∧ op ≤ 0x3A) then match mod with
    | 0 => (some 1, 4) | 1 => (some 0, 8) | 2 => (some 10, 4) | _ => (some 11, 4)
  else if op = 0x32 then match mod with
    | 0 => (some 1, 4) | 1 => (some 0, 8) | 2 => (some 10, 4) | _ => (none, 2)
  else if op = 0x33 then (if mod = 3 then some 1 else some 10, 4)
  else if op = 0x3C then match mod with
    | 0 => (some 1, 4) | 1 => (none, 2) | 2 => (none, 1) | _ => (some 6, 1)
  else if op = 0x3D then match mod with
    | 0 => (none, 4) | 1 => (some 1, 4) | _ => (none, esz)
  else if op = 0x3E ∨ op = 0x3F then (none, esz)
  else match mod with
    | 0 => (none, 4) | 1 => (none, 8) | 2 => (none, 2) | _ => (none, 1)

/-- The source code of a TCVT under SHAPE.ESZ (08 R220). -/
def cvtSource (c : ColWord) (eszCode : Nat) : Nat :=
  let s := c.b % 8
  if s < 6 then s else s + 2 * eszCode

/-- Whether the tag of a load-queue entry satisfies an operation (08 R202). -/
def tagOk (c : ColWord) (eszCode rows cols : Nat) (e : TEntry) : Bool :=
  let (f, sz) := vType c.op c.mod (2 ^ eszCode)
  e.rows == rows && e.cols == cols &&
    match e.fmt with
    | none => false
    | some t =>
      if c.op = 0x3F then t == cvtSource c eszCode
      else if c.op = 0x3C ∧ c.mod = 1 then t == 2 || t == 3
      else if c.op = 0x3C ∧ c.mod = 2 then t == 4 || t == 5
      else match f with
        | none => fmtSize t == sz
        | some x => if x < 6 then t == x else 6 ≤ t && fmtSize t == sz

/-! ### Check 4 (08 R204) -/

/-- How a check of a bundle's columns fails: ILLOP of the column's word, or a free tile register. -/
inductive ColFail where
  | illop
  | deadreg (t : Nat)
  deriving DecidableEq, Repr

/-- Condition 1: element size and geometry (08 R204). -/
def Core.vGeometry (k : Core) (c : ColWord) : Bool :=
  let rows := k.rows
  let cols := k.cols
  let esz := k.esz
  let (_, sz) := vType c.op c.mod esz
  let oent := fun (v : Nat) => match specOf v with
    | .oent _ => true
    | _ => false
  if c.op = 0x3F then
    (6 ≤ c.b % 8 || fmtSize (c.b % 8) == esz) && cols * max esz (fmtSize (c.b / 8)) ≤ 128
  else
    (c.op == 0x3E || sz == esz) &&
    (c.op != 0x34 || (cols ≤ 32 && rows ≤ 128 / esz)) &&
    (c.op != 0x3C || (cols % 4 == 0 && match specOf c.b with
      | .oent o => o + (rows * cols + 1023) / 1024 ≤ 8
      | _ => false)) &&
    (c.op != 0x36 || !oent c.a || rows * esz ≤ 128) &&
    ((c.op != 0x37 && c.op != 0x39) || !oent c.d || rows * esz ≤ 128)

/-- The tile registers that a V word reads, in the order a, b, d (08 R204, R207). -/
def vTiles (r : Roles) (c : ColWord) : List Nat :=
  let one := fun (src : Bool) (v : Nat) => if src then match specOf v with
    | .tile t => [t]
    | _ => [] else []
  one r.a.isSource c.a ++ one r.b.isSource c.b ++ one (c.op == 4 || c.op == 5) c.d

/-- Conditions 1 and 2 of a V word, and the index queues of bound gathers (08 R204, 09 R237). DESIGN CHOICE (log entry 44): 08 R204
gives the ILLOP of 09 R237 no place in its order; it is tested after geometry and free tiles, before a queue condition acts. -/
def Core.vCheck (k : Core) (c : ColWord) : Option ColFail :=
  match vRoles c.op c.mod with
  | none => some .illop
  | some r =>
    if !k.vGeometry c then some .illop
    else match (vTiles r c).find? k.tileFree with
      | some t => some (.deadreg t)
      | none => if (r.reads c).any fun q => 12 ≤ q && k.indexBound q then some .illop else none

/-- Condition 3: the tags of the queue sources (08 R202, R204). -/
def Core.vTags (k : Core) (c : ColWord) : Bool :=
  match vRoles c.op c.mod with
  | none => false
  | some r => (r.reads c).all fun q => 12 ≤ q || match k.tileHead q with
    | some e => tagOk c k.eszCode k.rows k.cols e
    | none => true

/-! ### Element values (08 R206 to R213) -/

/-- The floating-point element-wise operations on encodings (08 R206). -/
def vFloat (op : Nat) (f : FFmt) (ovf : Word) (a b d : Nat) : Nat × FFlags :=
  let c := ovfFor ovf f
  let va := f.value a
  let vb := f.value b
  match op with
  | 0x01 => f.add c va vb
  | 0x02 => f.add c va vb.flip
  | 0x03 => f.mul c va vb
  | 0x04 => f.fma c va vb (f.value d)
  | 0x05 => f.fma c va vb (f.value d).flip
  | 0x06 => f.minmax false a b
  | 0x07 => f.minmax true a b
  | 0x08 => (a % 2 ^ (f.width - 1), 0)
  | 0x09 => ((a + 2 ^ (f.width - 1)) % 2 ^ f.width, 0)
  | 0x0A => f.div c va vb
  | 0x0B => f.sqrt c va
  | 0x0C => f.rcp c va
  | 0x0D => f.rsqrt c va
  | 0x0E => f.exp c va
  | 0x0F => f.log c va
  | 0x10 => f.exp2 c va
  | _ => f.tanh c va

/-- A number as an `n`-bit encoding, modulo two to the `n`. -/
def wrapInt (n : Nat) (v : Int) : Nat := (v % (2 ^ n : Nat)).toNat

/-- A number clamped to the range of an `n`-bit type (03 R77). -/
def clampInt (n : Nat) (unsigned : Bool) (v : Int) : Nat :=
  let lo : Int := if unsigned then 0 else -(2 ^ (n - 1) : Nat)
  let hi : Int := if unsigned then (2 ^ n : Nat) - 1 else (2 ^ (n - 1) : Nat) - 1
  wrapInt n (if v < lo then lo else if hi < v then hi else v)

/-- The integer element-wise operations (08 R208) on `n`-bit encodings. -/
def vInt (op n : Nat) (unsigned : Bool) (a b : Nat) : Nat :=
  let ia := intOf n unsigned a
  let ib := intOf n unsigned b
  match op with
  | 0x18 => wrapInt n (ia + ib)
  | 0x19 => wrapInt n (ia - ib)
  | 0x1A => wrapInt n (ia * ib)
  | 0x1B => clampInt n unsigned (ia + ib)
  | 0x1C => clampInt n unsigned (ia - ib)
  | 0x1D => if ib < ia then b else a
  | 0x1E => if ia < ib then b else a
  | 0x1F => a &&& b
  | 0x20 => a ||| b
  | 0x21 => a ^^^ b
  | 0x22 => if n ≤ b then 0 else (a <<< b) % 2 ^ n
  | 0x23 => if n ≤ b then 0 else a >>> b
  | _ => wrapInt n (signedOf n a / (2 ^ (min b n) : Nat))

/-- The constant of a TFILL (08 R212). -/
def fillValue (c : ColWord) : Nat :=
  let imm := c.a * 128 + c.b
  match c.mod with
  | 0 => imm * 2 ^ 18
  | 1 => imm * 2 ^ 50
  | 2 => wrapInt 32 (signedOf 14 imm)
  | _ => imm * 4

/-- The rounding mode of a TCVT (08 R198). -/
def cvtMode (mod : Nat) : RMode := match mod with
  | 0 => .rne
  | 1 => .rz
  | 2 => .rd
  | _ => .ru

/-- What a V operation needs of its rank at issue: the overflow table in force, and the key and step of its draws. -/
structure VCtx where
  ovf : Word
  jobseed : Word
  vr : Nat
  stepno : Word
  deriving DecidableEq, Repr

/-- A draw of TRAND: the entry's stream, and its index plus `n` modulo 2^32 (08 R218). -/
def VCtx.draw (x : VCtx) (entry : Word) (n : Nat) : Word :=
  rngDraw x.jobseed x.vr x.stepno (bitsAt entry 32 4) (entry.setWidth 32 + BitVec.ofNat 32 n)

/-- The head entry of a scalar queue. -/
def Core.scalarHead (k : Core) (q : Nat) : Word := match (k.squeue q).ents.head? with
  | some e => e.data
  | none => 0

/-- The queue that a source names. -/
def queueOf (v : Nat) : Nat := match specOf v with
  | .queue q => q
  | _ => 12

/-- The value of element (i, j) of an element-wise operation, a move, a fill, a shuffle, a random fill or a conversion. -/
def Core.vElem (k : Core) (x : VCtx) (c : ColWord) (i j : Nat) : Nat × FFlags :=
  let cols := k.cols
  let esz := k.esz
  let a := fun (i j : Nat) => k.elem c.a cols esz (c.op == 0x36) i j
  let b := k.elem c.b cols esz false i j
  let (f, sz) := vType c.op c.mod esz
  let n := i * cols + j
  if c.op ≤ 0x11 then
    match f.bind fltOf with
    | some fm => vFloat c.op fm x.ovf (a i j) b (k.elem c.d cols esz false i j)
    | none => (0, 0)
  else if c.op ≤ 0x24 then (vInt c.op (8 * sz) (c.mod == 1) (a i j) b, 0)
  else match c.op with
    | 0x31 => (a i j, 0)
    | 0x32 => (fillValue c, 0)
    | 0x33 => (match c.mod with
      | 0 => n
      | 1 => i
      | 2 => j
      | _ => (FFmt.round .fp32 .rne ovfIeee false n 0 false).1, 0)
    | 0x35 => (a 0 j, 0)
    | 0x36 => (a i 0, 0)
    | 0x3B =>
      let t := match specOf c.b with
        | .oent o => bufElem (k.ofile[o]?.getD 0) j 1
        | _ => 0
      (if t < cols then a i t else 0, 0)
    | 0x3D =>
      let e := k.scalarHead (queueOf c.a)
      (match c.mod with
        | 0 => bitsAt (x.draw e (n / 2)) (32 * (n % 2)) 32
        | 1 => (uniformBits ((x.draw e (n / 2)).extractLsb' (32 * (n % 2)) 32)).toNat
        | _ => if bitAt (x.draw e (n / 64)) (n % 64) then 2 ^ (8 * sz) - 1 else 0, 0)
    | _ => convert (cvtSource c k.eszCode) (c.b / 8) (cvtMode c.mod) x.ovf (a i j)

/-! ### Results -/

/-- The pairs (i, j) of a grid, in row order. -/
def grid (rows cols : Nat) : List (Nat × Nat) := (List.range rows).flatMap fun i => (List.range cols).map fun j => (i, j)

/-- The size and format code of the elements that an operation writes (08 R202, R220). -/
def Core.vOut (k : Core) (c : ColWord) : Option Nat × Nat :=
  if c.op = 0x3F then (some (c.b / 8), fmtSize (c.b / 8)) else vType c.op c.mod k.esz

/-- The landing offset and the occupancy of a V operation (06 R157). -/
def vTiming (op rows : Nat) : Nat × Nat :=
  let h := (rows + 1) / 2
  if op = 0x3E then (1, 1)
  else if 0x0A ≤ op ∧ op ≤ 0x11 then (2 * h + 6, 2 * h)
  else if 0x37 ≤ op ∧ op ≤ 0x3A then (h + 4, h)
  else if op = 0x34 ∨ op = 0x3B ∨ op = 0x3C then (20, 16)
  else (h + 2, h)

/-- An element-wise result (08 R203, R206 to R213, R216, R218, R220). -/
def Core.vMap (k : Core) (x : VCtx) (g : Pred) (c : ColWord) : Pending × Core :=
  let cols := k.cols
  let (fmt, db) := k.vOut c
  let one := match specOf c.d with
    | .oent _ => true
    | _ => false
  let sel := (grid (if one then 1 else k.rows) cols).filter fun p => g.getLsbD (laneOf cols k.esz p.1 p.2)
  let vals := sel.map fun p => (p, k.vElem x c p.1 p.2)
  let els := vals.map fun e => ((e.1.1 * cols + e.1.2) * db, db, e.2.1)
  k.result false c.d fmt db k.rows cols (vTiming c.op k.rows).1 els els (vals.foldl (fun f e => f ||| e.2.2) 0)

/-- TSEL: every element of the shape, by the guard (08 R210). -/
def Core.vSelect (k : Core) (g : Pred) (c : ColWord) : Pending × Core :=
  let cols := k.cols
  let (fmt, db) := k.vOut c
  let one := match specOf c.d with
    | .oent _ => true
    | _ => false
  let els := (grid (if one then 1 else k.rows) cols).map fun p =>
    ((p.1 * cols + p.2) * db, db, k.elem (if g.getLsbD (laneOf cols k.esz p.1 p.2) then c.a else c.b) cols k.esz false p.1 p.2)
  k.result false c.d fmt db k.rows cols (vTiming c.op k.rows).1 els els 0

/-- A predicate result: bits by place and value; the bits from `n` up are cleared (08 R209, R218). -/
def predResult (d n left : Nat) (bits : List (Nat × Bool)) (flags : FFlags) : Pending :=
  let val := bits.foldl (fun acc e => if e.2 then acc ||| (1 <<< e.1) else acc) 0
  let mask := bits.foldl (fun acc e => acc ||| (1 <<< e.1)) ((2 ^ 1024 - 1) - (2 ^ n - 1))
  { left := left, writes := [{ dest := .pred d, value := BitVec.ofNat 32768 val, mask := BitVec.ofNat 32768 mask }], accum := none,
    flags := flags, clear := 0, fromX := false }

/-- The integer compares (08 R209). -/
def vIntCond (op : Nat) (a b : Int) : Bool := match op with
  | 0x28 => a == b
  | 0x29 => a != b
  | 0x2A => a < b
  | 0x2B => a ≤ b
  | 0x2C => b < a
  | 0x2D => b ≤ a
  | _ => false

/-- The floating-point compares (08 R209). -/
def vFltCond (op : Nat) : FCond := match op with
  | 0x28 => .eq
  | 0x29 => .ne
  | 0x2A => .lt
  | 0x2B => .le
  | 0x2C => .gt
  | 0x2D => .ge
  | _ => .un

/-- A compare (08 R209). -/
def Core.vCompare (k : Core) (g : Pred) (c : ColWord) : Pending :=
  let cols := k.cols
  let esz := k.esz
  let sel := (grid k.rows cols).filter fun p => g.getLsbD (laneOf cols esz p.1 p.2)
  let res := sel.map fun p =>
    let a := k.elem c.a cols esz false p.1 p.2
    let b := k.elem c.b cols esz false p.1 p.2
    let r : Bool × FFlags := match (vType c.op c.mod esz).1.bind fltOf with
      | some f => (vFltCond c.op).eval (f.value a) (f.value b)
      | none => (vIntCond c.op (intOf (8 * esz) (c.mod == 3) a) (intOf (8 * esz) (c.mod == 3) b), 0)
    (p.1 * cols + p.2, r)
  predResult c.d (k.rows * cols) (vTiming c.op k.rows).1 (res.map fun e => (e.1, e.2.1)) (res.foldl (fun f e => f ||| e.2.2) 0)

/-- TRAND.PRED (08 R218). -/
def Core.vRandPred (k : Core) (x : VCtx) (g : Pred) (c : ColWord) : Pending :=
  let w := max 1 (4 / k.esz)
  let n := k.rows * ((k.cols + w - 1) / w)
  let e := k.scalarHead (queueOf c.a)
  let bits := ((List.range n).filter fun l => g.getLsbD l).map fun l => (l, bitAt (x.draw e (l / 64)) (l % 64))
  predResult c.d n (vTiming c.op k.rows).1 bits 0

/-- One level of the pairwise tree (03 R90). -/
def treeLevel (f : Nat → Nat → Nat × FFlags) : List (Option Nat) → List (Option Nat) × FFlags
  | a :: b :: t =>
    let (r, fl) := treeLevel f t
    match a, b with
    | some x, some y => let (v, g) := f x y; (some v :: r, g ||| fl)
    | some x, none => (some x :: r, fl)
    | none, y => (y :: r, fl)
  | l => (l, 0)

/-- The pairwise tree over position index (03 R90); the number of levels bounds the recursion. -/
def pairwise (f : Nat → Nat → Nat × FFlags) : Nat → List (Option Nat) → Option Nat × FFlags
  | 0, l => (l.head?.getD none, 0)
  | n + 1, l =>
    if l.length ≤ 1 then (l.head?.getD none, 0)
    else
      let (l', fl) := treeLevel f l
      let (r, g) := pairwise f n l'
      (r, fl ||| g)

/-- The value of a reduction whose root is absent (08 R214). -/
def absentRoot (isMax : Bool) (mod : Nat) : Nat :=
  if !isMax then 0 else match mod with
    | 0 => 0xFF800000
    | 1 => 0xFFF0000000000000
    | 2 => 0x80000000
    | _ => 0

/-- A reduction (08 R214); a lone NaN is delivered canonical, as every NaN of a reduction (03 R72, R87). -/
def Core.vReduce (k : Core) (x : VCtx) (g : Pred) (c : ColWord) : Pending × Core :=
  let rows := k.rows
  let cols := k.cols
  let esz := k.esz
  let isMax := 0x39 ≤ c.op
  let byRow := c.op == 0x37 || c.op == 0x39
  let f := (vType c.op c.mod esz).1.bind fltOf
  let comb := fun (a b : Nat) => match f with
    | some fm => if isMax then fm.minmax true a b else fm.add (ovfFor x.ovf fm) (fm.value a) (fm.value b)
    | none => (vInt (if isMax then 0x1E else 0x18) (8 * esz) (c.mod == 3) a b, (0 : FFlags))
  let pos := fun (kk : Nat) => if byRow then (List.range cols).map fun j => (kk, j) else (List.range rows).map fun i => (i, kk)
  let outs := (List.range (if byRow then rows else cols)).map fun kk =>
    let l := (pos kk).map fun p => if g.getLsbD (laneOf cols esz p.1 p.2) then some (k.elem c.a cols esz false p.1 p.2) else none
    let (r, fl) := pairwise comb 8 l
    let (v, fr) := match f, r with
      | some fm, some v => fm.reduced v
      | _, _ => (r.getD (absentRoot isMax c.mod), 0)
    (kk, v, fl ||| fr)
  let els := outs.map fun e => ((if byRow then e.1 * cols else e.1) * esz, esz, e.2.1)
  let o := outs.map fun e => (e.1 * esz, esz, e.2.1)
  k.result false c.d (vType c.op c.mod esz).1 esz rows cols (vTiming c.op rows).1 els o (outs.foldl (fun f e => f ||| e.2.2) 0)

/-- A pending entry whose tile writes are of whole buffers (08 R215, R217). -/
def Pending.whole (p : Pending) : Pending :=
  { p with writes := p.writes.map fun w => { w with mask := BitVec.allOnes 32768 } }

/-- TTRANS (08 R215). -/
def Core.vTranspose (k : Core) (c : ColWord) : Pending × Core :=
  let rows := k.rows
  let cols := k.cols
  let esz := k.esz
  let els := (grid rows cols).map fun p => ((p.2 * rows + p.1) * esz, esz, k.elem c.a cols esz false p.1 p.2)
  let (p, k') := k.result false c.d (vType c.op c.mod esz).1 esz cols rows 20 els els 0
  (p.whole, k')

/-- The key of TCOMP (08 R217). -/
def compKey (mod v : Nat) : Nat := match mod with
  | 0 => v % 2 ^ 31
  | 1 => v % 2 ^ 15
  | 2 => v % 2 ^ 7
  | _ => (signedOf 8 v).natAbs

/-- The two positions that TCOMP keeps of four keys: the greatest, the lower winning a tie (08 R217). -/
def compKeep (keys : List Nat) : Nat × Nat :=
  let key := fun (p : Nat) => keys[p]?.getD 0
  let beats := fun (p q : Nat) => key q < key p || (key p == key q && p < q)
  let kept := [0, 1, 2, 3].filter fun p => ([0, 1, 2, 3].filter fun q => q != p && beats q p).length < 2
  (kept[0]?.getD 0, kept[1]?.getD 1)

/-- TCOMP: the compressed rows and the metadata land together (08 R217). -/
def Core.vCompress (k : Core) (c : ColWord) : Pending × Core :=
  let rows := k.rows
  let cols := k.cols
  let esz := k.esz
  let groups := (grid rows (cols / 4)).map fun p =>
    let a := fun (q : Nat) => k.elem c.a cols esz false p.1 (4 * p.2 + q)
    let kept := compKeep ([0, 1, 2, 3].map fun q => compKey c.mod (a q))
    (p, kept, a kept.1, a kept.2)
  let els := groups.flatMap fun e =>
    let at' := (e.1.1 * (cols / 2) + 2 * e.1.2) * esz
    [(at', esz, e.2.2.1), (at' + esz, esz, e.2.2.2)]
  let meta' := groups.foldl (fun acc e => acc ||| ((e.2.1.1 + 4 * e.2.1.2) <<< (4 * (e.1.1 * (cols / 4) + e.1.2)))) 0
  let ob := match specOf c.b with
    | .oent o => o
    | _ => 0
  let (p, k') := k.result false c.d (vType c.op c.mod esz).1 esz rows (cols / 2) 20 els els 0
  let aux := (List.range ((rows * cols + 1023) / 1024)).map fun m =>
    ({ dest := .oent (ob + m), value := BitVec.ofNat 32768 (meta' / 2 ^ (1024 * m) % 2 ^ 1024),
       mask := BitVec.ofNat 32768 (2 ^ 1024 - 1) } : PWrite)
  ({ p.whole with writes := p.whole.writes ++ aux }, k')

/-- A V operation at its issue: its pending entry if it has one, the core with its destination taken, and for TSHAPE the new
shape (08 R205, R219). The word is legal and has passed check 4. -/
def Core.vIssue (k : Core) (x : VCtx) (g : Pred) (c : ColWord) : List Pending × Core × Option Word :=
  let one := fun (r : Pending × Core) => ([r.1], r.2, (none : Option Word))
  if c.op = 0x3E then
    ([], k, some (BitVec.ofNat 64 ((c.a + 1) + (c.b + 1) * 256 + c.mod * 65536)))
  else if 0x28 ≤ c.op ∧ c.op ≤ 0x2E then ([k.vCompare g c], k, none)
  else if c.op = 0x3D ∧ c.mod = 2 then ([k.vRandPred x g c], k, none)
  else if c.op = 0x30 then one (k.vSelect g c)
  else if c.op = 0x34 then one (k.vTranspose c)
  else if c.op = 0x3C then one (k.vCompress c)
  else if 0x37 ≤ c.op ∧ c.op ≤ 0x3A then one (k.vReduce x g c)
  else one (k.vMap x g c)

end Sys2Proof.Machine
end

