-- ==== Sys2Proof/Machine/Mat.lean ====
section
/-! DEFINITION. The M column (09 R221 to R233; 03 R91 to R93): legality of a word, its checks at issue, what it computes. -/

namespace Sys2Proof.Machine

/-! ### Words (09 R221) -/

/-- The roles of the operands of an M opcode, none for an opcode that is illegal (06 R147). -/
def mRoles (op : Nat) : Option Roles := match op with
  | 1 => some ⟨.accDst, .srcTile, .srcTile⟩
  | 2 => some ⟨.accDst, .srcTile, .pair⟩
  | 3 => some ⟨.accDst, .zero, .imm⟩
  | 4 => some ⟨.dstRead, .accSrc, .imm⟩
  | 5 => some ⟨.accDst, .srcTile, .zero⟩
  | 6 => some ⟨.accDst, .accSrc, .zero⟩
  | _ => none

/-- Whether a specifier names a tile or a latch, whose format mod gives (06 R148). -/
def byMod (v : Nat) : Bool := match specOf v with
  | .tile _ => true
  | .latch _ => true
  | _ => false

/-- Check 2 of an M word that is not empty (06 R147, R148; 09 R221). -/
def mLegal (c : ColWord) : Bool :=
  match mRoles c.op with
  | none => false
  | some r =>
    r.ok c &&
    (c.op != 3 || c.b < 3) &&
    (c.op != 4 || (c.b % 8 == 0 && c.b / 8 < 14)) &&
    (c.mod == 0 || ((c.op == 1 || c.op == 2) && (byMod c.a || byMod c.b)) || (c.op == 5 && byMod c.a))

/-- The format that mod gives to a tile or latch source (06 R148). -/
def modFormat (mod : Nat) : Nat := match mod with
  | 0 => 1
  | 1 => 3
  | 2 => 0
  | _ => 4

/-! ### Format pairs (09 R223) -/

/-- The row of the table of R223 that a format belongs to: tag, ESZ, Kmax. -/
def pairClass (f : Nat) : Option (AccTag × Nat × Nat) :=
  if f = 4 ∨ f = 5 then some (.f32, 0, 128)
  else if f = 6 ∨ f = 7 then some (.i32, 0, 128)
  else if f = 2 ∨ f = 3 then some (.f32, 1, 32)
  else if f = 1 then some (.f32, 2, 8)
  else if f = 0 then some (.f64, 3, 16)
  else none

/-- The tag that a source format of MWR sets (09 R230). -/
def writeTag (f : Nat) : Option AccTag :=
  if f = 0 then some .f64 else if f < 6 then some .f32 else if f < 12 then some .i32 else none

/-- The columns of the grid of an accumulator (09 R222). -/
def AccTag.n (t : AccTag) : Nat := match t with
  | .f64 => 16
  | _ => 32

/-- The bytes of an element of an accumulator (02 R53). -/
def AccTag.size (t : AccTag) : Nat := match t with
  | .f64 => 8
  | _ => 4

/-- The format code of an accumulator's elements. -/
def AccTag.code (t : AccTag) : Nat := match t with
  | .f32 => 1
  | .i32 => 10
  | .f64 => 0

/-- The tag that the code of MZERO names (09 R221). -/
def zeroTag (b : Nat) : AccTag := match b with
  | 0 => .f32
  | 1 => .i32
  | _ => .f64

/-- The accumulator that a specifier names. -/
def accOf (v : Nat) : Nat := match specOf v with
  | .acc a => a
  | _ => 0

def Core.acc (k : Core) (a : Nat) : Acc := k.accs[a]?.getD { tag := .f32, buf := 0 }

/-- The sources of MMA, MMAS and MWR: the specifiers of A and then of B, a pair as two (09 R224). -/
def mSources (c : ColWord) : List Nat :=
  match c.op with
  | 1 => [c.a, c.b]
  | 2 => [c.a, c.b, c.b + 1]
  | 5 => [c.a]
  | _ => []

/-- The format of a source: by mod, or by the head entry's tag, none while the queue is empty or where the tag is a size
only; `queues` says whether queue entries count. -/
def Core.mFormat (k : Core) (c : ColWord) (queues : Bool) (v : Nat) : Option Nat :=
  match specOf v with
  | .queue q => if queues then (k.tileHead q).bind TEntry.fmt else none
  | _ => some (modFormat c.mod)

/-! ### Check 4 (09 R222, R223, R226, R230 to R233) -/

/-- The shape, format and accumulator-tag conditions that the formats known so far allow to be tested. -/
def Core.mConditions (k : Core) (c : ColWord) (queues : Bool) : Bool :=
  let rows := k.rows
  let fits := fun (t : AccTag) => t != .f64 || rows ≤ 16
  let fs := (mSources c).map (k.mFormat c queues)
  match c.op with
  | 3 => fits (zeroTag c.b)
  | 4 =>
    let t := (k.acc (accOf c.a)).tag
    let db := fmtSize (c.b / 8)
    let o := match specOf c.d with
      | .oent _ => true
      | _ => false
    fits t && rows * t.n * db ≤ 4096 && (!o || t.n * db ≤ 128)
  | 5 => fs.all fun f => match f with
    | none => !queues
    | some x => match writeTag x with
      | some t => fits t
      | none => false
  | 6 =>
    let t := (k.acc (accOf c.d)).tag
    t == (k.acc (accOf c.a)).tag && fits t
  | _ =>
    let t := (k.acc (accOf c.d)).tag
    fits t && (c.op != 2 || k.cols % 2 == 0) && (!queues || fs.all Option.isSome) &&
      (fs.all fun f => match f with
        | none => true
        | some x => match pairClass x with
          | none => false
          | some (tag, e, kmax) => tag == t && k.eszCode == e && k.cols ≤ kmax) &&
      (fs.all fun f => fs.all fun g => match f, g with
        | some x, some y => pairClass x == pairClass y
        | _, _ => true)

/-- The first check of an M word at its issue: what no queue entry decides, then free tiles (09 R233). -/
def Core.mCheck (k : Core) (c : ColWord) : Option ColFail :=
  if !k.mConditions c false then some .illop
  else ((mSources c).filterMap fun v => match specOf v with
    | .tile t => if k.tileFree t then some (.deadreg t) else none
    | _ => none).head?

/-- The scale of a B operand (09 R225). -/
def Core.mScaleB (k : Core) (v : Nat) : BitVec 32 :=
  match specOf v with
  | .queue q => match (k.tileHead q).map TEntry.scales with
    | some (.weight sb) => sb
    | _ => 0x3F800000
  | _ => 0x3F800000

/-- The scale of row i of an A operand (09 R225). -/
def Core.mScaleA (k : Core) (v i : Nat) : BitVec 32 :=
  match specOf v with
  | .queue q => match (k.tileHead q).map TEntry.scales with
    | some (.weight sb) => sb
    | some (.act rows) => rows[i]?.getD 0x3F800000
    | _ => 0x3F800000
  | _ => 0x3F800000

/-- The conditions that queue entries decide: formats, geometry, scales (09 R223 to R225, R230, R233). -/
def Core.mTags (k : Core) (c : ColWord) : Bool :=
  let geom := fun (v r cc : Nat) => match specOf v with
    | .queue q => match k.tileHead q with
      | some e => e.rows == r && e.cols == cc
      | none => false
    | _ => true
  let noAct := fun (v : Nat) => match specOf v with
    | .queue q => match (k.tileHead q).map TEntry.scales with
      | some (.act _) => false
      | _ => true
    | _ => true
  match c.op with
  | 5 =>
    let n := match (k.mFormat c true c.a).bind writeTag with
      | some t => t.n
      | none => 32
    k.mConditions c true && geom c.a k.rows n
  | 1 | 2 =>
    let n := (k.acc (accOf c.d)).tag.n
    let bs := (mSources c).drop 1
    k.mConditions c true && geom c.a k.rows k.cols && (bs.all fun v => geom v k.cols n && noAct v) &&
      (c.op != 2 || k.mScaleB c.b == k.mScaleB (c.b + 1))
  | _ => true

/-! ### Products (03 R91, R92) -/

/-- The term of one product: a NaN, an infinity times zero, an infinity, or an exact number. -/
inductive Term where
  | nan (signalling : Bool)
  | invalid
  | inf (neg : Bool)
  | fin (n : Bool) (m : Nat) (e : Int)
  deriving DecidableEq, Repr

def termOf (a b : FVal) : Term :=
  if a.isNan || b.isNan then .nan (a.isSnan || b.isSnan)
  else match mulExact a b with
    | none => .invalid
    | some (.inf n) => .inf n
    | some (.fin n m e) => .fin n m e
    | some (.nan s) => .nan s

/-- The exact sum of finite terms. -/
def termSum : List Term → FVal
  | [.fin n m e] => .fin n m e
  | .fin n m e :: t => match termSum t with
    | .fin n' m' e' => addFin n m e n' m' e'
    | v => v
  | _ => .fin false 0 0

/-- The addend t of R91 for one element, with its flags: `acc` the accumulator's format, `fp8` the scales of an FP8 pair. -/
def blockSum (acc : FFmt) (fp8 : Option (BitVec 32 × BitVec 32)) (ts : List Term) : Nat × FFlags :=
  let invalid := ts.contains .invalid || (ts.contains (.inf true) && ts.contains (.inf false))
  if invalid || ts.any (fun t => match t with
      | .nan _ => true
      | _ => false) then
    (acc.nanBits, if invalid || ts.contains (.nan true) then flagNV else 0)
  else if ts.contains (.inf false) then (acc.infBits, 0)
  else if ts.contains (.inf true) then (2 ^ (acc.width - 1) + acc.infBits, 0)
  else match fp8 with
    | none => acc.deliver .rne ovfIeee (termSum ts)
    | some (sa, sb) =>
      let (p, f1) := FFmt.fp32.deliver .rne ovfIeee (termSum ts)
      let (s, f2) := FFmt.fp32.mul ovfIeee (FFmt.fp32.value sa.toNat) (FFmt.fp32.value sb.toNat)
      let (t, f3) := FFmt.fp32.mul ovfIeee (FFmt.fp32.value p) (FFmt.fp32.value s)
      (t, f1 ||| f2 ||| f3)

/-- The buffer that a source of M names. -/
def Core.mBuf (k : Core) (v : Nat) : Buf := match specOf v with
  | .tile t => k.tileBuf t
  | .latch own => k.latch true own
  | .queue q => (k.tileHead q).map TEntry.data |>.getD 0
  | _ => 0

/-- The metadata of MMAS, read from o0 onwards (09 R228): nibble `q`. -/
def Core.nibble (k : Core) (q : Nat) : Nat := bufElem (k.ofile[q / 256]?.getD 0) (q % 256 / 2) 1 / 2 ^ (4 * (q % 2)) % 16

/-- The logical row of B that term c of row i uses (09 R224, R228). -/
def Core.mRow (k : Core) (c : ColWord) (i cc : Nat) : Nat :=
  if c.op = 2 then
    let nib := k.nibble (i * (k.cols / 2) + cc / 2)
    4 * (cc / 2) + (if cc % 2 = 0 then nib % 4 else nib / 4)
  else cc

/-- The selected elements of an M operation (09 R222). -/
def Core.mSel (k : Core) (g : Pred) (n : Nat) : List (Nat × Nat) := (grid k.rows n).filter fun p => g.getLsbD (p.1 * n + p.2)

/-- The encodings of A and of B under term cc of element (i, j), with their formats (09 R224, R228). -/
def Core.mPair (k : Core) (c : ColWord) (n s i j cc : Nat) : (Nat × Nat) × (Nat × Nat) :=
  let row := k.mRow c i cc
  let vb := if k.cols ≤ row then c.b + 1 else c.b
  let fmt := fun (v : Nat) => (k.mFormat c true v).getD 1
  ((fmt c.a, bufElem (k.mBuf c.a) ((i * k.cols + cc) * s) s), (fmt vb, bufElem (k.mBuf vb) ((row % k.cols * n + j) * s) s))

/-- The addend of element (i, j) of MMA or MMAS with its flags (03 R91, R92). -/
def Core.mElem (k : Core) (c : ColWord) (t : AccTag) (i j : Nat) : Nat × FFlags :=
  let fa := (k.mFormat c true c.a).getD 1
  let ps := (List.range k.cols).map (k.mPair c t.n (fmtSize fa) i j)
  match t with
  | .i32 => (wrapInt 32 (ps.foldl (fun acc p => acc + intOf 8 (codeUnsigned p.1.1) p.1.2 * intOf 8 (codeUnsigned p.2.1) p.2.2) 0), 0)
  | _ =>
    let val := fun (q : Nat × Nat) => match fltOf q.1 with
      | some f => f.value q.2
      | none => .fin false 0 0
    let acc := if t = .f64 then FFmt.fp64 else FFmt.fp32
    blockSum acc (if fa = 4 ∨ fa = 5 then some (k.mScaleA c.a i, k.mScaleB c.b) else none) (ps.map fun p => termOf (val p.1) (val p.2))

/-! ### Issue -/

/-- The landing offset and the occupancy of an M operation (06 R157). -/
def mTiming (op : Nat) : Nat × Nat := if op = 1 ∨ op = 2 then (36, 32) else (18, 16)

/-- MMA, MMAS and MACC: addends that are added at the landing (09 R227, R228, R231). -/
def Core.mAdd (k : Core) (g : Pred) (c : ColWord) : Pending × Core :=
  let d := accOf c.d
  let t := (k.acc d).tag
  let vals := (k.mSel g t.n).map fun p =>
    let n := p.1 * t.n + p.2
    (n, if c.op = 6 then (bufElem (k.acc (accOf c.a)).buf (n * t.size) t.size, 0) else k.mElem c t p.1 p.2)
  let (add, _) := bufWrite (vals.map fun e => (e.1 * t.size, t.size, e.2.1))
  ({ left := (mTiming c.op).1, writes := [], accum := some { acc := d, tag := t, addend := add, elems := vals.map Prod.fst },
     flags := vals.foldl (fun f e => f ||| e.2.2) 0, clear := 0, fromX := false }, k)

/-- MZERO and MWR: the tag changes at issue; elements are written at the landing, all of them if the tag changed
(09 R226, R229, R230). -/
def Core.mSet (k : Core) (g : Pred) (c : ColWord) : Pending × Core :=
  let d := accOf c.d
  let fa := (k.mFormat c true c.a).getD 1
  let t := if c.op = 3 then zeroTag c.b else (writeTag fa).getD .f32
  let s := fmtSize fa
  let vals := (k.mSel g t.n).map fun p =>
    let n := p.1 * t.n + p.2
    let raw := bufElem (k.mBuf c.a) (n * s) s
    (n, if c.op = 3 then (0, 0) else if fa = 11 then (raw, 0) else convert fa t.code .rne 0 raw)
  let (val, mask) := bufWrite (vals.map fun e => (e.1 * t.size, t.size, e.2.1))
  let mask := if (k.acc d).tag = t then mask else BitVec.allOnes 32768
  ({ left := (mTiming c.op).1, writes := [{ dest := .acc d, value := val, mask := mask }, { dest := .mlat, value := val, mask := mask }],
     accum := none, flags := vals.foldl (fun f e => f ||| e.2.2) 0, clear := 0, fromX := false },
   { k with accs := k.accs.setIfInBounds d { k.acc d with tag := t } })

/-- MRD (09 R232). -/
def Core.mRead (k : Core) (ovf : Word) (g : Pred) (c : ColWord) : Pending × Core :=
  let a := k.acc (accOf c.a)
  let n := a.tag.n
  let dc := c.b / 8
  let db := fmtSize dc
  let vals := (k.mSel g n).map fun p => (p, convert a.tag.code dc .rne ovf (bufElem a.buf ((p.1 * n + p.2) * a.tag.size) a.tag.size))
  let els := vals.map fun e => ((e.1.1 * n + e.1.2) * db, db, e.2.1)
  let o := (vals.filter fun e => e.1.1 == 0).map fun e => (e.1.2 * db, db, e.2.1)
  k.result true c.d (some dc) db k.rows n (mTiming c.op).1 els o (vals.foldl (fun f e => f ||| e.2.2) 0)

/-- An M operation at its issue. The word is legal and has passed check 4. -/
def Core.mIssue (k : Core) (ovf : Word) (g : Pred) (c : ColWord) : Pending × Core :=
  match c.op with
  | 3 => k.mSet g c
  | 4 => k.mRead ovf g c
  | 5 => k.mSet g c
  | _ => k.mAdd g c

end Sys2Proof.Machine
end

