-- ==== Sys2Proof/Machine/Bundle.lean ====
section
/-! DEFINITION. The bundles of C: checks, freezes and issue (06 R144 to R157, 01 R21 to R23), and the landing of pending
results (02 R65). -/

namespace Sys2Proof.Machine

/-! ### Check 2 (06 R142, R144, R149, R154, R155) -/

/-- Whether a word is in the X subset and names what C may name (06 R149; 02 R45, R59, R66). -/
def xLegal (i : Instr) : Bool := match i with
  | .nop | .exit | .phase | .step => true
  | .add _ _ _ _ | .sub _ _ _ _ | .and _ _ _ _ | .or _ _ _ _ | .xor _ _ _ _ | .andn _ _ _ _ | .shl _ _ _ _ | .shr _ _ _ _ => true
  | .sar _ _ _ _ | .rot _ _ _ _ | .mul _ _ _ _ | .mulh _ _ _ _ | .mulhu _ _ _ _ | .div _ _ _ _ | .divu _ _ _ _ => true
  | .rem _ _ _ _ | .remu _ _ _ _ | .min _ _ _ _ | .max _ _ _ _ | .minu _ _ _ _ | .maxu _ _ _ _ | .adds _ _ _ _ => true
  | .subs _ _ _ _ | .clz _ _ _ | .popc _ _ _ | .sext _ _ _ | .zext _ _ _ => true
  | .addi _ _ _ | .andi _ _ _ | .ori _ _ _ | .xori _ _ _ | .shli _ _ _ _ | .shri _ _ _ _ | .sari _ _ _ _ | .roti _ _ _ _ => true
  | .li _ _ | .lis _ _ | .cmp _ _ _ _ _ | .cmpi _ _ _ _ | .pand _ _ _ | .por _ _ _ | .pxor _ _ _ | .pandn _ _ _ => true
  | .pnot _ _ | .pmov _ _ | .pset _ | .pclr _ | .sel _ _ _ _ | .lpset _ _ _ | .lpseti _ _ _ => true
  | .shapeWrite _ | .fpflagsClear _ | .loopRegisterWrite _ _ | .walWrite _ _ => true
  | .rdctl _ c =>
    let n := c.toNat
    n ≤ 6 || (8 ≤ n && n ≤ 0xA) || (0x10 ≤ n && n ≤ 0x15) || (0x20 ≤ n && n ≤ 0x29) || (0x30 ≤ n && n ≤ 0x40) ||
      (0x50 ≤ n && n ≤ 0x53) || n == 0x60
  | .wrctl _ c => c.toNat == 8 || c.toNat == 0x20 || (0x22 ≤ c.toNat && c.toNat ≤ 0x29)
  | _ => false

/-- Whether an X instruction makes the bundle a boundary bundle (06 R149). -/
def xBoundary (i : Instr) : Bool := match i with
  | .phase | .step | .exit => true
  | _ => false

/-- The X word as an instruction. -/
def xInstr (x : BitVec 32) : Option Instr := (decodeWord x.toNat 0).filter xLegal

/-- The guard fields of a header: predicate and inversion of M, V and X (06 R144). -/
def guardM (h : BitVec 32) : Nat × Bool := (bitsAt h 14 7, bitAt h 23)
def guardV (h : BitVec 32) : Nat × Bool := (bitsAt h 7 7, bitAt h 22)
def guardX (h : BitVec 32) : Nat × Bool := (bitsAt h 0 7, bitAt h 21)

/-- Whether a guard may stand with its column (06 R144). -/
def guardLegal (g : Nat × Bool) (empty : Bool) : Bool := if g.1 = 127 then !g.2 else g.1 < 96 && !empty

/-- Whether the end flags of a header are those that the active loops ask for at this bundle (06 R142). -/
def Strand.flagsLegal (st : Strand) (h : BitVec 32) : Bool :=
  bitAt h 25 == (st.lp1.active && st.lp1.le == st.pc) && bitAt h 24 == (st.lp0.active && st.lp0.le == st.pc)

/-- Check 2 of a bundle: the lowest word that fails, with its bits (06 R154, R155). -/
def Strand.bundleFault (st : Strand) (h m v x : BitVec 32) : Option (Nat × BitVec 32) :=
  let xi := xInstr x
  let boundary := (xi.map xBoundary).getD false
  let writesShape := match xi with
    | some (.shapeWrite _) => true
    | _ => false
  let vc := colWord v
  if !(guardLegal (guardM h) (m == 0) && guardLegal (guardV h) (v == 0) && guardLegal (guardX h) (x == 0) && st.flagsLegal h) then
    some (0, h)
  else if m != 0 && (boundary || !mLegal (colWord m)) then some (1, m)
  else if v != 0 && (boundary || !vLegal vc (guardV h).1 || (vc.op == 0x3E && writesShape)) then some (2, v)
  else if xi.isNone then some (3, x)
  else none

/-! ### Occupancy and check 4 (06 R150, R151; 08 R204; 09 R233) -/

/-- The results of a bundle that take an entry of the pending-write queue (06 R151). -/
def bundleResults (m v : BitVec 32) : Nat := (if m = 0 then 0 else 1) + (if v = 0 ∨ (colWord v).op = 0x3E then 0 else 1)

/-- Whether the columns are free and the pending-write queue has room (06 R149, R150). -/
def Core.roomFor (k : Core) (m v : BitVec 32) (boundary : Bool) : Bool :=
  (m == 0 || k.mBusy == 0) && (v == 0 || k.vBusy == 0) &&
  (k.pwq.filter fun p => !p.fromX).length + bundleResults m v ≤ 16 &&
  (!boundary || (k.mBusy == 0 && k.vBusy == 0 && k.pwq.isEmpty))

/-- The queues that a bundle reads, M's first. -/
def bundleReads (m v : BitVec 32) : List Nat :=
  (match mRoles (colWord m).op with
    | some r => r.reads (colWord m)
    | none => []) ++
  (match vRoles (colWord v).op (colWord v).mod with
    | some r => r.reads (colWord v)
    | none => [])

/-- The queues that a bundle writes, once for each column that writes it. -/
def bundleWrites (m v : BitVec 32) : List Nat :=
  (match mRoles (colWord m).op with
    | some r => r.writesQueue (colWord m)
    | none => []) ++
  (match vRoles (colWord v).op (colWord v).mod with
    | some r => r.writesQueue (colWord v)
    | none => [])

/-- The tile registers that a bundle frees. -/
def bundleFrees (m v : BitVec 32) : List Nat :=
  (match mRoles (colWord m).op with
    | some r => r.frees (colWord m)
    | none => []) ++
  (match vRoles (colWord v).op (colWord v).mod with
    | some r => r.frees (colWord v)
    | none => [])

/-- The tile registers that a bundle writes. -/
def bundleTiles (m v : BitVec 32) : List Nat :=
  let one := fun (r : Option Roles) (c : ColWord) => match r with
    | some r => if r.d.isDest then match specOf c.d with
        | .tile t => [t]
        | _ => []
      else []
    | none => []
  one (mRoles (colWord m).op) (colWord m) ++ one (vRoles (colWord v).op (colWord v).mod) (colWord v)

/-- The tile registers that a bundle both frees and writes: freed once every read has been made, they are allocated anew by the
write (02 R51). -/
def bundleRenews (m v : BitVec 32) : List Nat := (bundleFrees m v).eraseDups.filter fun t => (bundleTiles m v).contains t

/-- The entries of a queue of either kind, and its depth (02 R56). -/
def Core.queueUse (k : Core) (q : Nat) : Nat × Nat :=
  if q < 12 then ((k.tqueue q).ents.length, tileDepth) else ((k.squeue q).ents.length, scalarDepth)

def Core.queueClosed (k : Core) (q : Nat) : Bool := if q < 12 then (k.tqueue q).closed else (k.squeue q).closed

/-- TVAL of QCLOSED for a queue of a bundle (12 R304). -/
def Core.closedVal (k : Core) (q : Nat) : Word :=
  if q < 12 then queueVal false q (k.tqueue q).tail (k.tqueue q).head else queueVal false q (k.squeue q).tail (k.squeue q).head

/-- The head of a read queue advances once (02 R57). -/
def Core.popQueue (k : Core) (q : Nat) : Core :=
  if q < 12 then k.setTqueue q { k.tqueue q with head := (k.tqueue q).head + 1, ents := (k.tqueue q).ents.tail }
  else k.setSqueue q { k.squeue q with head := (k.squeue q).head + 1, ents := (k.squeue q).ents.tail }

/-! ### The X column -/

/-- The meaning of an instruction of the X subset. -/
def execX (i : Instr) (s : State) : Host.Outcome State Fault Refusal := match i with
  | .add d a b w => execAdd d a b w s
  | .sub d a b w => execSub d a b w s
  | .and d a b w => execAnd d a b w s
  | .or d a b w => execOr d a b w s
  | .xor d a b w => execXor d a b w s
  | .andn d a b w => execAndn d a b w s
  | .shl d a b w => execShl d a b w s
  | .shr d a b w => execShr d a b w s
  | .sar d a b w => execSar d a b w s
  | .rot d a b w => execRot d a b w s
  | .mul d a b w => execMul d a b w s
  | .mulh d a b w => execMulh d a b w s
  | .mulhu d a b w => execMulhu d a b w s
  | .div d a b w => execDiv d a b w s
  | .divu d a b w => execDivu d a b w s
  | .rem d a b w => execRem d a b w s
  | .remu d a b w => execRemu d a b w s
  | .min d a b w => execMin d a b w s
  | .max d a b w => execMax d a b w s
  | .minu d a b w => execMinu d a b w s
  | .maxu d a b w => execMaxu d a b w s
  | .adds d a b w => execAdds d a b w s
  | .subs d a b w => execSubs d a b w s
  | .clz d a w => execClz d a w s
  | .popc d a w => execPopc d a w s
  | .sext d a k => execSext d a k s
  | .zext d a k => execZext d a k s
  | .addi d a i => execAddi d a i s
  | .andi d a i => execAndi d a i s
  | .ori d a i => execOri d a i s
  | .xori d a i => execXori d a i s
  | .shli d a w n => execShli d a w n s
  | .shri d a w n => execShri d a w n s
  | .sari d a w n => execSari d a w n s
  | .roti d a w n => execRoti d a w n s
  | .li d i => execLi d i s
  | .lis d i => execLis d i s
  | .cmp p a b c w => execCmp p a b c w s
  | .cmpi p a c i => execCmpi p a c i s
  | .pand d a b => execPand d a b s
  | .por d a b => execPor d a b s
  | .pxor d a b => execPxor d a b s
  | .pandn d a b => execPandn d a b s
  | .pnot d a => execPnot d a s
  | .pmov d a => execPmov d a s
  | .pset d => execPset d s
  | .pclr d => execPclr d s
  | .sel d a b p => execSel d a b p s
  | .lpset l c e => execLpset l c e s
  | .lpseti l c e => execLpseti l c e s
  | .rdctl d c => execRdctl d c s
  | .shapeWrite a => execShapeWrite a s
  | .fpflagsClear a => execFpflagsClear a s
  | .loopRegisterWrite a k => execLoopRegisterWrite a k s
  | .walWrite a n => execWalWrite a n s
  | .wrctl a c => execWrctl a c s
  | .exit => execExit s
  | .phase => execPhase s
  | .step => execStep s
  | _ => .next s

/-- The predicate that an X instruction writes. -/
def xPred (i : Instr) : Option PReg := match i with
  | .cmp p _ _ _ _ => some p
  | .cmpi p _ _ _ => some p
  | .pand d _ _ => some d
  | .por d _ _ => some d
  | .pxor d _ _ => some d
  | .pandn d _ _ => some d
  | .pnot d _ => some d
  | .pmov d _ => some d
  | .pset d => some d
  | .pclr d => some d
  | _ => none

/-- Whether the X column performs its instruction (06 R144). -/
def Strand.xOn (st : Strand) (h : BitVec 32) : Bool := (st.guard (guardX h).1 (guardX h).2).getLsbD 0

/-- The state after the X column alone; it traps or takes effect at once, but for what `Core.defer` holds back. -/
def State.afterX (s : State) (st : Strand) (h x : BitVec 32) : State :=
  match xInstr x with
  | none => s
  | some i => if st.xOn h then match execX i s with
      | .next t => t
      | _ => s
    else s

/-- What lands at c+1 of an X instruction: its predicate, the FPFLAGS bits that it clears (06 R157, 02 R65). -/
def Strand.xPending (st after : Strand) (h x : BitVec 32) : List Pending :=
  let one := fun (ws : List PWrite) (c : FFlags) =>
    ([{ left := 1, writes := ws, accum := none, flags := 0, clear := c, fromX := true }] : List Pending)
  if !st.xOn h then [] else match xInstr x with
    | some (.fpflagsClear a) => one [] ((st.rx a).setWidth 5)
    | some i => match xPred i with
      | some p => one [{ dest := .pred p.toNat, value := BitVec.ofNat 32768 (after.p[p.toNat]?.getD 0).toNat,
                         mask := BitVec.ofNat 32768 (2 ^ 1024 - 1) }] 0
      | none => []
    | none => []

/-! ### Issue (06 R150) -/

/-- What becomes of a bundle in a cycle. -/
inductive BundleAct where
  | wait
  | illop (word : Nat) (bits : BitVec 32)
  | dead (t : Nat)
  | closed (q : Nat)
  | freeze
  | trap (t : State)
  | issue (t : State)

/-- A failed check of a column. -/
def ColFail.act (f : ColFail) (word : Nat) (bits : BitVec 32) : BundleAct := match f with
  | .illop => .illop word bits
  | .deadreg t => .dead t

/-- The decision of R150 for the bundle of C strand `st` of core `k`: M and V are examined first, with the freeze and the tags that
their queues bring, then X (08 R204; DEDUCED, log entry 20). -/
def State.bundlePlan (s : State) (st : Strand) (k : Core) (h m v x : BitVec 32) : BundleAct :=
  let reads := bundleReads m v
  let writes := bundleWrites m v
  if k.sinceIssue < 1 + bitsAt h 26 6 then .wait
  else match st.bundleFault h m v x with
  | some (w, bits) => .illop w bits
  | none =>
    if !k.roomFor m v (((xInstr x).map xBoundary).getD false) then .wait
    else match if m = 0 then none else k.mCheck (colWord m) with
    | some f => f.act 1 m
    | none => match if v = 0 then none else k.vCheck (colWord v) with
      | some f => f.act 2 v
      | none => match reads.find? fun q => (k.queueUse q).1 == 0 && k.queueClosed q with
        | some q => .closed q
        | none =>
          if reads.any (fun q => (k.queueUse q).1 == 0) ||
              writes.any (fun q => (k.queueUse q).2 < (k.queueUse q).1 + writes.count q) then .freeze
          else if m != 0 && !k.mTags (colWord m) then .illop 1 m
          else if v != 0 && !k.vTags (colWord v) then .illop 2 v
          else
            let t := { s with trapped := false }.afterX st h x
            if t.trapped then .trap t else .issue t

/-- What the V column of core `k` needs of its rank. -/
def State.vctx (s : State) (vr : Nat) : VCtx := match s.rank? vr with
  | some r => { ovf := r.ovfForce, jobseed := r.jobseed, vr := vr, stepno := r.stepno }
  | none => { ovf := 0, jobseed := 0, vr := vr, stepno := 0 }

/-- The M and V columns of a bundle that issues, with the guards, operands and shape of the cycle: the core with its
destinations taken, the pending entries, the new SHAPE if TSHAPE sets one, the occupancies of M and V. -/
def Core.issueColumns (k : Core) (x : VCtx) (h m v : BitVec 32) : Core × List Pending × Option Word × Nat × Nat :=
  let gm := k.c.guard (guardM h).1 (guardM h).2
  let gv := k.c.guard (guardV h).1 (guardV h).2
  let (pm, k1) := if m = 0 then ([], k) else
    let (p, k1) := k.mIssue x.ovf gm (colWord m)
    ([p], k1)
  let (pv, k2, shape) := if v = 0 then ([], k1, none) else k1.vIssue x gv (colWord v)
  (k2, pm ++ pv, shape, if m = 0 then k.mBusy else (mTiming (colWord m).op).2, if v = 0 then k.vBusy else (vTiming (colWord v).op k.rows).2)

/-- Tile registers that the bundle renews take a new allocation; their old values stand until the bundle has read them. -/
def Core.renew (k : Core) (ts : List Nat) : Core :=
  ts.foldl (fun k t => { k with
    tiles := k.tiles.setIfInBounds t ((k.tiles[t]?.getD none).map fun x => { x with alloc := k.nextId })
    nextId := k.nextId + 1 }) k

/-- The tiles once the bundle has read: a freed register is free, a renewed one holds a buffer of zeros (02 R51). -/
def freeTiles (ts : Vector (Option Tile) 16) (frees renews : List Nat) : Vector (Option Tile) 16 :=
  frees.foldl (fun ts t => ts.setIfInBounds t
    (if renews.contains t then (ts[t]?.getD none).map fun x => { x with buf := 0 } else none)) ts

/-- The core of a bundle that has issued: `k` before, `after` with what the X column did. X writes no queue, tile or
accumulator; its predicate and its clearing of FPFLAGS land at c+1, its SHAPE is in force from c+1 (06 R157, 02 R50, R57). -/
def Core.issued (k after : Core) (x : VCtx) (h m v xw : BitVec 32) : Core :=
  let renews := bundleRenews m v
  let (k2, ps, shape, mb, vb) := (k.renew renews).issueColumns x h m v
  let k3 := (bundleReads m v).eraseDups.foldl Core.popQueue k2
  let tiles := freeTiles k3.tiles (bundleFrees m v) renews
  let c := after.c
  let c := { c with p := k.c.p, fpflags := k.c.fpflags }
  let c := if c.wait.isSome || c.ended || c.pc != k.c.pc then c else c.advance 16
  { after with
    c := c
    shape := shape.getD after.shape
    tiles := tiles
    accs := k3.accs
    tq := k3.tq
    sq := k3.sq
    nextId := k3.nextId
    pwq := k.pwq ++ ps ++ k.c.xPending after.c h xw
    mBusy := mb
    vBusy := vb
    sinceIssue := 0
    frozen := false }

/-- BUNDLE_ISSUE: the bundle of the acting C strand waits, traps, freezes the pipeline or issues whole (06 R150). DESIGN CHOICE (log
entry 44): DELAY of the first bundle of a handler counts from the last bundle that issued, not from the one that trapped. -/
def execBundleIssue (h m v x : BitVec 32) (s : State) : Host.Outcome State Fault Refusal :=
  let s := { s with cur := { s.cur with strand := .c } }
  match s.core? s.cur with
  | none => .fault .noStrand
  | some k =>
    let st := k.c
    .next (match s.bundlePlan st k h m v x with
      | .wait => s
      | .illop w bits => s.trap st 1 (tvalWord w bits)
      | .dead t => s.trap st 3 (BitVec.ofNat 64 t)
      | .closed q => s.trap st 6 (k.closedVal q)
      | .freeze => s.modCore s.cur fun k => { k with frozen := true }
      | .trap t => t
      | .issue t => t.modCore s.cur fun after => k.issued after (s.vctx s.cur.vr) h m v x)

/-! ### Landing (02 R65) -/

/-- One write of a pending entry lands (02 R57, R65; 08 R201). -/
def Core.landWrite (k : Core) (w : PWrite) : Core :=
  match w.dest with
  | .tile r a => match k.tiles[r]?.getD none with
    | some t => if t.alloc = a then { k with tiles := k.tiles.setIfInBounds r (some { t with buf := bufMerge t.buf w.value w.mask }) } else k
    | none => k
  | .acc a => { k with accs := k.accs.setIfInBounds a { k.acc a with buf := bufMerge (k.acc a).buf w.value w.mask } }
  | .oent i =>
    let e := (bufMerge ((k.ofile[i]?.getD 0).setWidth 32768) w.value w.mask).setWidth 1024
    { k with ofile := k.ofile.setIfInBounds i e }
  | .pred i =>
    let e := (bufMerge ((k.c.p[i]?.getD 0).setWidth 32768) w.value w.mask).setWidth 1024
    { k with c := { k.c with p := k.c.p.setIfInBounds i e } }
  | .tqueue q id =>
    k.setTqueue q { k.tqueue q with
      ents := (k.tqueue q).ents.map fun e => if e.id = id then { e with landed := true, data := w.value } else e }
  | .squeue q id =>
    k.setSqueue q { k.squeue q with
      ents := (k.squeue q).ents.map fun e => if e.id = id then { e with landed := true, data := w.value.setWidth 64 } else e }
  | .vlat => { k with vlat := bufMerge k.vlat w.value w.mask }
  | .mlat => { k with mlat := bufMerge k.mlat w.value w.mask }

/-- The addition into an accumulator as it stands at the landing, and its flags (09 R227, R231; 03 R91, R92). -/
def Core.landAdd (k : Core) (a : PAccum) : Core × FFlags :=
  let s := a.tag.size
  let vals := a.elems.map fun n =>
    let old := bufElem (k.acc a.acc).buf (n * s) s
    let t := bufElem a.addend (n * s) s
    let r : Nat × FFlags := match a.tag with
      | .i32 => ((old + t) % 2 ^ 32, 0)
      | .f32 => FFmt.fp32.add ovfIeee (FFmt.fp32.value old) (FFmt.fp32.value t)
      | .f64 => FFmt.fp64.add ovfIeee (FFmt.fp64.value old) (FFmt.fp64.value t)
    (n, r)
  let (val, mask) := bufWrite (vals.map fun e => (e.1 * s, s, e.2.1))
  ((k.landWrite { dest := .acc a.acc, value := val, mask := mask }).landWrite { dest := .mlat, value := val, mask := mask },
   vals.foldl (fun f e => f ||| e.2.2) 0)

/-- A pending entry lands: its writes, its addition, its flags. -/
def Core.landEntry (k : Core) (p : Pending) : Core :=
  let k := p.writes.foldl Core.landWrite k
  let (k, f) := match p.accum with
    | some a => k.landAdd a
    | none => (k, 0)
  { k with c := { k.c with fpflags := (k.c.fpflags ||| f ||| p.flags) &&& ~~~p.clear } }

/-- The oldest entry whose offset has reached zero lands. -/
def Core.landOne (k : Core) : Core :=
  match k.pwq.find? fun p => p.left == 0 with
  | some p => ({ k with pwq := k.pwq.erase p } : Core).landEntry p
  | none => k

/-- PENDING_WRITE_LAND: the oldest entry of a core whose offset has reached zero lands (02 R65). -/
def execPendingWriteLand (r : SRef) (s : State) : Host.Outcome State Fault Refusal := .next (s.modCore r Core.landOne)

/-! ### The clock edge of the pipeline (01 R21, R22) -/

/-- A compute-strand cycle passes: offsets, occupancies and the delay count move. -/
def Core.tick (k : Core) : Core :=
  { k with
    pwq := k.pwq.map fun p => { p with left := p.left - 1 }
    vBusy := k.vBusy - 1
    mBusy := k.mBusy - 1
    sinceIssue := min 64 (k.sinceIssue + 1)
    frozen := false }

/-- The core after a compute-strand cycle with what lands in it. -/
def Core.ticked (k : Core) : Core := (List.range 48).foldl (fun k _ => Core.landOne k) k.tick

end Sys2Proof.Machine
end

