-- ==== Sys2Proof/Machine/Translate.lean ====
section
/-! DEFINITION. The load-time translator of portable code (17 R434, R435): the checks of compute records, their packing into bundles with
DELAY and the loop end flags. Its output is a function of the records alone. -/

namespace Sys2Proof.Machine

/-! ### Compute records (17 R435) -/

/-- A place that holds the result of a record: a tile, an accumulator, an o-entry, a latch, a predicate, a scalar register. -/
inductive Loc where
  | tile (n : Nat)
  | acc (n : Nat)
  | oent (n : Nat)
  | latch (isM : Bool)
  | pred (n : Nat)
  | xreg (n : Nat)
  deriving DecidableEq, Repr

/-- The places that an operand names in a column; queues are not results of records. -/
def locsOf (isM pair : Bool) (v : Nat) : List Loc := match specOf v with
  | .tile t => if pair then [.tile t, .tile (t + 1)] else [.tile t]
  | .acc a => [.acc a]
  | .oent i => [.oent i]
  | .latch own => [.latch (isM == own)]
  | _ => []

/-- What an operand of a role reads. -/
def Role.locs (r : Role) (isM : Bool) (v : Nat) : List Loc := if r.isSource || r == .oent then locsOf isM (r == .pair) v else []

/-- What an M or V word reads and writes. A product, TFMA and an accumulator's addition also read their destination, MMAS the
metadata in o0. -/
def colUses (isM : Bool) (c : ColWord) : List Loc × List Loc :=
  match if isM then mRoles c.op else vRoles c.op c.mod with
  | none => ([], [])
  | some r =>
    let keeps := if isM then c.op == 1 || c.op == 2 || c.op == 6 else c.op == 4 || c.op == 5
    let dst : List Loc := if r.d.isDest then locsOf isM false c.d else if r.d = .pred then [.pred c.d] else []
    let lat : List Loc := if r.d.isDest then [.latch isM] else []
    (r.a.locs isM c.a ++ r.b.locs isM c.b ++ (if keeps then dst else []) ++ (if isM && c.op == 2 then [.oent 0] else []), dst ++ lat)

/-- What an X instruction reads and writes; x0 holds no result. -/
def xUses (i : Instr) : List Loc × List Loc :=
  let x := fun (l : List XReg) => ((l.filter fun r => r != 0).map fun r => Loc.xreg r.toNat)
  let p := fun (l : List PReg) => l.map fun r => Loc.pred r.toNat
  match i with
  | .add d a b _ | .sub d a b _ | .and d a b _ | .or d a b _ | .xor d a b _ | .andn d a b _ | .shl d a b _ | .shr d a b _
  | .sar d a b _ | .rot d a b _ | .mul d a b _ | .mulh d a b _ | .mulhu d a b _ | .div d a b _ | .divu d a b _ | .rem d a b _
  | .remu d a b _ | .min d a b _ | .max d a b _ | .minu d a b _ | .maxu d a b _ | .adds d a b _ | .subs d a b _ => (x [a, b], x [d])
  | .clz d a _ | .popc d a _ | .sext d a _ | .zext d a _ | .addi d a _ | .andi d a _ | .ori d a _ | .xori d a _ | .shli d a _ _
  | .shri d a _ _ | .sari d a _ _ | .roti d a _ _ => (x [a], x [d])
  | .li d _ | .rdctl d _ => ([], x [d])
  | .lis d _ => (x [d], x [d])
  | .cmp q a b _ _ => (x [a, b], p [q])
  | .cmpi q a _ _ => (x [a], p [q])
  | .pand d a b | .por d a b | .pxor d a b | .pandn d a b => (p [a, b], p [d])
  | .pnot d a | .pmov d a => (p [a], p [d])
  | .pset d | .pclr d => ([], p [d])
  | .sel d a b q => (x [a, b] ++ p [q], x [d])
  | .lpset _ c _ => (x [c], [])
  | .shapeWrite a | .fpflagsClear a | .loopRegisterWrite a _ | .walWrite a _ | .wrctl a _ => (x [a], [])
  | _ => ([], [])

/-- What a record reads, guard included, and writes; none when its word, its column or its guard is illegal (06 R154). -/
def recordUses (r : BitVec 128) : Option (List Loc × List Loc) :=
  let w : BitVec 32 := r.extractLsb' 0 32
  let g := bitsAt r 35 7
  let c := colWord w
  let guard : List Loc := if g = 127 then [] else [.pred g]
  let u := match bitsAt r 32 2 with
    | 1 => if w = 0 || mLegal c then some (colUses true c) else none
    | 2 => if w = 0 || vLegal c g then some (colUses false c) else none
    | 3 => (xInstr w).map xUses
    | _ => none
  if !guardLegal (g, bitAt r 34) (w == 0) then none else u.map fun q => (guard ++ q.1, q.2)

/-- Whether every record of a program is legal and names the nearest earlier record that writes each place it reads; `past` are
the places that earlier records write, the nearest first (17 R435). -/
def recordsLegal : List (List Loc) → List (BitVec 128) → Bool
  | _, [] => true
  | past, r :: rest => match recordUses r with
    | none => false
    | some (reads, writes) =>
      let names := (List.range 4).map fun k => bitsAt r (64 + 16 * k) 16
      (reads.all fun l => match (List.range past.length).find? fun i => (past[i]?.getD []).contains l with
        | some i => names.contains (i + 1)
        | none => true) && recordsLegal (writes :: past) rest

/-! ### Records in columns (17 R434) -/

/-- The column, the word and the guard field of a record. -/
def recCol (r : BitVec 128) : Nat := bitsAt r 32 2
def recWord (r : BitVec 128) : BitVec 32 := r.extractLsb' 0 32
def recGuard (r : BitVec 128) : Nat × Bool := (bitsAt r 35 7, bitAt r 34)

/-- The M and V words that a record gives a bundle. -/
def recM (r : BitVec 128) : BitVec 32 := if recCol r = 1 then recWord r else 0
def recV (r : BitVec 128) : BitVec 32 := if recCol r = 2 then recWord r else 0

/-- The cycles from the issue of a record to the landing of its results, under the shape for which that is longest (08 R200; 09 R231; 06
R157). -/
def recLatency (r : BitVec 128) : Nat :=
  if recWord r = 0 then 1
  else if recCol r = 1 then (mTiming (colWord (recWord r)).op).1
  else if recCol r = 2 then (vTiming (colWord (recWord r)).op 32).1
  else 1

/-- Whether a record stands in a bundle of its own: it writes SHAPE, or its X instruction does more than write registers (02 R50, 06
R149). -/
def recAlone (r : BitVec 128) : Bool :=
  if recCol r = 3 then match (xInstr (recWord r)).map xUses with
    | some (_, w) => w.isEmpty || match xInstr (recWord r) with
      | some (.rdctl _ _) => true
      | _ => false
    | none => true
  else recCol r == 2 && (colWord (recWord r)).op == 0x3E

/-- Whether a record may issue in the same cycle as earlier ones: its column is free there, it needs no result of theirs, writes no place
that they write, and touches no queue that they touch (17 R434). -/
def canJoin (g : List (BitVec 128)) (r : BitVec 128) : Bool :=
  let (reads, writes) := (recordUses r).getD ([], [])
  let freed := fun (x : BitVec 128) => (bundleFrees (recM x) (recV x)).map Loc.tile
  let queues := fun (x : BitVec 128) => bundleReads (recM x) (recV x) ++ bundleWrites (recM x) (recV x)
  !recAlone r && g.all fun x =>
    let w := ((recordUses x).getD ([], [])).2 ++ freed x
    !recAlone x && recCol x != recCol r && !((reads ++ writes ++ freed r).any w.contains) && !((queues r).any (queues x).contains)

/-! ### Loops (06 R142; 07 R171) -/

/-- The loop and the end field of a record that starts a loop. The field counts records (log entry 10). -/
def recLoop (r : BitVec 128) : Option (Bool × Nat) :=
  if recCol r ≠ 3 then none else match xInstr (recWord r) with
    | some (.lpset l _ e) => some (l, e.toNat)
    | some (.lpseti l _ e) => some (l, e.toNat)
    | _ => none

/-- Whether the body of a loop `l` ends with record `i`. -/
def endsLoop (rs : List (BitVec 128)) (l : Bool) (i : Nat) : Bool :=
  (List.range i).any fun k => match rs[k]?.bind recLoop with
    | some (l', e) => l' == l && k + 1 + e == i
    | none => false

/-- Whether a new bundle must follow record `i`: it starts a loop, or a body ends with it. -/
def endsBlock (rs : List (BitVec 128)) (i : Nat) : Bool :=
  (rs[i]?.bind recLoop).isSome || endsLoop rs false i || endsLoop rs true i

/-! ### Packing and layout (17 R434; 06 R144, R150) -/

/-- The records of each bundle, from record `i`; `g` are those of the bundle in progress. Without packing every bundle holds one. -/
def packRecords (pack : Bool) (rs : List (BitVec 128)) : Nat → List (BitVec 128) → List (BitVec 128) → List (List (BitVec 128))
  | _, g, [] => if g.isEmpty then [] else [g]
  | i, g, r :: t =>
    if g.isEmpty then packRecords pack rs (i + 1) [r] t
    else if pack && !endsBlock rs (i - 1) && canJoin g r then packRecords pack rs (i + 1) (g ++ [r]) t
    else g :: packRecords pack rs (i + 1) [r] t

/-- A bundle to be laid out: the records of it, none in one that only waits; the index of the last record so far; its DELAY; whether it
is the last bundle of a block. -/
structure Laid where
  recs : List (BitVec 128)
  last : Nat
  delay : Nat
  ends : Bool

/-- The bundles with their delays, so that each issues only after every earlier result has landed: the wait of `wait` cycles beyond the
next one stands in DELAY, and at the end of a block in an empty bundle, since what issues next is not known there. -/
def layBundles (rs : List (BitVec 128)) : Nat → Nat → List (List (BitVec 128)) → List Laid
  | _, _, [] => []
  | n, wait, g :: t =>
    let last := n + g.length - 1
    let lat := (g.map recLatency).foldl max 1
    if endsBlock rs last then
      if lat ≤ 1 then { recs := g, last := last, delay := wait, ends := true } :: layBundles rs (n + g.length) 0 t
      else { recs := g, last := last, delay := wait, ends := false } ::
        { recs := [], last := last, delay := lat - 2, ends := true } :: layBundles rs (n + g.length) 0 t
    else { recs := g, last := last, delay := wait, ends := false } :: layBundles rs (n + g.length) (lat - 1) t

/-- The word of a column in a bundle, and its guard field: 127 for an empty column. -/
def laidWord (b : Laid) (col : Nat) : BitVec 32 := ((b.recs.find? fun r => recCol r == col).map recWord).getD 0
def laidGuard (b : Laid) (col : Nat) : Nat × Bool := ((b.recs.find? fun r => recCol r == col).map recGuard).getD (127, false)

/-- The X word of the bundle at `p`: a loop's end field counts bundles; none where it does not fit. -/
def laidX (bs : List Laid) (p : Nat) (b : Laid) : Option (BitVec 32) :=
  match xInstr (laidWord b 3), b.recs.find? fun r => recCol r == 3 with
  | some i, some r => match recLoop r with
    | none => some (laidWord b 3)
    | some (_, e) => match bs.findIdx? fun x => x.ends && x.last == b.last + 1 + e with
      | none => none
      | some q =>
        let n := q - p - 1
        match i with
        | .lpset l c _ => if n < 2 ^ 20 then ((encode (.lpset l c (BitVec.ofNat 20 n))).head?).map (BitVec.ofNat 32) else none
        | .lpseti l c _ => if n < 2 ^ 12 then ((encode (.lpseti l c (BitVec.ofNat 12 n))).head?).map (BitVec.ofNat 32) else none
        | _ => none
  | _, _ => some 0

/-- The four words of the bundle at `p` (06 R144). -/
def laidWords (rs : List (BitVec 128)) (bs : List Laid) (p : Nat) (b : Laid) : Option (List (BitVec 32)) :=
  let g := fun (k at' inv : Nat) => (laidGuard b k).1 * 2 ^ at' + if (laidGuard b k).2 then 2 ^ inv else 0
  let flag := fun (l : Bool) => if b.ends && endsLoop rs l b.last then 1 else 0
  (laidX bs p b).map fun x =>
    [BitVec.ofNat 32 (b.delay * 2 ^ 26 + flag true * 2 ^ 25 + flag false * 2 ^ 24 + g 1 14 23 + g 2 7 22 + g 3 0 21),
     laidWord b 1, laidWord b 2, x]

/-- The native code of a list of records; none when a loop reaches farther than its field can say. -/
def translateWith (pack : Bool) (rs : List (BitVec 128)) : Option (List (BitVec 32)) :=
  let bs := layBundles rs 0 0 (packRecords pack rs 0 [] rs)
  (bs.zipIdx.mapM fun q => laidWords rs bs q.2 q.1).map List.flatten

/-- The sequential meaning of records: one record in a bundle, each issued only after everything has landed. -/
def sequential (rs : List (BitVec 128)) : Option (List (BitVec 32)) := translateWith false rs

/-- The translator: records that depend on nothing in a bundle share it. -/
def translate (rs : List (BitVec 128)) : Option (List (BitVec 32)) := translateWith true rs

end Sys2Proof.Machine
end

