-- ==== Sys2Proof/Machine/Boundary.lean ====
section
/-! DEFINITION. Phase boundaries, quiescent commits and step boundaries (01 R30 to R36; 05 R122 to R124; 15 R369, R370; 17 R415). -/

namespace Sys2Proof.Machine

/-! ### Arrival (01 R31, R33, R35) -/

/-- Whether a strand has arrived at a phase boundary: it waits at PHASE or STEP, holds past its STEP, or has ended. -/
def Strand.atPhase (st : Strand) : Bool := st.ended || match st.wait with
  | some .phase | some .step | some .held => true
  | _ => false

/-- Whether a strand waits for the phase boundary, as PHASE or as the PHASE of a STEP. -/
def Strand.wantsPhase (st : Strand) : Bool := !st.ended && (st.wait == some .phase || st.wait == some .step)

/-- The strands of a gang. -/
def Gang.strands (g : Gang) : List Strand := g.cores.flatMap fun k => [k.l, k.c, k.s]

/-- Whether a gang takes part in boundaries: one that is placed, or that has halted and is not yet restored (12 R309). A gang
that starts for the first time does not (01 R32). -/
def Gang.takesPart (g : Gang) : Bool := g.running && !(g.cond == .starting && g.cores.isEmpty)

/-- Whether every strand of every running gang has arrived, as `p` says; a halted gang has not (12 R309). -/
def Rank.allArrived (r : Rank) (p : Strand → Bool) : Bool :=
  r.gangs.all fun g => !g.takesPart || (g.isPlaced && g.strands.all p)

/-- Whether some strand of a running gang satisfies `p`. -/
def Rank.someStrand (r : Rank) (p : Strand → Bool) : Bool := r.gangs.any fun g => g.takesPart && g.strands.any p

/-- Whether a command of a rank has not retired. -/
def State.hasCommands (s : State) (vr : Nat) : Bool := s.cmds.any fun c => c.by'.vr == vr

/-- Whether every access of a rank's strands has performed, every peer write that a command has sent, and every window write
(05 R123, 04 R105, log entry 4). -/
def Rank.performed (r : Rank) : Bool :=
  (r.accesses.all fun a => match a.op with
    | .cmdLoad _ _ _ => true
    | _ => false) && r.walOut.toList.all fun w => w == 0

/-- Whether a rank is ready for the boundary that ends its phase (01 R31, R35). -/
def State.phaseReady (s : State) (r : Rank) : Bool :=
  r.slot?.isSome && r.someStrand Strand.wantsPhase && r.allArrived Strand.atPhase && r.performed &&
    (!(r.someStrand fun st => !st.ended && st.wait == some .step) || !s.hasCommands r.vr)

/-- Whether a strand has executed its STEP, or has ended. -/
def Strand.atStep (st : Strand) : Bool := st.ended || st.wait == some .held

/-- Whether no gang of a rank is placed, halted or saved, one that the unit has placed and not started among them (01 R33). -/
def Rank.idle (r : Rank) : Bool := r.gangs.all fun g => !g.running

/-- Whether a rank has quiesced (01 R33). -/
def Rank.quiesced (r : Rank) : Bool := r.idle && r.performed

/-- Whether every strand of a rank holds at STEP or has ended, past the phase boundary that the STEP made. What gangs that started since
have left is then committed as at quiescence, before the rank arrives at its step boundary: DEDUCED from 01 R35, which leaves no write
of the rank to commit then (log entry 32). -/
def Rank.stepHeld (r : Rank) : Bool :=
  (r.someStrand fun st => !st.ended && st.wait == some .held) && r.allArrived Strand.atStep && (r.gangs.all fun g => g.cond != .starting) &&
    r.performed

/-! ### Stores through the peer aperture (13 R334, R336) -/

/-- The order of stores of one rank: CORENO, then L before S (05 R122). -/
def strandKey (core : Nat) (i : StrandId) : Nat := 4 * core + strandCode i

/-- The stores of a rank's phase in canonical order (05 R122 step 2). -/
def Rank.storesInOrder (r : Rank) : List BStore := sortBy (fun a b => strandKey a.core a.strand < strandKey b.core b.strand) r.sbuf

/-- The retired engine writes of a rank's phase in order (05 R122 step 3). DESIGN CHOICE (log entry 44): the EC count starts at 0 with each
gang, so commands that strands of two gangs issued on one core in one phase are ordered by their counts alone. -/
def Rank.engineInOrder (r : Rank) : List EWrites :=
  sortBy (fun a b => let x := strandKey a.core a.strand
                     let y := strandKey b.core b.strand
                     x < y || (x == y && a.order < b.order)) r.engView

/-- The posted window writes that a rank's ports hold, in order (05 R122 step 4). -/
def Rank.postedInOrder (r : Rank) : List PostedW :=
  sortBy (fun a b =>
    a.srcVr < b.srcVr || (a.srcVr == b.srcVr &&
      (let x := strandKey a.srcCore a.srcStrand
       let y := strandKey b.srcCore b.srcStrand
       x < y || (x == y && a.order < b.order)))) r.posted

/-- The peer writes of a rank's phase that have not left, in order: who stored, the virtual address named, the package, the address,
the order field, the bytes. -/
def Rank.peerWrites (r : Rank) : List (SRef × Word × Nat × Nat × Nat × List Byte) :=
  r.storesInOrder.filterMap fun b => match b.dst with
    | .peer p a =>
      if b.sent then none
      else some ({ vr := r.vr, gang := b.gang, core := b.core, strand := b.strand }, b.va, p, a, peerOrder b.order 0, b.bytes)
    | _ => none

/-- The peer writes of a rank's phase leave for their targets in canonical order; the targets hold them until the rank's boundary, which
waits for their answers (05 R122; 13 R334, R336). No gang starts from then on (01 R32). -/
def State.flushPeers (s : State) (r : Rank) : State :=
  (r.peerWrites.foldl (fun s w => s.sendPeer w.1 w.2.1 w.2.2.1 w.2.2.2.1 w.2.2.2.2.1 w.2.2.2.2.2) s).modRank r.vr fun r =>
    { r with
      sbuf := r.sbuf.map fun b => match b.dst with
        | .peer _ _ => { b with sent := true }
        | _ => b
      closing := true }

/-! ### The commit (05 R122) -/

/-- Step 1 for atomics: the bytes that atomics of the ranks left at their homes become memory; a fixed cell that ATOM or ACAS
also reached in the phase is open (05 R125 to R127). -/
def State.commitAtomics (s : State) (vrs : List Nat) : State :=
  let hit := s.home.filter fun e => e.vrs.any vrs.contains
  let mixed := (hit.filter fun e => e.fixed && e.atom).map fun e => e.addr / 16
  let (open', s) := s.freeBytes hit.length
  let vals := (hit.zip open').map fun p => (p.1.addr, if mixed.contains (p.1.addr / 16) then p.2 else p.1.val)
  { s with
    mem := vals.foldl (fun m e => physWrite m e.1 e.2) s.mem
    home := (s.home.map fun e => { e with vrs := e.vrs.filter fun v => !vrs.contains v }).filter fun e => !e.vrs.isEmpty }

/-- Writes bytes where a rank of a slot commits them. -/
def State.commitBytes (s : State) (slot : Nat) (d : StoreTo) (bs : List Byte) : State :=
  match d with
  | .scratch a => s.modSlot slot fun k => { k with pads := memPut k.pads a bs }
  | .phys a => { s with mem := physPut s.mem a bs }
  | .host a => { s with hostMem := memPut s.hostMem a bs }
  | .peer _ _ => s

/-- A write that a boundary commits: its place in the order of 05 R122 (VR, core with strand, order), the slot, the location, the bytes. -/
structure CWrite where
  vr : Nat
  key : Nat
  order : Nat
  slot : Nat
  dst : StoreTo
  bytes : List Byte
  deriving DecidableEq, Repr

def CWrite.before (a b : CWrite) : Bool :=
  a.vr < b.vr || (a.vr == b.vr && (a.key < b.key || (a.key == b.key && a.order < b.order)))

/-- The buffered stores of a rank, and the writes of its retired commands. A write through the peer aperture is committed by its home. -/
def Rank.storeWrites (r : Rank) (slot : Nat) : List CWrite :=
  r.sbuf.map fun b =>
    { vr := r.vr, key := strandKey b.core b.strand, order := peerOrder b.order 0, slot := slot, dst := b.dst, bytes := b.bytes }

def Rank.engineWrites (r : Rank) (slot : Nat) : List CWrite :=
  r.engineInOrder.flatMap fun w => w.bytes.map fun e =>
    { vr := r.vr, key := strandKey w.core w.strand, order := peerOrder w.order 1, slot := slot, dst := e.dst, bytes := [e.val] }

/-- The writes of ranks that this package holds as their home, of stores or of commands (13 R334). -/
def State.heldWrites (s : State) (vrs : List Nat) (engine : Bool) : List CWrite :=
  (s.held.filter fun h => vrs.contains h.vr && h.engine == engine).map fun h =>
    { vr := h.vr, key := strandKey h.core h.strand, order := h.order, slot := 16, dst := .phys h.addr, bytes := h.bytes }

/-- Writes in their order. -/
def State.commitWrites (s : State) (ws : List CWrite) : State :=
  (sortBy CWrite.before ws).foldl (fun s w => s.commitBytes w.slot w.dst w.bytes) s

/-- Step 4 for one rank. -/
def State.commitPosted (s : State) (r : Rank) (slot : Nat) : State :=
  r.postedInOrder.foldl (fun s w => s.padPut slot w.core w.off w.bytes) s

/-- The ranks of a list that are resident, with their slots, in ascending order of VR. -/
def State.residents (s : State) (vrs : List Nat) : List (Rank × Nat) :=
  (sortBy (fun (a b : Rank) => a.vr < b.vr) (s.ranks.filter fun r => vrs.contains r.vr)).filterMap fun r => r.slot?.map fun k => (r, k)

/-- A strand passes the phase boundary: one that waits at PHASE goes on, one that waits at STEP holds (01 R31, R35). -/
def Strand.passPhase (st : Strand) (i : StrandId) : Strand :=
  if st.ended then st else match st.wait with
    | some .phase => { st with wait := none, waited := 0, waitiLeft := 0 }.advance (unitBytes i)
    | some .step => { st with wait := some .held }
    | _ => st

def Core.passPhase (k : Core) : Core := { k with l := k.l.passPhase .l, c := k.c.passPhase .c, s := k.s.passPhase .s }

/-- A plane pair at a boundary (09 R262). -/
def Planes.pass (p : Planes) : Planes := if p.swap then { p with active := p.staging, swap := false } else p

/-- The rank after the commit: nothing is buffered; at a phase boundary planes are exchanged, the overflow table loaded last
is in force, PHASENO increments and the strands pass (01 R31 step 4; 09 R262; 12 R298). A quiescent commit does nothing of that. -/
def Rank.afterCommit (r : Rank) (scheduled : Bool) : Rank :=
  let r := { r with sbuf := [], engView := [], posted := [], walk := true, closing := false, abroad := false }
  if scheduled then
    { r with
      copyPlanes := r.copyPlanes.pass
      collPlanes := r.collPlanes.pass
      granPlanes := r.granPlanes.pass
      migSwap := false
      ovfForce := r.ovf
      phaseno := r.phaseno + 1
      gangs := r.gangs.map fun g => g.mapCores Core.passPhase }
  else r

/-- Commits the phase of ranks together: the writes of R122 in order, then the new snapshot of each (01 R31, R33; 04 R99). Those of
ranks held by other packages have only what this package is the home of. A rank that has reached other packages in the phase tells them
(log entry 34). -/
def State.commitRanks (s : State) (vrs : List Nat) (scheduled : Bool) : State :=
  let rs := s.residents vrs
  let stores := (rs.flatMap fun p => p.1.storeWrites p.2) ++ s.heldWrites vrs false
  let engine := (rs.flatMap fun p => p.1.engineWrites p.2) ++ s.heldWrites vrs true
  let s := ((s.commitAtomics vrs).commitWrites stores).commitWrites engine
  let s := rs.foldl (fun s p => s.commitPosted p.1 p.2) { s with held := s.held.filter fun (h : HeldW) => !vrs.contains h.vr }
  let s := if scheduled && rs.any (fun p => p.1.migSwap) then
      { s with migPlanes := { s.migPlanes with active := s.migPlanes.staging } } else s
  rs.foldl (fun s p => (s.modSlot p.2 fun k => { k with shadow := k.pads }).modRank p.1.vr fun r => r.afterCommit scheduled)
    { s with out := s.out ++ (rs.filter fun p => p.1.abroad).map fun p => .boundary p.1.vr }

/-- PHASE_BOUNDARY: the boundary of a rank that is not coupled (01 R31). Writes through the peer aperture leave first, and
the boundary waits for their answers (13 R336). That of a rank held elsewhere is made known here: what it has at its homes in this
package is committed (05 R122 to R126, log entry 34). -/
def execPhaseBoundary (vr : Nat) (s : State) : Host.Outcome State Fault Refusal :=
  .next (match s.rank? vr with
    | none => s.commitRanks [vr] true
    | some r =>
      if r.coupling.isSome || !s.phaseReady r then s
      else if r.peerWrites.isEmpty then s.commitRanks [vr] true
      else s.flushPeers r)

/-- Whether a rank has something that a commit would change: buffered, engine or posted writes, atomics, writes held at their home here,
or writes of its cores into their own scratchpads, which the next snapshot shows (01 R33; 04 R99; 05 R122). -/
def State.uncommitted (s : State) (r : Rank) : Bool :=
  !r.sbuf.isEmpty || !r.engView.isEmpty || !r.posted.isEmpty || (s.home.any fun e => e.vrs.contains r.vr) ||
    (s.held.any fun h => h.vr == r.vr) || match r.slot? with
      | some k => (s.slot k).pads != (s.slot k).shadow
      | none => false

/-- QUIESCENT_COMMIT: a rank that is not coupled and has quiesced, or holds at STEP, commits its phase; PHASENO does not change
(01 R33, R35). -/
def execQuiescentCommit (vr : Nat) (s : State) : Host.Outcome State Fault Refusal :=
  .next (match s.rank? vr with
    | none => s.commitRanks [vr] false
    | some r =>
      if r.coupling.isSome || r.slot?.isNone || !(r.quiesced || r.stepHeld) || !s.uncommitted r then s
      else if r.peerWrites.isEmpty then s.commitRanks [vr] false
      else s.flushPeers r)

/-! ### Coupling groups (01 R34, 17 R415) -/

/-- The resident ranks of a coupling group that this package holds. -/
def State.groupRanks (s : State) (group : Nat) : List Rank := s.ranks.filter fun r => r.coupling == some group && r.slot?.isSome

/-- The arrival byte of a rank (17 R415). -/
def State.arrivalByte (s : State) (r : Rank) : Nat :=
  if !r.peerWrites.isEmpty then 0 else if s.phaseReady r then 1 else if r.quiesced || r.stepHeld then 2 else 0

/-- A rank of a group that has arrived but for its peer writes sends them. -/
def State.flushArrived (s : State) (r : Rank) : State :=
  if !r.peerWrites.isEmpty && (s.phaseReady r || r.quiesced || r.stepHeld) then s.flushPeers r else s

/-- A rank of a group whose byte says that it has arrived starts no gang until the result (01 R32, 04 R105). -/
def State.closeArrived (s : State) (r : Rank) : State :=
  if s.arrivalByte r = 0 then s else s.modRank r.vr fun r => { r with closing := true }

/-- The ranks of a group start gangs again. -/
def State.reopen (s : State) (group : Nat) : State :=
  { s with ranks := s.ranks.map fun r => if r.coupling = some group then { r with closing := false } else r }

/-- The boundary furrow of a group (17 R415). -/
def State.boundaryFid (s : State) (group : Nat) : Option Nat := (s.fabric.boundary.find? fun b => b.group == group).map fun b => b.fid

/-- Whether ranks of a group are held by other packages, so that its bytes are combined on the fabric. -/
def State.groupAway (s : State) (group : Nat) : Bool :=
  s.jobs.any fun j => j.groups.any fun g => g.2 == group && !(s.ranks.any fun r => r.vr == g.1)

/-- BOUNDARY_FLIT_SEND: in its slot of a period every rank of the group sends its byte; the bytes of one package's ranks
leave as their minimum, and are kept for the result (17 R415). -/
def execBoundaryFlitSend (group : Nat) (s : State) : Host.Outcome State Fault Refusal :=
  .next (
    let rs := s.groupRanks group
    if rs.isEmpty then s
    else
      let v := rs.foldl (fun m r => min m (s.arrivalByte r)) 2
      let s := rs.foldl State.flushArrived (rs.foldl State.closeArrived s)
      let s := { s with fabric := { s.fabric with bytes := (s.fabric.bytes.filter fun (e : Nat × Nat) => e.1 != group) ++ [(group, v)] } }
      match s.boundaryFid group with
      | none => s
      | some fid =>
        let pay : BitVec 448 := BitVec.ofNat 448 (v + (crc32c [BitVec.ofNat 8 v]).toNat * 2 ^ 416)
        if !s.groupAway group then s
        else
          let x := numGet s.fabric.sent fid
          { s with
            fabric := { s.fabric with sent := numSet s.fabric.sent fid ((x + 1) % 65536) }
            inputs := s.inputs ++ [Instr.scheduledFlitArrive 32 { fid := fid, idx := 0, xfer := x, payload := pay }] })

/-- The result of a boundary furrow at this package (17 R415); it is the minimum of all bytes, so never above the byte that
this package sent. -/
def State.groupResult (s : State) (group v : Nat) : State :=
  match s.fabric.bytes.find? fun e => e.1 == group with
  | none => s
  | some e =>
    let s := { s with fabric := { s.fabric with bytes := s.fabric.bytes.filter fun (e : Nat × Nat) => e.1 != group } }
    let here := (s.groupRanks group).map Rank.vr
    let vrs := here ++ (s.jobs.flatMap fun j => (j.groups.filter fun g => g.2 == group && !here.contains g.1).map fun g => g.1)
    let s := s.reopen group
    if e.2 < v then s
    else if v = 1 then s.commitRanks vrs true
    else if v = 2 ∧ ((s.groupRanks group).any s.uncommitted || s.held.any fun h => vrs.contains h.vr) then s.commitRanks vrs false
    else s

/-- BOUNDARY_RESULT (17 R415). -/
def execBoundaryResult (group v : Nat) (s : State) : Host.Outcome State Fault Refusal := .next (s.groupResult group v)

/-! ### Step boundaries (01 R35, R36; 15 R369, R370) -/

/-- Whether a rank may arrive at its step boundary: nothing of it is left to commit (01 R35, 15 R369). -/
def State.stepReady (s : State) (r : Rank) : Bool :=
  r.stepSt == .running && r.slot?.isSome && r.stepHeld && !s.uncommitted r && !s.hasCommands r.vr && r.sched.drained

/-- STEP_ARRIVAL: the rank arrives at its step boundary and its table stops issuing (01 R35, 14 R362); the arrival of a rank
held elsewhere is recorded unless STEPHOLD keeps that rank; of one that is leaving, STEPHOLD at its destination (15 R372, log entry 2). -/
def execStepArrival (rank : JobRank) (held : Bool) (s : State) : Host.Outcome State Fault Refusal :=
  .next (match s.rank? rank.vr with
    | some r =>
      if r.job = rank.job ∧ s.stepReady r then (s.modRank rank.vr fun r => { r with stepSt := .arrived, sched := r.sched.atStep }).tell rank.vr
      else if r.job = rank.job ∧ r.place = .transit then s.modRank rank.vr fun r => { r with stephold := held }
      else s
    | none => { s with jobs := s.jobs.map fun j => if j.id = rank.job ∧ rank.vr < j.n then awayArrived j rank.vr held else j })

/-- Whether a rank of a job has arrived and is not in transit (15 R370). -/
def State.rankArrived (s : State) (j : Job) (vr : Nat) : Bool := match s.rank? vr with
  | some r => r.job == j.id && r.stepSt == .arrived && r.place != .transit && !r.stephold
  | none => j.arrived.contains vr && placeState (s.placeEntry vr) < 2

/-- A strand resumes after the step collective at its next instruction (01 R36). -/
def Strand.passStep (st : Strand) (i : StrandId) : Strand :=
  if !st.ended && st.wait == some .held then { st with wait := none, waited := 0, waitiLeft := 0 }.advance (unitBytes i) else st

def Core.passStep (k : Core) : Core := { k with l := k.l.passStep .l, c := k.c.passStep .c, s := k.s.passStep .s }

/-- A rank after the step collective: STEPNO increments and the held strands go on; those of a rank that is not on cores do
so once it is (01 R36, 15 R370). -/
def Rank.passStep (r : Rank) : Rank :=
  { r with stepno := r.stepno + 1, stepSt := .running, gangs := r.gangs.map fun g => g.mapCores Core.passStep }

/-- STEP_COLLECTIVE_COMPLETE: every rank of the job has arrived, none is in transit, lost or held; what ranks of the job held
elsewhere left at their homes here is committed, should their boundary not have become known yet (01 R36, 05 R124, 15 R370). -/
def execStepCollectiveComplete (job : Nat) (s : State) : Host.Outcome State Fault Refusal :=
  .next (match s.jobs.find? fun j => j.id == job with
    | none => s
    | some j =>
      if !((List.range j.n).all (s.rankArrived j)) then s
      else
        let vrs := (s.ranks.filter fun r => r.job == job).map Rank.vr
        let away := (List.range j.n).filter fun v => !(s.ranks.any fun r => r.vr == v)
        let s := if (s.home.any fun e => e.vrs.any away.contains) || (s.held.any fun h => away.contains h.vr) then s.commitRanks away false else s
        let s := { s with
          ranks := s.ranks.map fun r => if r.job = job then r.passStep else r
          jobs := s.jobs.map fun j => if j.id = job then { j with arrived := [] } else j }
        vrs.foldl State.schedResume s)

end Sys2Proof.Machine
end

