-- ==== Sys2Proof/Machine/Coll.lean ====
section
/-! DEFINITION. Collective engines (10 R274 to R285): the operators, the ops of a graph, the canonical tree and its nodes, chunks
from other domains, the load of a graph. -/

namespace Sys2Proof.Machine

/-! ### Operators (10 R281, R283) -/

/-- One element under sum, max or min, by format (10 R281). -/
def combElem (op fmt a b : Nat) : Nat :=
  match fltOf fmt with
  | some f => match op with
    | 0 => (f.add .infinity (f.value a) (f.value b)).1
    | 1 => (f.minmax true a b).1
    | _ => (f.minmax false a b).1
  | none =>
    let n := 8 * fmtSize fmt
    let ia := intOf n (codeUnsigned fmt) a
    let ib := intOf n (codeUnsigned fmt) b
    match op with
    | 0 => wrapInt n (ia + ib)
    | 1 => if ia < ib then b else a
    | _ => if ib < ia then b else a

/-- The sum of two products in the merge, each rounded (10 R283). -/
def mergeTerm (w1 w2 : FVal) (a b : Nat) : Nat :=
  let f := FFmt.fp32
  let p := (f.mul .infinity (f.value a) w1).1
  let q := (f.mul .infinity (f.value b) w2).1
  (f.add .infinity (f.value p) (f.value q)).1

/-- The rescaling merge of two records of FP32 words (10 R283). -/
def mergeRec (l r : List Nat) : List Nat :=
  let f := FFmt.fp32
  let m1 := f.value (l.headD 0)
  let m2 := f.value (r.headD 0)
  if m1.isNan || m2.isNan then l.map fun _ => f.nanBits
  else if m1 = .inf true then r
  else if m2 = .inf true then l
  else
    let m := (f.minmax true (l.headD 0) (r.headD 0)).1
    let weight := fun (x : FVal) => f.value (f.exp .infinity (f.value (f.add .infinity x (f.value m).flip).1)).1
    let w1 := weight m1
    let w2 := weight m2
    m :: (l.tail.zip r.tail).map fun p => mergeTerm w1 w2 p.1 p.2

/-- Bytes as numbers of `n` bytes each; a shorter rest is left out. -/
def chunksOf (n : Nat) : Nat → List Byte → List Nat
  | 0, _ => []
  | k + 1, bs => if bs.length < n then [] else leNat (bs.take n) :: chunksOf n k (bs.drop n)

/-- A list in parts of `n`; a shorter rest is left out. -/
def partsOf {α : Type} (n : Nat) : Nat → List α → List (List α)
  | 0, _ => []
  | k + 1, l => if l.length < n then [] else l.take n :: partsOf n k (l.drop n)

/-- Two runs of bytes under the operator and format of OPF. A byte is absent where the spec states no result: under the operator
"none", and past the last whole record of a merge (10 R281, R283). -/
def combine (opf : BitVec 16) (recw : Nat) (a b : List Byte) : List (Option Byte) :=
  let len := min a.length b.length
  let n := fmtSize (opfFmt opf)
  let pad := fun (l : List Byte) => l.map some ++ List.replicate (len - l.length) (none : Option Byte)
  if opfOp opf ≤ 2 then
    let xs := (chunksOf n len a).zip (chunksOf n len b)
    pad (xs.flatMap fun p => leBytes n (combElem (opfOp opf) (opfFmt opf) p.1 p.2))
  else if opfOp opf = 3 ∧ recw ≠ 0 then
    let rs := (partsOf recw len (chunksOf 4 len a)).zip (partsOf recw len (chunksOf 4 len b))
    pad (rs.flatMap fun p => (mergeRec p.1 p.2).flatMap fun w => leBytes 4 w)
  else List.replicate len none

/-- Bytes with fresh free values where there is none (log entry 5). -/
def State.fill (s : State) (bs : List (Option Byte)) : List Byte × State :=
  (bs.zipIdx.map fun p => p.1.getD (Config.freeByte (s.free + p.2)), { s with free := s.free + bs.length })

/-! ### The parts of a collective command -/

/-- The body of a collective command by name. -/
structure Coll where
  slot : Nat
  graph : Graph
  opf : BitVec 16
  bufs : List Space
  replay : Nat
  step : Nat
  ops : List OpSt
  imgs : List (List (Option Byte))
  data : List (Nat × EByte)

def CmdBody.coll? : CmdBody → Option Coll
  | .coll a g f b r t o i d =>
    some { slot := a, graph := g, opf := f, bufs := b, replay := r, step := t, ops := o, imgs := i, data := d }
  | _ => none

def Coll.body (x : Coll) : CmdBody := .coll x.slot x.graph x.opf x.bufs x.replay x.step x.ops x.imgs x.data

def Coll.op (x : Coll) (i : Nat) : BitVec 256 := x.graph.ops[i]?.getD 0

/-- An op that the graph does not have is never ready. -/
def Coll.st (x : Coll) (i : Nat) : OpSt :=
  x.ops[i]?.getD { counter := 1, pos := 0, half := false, running := false, complete := false, sent := false, received := false }

def Coll.modOp (x : Coll) (i : Nat) (f : OpSt → OpSt) : Coll := { x with ops := x.ops.modify i f }

/-- The location of byte `o` of buffer `b`. -/
def Coll.loc (x : Coll) (core b o : Nat) : StoreTo := ((x.bufs[b]?.getD (.scratch 0)).plus o).toStore core

/-- Byte `o` of buffer `b` as an op sees it: what ops of the command have written, else its value at submission; none past the
elements that the graph addresses (05 R132, 10 R277). -/
def Coll.byte? (x : Coll) (core b o : Nat) : Option Byte :=
  match x.data.reverse.find? fun e => e.2.dst == x.loc core b o with
  | some e => some e.2.val
  | none => ((x.imgs[b]?.getD [])[o]?).bind id

/-- Whether a byte of a buffer is still to come from another package (10 R270). -/
def Coll.lacks (x : Coll) (b o : Nat) : Bool := (x.imgs[b]?.getD [])[o]? == some none

/-- Whether all that an op reads has come. -/
def Coll.fetched (x : Coll) (ranges : List (Nat × Nat × Nat)) : Bool :=
  ranges.all fun q => (List.range q.2.2).all fun k => !x.lacks q.1 (q.2.1 + k)

/-- The element size of an op in bytes (10 R276). -/
def Coll.esz (x : Coll) (i : Nat) : Nat := x.graph.opEsz (x.op i)

/-! ### Ops that no chain of successors orders (10 R278) -/

/-- The ops that come after those of a list by chains of successors. -/
def Graph.after (g : Graph) : Nat → List Nat → List Nat → List Nat
  | 0, _, seen => seen
  | _ + 1, [], seen => seen
  | n + 1, i :: t, seen =>
    let o := g.ops[i]?.getD 0
    let new := (([0, 1, 2].map (opSucc o)).filter fun j => j < g.ops.length && !seen.contains j).dedup
    g.after n (t ++ new) (seen ++ new)

/-- Whether a chain of successors orders two ops. -/
def Graph.ordered (g : Graph) (i j : Nat) : Bool :=
  (g.after (g.ops.length + 1) [i] []).contains j || (g.after (g.ops.length + 1) [j] []).contains i

/-- The ranges of bytes, by buffer, that an op may read and those that it may write (10 R276, R277). -/
def Coll.readRanges (x : Coll) (i : Nat) : List (Nat × Nat × Nat) :=
  let o := x.op i
  let e := x.esz i
  let src := (opSbuf o, opSoff o * e, opLen o * e)
  let dst := (opDbuf o, opDoff o * e, opLen o * e)
  let cnt := if opVlen o && (opKind o == 0 || opKind o == 2 || opKind o == 5) then [(3, 4 * opCidx o, 4)] else []
  (match opKind o with
   | 0 | 2 | 4 | 5 => [src]
   | 3 => [dst]
   | _ => []) ++ cnt

def Coll.writeRanges (x : Coll) (i : Nat) : List (Nat × Nat × Nat) :=
  let o := x.op i
  let e := x.esz i
  let cnt := if opVlen o && (opKind o == 1 || opKind o == 3 || opKind o == 5) then [(3, 4 * opCidx o, 4)] else []
  (match opKind o with
   | 1 | 3 | 4 | 5 => [(opDbuf o, opDoff o * e, opLen o * e)]
   | _ => []) ++ cnt

/-- Whether a location is in one of some ranges. -/
def Coll.inRanges (x : Coll) (core : Nat) (l : List (Nat × Nat × Nat)) (d : StoreTo) : Bool :=
  l.any fun q => ((x.loc core q.1 q.2.1).within q.2.2 d).isSome

/-- The elements of an op with VLEN, where they are known: its count word for an op that sends (10 R277). -/
def Coll.actual (x : Coll) (core i : Nat) : Nat :=
  let o := x.op i
  if !opVlen o || opKind o == 1 || opKind o == 3 then opLen o
  else match (List.range 4).mapM fun k => x.byte? core 3 (4 * opCidx o + k) with
    | some bs => min (opLen o) (leNat bs)
    | none => opLen o

/-- Whether op `j` writes a location: what it has written once it is complete, else what it may write. -/
def Coll.opWrites (x : Coll) (core j : Nat) (d : StoreTo) : Bool :=
  if (x.st j).complete || (x.st j).received then x.data.any fun e => e.1 == j && e.2.dst == d else x.inRanges core (x.writeRanges j) d

/-- Whether op `j` reads a location, with the elements that it does read. -/
def Coll.opReads (x : Coll) (core j : Nat) (d : StoreTo) : Bool :=
  let e := x.esz j
  x.inRanges core ((x.readRanges j).map fun q =>
    if opVlen (x.op j) && q == (opSbuf (x.op j), opSoff (x.op j) * e, opLen (x.op j) * e) then (q.1, q.2.1, x.actual core j * e) else q) d

/-- Whether another op writes what op `i` reads with no order between them; two PERMUTEs are staged instead (10 R285). -/
def Coll.racedRead (x : Coll) (core i : Nat) (d : StoreTo) : Bool :=
  (List.range x.ops.length).any fun j => j != i && !(opKind (x.op i) == 5 && opKind (x.op j) == 5) &&
    x.opWrites core j d && !x.graph.ordered i j

/-- Whether another op writes, or reads, what op `i` writes with no order between them. -/
def Coll.racedWrite (x : Coll) (core i : Nat) (d : StoreTo) : Bool :=
  (List.range x.ops.length).any fun j => j != i &&
    (x.opWrites core j d || (!(opKind (x.op i) == 5 && opKind (x.op j) == 5) && x.opReads core j d)) && !x.graph.ordered i j

/-- Whether a source byte of a command has changed since the submission, as far as this package shows it (05 R132). -/
def State.changed (s : State) (r : SRef) (x : Coll) (b o : Nat) : Bool :=
  !(x.data.any fun e => e.2.dst == x.loc r.core b o) &&
    match (x.imgs[b]?.getD [])[o]?, s.readLoc r.vr r.core ((s.slotOf r.vr).getD 16) (x.loc r.core b o) with
    | some (some v), some w => v != w
    | _, _ => false

/-- Bytes that op `i` of a command of strand `r` reads; those that the spec leaves open are free values. -/
def State.collRead (s : State) (x : Coll) (r : SRef) (i b off n : Nat) : List Byte × State :=
  s.fill ((List.range n).map fun k =>
    if x.racedRead r.core i (x.loc r.core b (off + k)) || s.changed r x b (off + k) then none else x.byte? r.core b (off + k))

/-- Op `i` writes bytes into a buffer, as far as the graph addresses it; those that race are free values (10 R278). -/
def State.collWrite (s : State) (x : Coll) (core i b off : Nat) (bs : List Byte) : Coll × State :=
  let kept := bs.take (x.graph.cnt * x.graph.esz - off)
  let (vs, s) := s.fill (kept.zipIdx.map fun p => if x.racedWrite core i (x.loc core b (off + p.2)) then none else some p.1)
  ({ x with data := x.data ++ vs.zipIdx.map fun p => (i, { dst := x.loc core b (off + p.2), val := p.1 }) }, s)

/-! ### Trees (10 R280 to R282) -/

/-- The number of values at a level of a tree of `n` leaves. -/
def levelCount (n : Nat) : Nat → Nat
  | 0 => n
  | l + 1 => (levelCount n l + 1) / 2

/-- Whether a value of a tree goes over a furrow to the node that consumes it, and how: to another package, or to a router whose result
ends here (10 R282, 11 R287). -/
def State.holder? (s : State) (k : TreeKey) (level i : Nat) : Option NodeHold :=
  s.fabric.holders.find? fun h => h.slot == k.slot && h.tree == k.tree && h.level == level && h.k == i

/-- A value of a tree with what goes with it. -/
structure NodeVal where
  key : TreeKey
  level : Nat
  k : Nat
  opf : BitVec 16
  recw : Nat
  desc : BitVec 128
  tag : Nat
  step : Nat
  differs : Bool
  bytes : List Byte

/-- A tree takes a value; that of the leftmost leaf brings the tag and the step (10 R277, 16 R384), and operators or formats that
differ are kept in mind (10 R280). -/
def TreeSt.put (t : TreeSt) (v : NodeVal) : TreeSt :=
  { t with
    nodes := t.nodes ++ [(v.level, v.k, v.bytes)]
    differs := t.differs || v.differs || t.opf != v.opf || t.recw != v.recw
    tag := if v.k = 0 then v.tag else t.tag
    step := if v.k = 0 then v.step else t.step }

/-- A value reaches a node buffer of this package. -/
def State.landNode (s : State) (v : NodeVal) : State :=
  if s.trees.any fun t => t.key == v.key then { s with trees := s.trees.map fun t => if t.key = v.key then t.put v else t }
  else { s with trees := s.trees ++ [{ key := v.key, opf := v.opf, recw := v.recw, desc := v.desc, tag := v.tag, step := v.step,
                                       nodes := [(v.level, v.k, v.bytes)], differs := v.differs }] }

/-- A value goes to the holder of the node that consumes it; answers whether it has accepted it (10 R278, R282). -/
def State.putNode (s : State) (v : NodeVal) (op : Option (Nat × Nat)) : Bool × State :=
  match s.holder? v.key v.level v.k with
  | some h => (false, s.startXfer h.fid (xferBody v.key.replay true v.step (nodeBody v.key.pos v.key.len v.opf v.recw v.differs v.bytes)) [h.pkg] op)
  | none => (true, s.landNode v)

/-! ### Gradient blocks of trees with DKIND 2 (16 R383, R384) -/

/-- The payload of a block as bytes, and its header (16 R383). -/
def gblockHeader (b : GBlock) : List Byte :=
  leBytes 4 b.job ++ leBytes 4 (b.block * 65536) ++ leBytes 8 b.step ++ leBytes 4 b.ecnt ++ leBytes 4 b.fmt ++ leBytes 4 0
def gblockPayload (b : GBlock) : List Byte := b.payload.flatMap fun w => leBytes 4 w.toNat

/-- The CRC-32C of a block (16 R383). -/
def gblockCrc (b : GBlock) : BitVec 32 := crc32c (gblockHeader b ++ gblockPayload b)

/-- The live elements of a block of a shard (16 R380). -/
def liveCount (elems block : Nat) : Nat := min 16384 (elems - 16384 * block)

/-- The record of a shard that this package holds. -/
def State.shard? (s : State) (job shard : Nat) : Option Shard :=
  s.granary.shards.find? fun x => x.rec'.job == job && x.rec'.shard == shard

/-- The granaries that a record names: the home, and the mirror while it is valid (16 R384). -/
def keepersOf (r : ShardRec) : List (Nat × Nat) := (r.hdom, r.hpkg) :: (if r.mv then [(r.mdom, r.mpkg)] else [])

/-- Delivers a block to granaries of this domain: here at once, to others over one multicast furrow (16 R384). -/
def State.sendBlockNear (s : State) (b : GBlock) (pkgs : List Nat) : State :=
  let s := if pkgs.contains s.ownPkg then { s with inputs := s.inputs ++ [Instr.gradientBlockArrive b] } else s
  let near := pkgs.filter fun p => p != s.ownPkg
  if near.isEmpty then s else match s.route? (blockKey b.job b.shard) with
    | some fid => s.startXfer fid (xferBody b.sdom true b.spkg (gblockHeader b ++ leBytes 4 b.crc.toNat ++ gblockPayload b)) near none
    | none => { s with dropped := s.dropped + 1 }

/-- Delivers a block to a granary of another domain: a sequence of frames of KIND 5 whose DVR names the package
(17 R426, log entry 21). -/
def State.sendBlockFar (s : State) (b : GBlock) (d : Nat × Nat) : State :=
  let bytes := gblockHeader b ++ leBytes 4 b.crc.toNat ++ gblockPayload b
  (pieces (bytes.length + 1) 0 bytes).foldl (fun s p =>
    s.sendFrame 5 { frameHdr (d.2 % 16) d.1 s.ownPkg with dvr := d.2, offset := p.1, last := p.1 + p.2.length == bytes.length }
      (.block b) none) s

/-- Delivers a block to the granaries of a list of domains and packages. -/
def State.sendBlock (s : State) (b : GBlock) (dests : List (Nat × Nat)) : State :=
  (dests.filter fun d => d.1 != s.ownDom).foldl (fun s d => s.sendBlockFar b d)
    (s.sendBlockNear b ((dests.filter fun d => d.1 == s.ownDom).map fun d => d.2))

/-- The block of a gradient that is being formed, when every live position has its value (16 R384). -/
def Building.block? (g : Building) (sdom spkg elems b : Nat) : Option GBlock :=
  let live := liveCount elems b
  let at' := fun (e : Nat) => (g.vals.find? fun v => v.1 == 16384 * b + e).map fun v => v.2
  match (List.range live).mapM at' with
  | none => none
  | some vs =>
    let x : GBlock := { sdom := sdom, spkg := spkg, job := g.job, shard := g.shard, block := b, step := g.step, ecnt := live, fmt := 1,
                        payload := vs ++ List.replicate (16384 - live) 0, crc := 0 }
    some { x with crc := gblockCrc x }

/-- Values of a root reach the gradient of their shard; every block that is then whole goes to the shard's home and mirror and
is kept until they acknowledge it (16 R384, R385). -/
def State.buildBlocks (s : State) (job shard step pos : Nat) (vals : List (BitVec 32)) : State :=
  match s.shard? job shard with
  | none => { s with dropped := s.dropped + 1 }
  | some x =>
    let elems := x.rec'.elems
    let isIt := fun (g : Building) => g.job == job && g.shard == shard && g.step == step
    let old := (s.granary.building.find? isIt).getD { job := job, shard := shard, step := step, vals := [] }
    let new := (vals.zipIdx.map fun p => (pos + p.2, p.1)).filter fun v => v.1 < elems
    let g : Building := { old with vals := (old.vals.filter fun v => !(new.any fun w => w.1 == v.1)) ++ new }
    let touched := ((new.map fun v => v.1 / 16384).dedup).filterMap fun b => g.block? s.ownDom s.ownPkg elems b
    let g := { g with vals := g.vals.filter fun v => !(touched.any fun b => b.block == v.1 / 16384) }
    let keep := touched.map fun b => ({ block := b, named := keepersOf x.rec', waiting := keepersOf x.rec' } : KeptBlock)
    let s := { s with granary := { s.granary with
      building := (s.granary.building.filter fun g => !isIt g) ++ (if g.vals.isEmpty then [] else [g])
      kept := s.granary.kept ++ keep } }
    touched.foldl (fun s b => s.sendBlock b (keepersOf x.rec')) s

/-- The result of a tree goes where its descriptor says (10 R275, R277; 16 R384). -/
def State.deliverTree (s : State) (t : TreeSt) (bs : List Byte) : State :=
  let (bs, s) := if t.differs then s.freeBytes bs.length else (bs, s)
  let c : Chunk := { slot := t.key.slot, replay := t.key.replay, endpoint := treeDep t.desc, src := t.key.lo, tag := t.tag,
                     bytes := bs, whole := true }
  match treeDkind t.desc with
  | 0 => (s.sendChunk (treeDvr t.desc) c none).2
  | 1 => (List.range (t.key.hi + 1 - t.key.lo)).foldl (fun s i => (s.sendChunk (t.key.lo + i) c none).2) s
  | _ => s.buildBlocks t.key.job (treeDvr t.desc) t.step t.key.pos
      ((chunksOf 4 bs.length bs).map fun v => BitVec.ofNat 32 v)

/-- TREE_NODE_COMBINE: node `k` above `level` combines its two operands, or carries the odd one; at the top the result is
delivered (10 R280). -/
def execTreeNodeCombine (key : TreeKey) (level k : Nat) (s : State) : Host.Outcome State Fault Refusal :=
  .next (match s.trees.find? fun t => t.key == key with
    | none => s
    | some t =>
      let cnt := levelCount (key.hi + 1 - key.lo) level
      let node := fun (i : Nat) => (t.nodes.find? fun e => e.1 == level && e.2.1 == i).map fun e => e.2.2
      let without := fun (s : State) (l : List Nat) => { s with trees := s.trees.map fun (x : TreeSt) =>
        if x.key = key then { x with nodes := x.nodes.filter fun e => !(e.1 == level && l.contains e.2.1) } else x }
      let up := fun (s : State) (bs : List Byte) =>
        (s.putNode { key := key, level := level + 1, k := k, opf := t.opf, recw := t.recw, desc := t.desc, tag := t.tag,
                     step := t.step, differs := t.differs, bytes := bs } none).2
      if cnt ≤ 1 then
        match node 0 with
        | some bs => { s with trees := s.trees.filter fun x => x.key != key }.deliverTree t bs
        | none => s
      else if 2 * k + 1 = cnt then
        match node (2 * k) with
        | some bs => up (without s [2 * k]) bs
        | none => s
      else match node (2 * k), node (2 * k + 1) with
        | some a, some b =>
          let (bs, s) := s.fill (combine t.opf t.recw a b)
          up (without s [2 * k, 2 * k + 1]) bs
        | _, _ => s)

/-! ### Ops (10 R277, R278, R285) -/

/-- COLLECTIVE_COMMAND: a collective engine starts a queued command (10 R278). -/
def execCollectiveCommand (id : Nat) (s : State) : Host.Outcome State Fault Refusal :=
  .next (match s.cmd? id with
    | some c => match c.body.coll? with
      | some _ => s.startAndFetch c
      | none => s
    | none => s)

/-- The elements that a sending op sends: LEN, or with VLEN at most the count word (10 R277). -/
def State.sendLen (s : State) (x : Coll) (r : SRef) (i : Nat) : Nat × State :=
  let o := x.op i
  if opVlen o then
    (let (w, s) := s.collRead x r i 3 (4 * opCidx o) 4
     (min (opLen o) (leNat w), s))
  else (opLen o, s)

/-- Whether an op may start: it is ready and so is no op of a lower index that has not started (10 R278). -/
def Coll.startable (x : Coll) (i : Nat) : Bool :=
  let ready := fun (o : OpSt) => o.counter == 0 && !o.running && !o.complete
  ready (x.st i) && !((x.ops.take i).any ready)

/-- An op starts: a sending op reads its elements and sends them (10 R277). -/
def State.startOp (s : State) (c : Cmd) (x : Coll) (i : Nat) : State :=
  let o := x.op i
  let vr := c.by'.vr
  let e := x.esz i
  let s := s.modCmd c.id fun c => { c with body := (x.modOp i fun q => { q with running := true }).body }
  let sends := opKind o == 0 || opKind o == 2 || opKind o == 5
  if !sends then s
  else
    let (n, s) := s.sendLen x c.by' i
    let (bs, s) := s.collRead x c.by' i (opSbuf o) (opSoff o * e) (n * e)
    let (accepted, s) :=
      if opKind o = 2 then
        let d := x.graph.trees[opTree o]?.getD 0
        let job := match s.rank? vr with
          | some r => r.job
          | none => 0
        let key : TreeKey := { job := job, slot := x.slot, tree := opTree o, lo := treeLo d, hi := treeHi d, replay := x.replay,
                               pos := opSoff o, len := n }
        s.putNode { key := key, level := 0, k := vr - treeLo d, opf := x.opf, recw := if opfOp x.opf = 3 then x.graph.recw else 0, desc := d, tag := opTag o,
                    step := x.step, differs := false, bytes := bs } (some (c.id, i))
      else
        s.sendChunk (opPeer o) { slot := x.slot, replay := x.replay, endpoint := opEndpt o, src := vr, tag := opTag o, bytes := bs,
                                 whole := true } (some (c.id, i))
    if accepted then s.markSent (some (c.id, i)) else s

/-- COLL_OP_START: an op that is ready, and whose source bytes have come from other packages (10 R270, R278). -/
def execCollOpStart (id op : Nat) (s : State) : Host.Outcome State Fault Refusal :=
  .next (match s.cmd? id with
    | some c => match c.body.coll? with
      | some x => if c.st = .running ∧ s.cmdLive c ∧ x.startable op ∧ x.fetched (x.readRanges op) then s.startOp c x op else s
      | none => s
    | none => s)

/-- Whether every PERMUTE whose source a PERMUTE would overwrite has been staged (10 R285). -/
def Coll.staged (x : Coll) (core i : Nat) : Bool :=
  let dst := x.writeRanges i
  (List.range x.ops.length).all fun j => j == i || opKind (x.op j) != 5 || (x.st j).running || (x.st j).complete ||
    x.graph.ordered i j || !((x.readRanges j).any fun r => (List.range r.2.2).any fun k => x.inRanges core dst (x.loc core r.1 (r.2.1 + k)))

/-- The chunks that a receiving op would take (10 R277). -/
def Rank.chunksFor (r : Rank) (o : BitVec 256) (replay : Nat) : List Chunk := r.landing.filter fun c => c.whole && opTakes o replay c

/-- A receiving op takes a chunk: which of several is open; the others are dropped, counted and reported (10 R277). -/
def State.takeChunk (s : State) (vr : Nat) (o : BitVec 256) (replay : Nat) : Option (Chunk × State) :=
  match (s.rank? vr).map fun r => r.chunksFor o replay with
  | some (a :: t) =>
    let (second, s) := if t.isEmpty then (false, s) else s.elapse
    let c := if second then t.headD a else a
    let s := s.modRank vr fun r => { r with landing := r.landing.filter fun x => !(x.whole && opTakes o replay x) }
    some (c, { s with dropped := s.dropped + t.length, out := s.out ++ t.map fun x => .report 1 vr x.slot })
  | _ => none

/-- A receiving op writes what it took: the chunk, or under MERGE the local elements combined with it; with VLEN also the length
that came (10 R277). -/
def State.receiveOp (s : State) (r : SRef) (x : Coll) (i : Nat) (c : Chunk) : Coll × State :=
  let o := x.op i
  let e := x.esz i
  let n := min (opLen o * e) c.bytes.length
  let (bs, s) := if opKind o = 3 then
      (let (a, s) := s.collRead x r i (opDbuf o) (opDoff o * e) n
       s.fill (combine x.opf x.graph.recw a (c.bytes.take n)))
    else (c.bytes.take n, s)
  let (x, s) := s.collWrite x r.core i (opDbuf o) (opDoff o * e) bs
  let (x, s) := if opVlen o then s.collWrite x r.core i 3 (4 * opCidx o) (leBytes 4 (c.bytes.length / e)) else (x, s)
  (x.modOp i fun q => { q with received := true }, s)

/-- An op completes: its successors' counters decrement, and the last op retires the command with its writes in ascending op
index (10 R270, R271, R278). -/
def State.endOp (s : State) (c : Cmd) (x : Coll) (i : Nat) : State :=
  let x := x.modOp i fun q => { q with running := false, complete := true }
  let x := ([0, 1, 2].map (opSucc (x.op i))).foldl (fun (x : Coll) j => x.modOp j fun q => { q with counter := q.counter - 1 }) x
  if x.ops.all OpSt.complete then
    (s.modCmd c.id fun c => { c with body := x.body }).endCmd c ((sortBy (fun (a b : Nat × EByte) => a.1 < b.1) x.data).map fun e => e.2)
  else s.modCmd c.id fun c => { c with body := x.body }

/-- A running op goes on to its end if what it waits for is there (10 R278). -/
def State.runOp (s : State) (c : Cmd) (x : Coll) (i : Nat) : State :=
  let o := x.op i
  let core := c.by'.core
  let e := x.esz i
  match opKind o with
  | 0 | 2 => if (x.st i).sent then s.endOp c x i else s
  | 4 =>
    let (bs, s) := s.collRead x c.by' i (opSbuf o) (opSoff o * e) (opLen o * e)
    let (x, s) := s.collWrite x core i (opDbuf o) (opDoff o * e) bs
    s.endOp c x i
  | 5 =>
    if (x.st i).received then (if (x.st i).sent then s.endOp c x i else s)
    else if !x.staged core i then s
    else match s.takeChunk c.by'.vr o x.replay with
      | none => s
      | some (ch, s) =>
        let (x, s) := s.receiveOp c.by' x i ch
        if (x.st i).sent then s.endOp c x i else s.modCmd c.id fun c => { c with body := x.body }
  | _ => match s.takeChunk c.by'.vr o x.replay with
    | none => s
    | some (ch, s) =>
      let (x, s) := s.receiveOp c.by' x i ch
      s.endOp c x i

/-- The bytes of an op's range in its buffers. -/
def Coll.opBytes (x : Coll) (i : Nat) : Nat := opLen (x.op i) * x.esz i

/-- COLL_OP_COMPLETE: a running op goes on by 64 bytes, taking turns of its staging halves, and completes with the last of them; a command
whose ops are complete retires once its writes at other packages have performed (10 R268, R270, R278). -/
def execCollOpComplete (id op : Nat) (s : State) : Host.Outcome State Fault Refusal :=
  .next (match s.cmd? id with
    | some c => match c.body.coll? with
      | some x =>
        if c.st ≠ .running ∨ !s.cmdLive c then s
        else if c.ending then s.finishCmd c
        else if !(x.st op).running then s
        else if (x.st op).pos + 64 < x.opBytes op then
          s.modCmd id fun c => { c with body := (x.modOp op fun o => { o with pos := o.pos + 64, half := !o.half }).body }
        else s.runOp c x op
      | none => s
    | none => s)

/-! ### Chunks from other domains (17 R423, R424) -/

/-- COLLECTIVE_CHUNK: a frame of KIND 1, delivered in order: into the landing area of a rank held here, else onward by a furrow of
this domain (10 R284). -/
def execCollectiveChunk (f : FrameHdr) (slot : Nat) (bytes : List Byte) (s : State) : Host.Outcome State Fault Refusal :=
  .next (s.recvFrame f fun s =>
    let c : Chunk := { slot := slot, replay := f.replay, endpoint := f.endpt, src := f.svr, tag := f.tag, bytes := bytes, whole := f.last }
    if s.ranks.any fun r => r.vr == f.dvr then s.deposit f.dvr c f.offset
    else s.chunkFurrow f.dvr c f.offset (placePkg (s.placeEntry f.dvr)) none)

/-! ### The load of a graph (10 R274) -/

/-- The CRC-32C of a graph: over its descriptors and its op records (10 R274). -/
def graphCrc (trees : List (BitVec 128)) (ops : List (BitVec 256)) : BitVec 32 :=
  crc32c ((trees.flatMap fun t => leBytes 16 t.toNat) ++ ops.flatMap fun o => leBytes 32 o.toNat)

/-- Whether a record agrees with its header's counts and CRC (10 R274). -/
def graphOk (header : BitVec 128) (trees : List (BitVec 128)) (ops : List (BitVec 256)) : Bool :=
  trees.length == bitsAt header 0 7 && trees.length ≤ 64 && ops.length == bitsAt header 48 16 && 1 ≤ ops.length &&
    ops.length ≤ 4096 && bitsAt header 64 32 != 0 && graphCrc trees ops == header.extractLsb' 96 32

/-- GRAPH_LOAD: the supervisor loads a slot of a rank's graph store; a record whose CRC fails leaves it empty and is reported (10 R274). -/
def execGraphLoad (vr slot : Nat) (header : BitVec 128) (trees : List (BitVec 128)) (ops : List (BitVec 256)) (s : State) :
    Host.Outcome State Fault Refusal :=
  .next (
    let ok := graphOk header trees ops
    if 64 ≤ slot then s
    else
      let s := if ok then s else { s with out := s.out ++ [.report 0 vr slot] }
      s.modRank vr fun r =>
        { r with graphs := (r.graphs.filter fun p => p.1 != slot) ++
            (if ok then [(slot, { header := header, trees := trees, ops := ops })] else []) })

end Sys2Proof.Machine
end

