-- ==== Sys2Proof/Machine/Granary.lean ====
section
/-! DEFINITION. The granary (16 R380 to R404): shard records, rule programs, judging and applying gradient blocks, closing steps,
gathers, the supervisor's commands, the directory, seeding and failure. -/

namespace Sys2Proof.Machine

/-! ### Records (16 R380 to R382) -/

/-- The blocks of a shard (16 R380). -/
def ShardRec.blocks (r : Sys2Proof.ShardRec) : Nat := (r.elems + 16383) / 16384

/-- A shard record read from its 128 bytes (16 R381). -/
def recOfBits (v : BitVec 1024) : Sys2Proof.ShardRec :=
  { job := bitsAt v 0 32, shard := bitsAt v 32 24, role := bitsAt v 62 2, efmt := bitsAt v 60 2, rule := bitsAt v 56 4,
    elems := bitsAt v 64 32, c := bitsAt v 128 64, p1 := v.extractLsb' 192 32, p2 := v.extractLsb' 224 32,
    hp := (List.range 12).map fun i => v.extractLsb' (256 + 32 * i) 32, sbase := bitsAt v 640 64, ebase := bitsAt v 704 64,
    mv := bitAt v 831, mdom := bitsAt v 812 10, mpkg := bitsAt v 800 12, hdom := bitsAt v 780 10, hpkg := bitsAt v 768 12,
    bmap := bitsAt v 832 64, tclose := bitsAt v 896 32 }

/-- The 128 bytes of a record (16 R381). -/
def recBits (r : Sys2Proof.ShardRec) : BitVec 1024 :=
  let hp := (r.hp.zipIdx.map fun p => p.1.toNat * 2 ^ (256 + 32 * p.2)).foldl (· + ·) 0
  BitVec.ofNat 1024 (r.job + 2 ^ 32 * r.shard + 2 ^ 56 * r.rule + 2 ^ 60 * r.efmt + 2 ^ 62 * r.role + 2 ^ 64 * r.elems +
    2 ^ 128 * r.c + 2 ^ 192 * r.p1.toNat + 2 ^ 224 * r.p2.toNat + hp + 2 ^ 640 * r.sbase + 2 ^ 704 * r.ebase + 2 ^ 768 * r.hpkg +
    2 ^ 780 * r.hdom + 2 ^ 800 * r.mpkg + 2 ^ 812 * r.mdom + (if r.mv then 2 ^ 831 else 0) + 2 ^ 832 * r.bmap + 2 ^ 896 * r.tclose)

/-- Whether the fields of a record are legal: reserved bits 0, EFMT, ELEMS, and the alignments where ROLE is not 0 (16 R381). -/
def recLegal (v : BitVec 1024) : Bool :=
  let r := recOfBits v
  recBits r == v && r.efmt != 3 && 1 ≤ r.elems && r.elems ≤ 2 ^ 30 &&
    (r.role == 0 || (r.sbase % 65536 == 0 && r.ebase % 65536 == 0 && r.bmap % 8 == 0))

/-- A record as REG leaves it: nothing received, the counters 0, copy 0 served (16 R399). -/
def Shard.fresh (r : Sys2Proof.ShardRec) : Shard :=
  { rec' := r, received := [], applying := [], dup := 0, stale := 0, early := 0, malf := 0, served := 0, timer := none,
    timedOut := false, hyper := none, snaps := [], deferred := [], seeding := none, kept := [], held := [], lost := false,
    unconfirmed := false, failed := [] }

/-- Changes the granary, or one shard of it. -/
def State.modGranary (s : State) (f : Granary → Granary) : State := { s with granary := f s.granary }

def State.modShard (s : State) (job shard : Nat) (f : Shard → Shard) : State :=
  s.modGranary fun g =>
    { g with shards := g.shards.map fun x => if x.rec'.job = job ∧ x.rec'.shard = shard then f x else x }

/-- The address of a block's master state, and of its emitted copy `k` (16 R382). -/
def stateAddr (r : Sys2Proof.ShardRec) (b : Nat) : Nat := r.sbase + b * 196608
def copyAddr (r : Sys2Proof.ShardRec) (b k : Nat) : Nat := r.ebase + (2 * b + k) * 32768

/-- A notice of KIND 6 (16 R400); `rest` stands at byte 0x20. -/
def State.granNotice (s : State) (job shard event rest : Nat) : State :=
  let c := match s.shard? job shard with
    | some x => x.rec'.c
    | none => 0
  s.notify (BitVec.ofNat 1024 (6 + 2 ^ 64 * (job % 2 ^ 32) + 2 ^ 96 * (shard % 2 ^ 24) + 2 ^ 128 * event + 2 ^ 192 * c + 2 ^ 256 * rest))

/-! ### The supervisor's commands: completion in order (16 R399) -/

/-- Commands whose status is known complete from the oldest on, each with a notice of EVENT 3. -/
def State.flushGran : Nat → State → State
  | 0, s => s
  | n + 1, s => match s.granary.cmds with
    | c :: t => match c.status with
      | some st => ((s.modGranary fun g => { g with cmds := t }).granNotice c.job c.shard 3
          (2 ^ 64 * (c.code % 256) + 2 ^ 72 * st)).flushGran n
      | none => s
    | [] => s

/-- A command is posted, with its status if it is known. -/
def State.postGran (s : State) (code job shard : Nat) (status : Option Nat) : Nat × State :=
  let (id, s) := s.fresh
  let s := s.modGranary fun g => { g with cmds := g.cmds ++ [{ id := id, code := code, job := job, shard := shard, status := status }] }
  (id, s.flushGran s.granary.cmds.length)

/-- Commands that `p` selects get their status. -/
def State.endGran (s : State) (p : GranCmd → Bool) (status : Nat) : State :=
  let s := s.modGranary fun g =>
    { g with cmds := g.cmds.map fun c => if p c && c.status.isNone then { c with status := some status } else c }
  s.flushGran s.granary.cmds.length

/-! ### Changes published to every package (15 R376, 16 R398) -/

/-- The packages of this domain that hold nodes of DKIND-2 trees, as far as the node holders loaded here name them (16 R381, R398). -/
def State.rootPkgs (s : State) : List (Nat × Nat) := s.fabric.holders.filterMap fun h =>
  if s.ranks.any fun r => r.graphs.any fun g => g.1 == h.slot && (match g.2.trees[h.tree]? with
    | some d => treeDkind d == 2
    | none => false) then some (s.ownDom, h.pkg) else none

/-- The other packages that placement entries name, and those that hold roots of DKIND-2 trees. -/
def State.memberPkgs (s : State) : List (Nat × Nat) :=
  (((s.place.filter fun e => placeState e.2 < 3).map fun e => (placeDom e.2, placePkg e.2)) ++ s.rootPkgs).dedup.filter fun d =>
    d != (s.ownDom, s.ownPkg)

/-- Sends a change to packages and awaits their acknowledgements; SVR names this domain (log entry 21). -/
def State.publish (s : State) (dests : List (Nat × Nat)) (m : DHdr → Demand) (cmd gran : Option Nat) : State :=
  let r := dests.foldl (fun (r : List Nat × State) d =>
    let (id, s) := r.2.fresh
    (r.1 ++ [id], s.sendTo d.1 (m { dpkg := d.2, spkg := s.ownPkg, dvr := 0, svr := s.ownDom, seq := id % 2 ^ 32 }))) ([], s)
  if r.1.isEmpty then r.2 else { r.2 with pubs := r.2.pubs ++ [{ awaiting := r.1, cmd := cmd, gran := gran }] }

/-- An acknowledgement of a change; a granary command that waits for the last one is done. -/
def State.pubAck (s : State) (seq : Nat) : State :=
  let pubs := s.pubs.map fun p => { p with awaiting := p.awaiting.filter fun i => i % 2 ^ 32 != seq }
  let done := pubs.filter fun p => p.awaiting.isEmpty
  let s := { s with pubs := pubs.filter fun p => !p.awaiting.isEmpty }
  done.foldl (fun s p => match p.gran with
    | some id => s.endGran (fun c => c.id == id) 0
    | none => s) s

/-! ### Rule programs (16 R386 to R389) -/

/-- The fields of a rule word (16 R387). -/
def ruleOp (w : BitVec 32) : Nat := bitsAt w 26 6
def ruleD (w : BitVec 32) : Nat := bitsAt w 21 5
def ruleA (w : BitVec 32) : Nat := bitsAt w 16 5
def ruleB (w : BitVec 32) : Nat := bitsAt w 11 5
def ruleC (w : BitVec 32) : Nat := bitsAt w 6 5

/-- Whether a rule word is legal: its op, its zero fields, its destination (16 R387). -/
def ruleLegal (w : BitVec 32) : Bool :=
  let op := ruleOp w
  let zeroC := ruleC w == 0
  let zeroBC := ruleB w == 0 && ruleC w == 0
  1 ≤ op && op ≤ 14 && bitsAt w 0 6 == 0 && ruleD w < 16 &&
    (match op with
     | 4 | 12 => true
     | 6 | 7 | 10 | 11 | 13 => zeroBC
     | 14 => zeroBC && ruleD w == 0
     | _ => zeroC)

/-- The result of a rule word that writes a register, on encodings (16 R387). -/
def ruleResult (op a b c : Nat) : Nat :=
  let f := FFmt.fp32
  let va := f.value a
  let vb := f.value b
  match op with
  | 1 => (f.add .infinity va vb).1
  | 2 => (f.add .infinity va vb.flip).1
  | 3 => (f.mul .infinity va vb).1
  | 4 => (f.fma .infinity va vb (f.value c)).1
  | 5 => (f.div .infinity va vb).1
  | 6 => (f.sqrt .infinity va).1
  | 7 => (f.rsqrt .infinity va).1
  | 8 => (f.minmax true a b).1
  | 9 => (f.minmax false a b).1
  | 10 => a % 2 ^ 31
  | 11 => a ^^^ 2 ^ 31
  | 12 => if c < 2 ^ 31 then a else b
  | _ => a

/-- One rule word over the rule registers and the emitted value (16 R387, R389). -/
def ruleStep (k : List Nat × Nat) (w : BitVec 32) : List Nat × Nat :=
  let r := fun (i : Nat) => k.1[i]?.getD 0
  if ruleOp w = 14 then (k.1, r (ruleA w))
  else (k.1.set (ruleD w) (ruleResult (ruleOp w) (r (ruleA w)) (r (ruleB w)) (r (ruleC w))), k.2)

/-- The RNE32 of a step number (16 R386). -/
def stepFloat (n : Nat) : Nat := (FFmt.fp32.round .rne .infinity false n 0 false).1

/-- The rule registers at the start of an element (16 R386). -/
def ruleStart (r : Sys2Proof.ShardRec) (g w m1 m2 : Nat) : List Nat :=
  [g, w, m1, m2] ++ List.replicate 12 0 ++ r.hp.map BitVec.toNat ++ [r.p1.toNat, r.p2.toNat, stepFloat (r.c + 1), 0]

/-- The program of a slot of a job. -/
def State.ruleProgram (s : State) (job slot : Nat) : Option (List (BitVec 32)) :=
  (s.granary.rules.find? fun r => r.1 == job && r.2.1 == slot).map fun r => r.2.2

/-! ### Emission (16 R390, R391) -/

/-- The emitted bytes of a block, of its live elements (16 R390, R391). -/
def emission (efmt : Nat) (xs : List Nat) : List Byte :=
  let f := FFmt.fp32
  match efmt with
  | 2 =>
    let finite := xs.filter fun x => match f.value x with
      | .fin _ _ _ => true
      | _ => false
    let amax := finite.foldl (fun m x => max m (x % 2 ^ 31)) 0
    let q := (f.div .infinity (f.value amax) (f.value 0x43E00000)).1
    let scale := if q = 0 then 0x3F800000 else q
    let one := fun (x : Nat) => match f.value x with
      | .nan _ => 0x7F
      | .inf n => if n then 0xFE else 0x7E
      | v => (FFmt.e4m3.div .largest v (f.value scale)).1
    xs.map (fun x => BitVec.ofNat 8 (one x)) ++ List.replicate (16384 - xs.length) 0 ++ leBytes 4 scale
  | _ =>
    let d := if efmt = 0 then FFmt.bf16 else FFmt.fp16
    (xs.flatMap fun x => leBytes 2 (d.deliver .rne .infinity (f.value x)).1) ++ List.replicate (2 * (16384 - xs.length)) 0

/-- Applies a block to the master state and writes its emission into the staging copy (16 R389). -/
def State.applyBlock (s : State) (x : Shard) (prog : List (BitVec 32)) (b : GBlock) : State :=
  let r := x.rec'
  let n := liveCount r.elems b.block
  let base := stateAddr r b.block
  let plane := fun (k e : Nat) => leNat (physBytes s.mem (base + 65536 * k + 4 * e) 4)
  let outs := (List.range n).map fun e =>
    prog.foldl ruleStep (ruleStart r (b.payload[e]?.getD 0).toNat (plane 0 e) (plane 1 e) (plane 2 e), 0)
  let put := fun (k i : Nat) (m : Memory) => physPut m (base + 65536 * k) (outs.flatMap fun o => leBytes 4 (o.1[i]?.getD 0))
  let m := put 2 3 (put 1 2 (put 0 1 s.mem))
  { s with mem := physPut m (copyAddr r b.block (1 - x.served)) (emission r.efmt (outs.map fun o => o.2)) }

/-! ### Judging blocks (16 R392) -/

/-- The judgement of a block. -/
inductive Verdict where
  | malformed | stale | early | duplicate | applied
  deriving DecidableEq, Repr

/-- The first case that applies (16 R392); a block always carries 16,384 elements (16 R383). -/
def State.judge (s : State) (x : Shard) (b : GBlock) : Verdict :=
  let r := x.rec'
  if gblockCrc b ≠ b.crc ∨ b.payload.length ≠ 16384 ∨ ShardRec.blocks r ≤ b.block ∨ b.ecnt ≠ liveCount r.elems b.block ∨ b.fmt ≠ 1 ∨
      (s.ruleProgram r.job r.rule).isNone then .malformed
  else if b.step ≤ r.c then .stale
  else if r.c + 2 ≤ b.step then .early
  else if x.received.contains b.block then .duplicate
  else .applied

/-- A root holder here has an acknowledgement from a granary (16 R385). -/
def State.ackBlock (s : State) (who : Nat × Nat) (job shard block step : Nat) : State :=
  s.modGranary fun g =>
    { g with kept := (g.kept.map fun k =>
        if k.block.job = job ∧ k.block.shard = shard ∧ k.block.block = block ∧ k.block.step = step then
          { k with waiting := k.waiting.filter fun d => d != who } else k).filter fun k => !k.waiting.isEmpty }

/-- The granary acknowledges a block to its root holder (16 R385). -/
def State.sendBlockAck (s : State) (b : GBlock) : State :=
  if b.sdom = s.ownDom ∧ b.spkg = s.ownPkg then s.ackBlock (s.ownDom, s.ownPkg) b.job b.shard b.block b.step
  else s.sendTo b.sdom
    (.blockAck { dpkg := b.spkg, spkg := s.ownPkg, dvr := 0, svr := s.ownDom, seq := 0 } b.job b.shard b.block b.step)

/-- Of a block that arrives and those of its shard that still stand in a list of inputs, which arrive in the same cycle, the one of the
lowest BLOCK, and the list with the others (16 R392). -/
def lowestBlock (b : GBlock) : List Instr → GBlock × List Instr
  | [] => (b, [])
  | .gradientBlockArrive c :: t =>
    if c.job = b.job ∧ c.shard = b.shard ∧ c.block < b.block then ((lowestBlock c t).1, .gradientBlockArrive b :: (lowestBlock c t).2)
    else ((lowestBlock b t).1, .gradientBlockArrive c :: (lowestBlock b t).2)
  | i :: t => ((lowestBlock b t).1, i :: (lowestBlock b t).2)

/-- GRADIENT_BLOCK_ARRIVE: a block is judged at the arrival point of a shard that this granary keeps; a seed target holds it until
its snapshot is installed (16 R392, R401). -/
def execGradientBlockArrive (b : GBlock) (s : State) : Host.Outcome State Fault Refusal :=
  .next (
    let (b, rest) := lowestBlock b s.inputs
    let s := { s with inputs := rest }
    match s.shard? b.job b.shard with
    | none => { s with dropped := s.dropped + 1 }
    | some x =>
      let md := s.modShard b.job b.shard
      if x.rec'.role = 0 ∨ x.lost then { s with dropped := s.dropped + 1 }
      else if x.rec'.role = 3 then md fun x => { x with held := x.held ++ [b] }
      else match s.judge x b with
        | .malformed => md fun x => { x with malf := x.malf + 1 }
        | .stale => (md fun x => { x with stale := x.stale + 1 }).sendBlockAck b
        | .early => ((md fun x => { x with early := x.early + 1 }).granNotice b.job b.shard 2
            (b.block + 2 ^ 32 * (b.step % 2 ^ 32))).sendBlockAck b
        | .duplicate => (md fun x => { x with dup := x.dup + 1 }).sendBlockAck b
        | .applied =>
          let s := md fun x =>
            { x with
              received := x.received ++ [b.block]
              applying := x.applying ++ [b]
              timer := if x.timer.isNone then some 0 else x.timer
              kept := match x.seeding with
                | some (_, _, true) => x.kept ++ [b]
                | _ => x.kept }
          let s := match x.seeding with
            | some (dom, pkg, true) => s.sendBlock { b with sdom := s.ownDom, spkg := s.ownPkg } [(dom, pkg)]
            | _ => s
          s.sendBlockAck b)

/-- GRANARY_BLOCK_APPLY: an update lane runs the rule program over a block (16 R389). -/
def execGranaryBlockApply (job shard block : Nat) (s : State) : Host.Outcome State Fault Refusal :=
  .next (match s.shard? job shard with
    | none => s
    | some x => match x.applying.find? fun b => b.block == block with
      | none => s
      | some b => (s.applyBlock x ((s.ruleProgram job x.rec'.rule).getD []) b).modShard job shard fun x =>
          { x with applying := x.applying.filter fun y => y.block != block })

/-! ### Gathers (16 R395 to R397, R402) -/

/-- The gather command of this package that a request number names. -/
def State.gatherCmd? (s : State) (seq : Nat) : Option Cmd := s.cmds.find? fun c => c.id % 2 ^ 32 == seq && match c.body with
  | .gran _ _ _ _ _ _ => true
  | _ => false

/-- The bytes of an answer to a gather (log entry 21): its status, then every block, each followed by its scale in E4M3. -/
def answerBytes (status : Nat) (data : List Byte) : List Byte := BitVec.ofNat 8 status :: data

/-- A gather command of this package ends with an answer: the blocks in ascending order, the scales, the status word
(16 R396). -/
def State.finishGather (s : State) (c : Cmd) (answer : List Byte) : State :=
  if c.ending then s else match c.body with
  | .gran g dst dstr scales status _ =>
    let core := c.by'.core
    let data := answer.tail
    let per := if g.nblk = 0 then 0 else data.length / g.nblk
    let size := if per = 16388 then 16384 else per
    let idx := List.range g.nblk
    let blocks := idx.flatMap fun (i : Nat) => runWrites core (dst.plus ((i : Int) * dstr)) ((data.drop (per * i)).take size)
    let sc := if per = 16388 then idx.flatMap fun (i : Nat) => runWrites core (scales.plus (4 * (i : Int))) ((data.drop (per * i + 16384)).take 4)
      else []
    let st := runWrites core status (leBytes 4 (answer.headD 0).toNat)
    s.endCmd c (if answer.headD 0 = 0 then blocks ++ sc ++ st else st)
  | _ => s

/-- An answer to a gather goes to its submitting package. -/
def State.answerGather (s : State) (g : GatherMsg) (answer : List Byte) : State :=
  let q : DHdr := { dpkg := g.pkg, spkg := s.ownPkg, dvr := 0, svr := 0, seq := g.cmd % 2 ^ 32 }
  if g.dom = s.ownDom ∧ g.pkg = s.ownPkg then { s with net := s.net ++ [.loadData q answer] }
  else s.sendTo g.dom (.loadData q answer)

/-- The bytes that a served gather returns, from the served copies (16 R382, R396). -/
def State.servedBytes (s : State) (x : Shard) (g : GatherMsg) : List Byte :=
  let n := if x.rec'.efmt = 2 then 16388 else 32768
  (List.range g.nblk).flatMap fun i => physBytes s.mem (copyAddr x.rec' (g.block + i) x.served) n

/-- A gather at a package that is to be its home: ended, forwarded, served, deferred or stale (16 R396, R401). One beyond the 4,096 that a
home defers waits, not judged (log entry 39); one at a home whose own copy has failed is sent afresh to the next home (16 R402). -/
def State.judgeGather (s : State) (g : GatherMsg) : State :=
  match s.shard? g.job g.shard with
  | none => s.answerGather g (answerBytes 2 [])
  | some x =>
    let r := x.rec'
    if r.role ≠ 1 then
      if x.lost then s.answerGather g (answerBytes 3 [])
      else if r.hdom = s.ownDom ∧ r.hpkg = s.ownPkg then
        if x.failed.contains (s.ownDom, s.ownPkg) then s else s.answerGather g (answerBytes 2 [])
      else s.sendTo r.hdom (.gather { dpkg := r.hpkg, spkg := s.ownPkg, dvr := 0, svr := 0, seq := g.cmd % 2 ^ 32 } g)
    else if g.nblk ≠ 0 ∧ ShardRec.blocks r < g.block + g.nblk then s.answerGather g (answerBytes 2 [])
    else if x.lost then s.answerGather g (answerBytes 3 [])
    else if g.step ≤ r.c then s.answerGather g (answerBytes 1 [])
    else if r.c + 1 < g.step then
      if x.deferred.length < 4096 then s.modShard g.job g.shard fun x => { x with deferred := x.deferred ++ [g] }
      else { s with net := s.net ++ [.gather { dpkg := s.ownPkg, spkg := s.ownPkg, dvr := 0, svr := 0, seq := g.cmd % 2 ^ 32 } g] }
    else s.answerGather g (answerBytes 0 (s.servedBytes x g))

/-- Gathers of this package for a shard are sent afresh (16 R402). -/
def State.resendGathers (s : State) (job shard : Nat) : State :=
  { s with cmds := s.cmds.map fun (c : Cmd) => match c.body with
      | .gran g dst dstr scales status _ =>
        if g.job = job ∧ g.shard = shard then { c with body := .gran g dst dstr scales status false } else c
      | _ => c }

/-- Deferred gathers of a shard end with a status. -/
def State.endDeferred (s : State) (l : List GatherMsg) (status : Nat) : State :=
  l.foldl (fun s g => s.answerGather g (answerBytes status [])) s

/-! ### Closing a step (16 R393, R394, R399, R401) -/

/-- The product of a power and a hyperparameter (16 R393). -/
def powerUp (p h : BitVec 32) : BitVec 32 :=
  let f := FFmt.fp32
  BitVec.ofNat 32 (f.mul .infinity (f.value p.toNat) (f.value h.toNat)).1

/-- The record after a close, with the hyperparameters that a HYPER brought (16 R393, R399). -/
def Shard.close (x : Shard) : Shard :=
  let r := x.rec'
  { x with
    rec' := { r with
      c := r.c + 1
      p1 := powerUp r.p1 (r.hp[0]?.getD 0)
      p2 := powerUp r.p2 (r.hp[1]?.getD 0)
      hp := x.hyper.getD r.hp }
    served := 1 - x.served
    received := []
    timer := none
    timedOut := false
    hyper := none
    snaps := [] }

/-- A SNAP buffer (16 R399). -/
def State.writeSnap (s : State) (x : Shard) (a : Nat) : State :=
  let head := leBytes 128 (recBits x.rec').toNat ++ leBytes 4 x.dup.toNat ++ leBytes 4 x.stale.toNat ++ leBytes 4 x.early.toNat ++
    leBytes 4 x.malf.toNat ++ List.replicate 112 0
  let n := ShardRec.blocks x.rec' * 196608
  { s with mem := physPut (physPut s.mem a head) (a + 256) (physBytes s.mem x.rec'.sbase n) }

/-- The snapshot that a home sends to its seed target (16 R401): the record, the master state, the served copies. -/
def State.snapshotOf (s : State) (x : Shard) (dom pkg : Nat) : Out :=
  let n := ShardRec.blocks x.rec'
  .snapshot dom pkg x.rec' (physBytes s.mem x.rec'.sbase (n * 196608))
    ((List.range n).flatMap fun b => physBytes s.mem (copyAddr x.rec' b x.served) 32768)

/-- Every block has been received and applied: the step closes in one action; then SNAP buffers, the snapshot for a seed target, and
the deferred gathers that waited for this close (16 R393, R396, R399, R401). -/
def State.closeShard (s : State) (job shard : Nat) : State := match s.shard? job shard with
  | none => s
  | some x =>
    if x.rec'.role ∉ [1, 2] ∨ x.lost ∨ !x.applying.isEmpty ∨ x.received.length < ShardRec.blocks x.rec' then s
    else
      let y := x.close
      let s := s.modShard job shard fun _ => y
      let s := x.snaps.foldl (fun s a => s.writeSnap y a) s
      let s := s.endGran (fun c => c.code == 7 && c.job == job && c.shard == shard) 0
      let s := match x.seeding with
        | some (dom, pkg, false) =>
          { s with out := s.out ++ [s.snapshotOf y dom pkg] }.modShard job shard fun x => { x with seeding := some (dom, pkg, true) }
        | _ => s
      let now := x.deferred.filter fun g => g.step ≤ y.rec'.c + 1
      let s := s.modShard job shard fun x => { x with deferred := x.deferred.filter fun g => y.rec'.c + 1 < g.step }
      now.foldl State.judgeGather s

/-- GRANARY_STEP_CLOSE (16 R393). -/
def execGranaryStepClose (job shard : Nat) (s : State) : Host.Outcome State Fault Refusal := .next (s.closeShard job shard)

/-- A gather arrives: a close that is due at the same arrival point comes first (16 R397). -/
def State.arriveGather (s : State) (g : GatherMsg) : State := (s.closeShard g.job g.shard).judgeGather g

/-- GRANARY_GATHER: a gather command of this package that is first in its strand's queue starts: it ends here when the shard is
unknown, else it goes to the shard's home (16 R396). A gather of another package is judged. -/
def execGranaryGather (g : GatherMsg) (s : State) : Host.Outcome State Fault Refusal :=
  .next (
    if g.dom = s.ownDom ∧ g.pkg = s.ownPkg then
      match s.cmd? g.cmd with
      | none => s
      | some c => match c.body with
        | .gran g dst dstr scales status sent =>
          if c.ending then s.finishCmd c
          else if sent || !s.cmdLive c || !s.cmdFirst c then s
          else
            let s := s.modCmd c.id fun c => { c with st := .running, body := .gran g dst dstr scales status true }
            s.arriveGather g
        | _ => s
    else s.arriveGather g)

/-- GATHER: the demand flit of a gather arrives at the package that it names (16 R396). -/
def execGather (q : DHdr) (g : GatherMsg) (s : State) : Host.Outcome State Fault Refusal :=
  .next (if q.dpkg = s.ownPkg then s.arriveGather g else s.forward 32 (.gather q g))

/-- The bitmap of missing blocks (16 R394). -/
def Shard.missing (x : Shard) : List Nat := (List.range (ShardRec.blocks x.rec')).filter fun b => !x.received.contains b

/-- STEP_CLOSE_TIMEOUT: TCLOSE has expired since the first applied block of the step: the bitmap and a notice of EVENT 1, once per
step (16 R394). -/
def execStepCloseTimeout (job shard : Nat) (s : State) : Host.Outcome State Fault Refusal :=
  .next (match s.shard? job shard with
    | none => s
    | some x =>
      match x.timer with
      | none => s
      | some t =>
        if x.rec'.role ∉ [1, 2] ∨ x.rec'.tclose = 0 ∨ t < x.rec'.tclose * 1024 ∨ x.timedOut then s
        else
          let n := ShardRec.blocks x.rec'
          let bits := x.missing.foldl (fun v b => v + 2 ^ b) 0
          let s := { s with mem := physPut s.mem x.rec'.bmap (leBytes ((n + 7) / 8) bits) }
          (s.modShard job shard fun x => { x with timedOut := true }).granNotice job shard 1 x.missing.length)

/-! ### The directory (16 R398, R401, R402) -/

/-- The directory fields of a record. -/
def setDirectory (r : Sys2Proof.ShardRec) (mv : Bool) (mdom mpkg hdom hpkg : Nat) : Sys2Proof.ShardRec :=
  { r with mv := mv, mdom := mdom, mpkg := mpkg, hdom := hdom, hpkg := hpkg }

/-- Kept blocks of a shard are released once the directory no longer names one of their granaries (16 R385). -/
def State.releaseKept (s : State) (r : Sys2Proof.ShardRec) : State :=
  s.modGranary fun g =>
    { g with kept := g.kept.filter fun k => k.block.job != r.job || k.block.shard != r.shard || k.named.all (keepersOf r).contains }

/-- A change of the directory takes effect at this package: the record's fields, the role of a granary that is no longer named or
that becomes a seed target, the gathers whose home has failed (16 R401, R402). -/
def State.applyDirectory (s : State) (job shard : Nat) (mv : Bool) (mdom mpkg hdom hpkg : Nat) (target : Option Sys2Proof.ShardRec) : State :=
  let own := (s.ownDom, s.ownPkg)
  let chosen := target.isSome && mv && (mdom, mpkg) == own
  match s.shard? job shard with
  | none => match target with
    | some r => if chosen && s.granary.shards.length < 65536 then s.modGranary fun g => { g with shards := g.shards ++ [Shard.fresh r] } else s
    | none => s
  | some x =>
    let old := (x.rec'.hdom, x.rec'.hpkg)
    let r := setDirectory x.rec' mv mdom mpkg hdom hpkg
    let named := (hdom, hpkg) == own || (mv && (mdom, mpkg) == own)
    let y : Shard := if chosen then Shard.fresh (target.getD r) else
      { x with
        rec' := { r with role := if named then r.role else 0 }
        deferred := if (hdom, hpkg) == own then x.deferred else []
        timer := if named then x.timer else none
        failed := if mv then x.failed.filter fun d => d != (mdom, mpkg) else x.failed
        unconfirmed := target.isSome }
    let s := (s.modShard job shard fun _ => y).releaseKept r
    let s := if (hdom, hpkg) == own then s else x.deferred.foldl State.judgeGather s
    if old != (hdom, hpkg) && x.failed.contains old then s.resendGathers job shard else s

/-- Publishes the directory fields of a shard to every package of the job (16 R398). -/
def State.publishShard (s : State) (job shard : Nat) (target : Option Sys2Proof.ShardRec) (gran : Option Nat) : State :=
  match s.shard? job shard with
  | none => s
  | some x =>
    let r := x.rec'
    let dests := (s.memberPkgs ++ (if r.mv then [(r.mdom, r.mpkg)] else [])).dedup.filter fun d => d != (s.ownDom, s.ownPkg)
    (s.publish dests (fun q => .directory q job shard r.mv r.mdom r.mpkg r.hdom r.hpkg target) none gran).releaseKept r

/-! ### The commands (16 R399, R401) -/

/-- REG: installs a record, or replaces one as a fresh registration whose deferred gathers are judged afresh. -/
def execReg (job shard : Nat) (a _b : BitVec 64) (s : State) : Host.Outcome State Fault Refusal :=
  .next (
    let v := BitVec.ofNat 1024 (leNat (physBytes s.mem a.toNat 128))
    let r := recOfBits v
    if !recLegal v then (s.postGran 1 job shard (some 2)).2
    else match s.shard? r.job r.shard with
      | some x =>
        let y := { Shard.fresh r with snaps := x.snaps }
        let s := (s.modShard r.job r.shard fun _ => y).releaseKept r
        (x.deferred.foldl State.judgeGather s).postGran 1 job shard (some 0) |>.2
      | none =>
        if 65536 ≤ s.granary.shards.length then (s.postGran 1 job shard (some 1)).2
        else ((s.modGranary fun g => { g with shards := g.shards ++ [Shard.fresh r] }).postGran 1 job shard (some 0)).2)

/-- DROP: removes a record; its deferred gathers end with status 3. -/
def execDrop (job shard : Nat) (_a _b : BitVec 64) (s : State) : Host.Outcome State Fault Refusal :=
  .next (match s.shard? job shard with
    | none => (s.postGran 2 job shard (some 3)).2
    | some x =>
      let s := s.endDeferred x.deferred 3
      let s := s.modGranary fun g => { g with shards := g.shards.filter fun y => !(y.rec'.job == job && y.rec'.shard == shard) }
      (s.postGran 2 job shard (some 0)).2)

/-- RULE: loads a rule slot of a job; a program that is not legal is refused (16 R388). -/
def execRule (job shard : Nat) (a b : BitVec 64) (s : State) : Host.Outcome State Fault Refusal :=
  .next (
    let slot := bitsAt b 0 4
    let n := bitsAt b 8 6
    let words := (List.range n).map fun i => BitVec.ofNat 32 (leNat (physBytes s.mem (a.toNat + 4 * i) 4))
    if n = 0 ∨ 32 < n ∨ !words.all ruleLegal then (s.postGran 3 job shard (some 2)).2
    else
      let s := s.modGranary fun g =>
        { g with rules := (g.rules.filter fun r => !(r.1 == job && r.2.1 == slot)) ++ [(job, slot, words)] }
      (s.postGran 3 job shard (some 0)).2)

/-- HYPER: the hyperparameters are replaced at the next close; complete when taken. -/
def execHyper (job shard : Nat) (a _b : BitVec 64) (s : State) : Host.Outcome State Fault Refusal :=
  .next (match s.shard? job shard with
    | none => (s.postGran 4 job shard (some 3)).2
    | some x =>
      if x.rec'.role = 0 then (s.postGran 4 job shard (some 3)).2
      else
        let hp := (List.range 12).map fun i => BitVec.ofNat 32 (leNat (physBytes s.mem (a.toNat + 4 * i) 4))
        ((s.modShard job shard fun x => { x with hyper := some hp }).postGran 4 job shard (some 0)).2)

/-- PROMOTE: a mirror becomes the home, and the directory says so everywhere (16 R401). -/
def execPromote (job shard : Nat) (_a _b : BitVec 64) (s : State) : Host.Outcome State Fault Refusal :=
  .next (match s.shard? job shard with
    | none => (s.postGran 5 job shard (some 3)).2
    | some x =>
      if x.rec'.role ≠ 2 then (s.postGran 5 job shard (some 3)).2
      else
        let old := (x.rec'.hdom, x.rec'.hpkg)
        let s := s.modShard job shard fun x =>
          { x with rec' := { x.rec' with role := 1, hdom := s.ownDom, hpkg := s.ownPkg, mv := false } }
        let s := if x.failed.contains old then s.resendGathers job shard else s
        let (id, s) := s.postGran 5 job shard none
        let s := s.publishShard job shard none (some id)
        if s.pubs.any fun p => p.gran == some id then s else s.endGran (fun c => c.id == id) 0)

/-- SEED: a home whose mirror is not valid names a target and sends it the record with ROLE 3 (16 R401). -/
def execSeed (job shard : Nat) (a _b : BitVec 64) (s : State) : Host.Outcome State Fault Refusal :=
  .next (match s.shard? job shard with
    | none => (s.postGran 6 job shard (some 3)).2
    | some x =>
      let dom := bitsAt a 12 10
      let pkg := bitsAt a 0 12
      if x.rec'.role ≠ 1 then (s.postGran 6 job shard (some 3)).2
      else if x.rec'.mv ∧ !x.failed.contains (x.rec'.mdom, x.rec'.mpkg) then (s.postGran 6 job shard (some 5)).2
      else
        let r := { x.rec' with mv := true, mdom := dom, mpkg := pkg }
        let s := s.modShard job shard fun x =>
          { x with rec' := r, seeding := some (dom, pkg, false), unconfirmed := true, failed := x.failed.filter fun d => d != (dom, pkg) }
        let (_, s) := s.postGran 6 job shard none
        s.publishShard job shard (some { r with role := 3 }) none)

/-- SNAP: at the next close the record, the counters and the state are copied to a buffer. -/
def execSnap (job shard : Nat) (a _b : BitVec 64) (s : State) : Host.Outcome State Fault Refusal :=
  .next (match s.shard? job shard with
    | none => (s.postGran 7 job shard (some 3)).2
    | some x =>
      if x.rec'.role = 0 then (s.postGran 7 job shard (some 3)).2
      else ((s.modShard job shard fun x => { x with snaps := x.snaps ++ [a.toNat] }).postGran 7 job shard none).2)

/-- REPLAY: the root holder resends the blocks that a bitmap names to the granaries that the directory names now; status 4 when one
is no longer kept. Holders on other packages are asked, and the command completes once they have answered (16 R385). -/
def execReplay (job shard : Nat) (a b : BitVec 64) (s : State) : Host.Outcome State Fault Refusal :=
  .next (match s.shard? job shard with
    | none => (s.postGran 8 job shard (some 4)).2
    | some x =>
      let n := ShardRec.blocks x.rec'
      let map := leNat (physBytes s.mem b.toNat ((n + 7) / 8))
      let want := (List.range n).filter fun i => map.testBit i
      let mine := fun (i : Nat) => s.granary.kept.find? fun k =>
        k.block.job == job && k.block.shard == shard && k.block.step == a.toNat && k.block.block == i
      let here := want.filterMap mine
      let s := here.foldl (fun s k => s.sendBlock k.block (keepersOf x.rec')) s
      let away := want.filter fun i => (mine i).isNone
      if away.isEmpty then (s.postGran 8 job shard (some 0)).2
      else if s.memberPkgs.isEmpty then (s.postGran 8 job shard (some 4)).2
      else ({ s with out := s.out ++ [Out.replay job shard a.toNat away] }.postGran 8 job shard none).2)

/-- What the PCP brings of a REPLAY that another package has a part in: the blocks that a root holder here keeps are resent to the
granaries that its record names; a REPLAY of this package completes once every other holder has resent, or with status 4 (16 R385,
R399). -/
def State.replayAct (s : State) : PcpAct → State
  | .replay job shard step blocks => match s.shard? job shard with
    | none => s
    | some x => (s.granary.kept.filter fun k => k.block.job == job && k.block.shard == shard && k.block.step == step &&
        blocks.contains k.block.block).foldl (fun s k => s.sendBlock k.block (keepersOf x.rec')) s
  | .replayed job shard all => s.endGran (fun c => c.code == 8 && c.job == job && c.shard == shard) (if all then 0 else 4)
  | _ => s

/-- GRANARY_UNKNOWN_CODE: changes nothing and completes in its turn with status 2. -/
def execGranaryUnknownCode (code job shard : Nat) (s : State) : Host.Outcome State Fault Refusal :=
  .next (s.postGran code job shard (some 2)).2

/-! ### Seeding and failure (16 R401 to R403) -/

/-- SEED_SNAPSHOT_INSTALL: a seed target installs the snapshot, the blocks it held are judged, those that came from root holders
first, and it confirms (16 R401). A HYPER or SNAP that it has taken waits for its next close (16 R399). -/
def execSeedSnapshotInstall (rec : Sys2Proof.ShardRec) (state : List Byte) (served : List Byte) (s : State) :
    Host.Outcome State Fault Refusal :=
  .next (match s.shard? rec.job rec.shard with
    | none => s
    | some x =>
      if x.rec'.role ≠ 3 then s
      else
        let r := { rec with role := 2 }
        let m := physPut s.mem r.sbase state
        let copies := (List.range (ShardRec.blocks r)).map fun b => (copyAddr r b 0, (served.drop (32768 * b)).take 32768)
        let s := { s with mem := copies.foldl (fun m (p : Nat × List Byte) => physPut m p.1 p.2) m }
        let s := s.modShard r.job r.shard fun _ => { Shard.fresh r with hyper := x.hyper, snaps := x.snaps, failed := x.failed }
        let fwd := fun (b : GBlock) => b.sdom == r.hdom && b.spkg == r.hpkg
        let held := (x.held.filter fun b => !fwd b) ++ x.held.filter fwd
        { s with
          inputs := held.map Instr.gradientBlockArrive ++ s.inputs
          out := s.out ++ [Out.confirm r.hdom r.hpkg r.job r.shard] })

/-- SEED_CONFIRM: the home releases the blocks it kept and SEED completes; the directory entry no longer counts as unconfirmed
(16 R401, R403). -/
def execSeedConfirm (job shard : Nat) (s : State) : Host.Outcome State Fault Refusal :=
  .next (match s.shard? job shard with
    | none => s
    | some x => match x.seeding with
      | none => s
      | some _ =>
        let s := s.modShard job shard fun x => { x with seeding := none, kept := [], unconfirmed := false }
        let s := s.endGran (fun c => c.code == 6 && c.job == job && c.shard == shard) 0
        s.publishShard job shard none none)

/-- Whether a valid copy of a shard remains: the home's, or the mirror's once it has confirmed (16 R403). -/
def Shard.copyLeft (x : Shard) : Bool :=
  !x.failed.contains (x.rec'.hdom, x.rec'.hpkg) ||
    (x.rec'.mv && !x.unconfirmed && !x.failed.contains (x.rec'.mdom, x.rec'.mpkg))

/-- Gathers of this package for a shard that have started end with a status. -/
def State.endOwnGathers (s : State) (job shard status : Nat) : State :=
  (s.cmds.filter fun c => match c.body with
    | .gran g _ _ _ _ sent => sent && g.job == job && g.shard == shard
    | _ => false).foldl (fun s c => s.finishGather c (answerBytes status [])) s

/-- The package `(dom, pkg)` that keeps a copy of a shard has failed, or its copy has (16 R401, R403); gathers that it may have taken as
home are sent afresh where the directory already names another (16 R402). -/
def State.keeperFail (s : State) (dom pkg job shard : Nat) : State :=
  match s.shard? job shard with
  | none => s
  | some x =>
    let own := (s.ownDom, s.ownPkg)
    let y : Shard := { x with failed := x.failed ++ [(dom, pkg)] }
    let mine := (dom, pkg) == own
    let y : Shard := if mine then { y with rec' := { y.rec' with role := 0 }, deferred := [], applying := [], timer := none } else y
    let s := s.modShard job shard fun _ => y
    let s := if x.rec'.role ≠ 1 ∧ (dom, pkg) ≠ (x.rec'.hdom, x.rec'.hpkg) then s.resendGathers job shard else s
    let seedFails := match x.seeding with
      | some (d, p, _) => d == dom && p == pkg
      | none => (false : Bool)
    if x.rec'.role = 3 ∧ (dom, pkg) = (x.rec'.hdom, x.rec'.hpkg) then
      s.modGranary fun g => { g with shards := g.shards.filter fun z => !(z.rec'.job == job && z.rec'.shard == shard) }
    else if seedFails then
      let s := s.modShard job shard fun x =>
        { x with rec' := { x.rec' with mv := false }, seeding := none, kept := [], unconfirmed := false }
      let s := s.endGran (fun c => c.code == 6 && c.job == job && c.shard == shard) 6
      s.publishShard job shard none none
    else if !x.lost && !y.copyLeft then
      let s := s.modShard job shard fun x => { x with lost := true, deferred := [] }
      let s := s.granNotice job shard 4 0
      (s.endDeferred x.deferred 3).endOwnGathers job shard 3
    else s

/-- GRANARY_KEEPER_FAIL (16 R401). -/
def execGranaryKeeperFail (dom pkg job shard : Nat) (s : State) : Host.Outcome State Fault Refusal :=
  .next (s.keeperFail dom pkg job shard)

/-- BLOCK_ACKNOWLEDGEMENT: a granary has judged a block that this package keeps; SVR names the granary's domain
(16 R385, log entry 21). -/
def execBlockAcknowledgement (q : DHdr) (job shard block step : Nat) (s : State) : Host.Outcome State Fault Refusal :=
  .next (s.mine q (.blockAck q job shard block step) fun s => s.ackBlock (q.svr, q.spkg) job shard block step)

end Sys2Proof.Machine
end

