-- ==== Sys2Proof/Machine/Migrate.lean ====
section
/-! DEFINITION. Migration of ranks (15 R366 to R379): the sequence of a command, rebuilding page tables, the commit, what a
destination receives, placement updates, a failing stack. -/

namespace Sys2Proof.Machine

/-! ### Template fields (15 R373) -/

def migVr (t : BitVec 512) : Nat := bitsAt t 32 24
def migDstSlot (t : BitVec 512) : Nat := bitsAt t 16 4
def migToSlot (t : BitVec 512) : Bool := bitsAt t 28 2 == 0
def migPkg (t : BitVec 512) : Nat := bitsAt t 64 12
def migDom (t : BitVec 512) : Nat := bitsAt t 80 10
def migList (t : BitVec 512) : Nat := bitsAt t 96 64
def migListLen (t : BitVec 512) : Nat := bitsAt t 160 32
def migFrBase (t : BitVec 512) : Word := t.extractLsb' 192 64
def migResult (t : BitVec 512) : Nat := bitsAt t 256 64

/-! ### Rebuilding the page tables (15 R375) -/

/-- The rebuilding of a tree: the free-frame list, the entries taken in order with whether for 256 MiB, the pages moved, the tables to write and the pages
to copy, each with its destination first. -/
structure Rebuild where
  list : List (BitVec 64)
  taken : List (Nat × Bool)
  pages : Nat
  tables : List (Nat × List Byte)
  copies : List (Nat × Nat × Bool)

/-- The frame that an entry of the list gives. -/
def listFrame (e : BitVec 64) : Nat := bitsAt e 16 48 * 65536

/-- The earliest entry of a kind that no earlier need has taken and that suits; without one the rebuilding ends (15 R375). -/
def Rebuild.need (r : Rebuild) (kind : Nat) (large : Bool) : Except Rebuild (Nat × Rebuild) :=
  match (List.range r.list.length).find? fun i =>
    let e := r.list[i]?.getD 0
    !(r.taken.any fun q => q.1 == i) && bitsAt e 0 1 == kind && (!large || listFrame e % 0x10000000 == 0) with
  | some i => .ok (listFrame (r.list[i]?.getD 0), { r with taken := r.taken ++ [(i, large)] })
  | none => .error r

/-- The frames taken, as a command keeps them: bit 0 marks 256 MiB. -/
def Rebuild.frames (r : Rebuild) : List Nat := r.taken.map fun q => listFrame (r.list[q.1]?.getD 0) + if q.2 then 1 else 0

/-- The new leaf of a page (15 R375); `tk` is the kind of tables and of aperture-0 pages. -/
def Rebuild.leaf (r : Rebuild) (tk : Nat) (e : BitVec 128) (large : Bool) : Except Rebuild (BitVec 128 × Rebuild) :=
  if leafAper e = 0 ∨ leafAper e = 1 then
    match r.need (if leafAper e = 1 then 1 else tk) large with
    | .ok q => .ok (putBits e 64 48 (q.1 / 65536),
        { q.2 with pages := q.2.pages + 1, copies := q.2.copies ++ [(q.1, leafFrame e large, large)] })
    | .error x => .error x
  else .ok (e, r)

/-- The next `n` entries of a table from `i`, each V = 1 entry rebuilt by `f`, the others as they are (15 R375). -/
def Rebuild.entries (f : Rebuild → BitVec 128 → Except Rebuild (BitVec 128 × Rebuild)) (get : Nat → BitVec 128) :
    Nat → Nat → Rebuild → List Byte → Except Rebuild (List Byte × Rebuild)
  | 0, _, r, acc => .ok (acc, r)
  | n + 1, i, r, acc =>
    let e := get i
    if !leafV e then Rebuild.entries f get n (i + 1) r (acc ++ leBytes 16 e.toNat)
    else match f r e with
      | .ok (e', r) => Rebuild.entries f get n (i + 1) r (acc ++ leBytes 16 e'.toNat)
      | .error x => .error x

/-- A table: its frame first, then its entries; answers where it lies. -/
def Rebuild.table (r : Rebuild) (tk n : Nat) (get : Nat → BitVec 128)
    (f : Rebuild → BitVec 128 → Except Rebuild (BitVec 128 × Rebuild)) : Except Rebuild (Nat × Rebuild) :=
  match r.need tk false with
  | .error x => .error x
  | .ok (a, r) => match Rebuild.entries f get n 0 r [] with
    | .error x => .error x
    | .ok (bs, r) => .ok (a, { r with tables := r.tables ++ [(a, bs)] })

/-- A pointer entry names the new table. -/
def Rebuild.pointer (e : BitVec 128) (q : Except Rebuild (Nat × Rebuild)) : Except Rebuild (BitVec 128 × Rebuild) :=
  q.map fun p => (putBits e 64 48 (p.1 / 65536), p.2)

/-- A level-1 table, a level-2 table, and the tree from its root, in ascending virtual address (15 R375). -/
def State.rebuild1 (s : State) (tk : Nat) (e : BitVec 128) (r : Rebuild) : Except Rebuild (Nat × Rebuild) :=
  r.table tk 4096 (fun i => s.pte (pteNext e + 16 * i)) fun r e => r.leaf tk e false

def State.rebuild2 (s : State) (tk : Nat) (e : BitVec 128) (r : Rebuild) : Except Rebuild (Nat × Rebuild) :=
  r.table tk 4096 (fun i => s.pte (pteNext e + 16 * i)) fun r e =>
    if bitAt e 1 then r.leaf tk e true else Rebuild.pointer e (s.rebuild1 tk e r)

def State.rebuildTree (s : State) (tk : Nat) (root : Word) (r : Rebuild) : Except Rebuild (Nat × Rebuild) :=
  r.table tk 256 (fun i => if bitAt root 0 then s.pte (bitsAt root 12 52 * 4096 + 16 * i) else 0) fun r e =>
    Rebuild.pointer e (s.rebuild2 tk e r)

/-! ### Moving data to the destination (15 R374, R375; 17 R426) -/

/-- Sends a part of a migration to a destination in another package: inside the domain as it is, else as a frame of KIND 4 on
rail DSTPKG mod 16 (17 R426). -/
def State.sendPart (s : State) (t : BitVec 512) (p : MigPart) : State :=
  if migDom t = s.ownDom then { s with out := s.out ++ [Out.migration (migPkg t) p] }
  else s.sendFrame 4 { frameHdr (migPkg t % 16) (migDom t) s.ownPkg with dvr := migVr t, svr := migPkg t } (.migration p) none

/-- Memory in the view of the core that submitted a command: its own stores and retired commands of the phase stand over it (05 R116,
R132). -/
def State.viewMem (s : State) (r : SRef) : Memory := match s.rank? r.vr with
  | none => s.mem
  | some k =>
    let m := (k.sbuf.filter fun b => b.core == r.core).foldl (fun (m : Memory) b => match b.dst with
      | .phys a => physPut m a b.bytes
      | _ => m) s.mem
    (k.engView.filter fun w => w.core == r.core).foldl (fun (m : Memory) w => w.bytes.foldl (fun (m : Memory) e => match e.dst with
      | .phys a => physWrite m a e.val
      | _ => m) m) m

/-- A page of a memory moves to a frame of the destination. The frames of the destination hold what is copied from then on, for the
moved rank finds it there once it is installed (15 R374, R376; log entry 18). -/
def State.movePage (s : State) (t : BitVec 512) (src : Memory) (c : Nat × Nat × Bool) : State :=
  let size := pageSize c.2.2
  if s.migrHere t then
    { s with mem := physPaste s.mem c.1 size ((memPart src c.2.1 size).map fun x => (x.1 - c.2.1, x.2)) }
  else (List.range (size / 8192)).foldl (fun s i => s.sendPart t (.page (c.1 + 8192 * i) (physBytes src (c.2.1 + 8192 * i) 8192))) s

/-- A table is written at the destination. -/
def State.moveTable (s : State) (t : BitVec 512) (p : Nat × List Byte) : State :=
  if s.migrHere t then { s with mem := physPut s.mem p.1 p.2 }
  else (pieces (p.2.length + 1) 0 p.2).foldl (fun s q => s.sendPart t (.page (p.1 + q.1) q.2)) s

/-- The free-frame list, as read at submission from this package; in another package its contents are open (log entry 18). -/
def State.freeList (s : State) (t : BitVec 512) (read : List Nat) : List (BitVec 64) × State :=
  let n := migListLen t
  let words := fun (bs : List Byte) => (List.range n).map fun i => BitVec.ofNat 64 (leNat ((bs.drop (8 * i)).take 8))
  if s.migrHere t then (read.map fun e => BitVec.ofNat 64 e, s)
  else
    let (bs, s) := s.freeBytes (8 * n)
    (words bs, s)

/-! ### Ending a command (15 R373, R374) -/

/-- Writes the result record, as a write of the command to memory of this package (05 R130, R453), and retires the command. -/
def State.endMigr (s : State) (c : Cmd) (t : BitVec 512) (status pages frames gangs : Nat) : State :=
  let rec' := leBytes 8 (status + 2 ^ 16 * (pages % 2 ^ 32)) ++ leBytes 8 (frames % 2 ^ 32 + 2 ^ 32 * gangs)
  s.endCmd c (runWrites c.by'.core (.glob 0 0 (migResult t)) rec')

/-- Publishes the placement entry of a VR as this package holds it (15 R376). -/
def State.publishPlace (s : State) (vr : Nat) (cmd : Option Nat) : State :=
  let e := s.placeEntry vr
  s.publish s.memberPkgs (fun q => .placement q vr e) cmd none

/-- A command fails after its step 1: the rank keeps the state it had, and that is published again; the frames taken hold values
that are not defined (15 R374). -/
def State.failMigr (s : State) (c : Cmd) (t : BitVec 512) (status : Nat) (taken : List Nat) : State :=
  let s := s.abandonMigr c
  let s := s.publishPlace (migVr t) none
  let s := if s.migrHere t then taken.foldl (fun s a =>
      let (bs, s) := s.freeBytes (takenSize a)
      { s with mem := physPut s.mem (takenFrame a) bs }) s else s
  s.endMigr c t status 0 taken.length 0

/-! ### The sequence (15 R369, R374) -/

/-- Whether a rank holds at a step boundary: with no access open, no command outstanding and an empty phase log (15 R369). -/
def State.holdsAtStep (s : State) (r : Rank) : Bool :=
  (r.place == .fallow || r.stepSt == .arrived) && r.accesses.isEmpty && r.sbuf.isEmpty && r.engView.isEmpty &&
    !(s.cmds.any fun c => c.by'.vr == r.vr)

/-- Whether a slot is the destination of another migration under way, or of a rank that is coming in (15 R374). -/
def State.slotAwaited (s : State) (k cmd : Nat) : Bool :=
  (s.incoming.any fun r => r.place == .resident k) || s.cmds.any fun x => x.id != cmd && match x.body with
    | .migr u stage _ _ _ _ => stage != 0 && s.migrHere u && migToSlot u && migDstSlot u == k
    | _ => false

/-- The ranks that this package holds or is about to hold, a VR aside (15 R366). -/
def State.rankCount (s : State) (vr : Nat) : Nat :=
  (s.ranks.filter fun x => x.vr != vr).length + (s.incoming.filter fun x => x.vr != vr).length +
    (s.cmds.filter fun x => match x.body with
      | .migr u stage _ _ _ _ => (stage == 1 || stage == 2) && s.migrHere u && migVr u != vr && !(s.ranks.any fun r => r.vr == migVr u)
      | _ => false).length

/-- Step 1 of a command: its status, 0 when it passes. Whether a slot of another package is free, or it has room, is open here
(log entry 2). -/
def State.checkMigr (s : State) (c : Cmd) (t : BitVec 512) : Nat × State :=
  match s.rank? (migVr t) with
  | none => (1, s)
  | some r =>
    let rival := s.slotAwaited (migDstSlot t) c.id
    let k := s.slot (migDstSlot t)
    if r.place = .transit then (6, s)
    else if r.place ≠ migrSource t ∨ !s.holdsAtStep r then (1, s)
    else if s.migrHere t then
      if migToSlot t then (if !bitAt s.clavail (migDstSlot t) || k.occupant.isSome || rival then 2 else 0, s)
      else (if 48 ≤ s.rankCount r.vr then 2 else 0, s)
    else if migDom t = s.ownDom ∧ !s.linked then (7, s)
    else if migDom t ≠ s.ownDom ∧ (s.conn (migPkg t % 16) (migDom t) s.ownPkg).failed then (7, s)
    else
      let (full, s) := s.elapse
      if full then (2, s)
      else
        let (gone, s) := s.elapse
        (if gone then 7 else 0, s)

/-! ### The rank at the destination (15 R376) -/

/-- A gang as its frame keeps it: its scratchpads and rings from the slot it leaves (12 R312). Its eight priority levels place it ahead
of every posted gang when the unit of the destination restores it (15 R376). -/
def Gang.packed (g : Gang) (sl : Slot) (frame : Nat) : Gang :=
  let cs := g.coreNos
  { g with
    cond := .saved frame 2 false
    levels := 8
    readyCycles := 0
    pads := memCanon (cs.flatMap fun n => memPart sl.pads (n * 0x80000) 0x80000)
    rings := (ringKeys cs).filterMap fun k => if assocGet sl.rings k = 0 then none else some (k, assocGet sl.rings k) }

/-- A gang in a frame keeps what it holds and takes a new slot number. -/
def Gang.reframed (g : Gang) (frame : Nat) : Gang := match g.cond with
  | .saved _ why restore => { g with cond := .saved frame why restore }
  | _ => g

/-- Packs the gangs that have started into frame slots from 0 up. -/
def packGangs (sl : Slot) : Nat → List Gang → List Gang × List FrameSlot
  | _, [] => ([], [])
  | n, g :: t =>
    if g.isPlaced then
      let (gs, fs) := packGangs sl (n + 1) t
      (g.packed sl n :: gs, { slot := n, gang := g.id } :: fs)
    else if !g.cores.isEmpty then
      let (gs, fs) := packGangs sl (n + 1) t
      (g.reframed n :: gs, { slot := n, gang := g.id } :: fs)
    else
      let (gs, fs) := packGangs sl n t
      ((if g.cond = .starting then { g with cond := .ready } else g) :: gs, fs)

/-- A rank whose saved gangs are read back from their frames (12 R314). -/
def State.unframed (s : State) (r : Rank) : Rank := { r with gangs := r.gangs.map (s.unframe r) }

/-- The state of a rank as the destination installs it (15 R376). -/
def Rank.migrated (r : Rank) (sl : Slot) (t : BitVec 512) (root : Nat) : Rank :=
  let (gs, fs) := packGangs sl 0 r.gangs
  { r with
    place := if migToSlot t then .resident (migDstSlot t) else .fallow
    gangs := gs.map fun g => { g with cores := g.cores.map fun k => { k with handles := k.handles.map fun h => { h with valid := false } } }
    ptroot := BitVec.ofNat 64 (root + 1)
    gen := r.gen + 1
    frpool := migFrBase t &&& ~~~(0xFFFFF00 : Word)
    frames := fs
    landing := []
    sbuf := []
    engView := []
    posted := []
    accesses := []
    pagedOnce := []
    closing := false
    abroad := false
    walk := true }

/-- The cluster slot that a rank leaves, an empty one for a rank that is fallow. -/
def State.sourceSlot (s : State) (t : BitVec 512) : Slot := match migrSource t with
  | .resident k => s.slot k
  | _ => Slot.reset

/-- The job of a rank as a package that comes to hold its first rank takes it: the ranks of this package that have arrived are
among those held elsewhere (15 R367, R370). -/
def State.jobFor (s : State) (r : Rank) : Option Sys2Proof.Machine.Job :=
  (s.jobs.find? fun j => j.id == r.job).map fun j =>
    { j with arrived := (j.arrived ++ (s.ranks.filter fun x => x.job == j.id && x.vr != r.vr && x.stepSt == .arrived && !x.stephold &&
        x.place != .transit).map fun x => x.vr).dedup }

/-- Steps 2 to 5: wait for the pins, count the gangs to save, rebuild the tables, copy the pages and the state (15 R374, R375). -/
def State.copyRank (s : State) (c : Cmd) (t : BitVec 512) (read : List Nat) : State :=
  match s.rank? (migVr t) with
  | none => s
  | some r =>
    if s.locks.any fun l => l.vr == r.vr then s
    else
      let src := s.viewMem c.by'
      let placed := (r.gangs.filter Gang.isPlaced).length
      let framed := (r.gangs.filter fun g => g.isPlaced || !g.cores.isEmpty).length
      if bitsAt (migFrBase t) 0 8 < framed then s.failMigr c t 4 []
      else
        let (list, s) := s.freeList t read
        match { s with mem := src }.rebuildTree (if migToSlot t then 0 else 1) r.ptroot
            { list := list, taken := [], pages := 0, tables := [], copies := [] } with
        | .error x => s.failMigr c t 3 x.frames
        | .ok (root, x) =>
          let s := x.copies.foldl (fun s q => s.movePage t src q) s
          let s := x.tables.foldl (fun s q => s.moveTable t q) s
          let s := if s.migrHere t then s
            else s.sendPart t (.rank ((s.unframed r).migrated (s.sourceSlot t) t root) (s.jobFor r)
              (s.place.filter fun e => s.jobSize r.vr != 0 && e.1 < s.jobSize r.vr))
          s.modCmd c.id fun c => { c with body := .migr t 2 x.frames x.pages placed root }

/-- MIGRATION_COMMAND: the migration engine runs a command from its queue: first the checks, then, once no page of the rank is
pinned, the copy (15 R374). -/
def execMigrationCommand (id : Nat) (s : State) : Host.Outcome State Fault Refusal :=
  .next (match s.cmd? id with
    | none => s
    | some c => match c.body with
      | .migr t 0 read _ _ _ =>
        if c.ending then s.finishCmd c
        else if !s.cmdLive c || !s.cmdFirst c then s
        else
          let (st, s) := s.checkMigr c t
          if st ≠ 0 then s.endMigr c t st 0 0 0
          else
            let s := s.modCmd id fun c => { c with st := .running, body := .migr t 1 read 0 0 0 }
            let s := (s.modRank (migVr t) fun r => { r with place := .transit }).setPlace (migVr t) (s.restate (migVr t) 2 0)
            (s.tell (migVr t)).publishPlace (migVr t) none
      | .migr t 1 read _ _ _ => s.copyRank c t read
      | _ => s)

/-- Writes the frames of a rank's saved gangs (12 R310 to R313). -/
def State.writeFrames (s : State) (r : Rank) : State :=
  r.gangs.foldl (fun s g => match g.cond with
    | .saved frame why _ => s.putFrame r g frame why g.pads g.rings
    | _ => s) s

/-- A rank is installed in this package: its frames, its slot with the phase shadow of its cores (15 R376). -/
def State.install (s : State) (r : Rank) : State :=
  let s := s.writeFrames r
  let s := match r.place with
    | .resident k => s.modSlot k fun sl =>
        { sl with
          occupant := some r.vr
          shadow := r.gangs.foldl (fun (m : Memory) (g : Gang) => if g.cores.isEmpty then m else padsFrom m g.pads g.coreNos) sl.pads }
    | _ => s
  let r := { r with gangs := r.gangs.map fun (g : Gang) => { g with pads := [], rings := [] } }
  { s with ranks := (s.ranks.filter fun (x : Rank) => x.vr != r.vr) ++ [r] }.tell r.vr

/-- Whether this package can take a rank that comes in: it may have lost the slot meanwhile (15 R366, R379). -/
def State.canTake (s : State) (r : Rank) : Bool :=
  (s.ranks.filter fun x => x.vr != r.vr).length < 48 && match r.place with
    | .resident k => bitAt s.clavail k && ((s.slot k).occupant.isNone || (s.slot k).occupant == some r.vr)
    | _ => true

/-- A rank is lost: its entry becomes STATE 3 (15 R379). -/
def State.loseRank (s : State) (vr : Nat) : State := (s.setPlace vr (s.restate vr 3 0)).publishPlace vr none

/-- A rank of another package is installed, or lost when this package has failed it after the commit (15 R368, R379). Its gangs take
ages after those of this package's, in their order (14 R342), and no queue of this package has posted them (14 R354). -/
def State.joinRank (s : State) (r : Rank) : State :=
  if !s.canTake r then s.loseRank r.vr
  else
    let order := (sortBy (fun (g h : Gang) => g.age < h.age) r.gangs).map fun g => g.id
    let base := s.nextAge
    let gangs := r.gangs.map fun (g : Gang) =>
      { g with
        age := base + order.idxOf g.id
        source := match g.source with
          | .hostQueue _ => .pcp
          | x => x }
    { s with nextAge := base + gangs.length }.install { r with gangs := gangs }

/-- The placement entry of the commit (15 R367, R376). -/
def commitEntry (t : BitVec 512) (stepno : Word) : Word :=
  BitVec.ofNat 64 (stepno.toNat % 2 ^ 32 + (if migToSlot t then 2 ^ 32 * migDstSlot t else 2 ^ 62) + 2 ^ 36 * migPkg t + 2 ^ 48 * migDom t)

/-- Whether frames of a migration to another domain have not been acknowledged (17 R425). -/
def State.partsAway (s : State) (t : BitVec 512) : Bool :=
  migDom t != s.ownDom && (s.conn (migPkg t % 16) (migDom t) s.ownPkg).unacked.any fun f => f.kind == 4 && f.hdr.dvr == migVr t

/-- MIGRATION_COMMIT: the rank is installed at the destination and its entry published; once every package has acknowledged it,
the source is freed and the command retires with status 0 (15 R374, R376). -/
def execMigrationCommit (id : Nat) (s : State) : Host.Outcome State Fault Refusal :=
  .next (match s.cmd? id with
    | none => s
    | some c => match c.body with
      | .migr t 2 taken pages gangs root =>
        if c.ending then s.finishCmd c else match s.rank? (migVr t) with
        | none => s.endMigr c t 5 pages taken.length gangs
        | some r =>
          if s.migrHere t ∧ migToSlot t ∧ !bitAt s.clavail (migDstSlot t) then s.failMigr c t 2 taken
          else if !s.migrHere t ∧ migDom t = s.ownDom ∧ !s.linked then s.failMigr c t 7 taken
          else if s.partsAway t then s
          else
            let s := if s.migrHere t then s.install ((s.unframed r).migrated (s.sourceSlot t) t root) else s
            let s := s.setPlace r.vr (commitEntry t r.stepno)
            let s := s.modCmd id fun c => { c with body := .migr t 3 taken pages gangs root }
            s.publishPlace r.vr (some id)
      | .migr t 3 taken pages gangs _ =>
        if c.ending then s.finishCmd c
        else if s.pubs.any fun p => p.cmd == some id then s
        else (s.freeSource t).endMigr c t 0 pages taken.length gangs
      | _ => s)

/-! ### The destination and the other packages (15 R376, R398 of 16) -/

/-- A rank that comes in, the scratchpads that its frames hold in the form of this state's memories. -/
def Rank.received (r : Rank) : Rank := { r with gangs := r.gangs.map fun g => { g with pads := memCanon g.pads } }

/-- Whether a placement entry names this package as the place of a rank. -/
def State.placedHere (s : State) (e : Word) : Bool := placePkg e == s.ownPkg && placeDom e == s.ownDom && placeState e < 2

/-- A package takes a job of which it comes to hold the first rank, with the entries that it lacks (15 R367). -/
def State.takeJob (s : State) (job : Option Sys2Proof.Machine.Job) (entries : List (Nat × Word)) : State := match job with
  | some j =>
    if s.jobs.any fun x => x.id == j.id then s
    else { s with jobs := s.jobs ++ [j], place := s.place ++ entries.filter fun e => !(s.place.any fun p => p.1 == e.1) }
  | none => s

/-- A part of a migration arrives: bytes of a frame, or a rank, which waits for its entry unless that has come before it. -/
def State.takePart (s : State) : MigPart → State
  | .page a bs => { s with mem := physPut s.mem a bs }
  | .rank r job entries =>
    let s := s.takeJob job entries
    let r := r.received
    if s.placedHere (s.placeEntry r.vr) then s.joinRank r
    else { s with incoming := (s.incoming.filter fun x => x.vr != r.vr) ++ [r] }

/-- MIGRATION_DATA: a frame of KIND 4, whose SVR names the destination package, or a part that came inside the domain (17 R426,
log entry 21). -/
def execMigrationData (f : FrameHdr) (part : MigPart) (s : State) : Host.Outcome State Fault Refusal :=
  .next (
    if f.dom = s.ownDom then s.takePart part
    else s.recvFrame f fun s =>
      if f.svr = s.ownPkg then s.takePart part else { s with out := s.out ++ [Out.migration f.svr part] })

/-- A placement entry takes effect; a rank that has arrived with its state is installed when the entry names this package
(15 R376). -/
def State.applyPlace (s : State) (vr : Nat) (e : Word) : State :=
  let s := s.setPlace vr e
  if s.placedHere e then
    match s.incoming.find? fun r => r.vr == vr with
    | some r => { s with incoming := s.incoming.filter fun r => r.vr != vr }.joinRank r
    | none => s
  else s

/-- A placement or directory change from a package of domain `dom`, and its acknowledgement (15 R376, 16 R398). -/
def State.applyChange (s : State) (d : Demand) : State :=
  let ack := fun (s : State) (q : DHdr) => s.sendTo q.svr (.writeAck { replyHdr q with dvr := 0, svr := s.ownDom })
  match d with
  | .placement q vr e => ack (s.applyPlace vr e) q
  | .directory q job shard mv mdom mpkg hdom hpkg target => ack (s.applyDirectory job shard mv mdom mpkg hdom hpkg target) q
  | _ => s

/-- PLACEMENT_UPDATE: a change for this package takes effect, one for another is passed on (15 R376; 17 R414). -/
def execPlacementUpdate (d : Demand) (s : State) : Host.Outcome State Fault Refusal :=
  .next (s.mine (demandHdr d) d fun s => s.applyChange d)

/-! ### A failing stack (15 R379) -/

/-- The gangs of a rank are killed with notices of KIND 3, which name the L of each gang's first core (12 R299). -/
def State.stopGangs (s : State) (r : Rank) : State :=
  r.gangs.foldl (fun (s : State) g =>
    s.killNotice { vr := r.vr, gang := g.id, core := g.coreNos.headD 0, strand := .l } 3 { tpc := 0 }) s

/-- The migration that moves a rank from a slot and has not committed (15 R368). -/
def State.movingFrom (s : State) (slot vr : Nat) : Option (Cmd × BitVec 512 × List Nat) := s.cmds.findSome? fun c => match c.body with
  | .migr t stage taken _ _ _ =>
    if migVr t = vr ∧ migrSource t = .resident slot ∧ (stage = 1 ∨ stage = 2) then some (c, t, if stage = 2 then taken else []) else none
  | _ => none

/-- STACK_FAILURE: the gangs of the resident rank are killed with notices of KIND 3, the slot is withdrawn and the rank is lost. A
migration that reads the stack fails first, with status 5, which leaves the rank resident (15 R368, R374); a rank that has been
committed elsewhere is not touched. -/
def execStackFailure (slot : Nat) (s : State) : Host.Outcome State Fault Refusal :=
  .next (
    let s := { s with clavail := s.clavail &&& ~~~(BitVec.ofNat 16 (2 ^ slot)) }
    let s := match (s.slot slot).occupant.bind fun vr => s.movingFrom slot vr with
      | some m => s.failMigr m.1 m.2.1 5 m.2.2
      | none => s
    match (s.slot slot).occupant.bind s.rank? with
    | none => s
    | some r =>
      let s := s.modSlot slot fun k => { k with occupant := none }
      if r.place ≠ .resident slot then s
      else
        let s := s.stopGangs r
        { s with ranks := s.ranks.filter fun x => x.vr != r.vr }.loseRank r.vr)

end Sys2Proof.Machine
end

