-- ==== Sys2Proof/Machine/Remote.lean ====
section
/-! DEFINITION. Remote accesses: at their target, under the frame state table and the fault queue (13 R334, R335; 04 R105), and
their answers at the source (13 R336, 17 R414). -/

namespace Sys2Proof.Machine

/-! ### The frame state table (13 R334) -/

/-- The index of a frame in the frame state table. -/
def frameIndex (a : Nat) : Nat := if inLpddr a then 2 ^ 24 + a / 65536 % 2 ^ 26 else a / 65536 % 2 ^ 24

/-- STATE of a frame: 0 and 3 closed, 1 open, 2 parked. -/
def State.frameState (s : State) (index : Nat) : Nat := match s.frameStates.find? fun e => e.1 == index with
  | some e => bitsAt e.2 0 2
  | none => 0

/-- What an access to a physical address of this package meets. -/
inductive FrameGate where
  | refused | opened | parked
  deriving DecidableEq, Repr

def State.gate (s : State) (a : Nat) : FrameGate :=
  if !physExists a then .refused
  else match s.frameState (frameIndex a) with
    | 1 => .opened
    | 2 => .parked
    | _ => .refused

/-- The physical address that a message names, if it names one. -/
def demandAddr : Demand → Option Nat
  | .remoteLoad _ (.phys a) _ => some a
  | .postedWrite _ (.phys a) _ _ _ _ => some a
  | .atomic _ a _ => some a
  | _ => none

/-! ### Performing at the target (04 R105, 13 R334) -/

/-- An access to a physical address of this package performs, and is answered. A store of another rank is held until that rank's
boundary commits it; one that a shoot-down writes to memory is written at once (05 R122; 13 R323, R334). -/
def State.performRemote (s : State) (m : Demand) : State :=
  match m with
  | .remoteLoad q (.phys a) n => s.send (.loadData (replyHdr q) (physBytes s.mem a n))
  | .postedWrite q (.phys a) core strand order bs =>
    (if order % 3 = 2 then ({ s with mem := physPut s.mem a bs } : State)
     else { s with held := s.held ++ [{ vr := q.svr, engine := order % 3 == 1, core := core, strand := strand, order := order, addr := a,
                                        bytes := bs }] }).send (.writeAck (replyHdr q))
  | .atomic q a op => let (old, s) := s.atomAt q.svr a op; s.send (.atomicResult (replyHdr q) old)
  | _ => s

/-- An access arrives at a physical address: performed, refused, parked, or returned when the fault queue is full; a returned
access comes back as a keep-waiting notice whose SVR is 1 (13 R334, R335, log entry 21). -/
def State.arriveRemote (s : State) (m : Demand) (a : Nat) : State :=
  let q := demandHdr m
  match s.gate a with
  | .opened => s.performRemote m
  | .refused => s.send (.refusal (replyHdr q) 1)
  | .parked =>
    if s.faultq.length < 1024 then { s with faultq := s.faultq ++ [{ msg := m, slots := 0 }] }
    else s.send (.keepWaiting { replyHdr q with svr := 1 })

/-- A window access comes for a rank that is not resident here: one to a rank in transit or moved away is dropped and counted (15 R377),
any other is refused with DETAIL 0 (12 R303). -/
def State.notHeld (s : State) (q : DHdr) : State :=
  if s.movedAway q.dvr then { s with dropped := s.dropped + 1 } else s.send (.refusal (replyHdr q) 0)

/-- Whether a window access is valid at its target: it names a scratchpad byte there, and source and target share a coupling group
(04 R103; 12 R303 DETAIL 2, log entry 34). -/
def State.windowOk (s : State) (q : DHdr) (core off : Nat) : Bool :=
  core < 256 && off < 0x80000 && match s.rank? q.dvr with
    | some r => r.coupling.isSome && s.groupOf r.job q.svr == r.coupling
    | none => false

/-- REMOTE_LOAD (17 R414; 04 R105; 13 R334): through a window the value at the phase's start. -/
def execRemoteLoad (q : DHdr) (tgt : RTo) (n : Nat) (s : State) : Host.Outcome State Fault Refusal :=
  .next (s.mine q (.remoteLoad q tgt n) fun s => match tgt with
    | .phys a => s.arriveRemote (.remoteLoad q tgt n) a
    | .window core off => match s.slotOf q.dvr with
      | some k => if !s.windowOk q core off then s.send (.refusal (replyHdr q) 2) else s.send (.loadData (replyHdr q) (memBytes (s.slot k).shadow (core * 0x80000 + off) n))
      | none => s.notHeld q)

/-- POSTED_WRITE (04 R105, 13 R334): a window write is held at the target's owner's port until the boundary. -/
def execPostedWrite (q : DHdr) (tgt : RTo) (core : Nat) (strand : StrandId) (order : Nat) (bytes : List Byte) (s : State) :
    Host.Outcome State Fault Refusal :=
  .next (s.mine q (.postedWrite q tgt core strand order bytes) fun s => match tgt with
    | .phys a => s.arriveRemote (.postedWrite q tgt core strand order bytes) a
    | .window dst off => match s.slotOf q.dvr with
      | some _ =>
        if !s.windowOk q dst off then s.send (.refusal (replyHdr q) 2)
        else (s.modRank q.dvr fun r =>
          { r with posted := r.posted ++ [{ srcVr := q.svr, srcCore := core, srcStrand := strand, order := order, core := dst,
                                            off := off, bytes := bytes }] }).send (.writeAck (replyHdr q))
      | none => s.notHeld q)

/-- ATOMIC (13 R334): at its home, in order of arrival. -/
def execAtomic (q : DHdr) (addr : Nat) (op : RAtom) (s : State) : Host.Outcome State Fault Refusal :=
  .next (s.mine q (.atomic q addr op) fun s => s.arriveRemote (.atomic q addr op) addr)

/-! ### Answers at the source -/

/-- The access in flight that a request number names. -/
def State.accessOf (s : State) (seq : Nat) : Option (Rank × Access) :=
  s.ranks.findSome? fun k => (k.accesses.find? fun a => a.id % 2 ^ 32 == seq).map fun a => (k, a)

/-- Data for a load: through a window as they are, else under the core's own writes of the phase (05 R116). -/
def State.takeLoad (s : State) (k : Rank) (a : Access) (bytes : List Byte) : State :=
  let (bs, s) := match a.dst with
    | .peer p x => s.openRaced a.by' (.peer p x) (k.overlay a.by'.core (.peer p x) bytes)
    | _ => (bytes, s)
  match a.op with
  | .cmdLoad id pos n => (s.dropAccess a.id).cmdData id pos ((bytes ++ List.replicate n 0).take n) 0
  | .fxrd _ g => s.endAccess a ((fxReadCell (BitVec.ofNat 128 (leNat bytes)) g.toInt).setWidth 64)
  | _ => s.endAccess a (BitVec.ofNat 64 (leNat bs))

/-- LOAD_DATA: the value of a load, or the answer to a gather (17 R414, 16 R396). An answer to a gather of a gang that is off its
cores waits. -/
def execLoadData (q : DHdr) (bytes : List Byte) (s : State) : Host.Outcome State Fault Refusal :=
  .next (s.mine q (.loadData q bytes) fun s => match s.accessOf q.seq with
    | some (k, a) => s.takeLoad k a bytes
    | none => match s.gatherCmd? q.seq with
      | some c => if s.cmdLive c then s.finishGather c bytes else { s with net := s.net ++ [.loadData q bytes] }
      | none => s)

/-- WRITE_ACKNOWLEDGEMENT: a window write is counted out, a peer write is done, or a placement or directory change is acknowledged
(04 R105; 15 R376; 16 R398). -/
def execWriteAcknowledgement (q : DHdr) (s : State) : Host.Outcome State Fault Refusal :=
  .next (s.mine q (.writeAck q) fun s => match s.accessOf q.seq with
    | some (_, a) =>
      let s := s.dropAccess a.id
      (match a.dst with
       | .window w _ _ _ => s.modRank a.by'.vr fun k => { k with walOut := k.walOut.setIfInBounds w ((k.walOut[w]?.getD 0) - 1) }
       | _ => s)
    | none => s.pubAck q.seq)

/-- ATOMIC_RESULT: the old value returns to the strand (07 R177). -/
def execAtomicResult (q : DHdr) (old : BitVec 64) (s : State) : Host.Outcome State Fault Refusal :=
  .next (s.mine q (.atomicResult q old) fun s => match s.accessOf q.seq with
    | some (_, a) => s.endAccess a old
    | none => s)

/-- KEEP_WAITING_NOTICE: the access waits on; one that a full fault queue returned is sent again 65,536 slots later
(13 R335, R336). -/
def execKeepWaitingNotice (q : DHdr) (s : State) : Host.Outcome State Fault Refusal :=
  .next (s.mine q (.keepWaiting q) fun s => match s.accessOf q.seq with
    | some (_, a) => s.modAccess a.id fun a => { a with slots := 0, resend := if q.svr = 1 then some 65536 else a.resend }
    | none => s)

/-- REFUSAL (13 R334, 12 R307). -/
def execRefusal (q : DHdr) (detail : Nat) (s : State) : Host.Outcome State Fault Refusal :=
  .next (s.mine q (.refusal q detail) fun s => match s.accessOf q.seq with
    | some (_, a) => s.refuseAccess a detail
    | none => s)

/-! ### The supervisor and the timers at the target (13 R335) -/

/-- FRAME_STATE_SET: accesses parked at the frame perform in their order of arrival, or are refused (13 R335). -/
def execFrameStateSet (index : Nat) (st : BitVec 8) (s : State) : Host.Outcome State Fault Refusal :=
  .next (
    let s := { s with frameStates := (s.frameStates.filter fun e => e.1 != index) ++ [(index, st)] }
    let at' := fun (p : Parked) => (demandAddr p.msg).map frameIndex == some index
    if bitsAt st 0 2 = 2 then s
    else
      let mine := s.faultq.filter at'
      let s := { s with faultq := s.faultq.filter fun p => !at' p }
      if bitsAt st 0 2 = 1 then mine.foldl (fun (s : State) p => s.performRemote p.msg) s
      else mine.foldl (fun (s : State) p => s.send (.refusal (replyHdr (demandHdr p.msg)) 1)) s)

/-- KEEP_WAITING_TIMER: every 65,536 slots a parked access's requester is told that it waits (13 R335). -/
def execKeepWaitingTimer (q : DHdr) (s : State) : Host.Outcome State Fault Refusal :=
  .next (match s.faultq.find? fun p => demandHdr p.msg == q && 65536 ≤ p.slots with
    | none => s
    | some _ =>
      let fq := s.faultq.map fun (p : Parked) =>
        if demandHdr p.msg = q ∧ 65536 ≤ p.slots then { p with slots := p.slots - 65536 } else p
      { s with faultq := fq }.send (.keepWaiting (replyHdr q)))

end Sys2Proof.Machine
end

