-- ==== Sys2Proof/Machine/Fabric.lean ====
section
/-! DEFINITION. The fabric: furrow transfers at their origin, at routers and at their end (17 R407 to R412, R416), headland slots
(17 R413), links and their training (17 R418 to R421), the load of the furrow table (17 R408). -/

namespace Sys2Proof.Machine

/-! ### Furrow entries (17 R408) -/

def furOff (e : BitVec 128) : Nat := bitsAt e 96 32
def furNflit (e : BitVec 128) : Nat := bitsAt e 80 16
def furFid (e : BitVec 128) : Nat := bitsAt e 64 16
def furRole (e : BitVec 128) : Nat := bitsAt e 60 4
def furOuts (e : BitVec 128) : List Nat := (List.range 32).filter fun l => bitAt e (24 + l)
def furInl (e : BitVec 128) : Nat := bitsAt e 18 6
def furInr (e : BitVec 128) : Nat := bitsAt e 12 6
def furOp (e : BitVec 128) : Nat := bitsAt e 8 4
def furFmt (e : BitVec 128) : Nat := bitsAt e 4 4
def furRecw (e : BitVec 128) : Nat := bitsAt e 0 4

/-- Whether an entry agrees with the table of R408 under a schedule period. -/
def furLegal (sper : Nat) (e : BitVec 128) : Bool :=
  let role := furRole e
  1 ≤ role && role ≤ 5 && bitsAt e 56 4 == 0 && furNflit e != 0 && furInl e ≤ 32 && furInr e ≤ 32 &&
    (role != 1 || (furOff e % 8 != 7 && furOff e < sper)) &&
    (role != 5 || (furOp e ≤ 3 && furFmt e ≤ 13 && (furOp e != 3 || 3 ≤ furRecw e)))

/-- FURROW_TABLE_LOAD: the table, the period and what goes with them; a load with a bad entry is refused whole (17 R408, R409). -/
def execFurrowTableLoad (t : FurrowLoad) (s : State) : Host.Outcome State Fault Refusal :=
  .next (
    let period := (List.range 15).any fun k => t.sper == 2 ^ (10 + k)
    if !period || 65536 < t.entries.length || !(t.entries.all (furLegal t.sper)) then s
    else s.modFabric fun f =>
      { f with sper := t.sper, furrows := t.entries, consumers := t.consumers, holders := t.holders, routes := t.routes,
               boundary := t.boundary })

/-! ### Departure (17 R407, R409) -/

/-- The slot of flit `i` of a transfer whose flit 0 leaves at `s`: the i-th scheduled slot from it. -/
def flitSlot (s i : Nat) : Nat :=
  let r := s % 8
  s - r + 8 * ((r + i) / 7) + (r + i) % 7

/-- The number of flits of a transfer of `b` bytes (17 R407). -/
def flitCount (b : Nat) : Nat := (b + 4 + 55) / 56

/-- The flits of a transfer: its bytes, zeros, and their CRC in the last four bytes (17 R407). -/
def flitsOf (fid xfer : Nat) (bs : List Byte) : List Flit :=
  let n := flitCount bs.length
  let stream := bs ++ List.replicate (56 * n - 4 - bs.length) 0 ++ leBytes 4 (crc32c bs).toNat
  (List.range n).map fun i =>
    { fid := fid, idx := i, xfer := xfer, payload := BitVec.ofNat 448 (leNat ((stream.drop (56 * i)).take 56)) }

/-- The 64 bytes of a scheduled flit as a link carries them: FID, IDX, XFER and zero, then the payload (17 R407). -/
def flitWord (f : Flit) : BitVec 512 :=
  BitVec.ofNat 512 (leNat (leBytes 2 f.fid ++ leBytes 2 f.idx ++ leBytes 2 f.xfer ++ leBytes 2 0 ++ leBytes 56 f.payload.toNat))

/-- Gives a flit to its output links in a slot. -/
def State.depart (s : State) (outs : List Nat) (slot input : Nat) (f : Flit) : State :=
  s.modFabric fun fb => { fb with departing := fb.departing ++ outs.map fun l => { link := l, slot := slot, input := input, flit := f } }

/-- The slot of the domain time base. -/
def State.slotNow (s : State) : Nat := s.fabric.dtb.toNat

/-- FLIT_FORWARD: the flit of a link's next slot leaves, in a scheduled slot (17 R406); of several in one slot the one from the lowest input, the others being
dropped and reported; a link that is not up, or is fenced, carries none (17 R409, R412, R420). -/
def execFlitForward (link : Nat) (s : State) : Host.Outcome State Fault Refusal :=
  .next (
    let due := s.fabric.departing.filter fun d => d.link == link && d.slot ≤ s.slotNow
    match sortBy (fun (a b : Departing) => a.slot < b.slot || (a.slot == b.slot && a.input < b.input)) due with
    | [] => s
    | d :: _ =>
      if s.slotNow % 8 = 7 then s else
      let same := fun (x : Departing) => x.link == link && x.slot == d.slot
      let lost := (due.filter same).filter fun x => x != d
      let s := s.modFabric fun f => { f with departing := f.departing.filter fun x => !same x }
      let s := lost.foldl (fun s x => s.fabricEvent 1 (link + 2 ^ 8 * d.flit.fid + 2 ^ 24 * x.flit.fid)) s
      match s.fabric.links[link]? with
      | some l => if l.up && !l.fenced then { s with out := s.out ++ [Out.flit link (flitWord d.flit)] } else s
      | none => s)

/-! ### Transfers that end here (17 R411) -/

/-- The payload stream of flits in order. -/
def streamOf (l : List (Nat × BitVec 448)) (n : Nat) : Option (List Byte) :=
  ((List.range n).mapM fun i => (l.find? fun p => p.1 == i).map fun p => leBytes 56 p.2.toNat).map List.flatten

/-- The number of content bytes of a stream: one of a boundary flit, else what the stream's own length says (log entry 21). -/
def streamLen (boundary : Bool) (st : List Byte) : Nat := if boundary then 1 else 16 + leNat ((st.drop 4).take 4) / 2

/-- The number of flits of a transfer, as its own length says, at most those of its furrow (17 R407, log entry 21). -/
def xferFlits (boundary : Bool) (nflit : Nat) (st : List Byte) : Nat := min nflit (flitCount (streamLen boundary st))

/-- The number of flits of a transfer of which some have come: that of its furrow while flit 0 is missing. -/
def countIn (boundary : Bool) (nflit : Nat) (l : List (Nat × BitVec 448)) : Nat := match l.find? fun p => p.1 == 0 with
  | some p => xferFlits boundary nflit (leBytes 56 p.2.toNat)
  | none => nflit

/-- The content of a stream of `n` flits whose CRC holds. -/
def streamBytes (boundary : Bool) (n : Nat) (st : List Byte) : Option (List Byte) :=
  let bs := st.take (streamLen boundary st)
  if streamLen boundary st + 4 ≤ 56 * n ∧ leBytes 4 (crc32c bs).toNat = st.drop (56 * n - 4) then some bs else none

/-- A gradient block read from the content of a transfer (16 R383): the replay field and the number name its root holder. -/
def blockOf (shard : Nat) (bs : List Byte) : GBlock :=
  let f := fun (o n : Nat) => leNat ((bs.drop (16 + o)).take n)
  { sdom := leNat (bs.take 4), spkg := leNat ((bs.drop 8).take 8), job := f 0 4, shard := shard, block := f 4 4 / 65536, step := f 8 8,
    ecnt := f 16 4, fmt := f 20 4, crc := BitVec.ofNat 32 (f 28 4),
    payload := (chunksOf 4 16384 (bs.drop 48)).map fun v => BitVec.ofNat 32 v }

/-- A transfer reaches its consumer (17 R411). The value of a node says with which operator, format and RECW it was made, and whether
members have differed (10 R280). -/
def State.consume (s : State) (c : Consumer) (bs : List Byte) : State :=
  let replay := leNat (bs.take 4)
  let last := leNat ((bs.drop 4).take 4) % 2 == 1
  let n := leNat ((bs.drop 8).take 8)
  match c with
  | .landing vr slot endpoint src tag =>
    s.deposit vr { slot := slot, replay := replay, endpoint := endpoint, src := src, tag := tag, bytes := bs.drop 16, whole := last } n
  | .node key level k opf recw desc tag =>
    let at' := fun (o n : Nat) => leNat ((bs.drop o).take n)
    s.landNode { key := { key with replay := replay, pos := at' 16 8, len := at' 24 8 }, level := level, k := k,
                 opf := BitVec.ofNat 16 (at' 32 2), recw := at' 34 1, desc := desc, tag := tag, step := n,
                 differs := at' 35 1 != 0 || BitVec.ofNat 16 (at' 32 2) != opf ||
                   (opfOp opf == 3 && at' 34 1 != recw), bytes := bs.drop 36 }
  | .granary _ shard => { s with inputs := s.inputs ++ [Instr.gradientBlockArrive (blockOf shard bs)] }
  | .boundary group => s.groupResult group (bs.headD 0).toNat

/-- Whether a FID is a boundary furrow. -/
def State.isBoundary (s : State) (fid : Nat) : Bool := s.fabric.boundary.any fun b => b.fid == fid

/-- Tells the origins of a furrow that ends here of a transfer: an ACK, or a NACK (17 R411). -/
def State.answerXfer (s : State) (fid xfer : Nat) (ok : Bool) : State :=
  match s.fabric.consumers.find? fun c => c.1 == fid with
  | none => s
  | some c => c.2.1.foldl (fun s p =>
    let q : DHdr := { dpkg := p, spkg := s.ownPkg, dvr := 0, svr := 0, seq := 0 }
    s.send (if ok then .transferAck q fid xfer else .transferNack q fid xfer)) s

/-- Drops what has come of a transfer. -/
def State.dropIn (s : State) (fid xfer : Nat) : State :=
  s.modFabric fun f => { f with ins := f.ins.filter fun x => !(x.fid == fid && x.xfer == xfer) }

/-- Notes that a transfer has been delivered; numbers half a round behind are forgotten. -/
def State.noteDelivered (s : State) (fid xfer : Nat) : State :=
  s.modFabric fun f =>
    { f with delivered := (f.delivered.filter fun d => d.1 != fid || (xfer + 65536 - d.2) % 65536 < 32768) ++ [(fid, xfer)] }

/-- A flit of a furrow that ends here; with the last one the transfer is delivered and acknowledged, or fails (17 R411). -/
def State.takeFlit (s : State) (e : BitVec 128) (f : Flit) : State :=
  if s.fabric.delivered.contains (f.fid, f.xfer) then (if f.idx = 0 then s.answerXfer f.fid f.xfer true else s)
  else
    let isIt := fun (x : XferIn) => x.fid == f.fid && x.xfer == f.xfer
    let late := flitSlot (s.slotNow % 8) (furNflit e - 1 - f.idx) - s.slotNow % 8
    let old := (s.fabric.ins.find? isIt).getD { fid := f.fid, xfer := f.xfer, flits := [], lastSlot := s.slotNow + late, failed := false }
    let x : XferIn := { old with flits := (old.flits.filter fun p => p.1 != f.idx) ++ [(f.idx, f.payload)] }
    let s := s.modFabric fun fb => { fb with ins := (fb.ins.filter fun y => !isIt y) ++ [x] }
    let n := countIn (s.isBoundary f.fid) (furNflit e) x.flits
    if f.idx + 1 < n then s
    else
      let s := s.dropIn f.fid f.xfer
      match (streamOf x.flits n).bind (streamBytes (s.isBoundary f.fid) n), x.failed with
      | some bs, false =>
        let s := (s.noteDelivered f.fid f.xfer).answerXfer f.fid f.xfer true
        (match s.fabric.consumers.find? fun c => c.1 == f.fid with
         | some c => s.consume c.2.2 bs
         | none => s)
      | _, _ => s.answerXfer f.fid f.xfer false

/-- TRANSFER_FAIL: the slot of the last flit has passed with a flit missing: nothing is delivered, and a NACK is sent; a
transfer that has been delivered is acknowledged anew (17 R411). -/
def execTransferFail (fid xfer : Nat) (s : State) : Host.Outcome State Fault Refusal :=
  .next (
    if s.fabric.delivered.contains (fid, xfer) then s.answerXfer fid xfer true
    else match s.fabric.ins.find? fun x => x.fid == fid && x.xfer == xfer with
      | some x => if x.lastSlot < s.slotNow then (s.dropIn fid xfer).answerXfer fid xfer false else s
      | none => s.answerXfer fid xfer false)

/-! ### Combine nodes (17 R416) -/

/-- The result stream of two operand streams of one length: the head of the left one, the elements combined, and a CRC over the
result; a CRC that does not hold where one of the operands' does not (17 R416, R411). The head of a tree's value keeps in mind that the
operator, format or RECW of the operands differ from each other or from the node's (10 R280). Bytes that are open are 0 in the flit
until they are known. -/
def combineStreams (boundary : Bool) (e : BitVec 128) (l r : List Byte) : List (Option Byte) :=
  let k := xferFlits boundary (furNflit e) l
  let n := 56 * k
  let len := streamLen boundary l
  let opf : BitVec 16 := BitVec.ofNat 16 (furFmt e + 256 * furOp e)
  let own := leBytes 2 opf.toNat ++ leBytes 1 (if furOp e = 3 then furRecw e else 0)
  let at' := fun (s : List Byte) (o n : Nat) => (s.drop o).take n
  let differs := at' l 35 1 != [0] || at' r 35 1 != [0] || at' l 32 3 != at' r 32 3 || at' l 32 3 != own
  let head := if boundary then [] else l.take 35 ++ [if differs then 1 else 0]
  let body := combine opf (furRecw e) ((l.take len).drop head.length) ((r.take len).drop head.length)
  let res := head.map some ++ body
  let bytes := res.map fun b => b.getD 0
  let good := (streamBytes boundary k l).isSome && (streamBytes boundary k r).isSome
  let crc := if good then crc32c bytes else ~~~ crc32c bytes
  res ++ List.replicate (n - 4 - res.length) (some 0) ++ (leBytes 4 crc.toNat).map some

/-- The streams of what has come so far, missing flits as zeros. -/
def partialStream (l : List (Nat × BitVec 448)) (n : Nat) : List Byte :=
  (List.range n).flatMap fun i => match l.find? fun p => p.1 == i with
    | some p => leBytes 56 p.2.toNat
    | none => List.replicate 56 0

/-- Flits of the result that have not left take the values that the operands give by now; a record that spans flits is complete
before its flits leave (17 R416). -/
def State.refreshCombined (s : State) (e : BitVec 128) (c : Combining) : State :=
  let n := furNflit e
  let st := (combineStreams (s.isBoundary c.fid) e (partialStream c.left n) (partialStream c.right n)).map fun b => b.getD 0
  s.modFabric fun f =>
    { f with departing := f.departing.map fun d =>
        if d.flit.fid = c.fid ∧ d.flit.xfer = c.xfer then
          { d with flit := { d.flit with payload := BitVec.ofNat 448 (leNat ((st.drop (56 * d.flit.idx)).take 56)) } }
        else d }

/-- A flit of an operand of a combine node in a slot; the flit of the result leaves 40 slots after both operands' flits have come
(17 R416). -/
def State.combineFlit (s : State) (e : BitVec 128) (slot input : Nat) (f : Flit) : State :=
  let old := (s.fabric.combining.find? fun c => c.fid == f.fid && c.xfer == f.xfer).getD { fid := f.fid, xfer := f.xfer, left := [], right := [] }
  let put := fun (l : List (Nat × BitVec 448)) => (if f.idx = 0 then [] else l.filter fun p => p.1 != f.idx) ++ [(f.idx, f.payload)]
  let c : Combining := if input = furInl e then { old with left := put old.left } else { old with right := put old.right }
  let s := s.modFabric fun fb => { fb with combining := (fb.combining.filter fun c => c.fid != f.fid) ++ [c] }
  let other := if input = furInl e then c.right else c.left
  let s := if other.any fun p => p.1 == f.idx then s.depart (furOuts e) (slot + 40) input f else s
  s.refreshCombined e c

/-! ### Arrival (17 R409, R410) -/

/-- The entry of a flit on an input: FID and input alone decide (17 R410). -/
def State.entryFor (s : State) (input fid : Nat) : Option (BitVec 128) :=
  s.fabric.furrows.find? fun e => furFid e == fid && (furInl e == input || (furRole e == 5 && furInr e == input))

/-- SCHEDULED_FLIT_ARRIVE (17 R409 to R411, R416). -/
def execScheduledFlitArrive (input : Nat) (f : Flit) (s : State) : Host.Outcome State Fault Refusal :=
  .next (match s.entryFor input f.fid with
    | none => s.fabricEvent 6 (input + 2 ^ 8 * f.fid)
    | some e => match furRole e with
      | 1 => s.depart (furOuts e) s.slotNow input f
      | 2 => s.depart (furOuts e) (s.slotNow + 40) input f
      | 3 => s.takeFlit e f
      | 4 => (s.depart (furOuts e) (s.slotNow + 40) input f).takeFlit e f
      | _ => s.combineFlit e s.slotNow input f)

/-- Whether transfers of this package enter a furrow by an entry: at its origin, or at a combine node of which local injection, input 32,
brings an operand (17 R408). -/
def furInjects (e : BitVec 128) : Bool := furRole e == 1 || (furRole e == 5 && (furInl e == 32 || furInr e == 32))

/-- FURROW_DEPART: the first transfer that waits on a furrow leaves in a slot that matches OFF (17 R409), over links or into the
package's own combine node (17 R416, log entry 21). -/
def execFurrowDepart (fid : Nat) (s : State) : Host.Outcome State Fault Refusal :=
  .next (match s.fabric.furrows.find? fun e => furFid e == fid && furInjects e,
      s.fabric.outs.find? fun x => x.fid == fid && x.departed.isNone with
    | some e, some x =>
      let now := s.slotNow
      if now % s.fabric.sper ≠ furOff e ∨ now < x.ready ∨ furNflit e < flitCount x.bytes.length then s
      else
        let s := s.modFabric fun f =>
          { f with outs := f.outs.map fun y => if y.fid = fid ∧ y.xfer = x.xfer then { y with departed := some now } else y }
        (flitsOf fid x.xfer x.bytes).foldl (fun s f =>
          if furRole e = 1 then s.depart (furOuts e) (flitSlot now f.idx) 32 f else s.combineFlit e (flitSlot now f.idx) 32 f) s
    | _, _ => s)

/-! ### Answers at the origin (17 R411) -/

/-- TRANSFER_ACK: when every package at which the furrow ends has acknowledged, the transfer is done and its op's send accepted. -/
def execTransferAck (q : DHdr) (fid xfer : Nat) (s : State) : Host.Outcome State Fault Refusal :=
  .next (s.mine q (.transferAck q fid xfer) fun s =>
    match s.fabric.outs.find? fun x => x.fid == fid && x.xfer == xfer with
    | none => s
    | some x =>
      let left := x.awaiting.filter fun p => p != q.spkg
      let s := s.modFabric fun f =>
        { f with outs := (f.outs.map fun y => if y.fid = fid ∧ y.xfer = xfer then { y with awaiting := left } else y).filter fun y =>
            !(y.fid == fid && y.xfer == xfer && left.isEmpty) }
      if left.isEmpty then s.markSent x.op else s)

/-- TRANSFER_NACK: the transfer leaves again at its next departure slot; after the eighth failed attempt it is given up with
event 2 (17 R411). -/
def execTransferNack (q : DHdr) (fid xfer : Nat) (s : State) : Host.Outcome State Fault Refusal :=
  .next (s.mine q (.transferNack q fid xfer) fun s =>
    match s.fabric.outs.find? fun x => x.fid == fid && x.xfer == xfer && x.departed.isSome with
    | none => s
    | some x =>
      if 8 ≤ x.attempts + 1 then
        (s.modFabric fun f => { f with outs := f.outs.filter fun y => !(y.fid == fid && y.xfer == xfer) }).fabricEvent 2 (2 ^ 8 * fid)
      else s.modFabric fun f =>
        { f with outs := f.outs.map fun y =>
            if y.fid = fid ∧ y.xfer = xfer then { y with attempts := y.attempts + 1, departed := none, ready := s.slotNow } else y })

/-! ### Headland slots (17 R413) -/

/-- HEADLAND_SLOT: a slot s with s mod 8 = 7 (17 R406) of an output belongs to input (h + o) mod 33, else to the next one in ascending order that has a flit
waiting for it (17 R413). -/
def execHeadlandSlot (link : Nat) (s : State) : Host.Outcome State Fault Refusal :=
  .next (
    let h := (s.slotNow + 1) / 8 - 1
    let up := match s.fabric.links[link]? with
      | some l => l.up && !l.fenced
      | none => (false : Bool)
    let first := fun (i : Nat) => s.fabric.head.find? fun m => m.link == link && m.input == (h + link + i) % 33
    if s.slotNow % 8 ≠ 7 then s
    else match (List.range 33).findSome? first with
    | some m =>
      if up then
        { s.modFabric fun f => { f with head := f.head.erase m } with out := s.out ++ [Out.demand link m.msg] }
      else s
    | none => s)

/-! ### Links (17 R418 to R421) -/

/-- Fields of a training record (17 R419). -/
def trMap (r : BitVec 128) (i : Nat) : Nat := bitsAt r (72 + 3 * i) 3
def trGood (r : BitVec 128) (i : Nat) : Bool := bitAt r (64 + i)
def trSpd (r : BitVec 128) : Nat := bitsAt r 62 2
def trPass (r : BitVec 128) : Nat := bitsAt r 32 2

/-- The CRC of a training record, over its bits 95 to 0 (17 R419). -/
def trCrc (r : BitVec 128) : BitVec 32 := crc32c (leBytes 12 (bitsAt r 0 96))

/-- A record completed with the sender's identity, its time and its CRC. -/
def State.sealRecord (s : State) (link pass : Nat) (r : BitVec 128) : BitVec 128 :=
  let b := putBits (putBits (putBits (putBits (putBits r 0 32 s.slotNow) 32 2 pass) 34 12 s.ownPkg) 46 10 s.ownDom) 56 6 link
  putBits b 96 32 (trCrc b).toNat

/-- Changes a link. -/
def State.modLink (s : State) (i : Nat) (f : Link → Link) : State := s.modFabric fun fb => { fb with links := fb.links.modify i f }

/-- An end sends its offer: which of its lanes are good, what carries them and at which speed is open (17 R419, R420, log
entry 5). -/
def State.sendOffer (s : State) (link round : Nat) : State :=
  let w := Config.freeWord s.free
  let spd := bitsAt w 0 2
  let r : BitVec 128 := putBits (putBits (putBits 0 72 24 (bitsAt w 8 24)) 64 8 (bitsAt w 32 8)) 62 2 (if spd = 3 then 0 else spd)
  let r := s.sealRecord link 1 r
  { s.modLink link fun l => { l with up := false, offer := some r, round := round, lanes := 0, spd := 0 } with
    free := s.free + 1, out := s.out ++ [Out.training link r] }

/-- The physical lanes that are good at both ends (17 R420). -/
def goodLanes (a b : BitVec 128) : Nat :=
  let at' := fun (r : BitVec 128) (p : Nat) => (List.range 8).any fun i => trGood r i && trMap r i == p
  ((List.range 8).filter fun p => at' a p && at' b p).length

/-- A number of lanes rounded down to 8, 4, 2 or 1; 0 stays (17 R420). -/
def roundLanes (n : Nat) : Nat := if 8 ≤ n then 8 else if 4 ≤ n then 4 else if 2 ≤ n then 2 else n

/-- The configuration that two offers give: lanes and speed; none when no lane is good or a speed is illegal. -/
def agreement (a b : BitVec 128) : Option (Nat × Nat) :=
  let n := roundLanes (goodLanes a b)
  let v := max (trSpd a) (trSpd b)
  if n = 0 ∨ v = 3 then none else some (n, v)

/-- A link is fenced (17 R420). -/
def State.fence (s : State) (link : Nat) : State :=
  (s.modLink link fun l => { l with up := false, fenced := true, offer := none }).fabricEvent 3 link

/-- A training that does not match runs once more, then the link is fenced (17 R420). -/
def State.retrain (s : State) (link : Nat) (l : Link) : State := if l.round = 0 then s.sendOffer link 1 else s.fence link

/-- A package that joins its domain takes the time base of its first trained neighbour, of which a record carries 32 bits (17 R405, R419);
the delay that training removes is not in the model (log entry 5). -/
def State.joinTime (s : State) (rec : BitVec 128) : State :=
  if s.fabric.joining then s.modFabric fun f => { f with dtb := putBits f.dtb 0 32 (bitsAt rec 0 32), joining := false } else s

/-- TRAINING_RECORD: an offer is answered by the agreement; an agreement that matches brings the link up (17 R420, R421). -/
def execTrainingRecord (link : Nat) (rec : BitVec 128) (s : State) : Host.Outcome State Fault Refusal :=
  .next (match s.fabric.links[link]? with
    | none => s
    | some l => match l.offer with
      | none => s
      | some own =>
        if trCrc rec ≠ rec.extractLsb' 96 32 then s.retrain link l
        else if trPass rec = 1 then
          match agreement own rec with
          | none => s.fence link
          | some (n, v) =>
            let r := s.sealRecord link 2 (putBits (putBits 0 64 8 (2 ^ n - 1)) 62 2 v)
            { s.modLink link fun l => { l with lanes := n, spd := v } with out := s.out ++ [Out.training link r] }
        else if trPass rec = 2 then
          if l.lanes ≠ 0 ∧ bitsAt rec 64 8 = 2 ^ l.lanes - 1 ∧ trSpd rec = l.spd then
            let s := (s.joinTime rec).modLink link fun l => { l with up := true, fenced := false, offer := none, round := 0 }
            if l.lanes < 8 ∨ l.spd ≠ 0 then s.fabricEvent 4 (link + 2 ^ 8 * l.lanes + 2 ^ 16 * l.spd) else s
          else s.retrain link l
        else s)

/-- The number of the package next to this one in a direction (17 R414, R418). -/
def neighbour (p d : Nat) : Nat :=
  let i := d / 2
  let c := pkgCoord p i
  p - c * 8 ^ i + (if d % 2 = 0 then (c + 1) % 8 else (c + 7) % 8) * 8 ^ i

/-- LINK_LOSS_OF_LOCK: the link is fenced and trains again; demand flits that wait for it move to the next parallel link that is
up; a neighbour without any is reported unreachable (17 R421). -/
def execLinkLossOfLock (link : Nat) (s : State) : Host.Outcome State Fault Refusal :=
  .next (match s.fabric.links[link]? with
    | none => s
    | some l =>
      if !l.up then s
      else
        let s := s.fence link
        let d := link / 4
        let next := [1, 2, 3].findSome? fun k =>
          let m := 4 * d + (link + k) % 4
          match s.fabric.links[m]? with
          | some x => if x.up && !x.fenced then some m else none
          | none => none
        let s := s.modFabric fun f =>
          { f with
            departing := f.departing.filter fun x => x.link != link
            head := f.head.map fun m => if m.link = link then { m with link := next.getD link } else m }
        let s := if next.isNone then s.fabricEvent 5 (2 ^ 8 * neighbour s.ownPkg d) else s
        s.sendOffer link 0)

end Sys2Proof.Machine
end

