-- ==== Sys2Proof/Machine/Transport.lean ====
section
/-! DEFINITION. The scale-out transport as its frames come in (17 R423 to R426): acknowledgements, gaps, granary blocks and demand
traffic of another domain; the resend of frames and the failure of a connection. Chunks and migration data are in Coll and
Migrate. -/

namespace Sys2Proof.Machine

/-! ### Acknowledgements and gaps (17 R425) -/

/-- The times a frame is resent before its connection fails (17 R425). -/
def maxResends : Nat := 32

/-- The time without an acknowledgement after which a frame is resent: 16 µs in fabric slots (17 R405, R425). -/
def resendSlots : Nat := 50000

/-- The migrations that are carried over a connection and not committed. -/
def State.migrsOn (s : State) (c : Conn) : List (Cmd × BitVec 512 × List Nat) :=
  s.cmds.filterMap fun x => match x.body with
    | .migr t stage taken _ _ _ =>
      if (stage = 1 ∨ stage = 2) ∧ migDom t = c.dom ∧ migDom t ≠ s.ownDom ∧ migPkg t % 16 = c.port then some (x, t, taken) else none
    | _ => none

/-- A connection fails: event 7, what waits on it does not complete, and a migration over it ends with status 7 (17 R425, R417;
15 R374). -/
def State.failConn (s : State) (c : Conn) : State :=
  let s := (s.setConn { c with unacked := [], failed := true }).fabricEvent 7 (c.port + 2 ^ 8 * c.pkg + 2 ^ 24 * c.dom)
  (s.migrsOn c).foldl (fun s m => s.failMigr m.1 m.2.1 7 m.2.2) s

/-- Resends the frames of a connection that are named, among those that have left; a frame that has been resent 32 times fails
the connection instead (17 R425). -/
def State.resend (s : State) (c : Conn) (named : OutFrame → Bool) : State :=
  let sent := c.unacked.take connWindow
  if sent.any fun f => named f && maxResends ≤ f.resends then s.failConn c
  else
    let again := fun (f : OutFrame) =>
      if named f then { f with resends := f.resends + 1, age := 0, hdr := { f.hdr with ackseq := c.recvNext } } else f
    let s := s.setConn { c with unacked := sent.map again ++ c.unacked.drop connWindow }
    { s with out := s.out ++ (sent.filter named).map fun f =>
        Out.frame f.hdr.port f.kind { f.hdr with ackseq := c.recvNext } f.body }

/-- FRAME_ACK: a frame of KIND 2 acknowledges what comes before ACKSEQ (17 R425). -/
def execFrameAck (f : FrameHdr) (s : State) : Host.Outcome State Fault Refusal :=
  .next (if f.crcOk then s.ackFrames (s.conn f.port f.dom f.pkg) f.ackseq else s)

/-- FRAME_NACK: a frame of KIND 3 acknowledges what comes before ACKSEQ and has the frame of the gap resent (17 R425). -/
def execFrameNack (f : FrameHdr) (gap : Nat) (s : State) : Host.Outcome State Fault Refusal :=
  .next (
    if f.crcOk then
      let s := s.ackFrames (s.conn f.port f.dom f.pkg) f.ackseq
      s.resend (s.conn f.port f.dom f.pkg) fun x => x.seq == gap
    else s)

/-- TRANSPORT_RESEND: frames that have had no acknowledgement for 16 µs are resent (17 R425). -/
def execTransportResend (port dom pkg : Nat) (s : State) : Host.Outcome State Fault Refusal :=
  .next (s.resend (s.conn port dom pkg) fun x => resendSlots ≤ x.age)

/-! ### What data frames carry -/

/-- GRANARY_BLOCK: with the last frame of a block it goes on to the package that DVR names (17 R424, R426; log entry 21). -/
def execGranaryBlock (f : FrameHdr) (b : GBlock) (s : State) : Host.Outcome State Fault Refusal :=
  .next (s.recvFrame f fun s => if f.last then s.sendBlockNear b [f.dvr] else s)

/-- DEMAND_TRAFFIC_FRAME: the message goes on to its destination in this domain (17 R423, R424). -/
def execDemandTrafficFrame (f : FrameHdr) (d : Demand) (s : State) : Host.Outcome State Fault Refusal :=
  .next (s.recvFrame f fun s => s.forward 32 d)

end Sys2Proof.Machine
end

