-- ==== Sys2Proof/Machine/Load.lean ====
section
/-! DEFINITION. Loading a job: the checks of a Folxus image (17 R431 to R433), the code of its portable section (17 R434, R435), the
ranks and the memory that the load leaves (15 R367, 17 R432). -/

namespace Sys2Proof.Machine

/-! ### The image (17 R431, R432) -/

/-- Bytes of host memory as a number. -/
def State.hostNat (s : State) (a n : Nat) : Nat := leNat (memBytes s.hostMem a n)

/-- A section-table entry. -/
structure Section where
  kind : Nat
  grade : Nat
  off : Nat
  len : Nat
  legal : Bool
  deriving DecidableEq, Repr

/-- Entry `i` of the section table of the image at `a`: whether its other bits are 0, its kind is listed, it lies in the image and
its CRC holds (17 R432). -/
def State.imageSection (s : State) (a len secoff i : Nat) : Section :=
  let e := s.hostNat (a + secoff + 32 * i) 32
  let f := fun (lo n : Nat) => e / 2 ^ lo % 2 ^ n
  let off := f 64 64
  let n := f 128 64
  { kind := f 0 8, grade := f 8 8, off := off, len := n,
    legal := f 16 48 == 0 && f 224 32 == 0 && 1 ≤ f 0 8 && f 0 8 ≤ 8 && off + n ≤ len &&
      (crc32c (memBytes s.hostMem (a + off) n)).toNat == f 192 32 }

/-- The sections of the image of `len` bytes at `a`; none when the header or a CRC is refused with status 3 (17 R431). -/
def State.imageSections (s : State) (a len : Nat) : Option (Nat × List Section) :=
  let h := s.hostNat a 64
  let f := fun (lo n : Nat) => h / 2 ^ lo % 2 ^ n
  let nsec := f 144 16
  let secoff := f 160 32
  if 64 ≤ len ∧ f 0 32 = 0x53584C46 ∧ f 32 80 = 0 ∧ f 112 16 = 1 ∧ f 128 8 = 1 ∧ f 192 64 = len ∧ f 288 224 = 0 ∧ 1 ≤ nsec ∧
      nsec ≤ 4096 ∧ secoff % 8 = 0 ∧ secoff + 32 * nsec ≤ len ∧ (crc32c (memBytes s.hostMem (a + 64) (len - 64))).toNat = f 256 32 then
    let l := (List.range nsec).map fun i => s.imageSection a len secoff i
    let low := (l.filter fun x => x.kind == 2).foldl (fun m x => if m = 0 then x.grade else min m x.grade) 0
    if l.all (fun x => x.legal) && f 136 8 == low then some (low, l) else none
  else none

/-! ### What a load leaves (15 R367; 02 R45, R46, R69; 12 R295) -/

/-- A rank at job load: its registers at their reset values, STEPNO 1 (01 R35), every window-table entry with CEIL 1
(04 R103, 02 R69). -/
def Rank.loaded (p : Sys2Proof.RankPlan) (job : Nat) (seed : Word) : Rank :=
  let planes := fun (b : BitVec 32768) => ({ active := b, staging := b, swap := false } : Planes)
  { vr := p.vr, job := job,
    place := match p.slot with
      | some k => .resident k
      | none => .fallow
    gangs := [], phaseno := 0, stepno := 1, stepSt := .running, ptroot := putBits p.ptroot 1 11 0, ovf := 0x45, ovfForce := 0x45, engways := 0xFFFF,
    jobseed := seed, frpool := 0, frames := [], gen := 0, stephold := false, wtbl := Vector.replicate 16 1,
    walLimit := Vector.replicate 16 1, walOut := Vector.replicate 16 0,
    sched := { st := .idle, header := 0, entries := [], recs := [], supLoaded := false, pos := 0, stash := 0, acr := 0, gcr := 0,
               arra := [], arrg := [], ainu := 0, ginu := 0, posted := false, outst := false, entryDone := [], bubin := 0,
               bubdn := 0, bubst := 0 }
    completions := Vector.replicate 64 { value := 0, abandoned := false }
    graphs := [], replays := [], migSwap := false, copyPlanes := planes p.planes.1, collPlanes := planes p.planes.2.1,
    granPlanes := planes p.planes.2.2, landing := [], sbuf := [], engView := [], posted := [], accesses := [], coupling := p.coupling,
    pagedOnce := [], walk := true, closing := false, abroad := false }

/-- Whether a plan of a job of `n` ranks can be carried out here: N within its limit and the VRs below it (00 R3, 01 R14), its job and
its ranks new, each slot that it takes free, available and awaited by no other rank, at most 48 ranks in all (15 R366), rule programs that
R388 of 16 admits. -/
def State.planOk (s : State) (p : Sys2Proof.LoadPlan) (n : Nat) : Bool :=
  let taken := p.ranks.filterMap fun r => r.slot
  let vrs := p.ranks.map fun r => r.vr
  1 ≤ n && n ≤ 16777216 && vrs.all (fun v => v < n) &&
    !(s.jobs.any fun j => j.id == p.job) && vrs.eraseDups.length == vrs.length && taken.eraseDups.length == taken.length &&
    !(vrs.any fun v => (s.ranks ++ s.incoming).any fun r => r.vr == v) && s.rankCount (2 ^ 24) + vrs.length ≤ 48 &&
    (taken.all fun k => k < 16 && bitAt s.clavail k && (s.slot k).occupant.isNone && !s.slotAwaited k s.nextId) &&
    p.rules.all fun r => r.1 < 16 && 1 ≤ r.2.length && r.2.length ≤ 32 && r.2.all ruleLegal

/-- Puts one rank in its place. -/
def State.placeLoaded (s : State) (r : Rank) : State :=
  let s := match r.place with
    | .resident k => s.modSlot k fun sl => { sl with occupant := some r.vr }
    | _ => s
  { s with ranks := s.ranks ++ [r] }

/-- Native code as bytes at an address. -/
def putCode (m : Memory) (a : Nat) (words : List (BitVec 32)) : Memory := physPut m a (words.flatMap fun w => leBytes 4 w.toNat)

/-- Carries out a plan (17 R432, R434; 15 R367; log entry 10); `portable` says that C's code comes from the translator. -/
def State.loadPlan (s : State) (p : Sys2Proof.LoadPlan) (n : Nat) (seed : Word) (portable : Bool) : State :=
  let mem := p.bytes.foldl (fun m b => physWrite m b.1 b.2) s.mem
  let s := { s with
    mem := if portable then p.records.foldl (fun m q => putCode m q.1 ((translate q.2).getD [])) mem else mem
    jobs := s.jobs ++ [{ id := p.job, n := n, seed := seed, groups := p.groups, arrived := [] }]
    migPlanes := match p.migr with
      | some b => { active := b, staging := b, swap := false }
      | none => s.migPlanes }
  let s := p.entries.foldl (fun (s : State) e => s.setPlace e.1 e.2) s
  let s := p.scratch.foldl (fun (s : State) b => s.modSlot b.1 fun k =>
    { k with pads := memWrite k.pads b.2.1 b.2.2, shadow := memWrite k.shadow b.2.1 b.2.2 }) s
  let s := p.ranks.foldl (fun (s : State) r => s.placeLoaded (Rank.loaded r p.job seed)) s
  let s := s.modGranary fun g =>
    { g with rules := (g.rules.filter fun r => r.1 != p.job) ++ p.rules.map fun r => (p.job, r.1, r.2) }
  p.gangs.foldl (fun (s : State) g => match s.rank? g.1 with
    | some r => if (r.refusal g.2 true none).isSome || 256 ≤ r.pendingGangs then s else s.post g.1 g.2 .pcp
    | none => s) s

/-- Whether a list of records can be translated (17 R434, R435). -/
def portableOk (rs : List (BitVec 128)) : Bool := recordsLegal [] rs && (translate rs).isSome

/-- The status of a load of the image of `len` bytes at `a`, and whether its portable section is used: 3 for the image, 4 when no code
section serves (17 R431, R433, R435). -/
def State.loadStatus (s : State) (p : Sys2Proof.LoadPlan) (a len : Nat) : Nat × Bool :=
  match s.imageSections a len with
  | none => (3, false)
  | some (low, l) =>
    if low ≤ 1 && l.any (fun x => x.kind == 2 && x.grade == 1) then (0, false)
    else if l.any (fun x => x.kind == 1) && p.records.all (fun q => portableOk q.2) then (0, true)
    else (4, false)

end Sys2Proof.Machine
end

