-- ==== Sys2Proof/Machine/HostIf.lean ====
section
/-! DEFINITION. The host interface (17 R427 to R430), bring-up (17 R436, R437), power, management and soft errors (17 R438, R439). -/

namespace Sys2Proof.Machine

/-! ### Mailboxes (17 R427, R429) -/

/-- Changes the host interface. -/
def State.modHost (s : State) (f : HostIf → HostIf) : State := { s with host := f s.host }

/-- The counters of MBIN and MBOUT: the producer's in [15:0], the consumer's in [31:16] (17 R427). -/
def mbTail (w : Word) : Nat := bitsAt w 0 16
def mbHead (w : Word) : Nat := bitsAt w 16 16

/-- A mailbox slot. -/
def mailSlot (l : List (Nat × BitVec 512)) (n : Nat) : BitVec 512 := match l.find? fun e => e.1 == n % 64 with
  | some e => e.2
  | none => 0

def mailPut (l : List (Nat × BitVec 512)) (n : Nat) (m : BitVec 512) : List (Nat × BitVec 512) :=
  (l.filter fun e => e.1 != n % 64) ++ [(n % 64, m)]

/-- The code of a message, and operand `i` of 64 bits from byte 8 on (17 R429, log entry 22). -/
def mailCode (m : BitVec 512) : Nat := bitsAt m 0 8
def mailOperand (m : BitVec 512) (i : Nat) : Word := m.extractLsb' (64 + 64 * i) 64

/-- The oldest message that the PCP has not taken. -/
def State.message (s : State) : Option (BitVec 512) :=
  if mbTail s.host.mbin = mbHead s.host.mbin then none else some (mailSlot s.host.inbound (mbHead s.host.mbin))

/-- Whether the outbound mailbox has a free slot. -/
def State.replyRoom (s : State) : Bool := (mbTail s.host.mbout + 65536 - mbHead s.host.mbout) % 65536 < 64

/-- The PCP has taken a message. -/
def State.takeMessage (s : State) : State :=
  s.modHost fun h => { h with mbin := putBits h.mbin 16 16 (mbHead h.mbin + 1) }

/-- The PCP takes a message and answers with its code, its tag and a status (17 R429). -/
def State.answer (s : State) (m : BitVec 512) (status : Nat) : State :=
  let a : BitVec 512 := BitVec.ofNat 512 (mailCode m + 2 ^ 16 * bitsAt m 16 16 + 2 ^ 32 * status)
  s.takeMessage.modHost fun h =>
    { h with outbound := mailPut h.outbound (mbTail h.mbout) a, mbout := putBits h.mbout 0 16 (mbTail h.mbout + 1) }

/-- Serves the oldest message when it has a code, the PCP accepts messages and an answer has room. -/
def State.serve (s : State) (code : Nat) (f : State → BitVec 512 → State) : State := match s.message with
  | some m => if s.boot.ready && mailCode m == code && s.replyRoom then f s m else s
  | none => s

/-! ### The messages (17 R429) -/

/-- Whether a slot is idle for a change of partition (12 R291). -/
def State.slotIdle (s : State) (k : Nat) : Bool :=
  !(s.ranks.any fun r => r.place == .resident k && r.gangs.any Gang.holdsCores) &&
    !(s.cmds.any fun c => s.slotOf c.by'.vr == some k && c.st != .halted)

/-- PARTITION: PARTCFG is written once no gang is placed and no command is queued or running in a slot whose number changes
(12 R291). -/
def execPartition (s : State) : Host.Outcome State Fault Refusal :=
  .next (s.serve 1 fun s m =>
    let v := mailOperand m 0
    let moved := (List.range 16).filter fun k => bitsAt v (4 * k) 4 != s.partOf k
    if moved.all s.slotIdle then { s with partcfg := v }.answer m 0 else s)

/-- LOADJOB: the image's checks, then the plan; N is operand 2 and the job seed operand 3 (17 R429, R431 to R433). -/
def execLoadjob (plan : Sys2Proof.LoadPlan) (s : State) : Host.Outcome State Fault Refusal :=
  .next (s.serve 2 fun s m =>
    let (st, portable) := s.loadStatus plan (mailOperand m 0).toNat (mailOperand m 1).toNat
    if st ≠ 0 then s.answer m st
    else if s.planOk plan (mailOperand m 2).toNat then (s.loadPlan plan (mailOperand m 2).toNat (mailOperand m 3) portable).answer m 0
    else s)

/-- Ends the gangs of a rank and takes it out of the package. -/
def State.removeRank (s : State) (r : Rank) : State :=
  let s := r.gangs.foldl (fun (s : State) g => s.endGang r.vr g.id) s
  let s := { s with slots := s.slots.map fun (sl : Slot) => if sl.occupant = some r.vr then { sl with occupant := none } else sl }
  { s with
    ranks := s.ranks.filter fun x => x.vr != r.vr
    incoming := s.incoming.filter fun x => x.vr != r.vr
    place := s.place.filter fun p => p.1 != r.vr
    locks := s.locks.filter fun l => l.vr != r.vr
    cmds := s.cmds.filter fun c => c.by'.vr != r.vr
    services := s.services.filter fun x => x.by'.vr != r.vr }

/-- ENDJOB: the ranks of the job end and leave the package; what its granaries hold stays (17 R429, 15 R379; log entry 23). -/
def execEndjob (job : Nat) (s : State) : Host.Outcome State Fault Refusal :=
  .next (s.serve 3 fun s m =>
    let s := (s.ranks.filter fun r => r.job == job).foldl (fun (s : State) r => s.removeRank r) s
    { s with
      jobs := s.jobs.filter fun j => j.id != job
      trees := s.trees.filter fun t => t.key.job != job }.answer m 0)

/-- Bring-up from its first stage: every register at its reset value, nothing loaded; memory and scratchpads keep their bytes until
stage 2, the mailboxes stay (17 R436, R437). -/
def State.restart (s : State) : State :=
  { State.reset with
    boot := { stage := 1, fail := 0, err := false, ready := false, fwver := 0 }
    mem := s.mem, hostMem := s.hostMem, host := { s.host with toSup := [] }, inputs := s.inputs, out := s.out, free := s.free,
    nextId := s.nextId, nextAge := s.nextAge
    slots := s.slots.map fun k => { Slot.reset with pads := k.pads, shadow := k.shadow } }

/-- Whether the PCP serves a RESET: once READY, and after a stage that failed, which nothing else ends but power-on (17 R436). -/
def State.servesReset (s : State) : Bool := s.boot.ready || s.boot.stage == 15

/-- RESET: bring-up starts again (17 R429, R436). -/
def execReset (s : State) : Host.Outcome State Fault Refusal :=
  .next (match s.message with
    | some m => if s.servesReset && mailCode m == 4 && s.replyRoom then (s.answer m 0).restart else s
    | none => s)

/-- SUPERVISOR_MESSAGE: codes 0x80 to 0xFF are passed to the supervisor unchanged, which answers them (17 R429). -/
def execSupervisorMessage (s : State) : Host.Outcome State Fault Refusal :=
  .next (match s.message with
    | some m => if s.boot.ready && 0x80 ≤ mailCode m then s.takeMessage.modHost fun h => { h with toSup := h.toSup ++ [m] } else s
    | none => s)

/-- MAILBOX_UNKNOWN_CODE: status 1 for a code that is not defined, status 2 for any message before READY but a RESET after a
failed stage (17 R429, R436). -/
def execMailboxUnknownCode (s : State) : Host.Outcome State Fault Refusal :=
  .next (match s.message with
    | some m =>
      if !s.replyRoom || (s.servesReset && mailCode m == 4) then s
      else if !s.boot.ready then s.answer m 2
      else if mailCode m = 0 ∨ (5 ≤ mailCode m ∧ mailCode m < 0x80) then s.answer m 1
      else s
    | none => s)

/-- HOST_BAR_WRITE: a write of 64 bits to BAR0: a word of the inbound mailbox, MBIN's tail, MBOUT's head; every other offset that
has no row of its own ignores it (17 R427). -/
def execHostBarWrite (off : Nat) (v : BitVec 64) (s : State) : Host.Outcome State Fault Refusal :=
  .next (
    if 0x1000 ≤ off ∧ off < 0x2000 then
      let n := (off - 0x1000) / 64
      s.modHost fun h => { h with inbound := mailPut h.inbound n (putBits (mailSlot h.inbound n) (off % 64 / 8 * 64) 64 v.toNat) }
    else if off = 0x3000 then s.modHost fun h => { h with mbin := putBits h.mbin 0 16 (mbTail v) }
    else if off = 0x3008 then s.modHost fun h => { h with mbout := putBits h.mbout 16 16 (mbHead v) }
    else s)

/-! ### SPDM and management (17 R430, R438) -/

/-- An answer whose bytes are open: a free length and free bytes (log entry 5). -/
def State.openAnswer (s : State) : List Byte × State :=
  let n := bitsAt (Config.freeWord s.free) 0 12
  { s with free := s.free + 1 }.freeBytes n

/-- SPDM_REQUEST: the responder answers over DOE; the bytes of an answer are those of SPDM 1.3 with the device's keys and
measurements (17 R430). -/
def execSpdmRequest (_bytes : List Byte) (s : State) : Host.Outcome State Fault Refusal :=
  .next (let (a, s) := s.openAnswer; { s with out := s.out ++ [Out.doe a] })

/-- MANAGEMENT_REQUEST: served out of band; it reaches no architectural state of ranks (17 R438). -/
def execManagementRequest (_bytes : List Byte) (s : State) : Host.Outcome State Fault Refusal :=
  .next (let (a, s) := s.openAnswer; { s with out := s.out ++ [Out.management a] })

/-! ### Bring-up (17 R428, R436, R437) -/

/-- POWER_GOOD: bring-up starts with stage 1 (17 R436). -/
def execPowerGood (s : State) : Host.Outcome State Fault Refusal :=
  .next (if s.boot.stage = 0 then { s with boot := { s.boot with stage := 1 } } else s)

/-- The package number and domain that bring-up gives; the other bits of PKGID are 0 (12 R295). -/
def pkgidOf (v : Word) : Word := BitVec.ofNat 64 (bitsAt v 0 12 + 2 ^ 16 * bitsAt v 16 10)

/-- Every byte that stage 2 writes with zero (17 R436). -/
def State.zeroMemory (s : State) : State :=
  { s with mem := [], slots := s.slots.map fun k => { k with pads := [], shadow := [] } }

/-- What a completed stage establishes: the identity and the time base in stage 1, memory and CLAVAIL in stage 2, the firmware in
stage 3, from which the links train, READY in stage 4 (17 R436; log entry 24). -/
def State.stageDone (s : State) (n : Nat) (e : StageEnd) : State :=
  match n with
  | 1 => { s with pkgid := pkgidOf e.pkgid, boot := { s.boot with stage := 2 } }.modFabric fun f =>
      { f with dtb := e.dtb.getD f.dtb, joining := e.dtb.isNone }
  | 2 => { s.zeroMemory with clavail := e.good, boot := { s.boot with stage := 3 } }
  | 3 => (List.range 32).foldl (fun (s : State) l => s.sendOffer l 0) { s with boot := { s.boot with stage := 4, fwver := e.fwver } }
  | 4 => { s with boot := { s.boot with ready := true } }
  | _ => s

/-- BRINGUP_STAGE: the stage in progress completes, or STAGE becomes 15 and FAIL the stage (17 R436). -/
def execBringupStage (e : StageEnd) (s : State) : Host.Outcome State Fault Refusal :=
  .next (
    let n := s.boot.stage.toNat
    if n = 0 ∨ 4 < n ∨ s.boot.ready then s
    else if e.ok then s.stageDone n e
    else { s with boot := { s.boot with stage := 15, fail := s.boot.stage } })

/-! ### Power (17 R438) -/

/-- POWER_LIMIT: the next cycle of these slots does not occur; a slot that holds a gang under pre-emption is not gated. -/
def execPowerLimit (slots : BitVec 16) (s : State) : Host.Outcome State Fault Refusal :=
  .next (
    let held := fun (k : Nat) => s.ranks.any fun r => r.place == .resident k && r.gangs.any fun g => match g.cond with
      | .halting _ _ => true
      | _ => false
    { s with slots := Vector.ofFn fun k => { s.slots[k] with gated := bitAt slots k.val && !held k.val } })

/-- MODULE_FAULT: every gang is stopped with a notice of KIND 3, HSTAT.ERR is set, and the package waits for RESET. -/
def execModuleFault (s : State) : Host.Outcome State Fault Refusal :=
  .next (
    let s := s.ranks.foldl (fun (s : State) r => s.stopGangs r) s
    { s with boot := { s.boot with err := true } })

/-! ### Soft errors (17 R439) -/

/-- ECC_CORRECTED: counted for the supervisor. -/
def execEccCorrected (s : State) : Host.Outcome State Fault Refusal := .next { s with corrected := s.corrected + 1 }

/-- ECC_UNCORRECTABLE: the consuming gang is killed with a notice of KIND 3, an engine is reset, a copy of a shard fails, a transfer
does not complete. -/
def execEccUncorrectable (w : EccSite) (s : State) : Host.Outcome State Fault Refusal :=
  .next (match w with
    | .gang r => s.killNotice r 3 { tpc := 0 }
    | .walk r => s.killNotice r 3 { tpc := 0 }
    | .engine e slot => s.resetEngine e slot
    | .shard job shard => s.keeperFail s.ownDom s.ownPkg job shard
    | .flit fid xfer => s.modFabric fun f =>
        { f with ins := f.ins.map fun x => if x.fid = fid ∧ x.xfer = xfer then { x with failed := true } else x }
    | .command id => match s.cmd? id with
      | some c => match c.body with
        | .migr t stage taken _ _ _ =>
          if stage = 1 ∨ stage = 2 then s.failMigr c t 5 (if stage = 2 then taken else []) else s.killNotice c.by' 3 { tpc := 0 }
        | _ => s.killNotice c.by' 3 { tpc := 0 }
      | none => s)

end Sys2Proof.Machine
end

