-- ==== Sys2Proof/Machine/Service.lean ====
section
/-! DEFINITION. The service ring of the runtime (18 R440 to R442): requests in g14, replies in g15, atomic permits and commits of
rank-managed pages. -/

namespace Sys2Proof.Machine

/-! ### The rings (18 R440, R441) -/

/-- Whether a ring register is configured for the service of core `n`: its area in the core's own scratchpad, entries of 8 bytes. -/
def serviceRing (n : Nat) (w : Word) : Bool :=
  ringLogn w != 0 && ringEsz w == 0 && ringAreaOk n [] w && match scratchAt n (ringBase w) with
    | .own _ => true
    | _ => false

/-- Whether the runtime serves a core: both rings are configured. -/
def State.served (s : State) (r : SRef) : Bool := serviceRing r.core (s.ring r.vr r.core 14) && serviceRing r.core (s.ring r.vr r.core 15)

/-- The code and the address of a request, and whether its reserved bits are 0 and its code is listed. -/
def reqCode (w : Word) : Nat := bitsAt w 56 8
def reqVa (w : Word) : Nat := bitsAt w 0 48
def reqLegal (w : Word) : Bool := bitsAt w 48 8 == 0 && (reqCode w == 1 || reqCode w == 2)

/-- A reply. -/
def replyWord (how status : Nat) : Word := BitVec.ofNat 64 (256 * how + status)

/-- SERVICE_REQUEST: the PCP takes the oldest request of a core; a malformed one has its reply at once (18 R440). -/
def execServiceRequest (r : SRef) (s : State) : Host.Outcome State Fault Refusal :=
  .next (
    let w := s.ring r.vr r.core 14
    if !s.served r || ringCount w == 0 then s
    else
      let v := s.ringRead r.vr r.core (ringSlot w (ringHead w))
      let x : Service := { by' := r, word := v, reply := if reqLegal v then none else some (replyWord 0 2), ids := [] }
      { s.setRing r.vr r.core 14 (ringWithHead w (ringHead w + 1)) with services := s.services ++ [x] })

/-- Whether a taken request is finished: its reply is decided and the accesses that its SHOOT waits for have performed. -/
def State.finished (s : State) (x : Service) : Bool :=
  x.reply.isSome && match s.rank? x.by'.vr with
    | some k => !(x.ids.any fun i => k.accesses.any fun a => a.id == i)
    | none => true

/-- The request of a core whose turn it is: the oldest of the rank that is not finished (18 R442). -/
def State.dueRequest (s : State) (r : SRef) (code : Nat) : Option Service :=
  (s.services.find? fun x => x.by'.vr == r.vr && !s.finished x).filter fun x =>
    x.by'.core == r.core && x.reply.isNone && reqCode x.word == code

/-- Decides the reply of a request. -/
def State.decide (s : State) (x : Service) (how status : Nat) (ids : List Nat) : State :=
  let y : Service := { x with reply := some (replyWord how status), ids := ids }
  { s with services := (s.services.takeWhile fun z => z != x) ++ y :: (s.services.dropWhile fun z => z != x).drop 1 }

/-- The SHOOT.64K of a page that the runtime executes before it replies (18 R442, 13 R323). -/
def State.shootFor (s : State) (x : Service) (how : Nat) : State :=
  let ids := match s.rank? x.by'.vr with
    | some k => k.handleAccesses
    | none => []
  (s.modRank x.by'.vr fun k => k.shoot (pageVa (reqVa x.word) false) (pageSize false)).decide x how 0 ids

/-! ### Atomic permits (18 R442) -/

/-- Writes a page-table entry. -/
def State.putPte (s : State) (a : Nat) (e : BitVec 128) : State := { s with mem := physPut s.mem a (leBytes 16 e.toNat) }

/-- The page of a peer leaf copied into a frame of this package; what another package holds is open (log entry 18). -/
def State.copyPeerPage (s : State) (e : BitVec 128) (large : Bool) (frame : Nat) : State :=
  let n := pageSize large
  if (leafPeer e).toNat = bitsAt s.pkgid 0 12 then
    { s with mem := physPaste s.mem frame n ((memPart s.mem (leafFrame e large) n).map fun x => (x.1 - leafFrame e large, x.2)) }
  else
    let (bs, s) := s.freeBytes n
    { s with mem := physPut s.mem frame bs }

/-- ATOMIC_PERMIT: refused for an absent page, aperture 3, or a leaf without R or W; nothing to do where the page admits atomics;
else the leaf gets RAP, or the page becomes local (18 R442). -/
def execAtomicPermit (r : SRef) (p : Permit) (s : State) : Host.Outcome State Fault Refusal :=
  .next (match s.dueRequest r 1 with
    | none => s
    | some x => match s.walkFor r.vr false (reqVa x.word) with
      | .leaf e a large =>
        if leafAper e = 3 ∨ !leafR e ∨ !leafW e then s.decide x 0 1 []
        else if leafAper e ≠ 2 ∨ leafRap e then s.decide x 0 0 []
        else match p with
          | .remap => (s.putPte a (putBits e 4 1 1)).shootFor x 1
          | .migrate f =>
            if f % pageSize large ≠ 0 ∨ !s.frameOk (s.partOfRank r.vr) 0 f then s
            else
              let e' := putBits (putBits (putBits (putBits e 2 2 0) 4 1 0) 112 12 0) 64 48 (f / 65536)
              ((s.copyPeerPage e large f).putPte a e').shootFor x 2
      | _ => s.decide x 0 1 [])

/-! ### Commits (18 R442) -/

/-- An entry that is absent and rank-managed. -/
def managedEntry : BitVec 128 := 0x400

/-- A pointer to a table, and the leaf that a commit stores: V, LEAF, R, W, RM, class 0 read and write. -/
def pointerTo (f : Nat) : BitVec 128 := BitVec.ofNat 128 (1 + 2 ^ 64 * (f / 65536))
def commitLeaf (f : Nat) : BitVec 128 := BitVec.ofNat 128 (0x3463 + 2 ^ 64 * (f / 65536))

/-- The table that an entry points to, built in the next frame when it is missing. -/
def State.tableUnder (s : State) (entry : Nat) (frames : List Nat) : Option (Nat × List Nat × State) :=
  if leafV (s.pte entry) then some (pteNext (s.pte entry), frames, s)
  else match frames with
    | [] => none
    | f :: rest =>
      let table := (List.range 4096).flatMap fun _ => leBytes 16 managedEntry.toNat
      some (f, rest, { s with mem := physPut s.mem f table }.putPte entry (pointerTo f))

/-- The root of a rank's tree, built when PTROOT has V = 0. -/
def State.rootUnder (s : State) (vr : Nat) (frames : List Nat) : Option (Nat × List Nat × State) :=
  let root := s.rootOf vr false
  if bitAt root 0 then some (bitsAt root 12 52 * 4096, frames, s)
  else match frames with
    | [] => none
    | f :: rest =>
      let table := (List.range 256).flatMap fun _ => leBytes 16 managedEntry.toNat
      some (f, rest, { s with mem := physPut s.mem f table }.modRank vr fun k => { k with ptroot := BitVec.ofNat 64 (f + 1) })

/-- Stores the level-1 leaf of the page that holds `va`, with the tables that are missing. -/
def State.commitPage (s : State) (vr va page : Nat) (frames : List Nat) : Option State :=
  match s.rootUnder vr frames with
  | none => none
  | some (t3, fs, s) => match s.tableUnder (t3 + va / 2 ^ 40 % 256 * 16) fs with
    | none => none
    | some (t2, fs, s) => match s.tableUnder (t2 + va / 2 ^ 28 % 4096 * 16) fs with
      | none => none
      | some (t1, _, s) =>
        some ({ s with mem := physPut s.mem page (List.replicate 65536 0) }.putPte (t1 + va / 2 ^ 16 % 4096 * 16) (commitLeaf page))

/-- Whether frames are distinct, aligned, and lie in the stack of a slot. -/
def framesOk (slot : Nat) (frames : List Nat) : Bool :=
  frames.eraseDups.length == frames.length && frames.all fun f => f % 65536 == 0 && stackOf f == some slot

/-- COMMIT: nothing to do where the page is present; a page that is absent and not rank-managed is refused (log entry 25); else a
page of zeros is made present (18 R442). -/
def execCommit (r : SRef) (frames : List Nat) (s : State) : Host.Outcome State Fault Refusal :=
  .next (match s.dueRequest r 2 with
    | none => s
    | some x => match s.walkFor r.vr false (reqVa x.word), s.slotOf r.vr, frames with
      | .absent true, some slot, page :: tables =>
        if framesOk slot frames then match s.commitPage r.vr (reqVa x.word) page tables with
          | some s => s.shootFor x 3
          | none => s
        else s
      | .absent true, _, _ => s
      | .absent false, _, _ => s.decide x 0 1 []
      | _, _, _ => s.decide x 0 0 [])

/-! ### Replies (18 R440, R441) -/

/-- SERVICE_REPLY: the reply of a core's oldest request is pushed into g15 when there is room (18 R441). -/
def execServiceReply (r : SRef) (s : State) : Host.Outcome State Fault Refusal :=
  .next (
    let w := s.ring r.vr r.core 15
    match s.services.find? fun x => x.by'.vr == r.vr && x.by'.core == r.core with
    | none => s
    | some x =>
      if !s.finished x || !serviceRing r.core w || ringFull w then s
      else
        let s := s.ringWrite r.vr r.core (ringSlot w (ringTail w)) (x.reply.getD 0)
        { s.setRing r.vr r.core 15 (ringWithTail w (ringTail w + 1)) with services := s.services.erase x })

end Sys2Proof.Machine
end

