-- ==== Sys2Proof/Machine/Dispatch.lean ====
section
/-! DEFINITION. The dispatch: one arm per constructor of Instr, one direct call of its meaning. -/

namespace Sys2Proof.Machine

def exec (i : Instr) (s : State) : Host.Outcome State Fault Refusal :=
  match i with
  | .nop => Sys2Proof.Machine.execNop s
  | .feat d u => Sys2Proof.Machine.execFeat d u s
  | .rdctl d c => Sys2Proof.Machine.execRdctl d c s
  | .shapeWrite a => Sys2Proof.Machine.execShapeWrite a s
  | .fpflagsClear a => Sys2Proof.Machine.execFpflagsClear a s
  | .loopRegisterWrite a k => Sys2Proof.Machine.execLoopRegisterWrite a k s
  | .ringRegisterWrite a g => Sys2Proof.Machine.execRingRegisterWrite a g s
  | .walWrite a n => Sys2Proof.Machine.execWalWrite a n s
  | .wrctl a c => Sys2Proof.Machine.execWrctl a c s
  | .rand d a u => Sys2Proof.Machine.execRand d a u s
  | .exit => Sys2Proof.Machine.execExit s
  | .trap n => Sys2Proof.Machine.execTrap n s
  | .waiti n => Sys2Proof.Machine.execWaiti n s
  | .add d a b w => Sys2Proof.Machine.execAdd d a b w s
  | .sub d a b w => Sys2Proof.Machine.execSub d a b w s
  | .and d a b w => Sys2Proof.Machine.execAnd d a b w s
  | .or d a b w => Sys2Proof.Machine.execOr d a b w s
  | .xor d a b w => Sys2Proof.Machine.execXor d a b w s
  | .andn d a b w => Sys2Proof.Machine.execAndn d a b w s
  | .shl d a b w => Sys2Proof.Machine.execShl d a b w s
  | .shr d a b w => Sys2Proof.Machine.execShr d a b w s
  | .sar d a b w => Sys2Proof.Machine.execSar d a b w s
  | .rot d a b w => Sys2Proof.Machine.execRot d a b w s
  | .mul d a b w => Sys2Proof.Machine.execMul d a b w s
  | .mulh d a b w => Sys2Proof.Machine.execMulh d a b w s
  | .mulhu d a b w => Sys2Proof.Machine.execMulhu d a b w s
  | .div d a b w => Sys2Proof.Machine.execDiv d a b w s
  | .divu d a b w => Sys2Proof.Machine.execDivu d a b w s
  | .rem d a b w => Sys2Proof.Machine.execRem d a b w s
  | .remu d a b w => Sys2Proof.Machine.execRemu d a b w s
  | .min d a b w => Sys2Proof.Machine.execMin d a b w s
  | .max d a b w => Sys2Proof.Machine.execMax d a b w s
  | .minu d a b w => Sys2Proof.Machine.execMinu d a b w s
  | .maxu d a b w => Sys2Proof.Machine.execMaxu d a b w s
  | .adds d a b w => Sys2Proof.Machine.execAdds d a b w s
  | .subs d a b w => Sys2Proof.Machine.execSubs d a b w s
  | .clz d a w => Sys2Proof.Machine.execClz d a w s
  | .popc d a w => Sys2Proof.Machine.execPopc d a w s
  | .sext d a k => Sys2Proof.Machine.execSext d a k s
  | .zext d a k => Sys2Proof.Machine.execZext d a k s
  | .addi d a im => Sys2Proof.Machine.execAddi d a im s
  | .andi d a im => Sys2Proof.Machine.execAndi d a im s
  | .ori d a im => Sys2Proof.Machine.execOri d a im s
  | .xori d a im => Sys2Proof.Machine.execXori d a im s
  | .shli d a w n => Sys2Proof.Machine.execShli d a w n s
  | .shri d a w n => Sys2Proof.Machine.execShri d a w n s
  | .sari d a w n => Sys2Proof.Machine.execSari d a w n s
  | .roti d a w n => Sys2Proof.Machine.execRoti d a w n s
  | .li d im => Sys2Proof.Machine.execLi d im s
  | .lis d im => Sys2Proof.Machine.execLis d im s
  | .cmp p a b c w => Sys2Proof.Machine.execCmp p a b c w s
  | .cmpi p a c im => Sys2Proof.Machine.execCmpi p a c im s
  | .pand d a b => Sys2Proof.Machine.execPand d a b s
  | .por d a b => Sys2Proof.Machine.execPor d a b s
  | .pxor d a b => Sys2Proof.Machine.execPxor d a b s
  | .pandn d a b => Sys2Proof.Machine.execPandn d a b s
  | .pnot d a => Sys2Proof.Machine.execPnot d a s
  | .pmov d a => Sys2Proof.Machine.execPmov d a s
  | .pset d => Sys2Proof.Machine.execPset d s
  | .pclr d => Sys2Proof.Machine.execPclr d s
  | .sel d a b p => Sys2Proof.Machine.execSel d a b p s
  | .br o => Sys2Proof.Machine.execBr o s
  | .brp p n o => Sys2Proof.Machine.execBrp p n o s
  | .call o => Sys2Proof.Machine.execCall o s
  | .jr d a => Sys2Proof.Machine.execJr d a s
  | .lpset l c e => Sys2Proof.Machine.execLpset l c e s
  | .lpseti l c e => Sys2Proof.Machine.execLpseti l c e s
  | .ld d h im u o => Sys2Proof.Machine.execLd d h im u o s
  | .st d h im u o => Sys2Proof.Machine.execSt d h im u o s
  | .sld d a u o => Sys2Proof.Machine.execSld d a u o s
  | .sst d a u o => Sys2Proof.Machine.execSst d a u o s
  | .atom d h im v o u => Sys2Proof.Machine.execAtom d h im v o u s
  | .acas d h im n u => Sys2Proof.Machine.execAcas d h im n u s
  | .fxadd v h im u => Sys2Proof.Machine.execFxadd v h im u s
  | .fxrd v h im u => Sys2Proof.Machine.execFxrd v h im u s
  | .xlate h a p => Sys2Proof.Machine.execXlate h a p s
  | .hrel h => Sys2Proof.Machine.execHrel h s
  | .hchk u p => Sys2Proof.Machine.execHchk u p s
  | .hmov h u => Sys2Proof.Machine.execHmov h u s
  | .qpush d c im => Sys2Proof.Machine.execQpush d c im s
  | .qpop d c im => Sys2Proof.Machine.execQpop d c im s
  | .qpeek d c im => Sys2Proof.Machine.execQpeek d c im s
  | .qclose im => Sys2Proof.Machine.execQclose im s
  | .qwaitData c im l => Sys2Proof.Machine.execQwaitData c im l s
  | .qwaitRoom c im l => Sys2Proof.Machine.execQwaitRoom c im l s
  | .sdesc z x => Sys2Proof.Machine.execSdesc z x s
  | .sset z f x => Sys2Proof.Machine.execSset z f x s
  | .sbind z q => Sys2Proof.Machine.execSbind z q s
  | .sunbind z => Sys2Proof.Machine.execSunbind z s
  | .sstat z d => Sys2Proof.Machine.execSstat z d s
  | .phase => Sys2Proof.Machine.execPhase s
  | .rvinit a c => Sys2Proof.Machine.execRvinit a c s
  | .rvarr a => Sys2Proof.Machine.execRvarr a s
  | .rvwait a => Sys2Proof.Machine.execRvwait a s
  | .cfence => Sys2Proof.Machine.execCfence s
  | .mark b e => Sys2Proof.Machine.execMark b e s
  | .mjoin a b j => Sys2Proof.Machine.execMjoin a b j s
  | .mwait a b j => Sys2Proof.Machine.execMwait a b j s
  | .step => Sys2Proof.Machine.execStep s
  | .ec c im p => Sys2Proof.Machine.execEc c im p s
  | .ecr c im u => Sys2Proof.Machine.execEcr c im u s
  | .tload c a => Sys2Proof.Machine.execTload c a s
  | .tdiff c a => Sys2Proof.Machine.execTdiff c a s
  | .tswap c => Sys2Proof.Machine.execTswap c s
  | .tcrc c a => Sys2Proof.Machine.execTcrc c a s
  | .tret => Sys2Proof.Machine.execTret s
  | .rdsys d im => Sys2Proof.Machine.execRdsys d im s
  | .l2ctlWrite a => Sys2Proof.Machine.execL2ctlWrite a s
  | .nringWrite a => Sys2Proof.Machine.execNringWrite a s
  | .frpoolWrite a => Sys2Proof.Machine.execFrpoolWrite a s
  | .stepholdWrite a => Sys2Proof.Machine.execStepholdWrite a s
  | .wtblWrite a n => Sys2Proof.Machine.execWtblWrite a n s
  | .wrsys a im => Sys2Proof.Machine.execWrsys a im s
  | .ldovf a => Sys2Proof.Machine.execLdovf a s
  | .csave d a => Sys2Proof.Machine.execCsave d a s
  | .crest d a => Sys2Proof.Machine.execCrest d a s
  | .shoot d a u => Sys2Proof.Machine.execShoot d a u s
  | .plock d a => Sys2Proof.Machine.execPlock d a s
  | .pinq d a => Sys2Proof.Machine.execPinq d a s
  | .punlock d a => Sys2Proof.Machine.execPunlock d a s
  | .vmap d a => Sys2Proof.Machine.execVmap d a s
  | .kill d a => Sys2Proof.Machine.execKill d a s
  | .idle d a => Sys2Proof.Machine.execIdle d a s
  | .glaunch d a => Sys2Proof.Machine.execGlaunch d a s
  | .gkill d a => Sys2Proof.Machine.execGkill d a s
  | .gstat d a => Sys2Proof.Machine.execGstat d a s
  | .schld d a => Sys2Proof.Machine.execSchld d a s
  | .schgo d a => Sys2Proof.Machine.execSchgo d a s
  | .schhalt d => Sys2Proof.Machine.execSchhalt d s
  | .schstat d => Sys2Proof.Machine.execSchstat d s
  | .slotpost a b => Sys2Proof.Machine.execSlotpost a b s
  | .waitiExpiry r => Sys2Proof.Machine.execWaitiExpiry r s
  | .xlateDeliver r h => Sys2Proof.Machine.execXlateDeliver r h s
  | .qtimeout r => Sys2Proof.Machine.execQtimeout r s
  | .loadStreamEntry r z => Sys2Proof.Machine.execLoadStreamEntry r z s
  | .storeStreamDrain r z => Sys2Proof.Machine.execStoreStreamDrain r z s
  | .mjtimeout r => Sys2Proof.Machine.execMjtimeout r s
  | .markerRetire r e => Sys2Proof.Machine.execMarkerRetire r e s
  | .idleExpiry r => Sys2Proof.Machine.execIdleExpiry r s
  | .bundleIssue h m v x => Sys2Proof.Machine.execBundleIssue h m v x s
  | .pendingWriteLand r => Sys2Proof.Machine.execPendingWriteLand r s
  | .asyncTrap r => Sys2Proof.Machine.execAsyncTrap r s
  | .strandWaitRelease r => Sys2Proof.Machine.execStrandWaitRelease r s
  | .memoryAccessComplete id => Sys2Proof.Machine.execMemoryAccessComplete id s
  | .phaseBoundary vr => Sys2Proof.Machine.execPhaseBoundary vr s
  | .quiescentCommit vr => Sys2Proof.Machine.execQuiescentCommit vr s
  | .stepArrival rank held => Sys2Proof.Machine.execStepArrival rank held s
  | .stepCollectiveComplete job => Sys2Proof.Machine.execStepCollectiveComplete job s
  | .boundaryFlitSend group => Sys2Proof.Machine.execBoundaryFlitSend group s
  | .boundaryResult group v => Sys2Proof.Machine.execBoundaryResult group v s
  | .gangPlace slot => Sys2Proof.Machine.execGangPlace slot s
  | .gangStart vr gang => Sys2Proof.Machine.execGangStart vr gang s
  | .gangComplete vr gang => Sys2Proof.Machine.execGangComplete vr gang s
  | .priorityAging vr gang => Sys2Proof.Machine.execPriorityAging vr gang s
  | .gangHalt vr gang => Sys2Proof.Machine.execGangHalt vr gang s
  | .hostQueuePost slot => Sys2Proof.Machine.execHostQueuePost slot s
  | .hqbaseWrite slot v => Sys2Proof.Machine.execHqbaseWrite slot v s
  | .hqTailWrite slot v => Sys2Proof.Machine.execHqTailWrite slot v s
  | .hqEnable slot v => Sys2Proof.Machine.execHqEnable slot v s
  | .hqTeardown slot kill => Sys2Proof.Machine.execHqTeardown slot kill s
  | .hqErrClear slot => Sys2Proof.Machine.execHqErrClear slot s
  | .schedHeadIssue vr => Sys2Proof.Machine.execSchedHeadIssue vr s
  | .copyCommand id => Sys2Proof.Machine.execCopyCommand id s
  | .copyRetire id => Sys2Proof.Machine.execCopyRetire id s
  | .collectiveCommand id => Sys2Proof.Machine.execCollectiveCommand id s
  | .collOpStart id op => Sys2Proof.Machine.execCollOpStart id op s
  | .collOpComplete id op => Sys2Proof.Machine.execCollOpComplete id op s
  | .treeNodeCombine key level k => Sys2Proof.Machine.execTreeNodeCombine key level k s
  | .migrationCommand id => Sys2Proof.Machine.execMigrationCommand id s
  | .migrationCommit id => Sys2Proof.Machine.execMigrationCommit id s
  | .granaryGather g => Sys2Proof.Machine.execGranaryGather g s
  | .engineReset e slot => Sys2Proof.Machine.execEngineReset e slot s
  | .gradientBlockArrive b => Sys2Proof.Machine.execGradientBlockArrive b s
  | .granaryBlockApply job shard block => Sys2Proof.Machine.execGranaryBlockApply job shard block s
  | .granaryStepClose job shard => Sys2Proof.Machine.execGranaryStepClose job shard s
  | .stepCloseTimeout job shard => Sys2Proof.Machine.execStepCloseTimeout job shard s
  | .reg job shard a b => Sys2Proof.Machine.execReg job shard a b s
  | .drop job shard a b => Sys2Proof.Machine.execDrop job shard a b s
  | .rule job shard a b => Sys2Proof.Machine.execRule job shard a b s
  | .hyper job shard a b => Sys2Proof.Machine.execHyper job shard a b s
  | .promote job shard a b => Sys2Proof.Machine.execPromote job shard a b s
  | .seed job shard a b => Sys2Proof.Machine.execSeed job shard a b s
  | .snap job shard a b => Sys2Proof.Machine.execSnap job shard a b s
  | .replay job shard a b => Sys2Proof.Machine.execReplay job shard a b s
  | .granaryUnknownCode code job shard => Sys2Proof.Machine.execGranaryUnknownCode code job shard s
  | .seedSnapshotInstall rec state served => Sys2Proof.Machine.execSeedSnapshotInstall rec state served s
  | .seedConfirm job shard => Sys2Proof.Machine.execSeedConfirm job shard s
  | .granaryKeeperFail dom pkg job shard => Sys2Proof.Machine.execGranaryKeeperFail dom pkg job shard s
  | .remoteLoad q tgt n => Sys2Proof.Machine.execRemoteLoad q tgt n s
  | .loadData q bytes => Sys2Proof.Machine.execLoadData q bytes s
  | .postedWrite q tgt core strand order bytes => Sys2Proof.Machine.execPostedWrite q tgt core strand order bytes s
  | .writeAcknowledgement q => Sys2Proof.Machine.execWriteAcknowledgement q s
  | .atomic q addr op => Sys2Proof.Machine.execAtomic q addr op s
  | .atomicResult q old => Sys2Proof.Machine.execAtomicResult q old s
  | .keepWaitingNotice q => Sys2Proof.Machine.execKeepWaitingNotice q s
  | .refusal q detail => Sys2Proof.Machine.execRefusal q detail s
  | .scheduleArrival q grad mb step => Sys2Proof.Machine.execScheduleArrival q grad mb step s
  | .slotPost q grad count step => Sys2Proof.Machine.execSlotPost q grad count step s
  | .transferAck q fid xfer => Sys2Proof.Machine.execTransferAck q fid xfer s
  | .transferNack q fid xfer => Sys2Proof.Machine.execTransferNack q fid xfer s
  | .placementUpdate d => Sys2Proof.Machine.execPlacementUpdate d s
  | .gather q g => Sys2Proof.Machine.execGather q g s
  | .blockAcknowledgement q job shard block step => Sys2Proof.Machine.execBlockAcknowledgement q job shard block step s
  | .frameStateSet index st => Sys2Proof.Machine.execFrameStateSet index st s
  | .faultQueueResend id => Sys2Proof.Machine.execFaultQueueResend id s
  | .keepWaitingTimer q => Sys2Proof.Machine.execKeepWaitingTimer q s
  | .remoteTimeout id => Sys2Proof.Machine.execRemoteTimeout id s
  | .furrowDepart fid => Sys2Proof.Machine.execFurrowDepart fid s
  | .scheduledFlitArrive input f => Sys2Proof.Machine.execScheduledFlitArrive input f s
  | .flitForward link => Sys2Proof.Machine.execFlitForward link s
  | .transferFail fid xfer => Sys2Proof.Machine.execTransferFail fid xfer s
  | .headlandSlot link => Sys2Proof.Machine.execHeadlandSlot link s
  | .trainingRecord link rec => Sys2Proof.Machine.execTrainingRecord link rec s
  | .linkLossOfLock link => Sys2Proof.Machine.execLinkLossOfLock link s
  | .collectiveChunk f slot bytes => Sys2Proof.Machine.execCollectiveChunk f slot bytes s
  | .frameAck f => Sys2Proof.Machine.execFrameAck f s
  | .frameNack f gap => Sys2Proof.Machine.execFrameNack f gap s
  | .migrationData f part => Sys2Proof.Machine.execMigrationData f part s
  | .granaryBlock f b => Sys2Proof.Machine.execGranaryBlock f b s
  | .demandTrafficFrame f d => Sys2Proof.Machine.execDemandTrafficFrame f d s
  | .transportResend port dom pkg => Sys2Proof.Machine.execTransportResend port dom pkg s
  | .partition => Sys2Proof.Machine.execPartition s
  | .loadjob plan => Sys2Proof.Machine.execLoadjob plan s
  | .endjob job => Sys2Proof.Machine.execEndjob job s
  | .reset => Sys2Proof.Machine.execReset s
  | .supervisorMessage => Sys2Proof.Machine.execSupervisorMessage s
  | .mailboxUnknownCode => Sys2Proof.Machine.execMailboxUnknownCode s
  | .hostBarWrite off v => Sys2Proof.Machine.execHostBarWrite off v s
  | .spdmRequest bytes => Sys2Proof.Machine.execSpdmRequest bytes s
  | .managementRequest bytes => Sys2Proof.Machine.execManagementRequest bytes s
  | .powerGood => Sys2Proof.Machine.execPowerGood s
  | .bringupStage e => Sys2Proof.Machine.execBringupStage e s
  | .powerLimit slots => Sys2Proof.Machine.execPowerLimit slots s
  | .eccUncorrectable w => Sys2Proof.Machine.execEccUncorrectable w s
  | .stackFailure slot => Sys2Proof.Machine.execStackFailure slot s
  | .sptrootWrite part v => Sys2Proof.Machine.execSptrootWrite part v s
  | .supervisorShoot part va large => Sys2Proof.Machine.execSupervisorShoot part va large s
  | .furrowTableLoad t => Sys2Proof.Machine.execFurrowTableLoad t s
  | .graphLoad vr slot header trees ops => Sys2Proof.Machine.execGraphLoad vr slot header trees ops s
  | .serviceRequest r => Sys2Proof.Machine.execServiceRequest r s
  | .atomicPermit r p => Sys2Proof.Machine.execAtomicPermit r p s
  | .commit r frames => Sys2Proof.Machine.execCommit r frames s
  | .serviceReply r => Sys2Proof.Machine.execServiceReply r s
  | .bubbleCycle vr => Sys2Proof.Machine.execBubbleCycle vr s
  | .noticeWrite => Sys2Proof.Machine.execNoticeWrite s
  | .eccCorrected => Sys2Proof.Machine.execEccCorrected s
  | .moduleFault => Sys2Proof.Machine.execModuleFault s

end Sys2Proof.Machine
end

