-- ==== Sys2Proof/Machine/Turn.lean ====
section
/-! DEFINITION. The turns of the machine: a strand issues; a clock cycle begins; a fabric slot begins (01 R9, R19, R21; 17 R405).
What takes place in a cycle or slot is laid down as an agenda of turns, in the order of log entry 3; what may take any time takes
place when a free value says so (log entry 4). -/

namespace Sys2Proof.Machine

/-! ### A strand's turn (01 R19; 06 R135) -/

/-- Whether a strand may issue: its gang is placed on a resident rank, and it neither waits nor has ended. -/
def State.mayIssue (s : State) (r : SRef) (st : Strand) : Bool :=
  !st.ended && st.wait.isNone && (s.slotOf r.vr).isSome && match s.gang? r.vr r.gang with
    | some g => g.isPlaced
    | none => false

/-- A fetch has been made: the free values it took, and A of its leaf (13 R322). -/
def State.fetched (s : State) (a used : Nat) : State := { s with free := s.free + used }.markLeaf a false

/-- The instruction of a strand word runs; an illegal word raises ILLOP (06 R154, R155). -/
def State.runWord (s : State) (st : Strand) (w w1 : Nat) : Host.Outcome State Fault Refusal :=
  match decodeWord w w1 with
  | some i => exec i s
  | none => .next (s.trap st 1 (tvalWord 0 (BitVec.ofNat 32 w)))

/-- Whether a first word says that a second one follows: the E format (06 R135, R136). -/
def twoWords (w : Nat) : Bool := w / 2 ^ 26 == 0x21

/-- The second word of an instruction of two words is fetched, in the turn after that of the first, and the instruction runs (01 R19). -/
def State.runLong (s : State) (r : SRef) (st : Strand) (w : Nat) : Host.Outcome State Fault Refusal :=
  match s.fetch r.vr st.sup (st.pc + 4) 4 with
  | .ok bs a n => (s.fetched a n).runWord st w (leNat bs)
  | f => .next (s.fetchFail r st f)

/-- The bundle of 16 bytes (06 R135, R144). -/
def bundleOf (bs : List Byte) : Instr :=
  let w := fun (i : Nat) => leNat ((bs.drop (4 * i)).take 4)
  decodeBundle (w 0) (w 1) (w 2) (w 3)

/-- A strand that may issue fetches at its pc and runs what it finds; of an instruction of two words it accepts the first, and the second
in its next turn (01 R19). DESIGN CHOICE (log entry 44): a bundle that waits for DELAY, a column or room (06 R150) is fetched afresh in
every cycle. -/
def State.issueAt (s : State) (r : SRef) (st : Strand) : Host.Outcome State Fault Refusal :=
  match r.strand with
  | .c => match s.fetch r.vr st.sup st.pc 16 with
    | .ok bs a n => exec (bundleOf bs) (s.fetched a n)
    | f => .next (s.fetchFail r st f)
  | _ => match st.ext with
    | some w => s.runLong r st w.toNat
    | none => match s.fetch r.vr st.sup st.pc 4 with
      | .ok bs a n =>
        if twoWords (leNat bs) then .next ((s.fetched a n).modStrand r fun st => { st with ext := some (BitVec.ofNat 32 (leNat bs)) })
        else (s.fetched a n).runWord st (leNat bs) 0
      | f => .next (s.fetchFail r st f)

/-- The turn of a strand. -/
def State.strandTurn (s : State) (r : SRef) : Host.Outcome State Fault Refusal :=
  match s.strand? r with
  | none => .next s
  | some st => if s.mayIssue r st then { s with cur := r, trapped := false }.issueAt r st else .next s

/-! ### Counting cycles (01 R9, R21) -/

/-- A cycle of a strand of a placed gang: the waits and the walks count. -/
def Strand.tick (st : Strand) : Strand :=
  { st with
    waited := if st.wait.isSome then st.waited + 1 else st.waited
    xlates := st.xlates.map fun x => { x with left := x.left - 1 } }

/-- Whether the bundle at the pc of a core's C would freeze the pipeline, the results of the cycle having landed (01 R21). -/
def State.freezes (s : State) (r : SRef) (k : Core) : Bool :=
  let s := { s.modCore r fun _ => k with cur := r }
  s.mayIssue r k.c && match s.fetch r.vr k.c.sup k.c.pc 16 with
    | .ok bs _ _ => match bundleOf bs with
      | .bundleIssue h m v x => match s.bundlePlan k.c k h m v x with
        | .freeze => true
        | _ => false
      | _ => false
    | _ => false

/-- A cycle of a core of a placed gang. A frozen pipeline does not move. -/
def State.tickCore (s : State) (r : SRef) (k : Core) : Core :=
  let k := { k with l := k.l.tick, c := k.c.tick, s := k.s.tick }
  if s.freezes r k.ticked then { k with frozen := true } else k.tick

/-- A reference to a strand of a core of a gang. -/
def refOf (vr gang core : Nat) (i : StrandId) : SRef := { vr := vr, gang := gang, core := core, strand := i }

/-- A cycle of a gang of a resident rank: CYCLE of a placed gang, the age of a ready one (02 R66, 14 R342). -/
def State.tickGang (s : State) (vr : Nat) (g : Gang) : Gang :=
  match g.cond with
  | .placed => { g with cycle := g.cycle + 1, cores := g.cores.map fun k => s.tickCore (refOf vr g.id k.coreno .c) k }
  | .ready => { g with readyCycles := g.readyCycles + 1 }
  | _ => g

/-- Whether the next cycle of a rank's slot occurs (17 R438). -/
def State.clocked (s : State) (r : Rank) : Bool := match r.slot? with
  | some k => !(s.slot k).gated
  | none => false

/-- The counts of a cycle: gangs, the timers of shards (16 R394), the domain time base in 34ths of a slot: 3.125 G slots a second
at 850 MHz are 125 of them (17 R405). -/
def State.count (s : State) : State :=
  { s with
    ranks := s.ranks.map fun r => if s.clocked r then { r with gangs := r.gangs.map (s.tickGang r.vr) } else r
    granary := { s.granary with shards := s.granary.shards.map fun x => { x with timer := x.timer.map fun t => t + 1 } }
    fabric := { s.fabric with frac := s.fabric.frac + 125 } }

/-! ### What may take place in a cycle -/

/-- The cores of placed gangs on slots whose cycle occurs, in order of slot and core, with where they stand. -/
def State.liveCores (s : State) : List (SRef × Core) :=
  let rs := sortBy (fun (a b : Rank) => (a.slot?).getD 16 < (b.slot?).getD 16) (s.ranks.filter s.clocked)
  rs.flatMap fun r =>
    sortBy (fun (a b : SRef × Core) => a.1.core < b.1.core)
      ((r.gangs.filter Gang.isPlaced).flatMap fun g => g.cores.map fun k => (refOf r.vr g.id k.coreno .l, k))

/-- A core's strands, with their references. -/
def strandsOf (p : SRef × Core) : List (SRef × Strand) :=
  [({ p.1 with strand := .l }, p.2.l), ({ p.1 with strand := .c }, p.2.c), ({ p.1 with strand := .s }, p.2.s)]

/-- The results of a core that land in this cycle (02 R65). -/
def landings (p : SRef × Core) : List Instr := (p.2.pwq.filter fun e => e.left == 0).map fun _ => .pendingWriteLand p.1

/-- Whether the handle that a wait names is delivered in this cycle (07 R182). -/
def Strand.delivers (st : Strand) (w : Wait) : Bool := match w with
  | .handle h => st.xlates.any fun x => x.h == h && x.left == 0
  | _ => false

/-- What a strand's waits and walks bring due: a release of a wait whose object is ready, else its limit; handles (07 R182, R187,
R192, R193, R197; 12 R297). -/
def State.strandDue (s : State) (k : Core) (p : SRef × Strand) : List Instr :=
  let r := p.1
  let st := p.2
  let late := st.waitiLeft != 0 && st.waitiLeft ≤ st.waited
  let handles := (st.xlates.filter fun x => x.left == 0).map fun x => Instr.xlateDeliver r x.h
  handles ++ match st.wait with
    | none => []
    | some .waiti => if st.waitiLeft ≤ st.waited then [.waitiExpiry r] else []
    | some (.csave _ _) => [.strandWaitRelease r]
    | some (.drain _ _ _) => [.strandWaitRelease r]
    | some w =>
      if s.waitReady r st k w || st.delivers w then [.strandWaitRelease r]
      else if !late then []
      else match w with
        | .queue _ => [.qtimeout r]
        | .ring _ _ => [.qtimeout r]
        | .join _ => [.mjtimeout r]
        | .notice _ => [.idleExpiry r]
        | _ => []

/-- The asynchronous trap of a strand that has one pending, and the strand's turn (12 R307). -/
def turnOf (p : SRef × Strand) : List Turn :=
  if p.2.ended then []
  else (if p.2.asyncs.isEmpty then [] else [.event (.asyncTrap p.1)]) ++ [.strand p.1]

/-- The turns of the strands: every L in order of core, then every C that is not frozen, then every S (07 R189, log entry 3). -/
def strandTurns (l : List (SRef × Core)) : List Turn :=
  (l.flatMap fun p => turnOf ({ p.1 with strand := .l }, p.2.l)) ++
    ((l.filter fun p => !p.2.frozen).flatMap fun p => turnOf ({ p.1 with strand := .c }, p.2.c)) ++
    l.flatMap fun p => turnOf ({ p.1 with strand := .s }, p.2.s)

/-- What is due in every cycle: ageing, the schedule table, the close timer of a shard, a held notice (14 R342, R358, R361;
16 R394; 12 R299). -/
def State.cycleDue (s : State) : List Instr :=
  (s.ranks.filter s.clocked).flatMap (fun r =>
    (r.gangs.filter fun g => g.cond == .ready && 2 ^ 20 ≤ g.readyCycles).map (fun g => Instr.priorityAging r.vr g.id) ++
      if r.sched.st = .ready then [.bubbleCycle r.vr, .schedHeadIssue r.vr] else []) ++
  ((s.granary.shards.filter fun x => x.timer.isSome).map fun x => Instr.stepCloseTimeout x.rec'.job x.rec'.shard) ++
  if s.notices.isEmpty then [] else [.noticeWrite]

/-- The accesses in flight that have not left this package (07 R162). -/
def Rank.openAccesses (r : Rank) : List Instr := (r.accesses.filter fun a => !a.sent).map fun a => .memoryAccessComplete a.id

/-- What a core's stream units may do: load streams, then store streams (09 R236; 05 R114). -/
def loadWork (p : SRef × Core) : List Instr :=
  ((List.range 8).filter fun z => (p.2.stream z).st == .running).map fun z => Instr.loadStreamEntry p.1 z
def storeWork (p : SRef × Core) : List Instr :=
  ((List.range 8).filter fun z => (p.2.stream (z + 8)).st == .running).map fun z => Instr.storeStreamDrain p.1 (z + 8)

/-- What a core's engines may do: markers, the flush of an L2 (07 R190; 12 R294). -/
def coreWork (p : SRef × Core) : List Instr :=
  (strandsOf p).flatMap fun q =>
    ((q.2.markers.map fun m => m.engine).eraseDups.map fun e => Instr.markerRetire q.1 e) ++
      match q.2.wait with
      | some (.flush _) => [.strandWaitRelease q.1]
      | _ => []

/-- What a command may do next (10 R267, R278; 15 R374; 16 R396). -/
def cmdWork (c : Cmd) : List Instr :=
  match c.body with
  | .copy _ _ _ _ _ _ _ _ _ _ => if c.st = .queued then [.copyCommand c.id] else [.copyRetire c.id]
  | .coll _ _ _ _ _ _ ops _ _ =>
    if c.st = .queued then [.collectiveCommand c.id]
    else if c.ending then [.collOpComplete c.id 0]
    else (List.range ops.length).filterMap fun i => match ops[i]? with
      | some o => if o.complete then none else if o.running then some (.collOpComplete c.id i) else some (.collOpStart c.id i)
      | none => none
  | .migr _ stage _ _ _ _ => if stage < 2 then [.migrationCommand c.id] else [.migrationCommit c.id]
  | .gran g _ _ _ _ sent => if sent && !c.ending then [] else [.granaryGather g]

/-- The nodes that a tree may combine (10 R280). -/
def treeWork (t : TreeSt) : List Instr := (t.nodes.map fun e => (e.1, e.2.1 / 2)).eraseDups.map fun p => .treeNodeCombine t.key p.1 p.2

/-- What the granary may do for a shard (16 R389, R393). -/
def shardWork (x : Shard) : List Instr :=
  (x.applying.map fun b => Instr.granaryBlockApply x.rec'.job x.rec'.shard b.block) ++ [.granaryStepClose x.rec'.job x.rec'.shard]

/-- What may happen to the gangs of a rank (01 R28; 14 R345; 12 R308). -/
def Rank.gangWork (r : Rank) : List Instr :=
  r.gangs.filterMap fun g => match g.cond with
    | .starting => some (.gangStart r.vr g.id)
    | .placed => some (.gangComplete r.vr g.id)
    | .halting _ _ => some (.gangHalt r.vr g.id)
    | _ => none

/-- What may happen to a rank: its boundaries, its unit and the host queue of its slot (01 R31 to R35; 14 R343, R353). -/
def rankWork (r : Rank) : List Instr :=
  [Instr.phaseBoundary r.vr, .quiescentCommit r.vr, .stepArrival { job := r.job, vr := r.vr } r.stephold] ++ r.gangWork ++ match r.slot? with
    | some k => [.gangPlace k, .hostQueuePost k]
    | none => []

/-- The rings that the runtime may serve (18 R440). -/
def State.serviceWork (s : State) : List Instr :=
  ((s.liveCores.filter fun p => s.served p.1).map fun p => Instr.serviceRequest p.1) ++
    s.services.map fun x => .serviceReply x.by'

/-- The message of the host that waits (17 R429); LOADJOB and ENDJOB come with what the loader makes of them. -/
def State.hostWork (s : State) : List Instr := match s.message with
  | none => []
  | some m =>
    if s.servesReset && mailCode m == 4 then [.reset]
    else if !s.boot.ready then [.mailboxUnknownCode]
    else match mailCode m with
      | 1 => [.partition]
      | 2 => []
      | 3 => []
      | 4 => []
      | c => if 0x80 ≤ c then [.supervisorMessage] else [.mailboxUnknownCode]

/-- Everything that may take place in this cycle and whose time is open (log entry 4). After a module fault only the host's
messages are served (17 R438). -/
def State.mayHappen (s : State) : List Instr :=
  s.hostWork ++
  if s.boot.err then []
  else
    s.ranks.flatMap Rank.openAccesses ++ s.liveCores.flatMap coreWork ++ s.cmds.flatMap cmdWork ++ s.trees.flatMap treeWork ++
      s.granary.shards.flatMap shardWork ++ s.ranks.flatMap rankWork ++ (s.jobs.map fun j => .stepCollectiveComplete j.id) ++
      s.serviceWork

/-- Those of a list that take place, by the free values from `n` up. -/
def chosen : Nat → List Instr → List Instr
  | _, [] => []
  | n, i :: t => if Config.elapsed n then i :: chosen (n + 1) t else chosen (n + 1) t

/-- The event that a message brings at its arrival (17 R414). -/
def arrival (d : Demand) : Instr :=
  match d with
  | .remoteLoad q tgt n => .remoteLoad q tgt n
  | .loadData q bytes => .loadData q bytes
  | .postedWrite q tgt core strand order bytes => .postedWrite q tgt core strand order bytes
  | .writeAck q => .writeAcknowledgement q
  | .atomic q addr op => .atomic q addr op
  | .atomicResult q old => .atomicResult q old
  | .keepWaiting q => .keepWaitingNotice q
  | .refusal q detail => .refusal q detail
  | .schedArrival q grad mb step => .scheduleArrival q grad mb step
  | .slotPost q grad count step => .slotPost q grad count step
  | .transferAck q fid xfer => .transferAck q fid xfer
  | .transferNack q fid xfer => .transferNack q fid xfer
  | .placement q vr e => .placementUpdate (.placement q vr e)
  | .directory q job shard mv mdom mpkg hdom hpkg t => .placementUpdate (.directory q job shard mv mdom mpkg hdom hpkg t)
  | .gather q g => .gather q g
  | .blockAck q job shard block step => .blockAcknowledgement q job shard block step

/-- How many of the package's own messages, oldest first, arrive in this cycle, by the free values from `n` up (17 R414). -/
def arriving : Nat → List Demand → Nat
  | _, [] => 0
  | n, _ :: t => if Config.elapsed n then 1 + arriving (n + 1) t else 0

/-- A cycle of the arithmetic clock begins: the counts, then its agenda (01 R9, log entry 3). -/
def State.cycleEdge (s : State) : State :=
  let s := s.count
  let cores := s.liveCores
  let work := s.mayHappen
  let here := arriving s.free s.net
  let later := s.free + s.net.length
  let streams := cores.flatMap loadWork ++ cores.flatMap storeWork
  let agenda :=
    (cores.flatMap landings).map Turn.event ++
    (cores.flatMap fun p => (strandsOf p).flatMap (s.strandDue p.2)).map Turn.event ++
    ((s.net.take here).map fun d => Turn.event (arrival d)) ++
    (chosen later work).map Turn.event ++
    strandTurns cores ++
    (chosen (later + work.length) streams).map Turn.event ++
    s.cycleDue.map Turn.event ++
    if s.pcp.isEmpty then [] else [Turn.pcp]
  { s with
    agenda := agenda
    net := s.net.drop here
    free := later + work.length + streams.length
    slots := s.slots.map fun k => { k with gated := false } }

/-- The turn of the package control processor: its oldest act, on a system register or on root holders (12 R288; 16 R385). -/
def State.pcpAct (s : State) : State := match s.pcp with
  | .replay job shard step blocks :: t => { s with pcp := t }.replayAct (.replay job shard step blocks)
  | .replayed job shard all :: t => { s with pcp := t }.replayAct (.replayed job shard all)
  | _ => s.pcpTurn

/-! ### Fabric slots (17 R405, R406) -/

/-- The counts of a slot: the time base, the time that remote accesses, parked accesses and frames have waited (13 R335, R336;
17 R425). -/
def State.slotCount (s : State) : State :=
  { s with
    fabric := { s.fabric with dtb := s.fabric.dtb + 1, frac := s.fabric.frac - 34 }
    ranks := s.ranks.map fun r => { r with
      accesses := r.accesses.map fun a => if a.sent then { a with slots := a.slots + 1, resend := a.resend.map fun n => n - 1 } else a }
    faultq := s.faultq.map fun p => { p with slots := p.slots + 1 }
    conns := s.conns.map fun c => { c with unacked := c.unacked.map fun f => { f with age := f.age + 1 } } }

/-- What is due of the accesses that wait for a target (13 R335, R336). -/
def Rank.remoteDue (r : Rank) : List Instr :=
  r.accesses.filterMap fun a =>
    if a.resend = some 0 then some (.faultQueueResend a.id)
    else if a.sent && 262144 ≤ a.slots && a.resend.isNone then some (.remoteTimeout a.id)
    else none

/-- What is due of the boundary furrows in this slot (17 R415): the bytes are sent at BOFF; the result of a group whose ranks are all
here comes BLAT slots later. -/
def State.boundaryDue (s : State) : List Instr :=
  s.fabric.boundary.flatMap fun b =>
    (if s.slotNow % b.per = b.off % b.per then [Instr.boundaryFlitSend b.group] else []) ++
      if s.slotNow % b.per = (b.off + b.lat) % b.per && !s.groupAway b.group then
        match s.fabric.bytes.find? fun e => e.1 == b.group with
        | some e => [.boundaryResult b.group e.2]
        | none => []
      else []

/-- What is due in this slot. -/
def State.slotDue (s : State) : List Instr :=
  let leaving := (s.fabric.outs.filter fun x => x.departed.isNone).map fun x => Instr.furrowDepart x.fid
  s.boundaryDue ++ leaving.eraseDups ++
  (if s.fabric.departing.isEmpty && leaving.isEmpty && s.boundaryDue.isEmpty then [] else (List.range 32).map Instr.flitForward) ++
  ((s.fabric.ins.filter fun x => x.lastSlot < s.slotNow).map fun x => Instr.transferFail x.fid x.xfer) ++
  (if s.slotNow % 8 = 7 then (s.fabric.head.map fun m => m.link).eraseDups.map Instr.headlandSlot else []) ++
  s.ranks.flatMap Rank.remoteDue ++
  ((s.faultq.filter fun p => 65536 ≤ p.slots).map fun p => Instr.keepWaitingTimer (demandHdr p.msg)) ++
  ((s.conns.filter fun c => (c.unacked.take connWindow).any fun f => resendSlots ≤ f.age).map fun c =>
    Instr.transportResend c.port c.dom c.pkg)

/-- A fabric slot begins. -/
def State.slotEdge (s : State) : State :=
  let s := s.slotCount
  { s with agenda := s.slotDue.map Turn.event }

/-- Time passes: the next slot where one is due, else the next cycle. Before power-good the clocks do not run (17 R436). -/
def State.tick (s : State) : State :=
  if s.boot.stage = 0 then s else if 34 ≤ s.fabric.frac then s.slotEdge else s.cycleEdge

/-! ### Placing an instruction for the next step (log entry 11) -/

/-- Where the strand whose turn comes next fetches in memory of this package. -/
def State.fetchPlace (s : State) : Option Nat :=
  match s.inputs, s.agenda with
  | [], .strand r :: _ => match s.strand? r with
    | none => none
    | some st =>
      if r.strand = .c ∨ !s.mayIssue r st ∨ st.pc.toNat % 4 ≠ 0 ∨ 2 ^ 48 ≤ st.pc.toNat then none
      else match s.walkFor r.vr st.sup st.pc.toNat with
        | .leaf e _ large => if leafX e && (leafAper e == 0 || leafAper e == 1) then
            some (leafFrame e large + st.pc.toNat % pageSize large) else none
        | _ => none
  | _, _ => none

/-- The strand of a program of one core that stands ready to issue. -/
def firstStrand : SRef := refOf 0 1 0 .l

/-- The launch record of a gang of one core whose L begins at 0x0040_0000. -/
def firstLaunch : LaunchRec := { raw := 1, etab := 0x400000 }

/-- A gang of that record, placed. -/
def firstGang : Gang :=
  { Gang.posted firstLaunch .pcp 0 with cond := .placed, cores := [Core.start firstLaunch 0 0] }

/-- A rank that runs it, resident in slot 0, its page tables at 0x1_0000. -/
def firstRank : Rank :=
  { Rank.loaded { vr := 0, slot := some 0, ptroot := 0x10001, coupling := none, planes := (0, 0, 0) } 1 0 with
    gangs := [firstGang], walk := false }

/-- The page tables that map 0x0040_0000 to 0x4_0000, readable, writable and executable, accessed. -/
def firstTables (m : Memory) : Memory :=
  physPut (physPut (physPut m 0x10000 (leBytes 16 (1 + 2 ^ 65))) 0x20000 (leBytes 16 (1 + 3 * 2 ^ 64))) 0x30400
    (leBytes 16 (0x1E3 + 4 * 2 ^ 64))

/-- The first word of an instruction of two words has been accepted, or none has (01 R19). -/
def State.withExt (s : State) (w : Nat) : State := match s.agenda with
  | .strand r :: _ => s.modStrand r fun st => { st with ext := if twoWords (w % 2 ^ 32) then some (BitVec.ofNat 32 w) else none }
  | _ => s

/-- The state with that rank loaded and its strand's turn next. -/
def State.withProgram (s : State) : State :=
  { s with
    inputs := []
    agenda := [.strand firstStrand]
    clavail := s.clavail ||| 1
    ranks := firstRank :: s.ranks.filter fun r => r.vr != 0
    slots := s.slots.setIfInBounds 0 { s.slot 0 with occupant := some 0 }
    mem := firstTables s.mem }

/-- The words of an instruction stored at a physical address. -/
def State.putWords (s : State) (a w : Nat) : State := { s with mem := physPut s.mem a (leBytes 8 w) }

end Sys2Proof.Machine
end

