-- ==== Sys2Proof/Machine/Step.lean ====
section
/-! DEFINITION. One step of the machine: an act of an outside party if one has come, else the next turn of the agenda, else time
passes (log entry 3); and a state whose next step runs a given instruction. -/

namespace Sys2Proof.Machine

/-- One step. -/
def step (s : State) : Host.Outcome State Fault Refusal :=
  match s.inputs with
  | i :: rest => exec i { s with inputs := rest }
  | [] => match s.agenda with
    | .event i :: t => exec i { s with agenda := t }
    | .strand r :: t => { s with agenda := t }.strandTurn r
    | .pcp :: t => .next { s with agenda := t }.pcpAct
    | [] => .next s.tick

/-- `s` with an instruction stored where the next step fetches; where no strand is about to fetch, a program of one core is
loaded whose L fetches next (log entry 11). The first word of an instruction of two words has been accepted (01 R19). -/
def State.withFetchWord (s : State) (nbits w : Nat) : State :=
  match s.fetchPlace with
  | some a => (s.putWords a (w % 2 ^ nbits)).withExt (w % 2 ^ nbits)
  | none => (s.withProgram.putWords 0x40000 (w % 2 ^ nbits)).withExt (w % 2 ^ nbits)

end Sys2Proof.Machine
end

