-- ==== Sys2Proof/Safety.lean ====
section
/-! DEFINITION. What counts as a good state, and the words that claims about the machine are stated in: the exact values of
arithmetic, what an act leaves alone. -/

namespace Sys2Proof.Machine

/-- The combinations of HSTAT (17 R428, R436): STAGE is 0 to 4 or 15; READY only with STAGE 4; FAIL is 0 but in STAGE 15. -/
def Boot.Legal (b : Boot) : Prop :=
  (b.stage.toNat ≤ 4 ∨ b.stage = 15) ∧ (b.ready = true → b.stage = 4) ∧ (b.fail ≠ 0 → b.stage = 15)

/-- Every memory of the state is in its canonical form. -/
def State.MemWf (s : State) : Prop :=
  Memory.wf s.mem = true ∧ Memory.wf s.hostMem = true ∧
    ∀ k, Memory.wf (s.slot k).pads = true ∧ Memory.wf (s.slot k).shadow = true

/-- The scratchpads that saved gangs keep, of ranks held here and of ranks that arrive, are in canonical form. -/
def State.FramesWf (s : State) : Prop := ∀ r, r ∈ s.ranks ∨ r ∈ s.incoming → ∀ g ∈ r.gangs, Memory.wf g.pads = true

/-- A step that does not stop. -/
def State.StepSafe (s : State) : Prop := ∃ t, step s = .next t

/-! ### What an act leaves alone -/

/-- Every byte of memory of every kind reads as before: physical memory, host memory, the scratchpads and their phase-start
values. -/
def State.SameMemory (s t : State) : Prop :=
  (∀ a, physRead t.mem a = physRead s.mem a) ∧ (∀ a, memRead t.hostMem a = memRead s.hostMem a) ∧
    ∀ k a, memRead (t.slot k).pads a = memRead (s.slot k).pads a ∧ memRead (t.slot k).shadow a = memRead (s.slot k).shadow a

/-- Nothing of the machine has changed but the strand `r`: every other strand, every core but for its strands, every rank but
for its gangs, the slots, memory, engines, fabric, granary and host interface are as before. -/
def State.OnlyStrand (s t : State) (r : SRef) : Prop := ∃ st, t = s.modStrand r fun _ => st

/-- Between two strands nothing differs but a scalar register, the pc, the loops and the wait: predicates, flags, DZT, mode,
trap registers, joins, completion records, markers and rendezvous registers are as before. -/
def Strand.SameBut (st st' : Strand) (d : XReg) : Prop :=
  (∀ k, k ≠ d → st'.rx k = st.rx k) ∧ st'.p = st.p ∧ st'.dzt = st.dzt ∧ st'.sup = st.sup ∧ st'.fpflags = st.fpflags ∧
    st'.tvec = st.tvec ∧ st'.tlevel = st.tlevel ∧ st'.bank1 = st.bank1 ∧ st'.bank2 = st.bank2 ∧ st'.joins = st.joins ∧
    st'.recs = st.recs ∧ st'.markers = st.markers ∧ st'.rvPend = st.rvPend ∧ st'.rvGen = st.rvGen ∧ st'.chain = st.chain ∧
    st'.asyncs = st.asyncs ∧ st'.xlates = st.xlates ∧ st'.selvr = st.selvr ∧ st'.selslot = st.selslot ∧ st'.ended = st.ended

/-! ### Accesses and engine commands of a strand -/

/-- No engine command that a strand of this core has submitted is outstanding (05 R131). -/
def State.NoCmds (s : State) (r : SRef) : Prop :=
  ∀ c ∈ s.cmds, ¬ (c.by'.vr = r.vr ∧ c.by'.gang = r.gang ∧ c.by'.core = r.core)

/-- The state with one more access of the acting strand in flight: the strand holds for its value, or goes on (07 R162). -/
def State.inFlight (s : State) (st : Strand) (op : AccOp) (dst : AccTo) (va : Word) (holds viaHandle : Bool) : State :=
  let a : Access := { id := s.nextId, by' := s.cur, op := op, dst := dst, va := va, hold := holds, viaHandle := viaHandle,
                      sent := false, slots := 0, resend := none, order := s.nextId }
  let t := ({ s with nextId := s.nextId + 1 } : State).modRank s.cur.vr fun r =>
    { r with accesses := r.accesses ++ [a], abroad := r.abroad || a.dst.isPeer }
  if holds then t.modStrand s.cur fun q => { q with wait := some (.access s.nextId) } else t.retire st

/-- The gang of a strand is not saved in a context frame (12 R310). -/
def State.NotSaved (s : State) (r : SRef) : Prop := ∀ g, s.gang? r.vr r.gang = some g → ∀ k w b, g.cond ≠ .saved k w b

/-! ### Exact values of integer arithmetic (07 R163 to R166) -/

/-- The operations on two registers whose result is one value of n bits (07 R163). -/
inductive Alu2 where
  | add | sub | and | or | xor | andn | shl | shr | sar | rot | mul | mulh | mulhu | min | max | minu | maxu | adds | subs
  deriving DecidableEq, Repr

/-- The instruction of an operation. -/
def Alu2.instr (k : Alu2) (d a b : XReg) (w : Bool) : Instr :=
  match k with
  | .add => .add d a b w
  | .sub => .sub d a b w
  | .and => .and d a b w
  | .or => .or d a b w
  | .xor => .xor d a b w
  | .andn => .andn d a b w
  | .shl => .shl d a b w
  | .shr => .shr d a b w
  | .sar => .sar d a b w
  | .rot => .rot d a b w
  | .mul => .mul d a b w
  | .mulh => .mulh d a b w
  | .mulhu => .mulhu d a b w
  | .min => .min d a b w
  | .max => .max d a b w
  | .minu => .minu d a b w
  | .maxu => .maxu d a b w
  | .adds => .adds d a b w
  | .subs => .subs d a b w

/-- The value that an operation forms, exactly; its result is that value modulo 2^n (07 R163). Shifts and rotates take the
amount modulo n. -/
def Alu2.exact (k : Alu2) (n : Nat) (x y : BitVec n) : Int :=
  match k with
  | .add => x.toInt + y.toInt
  | .sub => x.toInt - y.toInt
  | .and => (x.toNat &&& y.toNat : Nat)
  | .or => (x.toNat ||| y.toNat : Nat)
  | .xor => (x.toNat ^^^ y.toNat : Nat)
  | .andn => (x.toNat &&& (2 ^ n - 1 - y.toNat) : Nat)
  | .shl => (x.toNat * 2 ^ (y.toNat % n) : Nat)
  | .shr => (x.toNat / 2 ^ (y.toNat % n) : Nat)
  | .sar => x.toInt / 2 ^ (y.toNat % n)
  | .rot => (x.toNat * 2 ^ (y.toNat % n) + x.toNat / 2 ^ (n - y.toNat % n) : Nat)
  | .mul => x.toInt * y.toInt
  | .mulh => x.toInt * y.toInt / 2 ^ n
  | .mulhu => (x.toNat * y.toNat / 2 ^ n : Nat)
  | .min => if x.toInt ≤ y.toInt then x.toInt else y.toInt
  | .max => if x.toInt ≤ y.toInt then y.toInt else x.toInt
  | .minu => if x.toNat ≤ y.toNat then (x.toNat : Int) else y.toNat
  | .maxu => if x.toNat ≤ y.toNat then (y.toNat : Int) else x.toNat
  | .adds => Max.max (-2 ^ (n - 1)) (Min.min (2 ^ (n - 1) - 1) (x.toInt + y.toInt))
  | .subs => Max.max (-2 ^ (n - 1)) (Min.min (2 ^ (n - 1) - 1) (x.toInt - y.toInt))

/-- The result of an exact value at 64 bits, or at 32 bits and sign-extended (07 R163). -/
def resultAt (w : Bool) (f : (n : Nat) → BitVec n → BitVec n → Int) (x y : Word) : Word :=
  if w then (BitVec.ofInt 32 (f 32 (x.setWidth 32) (y.setWidth 32))).signExtend 64 else BitVec.ofInt 64 (f 64 x y)

/-- The divisions (07 R164). -/
inductive Div4 where
  | div | divu | rem | remu
  deriving DecidableEq, Repr

def Div4.instr (k : Div4) (d a b : XReg) (w : Bool) : Instr :=
  match k with
  | .div => .div d a b w
  | .divu => .divu d a b w
  | .rem => .rem d a b w
  | .remu => .remu d a b w

/-- Quotients truncate toward zero and remainders have the sign of the dividend; a divisor of 0 gives all bits set as quotient
and the dividend as remainder (07 R164). -/
def Div4.exact (k : Div4) (n : Nat) (x y : BitVec n) : Int :=
  match k with
  | .div => if y = 0 then -1 else x.toInt.tdiv y.toInt
  | .divu => if y = 0 then -1 else (x.toNat / y.toNat : Nat)
  | .rem => if y = 0 then x.toInt else x.toInt.tmod y.toInt
  | .remu => if y = 0 then x.toInt else (x.toNat % y.toNat : Nat)

/-- Whether the divisor is 0 at the width of the instruction. -/
def divisorZero (w : Bool) (y : Word) : Prop := if w then y.setWidth 32 = (0 : BitVec 32) else y = 0

/-! ### Conditions and predicates (07 R167, R168) -/

/-- The truth of a condition on the signed and the unsigned values of two operands (07 R167). -/
def condTrue (c : Cond) (a b : Int) (ua ub : Nat) : Bool :=
  match c with
  | .eq => decide (ua = ub)
  | .ne => decide (ua ≠ ub)
  | .lt => decide (a < b)
  | .ge => decide (b ≤ a)
  | .ltu => decide (ua < ub)
  | .geu => decide (ub ≤ ua)
  | .le => decide (a ≤ b)
  | .gt => decide (b < a)
  | .leu => decide (ua ≤ ub)
  | .gtu => decide (ub < ua)

/-- Bit 0 of a predicate as a number (02 R48). -/
def Strand.pred0 (st : Strand) (p : PReg) : Nat := (st.p[p.toNat]?.getD 0).toNat % 2

/-- A predicate holding a number in bit 0 and zeros above (07 R167, R168). -/
def Strand.putPred (st : Strand) (p : PReg) (v : Nat) : Strand := { st with p := st.p.setIfInBounds p.toNat (BitVec.ofNat 1024 v) }

/-- The destination register of an integer instruction (07 R163 to R166, R169). -/
def intDest : Instr → Option XReg
  | .add d _ _ _ => some d
  | .sub d _ _ _ => some d
  | .and d _ _ _ => some d
  | .or d _ _ _ => some d
  | .xor d _ _ _ => some d
  | .andn d _ _ _ => some d
  | .shl d _ _ _ => some d
  | .shr d _ _ _ => some d
  | .sar d _ _ _ => some d
  | .rot d _ _ _ => some d
  | .mul d _ _ _ => some d
  | .mulh d _ _ _ => some d
  | .mulhu d _ _ _ => some d
  | .div d _ _ _ => some d
  | .divu d _ _ _ => some d
  | .rem d _ _ _ => some d
  | .remu d _ _ _ => some d
  | .min d _ _ _ => some d
  | .max d _ _ _ => some d
  | .minu d _ _ _ => some d
  | .maxu d _ _ _ => some d
  | .adds d _ _ _ => some d
  | .subs d _ _ _ => some d
  | .clz d _ _ => some d
  | .popc d _ _ => some d
  | .sext d _ _ => some d
  | .zext d _ _ => some d
  | .addi d _ _ => some d
  | .andi d _ _ => some d
  | .ori d _ _ => some d
  | .xori d _ _ => some d
  | .shli d _ _ _ => some d
  | .shri d _ _ _ => some d
  | .sari d _ _ _ => some d
  | .roti d _ _ _ => some d
  | .sel d _ _ _ => some d
  | .li d _ => some d
  | .lis d _ => some d
  | _ => none

end Sys2Proof.Machine
end

