-- ==== Sys2Proof/Certificates/Slice0/Obligations.lean ====
section
/-! DEFINITION. The statements about the machine, each for a numbered rule of the spec or for a section of it. -/

open Sys2Proof Sys2Proof.Machine

/-- Integer ALU results are the exact values modulo 2^n (R163, R47, R162). For every ALU operation on two registers except
division, every operand and both widths, exec answers a next state that is the state with the instruction completed
and rd holding the exact value of the operation (sum, difference, product, half product, bitwise, shift, rotate,
minimum, maximum, clamped sum) modulo 2^n, sign-extended from 32 bits in the W form; nothing else changes, and a write
to x0 is discarded. -/
def Obligations.AluResultIsExact : Prop :=
  (∀ (k : Alu2) (d a b : XReg) (w : Bool) (s : State) (st : Strand), s.strand? s.cur = some st →
    exec (k.instr d a b w) s = .next (s.retire (st.wx d (resultAt w k.exact (st.rx a) (st.rx b))))) ∧
  (∀ (st : Strand) (d k : XReg) (v : Word), (st.wx d v).rx k = if k = 0 then 0 else if k = d then v else st.rx k)

/-- Division: truncation, zero divisor, overflow, DIVZ (R164). DIV, DIVU, REM and REMU in both widths: when the divisor is
not 0 or DZT is clear, exec answers the next state with rd holding the quotient truncated toward zero or the remainder
with the sign of the dividend; a zero divisor gives all bits set or the dividend; the overflow case gives the dividend
and 0. When the divisor is 0 and DZT is set the next state is the trap DIVZ (cause 4) with TVAL 0 at the instruction,
rd not written. -/
def Obligations.DivisionResultsAndTrap : Prop :=
  (∀ (k : Div4) (d a b : XReg) (w : Bool) (s : State) (st : Strand), s.strand? s.cur = some st →
    (st.dzt = false ∨ ¬ divisorZero w (st.rx b)) →
    exec (k.instr d a b w) s = .next (s.retire (st.wx d (resultAt w k.exact (st.rx a) (st.rx b))))) ∧
  (∀ (k : Div4) (d a b : XReg) (w : Bool) (s : State) (st : Strand), s.strand? s.cur = some st →
    st.dzt = true → divisorZero w (st.rx b) → exec (k.instr d a b w) s = .next (s.trap st 4 0)) ∧
  (∀ (n : Nat) (x y : BitVec n), x.toInt = -(2 : Int) ^ (n - 1) → y = BitVec.allOnes n → 1 < n →
    BitVec.ofInt n (Div4.div.exact n x y) = x ∧ BitVec.ofInt n (Div4.rem.exact n x y) = 0)

/-- CLZ, POPC, SEXT and ZEXT (R163). CLZ counts the leading zero bits of the operand at its width, POPC the one bits, SEXT
and ZEXT extend the low byte, half or word; each answers the next state with rd holding that value and the instruction
completed. -/
def Obligations.BitCountsAndExtensions : Prop :=
  (∀ (d a : XReg) (w : Bool) (s : State) (st : Strand), s.strand? s.cur = some st → ∃ c : Nat,
    exec (.clz d a w) s = .next (s.retire (st.wx d (BitVec.ofNat 64 c))) ∧
      (let n := if w then 32 else 64
       let v := (st.rx a).toNat % 2 ^ n
       c ≤ n ∧ v < 2 ^ (n - c) ∧ (c < n → 2 ^ (n - c - 1) ≤ v))) ∧
  (∀ (d a : XReg) (w : Bool) (s : State) (st : Strand), s.strand? s.cur = some st →
    exec (.popc d a w) s = .next (s.retire (st.wx d (BitVec.ofNat 64
      (((List.range (if w then 32 else 64)).map fun i => if (st.rx a).getLsbD i then 1 else 0).sum))))) ∧
  (∀ (d a : XReg) (k : BitVec 2) (s : State) (st : Strand), s.strand? s.cur = some st → (Instr.sext d a k).WellFormed →
    exec (.sext d a k) s = .next (s.retire (st.wx d (BitVec.ofInt 64 (signedOf (8 * 2 ^ k.toNat) (st.rx a).toNat)))) ∧
    exec (.zext d a k) s = .next (s.retire (st.wx d (BitVec.ofNat 64 ((st.rx a).toNat % 2 ^ (8 * 2 ^ k.toNat))))))

/-- Immediate arithmetic and shifts by an immediate (R165, R166). ADDI adds the sign-extended immediate modulo 2^64; ANDI,
ORI and XORI combine with the zero-extended immediate; LI loads the sign-extended immediate; LIS shifts rd left by 16
and ors the zero-extended immediate; SHLI, SHRI, SARI and ROTI are SHL, SHR, SAR and ROT by the immediate amount, the
W form on the low 32 bits and sign-extended. Each answers the next state with that value in rd and the instruction
completed. -/
def Obligations.ImmediateFormsResult : Prop :=
  ∀ (d a : XReg) (i : BitVec 16) (s : State) (st : Strand), s.strand? s.cur = some st →
    exec (.addi d a i) s = .next (s.retire (st.wx d (BitVec.ofInt 64 ((st.rx a).toInt + i.toInt)))) ∧
    exec (.andi d a i) s = .next (s.retire (st.wx d (BitVec.ofNat 64 ((st.rx a).toNat &&& i.toNat)))) ∧
    exec (.ori d a i) s = .next (s.retire (st.wx d (BitVec.ofNat 64 ((st.rx a).toNat ||| i.toNat)))) ∧
    exec (.xori d a i) s = .next (s.retire (st.wx d (BitVec.ofNat 64 ((st.rx a).toNat ^^^ i.toNat)))) ∧
    exec (.li d i) s = .next (s.retire (st.wx d (BitVec.ofInt 64 i.toInt))) ∧
    exec (.lis d i) s = .next (s.retire (st.wx d (BitVec.ofNat 64 ((st.rx d).toNat * 2 ^ 16 + i.toNat)))) ∧
    ∀ (w : Bool) (n : BitVec 6), (w = true → n.toNat < 32) →
      exec (.shli d a w n) s = .next (s.retire (st.wx d (resultAt w Alu2.shl.exact (st.rx a) (BitVec.ofNat 64 n.toNat)))) ∧
      exec (.shri d a w n) s = .next (s.retire (st.wx d (resultAt w Alu2.shr.exact (st.rx a) (BitVec.ofNat 64 n.toNat)))) ∧
      exec (.sari d a w n) s = .next (s.retire (st.wx d (resultAt w Alu2.sar.exact (st.rx a) (BitVec.ofNat 64 n.toNat)))) ∧
      exec (.roti d a w n) s = .next (s.retire (st.wx d (resultAt w Alu2.rot.exact (st.rx a) (BitVec.ofNat 64 n.toNat))))

/-- CMP, CMPI, the predicate logic and SEL (R167, R168, R169). A compare writes the truth of its condition, signed or
unsigned as the condition says and at the width of the instruction, into bit 0 of the predicate and clears bits 1 to
1,023; PLOG computes a predicate from bit 0 of its sources in the same way; SEL picks by bit 0 of the predicate. Each
answers the next state with the instruction completed. -/
def Obligations.ComparesPredicatesSelect : Prop :=
  (∀ (p : PReg) (a b : XReg) (c : Cond) (w : Bool) (s : State) (st : Strand), s.strand? s.cur = some st →
    (Instr.cmp p a b c w).WellFormed →
    ∃ v, exec (.cmp p a b c w) s = .next (s.retire { st with p := st.p.setIfInBounds p.toNat (BitVec.ofNat 1024 v) }) ∧
      v = (if condTrue c (if w then signedOf 32 (st.rx a).toNat else (st.rx a).toInt)
                         (if w then signedOf 32 (st.rx b).toNat else (st.rx b).toInt)
                         ((st.rx a).toNat % (if w then 2 ^ 32 else 2 ^ 64))
                         ((st.rx b).toNat % (if w then 2 ^ 32 else 2 ^ 64)) then 1 else 0)) ∧
  (∀ (p : PReg) (a : XReg) (c : Cond) (i : BitVec 10) (s : State) (st : Strand), s.strand? s.cur = some st →
    (Instr.cmpi p a c i).WellFormed →
    ∃ v, exec (.cmpi p a c i) s = .next (s.retire { st with p := st.p.setIfInBounds p.toNat (BitVec.ofNat 1024 v) }) ∧
      v = (if condTrue c (st.rx a).toInt i.toInt (st.rx a).toNat (BitVec.ofInt 64 i.toInt).toNat then 1 else 0)) ∧
  (∀ (d a b : PReg) (s : State) (st : Strand), s.strand? s.cur = some st →
    exec (.pand d a b) s = .next (s.retire (st.putPred d (st.pred0 a * st.pred0 b))) ∧
    exec (.por d a b) s = .next (s.retire (st.putPred d (max (st.pred0 a) (st.pred0 b)))) ∧
    exec (.pxor d a b) s = .next (s.retire (st.putPred d ((st.pred0 a + st.pred0 b) % 2))) ∧
    exec (.pandn d a b) s = .next (s.retire (st.putPred d (st.pred0 a * (1 - st.pred0 b)))) ∧
    exec (.pnot d a) s = .next (s.retire (st.putPred d (1 - st.pred0 a))) ∧
    exec (.pmov d a) s = .next (s.retire (st.putPred d (st.pred0 a))) ∧
    exec (.pset d) s = .next (s.retire (st.putPred d 1)) ∧
    exec (.pclr d) s = .next (s.retire (st.putPred d 0))) ∧
  (∀ (d a b : XReg) (p : PReg) (s : State) (st : Strand), s.strand? s.cur = some st →
    exec (.sel d a b p) s = .next (s.retire (st.wx d (if st.pred0 p = 1 then st.rx a else st.rx b))))

/-- What the integer instructions leave alone (R163, R164, R165, R166, R169). When an integer instruction (ALU, division
that does not trap, immediate form, SEL) answers a next state, only the acting strand has changed, in it only rd, the
pc, the hardware loops and the wait: every other register, every predicate, DZT, FPFLAGS, the trap registers, the
joins, every other strand, and every byte of physical memory, host memory and scratchpads reads as before. -/
def Obligations.IntegerFrame : Prop :=
  ∀ (i : Instr) (d : XReg) (s t : State) (st : Strand), intDest i = some d → s.strand? s.cur = some st → st.dzt = false →
    exec i s = .next t →
    ∃ st', t = s.modStrand s.cur (fun _ => st') ∧ t.strand? s.cur = some st' ∧ st.SameBut st' d ∧ s.SameMemory t ∧
      (∀ q, q ≠ s.cur → t.strand? q = s.strand? q) ∧ t.trapped = s.trapped ∧ t.slots = s.slots ∧ t.cmds = s.cmds

/-- The loop test of a completing unit (R172). When a unit of L or S that does not transfer control completes (here a NOP)
at the latched end of an active loop, the latched count decides: above 1 it is decremented, LPC reads it and the pc
goes to the latched start; otherwise the count and LPC become 0, the loop is inactive and the pc goes on. lp1 is
tested first and lp0 only if lp1 ends on that unit; LPS and LPE keep their values; with no loop ending there the pc
advances by 4. -/
def Obligations.HardwareLoopTest : Prop :=
  ∀ (s : State) (st : Strand), s.strand? s.cur = some st → s.cur.strand ≠ .c → ∃ st',
    exec .nop s = .next (s.modStrand s.cur fun _ => st') ∧ st'.x = st.x ∧
    (let at0 := st.lp0.active = true ∧ st.lp0.le = st.pc
     let at1 := st.lp1.active = true ∧ st.lp1.le = st.pc
     let ended := fun (lp : HwLoop) => { lp with lcnt := 0, lpc := 0, active := false }
     let again := fun (lp : HwLoop) => { lp with lcnt := lp.lcnt - 1, lpc := lp.lcnt - 1 }
     (at1 ∧ 1 < st.lp1.lcnt.toNat → st'.pc = st.lp1.ls ∧ st'.lp1 = again st.lp1 ∧ st'.lp0 = st.lp0) ∧
     (at1 ∧ ¬ 1 < st.lp1.lcnt.toNat ∧ at0 ∧ 1 < st.lp0.lcnt.toNat →
       st'.pc = st.lp0.ls ∧ st'.lp1 = ended st.lp1 ∧ st'.lp0 = again st.lp0) ∧
     (at1 ∧ ¬ 1 < st.lp1.lcnt.toNat ∧ at0 ∧ ¬ 1 < st.lp0.lcnt.toNat →
       st'.pc = st.pc + 4 ∧ st'.lp1 = ended st.lp1 ∧ st'.lp0 = ended st.lp0) ∧
     (at1 ∧ ¬ 1 < st.lp1.lcnt.toNat ∧ ¬ at0 → st'.pc = st.pc + 4 ∧ st'.lp1 = ended st.lp1 ∧ st'.lp0 = st.lp0) ∧
     (¬ at1 ∧ at0 ∧ 1 < st.lp0.lcnt.toNat → st'.pc = st.lp0.ls ∧ st'.lp1 = st.lp1 ∧ st'.lp0 = again st.lp0) ∧
     (¬ at1 ∧ at0 ∧ ¬ 1 < st.lp0.lcnt.toNat → st'.pc = st.pc + 4 ∧ st'.lp1 = st.lp1 ∧ st'.lp0 = ended st.lp0) ∧
     (¬ at1 ∧ ¬ at0 → st'.pc = st.pc + 4 ∧ st'.lp1 = st.lp1 ∧ st'.lp0 = st.lp0))

/-- Branches, calls, jumps and the start of a loop (R170, R171, R142, R173). BR and a taken BRP go to the branching word
plus four times the signed offset and end exactly the active loops whose latched range does not hold the target; a BRP
not taken completes as any unit; CALL writes the next address to x31 and JR to rd, both without touching the loops; JR
to a target that is not a multiple of 4 raises ALIGN (cause 0xA) with the target as TVAL and writes nothing. LPSET and
LPSETI of an inactive loop set LPS to the next unit, LPE to the unit that the end field names and LPC to the count; a
count of 0 skips the body with the loop inactive, else start, end and count are latched and the loop is active; of an
active loop both raise ILLOP (cause 1) with their word. -/
def Obligations.BranchTargets : Prop :=
  (∀ (s : State) (st : Strand), s.strand? s.cur = some st →
    let go := fun (st' : Strand) (t : Word) =>
      s.modStrand s.cur fun _ => { st' with pc := t, waited := 0, waitiLeft := 0, wait := none }
    let kept := fun (lp : HwLoop) (t : Word) =>
      if lp.active = true ∧ (t.toNat < lp.ls.toNat ∨ lp.le.toNat < t.toNat)
      then { lp with lcnt := 0, lpc := 0, active := false } else lp
    let left := fun (t : Word) => { st with lp0 := kept st.lp0 t, lp1 := kept st.lp1 t }
    (∀ o : BitVec 26, let t := BitVec.ofInt 64 (st.pc.toInt + 4 * o.toInt)
      exec (.br o) s = .next (go (left t) t) ∧ exec (.call o) s = .next (go (st.wx 31 (st.pc + 4)) t)) ∧
    (∀ (p : PReg) (n : Bool) (o : BitVec 18), let t := BitVec.ofInt 64 (st.pc.toInt + 4 * o.toInt)
      exec (.brp p n o) s = .next (if (st.pred0 p + n.toNat) % 2 = 1 then go (left t) t else s.retire st)) ∧
    (∀ d a : XReg, (st.rx a).toNat % 4 = 0 → exec (.jr d a) s = .next (go (st.wx d (st.pc + 4)) (st.rx a))) ∧
    (∀ d a : XReg, (st.rx a).toNat % 4 ≠ 0 → exec (.jr d a) s = .next (s.trap st 0xA (st.rx a)))) ∧
  (∀ (l : Bool) (s : State) (st : Strand), s.strand? s.cur = some st →
    let u : Word := if s.cur.strand = .c then 16 else 4
    let old := if l then st.lp1 else st.lp0
    let put := fun (v : HwLoop) => if l then { st with lp1 := v } else { st with lp0 := v }
    let after := fun (count : Word) (e : Nat) =>
      let lp : HwLoop := { old with lps := st.pc + u, lpe := st.pc + u * BitVec.ofNat 64 (e + 1), lpc := count }
      if count = 0 then
        s.modStrand s.cur fun _ => { put lp with pc := lp.lpe + u, waited := 0, waitiLeft := 0, wait := none }
      else s.retire (put { lp with active := true, ls := lp.lps, le := lp.lpe, lcnt := count })
    (∀ (c : XReg) (e : BitVec 20), exec (.lpset l c e) s =
      .next (if old.active then s.trap st 1 (s.wordVal (.lpset l c e)) else after (st.rx c) e.toNat)) ∧
    (∀ (c : BitVec 13) (e : BitVec 12), exec (.lpseti l c e) s =
      .next (if old.active then s.trap st 1 (s.wordVal (.lpseti l c e)) else after (BitVec.ofNat 64 c.toNat) e.toNat)))

/-- NOP, FEAT, RAND, WAITI and its expiry (R193, R195, R196, R94). NOP completes and does nothing; FEAT writes the feature
word of its selector (constants for selectors 0 to 4, N of the job for 5, 0 beyond); RAND writes the draw of its
stream for the seed, VR and step of the rank; WAITI of 0 completes, of n holds the strand with the count n, and when n
cycles have been waited WAITI_EXPIRY completes it, before that nothing happens. -/
def Obligations.MiscInstructionsComplete : Prop :=
  ∀ (s : State) (st : Strand), s.strand? s.cur = some st →
    exec .nop s = .next (s.retire st) ∧
    (∀ (d : XReg) (f : BitVec 12), exec (.feat d f) s = .next (s.retire (st.wx d
      (([0x00010101, 0x0000004034400200, 0x0100601810400100, 0xFF, 0xF, BitVec.ofNat 64 (s.jobSize s.cur.vr)] : List Word)[f.toNat]?.getD 0)))) ∧
    (∀ (d a : XReg) (n : BitVec 4) (r : Rank), s.rank? s.cur.vr = some r →
      exec (.rand d a n) s =
        .next (s.retire (st.wx d (rngDraw r.jobseed r.vr r.stepno n.toNat (BitVec.ofNat 32 (st.rx a).toNat))))) ∧
    exec (.waiti 0) s = .next (s.retire st) ∧
    (∀ n : BitVec 12, n ≠ 0 →
      exec (.waiti n) s = .next (s.modStrand s.cur fun st => { st with wait := some .waiti, waitiLeft := n.toNat })) ∧
    (∀ (r : SRef) (sr : Strand), s.strand? r = some sr → sr.wait = some .waiti →
      exec (.waitiExpiry r) s =
        .next (if sr.waitiLeft ≤ sr.waited then ({ s with cur := r } : State).retire sr else s))

/-- WRCTL of every register, its clamps and its ILLOP (R194, R50, R59, R64, R67, R68, R69, R300). WRCTL of STATUS sets DZT
alone and refuses reserved bits; of TVEC refuses bits 11 to 0; of the trap banks writes the bank (TSTAT refuses
reserved bits); of LPS, LPE and LPC changes what is read but not the running loop; of FPFLAGS clears the flags written
as 1 and refuses reserved bits; of SHAPE, from C only, sets a legal shape; of a ring register, from L and S only,
replaces all fields; of WALn clamps LIMIT to 1 and the ceiling of the window. A refused write, and one to a read-only
register or to an index out of the table, raises ILLOP (cause 1) and writes nothing. -/
def Obligations.ControlRegisterWrites : Prop :=
  ∀ (s : State) (st : Strand) (a : XReg), s.strand? s.cur = some st →
    let v := st.rx a
    let bad := fun (i : Instr) => (Host.Outcome.next (s.trap st 1 (s.wordVal i)) : Host.Outcome State Fault Refusal)
    let done := fun (st' : Strand) => (Host.Outcome.next (s.retire st') : Host.Outcome State Fault Refusal)
    let limit := fun (n : BitVec 4) => BitVec.ofNat 16 (if v.toNat % 2 ^ 16 = 0 then 1
      else min (wtblCeil (s.wtbl s.cur.vr n.toNat)).toNat (v.toNat % 2 ^ 16))
    exec (.wrctl a 0x008) s = (if v &&& 0xFFFFFFFFFFFFFF32 = 0 then done { st with dzt := v.getLsbD 0 } else bad (.wrctl a 0x008)) ∧
    exec (.wrctl a 0x020) s = (if v.toNat % 4096 = 0 then done { st with tvec := v } else bad (.wrctl a 0x020)) ∧
    exec (.wrctl a 0x022) s = done { st with bank1 := { st.bank1 with tpc := v } } ∧
    exec (.wrctl a 0x023) s = done { st with bank1 := { st.bank1 with tcause := v } } ∧
    exec (.wrctl a 0x024) s = done { st with bank1 := { st.bank1 with tval := v } } ∧
    exec (.wrctl a 0x025) s =
      (if v.toNat < 2 ^ 16 ∧ v.getLsbD 4 = false then done { st with bank1 := { st.bank1 with tstat := v } } else bad (.wrctl a 0x025)) ∧
    exec (.wrctl a 0x026) s = done { st with bank2 := { st.bank2 with tpc := v } } ∧
    exec (.wrctl a 0x027) s = done { st with bank2 := { st.bank2 with tcause := v } } ∧
    exec (.wrctl a 0x028) s = done { st with bank2 := { st.bank2 with tval := v } } ∧
    exec (.wrctl a 0x029) s =
      (if v.toNat < 2 ^ 16 ∧ v.getLsbD 4 = false then done { st with bank2 := { st.bank2 with tstat := v } } else bad (.wrctl a 0x029)) ∧
    (∀ c : BitVec 12, c.toNat ∉ [0x008, 0x020, 0x022, 0x023, 0x024, 0x025, 0x026, 0x027, 0x028, 0x029] →
      exec (.wrctl a c) s = bad (.wrctl a c)) ∧
    exec (.fpflagsClear a) s = (if v.toNat < 32 then done { st with fpflags := st.fpflags &&& ~~~(v.setWidth 5) } else bad (.fpflagsClear a)) ∧
    exec (.loopRegisterWrite a 0) s = done { st with lp0 := { st.lp0 with lps := v } } ∧
    exec (.loopRegisterWrite a 1) s = done { st with lp0 := { st.lp0 with lpe := v } } ∧
    exec (.loopRegisterWrite a 2) s = done { st with lp0 := { st.lp0 with lpc := v } } ∧
    exec (.loopRegisterWrite a 3) s = done { st with lp1 := { st.lp1 with lps := v } } ∧
    exec (.loopRegisterWrite a 4) s = done { st with lp1 := { st.lp1 with lpe := v } } ∧
    exec (.loopRegisterWrite a 5) s = done { st with lp1 := { st.lp1 with lpc := v } } ∧
    exec (.shapeWrite a) s =
      (if s.cur.strand = .c ∧ shapeLegal v = true then .next ((s.modCore s.cur fun k => { k with shape := v }).retire st)
       else bad (.shapeWrite a)) ∧
    (∀ g : GReg, exec (.ringRegisterWrite a g) s =
      (if s.cur.strand ≠ .c ∧ ringEsz v < 10 ∧ ringLogn v < 13 ∧ bitsAt v 22 2 = 0
       then .next ((s.setRing s.cur.vr s.cur.core g.toNat v).retire st) else bad (.ringRegisterWrite a g))) ∧
    (∀ n : BitVec 4, exec (.walWrite a n) s =
      (if v.toNat < 2 ^ 32 then
        .next ((s.modRank s.cur.vr fun k => { k with walLimit := k.walLimit.setIfInBounds n.toNat (limit n) }).retire st)
       else bad (.walWrite a n)))

/-- RDCTL of every register of the table (R194, R66, R45). RDCTL completes with the register in rd for every index of the
control table: the cycle of the gang, PHASENO, VRID, CORENO, the gang, its member, STRANDID, STATUS, FPFLAGS, SHAPE,
the loop registers, TVEC, TLEVEL and both trap banks, STEPNO, the bubble counters, the window allowances, and the ring
registers to L and S; a ring register named by C and an index out of the table raise ILLOP. -/
def Obligations.ControlRegisterReads : Prop :=
  ∀ (s : State) (st : Strand) (d : XReg) (r : Rank) (g : Gang) (k : Core), s.strand? s.cur = some st →
    s.rank? s.cur.vr = some r → s.gang? s.cur.vr s.cur.gang = some g → s.core? s.cur = some k →
    (∀ (c : BitVec 12) (v : Word), (c.toNat, v) ∈ ([
        (0x000, g.cycle), (0x001, r.phaseno), (0x002, BitVec.ofNat 64 s.cur.vr), (0x003, BitVec.ofNat 64 s.cur.core),
        (0x004, BitVec.ofNat 64 s.cur.gang), (0x005, BitVec.ofNat 64 k.member),
        (0x006, match s.cur.strand with | .l => 0 | .c => 1 | .s => 2),
        (0x008, BitVec.ofNat 64 ((if st.dzt then 1 else 0) + (if st.sup then 4 else 0) + (if st.lp0.active then 64 else 0)
          + (if st.lp1.active then 128 else 0))),
        (0x009, st.fpflags.setWidth 64), (0x00A, k.shape),
        (0x010, st.lp0.lps), (0x011, st.lp0.lpe), (0x012, st.lp0.lpc), (0x013, st.lp1.lps), (0x014, st.lp1.lpe), (0x015, st.lp1.lpc),
        (0x020, st.tvec), (0x021, BitVec.ofNat 64 st.tlevel),
        (0x022, st.bank1.tpc), (0x023, st.bank1.tcause), (0x024, st.bank1.tval), (0x025, st.bank1.tstat),
        (0x026, st.bank2.tpc), (0x027, st.bank2.tcause), (0x028, st.bank2.tval), (0x029, st.bank2.tstat),
        (0x040, r.stepno), (0x050, r.sched.bubin), (0x051, r.sched.bubdn), (0x052, r.sched.bubst),
        (0x053, BitVec.ofNat 64 (r.sched.pos + r.sched.st.code * 65536)), (0x060, r.engways)] : List (Nat × Word)) →
      exec (.rdctl d c) s = .next (s.retire (st.wx d v))) ∧
    (∀ n : Nat, n < 16 → exec (.rdctl d (BitVec.ofNat 12 (0x030 + n))) s =
      .next (s.retire (st.wx d ((r.walLimit[n]?.getD 0).setWidth 64 ||| (r.walOut[n]?.getD 0).setWidth 64 <<< 16)))) ∧
    (∀ n : Nat, n < 16 → exec (.rdctl d (BitVec.ofNat 12 (0x070 + n))) s =
      .next (if s.cur.strand = .c then s.trap st 1 (s.wordVal (.rdctl d (BitVec.ofNat 12 (0x070 + n))))
        else s.retire (st.wx d (s.ring s.cur.vr s.cur.core n)))) ∧
    (∀ c : BitVec 12, c.toNat ∉ [0x000, 0x001, 0x002, 0x003, 0x004, 0x005, 0x006, 0x008, 0x009, 0x00A, 0x010, 0x011, 0x012, 0x013,
        0x014, 0x015, 0x020, 0x021, 0x022, 0x023, 0x024, 0x025, 0x026, 0x027, 0x028, 0x029, 0x040, 0x050, 0x051, 0x052, 0x053, 0x060] →
      ¬ (0x030 ≤ c.toNat ∧ c.toNat < 0x040) → ¬ (0x070 ≤ c.toNat ∧ c.toNat < 0x080) →
      exec (.rdctl d c) s = .next (s.trap st 1 (s.wordVal (.rdctl d c))))

/-- TRAP enters a handler, TRET returns from it (R301, R305, R193). With a vector base set and below trap level 2, TRAP
saves the next instruction as TPC, SWTRAP (cause 0xE) as TCAUSE, its code as TVAL and TSTAT in the bank of the new
level, raises the level, and goes to TVEC + 64 times the cause; nothing else of the strand or of the machine changes.
A synchronous trap of an instruction enters in the same way with its own address as TPC. At trap level 2, or without a
vector base, the gang ends. TRET at level n goes to TPC of bank n and lowers the level; at level 0 it raises ILLOP. -/
def Obligations.TrapEntryAndReturn : Prop :=
  ∀ (s : State) (st : Strand), s.strand? s.cur = some st →
    let enter := fun (cause : Nat) (val ret : Word) (detail : Nat) =>
      let b : TrapBank := { tpc := ret, tcause := BitVec.ofNat 64 cause, tval := val,
                            tstat := BitVec.ofNat 64 (detail * 256 + (if st.chain.isSome then 32 else 0)) }
      ({ s with trapped := true } : State).modStrand s.cur fun q =>
        { q with bank1 := (if q.tlevel = 0 then b else q.bank1), bank2 := (if q.tlevel = 0 then q.bank2 else b),
                 tlevel := q.tlevel + 1, pc := q.tvec + BitVec.ofNat 64 (64 * cause), wait := none, waited := 0, waitiLeft := 0,
                 ext := none }
    (st.tlevel ≠ 2 → st.tvec ≠ 0 →
      (∀ n : BitVec 12, exec (.trap n) s = .next (enter 0xE (BitVec.ofNat 64 n.toNat) (st.pc + 4) 0)) ∧
      (∀ (cause : Nat) (val : Word) (detail : Nat), s.trap st cause val detail = enter cause val st.pc detail)) ∧
    (st.tlevel = 2 ∨ st.tvec = 0 → ∀ n : BitVec 12, ∃ t, exec (.trap n) s = .next t ∧ t.gang? s.cur.vr s.cur.gang = none) ∧
    (st.tlevel = 0 → exec .tret s = .next (s.trap st 1 (s.wordVal .tret))) ∧
    (st.tlevel = 1 → exec .tret s = .next (s.modStrand s.cur fun _ =>
      { st with pc := st.bank1.tpc, tlevel := 0, waited := 0, waitiLeft := 0, wait := none })) ∧
    (st.tlevel = 2 → exec .tret s = .next (s.modStrand s.cur fun _ =>
      { st with pc := st.bank2.tpc, tlevel := 1, waited := 0, waitiLeft := 0, wait := none }))

/-- EXIT ends the strand (R193, R247, R58). EXIT marks the strand ended, discards its open chain, clears its wait, and
leaves none of its streams running; EXIT of L also closes every queue of the core, that of C or S leaves their entries
to the streams. Where no stream was bound, nothing else of the strand and nothing of memory changes. -/
def Obligations.ExitEndsStrand : Prop :=
  ∀ (s : State) (st : Strand) (k : Core), s.strand? s.cur = some st → s.core? s.cur = some k →
    ∃ t k' st', exec .exit s = .next t ∧ t.core? s.cur = some k' ∧ t.strand? s.cur = some st' ∧
      st'.ended = true ∧ st'.chain = none ∧ st'.wait = none ∧ st'.x = st.x ∧ st'.p = st.p ∧ st'.pc = st.pc ∧
      ((s.slotOf s.cur.vr).isSome = true → ∀ z, z < 16 → (s.cur.strand = .l ∧ z < 8) ∨ (s.cur.strand = .s ∧ 8 ≤ z) → (k'.stream z).st ≠ .running) ∧
      (∀ n, s.slotOf s.cur.vr = some n → (∀ z, z < 16 → (k.stream z).st = .unbound) → st.asyncs = [] → s.SameMemory t ∧
        st' = { st with ended := true, chain := none, wait := none, waited := 0, waitiLeft := 0 }) ∧
      (s.cur.strand = .l → (∀ q ∈ k'.tq.toList, q.closed = true) ∧ ∀ q ∈ k'.sq.toList, q.closed = true) ∧
      (s.cur.strand = .c → k'.tq = k.tq ∧ k'.sq = k.sq)

/-- SLD and SST in scratch space and through windows, and their violations (R175, R97, R98, R99, R104, R105, R131). At an
aligned address in the own scratchpad, by either alias, SLD completes with bytes of the operand length zero-extended
in rd and SST with bytes written there at once: the little-endian bytes held, and the low bytes of rd, when no engine
command of the core is outstanding (else those that a command writes are open). In the scratchpad of another core of
the gang SST completes with its bytes among the buffered stores of the phase and SLD with the phase-start bytes under
the own writes. Through a window whose entry is valid and reaches the core, SLD puts a load in flight and holds for
it, SST counts OUT up and posts its bytes when OUT is below LIMIT, else it waits. An address of 2^32 or more, and a
byte that no row of the map gives the strand, raise SCRADDR (cause 0xB); a misaligned one raises ALIGN (0xA). -/
def Obligations.ScratchAccessCompletes : Prop :=
  ∀ (s : State) (st : Strand) (d a : XReg) (sz : BitVec 2) (o : BitVec 14) (slot : Nat), s.strand? s.cur = some st →
    s.slotOf s.cur.vr = some slot → s.cur.core < 256 →
    let n : Nat := 2 ^ sz.toNat
    let addr := st.rx a + BitVec.ofInt 64 (o.toInt * n)
    let at' := addr.toNat
    let val := fun (bs : List Byte) => BitVec.ofNat 64 (leNat bs)
    let same := fun (t : State) => t = ({ s with free := t.free } : State)
    (∀ off, at' = off ∨ at' = 0x1000000 + s.cur.core * 0x80000 + off → off + n ≤ 0x80000 → at' % n = 0 →
      let place := s.cur.core * 0x80000 + off
      (∃ (t : State) (bs : List Byte), exec (.sld d a sz o) s = .next (t.retire (st.wx d (val bs))) ∧ bs.length = n ∧ same t ∧
        (s.NoCmds s.cur → bs = memBytes (s.slot slot).pads place n)) ∧
      (∃ (t : State) (bs : List Byte), exec (.sst d a sz o) s =
          .next ((t.modSlot slot fun k => { k with pads := memPut k.pads place bs }).retire st) ∧ bs.length = n ∧
        t.ranks = s.ranks ∧ t.slots = s.slots ∧ t.mem = s.mem ∧
        (s.NoCmds s.cur → bs = leBytes n (st.rx d).toNat ∧ same t))) ∧
    (∀ c off, at' = 0x1000000 + c * 0x80000 + off → off + n ≤ 0x80000 → c < 256 → c ≠ s.cur.core → c ∈ s.gangCores s.cur →
      at' % n = 0 →
      (∃ (t : State) (bs : List Byte), exec (.sst d a sz o) s = .next ((t.bufferStore s.cur.vr
          { core := s.cur.core, strand := s.cur.strand, gang := s.cur.gang, dst := .scratch (c * 0x80000 + off),
            bytes := bs, va := addr }).retire st) ∧ bs.length = n ∧
        t.ranks = s.ranks ∧ t.slots = s.slots ∧ t.mem = s.mem ∧
        (s.NoCmds s.cur → bs = leBytes n (st.rx d).toNat ∧ same t)) ∧
      (∃ (t : State) (bs : List Byte), exec (.sld d a sz o) s = .next (t.retire (st.wx d (val bs))) ∧ bs.length = n ∧ same t ∧
        (s.NoCmds s.cur → bs = s.viewBytes s.cur.vr s.cur.core slot (.scratch (c * 0x80000 + off)) n))) ∧
    (∀ (w off : Nat) (r : Rank), at' = 0x40000000 + w * 0x4000000 + off → w < 16 → off + n ≤ 0x4000000 → at' % n = 0 →
      s.rank? s.cur.vr = some r →
      let e := r.wtbl[w]?.getD 0
      let out := r.walOut[w]?.getD 0
      let goal := AccTo.window w (bitsAt e 32 24) (bitsAt e 24 8 + off / 0x80000) (off % 0x80000)
      e.getLsbD 63 = true → off / 0x80000 ≤ bitsAt e 16 8 →
      exec (.sld d a sz o) s = .next (s.inFlight st (.load d n) goal addr true false) ∧
      exec (.sst d a sz o) s = .next (if out < r.walLimit[w]?.getD 0 then
          (s.modRank s.cur.vr fun q => { q with walOut := q.walOut.setIfInBounds w (out + 1) }).inFlight st
            (.store (leBytes n (st.rx d).toNat)) goal addr false false
        else s.modStrand s.cur fun q => { q with wait := some (.allowance w) })) ∧
    (2 ^ 32 ≤ at' ∨ 0x80000000 ≤ at' ∨ 0x80000 ≤ at' ∧ at' < 0x1000000 →
      exec (.sld d a sz o) s = .next (s.trap st 0xB addr) ∧ exec (.sst d a sz o) s = .next (s.trap st 0xB addr)) ∧
    (at' + n ≤ 0x80000 → at' % n ≠ 0 →
      exec (.sld d a sz o) s = .next (s.trap st 0xA addr) ∧ exec (.sst d a sz o) s = .next (s.trap st 0xA addr))

/-- LD, ST, ATOM, ACAS, FXADD and FXRD that pass their checks (R176, R177, R178, R179, R180, R107, R162). Through an owned
handle that is valid, grants the permission, with the operand inside the page and aligned: ST completes with its bytes
among the buffered stores of the phase, at the place its aperture names (the low bytes of rd, when no engine command
of the core is outstanding); LD, ATOM, ACAS, FXADD and FXRD each put one access in flight at the place that the
aperture names, the handle plus the operand, and the strand holds for it when it returns a value, else it completes:
LD and ATOM with rd = x0 and FXADD do not hold, ACAS and FXRD always do. No byte of memory changes at issue. -/
def Obligations.HandleAccessesIssue : Prop :=
  ∀ (s : State) (st : Strand) (k : Core) (h : HReg) (x : XReg), s.strand? s.cur = some st → s.core? s.cur = some k →
    ownsHalf s.cur.strand h.toNat = true → st.handlePending h.toNat = false →
    let hd := k.handle h.toNat
    let ok := fun (bit : Nat) (po n : Nat) => hd.valid = true ∧ bitAt hd.perm bit = true ∧ po + n ≤ pageSize hd.large ∧ po % n = 0
    let goal := fun (po : Word) => if hd.aper = 3 then AccTo.host (hd.frame + po.toNat)
      else if hd.aper = 2 then AccTo.peer hd.peer.toNat (hd.frame + po.toNat) else AccTo.phys (hd.frame + po.toNat)
    let dest := fun (po : Word) => if hd.aper = 3 then StoreTo.host (hd.frame + po.toNat)
      else if hd.aper = 2 then StoreTo.peer hd.peer.toNat (hd.frame + po.toNat) else StoreTo.phys (hd.frame + po.toNat)
    let acc := fun (op : AccOp) (po : Word) (holds : Bool) =>
      s.inFlight st op (goal po) (BitVec.ofNat 64 hd.va + po) holds true
    (∀ (d : XReg) (sz : BitVec 2) (o : BitVec 10), let n := 2 ^ sz.toNat
      let po : Word := st.rx x + BitVec.ofNat 64 (o.toNat * n)
      (ok 2 po.toNat n → ∃ (t : State) (bs : List Byte), exec (.st d h x sz o) s = .next ((t.bufferStore s.cur.vr
          { core := s.cur.core, strand := s.cur.strand, gang := s.cur.gang, dst := dest po, bytes := bs,
            va := BitVec.ofNat 64 hd.va + po }).retire st) ∧ bs.length = n ∧
        t.ranks = s.ranks ∧ t.slots = s.slots ∧ t.mem = s.mem ∧
        (s.NoCmds s.cur → bs = leBytes n (st.rx d).toNat ∧ t = ({ s with free := t.free } : State))) ∧
      (ok 3 po.toNat n → exec (.ld d h x sz o) s = .next (acc (.load d n) po (d != 0)))) ∧
    (∀ (d v : XReg) (op : AtomOp) (w : Bool), ok 1 (st.rx x).toNat (if w then 8 else 4) →
      exec (.atom d h x v op w) s = .next (acc (.atom op d (if w then 8 else 4) (st.rx v)) (st.rx x) (d != 0)) ∧
      exec (.acas d h x v w) s = .next (acc (.acas d (if w then 8 else 4) (st.rx d) (st.rx v)) (st.rx x) true)) ∧
    (∀ (v : XReg) (g : BitVec 9),
      (ok 1 (st.rx x).toNat 16 →
        exec (.fxadd v h x g) s = .next (acc (.fxadd g ((st.rx v).setWidth 32)) (st.rx x) false)) ∧
      (ok 3 (st.rx x).toNat 16 → exec (.fxrd v h x g) s = .next (acc (.fxrd v g) (st.rx x) true)))

/-- The checks of a handle access, in order (R176, R45, R182). LD and ST through a handle the strand does not own raise
ILLOP; through an owned handle into which an XLATE is outstanding the strand waits. Otherwise the first failing check
decides: an invalid handle STALEH (cause 9) with the handle index and page address; a permission not granted XPERM (8,
detail 1 for R and 2 for W); an access that leaves the page XFAULT (7, detail 1); a misaligned one ALIGN (0xA); the
last three with the virtual address as TVAL. -/
def Obligations.HandleCheckOrder : Prop :=
  ∀ (s : State) (st : Strand) (k : Core) (d : XReg) (h : HReg) (x : XReg) (sz : BitVec 2) (o : BitVec 10),
    s.strand? s.cur = some st → s.core? s.cur = some k →
    let hd := k.handle h.toNat
    let n := 2 ^ sz.toNat
    let po : Word := st.rx x + BitVec.ofNat 64 (o.toNat * n)
    let va : Word := BitVec.ofNat 64 hd.va + po
    ∀ (i : Instr) (bit detail : Nat),
    (i = .ld d h x sz o ∧ bit = 3 ∧ detail = 1) ∨ (i = .st d h x sz o ∧ bit = 2 ∧ detail = 2) →
    (ownsHalf s.cur.strand h.toNat = false → exec i s = .next (s.trap st 1 (s.wordVal i))) ∧
    (ownsHalf s.cur.strand h.toNat = true → st.handlePending h.toNat = true →
      exec i s = .next (s.modStrand s.cur fun st => { st with wait := some (.handle h.toNat) })) ∧
    (ownsHalf s.cur.strand h.toNat = true → st.handlePending h.toNat = false →
      (hd.valid = false → exec i s = .next (s.trap st 9 (BitVec.ofNat 64 (h.toNat * 2 ^ 48 + hd.va % 2 ^ 48)))) ∧
      (hd.valid = true → bitAt hd.perm bit = false → exec i s = .next (s.trap st 8 va detail)) ∧
      (hd.valid = true → bitAt hd.perm bit = true → pageSize hd.large < po.toNat + n → exec i s = .next (s.trap st 7 va 1)) ∧
      (hd.valid = true → bitAt hd.perm bit = true → po.toNat + n ≤ pageSize hd.large → po.toNat % n ≠ 0 →
        exec i s = .next (s.trap st 0xA va)))

/-- An access in flight performs at its home (R162, R114, R115, R116, R125, R177, R178, R179, R180).
MEMORY_ACCESS_COMPLETE of an access to physical memory, no earlier atomic of its core standing before it on the same
bytes and no L2 being written back (while one is, it waits): a load ends with bytes of its length, which are those
committed there under the own writes of its core when no engine command of the core is outstanding; FXRD ends with the
conversion of the committed cell; ATOM puts the operation of the old home value and the operand into the home bytes,
little-endian and at the size of the access, and returns the old value; ACAS puts the new value where the old one
equals the expected one, else the bytes as they were; FXADD adds to the 16-byte cell. An atomic that a standing one
precedes leaves the state as it is (log entry 4). For a strand whose gang is not in a frame, memory itself is
unchanged (plain loads see atomics after a boundary). A load or FXRD of host memory ends in the same way with the
bytes there. A number that names no access does nothing; accesses of other packages and windows have their own
statement. -/
def Obligations.AccessPerforms : Prop :=
  ∀ (s : State) (id : Nat),
    (s.access? id = none → exec (.memoryAccessComplete id) s = .next s) ∧
    ∀ (r : Rank) (a : Access), s.access? id = some (r, a) →
    (r.behind a = true → exec (.memoryAccessComplete id) s = .next s) ∧
    (∀ p, a.dst = .phys p → s.flushing = true → exec (.memoryAccessComplete id) s = .next s) ∧
    (∀ p, a.dst = .host p → r.behind a = false →
      (∀ (d : XReg) (n : Nat), a.op = .load d n → ∃ (t : State) (bs : List Byte),
        exec (.memoryAccessComplete id) s = .next (t.endAccess a (BitVec.ofNat 64 (leNat bs))) ∧ bs.length = n ∧
        t = ({ s with free := t.free } : State) ∧
        (s.NoCmds a.by' → bs = r.overlay a.by'.core (.host p) ((List.range n).map fun i => memRead s.hostMem (p + i)))) ∧
      ∀ (d : XReg) (g : BitVec 9), a.op = .fxrd d g →
        exec (.memoryAccessComplete id) s = .next (s.endAccess a ((fxReadCell (BitVec.ofNat 128
          (leNat ((List.range 16).map fun i => memRead s.hostMem (p + i)))) g.toInt).setWidth 64))) ∧
    (∀ p, a.dst = .phys p → s.flushing = false → r.behind a = false →
    let old := fun (n : Nat) => (BitVec.ofNat 64 (leNat (s.homeBytes p n)) : Word)
    (∀ (d : XReg) (n : Nat), a.op = .load d n → ∃ (t : State) (bs : List Byte),
      exec (.memoryAccessComplete id) s = .next (t.endAccess a (BitVec.ofNat 64 (leNat bs))) ∧ bs.length = n ∧
      t = ({ s with free := t.free } : State) ∧
      (s.NoCmds a.by' → bs = r.overlay a.by'.core (.phys p) ((List.range n).map fun i => physRead s.mem (p + i)))) ∧
    (∀ (d : XReg) (g : BitVec 9), a.op = .fxrd d g →
      exec (.memoryAccessComplete id) s = .next (s.endAccess a ((fxReadCell (BitVec.ofNat 128
        (leNat ((List.range 16).map fun i => physRead s.mem (p + i)))) g.toInt).setWidth 64))) ∧
    (∀ (o : AtomOp) (d : XReg) (v : Word), a.op = .atom o d 8 v →
      exec (.memoryAccessComplete id) s =
        .next ((s.homePut r.vr p false (leBytes 8 (atomApply o (old 8) v).toNat)).endAccess a (old 8))) ∧
    (∀ (o : AtomOp) (d : XReg) (v : Word), a.op = .atom o d 4 v →
      exec (.memoryAccessComplete id) s = .next ((s.homePut r.vr p false
        (leBytes 4 ((atomApply o ((old 4).setWidth 32) (v.setWidth 32)).setWidth 64 : Word).toNat)).endAccess a (old 4))) ∧
    (∀ (d : XReg) (n : Nat) (e v : Word), a.op = .acas d n e v →
      exec (.memoryAccessComplete id) s = .next ((s.homePut r.vr p false
        (if old n = BitVec.ofNat 64 (leNat (leBytes n e.toNat)) then leBytes n v.toNat else s.homeBytes p n)).endAccess a (old n))) ∧
    (∀ (g : BitVec 9) (v : BitVec 32), a.op = .fxadd g v →
      exec (.memoryAccessComplete id) s = .next ((s.homePut r.vr p true (leBytes 16
        (fxAddCell (BitVec.ofNat 128 (leNat (s.homeBytes p 16))) g.toInt v).toNat)).endAccess a 0)) ∧
    (s.NotSaved a.by' → ∀ t, exec (.memoryAccessComplete id) s = .next t → s.SameMemory t))

/-- XLATE, its delivery, HREL, HCHK and HMOV (R181, R182, R183, R320, R322, R326). With an owned handle register and no
XLATE into it outstanding: XLATE of an address below 2^48 whose walk ends in a leaf granting every requested
permission marks A (and D for W or A) in that leaf and completes, the handle outstanding for 6 cycles; XLATE_DELIVER
with no cycle left and an unchanged generation puts exactly that handle into the register, and with a changed
generation walks again and delivers the new handle, traps, or pages; an address of 2^48 or more raises XFAULT (detail
4), a missing permission XPERM, an absent or illegal entry XFAULT, an absent page that the supervisor may bring halts
the gang. HREL clears the valid bit, HCHK writes it to a predicate, HMOV copies a whole handle. A register of the
other half raises ILLOP, one with an XLATE outstanding is waited for. A delivery that is not due does nothing. -/
def Obligations.HandlesAndTranslation : Prop :=
  ∀ s : State,
    (∀ (st : Strand) (k : Core) (h : HReg), s.strand? s.cur = some st → s.core? s.cur = some k →
    (∀ i : Instr, i = .hrel h ∨ (∃ a p, i = .xlate h a p) ∨ (∃ p, i = .hchk h p) ∨ (∃ hs, i = .hmov h hs) →
      (ownsHalf s.cur.strand h.toNat = false → exec i s = .next (s.trap st 1 (s.wordVal i))) ∧
      (ownsHalf s.cur.strand h.toNat = true → st.handlePending h.toNat = true →
        exec i s = .next (s.modStrand s.cur fun (q : Strand) => { q with wait := some (.handle h.toNat) }))) ∧
    (ownsHalf s.cur.strand h.toNat = true → st.handlePending h.toNat = false →
    (∀ (a : XReg) (p : BitVec 4), (st.rx a).toNat < 2 ^ 48 →
      let w := s.walkFor s.cur.vr st.sup (st.rx a).toNat
      (w = .absent true ∨ w = .badFrame → exec (.xlate h a p) s = .next (s.trap st 7 (st.rx a) 2)) ∧
      (w = .badClass → exec (.xlate h a p) s = .next (s.trap st 7 (st.rx a) 3)) ∧
      (w = .absent false → exec (.xlate h a p) s = .next ((s.pageGang s.cur (st.rx a).toNat 2 st.pc).modStrand s.cur
        fun (q : Strand) => { q with wait := some (.paging (st.rx a) (s.genOf s.cur.vr st.sup)) }))) ∧
    (∀ (a : XReg) (p : BitVec 4) (e : BitVec 128) (at' : Nat) (large : Bool), (st.rx a).toNat < 2 ^ 48 →
      s.walkFor s.cur.vr st.sup (st.rx a).toNat = .leaf e at' large → 
      (xlateDenied e p = none → exec (.xlate h a p) s =
        .next ((s.markLeaf at' (permW p || permA p)).retire { st with xlates := st.xlates ++
          [{ pc := st.pc, h := h.toNat, va := st.rx a, perm := p, left := 6, gen := s.genOf s.cur.vr st.sup,
             handle := { valid := true, perm := p, aper := leafAper e, peer := leafPeer e, frame := leafFrame e large,
                         va := (st.rx a).toNat / pageSize large * pageSize large, large := large, emask := leafEmask e,
                         gen := s.genOf s.cur.vr st.sup, sup := st.sup } }] })) ∧
      (∀ dt, xlateDenied e p = some dt → exec (.xlate h a p) s = .next (s.trap st 8 (st.rx a) dt))) ∧
    (∀ (a : XReg) (p : BitVec 4), 2 ^ 48 ≤ (st.rx a).toNat → exec (.xlate h a p) s = .next (s.trap st 7 (st.rx a) 4)) ∧
    exec (.hrel h) s = .next ((s.modCore s.cur fun k' => k'.setHandle h.toNat { k.handle h.toNat with valid := false }).retire st) ∧
    (∀ p : PReg, exec (.hchk h p) s = .next (s.retire (st.putPred p (if (k.handle h.toNat).valid then 1 else 0)))) ∧
    (∀ hs : HReg, ownsHalf s.cur.strand hs.toNat = true → st.handlePending hs.toNat = false →
      exec (.hmov h hs) s = .next ((s.modCore s.cur fun k' => k'.setHandle h.toNat (k.handle hs.toNat)).retire st)) ∧
    (∀ hs : HReg, (ownsHalf s.cur.strand hs.toNat = false → exec (.hmov h hs) s = .next (s.trap st 1 (s.wordVal (.hmov h hs)))) ∧
      (ownsHalf s.cur.strand hs.toNat = true → st.handlePending hs.toNat = true →
        exec (.hmov h hs) s = .next (s.modStrand s.cur fun (q : Strand) => { q with wait := some (.handle hs.toNat) }))))) ∧
    (∀ (r : SRef) (n : Nat),
      (s.strand? r = none → exec (.xlateDeliver r n) s = .next s) ∧
      ∀ sr : Strand, s.strand? r = some sr →
      (sr.xlates.find? (fun y => y.h == n) = none → exec (.xlateDeliver r n) s = .next s) ∧
      ∀ x : XlateWork, sr.xlates.find? (fun y => y.h == n) = some x →
      let gone := s.modStrand r fun (q : Strand) => { q with xlates := q.xlates.filter fun y => y.h != n }
      let gen := s.genOf r.vr sr.sup
      let w := s.walkFor r.vr sr.sup x.va.toNat
      (x.left ≠ 0 ∨ (gen = x.gen ∧ x.handle.valid = false) → exec (.xlateDeliver r n) s = .next s) ∧
      (x.left = 0 → gen = x.gen → x.handle.valid = true →
        exec (.xlateDeliver r n) s = .next (gone.modCore r fun k' => k'.setHandle n x.handle)) ∧
      (x.left = 0 → gen ≠ x.gen →
        (∀ e at' large, w = .leaf e at' large →
          (xlateDenied e x.perm = none → exec (.xlateDeliver r n) s = .next ((gone.markLeaf at' (permW x.perm || permA x.perm)).modCore r
            fun k' => k'.setHandle n
              { valid := true, perm := x.perm, aper := leafAper e, peer := leafPeer e, frame := leafFrame e large,
                va := x.va.toNat / pageSize large * pageSize large, large := large, emask := leafEmask e, gen := gen, sup := sr.sup })) ∧
          (∀ dt, xlateDenied e x.perm = some dt → exec (.xlateDeliver r n) s = .next (gone.trapEntry r 8 x.va dt 0 0 x.pc))) ∧
        (w = .absent true ∨ w = .badFrame → exec (.xlateDeliver r n) s = .next (gone.trapEntry r 7 x.va 2 0 0 x.pc)) ∧
        (w = .badClass → exec (.xlateDeliver r n) s = .next (gone.trapEntry r 7 x.va 3 0 0 x.pc)) ∧
        (w = .absent false → exec (.xlateDeliver r n) s = .next ((s.pageGang r x.va.toNat 2 x.pc).modStrand r fun (q : Strand) =>
          { q with
            xlates := q.xlates.map fun (y : XlateWork) => if y.h = n then { y with gen := gen, handle := {} } else y
            wait := if q.wait = none then some (.paging x.va gen) else q.wait }))))

/-- QPUSH, QPOP, QPEEK and QCLOSE on queues (R184, R185, R57, R58). On its queues (q12 and q13 for L, q14 and q15 for S):
QPUSH to a queue with room that is open appends the register at the tail and completes; to a full one the strand
waits; to a closed one with room it raises QCLOSED. QPOP of a queue whose head entry has landed (and that no gather
reads) completes with the head in rd and takes it, QPEEK leaves it; an empty queue makes the strand wait until it is
closed and C has ended, then QCLOSED is raised. QCLOSE by L closes q12, q13, or a load queue q0 to q7 with no stream
bound to it. -/
def Obligations.ScalarQueueOperations : Prop :=
  ∀ (s : State) (st : Strand) (k : Core) (i : BitVec 4), s.strand? s.cur = some st → s.core? s.cur = some k →
    let n := i.toNat
    let q := k.squeue n
    let full := BitVec.ofNat 64 (n * 2 ^ 32 + (q.head + BitVec.ofNat 16 q.ents.length).toNat * 2 ^ 16 + q.head.toNat)
    let wait := s.modStrand s.cur fun st => { st with wait := some (.queue n) }
    (∀ d : XReg, s.cur.strand = .l → (n = 12 ∨ n = 13) → exec (.qpush d false i) s = .next (
      if 16 ≤ q.ents.length then wait
      else if q.closed then s.trap st 6 full
      else (s.modCore s.cur fun k => { k.setSqueue n { q with ents := q.ents ++ [{ id := k.nextId, landed := true, data := st.rx d }] } with
        nextId := k.nextId + 1 }).retire st)) ∧
    (s.cur.strand = .s → (n = 14 ∨ n = 15) → k.indexBound n = false → ∀ d : XReg,
      (∀ e rest, q.ents = e :: rest → e.landed = true →
        exec (.qpop d false i) s = .next ((s.modCore s.cur fun k => k.setSqueue n
          { head := q.head + 1, closed := q.closed, ents := rest }).retire (st.wx d e.data)) ∧
        exec (.qpeek d false i) s = .next (s.retire (st.wx d e.data))) ∧
      (q.ents = [] → (q.closed && k.c.ended) = true →
        exec (.qpop d false i) s = .next (s.trap st 6 full) ∧ exec (.qpeek d false i) s = .next (s.trap st 6 full)) ∧
      (q.ents = [] → (q.closed && k.c.ended) = false →
        exec (.qpop d false i) s = .next wait ∧ exec (.qpeek d false i) s = .next wait)) ∧
    (s.cur.strand = .l → (n = 12 ∨ n = 13) →
      exec (.qclose i) s = .next ((s.modCore s.cur fun k => k.setSqueue n { k.squeue n with closed := true }).retire st)) ∧
    (s.cur.strand = .l → n < 8 → k.tileBound n = false →
      exec (.qclose i) s = .next ((s.modCore s.cur fun k => k.setTqueue n { k.tqueue n with closed := true }).retire st)) ∧
    (∀ d : XReg, (s.cur.strand ≠ .l ∨ (n ≠ 12 ∧ n ≠ 13)) →
      exec (.qpush d false i) s = .next (s.trap st 1 (s.wordVal (.qpush d false i)))) ∧
    (∀ d : XReg, (s.cur.strand ≠ .s ∨ (n ≠ 14 ∧ n ≠ 15)) →
      exec (.qpop d false i) s = .next (s.trap st 1 (s.wordVal (.qpop d false i))) ∧
      exec (.qpeek d false i) s = .next (s.trap st 1 (s.wordVal (.qpeek d false i))))

/-- QPUSH, QPOP and QPEEK on rings (R186, R59). On a ring register that is configured and whose area lies in one
scratchpad the gang may name: QPUSH with room writes the 8 bytes of the register at the entry of TAIL at once and
advances TAIL by one modulo 2^16; a full ring makes the strand wait. QPOP of a ring that is not empty completes with
the 8 bytes at the entry of HEAD and advances HEAD, QPEEK leaves it; an empty ring makes the strand wait. LOGN 0
raises ILLOP. -/
def Obligations.RingOperations : Prop :=
  ∀ (s : State) (st : Strand) (d : XReg) (i : BitVec 4), s.strand? s.cur = some st →
    let n := i.toNat
    let w := s.ring s.cur.vr s.cur.core n
    let wait := fun (room : Bool) => s.modStrand s.cur fun st => { st with wait := some (.ring n room) }
    (ringLogn w = 0 → ∀ i' ∈ [Instr.qpush d true i, Instr.qpop d true i, Instr.qpeek d true i],
      exec i' s = .next (s.trap st 1 (s.wordVal i'))) ∧
    (ringLogn w ≠ 0 → (ringTail w - ringHead w).toNat = 2 ^ ringLogn w → exec (.qpush d true i) s = .next (wait true)) ∧
    (ringLogn w ≠ 0 → ringTail w = ringHead w →
      exec (.qpop d true i) s = .next (wait false) ∧ exec (.qpeek d true i) s = .next (wait false)) ∧
    (ringLogn w ≠ 0 → ringAreaOk s.cur.core (s.gangCores s.cur) w = true →
      ((ringTail w - ringHead w).toNat ≠ 2 ^ ringLogn w → exec (.qpush d true i) s =
        .next (((s.ringWrite s.cur.vr s.cur.core (ringBase w + (ringTail w).toNat % 2 ^ ringLogn w * 2 ^ (ringEsz w + 3)) (st.rx d)).setRing
          s.cur.vr s.cur.core n (putBits w 48 16 (ringTail w + 1).toNat)).retire st)) ∧
      (ringTail w ≠ ringHead w →
        let v := s.ringRead s.cur.vr s.cur.core (ringBase w + (ringHead w).toNat % 2 ^ ringLogn w * 2 ^ (ringEsz w + 3))
        exec (.qpop d true i) s =
          .next ((s.setRing s.cur.vr s.cur.core n (putBits w 32 16 (ringHead w + 1).toNat)).retire (st.wx d v)) ∧
        exec (.qpeek d true i) s = .next (s.retire (st.wx d v))))

/-- QWAIT.DATA, QWAIT.ROOM and QTIMEOUT (R187, R184, R304). QWAIT.ROOM by L on q12 or q13 and QWAIT.DATA by S on q14 or
q15 complete when there is room, or an entry, and move nothing; else the strand waits with its limit. On a configured
ring the same holds for both strands. QTIMEOUT, when the limit has been waited and the condition still does not hold,
raises QTIMEOUT (cause 5) at the instruction with the queue or ring, its tail and its head as TVAL; before that, or
once the condition holds, it does nothing. -/
def Obligations.QueueWaitsAndTimeout : Prop :=
  ∀ (s : State) (st : Strand) (k : Core) (i : BitVec 4) (l : BitVec 19), s.strand? s.cur = some st → s.core? s.cur = some k →
    let n := i.toNat
    let q := k.squeue n
    let w := s.ring s.cur.vr s.cur.core n
    let wait := fun (o : Wait) => s.modStrand s.cur fun st => { st with wait := some o, waitiLeft := l.toNat }
    (s.cur.strand = .l → (n = 12 ∨ n = 13) →
      (q.ents.length < 16 → exec (.qwaitRoom false i l) s = .next (s.retire st)) ∧
      (16 ≤ q.ents.length → q.closed = false → st.expired l.toNat = false →
        exec (.qwaitRoom false i l) s = .next (wait (.queue n)))) ∧
    (s.cur.strand = .s → (n = 14 ∨ n = 15) →
      (q.ents ≠ [] → exec (.qwaitData false i l) s = .next (s.retire st)) ∧
      (q.ents = [] → (q.closed && k.c.ended) = false → st.expired l.toNat = false →
        exec (.qwaitData false i l) s = .next (wait (.queue n)))) ∧
    (ringLogn w ≠ 0 →
      ((ringTail w - ringHead w).toNat ≠ 2 ^ ringLogn w → exec (.qwaitRoom true i l) s = .next (s.retire st)) ∧
      (ringTail w ≠ ringHead w → exec (.qwaitData true i l) s = .next (s.retire st)) ∧
      (ringTail w = ringHead w → st.expired l.toNat = false → exec (.qwaitData true i l) s = .next (wait (.ring n false)))) ∧
    (∀ (r : SRef) (sr : Strand) (kr : Core) (m : Nat), s.strand? r = some sr → s.core? r = some kr → sr.wait = some (.queue m) →
      (sr.waitiLeft ≠ 0 → sr.waitiLeft ≤ sr.waited → kr.queueReady r.strand m = false → exec (.qtimeout r) s =
        .next (s.trapEntry r 5 (BitVec.ofNat 64 (m * 2 ^ 32 +
          ((kr.squeue m).head + BitVec.ofNat 16 (kr.squeue m).ents.length).toNat * 2 ^ 16 + (kr.squeue m).head.toNat)) 0 0 0 sr.pc)) ∧
      ((sr.waitiLeft = 0 ∨ sr.waited < sr.waitiLeft ∨ kr.queueReady r.strand m = true) → exec (.qtimeout r) s = .next s)) ∧
    (∀ (r : SRef) (sr : Strand) (m : Nat) (room : Bool), s.strand? r = some sr → (s.core? r).isSome = true → sr.wait = some (.ring m room) →
      let w := s.ring r.vr r.core m
      let ready := ringLogn w = 0 ∨ (if room then (ringTail w - ringHead w).toNat ≠ 2 ^ ringLogn w else ringTail w ≠ ringHead w)
      (sr.waitiLeft ≠ 0 → sr.waitiLeft ≤ sr.waited → ¬ ready → exec (.qtimeout r) s = .next (s.trapEntry r 5
        (BitVec.ofNat 64 (2 ^ 40 + m * 2 ^ 32 + (ringTail w).toNat * 2 ^ 16 + (ringHead w).toNat)) 0 0 0 sr.pc)) ∧
      ((sr.waitiLeft = 0 ∨ sr.waited < sr.waitiLeft ∨ ready) → exec (.qtimeout r) s = .next s))

/-- SDESC, SSET, SBIND, SUNBIND and SSTAT (R243, R244, R245, R246, R247, R248). On an owned stream register: SDESC of one
that is neither running nor faulted, with an aligned address inside the own scratchpad, makes it bound to the
descriptor there; SSET of one that is not unbound writes one descriptor word at the port; SBIND reads the descriptor
and starts the stream where the checks of a binding pass; SUNBIND of a stream that has no entry in progress makes it
bound again, clears its fault record and completes; SSTAT writes address, entry count, queue and state to rd. A
register the strand does not own raises ILLOP. -/
def Obligations.StreamInstructions : Prop :=
  ∀ (s : State) (st : Strand) (k : Core) (z : ZReg) (slot : Nat), s.strand? s.cur = some st → s.core? s.cur = some k →
    s.slotOf s.cur.vr = some slot →
    let zr := k.stream z.toNat
    (ownsHalf s.cur.strand z.toNat = false → ∀ (x : XReg) (f q : BitVec 4),
      ∀ i ∈ [Instr.sdesc z x, Instr.sset z f x, Instr.sbind z q, Instr.sunbind z, Instr.sstat z x],
        exec i s = .next (s.trap st 1 (s.wordVal i))) ∧
    (ownsHalf s.cur.strand z.toNat = true →
      (∀ x : XReg, zr.st ≠ .running → zr.st ≠ .faulted → (st.rx x).toNat + 64 ≤ 0x80000 → (st.rx x).toNat % 64 = 0 →
        exec (.sdesc z x) s =
          .next ((s.modCore s.cur fun k => k.setStream z.toNat { zr with st := .bound, descAddr := (st.rx x).toNat }).retire st)) ∧
      (∀ (f : BitVec 4) (x : XReg), zr.st ≠ .unbound → exec (.sset z f x) s = .next ((s.modSlot slot fun sl =>
        { sl with pads := memPut sl.pads (s.cur.core * 0x80000 + (zr.descAddr + 4 * f.toNat)) (leBytes 4 (st.rx x).toNat) }).retire st)) ∧
      (∀ (q : BitVec 4) (k' : Core),
        k.bindStream z.toNat q.toNat (BitVec.ofNat 512 (leNat
          (memBytes (s.slot slot).pads (s.cur.core * 0x80000 + zr.descAddr) 64))) = .ok k' →
        exec (.sbind z q) s = .next ((s.modCore s.cur fun _ => k').retire st) ∧
          (k'.stream z.toNat).st = .running ∧ (k'.stream z.toNat).q = q.toNat ∧ (zr.st = .bound ∨ zr.st = .done) ∧
          (if 8 ≤ z.toNat then 8 ≤ q.toNat ∧ q.toNat < 12 else q.toNat < 8)) ∧
      (zr.st ≠ .unbound → zr.idxTaken = [] → ∃ t st' k', exec (.sunbind z) s = .next t ∧
        t.core? s.cur = some k' ∧ (k'.stream z.toNat).st = .bound ∧ t.strand? s.cur = some st' ∧ st'.x = st.x ∧ s.SameMemory t ∧
        (∀ a ∈ st'.asyncs, ¬ (a.src = 1 ∧ a.zidx = z.toNat))) ∧
      (∀ d : XReg, exec (.sstat z d) s = .next (s.retire (st.wx d (BitVec.ofNat 64 (zr.descAddr * 2 ^ 32 + zr.count.toNat * 2 ^ 16
        + zr.q * 2 ^ 8 + (match zr.st with | .unbound => 0 | .bound => 1 | .running => 2 | .done => 3 | .faulted => 4)))))))

/-- A stream unit delivers or drains one entry (R236, R237, R238, R239, R240, R241, R242, R246). For a stream of any kind
that runs in a gang on its cores, with its rows known (of an affine stream by its ordinal; of a gather by the indices
taken and those at the head of its index queue; of a ragged stream by its group in progress; of a scale side-stream
its values): when its load queue has room and every element and scale lies where the gang may read, LOAD_STREAM_ENTRY
appends one landed entry with the tag and the elements of the descriptor, takes the indices and advances the stream;
when its store queue holds a landed head of the right tag and every element may be written, STORE_STREAM_DRAIN writes
the elements and takes the head; an element outside those bounds faults the stream and moves no entry, and so does a
head of another tag. A gather of no entries, or with a closed, empty index queue, and a ragged stream past its groups
become done; a ragged stream between groups takes in its next group. A stream that does not run, or is of the other
unit, is left alone. -/
def Obligations.StreamUnitsMoveEntries : Prop :=
  ∀ (s : State) (r : SRef) (g : Gang) (k : Core) (slot z : Nat), s.gang? r.vr r.gang = some g → s.core? r = some k →
    s.slotOf r.vr = some slot → g.cond = .placed → z < 16 →
    let zr := k.stream z
    let d := zr.desc
    let kind := descKind d
    let cores := g.cores.map fun c => c.coreno
    let sz := fmtSize (descFmt d)
    let unit : Instr := if z < 8 then .loadStreamEntry r z else .storeStreamDrain r z
    let indices := fun (c : Core) => (c.sq[indexQueue d (8 ≤ zr.q)]?.getD { head := 0, closed := false, ents := [] })
    let done := (Host.Outcome.next (s.modCore r fun c => c.setStream z { c.stream z with st := .done }) : Host.Outcome State Fault Refusal)
    let faults := ∃ t k', exec unit s = .next t ∧ t.core? r = some k' ∧ (k'.stream z).st = .faulted ∧ k'.tq = k.tq ∧ s.SameMemory t
    (8 ≤ z → exec (.loadStreamEntry r z) s = .next s) ∧ (z < 8 → exec (.storeStreamDrain r z) s = .next s) ∧
    (zr.st ≠ .running → exec unit s = .next s) ∧
    (zr.st = .running →
    (kind = 2 → descField d 6 = 0 → exec unit s = done) ∧
    (kind = 2 → descField d 6 ≠ 0 → zr.idxTaken = [] → descRows d ≠ 0 → (indices k).ents = [] → (indices k).closed = true →
      zr.q < 8 ∨ k.c.ended = true → exec unit s = done) ∧
    (kind = 3 → descField d 15 ≤ zr.grp → exec unit s = done) ∧
    ((z < 8 ∧ zr.q < 8 ∧ (k.tqueue zr.q).ents.length < 4) ∨
        (8 ≤ z ∧ 8 ≤ zr.q ∧ zr.q < 12 ∧ ∃ e rest, (k.tqueue zr.q).ents = e :: rest ∧ e.landed = true) →
      (kind = 4 → descField d 6 = 0 → exec unit s = done) ∧
      (kind = 3 → zr.grp < descField d 15 → zr.grpLoaded = false →
        let a : Int := descField d 13 + 8 * zr.grp
        let w := leNat (s.streamRead slot r.core zr.laid a 8)
        (∀ f, spanFault cores a 8 = some f → faults) ∧
        (spanFault cores a 8 = none → ∃ t k', exec unit s = .next t ∧ t.core? r = some k' ∧ k'.tq = k.tq ∧ s.SameMemory t ∧
          (if w / 2 ^ 32 = 0 ∧ descEmpty d = false then (k'.stream z).grp = zr.grp + 1 ∧ (k'.stream z).grpLoaded = false
           else (k'.stream z).grp = zr.grp ∧ (k'.stream z).grpLoaded = true ∧ (k'.stream z).gt = 0 ∧
             (k'.stream z).gstart = w % 2 ^ 32 ∧ (k'.stream z).gcount = w / 2 ^ 32))) ∧
      (∀ f, kind = 3 → zr.grp < descField d 15 → zr.grpLoaded = true → raggedRows d z zr.gstart zr.gcount zr.gt = .error f → faults)) ∧
    (∀ (rows : List RowSrc) (took left : List SEntry), (indices k).ents = took ++ left →
      (kind ∉ [2, 3, 4] ∧ took = [] ∧ rows = affineRows d zr.ordinal) ∨
      (kind = 2 ∧ descField d 6 ≠ 0 ∧ (∀ e ∈ took, e.landed = true ∧ ∃ x, gatherRow d z (e.data.setWidth 32) = .ok x) ∧
        zr.idxTaken.length + took.length = descRows d ∧
        rows = gatherRows d (zr.idxTaken ++ took.map fun e => e.data.setWidth 32)) ∨
      (kind = 3 ∧ zr.grp < descField d 15 ∧ zr.grpLoaded = true ∧ took = [] ∧ raggedRows d z zr.gstart zr.gcount zr.gt = .ok rows) ∨
      (kind = 4 ∧ descField d 6 ≠ 0 ∧ took = [] ∧ rows = []) →
      let elems := if kind = 4 ∧ z < 8 then (sideAddrs d zr.ordinal).zipIdx.map fun p => (p.1, p.2 * 4) else entryElems d rows
      let bad := firstFault cores sz (elems.map Prod.fst)
      let badScale := firstFault cores 4 (scaleAddrs d zr.ordinal rows)
      (z < 8 → zr.q < 8 → (k.tqueue zr.q).ents.length < 4 →
        (bad = none → badScale = none →
          ∃ t k' e, exec (.loadStreamEntry r z) s = .next t ∧ t.core? r = some k' ∧
            (k'.tqueue zr.q).ents = (k.tqueue zr.q).ents ++ [e] ∧ e.landed = true ∧ e.fmt = some (descFmt d) ∧ e.rows = descRows d ∧
            e.cols = descTagCols d ∧ e.data = bufOf (elems.map fun p => (p.2, s.streamRead slot r.core zr.laid p.1 sz)) ∧
            k'.stream z = zr.next ∧ (indices k').ents = left ∧ s.SameMemory t) ∧
        (bad ≠ none ∨ badScale ≠ none → faults)) ∧
      (8 ≤ z → 8 ≤ zr.q → zr.q < 12 → ∀ e rest, (k.tqueue zr.q).ents = e :: rest → e.landed = true →
        (e.esz = sz ∧ e.rows = descRows d ∧ e.cols = descCols d → bad = none → ∃ t k', exec (.storeStreamDrain r z) s = .next t ∧
          t.core? r = some k' ∧ k'.tqueue zr.q = { head := (k.tqueue zr.q).head + 1, closed := (k.tqueue zr.q).closed, ents := rest } ∧
          k'.stream z = zr.next ∧ (indices k').ents = left ∧ t.slots = (s.writeElems r slot sz e.data elems).slots ∧
          t.mem = s.mem ∧ (t.rank? r.vr).map Rank.sbuf = ((s.writeElems r slot sz e.data elems).rank? r.vr).map Rank.sbuf) ∧
        (¬ (e.esz = sz ∧ e.rows = descRows d ∧ e.cols = descCols d) ∨ bad ≠ none → faults))))

/-- PHASE, STEP, CFENCE and the rendezvous points (R188, R189, R63, R119). PHASE and STEP make the strand wait at the
boundary. CFENCE completes when no access of the strand is outstanding, else it waits. RVINIT of a point without a
count sets the count; of one with the same count it completes; with another it raises ILLOP. RVARR of a point with a
count arrives, the arrival that reaches the count opening the next generation, and completes with the strand pending
on the generation it arrived in; without a count RVARR and RVWAIT raise ILLOP. RVWAIT of a strand pending on a
generation that has passed completes and clears the pending flag; on the current one it waits. -/
def Obligations.PhaseStepFenceRendezvous : Prop :=
  ∀ (s : State) (st : Strand) (g : Gang) (a : BitVec 5), s.strand? s.cur = some st → s.gang? s.cur.vr s.cur.gang = some g →
    let n := a.toNat
    let p := g.rv n
    let wait := fun (w : Wait) => s.modStrand s.cur fun st => { st with wait := some w }
    let setRv := fun (p' : RvPoint) => s.modGang s.cur.vr s.cur.gang fun g => { g with rvs := g.rvs.setIfInBounds n p' }
    exec .phase s = .next (wait .phase) ∧ exec .step s = .next (wait .step) ∧
    exec .cfence s = .next (if s.outstanding s.cur then wait .fence else s.retire st) ∧
    (∀ c : BitVec 12, exec (.rvinit a c) s = .next (
      if p.count = 0 then (setRv { p with count := c.toNat }).retire st
      else if p.count = c.toNat then s.retire st else s.trap st 1 (s.wordVal (.rvinit a c)))) ∧
    (p.count = 0 → exec (.rvarr a) s = .next (s.trap st 1 (s.wordVal (.rvarr a))) ∧
      exec (.rvwait a) s = .next (s.trap st 1 (s.wordVal (.rvwait a)))) ∧
    (p.count ≠ 0 → exec (.rvarr a) s = .next ((setRv (if p.arrivals + 1 = p.count then { p with arrivals := 0, gen := p.gen + 1 }
        else { p with arrivals := p.arrivals + 1 })).retire
      { st with rvPend := st.rvPend.setIfInBounds n true, rvGen := st.rvGen.setIfInBounds n p.gen })) ∧
    (p.count ≠ 0 → st.rvPend[n]?.getD false = true → st.rvGen[n]?.getD 0 ≠ p.gen →
      exec (.rvwait a) s = .next (s.retire { st with rvPend := st.rvPend.setIfInBounds n false })) ∧
    (p.count ≠ 0 → st.rvPend[n]?.getD false = true → st.rvGen[n]?.getD 0 = p.gen →
      ∃ t, exec (.rvwait a) s = .next t ∧ t.strand? s.cur = some { st with wait := some (.rendezvous n) } ∧ s.SameMemory t)

/-- MARK, MARKER_RETIRE, MJOIN, MWAIT and MJTIMEOUT (R190, R191, R192, R272). MARK on an engine that the strand may name
puts a marker with its number behind the commands of the strand outstanding there (for engines 35 and 36 behind its
running streams) and completes; MARKER_RETIRE, once all ahead of the oldest marker of the engine is gone, removes it,
writes its number to the retire record and fires the joins it completes. MJOIN arms a join with its mask and number;
MWAIT of an idle join completes with 0, of a fired one with 1, or 2 if it was abandoned, and of an armed one waits
with its limit; MJTIMEOUT after that limit raises MJTIMEOUT (cause 0xF) with the join and the number. -/
def Obligations.MarkersAndJoins : Prop :=
  ∀ (s : State) (st : Strand) (k : Core), s.strand? s.cur = some st → s.core? s.cur = some k →
    (∀ (b : XReg) (e : BitVec 6), e.toNat < 33 ∨ e.toNat = 34 ∨ (e.toNat = 33 ∧ st.sup = true) →
      exec (.mark b e) s = .next (s.retire { st with markers := st.markers ++
        [{ engine := e.toNat, num := (st.rx b).setWidth 16,
           cmds := (s.cmds.filter fun c => c.by' == s.cur && c.engine == e.toNat).map fun c => c.id, streams := [] }] })) ∧
    (∀ b : XReg, s.cur.strand ≠ .s → exec (.mark b 35) s = .next (s.retire { st with markers := st.markers ++
      [{ engine := 35, num := (st.rx b).setWidth 16, cmds := (s.cmds.filter fun c => c.by' == s.cur && c.engine == 35).map fun c => c.id,
         streams := (([0, 1, 2, 3, 4, 5, 6, 7] : List Nat).filter fun z => (k.stream z).st == .running).map fun z =>
           (z, (k.stream z).serial) }] })) ∧
    (∀ (a b : XReg) (j : BitVec 3), (st.rx a).toNat < 2 ^ 37 → (bitAt (st.rx a) 33 = true → st.sup = true) →
      exec (.mjoin a b j) s = .next (s.retire
        { st with joins := st.joins.setIfInBounds j.toNat (.armed (st.rx a) ((st.rx b).setWidth 16)) }.fireJoins)) ∧
    (∀ (a b : XReg) (j : BitVec 3), exec (.mwait a b j) s = .next (match st.joins[j.toNat]?.getD .idle with
      | .idle => s.retire (st.wx a 0)
      | .fired ab => s.retire (st.wx a (if ab then 2 else 1))
      | .armed _ m => if st.expired ((st.rx b).toNat % 2 ^ 32)
          then s.trap st 0xF (BitVec.ofNat 64 (j.toNat + m.toNat * 65536))
          else s.modStrand s.cur fun st0 => { st0 with wait := some (.join j.toNat), waitiLeft := (st.rx b).toNat % 2 ^ 32 })) ∧
    (∀ (r : SRef) (sr : Strand) (kr : Core) (e : Nat) (m : Marker), s.strand? r = some sr → s.core? r = some kr →
      sr.markers.find? (fun m => m.engine == e) = some m →
      exec (.markerRetire r e) s = .next (if s.markerDone kr m then s.modStrand r fun q =>
        { q with markers := q.markers.erase m, recs := q.recs.setIfInBounds e m.num }.fireJoins else s)) ∧
    (∀ (r : SRef) (sr : Strand) (j : Nat) (mask : Word) (m : BitVec 16), s.strand? r = some sr → sr.wait = some (.join j) →
      sr.joins[j]?.getD .idle = .armed mask m → exec (.mjtimeout r) s =
        .next (if sr.waitiLeft ≠ 0 ∧ sr.waitiLeft ≤ sr.waited
          then s.trapEntry r 0xF (BitVec.ofNat 64 (j + m.toNat * 65536)) 0 0 0 sr.pc else s))

/-- ASYNC_TRAP and STRAND_WAIT_RELEASE (R307, R197). ASYNC_TRAP of a strand at trap level 0 that has not ended and stands
at an instruction boundary takes its next pending trap (stream faults before refusals, the lowest stream first) with
its source and stream in TSTAT and its own pc as TPC, and the trap is no longer pending; at another level, after the
end, or inside an instruction that has begun nothing happens. STRAND_WAIT_RELEASE of a wait whose object is ready
clears the wait so that the instruction executes again, of one whose object is not ready does nothing; a held SHOOT or
VMAP whose accesses have all performed completes with its value, a held CSAVE with the address of the frame once the
gang is saved or with 2 when there is nothing to save any more, a held write of L2CTL with the register written; a
strand without a wait is left alone. -/
def Obligations.AsyncTrapsAndWaitRelease : Prop :=
  ∀ (s : State) (r : SRef) (st : Strand) (k : Core), s.strand? r = some st → s.core? r = some k →
    let between := st.wait = none ∨ st.wait = some .waiti ∨ (∃ n, st.wait = some (.queue n)) ∨ (∃ n b, st.wait = some (.ring n b)) ∨
      (∃ n, st.wait = some (.rendezvous n)) ∨ (∃ n, st.wait = some (.join n)) ∨ ∃ n, st.wait = some (.allowance n)
    (st.tlevel = 0 → st.ended = false → between → ∀ a, st.nextAsync = some a → exec (.asyncTrap r) s =
      .next ((s.modStrand r fun q => { q with asyncs := q.asyncs.erase a }).trapEntry r a.cause a.tval a.detail a.src a.zidx st.pc)) ∧
    (st.tlevel ≠ 0 ∨ st.ended = true ∨ ¬ between ∨ st.nextAsync = none →
      exec (.asyncTrap r) s = .next s) ∧
    (st.wait = none → exec (.strandWaitRelease r) s = .next s) ∧
    (∀ v, st.wait = some (.flush v) → exec (.strandWaitRelease r) s = .next (({ s with cur := r, l2ctl := v } : State).retire st)) ∧
    (∀ (d : XReg) (g : Nat), st.wait = some (.csave d g) → ∀ q, s.rank? st.selvr.toNat = some q →
      (∀ x frame why, q.gang? g = some x → x.cond = .halting frame why → exec (.strandWaitRelease r) s = .next s) ∧
      (∀ x n why b, q.gang? g = some x → x.cond = .saved n why b → exec (.strandWaitRelease r) s =
        .next (({ s with cur := r } : State).retire (st.wx d (BitVec.ofNat 64 (q.slotAddr n))))) ∧
      ((∀ x, q.gang? g = some x → x.cond = .waiting ∨ x.cond = .ready ∨ x.cond = .starting ∨ x.cond = .placed) →
        exec (.strandWaitRelease r) s = .next (({ s with cur := r } : State).retire (st.wx d 2)))) ∧
    (∀ w, st.wait = some w → (∀ d g, w ≠ .csave d g) → (∀ d v ids, w ≠ .drain d v ids) → (∀ v, w ≠ .flush v) →
      exec (.strandWaitRelease r) s =
        .next (if s.waitReady r st k w then s.modStrand r fun q => { q with wait := none } else s)) ∧
    (∀ (d : XReg) (v : Word) (ids : List Nat), st.wait = some (.drain d v ids) →
      ((∀ id ∈ ids, s.access? id = none) →
        exec (.strandWaitRelease r) s = .next (({ s with cur := r } : State).retire (st.wx d v))) ∧
      ((∃ id ∈ ids, (s.access? id).isSome = true) → exec (.strandWaitRelease r) s = .next s))

/-- EC and ECR: patch words, chains and submission (R250, R251, R252, R153, R154, R155). A patch word of EC (two words) or
ECR (from a register) that keeps the chain rules and has its chain bit set is held with the amendments of the open
chain, and the instruction completes, the pc moving by the size of the instruction; a reserved bit, a chain bit
without a field, or a word of another engine or template than the open chain raises ILLOP with the patch word as word
1 (of ECR: log entry 44). Class 2 at rank privilege raises PRIV, after the own bits of the patch word in EC. A word
that closes the chain and builds a command whose checks pass, with room in its engine and in the page-lock table,
submits it: one command is queued, with the engine and the order of the strand and a pin on the page of each handle it
names, the chain is closed and the instruction completes. -/
def Obligations.EngineCommandWords : Prop :=
  ∀ (s : State) (st : Strand), s.strand? s.cur = some st →
    ∀ (i : Instr) (c : BitVec 4) (j : BitVec 6) (p : BitVec 32) (size : Word),
    (i = .ec c j p ∧ size = 8) ∨ (∃ x, i = .ecr c j x ∧ p = (st.rx x).setWidth 32 ∧ size = 4) →
    let own := bitsAt p 16 4 ≠ 0 ∨ (bitsAt p 21 5 = 0 ∧ bitAt p 20 = true)
    (c = 2 → st.sup = false → (size = 4 ∨ ¬ own → exec i s = .next (s.trap st 2 (s.wordVal i))) ∧
      (size = 8 → own → exec i s = .next (s.trap st 1 (BitVec.ofNat 64 (2 ^ 32 + p.toNat))))) ∧
    ((c ≠ 2 ∨ st.sup = true) →
    let tpl := bitsAt p 26 6
    let fld := bitsAt p 21 5
    let same := fun (h : Chain) => h.cls = c.toNat ∧ h.idx = j.toNat ∧ h.tpl = tpl
    let held := match st.chain with | some h => h.amends | none => []
    let legal := bitsAt p 16 4 = 0 ∧ ¬ (fld = 0 ∧ bitAt p 20 = true) ∧ ∀ h, st.chain = some h → same h
    (¬ legal → exec i s = .next (s.trap st 1 (BitVec.ofNat 64 (2 ^ 32 + p.toNat)))) ∧
    (legal → bitAt p 20 = true → exec i s = .next (s.modStrand s.cur fun _ =>
      ({ st with chain := some { cls := c.toNat, idx := j.toNat, tpl := tpl, amends := held ++ [(fld, p.extractLsb' 0 16)] } } : Strand).finish
        s.cur.strand size)) ∧
    (legal → bitAt p 20 = false → ∀ (rk : Rank) (k : Core) (slot : Nat) (b : Build), s.rank? s.cur.vr = some rk →
      s.core? s.cur = some k → s.slotOf s.cur.vr = some slot →
      s.buildCmd s.cur rk k slot c.toNat ((if fld = 0 then held else held ++ [(fld, p.extractLsb' 0 16)]).foldl
        (fun t a => tplSet t a.1 a.2.toNat) (planeTpl (s.planes s.cur.vr c.toNat).active tpl)) = some b →
      let hs := b.regions.filterMap Region.handle?
      let pins := hs.dedup.map fun h => ({ vr := s.cur.vr, va := (k.handle h).va, large := (k.handle h).large, frame := (k.handle h).frame } : Pin)
      (∀ h ∈ hs, st.handlePending h = false) →
      submitCheck s.cur.strand k (s.gangCores s.cur) (match c.toNat with | 0 => 3 | 1 => 5 | 2 => 6 | _ => 7) b.regions = none →
      s.outstandingCmds s.cur (engineNo c.toNat j.toNat) < 16 → ∀ locks, takePins s.locks pins = some locks →
      ∃ t cmd st', exec i s = .next t ∧ t.cmds = s.cmds ++ [cmd] ∧ cmd.by' = s.cur ∧ cmd.engine = engineNo c.toNat j.toNat ∧
        cmd.order = st.ecCount ∧ cmd.st = .queued ∧ cmd.pins = pins ∧ t.locks = locks ∧ t.strand? s.cur = some st' ∧ st'.chain = none ∧
        st'.ecCount = st.ecCount + 1 ∧ st'.x = st.x))

/-- TLOAD, TDIFF, TSWAP and TCRC (R259, R261, R262, R263, R143). For a class that the strand may name: TLOAD of a record
inside the own scratchpad, named by either alias, aligned to 8, whose high header word is 0 and whose CRC matches its
4,096 bytes puts them into the staging plane and completes; with a wrong CRC the staging plane becomes the active
plane again and the trap 0xD is raised with both values. TDIFF applies its words to the active plane and stages the
result under the same check. TSWAP marks the swap for the boundary that ends the phase. TCRC writes the CRC of the
active plane to its register. Class 2 at rank privilege raises PRIV. -/
def Obligations.TemplatePlanes : Prop :=
  ∀ (s : State) (st : Strand) (c : BitVec 3) (a : XReg) (slot : Nat), s.strand? s.cur = some st → s.slotOf s.cur.vr = some slot →
    ∀ at' : Nat, (st.rx a).toNat = at' ∨ (s.cur.core < 256 ∧ (st.rx a).toNat = 0x1000000 + s.cur.core * 0x80000 + at') →
    let pad := fun (o n : Nat) => memBytes (s.slot slot).pads (s.cur.core * 0x80000 + at' + o) n
    let put := fun (v : BitVec 32768) => s.modPlanes s.cur.vr c.toNat fun p => { p with staging := v }
    let back := s.modPlanes s.cur.vr c.toNat fun p => { p with staging := p.active }
    let wrong := fun (want got : BitVec 32) =>
      back.trapEntry s.cur 0xD (want.setWidth 64 <<< 32 ||| got.setWidth 64) 0 0 0 st.pc
    (c = 2 → st.sup = false → ∀ i ∈ [Instr.tload c a, .tdiff c a, .tswap c, .tcrc c a], exec i s = .next (s.trap st 2 (s.wordVal i))) ∧
    ((c = 2 → st.sup = true) →
      (at' + 4104 ≤ 0x80000 → at' % 8 = 0 → leNat ((pad 0 4104).drop 4 |>.take 4) = 0 →
        let new : BitVec 32768 := BitVec.ofNat 32768 (leNat ((pad 0 4104).drop 8))
        let want : BitVec 32 := BitVec.ofNat 32 (leNat ((pad 0 4104).take 4))
        exec (.tload c a) s = .next (if planeCrc new = want then (put new).retire st else wrong want (planeCrc new))) ∧
      (∀ (n : Nat) (new : BitVec 32768), leNat ((pad 0 8).take 4) = n → n ≤ 2048 → at' + 8 + 4 * n ≤ 0x80000 → at' % 8 = 0 →
        applyDiff (s.planes s.cur.vr c.toNat).active (wordsOfBytes n (pad 8 (4 * n))) = .ok new →
        let want : BitVec 32 := BitVec.ofNat 32 (leNat ((pad 0 8).drop 4))
        exec (.tdiff c a) s = .next (if planeCrc new = want then (put new).retire st else wrong want (planeCrc new))) ∧
      (c ≠ 2 → exec (.tswap c) s = .next ((s.modPlanes s.cur.vr c.toNat fun p => { p with swap := true }).retire st)) ∧
      (c = 2 → exec (.tswap c) s = .next ((s.modRank s.cur.vr fun r => { r with migSwap := true }).retire st)) ∧
      exec (.tcrc c a) s = .next (s.retire (st.wx a ((crc32c (leBytes 4096 (s.planes s.cur.vr c.toNat).active.toNat)).setWidth 64))))

/-- SYS instructions at rank privilege raise PRIV (R143, R154, R289, R295). Every SYS instruction but TRET, executed by a
strand at rank privilege, raises PRIV (cause 2) with its word and changes nothing but what trap entry changes. RDSYS
and WRSYS of an index that the table of system registers does not list raise ILLOP at either privilege. -/
def Obligations.SupervisorOnlyInstructions : Prop :=
  ∀ (s : State) (st : Strand) (d a : XReg) (i : BitVec 11) (n : BitVec 4) (b : Bool), s.strand? s.cur = some st →
    let listed := i.toNat ≤ 3 ∨ (8 ≤ i.toNat ∧ i.toNat ≤ 10) ∨ (0x10 ≤ i.toNat ∧ i.toNat ≤ 0x12) ∨ i.toNat = 0x20 ∨
      (0x41 ≤ i.toNat ∧ i.toNat ≤ 0x47) ∨ (0x50 ≤ i.toNat ∧ i.toNat ≤ 0x5F)
    (¬ listed → ∀ x ∈ [Instr.rdsys d i, .wrsys a i], exec x s = .next (s.trap st 1 (s.wordVal x))) ∧
    (st.sup = false → listed → ∀ x ∈ [Instr.rdsys d i, .wrsys a i], exec x s = .next (s.trap st 2 (s.wordVal x))) ∧
    (st.sup = false →
    ∀ x ∈ [Instr.l2ctlWrite a, .nringWrite a, .frpoolWrite a, .stepholdWrite a, .wtblWrite a n, .ldovf a,
           .csave d a, .crest d a, .shoot d a b, .plock d a, .pinq d a, .punlock d a, .vmap d a, .kill d a, .idle d a],
      exec x s = .next (s.trap st 2 (s.wordVal x)))

/-- RDSYS of every register of the table (R295, R378). At supervisor privilege RDSYS completes with the register in rd:
PKGID, SELVR, SELSLOT, SPTROOT of the partition, CLAVAIL, PARTCFG, L2CTL, NRING, NHEAD, NTAIL; SLOTVR of a slot of the
own partition; and for a selected rank that is fallow or resident in the own partition PTROOT, OVF, ENGWAYS, JOBSEED,
FRPOOL, GEN, STEPHOLD and the window table. A selected rank in another partition raises PRIV, one that the package
does not hold ILLOP; one in transit, or whose migration command has not retired, makes the strand wait. -/
def Obligations.SystemRegisterReads : Prop :=
  ∀ (s : State) (st : Strand) (d : XReg), s.strand? s.cur = some st → st.sup = true →
    (∀ (i : BitVec 11) (v : Word), (i.toNat, v) ∈ ([(0x000, s.pkgid), (0x001, st.selvr.setWidth 64), (0x002, st.selslot.setWidth 64),
        (0x003, s.sptroot[s.partOfRank s.cur.vr]?.getD 0), (0x008, s.clavail.setWidth 64), (0x009, s.partcfg), (0x00A, s.l2ctl),
        (0x010, s.nring), (0x011, s.nhead.setWidth 64), (0x012, s.ntail.setWidth 64)] : List (Nat × Word)) →
      exec (.rdsys d i) s = .next (s.retire (st.wx d v))) ∧
    (s.partOf st.selslot.toNat = s.partOfRank s.cur.vr → exec (.rdsys d 0x020) s =
      .next (s.retire (st.wx d (match (s.slot st.selslot.toNat).occupant with
        | some v => 0x8000000000000000 ||| BitVec.ofNat 64 (v % 2 ^ 24)
        | none => 0)))) ∧
    (s.partOf st.selslot.toNat ≠ s.partOfRank s.cur.vr →
      exec (.rdsys d 0x020) s = .next (s.trap st 2 (s.wordVal (.rdsys d 0x020)))) ∧
    (∀ r : Rank, s.rank? st.selvr.toNat = some r →
      (∀ (i : BitVec 11) (v : Word), ((i.toNat, v) ∈ ([(0x041, r.ptroot), (0x042, r.ovf), (0x043, r.engways), (0x044, r.jobseed),
          (0x045, r.frpool), (0x046, r.gen), (0x047, if r.stephold then 1 else 0)] : List (Nat × Word)) ∨
          ∃ n, n < 16 ∧ i.toNat = 0x050 + n ∧ v = r.wtbl[n]?.getD 0) →
        (s.inTransit r.vr = false → (r.place = .fallow ∨ ∃ k, r.place = .resident k ∧ s.partOf k = s.partOfRank s.cur.vr) →
          exec (.rdsys d i) s = .next (s.retire (st.wx d v))) ∧
        (s.inTransit r.vr = false → ∀ k, r.place = .resident k → s.partOf k ≠ s.partOfRank s.cur.vr →
          exec (.rdsys d i) s = .next (s.trap st 2 (s.wordVal (.rdsys d i)))) ∧
        (s.inTransit r.vr = true →
          exec (.rdsys d i) s = .next (s.modStrand s.cur fun st => { st with wait := some (.transit r.vr) })))) ∧
    (s.rank? st.selvr.toNat = none → s.inTransit st.selvr.toNat = false → ∀ i : BitVec 11,
      (0x041 ≤ i.toNat ∧ i.toNat < 0x048) ∨ (0x050 ≤ i.toNat ∧ i.toNat < 0x060) →
      exec (.rdsys d i) s = .next (s.trap st 1 (s.wordVal (.rdsys d i))))

/-- WRSYS of every register that can be written (R295, R296, R299, R372, R103, R294). At supervisor privilege and without
reserved bits: WRSYS of SELVR and SELSLOT sets the selection of the strand, of NHEAD the consumer counter; for a
selected rank in reach ENGWAYS and JOBSEED, FRPOOL while no frame slot is occupied, STEPHOLD (when the rank has
arrived at its step boundary the other packages are told, log entry 2), and a window-table entry that is legal, once
its allowance is idle, together with the limit of the allowance. NRING takes a legal size. L2CTL of its own value
completes; of a new mode in a package that is idle but for the writing gang (log entry 45) the strand holds for the
write-back, and the release sets the register. A reserved bit, and a read-only register, raise ILLOP. -/
def Obligations.SystemRegisterWrites : Prop :=
  ∀ (s : State) (st : Strand) (a : XReg), s.strand? s.cur = some st → st.sup = true →
    let v := st.rx a
    exec (.wrsys a 0x001) s = .next (if v.toNat < 2 ^ 24 then s.retire { st with selvr := v.setWidth 24 }
      else s.trap st 1 (s.wordVal (.wrsys a 0x001))) ∧
    exec (.wrsys a 0x002) s = .next (if v.toNat < 16 then s.retire { st with selslot := v.setWidth 4 }
      else s.trap st 1 (s.wordVal (.wrsys a 0x002))) ∧
    exec (.wrsys a 0x011) s = .next (if v.toNat < 2 ^ 16 then ({ s with nhead := v.setWidth 16 } : State).retire st
      else s.trap st 1 (s.wordVal (.wrsys a 0x011))) ∧
    (∀ i : BitVec 11, i.toNat ∉ [0x001, 0x002, 0x011, 0x043, 0x044] → exec (.wrsys a i) s = .next (s.trap st 1 (s.wordVal (.wrsys a i)))) ∧
    exec (.nringWrite a) s = .next (if v.toNat / 32 % 128 = 0 ∧ (v.toNat % 32 = 0 ∨ (4 ≤ v.toNat % 32 ∧ v.toNat % 32 < 16))
      then ({ s with nring := v } : State).retire st else s.trap st 1 (s.wordVal (.nringWrite a))) ∧
    (v.toNat < 4 → (v.toNat % 2 = 0 ∨ s.onePartition = true) →
      (v = s.l2ctl → exec (.l2ctlWrite a) s = .next (s.retire st)) ∧
      (v ≠ s.l2ctl → s.busyPackage (some (s.cur.vr, s.cur.gang)) = true → exec (.l2ctlWrite a) s = .next (s.trap st 1 (s.wordVal (.l2ctlWrite a)))) ∧
      (v ≠ s.l2ctl → s.busyPackage (some (s.cur.vr, s.cur.gang)) = false →
        exec (.l2ctlWrite a) s = .next (s.modStrand s.cur fun st => { st with wait := some (.flush v) }))) ∧
    (∀ r : Rank, s.rank? st.selvr.toNat = some r → s.inTransit r.vr = false →
      (r.place = .fallow ∨ ∃ k, r.place = .resident k ∧ s.partOf k = s.partOfRank s.cur.vr) →
      let put := fun (f : Rank → Rank) => (Host.Outcome.next ((s.modRank r.vr f).retire st) : Host.Outcome State Fault Refusal)
      (v.toNat < 2 ^ 16 → exec (.wrsys a 0x043) s = put fun r => { r with engways := v }) ∧
      exec (.wrsys a 0x044) s = put (fun r => { r with jobseed := v }) ∧
      (v.toNat / 2 ^ 8 % 2 ^ 20 = 0 → r.frames = [] → exec (.frpoolWrite a) s = put fun r => { r with frpool := v }) ∧
      (r.frames ≠ [] → exec (.frpoolWrite a) s = .next (s.trap st 1 (s.wordVal (.frpoolWrite a)))) ∧
      (v.toNat < 2 → r.stepSt = .running → exec (.stepholdWrite a) s = put fun r => { r with stephold := v.getLsbD 0 }) ∧
      (v.toNat < 2 → r.stepSt = .arrived → exec (.stepholdWrite a) s =
        .next (({ s.modRank r.vr (fun r => { r with stephold := v.getLsbD 0 }) with
          out := s.out ++ [Out.stepArrival r.job r.vr (v.getLsbD 0)] } : State).retire st)) ∧
      (∀ n : BitVec 4, s.wtblBad r v = false → r.walOut[n.toNat]?.getD 0 = 0 → exec (.wtblWrite a n) s =
        put fun r => { r with wtbl := r.wtbl.setIfInBounds n.toNat v, walLimit := r.walLimit.setIfInBounds n.toNat (wtblCeil v) }) ∧
      (∀ n : BitVec 4, s.wtblBad r v = true → exec (.wtblWrite a n) s = .next (s.trap st 1 (s.wordVal (.wtblWrite a n))))) ∧
    (∀ w, st.wait = some (.flush w) → (s.core? s.cur).isSome = true →
      exec (.strandWaitRelease s.cur) s = .next (({ s with l2ctl := w } : State).retire st))

/-- LDOVF, CSAVE, CREST, IDLE, SHOOT, VMAP, PLOCK, PINQ and PUNLOCK (R297, R298, R308, R314, R323, R325, R328, R329). At
supervisor privilege, on a selected rank in reach and not in transit: LDOVF of a legal table completes with OVF
written, in force at once when no gang is placed or saved; of another it raises ILLOP. CSAVE of a placed gang with a
free frame slot requests its pre-emption and holds, with none completes with 1, of any other gang with 2. CREST
completes: with 0, the frame posted for restore, for the frame of a saved gang whose header stands; with 2 where the
rank is not resident, with 1 else. IDLE completes with 1 when a notice waits, with 0 at its limit, else waits;
IDLE_EXPIRY completes it with 0. SHOOT and VMAP write the buffered stores of the strand, clear the handles on the
page, or of the whole space, and advance GEN; they complete with the new GEN, or the old root, when no access stands
in the way, else hold. PLOCK completes with one more pin on the page at its current frame, or with 0 when entries are
short; PINQ completes with the pins on a frame; PUNLOCK completes with one pin released, or raises ILLOP. -/
def Obligations.SupervisorInstructions : Prop :=
  ∀ (s : State) (st : Strand) (d a : XReg) (r : Rank), s.strand? s.cur = some st → st.sup = true → s.rank? st.selvr.toNat = some r →
    s.inTransit r.vr = false → (r.place = .fallow ∨ ∃ k, r.place = .resident k ∧ s.partOf k = s.partOfRank s.cur.vr) →
    let v := st.rx a
    let g := v.toNat % 2 ^ 32
    let ends := fun (w : Word) => (Host.Outcome.next (s.retire (st.wx d w)) : Host.Outcome State Fault Refusal)
    let own := fun (b : BStore) => b.core == s.cur.core && b.strand == s.cur.strand && b.gang == s.cur.gang
    let quiet := r.handleAccesses = [] ∧ ∀ q, s.rank? s.cur.vr = some q →
      (∀ b ∈ q.sbuf, own b = true → ∀ p x, b.dst ≠ .peer p x) ∧ ∀ x ∈ q.accesses, x.dst.isPeer = false
    (ovfLegal v = true → exec (.ldovf a) s =
      .next ((s.modRank r.vr fun q => { q with ovf := v, ovfForce := if r.active then q.ovfForce else v }).retire st)) ∧
    (ovfLegal v = false → exec (.ldovf a) s = .next (s.trap st 1 (s.wordVal (.ldovf a)))) ∧
    (∀ x k, r.gang? g = some x → x.cond = .placed ∨ x.cond = .starting → r.freeSlot = some k → exec (.csave d a) s =
      .next ((s.modRank r.vr fun q => q.requestHalt g k 0).modStrand s.cur fun st => { st with wait := some (.csave d g) })) ∧
    (∀ x, r.gang? g = some x → x.cond = .placed ∨ x.cond = .starting → r.freeSlot = none → exec (.csave d a) s = ends 1) ∧
    ((∀ x, r.gang? g = some x → x.cond ≠ .placed ∧ x.cond ≠ .starting) → exec (.csave d a) s = ends 2) ∧
    (r.frameAt v.toNat = none → exec (.crest d a) s = ends 1) ∧
    (∀ x f, r.frameAt v.toNat = some (f, x) → (∀ k why b, x.cond ≠ .saved k why b) → exec (.crest d a) s = ends 1) ∧
    (∀ x f k why b, r.frameAt v.toNat = some (f, x) → x.cond = .saved k why b →
      (s.headerOk v.toNat r.vr x.id = false → exec (.crest d a) s = ends 1) ∧
      (s.headerOk v.toNat r.vr x.id = true → r.place = .fallow → exec (.crest d a) s = ends 2) ∧
      (s.headerOk v.toNat r.vr x.id = true → r.place ≠ .fallow → exec (.crest d a) s = .next ((s.modRank r.vr fun q =>
        { q.modGang x.id fun y => { y with cond := .saved k why true } with walk := true }).retire (st.wx d 0)))) ∧
    (s.ntail ≠ s.nhead → exec (.idle d a) s = ends 1) ∧
    (s.ntail = s.nhead → exec (.idle d a) s = if st.expired g then ends 0
      else .next (s.modStrand s.cur fun st => { st with wait := some (.notice d), waitiLeft := g })) ∧
    (∀ (q : SRef) (sq : Strand) (e : XReg), s.strand? q = some sq → sq.wait = some (.notice e) → exec (.idleExpiry q) s =
      .next (if s.ntail = s.nhead ∧ sq.waitiLeft ≠ 0 ∧ sq.waitiLeft ≤ sq.waited then ({ s with cur := q } : State).retire (sq.wx e 0)
        else s)) ∧
    (∀ big : Bool, 2 ^ 48 ≤ v.toNat → exec (.shoot d a big) s = .next (s.trap st 7 v 4)) ∧
    (∀ big : Bool, v.toNat < 2 ^ 48 → st.wait = none → ∃ t r', exec (.shoot d a big) s = .next t ∧ t.rank? r.vr = some r' ∧ r'.gen = r.gen + 1 ∧
      (∀ x ∈ r'.gangs, ∀ k ∈ x.cores, ∀ h ∈ k.handles.toList, h.sup = false → h.valid = true →
        h.va + pageSize h.large ≤ v.toNat / pageSize big * pageSize big ∨
          v.toNat / pageSize big * pageSize big + pageSize big ≤ h.va) ∧
      (quiet → t.strand? s.cur = some ((st.wx d (r.gen + 1)).finish s.cur.strand 4)) ∧
      (r.handleAccesses ≠ [] → (∀ x ∈ r.accesses, x.id < s.nextId) → ∃ ids, (t.strand? s.cur).map Strand.wait = some (some (.drain d (r.gen + 1) ids)))) ∧
    (v.toNat / 2 % 2 ^ 11 ≠ 0 → exec (.vmap d a) s = .next (s.trap st 1 (s.wordVal (.vmap d a)))) ∧
    (v.toNat / 2 % 2 ^ 11 = 0 → st.wait = none → ∃ t r', exec (.vmap d a) s = .next t ∧ t.rank? r.vr = some r' ∧ r'.ptroot = v ∧ r'.gen = r.gen + 1 ∧
      (∀ x ∈ r'.gangs, ∀ k ∈ x.cores, ∀ h ∈ k.handles.toList, h.sup = false → h.valid = true → 2 ^ 48 ≤ h.va) ∧
      (quiet → t.strand? s.cur = some ((st.wx d r.ptroot).finish s.cur.strand 4)) ∧
      (r.handleAccesses ≠ [] → (∀ x ∈ r.accesses, x.id < s.nextId) → ∃ ids, (t.strand? s.cur).map Strand.wait = some (some (.drain d r.ptroot ids)))) ∧
    (∀ q, s.rank? s.cur.vr = some q → (∀ b ∈ q.sbuf, own b = true → b.sent = false ∧ ∃ x, b.dst = .phys x) →
      (s.flushStrand s.cur).mem = (q.sbuf.filter own).foldl (fun m b => match b.dst with
        | .phys x => physPut m x b.bytes
        | _ => m) s.mem) ∧
    (2 ^ 48 ≤ v.toNat → exec (.plock d a) s = .next (s.trap st 7 v 4)) ∧
    (∀ rm, v.toNat < 2 ^ 48 → s.walkFor r.vr false v.toNat = .absent rm → exec (.plock d a) s = .next (s.trap st 7 v 2)) ∧
    (∀ e at' big, v.toNat < 2 ^ 48 → s.walkFor r.vr false v.toNat = .leaf e at' big →
      let p : Lock := { vr := r.vr, va := v.toNat / pageSize big * pageSize big, large := big, frame := leafFrame e big, count := 1 }
      let same := fun (l : Lock) => l.vr == p.vr && l.va == p.va && l.large == p.large && l.frame == p.frame
      let put := fun (ls : List Lock) (n : Nat) => (Host.Outcome.next (({ s with locks := ls } : State).retire
        (st.wx d (BitVec.ofNat 64 n))) : Host.Outcome State Fault Refusal)
      (61440 < s.locks.length → exec (.plock d a) s = ends 0) ∧
      (s.locks.length ≤ 61440 → s.locks.find? same = none → exec (.plock d a) s = put (s.locks ++ [p]) 1) ∧
      (∀ l, s.locks.length ≤ 61440 → s.locks.find? same = some l → l.count ≠ 0 → exec (.plock d a) s =
        if l.count = 65535 then ends 0
        else put (s.locks.map fun q => if same q then { q with count := q.count + 1 } else q) (l.count + 1))) ∧
    exec (.pinq d a) s = .next (s.retire (st.wx d (BitVec.ofNat 64
      ((s.locks.filter fun l => l.frame / pageSize l.large == v.toNat / pageSize l.large).map fun l => l.count).sum))) ∧
    (s.unlockEntry r.vr v.toNat = none → exec (.punlock d a) s = .next (s.trap st 1 (s.wordVal (.punlock d a)))) ∧
    (∀ l, s.unlockEntry r.vr v.toNat = some l → exec (.punlock d a) s = .next
      (({ s with locks := releasePin s.locks { vr := l.vr, va := l.va, large := l.large, frame := l.frame } } : State).retire
        (st.wx d (BitVec.ofNat 64 (l.count - 1)))))

/-- SPTROOT_WRITE, SUPERVISOR_SHOOT, NOTICE_WRITE and the control port (R288, R290, R295, R299, R316, R323, R325).
SPTROOT_WRITE replaces the root of a partition, its reserved bits 0, and shoots down the whole supervisor space;
SUPERVISOR_SHOOT shoots down one page: each advances the generation of the partition, clears the supervisor handles in
reach in the cores of its resident ranks, and owes the package control processor its answer once the accesses that
passed before have performed. NOTICE_WRITE writes the oldest held notice at the place of NTAIL in the ring and
advances NTAIL when there is room, and else does nothing. A turn of the control port reads a register of the package,
of a partition or of a rank and answers it, or writes one (log entry 45). -/
def Obligations.PcpActsOnSupervisorSpace : Prop :=
  ∀ s : State,
    (∀ (p : Nat) (v : BitVec 64), p < 16 → ∃ t, exec (.sptrootWrite p v) s = .next t ∧
      t.sptroot[p]? = some (v &&& ~~~ 0xFFE#64) ∧ (∀ q, q ≠ p → t.sptroot[q]? = s.sptroot[q]?) ∧
      t.supgen[p]? = (s.supgen[p]?).map (· + 1) ∧ s.SameMemory t ∧
      t.pcp = s.pcp ++ [.drained (s.sptroot[p]?.getD 0) (s.supAccesses p)] ∧
      ∀ r ∈ t.ranks, r.slot?.isSome = true → s.partOfRank r.vr = p → ∀ g ∈ r.gangs, ∀ k ∈ g.cores, ∀ h ∈ k.handles.toList,
        h.sup = true → h.valid = true → 2 ^ 48 ≤ h.va) ∧
    (∀ (p : Nat) (va : BitVec 64) (big : Bool), p < 16 → ∃ t, exec (.supervisorShoot p va big) s = .next t ∧
      t.supgen[p]? = (s.supgen[p]?).map (· + 1) ∧ s.SameMemory t ∧ t.sptroot = s.sptroot ∧
      t.pcp = s.pcp ++ [.drained ((s.supgen[p]?.getD 0) + 1) (s.supAccesses p)] ∧
      ∀ r ∈ t.ranks, r.slot?.isSome = true → s.partOfRank r.vr = p → ∀ g ∈ r.gangs, ∀ k ∈ g.cores, ∀ h ∈ k.handles.toList,
        h.sup = true → h.valid = true → h.va + pageSize h.large ≤ va.toNat / pageSize big * pageSize big ∨
          va.toNat / pageSize big * pageSize big + pageSize big ≤ h.va) ∧
    (∀ n rest, s.notices = n :: rest → s.noticeRoom = true → exec .noticeWrite s = .next { s with
      notices := rest, ntail := s.ntail + 1,
      mem := physPut s.mem (bitsAt s.nring 12 52 * 4096 + (s.ntail.toNat % 2 ^ s.nringLog) * 128) (leBytes 128 n.toNat) }) ∧
    (s.notices = [] ∨ s.noticeRoom = false → exec .noticeWrite s = .next s) ∧
    (∀ (vr slot part i : Nat) (v : Word) (rest : List PcpAct), s.pcp = .read vr slot part i :: rest →
      (i, v) ∈ ([(0x000, s.pkgid), (0x008, s.clavail.setWidth 64), (0x009, s.partcfg), (0x00A, s.l2ctl), (0x010, s.nring)] :
        List (Nat × Word)) → s.rank? vr = none → s.pcpTurn = { s with pcp := rest, out := s.out ++ [.pcp v] }) ∧
    (∀ (vr part : Nat) (v : Word) (rest : List PcpAct), s.pcp = .write vr part 0x00A v :: rest → s.l2ctlBad v = false →
      s.busyPackage none = false → s.pcpTurn = { s with pcp := rest, l2ctl := v }) ∧
    (∀ (v : Word) (ids : List Nat) (rest : List PcpAct), s.pcp = .drained v ids :: rest → s.pcpTurn =
      if ids.any (fun id => (s.access? id).isSome) then s else { s with pcp := rest, out := s.out ++ [.pcp v] })

/-- GLAUNCH, GKILL, KILL and GSTAT (R347, R348, R349, R339, R297, R351). GLAUNCH of a record inside the own scratchpad,
aligned to 128, with room in the unit: a record that a reason of the posting rules refuses answers 2^63 plus the
reason and posts nothing; any other is posted and its gang identity answered; while the unit is full the strand waits.
An address out of range or misaligned raises SCRADDR or ALIGN. GKILL of a gang the rank does not have answers 2, of a
supervisor gang at rank privilege 3; KILL of a gang the selected rank does not have answers 2; of any gang that they
may end both complete and the gang is gone; of a waiting gang that no marker, command or dependant names, both remove
it and answer 0. GSTAT answers the completion record or the condition of a gang. -/
def Obligations.GangInstructions : Prop :=
  ∀ (s : State) (st : Strand) (d a : XReg) (r : Rank), s.strand? s.cur = some st → s.rank? s.cur.vr = some r →
    let v := st.rx a
    let g := v.toNat % 2 ^ 32
    (v.toNat + 128 ≤ 0x80000 → v.toNat % 128 = 0 → r.pendingGangs < 256 →
      (∀ n, r.refusal (s.launchAt s.cur v.toNat) st.sup (some s.cur.core) = some n →
        exec (.glaunch d a) s = .next (s.retire (st.wx d (BitVec.ofNat 64 (2 ^ 63 + n))))) ∧
      (r.refusal (s.launchAt s.cur v.toNat) st.sup (some s.cur.core) = none →
        exec (.glaunch d a) s = .next ((s.post r.vr (s.launchAt s.cur v.toNat) .launch).retire
          (st.wx d (BitVec.ofNat 64 (s.launchAt s.cur v.toNat).gangid))))) ∧
    (v.toNat + 128 ≤ 0x80000 → v.toNat % 128 = 0 → 256 ≤ r.pendingGangs → exec (.glaunch d a) s =
      .next (s.modStrand s.cur fun st => { st with wait := some .unitRoom })) ∧
    (0x80000 < v.toNat + 128 → exec (.glaunch d a) s = .next (s.trap st 0xB v)) ∧
    (v.toNat + 128 ≤ 0x80000 → v.toNat % 128 ≠ 0 → exec (.glaunch d a) s = .next (s.trap st 0xA v)) ∧
    (s.gang? s.cur.vr g = none → exec (.gkill d a) s = .next (s.retire (st.wx d 2))) ∧
    (∀ x, s.gang? s.cur.vr g = some x → x.launch.sup = true → st.sup = false → exec (.gkill d a) s = .next (s.retire (st.wx d 3))) ∧
    (∀ x, s.gang? s.cur.vr g = some x → (x.launch.sup = true → st.sup = true) →
      ∃ t, exec (.gkill d a) s = .next t ∧ t.gang? s.cur.vr g = none) ∧
    (st.sup = true → ∀ q, s.rank? st.selvr.toNat = some q → s.inTransit q.vr = false →
      (q.place = .fallow ∨ ∃ k, q.place = .resident k ∧ s.partOf k = s.partOfRank s.cur.vr) →
      (s.gang? q.vr g = none → exec (.kill d a) s = .next (s.retire (st.wx d 2))) ∧
      (∀ x, s.gang? q.vr g = some x → ∃ t, exec (.kill d a) s = .next t ∧ t.gang? q.vr g = none)) ∧
    (∀ x, s.gang? s.cur.vr g = some x → x.id ≠ s.cur.gang → x.cond = .waiting → x.source = .launch → x.launch.cen = false →
      x.launch.sup = false → s.cmds = [] → (∀ y ∈ r.gangs, y.id ≠ x.id → y.cond ≠ .waiting) →
      ∃ t st', exec (.gkill d a) s = .next t ∧ t.gang? s.cur.vr g = none ∧ t.strand? s.cur = some st' ∧
        (d ≠ 0 → st'.rx d = 0) ∧ s.SameMemory t ∧
        (st.sup = true → st.selvr.toNat = s.cur.vr → r.place ≠ .transit → exec (.kill d a) s = .next t)) ∧
    (v.getLsbD 63 = true → exec (.gstat d a) s = .next (s.retire (st.wx d (BitVec.ofNat 64
      (match r.completions[v.toNat % 64]? with | some c => c.value.toNat + (if c.abandoned then 65536 else 0) | none => 0))))) ∧
    (v.getLsbD 63 = false → exec (.gstat d a) s = .next (s.retire (st.wx d (match s.gang? s.cur.vr g with
      | some x => (match x.cond with
        | .waiting => 1 | .ready => 2 | .starting => 3 | .placed => 3 | .halting _ _ => 4 | .saved _ _ _ => 4)
      | none => 0))))

/-- SCHLD, SCHGO, SCHHALT, SCHSTAT and SLOTPOST (R98, R361, R362, R364). SCHLD of an aligned image inside the own
scratchpad, by either alias, completes: with 1 while the table is ready, busy or halting, with 2 for an illegal image,
else with 0 and the table loaded, its dynamic state cleared; an image that leaves the scratchpad raises SCRADDR, a
misaligned one ALIGN. SCHGO of a loaded or halted table posts the initial credits once, makes it ready, or done when
the last entry has been issued, clears the counters if asked, and completes with 0; otherwise with 1. SCHHALT halts a
ready table, makes a busy one halting, and completes with 0; otherwise with 1. SCHSTAT completes with the counters.
SLOTPOST of 1 to 255 activation or gradient slots in use frees the lowest bits, sends them to the neighbour and
completes; of more, of none, with reserved bits, without that neighbour or on an idle or faulted table it raises
ILLOP. -/
def Obligations.ScheduleInstructions : Prop :=
  ∀ (s : State) (st : Strand) (d a b : XReg) (r : Rank) (slot : Nat), s.strand? s.cur = some st → s.rank? s.cur.vr = some r →
    s.slotOf s.cur.vr = some slot →
    let t := r.sched
    let v := st.rx a
    let n := st.rx b
    (∀ at' : Nat, v.toNat = at' ∨ (s.cur.core < 256 ∧ v.toNat = 0x1000000 + s.cur.core * 0x80000 + at') → at' + 32 ≤ 0x80000 →
      let pad := fun (o n : Nat) => memBytes (s.slot slot).pads (s.cur.core * 0x80000 + (at' + o)) n
      let h : BitVec 256 := BitVec.ofNat 256 (leNat (memBytes (s.slot slot).pads (s.cur.core * 0x80000 + at') 32))
      let ents := unpackWords 256 (hdrNent h) (pad 32 (32 * hdrNent h))
      let recs := unpackWords 4096 (hdrNrec h) (pad (32 + 32 * hdrNent h) (512 * hdrNrec h))
      let size := 32 + 32 * hdrNent h + 512 * hdrNrec h
      let legal := headerLegal h = true ∧ (∀ e ∈ ents, entryLegal h e = true) ∧ ∀ k ∈ recs, blockLegal st.sup k = true
      (at' % 32 ≠ 0 → exec (.schld d a) s = .next (s.trap st 0xA v)) ∧
      (at' % 32 = 0 → 0x80000 < at' + size → exec (.schld d a) s = .next (s.trap st 0xB (v + BitVec.ofNat 64 (0x80000 - at')))) ∧
      (at' % 32 = 0 → at' + size ≤ 0x80000 →
        (t.st ∈ [SchedSt.ready, .busy, .halting] → exec (.schld d a) s = .next (s.retire (st.wx d 1))) ∧
        (t.st ∉ [SchedSt.ready, .busy, .halting] → ¬ legal → exec (.schld d a) s = .next (s.retire (st.wx d 2))) ∧
        (t.st ∉ [SchedSt.ready, .busy, .halting] → legal → exec (.schld d a) s = .next ((s.modSched r.vr fun q =>
          { q.clear with st := .loaded, header := h, entries := ents, recs := recs, supLoaded := st.sup }).retire (st.wx d 0))))) ∧
    (0x80000 ≤ v.toNat → v.toNat < 0x1000000 → exec (.schld d a) s = .next (s.trap st 0xB v)) ∧
    (t.st ∉ [SchedSt.loaded, .halted] → exec (.schgo d a) s = .next (s.retire (st.wx d 1))) ∧
    (t.st ∈ [SchedSt.loaded, .halted] → exec (.schgo d a) s = .next (((s.postCredits r.vr).modSched r.vr fun q =>
      { q with st := (if q.pos = q.entries.length then .done else .ready),
               bubin := (if v.getLsbD 0 then 0 else q.bubin), bubdn := (if v.getLsbD 0 then 0 else q.bubdn),
               bubst := (if v.getLsbD 0 then 0 else q.bubst) }).retire (st.wx d 0))) ∧
    (t.posted = true → s.postCredits r.vr = s) ∧
    (t.posted = false → s.postCredits r.vr = ((if t.dnv then (fun (u : State) => u.sendSlots r true t.ng) else id)
      ((if t.upv then (fun (u : State) => u.sendSlots r false t.na) else id) s)).modSched r.vr fun q => { q with posted := true }) ∧
    exec (.schhalt d) s = .next (match t.st with
      | .ready => (s.modSched r.vr fun q => { q with st := .halted }).retire (st.wx d 0)
      | .busy => (s.modSched r.vr fun q => { q with st := .halting }).retire (st.wx d 0)
      | .halting => s.retire (st.wx d 0)
      | _ => s.retire (st.wx d 1)) ∧
    exec (.schstat d) s = .next (s.retire (st.wx d (BitVec.ofNat 64 (t.ginu * 2 ^ 56 + t.ainu * 2 ^ 48 + t.gcr * 2 ^ 40
      + t.acr * 2 ^ 32 + t.stash * 2 ^ 24 + t.st.code * 2 ^ 16 + t.pos)))) ∧
    (let fits := 0 < n.toNat ∧ n.toNat < 256 ∧ t.st ≠ .idle ∧ t.st ≠ .fault
     (fits → v = 0 → n.toNat ≤ t.ainu → t.upv = true → exec (.slotpost a b) s = .next (((s.modSched r.vr fun q =>
        { q with arra := q.arra.drop n.toNat, ainu := q.ainu - n.toNat }).sendSlots r false n.toNat).retire st)) ∧
     (fits → v = 1 → n.toNat ≤ t.ginu → t.dnv = true → exec (.slotpost a b) s = .next (((s.modSched r.vr fun q =>
        { q with arrg := q.arrg.drop n.toNat, ginu := q.ginu - n.toNat }).sendSlots r true n.toNat).retire st)) ∧
     (¬ fits ∨ 2 ≤ v.toNat ∨ (v = 0 ∧ (t.ainu < n.toNat ∨ t.upv = false)) ∨ (v = 1 ∧ (t.ginu < n.toNat ∨ t.dnv = false)) →
       exec (.slotpost a b) s = .next (s.trap st 1 (s.wordVal (.slotpost a b)))))

/-- Placing, aging, starting, halting and completing a gang (R342, R343, R344, R345, R308, R314, R28, R340, R359).
GANG_PLACE of a slot whose resident rank is to be walked: every gang that the walk of the unit places, after the
pre-emptions that its first gang asks for, is starting, every other stands as the pre-emptions left it, and the walk
is over; a rank with one ready gang has it placed. PRIORITY_AGING of a gang that has been ready for 2^20 cycles gains
it one level. GANG_START of a starting gang for the first time, no boundary being under way, places it with every
strand at its entry point, the argument in x1 and all else at its start value; of a restored one places it with the
cores it was saved with. GANG_HALT of a halting gang writes its frame and saves it. GANG_COMPLETE of a placed gang
whose strands have all ended and whose commands have retired removes it, and the schedule table that posted it goes on
to its next entry; else nothing happens. -/
def Obligations.GangLifeCycle : Prop :=
  ∀ s : State,
    (∀ (slot vr : Nat) (r : Rank), (s.slot slot).occupant = some vr → s.rank? vr = some r → r.slot? = some slot → r.walk = true →
      let r1 := match r.walkOrder.head? with
        | some g => r.preempt g
        | none => r
      let ids := walkPlace r.walkOrder r1.heldCores []
      ∃ t, exec (.gangPlace slot) s = .next t ∧ (t.rank? vr).map (fun q => q.walk) = some false ∧
        (∀ i g, r.gang? i = some g → i ∈ ids → ∃ g', t.gang? vr i = some g' ∧ g'.cond = .starting ∧ g'.launch = g.launch) ∧
        (∀ i g, r1.gang? i = some g → i ∉ ids → t.gang? vr i = some g)) ∧
    (∀ (slot vr : Nat) (r : Rank) (g : Gang), (s.slot slot).occupant = some vr → s.rank? vr = some r →
      r.slot? = some slot → r.walk = true → r.gangs = [g] → g.cond = .ready → ∃ t g', exec (.gangPlace slot) s = .next t ∧
        t.gang? vr g.id = some g' ∧ g'.cond = .starting ∧ g'.launch = g.launch) ∧
    (∀ (vr gang : Nat), exec (.priorityAging vr gang) s = .next (s.modGang vr gang fun g =>
      if g.cond = .ready ∧ 2 ^ 20 ≤ g.readyCycles then { g with levels := g.levels + 1, readyCycles := g.readyCycles - 2 ^ 20 } else g)) ∧
    (∀ (vr gang : Nat) (g : Gang), s.gang? vr gang = some g → g.cond = .starting → g.cores = [] → s.startHeldFor vr = false → ∃ t g',
      exec (.gangStart vr gang) s = .next t ∧ t.gang? vr gang = some g' ∧ g'.cond = .placed ∧ g'.launch = g.launch ∧ s.SameMemory t ∧
      g'.cores.map (fun k => (k.coreno, k.member)) = g.launch.coreList ∧
      ∀ k ∈ g'.cores, ∀ (st : Strand) (i : Nat), (st, i) ∈ [(k.l, 0), (k.c, 1), (k.s, 2)] →
        st.pc = g.launch.entryPoint k.member i ∧ st.rx 1 = g.launch.arg ∧ (∀ j : XReg, j ≠ 1 → st.rx j = 0) ∧ st.sup = g.launch.sup ∧
        st.tlevel = 0 ∧ st.tvec = 0 ∧ st.ended = false ∧ st.dzt = false ∧ st.fpflags = 0) ∧
    (∀ (vr gang : Nat) (g : Gang), s.gang? vr gang = some g → g.cond = .starting → g.cores ≠ [] → ∃ t g',
      exec (.gangStart vr gang) s = .next t ∧ t.gang? vr gang = some g' ∧ g'.cond = .placed ∧ g'.launch = g.launch ∧
      g'.cores = g.cores.map Core.restored ∧ s.SameMemory t) ∧
    (∀ (vr gang : Nat) (g : Gang), s.gang? vr gang = some g → (g.cond ≠ .starting ∨ (g.cores = [] ∧ s.startHeldFor vr = true)) →
      exec (.gangStart vr gang) s = .next s) ∧
    (∀ (vr gang slot frame why : Nat) (g : Gang), s.gang? vr gang = some g → s.slotOf vr = some slot →
      g.cond = .halting frame why → ∃ t g', exec (.gangHalt vr gang) s = .next t ∧ t.gang? vr gang = some g' ∧
        g'.cond = .saved frame why false ∧ g'.launch = g.launch) ∧
    (∀ (vr gang : Nat) (g : Gang) (r : Rank), s.gang? vr gang = some g → s.rank? vr = some r →
      let u := s.modRank vr fun q => ((q.dropGang gang).retireGang g.launch false).settleAll
      (s.gangDone vr g = false → exec (.gangComplete vr gang) s = .next s) ∧
      (s.gangDone vr g = true → (∀ k, g.source ≠ .sched k) → exec (.gangComplete vr gang) s = .next u) ∧
      (s.gangDone vr g = true → (∀ k, g.source ≠ .sched k) → (∀ y ∈ r.gangs, y.cond ≠ .waiting) → ∃ t,
        exec (.gangComplete vr gang) s = .next t ∧ t.gang? vr gang = none ∧ s.SameMemory t) ∧
      (∀ k e, s.gangDone vr g = true → g.source = .sched k → r.sched.headEntry = some e → ¬ (entKind e = 2 ∧ r.sched.stash = 0) → ∃ t r',
        exec (.gangComplete vr gang) s = .next t ∧ t.rank? vr = some r' ∧ r'.sched.pos = r.sched.pos + 1 ∧ r'.sched.outst = false ∧
        r'.sched.st = (if r.sched.st = SchedSt.halting then SchedSt.halted
          else if r.sched.pos + 1 = r.sched.entries.length then .done else .ready)))

/-- The host queue of a slot (R352, R353, R354). HQBASE_WRITE with a legal LOGN sets the base, with LOGN 13 or more it
sets ERR and the reason 0xFF; HQ_TAIL_WRITE sets TAIL, HQ_ENABLE EN and KILL, HQ_ERR_CLEAR clears ERR. HOST_QUEUE_POST
with an enabled, non-empty queue of a resident rank with room reads the entry at HEAD from host memory, advances HEAD
and posts the gang, or sets ERR with the reason of the refusal. HQ_TEARDOWN reads every entry, so that HEAD reaches
TAIL, disables the queue and keeps the KILL bit; where the queue is empty and none of its gangs exist it changes no
rank. -/
def Obligations.HostQueueRegistersAndPosting : Prop :=
  ∀ (s : State) (slot : Nat), slot < 16 →
    let q := s.slot slot
    (∀ v : BitVec 64, v.toNat % 16 < 13 → exec (.hqbaseWrite slot v) s = .next (s.modSlot slot fun k => { k with hqbase := putBits v 4 5 0 })) ∧
    (∀ v : BitVec 64, 13 ≤ v.toNat % 16 → exec (.hqbaseWrite slot v) s = .next (s.modSlot slot fun k =>
      { k with hqctl := putBits (putBits k.hqctl 8 8 0xFF) 16 1 1 })) ∧
    (∀ v : BitVec 16, ∃ t, exec (.hqTailWrite slot v) s = .next t ∧ (t.slot slot).hqTail = v ∧ (t.slot slot).hqHead = q.hqHead ∧
      t.ranks = s.ranks ∧ s.SameMemory t) ∧
    (∀ v : BitVec 64, ∃ t, exec (.hqEnable slot v) s = .next t ∧ (t.slot slot).hqEn = v.getLsbD 0 ∧ (t.slot slot).hqctl.getLsbD 2 = v.getLsbD 2 ∧
      (∀ i, i ≠ 0 → i ≠ 2 → (t.slot slot).hqctl.getLsbD i = q.hqctl.getLsbD i) ∧ t.ranks = s.ranks ∧ s.SameMemory t) ∧
    (∃ t, exec (.hqErrClear slot) s = .next t ∧ (t.slot slot).hqctl.getLsbD 16 = false ∧
      (∀ i, i ≠ 16 → (t.slot slot).hqctl.getLsbD i = q.hqctl.getLsbD i) ∧ t.ranks = s.ranks ∧ s.SameMemory t) ∧
    (∀ (vr : Nat) (r : Rank), q.occupant = some vr → s.rank? vr = some r → r.slot? = some slot → q.hqEn = true → bitAt q.hqctl 1 = false →
      q.hqHead ≠ q.hqTail → q.hqLogn ≠ 0 → r.pendingGangs < 256 →
      let adv := s.modSlot slot fun k => { k with hqptr := putBits k.hqptr 0 16 (k.hqHead + 1).toNat }
      (∀ n, r.refusal (s.hostEntry slot q.hqHead) true none = some n → exec (.hostQueuePost slot) s =
        .next (adv.modSlot slot fun k => { k with hqctl := putBits (putBits k.hqctl 8 8 n) 16 1 1 })) ∧
      (r.refusal (s.hostEntry slot q.hqHead) true none = none → exec (.hostQueuePost slot) s =
        .next (adv.post r.vr (s.hostEntry slot q.hqHead) (.hostQueue slot)))) ∧
    (q.hqEn = false ∨ q.hqHead = q.hqTail ∨ (∀ vr r, q.occupant = some vr → s.rank? vr = some r → r.slot? ≠ some slot) →
      exec (.hostQueuePost slot) s = .next s) ∧
    (∀ kill : Bool, ∃ t, exec (.hqTeardown slot kill) s = .next t ∧ (t.slot slot).hqEn = false ∧ (t.slot slot).hqctl.getLsbD 1 = false ∧
      (t.slot slot).hqctl.getLsbD 2 = kill ∧ (t.slot slot).hqHead = q.hqTail ∧ (t.slot slot).hqTail = q.hqTail) ∧
    (∀ kill : Bool, q.hqHead = q.hqTail → (∀ r ∈ s.ranks, ∀ g ∈ r.gangs, g.source ≠ .hostQueue slot) → ∃ t,
      exec (.hqTeardown slot kill) s = .next t ∧ (t.slot slot).hqEn = false ∧ (t.slot slot).hqctl.getLsbD 2 = kill ∧ t.ranks = s.ranks)

/-- Head issue, bubbles, arrivals and slot posts of the schedule table (R358, R359, R360, R361, R377, R414).
SCHED_HEAD_ISSUE of a ready table of a resident rank whose head entry meets its input, output and stash conditions,
with room in the unit and a record that is not refused, takes the credit and the stash slot, makes the table busy and
posts the record with the argument and priority of the entry, and a refused record faults the table; a head that
misses a condition is not issued and BUBBLE_CYCLE counts its first failing condition. SCHEDULE_ARRIVAL of the current
step from the neighbour sets the bit and uses a slot, of another step does nothing; SLOT_POST of the current step from
the neighbour adds its count to the credit; a bit set already, a slot too many and a credit above 255 fault the table.
A message for another package is passed on, one for a rank in transit is dropped and counted. -/
def Obligations.ScheduleTableEvents : Prop :=
  ∀ (s : State) (vr : Nat) (r : Rank), s.rank? vr = some r → r.vr = vr →
    let t := r.sched
    (∀ e, t.headEntry = some e → t.st = .ready → r.slot?.isSome = true → t.waitCause e = none → r.pendingGangs < 256 →
      let b := blockRec ((t.recs[entRec e]?).getD 0)
      let l := { b with raw := putBits (putBits b.raw 192 64 (entArg e)) 36 3 (entPri e) }
      (∀ n, r.refusal l t.supLoaded none = some n → exec (.schedHeadIssue vr) s = .next ((s.modSched vr fun q =>
        { q with st := .busy, outst := true, acr := (if entOut e = 1 then q.acr - 1 else q.acr),
                 gcr := (if entOut e = 2 then q.gcr - 1 else q.gcr),
                 stash := (if entKind e = 1 then q.stash + 1 else q.stash) }).schedFault vr 5)) ∧
      (r.refusal l t.supLoaded none = none → exec (.schedHeadIssue vr) s = .next ((s.modSched vr fun q =>
        { q with st := .busy, outst := true, acr := (if entOut e = 1 then q.acr - 1 else q.acr),
                 gcr := (if entOut e = 2 then q.gcr - 1 else q.gcr),
                 stash := (if entKind e = 1 then q.stash + 1 else q.stash) }).post vr l (.sched t.pos)))) ∧
    (∀ e c, t.headEntry = some e → t.st = .ready → t.waitCause e = some c → exec (.schedHeadIssue vr) s = .next s ∧
      exec (.bubbleCycle vr) s = .next (s.modSched vr fun q => match c with
        | 0 => { q with bubin := q.bubin + 1 }
        | 1 => { q with bubdn := q.bubdn + 1 }
        | _ => { q with bubst := q.bubst + 1 })) ∧
    (∀ (h : DHdr) (grad : Bool) (n : Nat) (step : BitVec 64),
      (h.dpkg ≠ s.ownPkg → exec (.scheduleArrival h grad n step) s = .next (s.forward 32 (.schedArrival h grad n step)) ∧
        exec (.slotPost h grad n step) s = .next (s.forward 32 (.slotPost h grad n step))) ∧
      (h.dpkg = s.ownPkg → s.inTransit h.dvr = true →
        exec (.scheduleArrival h grad n step) s = .next { s with dropped := s.dropped + 1 } ∧
        exec (.slotPost h grad n step) s = .next { s with dropped := s.dropped + 1 }) ∧
      (h.dpkg = s.ownPkg → s.inTransit vr = false → h.dvr = vr → (t.st = .idle ∨ step ≠ r.stepno) →
        exec (.scheduleArrival h grad n step) s = .next s ∧ exec (.slotPost h grad n step) s = .next s)) ∧
    (∀ (h : DHdr) (mb : Nat) (step : BitVec 64), h.dvr = vr → h.dpkg = s.ownPkg → s.inTransit vr = false → t.st ≠ .idle →
      (step = r.stepno → t.upv = true → h.svr = t.upvr → t.st ≠ .fault →
        (mb ∈ t.arra → exec (.scheduleArrival h false mb step) s = .next (s.schedFault vr 1)) ∧
        (mb ∉ t.arra → t.na ≤ t.ainu → exec (.scheduleArrival h false mb step) s = .next (s.schedFault vr 2))) ∧
      (step = r.stepno → t.upv = true → h.svr = t.upvr → mb ∉ t.arra → t.ainu < t.na →
        exec (.scheduleArrival h false mb step) s =
          .next (s.modSched vr fun q => { q with arra := setBitIn q.arra mb, ainu := q.ainu + 1 })) ∧
      (step = r.stepno → t.dnv = true → h.svr = t.dnvr → mb ∉ t.arrg → t.ginu < t.ng →
        exec (.scheduleArrival h true mb step) s =
          .next (s.modSched vr fun q => { q with arrg := setBitIn q.arrg mb, ginu := q.ginu + 1 }))) ∧
    (∀ (h : DHdr) (n : Nat) (step : BitVec 64), h.dvr = vr → h.dpkg = s.ownPkg → s.inTransit vr = false → t.st ≠ .idle → step = r.stepno →
      (t.dnv = true → h.svr = t.dnvr → t.st ≠ .fault → 255 < t.acr + n →
        exec (.slotPost h false n step) s = .next (s.schedFault vr 3)) ∧
      (t.dnv = true → h.svr = t.dnvr → t.acr + n ≤ 255 →
        exec (.slotPost h false n step) s = .next (s.modSched vr fun q => { q with acr := q.acr + n })) ∧
      (t.upv = true → h.svr = t.upvr → t.gcr + n ≤ 255 →
        exec (.slotPost h true n step) s = .next (s.modSched vr fun q => { q with gcr := q.gcr + n })))

/-- A bundle waits, traps, freezes or issues whole; pending results land (R150, R154, R155, R144, R157, R65, R51, R58,
R201). For a bundle of C with unconditional guards, no active loop and delay d: before cycle b + 1 + d nothing
happens; then an illegal M, V or X word raises ILLOP with its word number and bits; a bundle of an ADDI in X alone
issues: rd holds the sum, the pc advances by 16, and no tile, accumulator, queue, pending result, other strand or
memory changes; a TFILL.I32 to a tile in V alone with the V column free and room issues: the tile is live, its result
is pending with offset ceil(rows / 2) + 2 and the column is occupied for ceil(rows / 2) cycles; a TMOV from an empty
load queue raises QCLOSED when the queue is closed and freezes the pipeline when it is not. A bundle whose checks let
it issue issues whole: the results pending before stay in order, tiles it frees and does not write are free.
PENDING_WRITE_LAND lands the oldest result whose offset is 0 and that alone leaves the queue: a tile of the same
allocation, or a predicate, takes the masked value, a tile allocated anew keeps its own. -/
def Obligations.BundleIssueAndLanding : Prop :=
  (∀ (s : State) (k : Core) (d : Nat) (m v x : BitVec 32), s.cur.strand = .c → s.core? s.cur = some k → d < 64 →
    k.c.lp0.active = false → k.c.lp1.active = false → k.c.ended = false →
    let h : BitVec 32 := BitVec.ofNat 32 (d * 2 ^ 26 + 0x1FFFFF)
    let queued := (k.pwq.filter fun p => !p.fromX).length
    (k.sinceIssue < 1 + d → exec (.bundleIssue h m v x) s = .next s) ∧
    (1 + d ≤ k.sinceIssue →
      (∀ u a, s.bundlePlan k.c k h m v x = .issue u → u.core? s.cur = some a → ∃ t k', exec (.bundleIssue h m v x) s = .next t ∧
        t.core? s.cur = some k' ∧ k'.sinceIssue = 0 ∧ k'.frozen = false ∧ k'.l = a.l ∧ k'.s = a.s ∧ k'.c.x = a.c.x ∧ k.pwq <+: k'.pwq ∧
        ∀ n ∈ bundleFrees m v, n < 16 → n ∉ bundleTiles m v → k'.tiles[n]? = some none) ∧
      (m ≠ 0 → mLegal (colWord m) = false → exec (.bundleIssue h m v x) s = .next (s.trap k.c 1 (tvalWord 1 m))) ∧
      (v ≠ 0 → vLegal (colWord v) 127 = false → exec (.bundleIssue h 0 v 0) s = .next (s.trap k.c 1 (tvalWord 2 v))) ∧
      (xInstr x = none → exec (.bundleIssue h 0 0 x) s = .next (s.trap k.c 1 (tvalWord 3 x))) ∧
      (∀ (rd ra : XReg) (i : BitVec 16), queued ≤ 16 → ∃ t k',
        exec (.bundleIssue h 0 0 (BitVec.ofNat 32 ((encode (.addi rd ra i)).headD 0))) s = .next t ∧ t.core? s.cur = some k' ∧
        (∀ q : XReg, k'.c.rx q = if q ≠ 0 ∧ q = rd then BitVec.ofInt 64 ((k.c.rx ra).toInt + i.toInt) else k.c.rx q) ∧
        k'.c.pc = k.c.pc + 16 ∧ k'.c.p = k.c.p ∧ k'.sinceIssue = 0 ∧ k'.tiles = k.tiles ∧ k'.accs = k.accs ∧ k'.ofile = k.ofile ∧
        k'.tq = k.tq ∧ k'.sq = k.sq ∧ k'.pwq = k.pwq ∧ k'.l = k.l ∧ k'.s = k.s ∧ k'.shape = k.shape ∧ s.SameMemory t) ∧
      (∀ (r imm : Nat), r < 16 → imm < 2 ^ 14 → k.eszCode = 2 → k.vBusy = 0 → queued < 16 → ∃ t k' p tl,
        exec (.bundleIssue h 0 (BitVec.ofNat 32 (0x32 * 2 ^ 25 + r * 2 ^ 18 + imm * 2 ^ 4 + 2)) 0) s = .next t ∧
        t.core? s.cur = some k' ∧ k'.tiles[r]? = some (some tl) ∧ k'.pwq = k.pwq ++ [p] ∧ p.left = (k.rows + 1) / 2 + 2 ∧
        p.writes.map (fun w => w.dest) = [.tile r tl.alloc, .vlat] ∧ k'.vBusy = (k.rows + 1) / 2 ∧ k'.mBusy = k.mBusy ∧
        k'.c.pc = k.c.pc + 16 ∧ k'.c.x = k.c.x ∧ s.SameMemory t) ∧
      (∀ (r q : Nat), r < 16 → q < 8 → k.eszCode = 2 → k.vBusy = 0 → queued < 16 → (k.tqueue q).ents = [] →
        let w : BitVec 32 := BitVec.ofNat 32 (0x31 * 2 ^ 25 + r * 2 ^ 18 + (96 + q) * 2 ^ 11)
        ((k.tqueue q).closed = true → exec (.bundleIssue h 0 w 0) s = .next (s.trap k.c 6 (k.closedVal q))) ∧
        ((k.tqueue q).closed = false → exec (.bundleIssue h 0 w 0) s =
          .next (s.modCore s.cur fun k => { k with frozen := true }))))) ∧
  (∀ (s : State) (r : SRef) (k : Core), s.core? r = some k →
    (∀ p, k.pwq.find? (fun p => p.left == 0) = some p → ∃ t k', exec (.pendingWriteLand r) s = .next t ∧ t.core? r = some k' ∧
      k'.pwq = k.pwq.erase p ∧ k'.l = k.l ∧ k'.s = k.s ∧ k'.c.x = k.c.x ∧ k'.c.pc = k.c.pc ∧ s.SameMemory t) ∧
    ((∀ p ∈ k.pwq, p.left ≠ 0) → ∃ t, exec (.pendingWriteLand r) s = .next t ∧ t.core? r = some k ∧ s.SameMemory t) ∧
    (∀ p rest w, k.pwq = p :: rest → p.left = 0 → p.writes = [w] → p.accum = none → ∃ t k',
      exec (.pendingWriteLand r) s = .next t ∧ t.core? r = some k' ∧ k'.pwq = rest ∧
      k'.c.fpflags = (k.c.fpflags ||| p.flags) &&& ~~~p.clear ∧ s.SameMemory t ∧
      (∀ n a tl, w.dest = .tile n a → k.tiles[n]? = some (some tl) →
        (tl.alloc = a → k'.tiles[n]? = some (some { tl with buf := bufMerge tl.buf w.value w.mask })) ∧
        (tl.alloc ≠ a → k'.tiles = k.tiles)) ∧
      (∀ i, w.dest = .pred i → i < 96 → ∀ b, b < 1024 → (k'.c.p[i]?.getD 0).getLsbD b =
        if w.mask.getLsbD b then w.value.getLsbD b else (k.c.p[i]?.getD 0).getLsbD b)))

/-- Phase boundaries, quiescent commits and step boundaries (R31, R33, R34, R35, R36, R99, R122, R123, R370, R415, R262).
With every VR held once: PHASE_BOUNDARY of an uncoupled rank that is ready and has no store to another package left to
send makes the boundary: PHASENO increments, nothing stays buffered, the phase-start copy of its scratchpads is what
they hold, no strand still waits for the boundary; the bytes of a single buffered store to memory stand in memory and
no other byte changes. With such stores it sends them first; a rank that is not ready, or is coupled, is as before.
QUIESCENT_COMMIT of a rank that has quiesced or holds at its step commits without a new PHASENO. Both, for a rank held
elsewhere, leave nothing of it at its homes here. STEP_ARRIVAL of a ready rank marks it arrived, of one held elsewhere
records it, of another changes nothing. STEP_COLLECTIVE_COMPLETE with every rank arrived increments STEPNO of each and
lets the held strands go, with one missing does nothing. BOUNDARY_FLIT_SEND of a group with ranks here keeps the least
arrival byte, and sends it where packages share the group (ranks with stores to other packages send these, and their
byte is 0); BOUNDARY_RESULT of value 1 makes the boundary of the ranks of the group, of value 2 commits without a new
PHASENO, of 0 or above the byte kept makes none. -/
def Obligations.PhaseAndStepBoundaries : Prop :=
  ∀ s : State, (s.ranks.map Rank.vr).Nodup →
    let reopened := fun (t : State) => t.ranks.map (fun (r : Rank) => { r with closing := false }) = s.ranks.map fun (r : Rank) => { r with closing := false }
    (∀ (vr slot : Nat) (r : Rank), s.rank? vr = some r → r.slot? = some slot → slot < 16 → r.coupling = none →
      (s.phaseReady r = true → r.peerWrites = [] → ∃ t q, exec (.phaseBoundary vr) s = .next t ∧ t.rank? vr = some q ∧
        q.phaseno = r.phaseno + 1 ∧ q.sbuf = [] ∧ q.engView = [] ∧ q.posted = [] ∧ q.gangs.map Gang.id = r.gangs.map Gang.id ∧
        q.closing = false ∧ q.ovfForce = r.ovf ∧ (t.slot slot).shadow = (t.slot slot).pads ∧
        (∀ g ∈ q.gangs, ∀ st ∈ g.strands, st.ended = false → st.wait ≠ some .phase ∧ st.wait ≠ some .step) ∧
        (∀ (b : BStore) (a : Nat), r.sbuf = [b] → b.dst = .phys a → r.engView = [] → r.posted = [] → s.home = [] → s.held = [] →
          Memory.wf s.mem = true → (∀ i, i < b.bytes.length → physExists (a + i) = true) →
          ∀ x, physRead t.mem x = if a ≤ x ∧ x < a + b.bytes.length then b.bytes[x - a]?.getD 0 else physRead s.mem x)) ∧
      (s.phaseReady r = true → r.peerWrites ≠ [] → exec (.phaseBoundary vr) s = .next (s.flushPeers r)) ∧
      (s.phaseReady r = false → exec (.phaseBoundary vr) s = .next s) ∧
      ((r.quiesced = true ∨ r.stepHeld = true) → s.uncommitted r = true →
        (r.peerWrites = [] → ∃ t q, exec (.quiescentCommit vr) s = .next t ∧
          t.rank? vr = some q ∧ q.phaseno = r.phaseno ∧ q.sbuf = [] ∧ q.engView = [] ∧ q.posted = [] ∧ q.gangs = r.gangs ∧
          (t.slot slot).shadow = (t.slot slot).pads) ∧
        (r.peerWrites ≠ [] → exec (.quiescentCommit vr) s = .next (s.flushPeers r))) ∧
      ((r.quiesced = false ∧ r.stepHeld = false) ∨ s.uncommitted r = false → exec (.quiescentCommit vr) s = .next s)) ∧
    (∀ (vr : Nat) (r : Rank), s.rank? vr = some r →
      (r.coupling ≠ none → exec (.phaseBoundary vr) s = .next s ∧ exec (.quiescentCommit vr) s = .next s) ∧
      (r.slot? = none → exec (.quiescentCommit vr) s = .next s)) ∧
    (∀ vr : Nat, s.rank? vr = none → ∀ i ∈ [Instr.phaseBoundary vr, .quiescentCommit vr], ∃ t, exec i s = .next t ∧ t.ranks = s.ranks ∧
      (∀ e ∈ t.home, vr ∉ e.vrs) ∧ ∀ h ∈ t.held, h.vr ≠ vr) ∧
    (∀ (vr : Nat) (r : Rank) (h : Bool), s.rank? vr = some r →
      (s.stepReady r = true → ∃ t q, exec (.stepArrival { job := r.job, vr := vr } h) s = .next t ∧ t.rank? vr = some q ∧ q.stepSt = .arrived ∧
        q.stepno = r.stepno ∧ q.gangs = r.gangs ∧ s.SameMemory t) ∧
      (r.place = .transit → exec (.stepArrival { job := r.job, vr := vr } h) s = .next (s.modRank vr fun q => { q with stephold := h })) ∧
      (∀ job, job ≠ r.job ∨ (s.stepReady r = false ∧ r.place ≠ .transit) → exec (.stepArrival { job := job, vr := vr } h) s = .next s)) ∧
    (∀ (job vr : Nat) (h : Bool), s.rank? vr = none → exec (.stepArrival { job := job, vr := vr } h) s = .next { s with jobs := s.jobs.map fun j =>
      if j.id = job ∧ vr < j.n then { j with arrived := (j.arrived.filter fun v => v != vr) ++ (if h then [] else [vr]) } else j }) ∧
    (∀ (job : Nat) (j : Job), s.jobs.find? (fun j => j.id == job) = some j →
      ((∀ vr, vr < j.n → s.rankArrived j vr = true) → ∃ t, exec (.stepCollectiveComplete job) s = .next t ∧
        ∀ r ∈ s.ranks, r.job = job → ∃ q, t.rank? r.vr = some q ∧ q.stepno = r.stepno + 1 ∧ q.stepSt = .running ∧
          ∀ g ∈ q.gangs, ∀ st ∈ g.strands, st.ended = false → st.wait ≠ some .held) ∧
      ((∃ vr, vr < j.n ∧ s.rankArrived j vr = false) → exec (.stepCollectiveComplete job) s = .next s)) ∧
    (∀ job : Nat, s.jobs.find? (fun j => j.id == job) = none → exec (.stepCollectiveComplete job) s = .next s) ∧
    (∀ group : Nat, s.groupRanks group = [] → exec (.boundaryFlitSend group) s = .next s) ∧
    (∀ group : Nat, s.groupRanks group ≠ [] → ∃ t v,
      exec (.boundaryFlitSend group) s = .next t ∧ t.fabric.bytes.find? (fun e => e.1 == group) = some (group, v) ∧
      (∀ r ∈ s.groupRanks group, v ≤ s.arrivalByte r) ∧ v ≤ 2 ∧ (v < 2 → ∃ r ∈ s.groupRanks group, v = s.arrivalByte r) ∧
      (∀ r ∈ s.groupRanks group, s.arrivalByte r ≠ 0 → (t.rank? r.vr).map Rank.closing = some true) ∧
      ((∀ r ∈ s.groupRanks group, r.peerWrites = []) → reopened t ∧ s.SameMemory t ∧
        (s.groupAway group = true → ∀ fid, s.boundaryFid group = some fid → ∃ f, t.inputs = s.inputs ++ [.scheduledFlitArrive 32 f] ∧
          f.fid = fid ∧ f.payload.toNat % 256 = v))) ∧
    (∀ group v : Nat, s.fabric.bytes.find? (fun e => e.1 == group) = none → exec (.boundaryResult group v) s = .next s) ∧
    (∀ group sent : Nat, s.fabric.bytes.find? (fun e => e.1 == group) = some (group, sent) →
      (1 ≤ sent → ∃ t, exec (.boundaryResult group 1) s = .next t ∧ ∀ r ∈ s.groupRanks group,
        (t.rank? r.vr).map (fun q => (q.phaseno, q.sbuf)) = some (r.phaseno + 1, [])) ∧
      (2 ≤ sent → ∃ t, exec (.boundaryResult group 2) s = .next t ∧ ∀ r ∈ s.groupRanks group,
        (t.rank? r.vr).map (fun q => (q.phaseno, q.sbuf)) = some (r.phaseno, [])) ∧
      (∀ v, v = 0 ∨ 2 < v ∨ sent < v → ∃ t, exec (.boundaryResult group v) s = .next t ∧ reopened t ∧
        (∀ r ∈ t.ranks, r.coupling = some group → r.closing = false) ∧ s.SameMemory t))

/-- A copy starts, moves 64 bytes at a time and retires with its bytes; an engine reset (R255, R256, R267, R268, R269,
R270, R271, R273, R453). COPY_COMMAND starts a queued copy that is the first of its strand in its engine and whose
gang is on its cores, and asks other packages for the source bytes that it lacks; any other copy stays. COPY_RETIRE of
a running one waits while the next bytes have not come; else it moves at most 64 bytes of the row and goes on to the
next ones. Source bytes that have not changed since the submission arrive as they are: those into the own scratchpad
of the issuing core stand there at once, and no other byte changes; those into memory, host memory or another package
are kept until the command retires. After the last row the command is removed, its pins are released and what it kept
joins the view of the core with memory as before; with bytes for other packages it first sends those and waits until
they have performed. A follow-on stream then runs on its queue where the binding is legal, else it faults.
ENGINE_RESET leaves no command of the engine, and in every core it serves the record of the engine is 0, no marker
names it and no armed join waits for it. -/
def Obligations.CopyCommandsAndReset : Prop :=
  ∀ s : State,
    (∀ (c : Cmd) (src dst : Space) (rlen nrow : Nat) (sstr dstr : Int) (follow : Option (Nat × Nat)) (data : List (Option Byte)) (row byte : Nat),
      s.cmd? c.id = some c → c.body = .copy src dst rlen nrow sstr dstr follow data row byte →
      (c.st = .queued → s.cmdLive c = true → s.cmdFirst c = true →
        (none ∉ data → exec (.copyCommand c.id) s = .next (s.modCmd c.id fun c => { c with st := .running })) ∧
        ∃ t c', exec (.copyCommand c.id) s = .next t ∧ t.cmd? c.id = some c' ∧ c' = { c with st := .running } ∧ s.SameMemory t ∧
          ∀ r, s.rank? c.by'.vr = some r → ∃ q news, t.rank? c.by'.vr = some q ∧ q.accesses = r.accesses ++ news ∧
            ∀ a ∈ news, ∃ pos n, a.op = .cmdLoad c.id pos n) ∧
      (c.st ≠ .queued ∨ s.cmdLive c = false ∨ s.cmdFirst c = false → exec (.copyCommand c.id) s = .next s) ∧
      (c.st ≠ .running ∨ s.cmdLive c = false ∨ s.cmdFirst c = false → exec (.copyRetire c.id) s = .next s) ∧
      (c.st = .running → s.cmdLive c = true → s.cmdFirst c = true →
        (c.ending = false → row < nrow →
          (none ∈ (data.drop (row * rlen + byte)).take (min 64 (rlen - byte)) → exec (.copyRetire c.id) s = .next s) ∧
          (∀ vs : List Byte, (data.drop (row * rlen + byte)).take (min 64 (rlen - byte)) = vs.map some →
            (∃ t c', exec (.copyRetire c.id) s = .next t ∧ t.cmd? c.id = some c' ∧ c'.body = .copy src dst rlen nrow sstr dstr follow data
              (if rlen ≤ byte + 64 then row + 1 else row) (if rlen ≤ byte + 64 then 0 else byte + 64)) ∧
            (∀ slot, s.slotOf c.by'.vr = some slot → slot < 16 → Memory.wf (s.slot slot).pads = true → c.spoiled = [] →
              (∀ i w, i < vs.length → s.readLoc c.by'.vr c.by'.core slot (copySource c.by'.core src sstr row (byte + i)) = some w →
                vs[i]? = some w) →
              (∀ o, ((dst.plus ((row : Int) * dstr)).plus byte).toStore c.by'.core = .scratch (c.by'.core * 0x80000 + o) →
                o + vs.length ≤ 0x80000 → ∃ t c', exec (.copyRetire c.id) s = .next t ∧ t.cmd? c.id = some c' ∧ c'.wrote = c.wrote ∧
                t.mem = s.mem ∧ t.ranks = s.ranks ∧
                ∀ x, memRead (t.slot slot).pads x = if c.by'.core * 0x80000 + o ≤ x ∧ x < c.by'.core * 0x80000 + o + vs.length
                  then vs[x - (c.by'.core * 0x80000 + o)]?.getD 0 else memRead (s.slot slot).pads x) ∧
              (∀ (ap : BitVec 2) (pr a : Nat), (dst.plus ((row : Int) * dstr)).plus byte = .glob ap pr a → ∃ t c',
                exec (.copyRetire c.id) s = .next t ∧ t.cmd? c.id = some c' ∧
                c'.wrote = c.wrote ++ runWrites c.by'.core (.glob ap pr a) vs ∧ s.SameMemory t ∧ t.ranks = s.ranks)))) ∧
        (c.ending = false → nrow ≤ row → peerRuns c.wrote ≠ [] → ∃ t, exec (.copyRetire c.id) s = .next t ∧
          t.cmd? c.id = some { c with ending := true } ∧ s.SameMemory t ∧
          ∀ r, s.rank? c.by'.vr = some r → ∃ q news, t.rank? c.by'.vr = some q ∧ q.accesses = r.accesses ++ news ∧
            news.map Access.op = (peerRuns c.wrote).map fun p => .cmdStore c.id p.2.2) ∧
        (c.ending = true ∨ (nrow ≤ row ∧ peerRuns c.wrote = []) →
          (s.cmdAway c = true → exec (.copyRetire c.id) s = .next s) ∧
          (s.cmdAway c = false → (∀ w ∈ c.wrote, ownPad c.by'.core w.dst = false) →
            ∃ u, u = s.retireCmd c c.wrote ∧ u.cmd? c.id = none ∧ u.locks = c.pins.foldl releasePin s.locks ∧ s.SameMemory u ∧
            (∀ r, s.rank? c.by'.vr = some r → ∃ q, u.rank? c.by'.vr = some q ∧ q.sbuf = r.sbuf ∧ q.engView = r.engView ++
              (if c.wrote = [] then [] else [{ core := c.by'.core, strand := c.by'.strand, order := c.order, bytes := c.wrote }])) ∧
            (follow = none → exec (.copyRetire c.id) s = .next u) ∧
            ∀ z q, follow = some (z, q) → exec (.copyRetire c.id) s = .next (u.followOn c dst z q c.wrote) ∧
              ∀ (o slot : Nat) (k : Core), dst.toStore c.by'.core = .scratch (c.by'.core * 0x80000 + o) → o < 0x80000 → z < 16 →
                s.core? { c.by' with strand := .l } = some k → s.slotOf c.by'.vr = some slot →
                ∃ k', (u.followOn c dst z q c.wrote).core? { c.by' with strand := .l } = some k' ∧
                  (∀ k'', k.bindStream z q (s.descAt c.by'.vr c.by'.core (k.stream z).descAddr) = .ok k'' →
                    (k'.stream z).st = .running ∧ (k'.stream z).q = q) ∧
                  (∀ e, k.bindStream z q (s.descAt c.by'.vr c.by'.core (k.stream z).descAddr) = .error e →
                    (k'.stream z).st = .faulted))))) ∧
    (∀ e slot : Nat, e < 37 → ∃ t, exec (.engineReset e slot) s = .next t ∧
      (∀ c ∈ t.cmds, c ∈ s.cmds ∧ ¬ (c.engine = e ∧ (e ≠ 32 ∨ c.slot = slot))) ∧
      (∀ c ∈ s.cmds, ¬ (c.engine = e ∧ (e ≠ 32 ∨ c.slot = slot)) → c ∈ t.cmds) ∧
      ∀ r ∈ t.ranks, r.servedBy e slot = true → ∀ g ∈ r.gangs, ∀ k ∈ g.cores, ∀ st ∈ [k.l, k.s],
        st.recs[e]? = some 0 ∧ (∀ m ∈ st.markers, m.engine ≠ e) ∧
        ∀ j ∈ st.joins.toList, ∀ mask m, j = .armed mask m → bitAt mask e = false)

/-- Graphs, ops and trees of the collective engine (R268, R270, R271, R274, R277, R278, R280, R281, R282, R284, R285).
GRAPH_LOAD of a record whose counts and CRC hold fills the slot, another leaves it empty and is reported.
COLLECTIVE_COMMAND starts a queued command as COPY_COMMAND does. COLL_OP_START of a ready op with no ready op before
it, whose source has come: a RECV, MERGE or COPY only runs; a SEND or PERMUTE to a rank here puts its elements, as the
op reads them, into the landing area as one whole chunk and is sent, one to a rank elsewhere waits to be accepted; a
REDUCE gives its leaf to the node here that consumes it and is sent, or over a furrow. COLL_OP_COMPLETE moves 64
bytes; the last of them completes a sent SEND or REDUCE, a COPY, a RECV or MERGE with a chunk for it, a PERMUTE that
is sent and has received (or is staged and has a chunk), decrements its successors and, with the last op of the graph,
retires the command or waits for its writes at another package; otherwise the op waits. A RECV with one chunk writes
it. COLLECTIVE_CHUNK in order puts its bytes into the landing area of a rank here. TREE_NODE_COMBINE consumes the two
operands of a node, or the odd one, and holds the combination one level up or sends it on; without an operand it
waits; at the top it ends the tree and delivers the value by DKIND. The sum of INT32 elements is taken modulo 2^32. -/
def Obligations.CollectiveEngines : Prop :=
  ∀ s : State,
    (∀ (vr slot : Nat) (r : Rank) (h : BitVec 128) (trees : List (BitVec 128)) (ops : List (BitVec 256)), slot < 64 →
      s.rank? vr = some r → ∃ t q, exec (.graphLoad vr slot h trees ops) s = .next t ∧ t.rank? vr = some q ∧
        (graphOk h trees ops = true → q.graphs.find? (fun p => p.1 == slot) = some (slot, { header := h, trees := trees, ops := ops }) ∧
          t.out = s.out) ∧
        (graphOk h trees ops = false → q.graphs.find? (fun p => p.1 == slot) = none ∧ t.out = s.out ++ [.report 0 vr slot]) ∧
        (∀ k, k ≠ slot → q.graphs.find? (fun p => p.1 == k) = r.graphs.find? fun p => p.1 == k) ∧ s.SameMemory t) ∧
    (∀ (c : Cmd) (x : Coll), s.cmd? c.id = some c → c.body.coll? = some x →
      (c.st = .queued → s.cmdLive c = true → s.cmdFirst c = true →
        ((∀ l ∈ x.imgs, none ∉ l) → exec (.collectiveCommand c.id) s = .next (s.modCmd c.id fun c => { c with st := .running })) ∧
        ∃ t, exec (.collectiveCommand c.id) s = .next t ∧ t.cmd? c.id = some { c with st := .running } ∧ s.SameMemory t) ∧
      (c.st ≠ .queued ∨ s.cmdLive c = false ∨ s.cmdFirst c = false → exec (.collectiveCommand c.id) s = .next s) ∧
      (∀ op, (c.st ≠ .running ∨ s.cmdLive c = false ∨ x.startable op = false ∨ x.fetched (x.readRanges op) = false) →
        exec (.collOpStart c.id op) s = .next s) ∧
      (∀ op, c.st = .running → s.cmdLive c = true → x.startable op = true → x.fetched (x.readRanges op) = true →
        (opKind (x.op op) ∈ [1, 3, 4] → exec (.collOpStart c.id op) s =
          .next (s.modCmd c.id fun c => { c with body := (x.modOp op fun q => { q with running := true }).body })) ∧
        ((∀ y ∈ s.cmds, y.id = c.id → y = c) → opKind (x.op op) ∈ [0, 2, 5] → ∃ t c' y bs m, exec (.collOpStart c.id op) s = .next t ∧
          t.cmd? c.id = some c' ∧ c'.body.coll? = some y ∧ (y.st op).running = true ∧ bs.length = m * x.esz op ∧ m ≤ opLen (x.op op) ∧
          (opVlen (x.op op) = false → m = opLen (x.op op)) ∧
          (∀ k v, k < bs.length → x.racedRead c.by'.core op (x.loc c.by'.core (opSbuf (x.op op)) (opSoff (x.op op) * x.esz op + k)) = false →
            s.changed c.by' x (opSbuf (x.op op)) (opSoff (x.op op) * x.esz op + k) = false →
            x.byte? c.by'.core (opSbuf (x.op op)) (opSoff (x.op op) * x.esz op + k) = some v → bs[k]? = some v) ∧
          (opKind (x.op op) ≠ 2 → ∃ ch : Chunk, ch = {
              slot := x.slot, replay := x.replay, endpoint := opEndpt (x.op op), src := c.by'.vr, tag := opTag (x.op op), bytes := bs,
              whole := true } ∧
            (∀ r, s.rank? (opPeer (x.op op)) = some r → (y.st op).sent = true ∧ ∃ q, t.rank? (opPeer (x.op op)) = some q ∧
              (r.place ≠ .transit → s.chunkTaken (opPeer (x.op op)) ch = false → q.landing = r.landing ++ [ch]) ∧
              (r.place = .transit ∨ s.chunkTaken (opPeer (x.op op)) ch = true → q.landing = r.landing ∧ t.dropped = s.dropped + 1)) ∧
            (s.rank? (opPeer (x.op op)) = none → (y.st op).sent = (x.st op).sent ∧ t.ranks = s.ranks)) ∧
          (opKind (x.op op) = 2 → ∀ r, s.rank? c.by'.vr = some r → ∃ (d : BitVec 128) (key : TreeKey),
            d = x.graph.trees[opTree (x.op op)]?.getD 0 ∧ key = {
              job := r.job, slot := x.slot, tree := opTree (x.op op), lo := treeLo d,
              hi := treeHi d, replay := x.replay, pos := opSoff (x.op op), len := m } ∧
            (s.holder? key 0 (c.by'.vr - treeLo d) = none → (y.st op).sent = true ∧
              ∃ tr ∈ t.trees, tr.key = key ∧ (0, c.by'.vr - treeLo d, bs) ∈ tr.nodes) ∧
            (∀ h, s.holder? key 0 (c.by'.vr - treeLo d) = some h → (y.st op).sent = (x.st op).sent ∧
              ∃ o, t.fabric.outs = s.fabric.outs ++ [o] ∧ o.fid = h.fid ∧ o.awaiting = [h.pkg] ∧ o.op = some (c.id, op))))) ∧
      (∀ op, (c.st ≠ .running ∨ s.cmdLive c = false ∨ (c.ending = true ∧ s.cmdAway c = true) ∨ (c.ending = false ∧ (x.st op).running = false)) →
        exec (.collOpComplete c.id op) s = .next s) ∧
      (∀ op, c.st = .running → s.cmdLive c = true → c.ending = true → s.cmdAway c = false →
        exec (.collOpComplete c.id op) s = .next (s.retireCmd c c.wrote) ∧ (s.retireCmd c c.wrote).cmd? c.id = none) ∧
      (∀ op, c.st = .running → s.cmdLive c = true → c.ending = false → op < x.ops.length → (x.st op).running = true →
        ((x.st op).pos + 64 < x.opBytes op → ∃ t c' y, exec (.collOpComplete c.id op) s = .next t ∧ t.cmd? c.id = some c' ∧
          c'.body.coll? = some y ∧ y.st op = { x.st op with pos := (x.st op).pos + 64, half := !(x.st op).half } ∧ s.SameMemory t) ∧
        (x.opBytes op ≤ (x.st op).pos + 64 → ∀ got : Bool,
          (got = true ↔ ∃ r, s.rank? c.by'.vr = some r ∧ r.chunksFor (x.op op) x.replay ≠ []) →
          (((opKind (x.op op) = 0 ∨ opKind (x.op op) = 2) ∧ (x.st op).sent = true) ∨ opKind (x.op op) = 4 ∨
            ((opKind (x.op op) = 1 ∨ opKind (x.op op) = 3) ∧ got = true) ∨
            (opKind (x.op op) = 5 ∧ (x.st op).sent = true ∧ ((x.st op).received = true ∨ (x.staged c.by'.core op = true ∧ got = true))) →
            ((∀ i, i < x.ops.length → i ≠ op → (x.st i).complete = true) → ∃ t, exec (.collOpComplete c.id op) s = .next t ∧
              (t.cmd? c.id = none ∨ ∃ c', t.cmd? c.id = some c' ∧ c'.ending = true) ∧
              ((∀ b ∈ x.bufs, ∀ p a, b ≠ .glob 2 p a) → (∀ e ∈ x.data, ∀ p a, e.2.dst ≠ .peer p a) →
                t.cmd? c.id = none ∧ t.locks = c.pins.foldl releasePin s.locks)) ∧
            ((∃ i, i < x.ops.length ∧ i ≠ op ∧ (x.st i).complete = false) → ∃ t c' y, exec (.collOpComplete c.id op) s = .next t ∧
              t.cmd? c.id = some c' ∧ c'.body.coll? = some y ∧ (y.st op).complete = true ∧ (y.st op).running = false ∧
              (∀ i, i < x.ops.length → (y.st i).counter =
                (x.st i).counter - (([0, 1, 2].map (opSucc (x.op op))).filter fun j => j == i).length) ∧
              ∀ r ch, opKind (x.op op) = 1 → opVlen (x.op op) = false → s.rank? c.by'.vr = some r →
                r.chunksFor (x.op op) x.replay = [ch] → (∀ d, x.racedWrite c.by'.core op d = false) →
                y.data = x.data ++ (((ch.bytes.take (min (opLen (x.op op) * x.esz op) ch.bytes.length)).take
                    (x.graph.cnt * x.graph.esz - opDoff (x.op op) * x.esz op)).zipIdx.map fun p =>
                  (op, { dst := x.loc c.by'.core (opDbuf (x.op op)) (opDoff (x.op op) * x.esz op + p.2), val := p.1 })))) ∧
          (((opKind (x.op op) = 0 ∨ opKind (x.op op) = 2) ∧ (x.st op).sent = false) ∨
            ((opKind (x.op op) = 1 ∨ opKind (x.op op) = 3) ∧ got = false) ∨
            (opKind (x.op op) = 5 ∧ (x.st op).received = true ∧ (x.st op).sent = false) ∨
            (opKind (x.op op) = 5 ∧ (x.st op).received = false ∧ (x.staged c.by'.core op = false ∨ got = false)) →
            exec (.collOpComplete c.id op) s = .next s) ∧
          (opKind (x.op op) = 5 → (x.st op).received = false → x.staged c.by'.core op = true → got = true → (x.st op).sent = false →
            ∃ t c' y, exec (.collOpComplete c.id op) s = .next t ∧ t.cmd? c.id = some c' ∧ c'.body.coll? = some y ∧
              (y.st op).received = true ∧ (y.st op).running = true)))) ∧
    (∀ (f : FrameHdr) (slot : Nat) (bytes : List Byte) (r : Rank) (c : Chunk), f.crcOk = true →
      f.seq = (s.conn f.port f.dom f.pkg).recvNext → s.rank? f.dvr = some r → r.place ≠ .transit → f.offset = 0 →
      (∀ y ∈ s.cmds, y.by'.vr ≠ f.dvr) →
      c = { slot := slot, replay := f.replay, endpoint := f.endpt, src := f.svr, tag := f.tag, bytes := bytes, whole := f.last } →
      ∃ t q, exec (.collectiveChunk f slot bytes) s = .next t ∧ t.rank? f.dvr = some q ∧ q.landing = r.landing ++ [c]) ∧
    (∀ (f : FrameHdr) (slot : Nat) (bytes : List Byte), f.crcOk = false → exec (.collectiveChunk f slot bytes) s = .next s) ∧
    (∀ (f : FrameHdr) (slot : Nat) (bytes : List Byte), s.rank? f.dvr = none → ∃ t, exec (.collectiveChunk f slot bytes) s = .next t ∧
      t.ranks = s.ranks) ∧
    (∀ (key : TreeKey) (level k : Nat) (t : TreeSt), s.trees.find? (fun t => t.key == key) = some t →
      (∀ (bs : List Byte) (gone : List Nat),
        ((∃ a b : List Byte, 2 * k + 1 < levelCount (key.hi + 1 - key.lo) level ∧ gone = [2 * k, 2 * k + 1] ∧
            t.nodes.find? (fun e => e.1 == level && e.2.1 == 2 * k) = some (level, 2 * k, a) ∧
            t.nodes.find? (fun e => e.1 == level && e.2.1 == 2 * k + 1) = some (level, 2 * k + 1, b) ∧
            combine t.opf t.recw a b = bs.map some) ∨
          (2 * k + 1 = levelCount (key.hi + 1 - key.lo) level ∧ 2 ≤ 2 * k + 1 ∧ gone = [2 * k] ∧
            t.nodes.find? (fun e => e.1 == level && e.2.1 == 2 * k) = some (level, 2 * k, bs))) →
        ∃ u t', exec (.treeNodeCombine key level k) s = .next u ∧ u.trees.find? (fun t => t.key == key) = some t' ∧
          (∀ e ∈ t'.nodes, e.1 = level → e.2.1 ∉ gone) ∧ u.ranks = s.ranks ∧
          (s.holder? key (level + 1) k = none → (level + 1, k, bs) ∈ t'.nodes) ∧
          (∀ h, s.holder? key (level + 1) k = some h → ∃ o, u.fabric.outs = s.fabric.outs ++ [o] ∧ o.fid = h.fid ∧ o.awaiting = [h.pkg])) ∧
      (∀ i, 2 ≤ levelCount (key.hi + 1 - key.lo) level → i = 2 * k ∨ (i = 2 * k + 1 ∧ 2 * k + 1 ≠ levelCount (key.hi + 1 - key.lo) level) →
        t.nodes.find? (fun e => e.1 == level && e.2.1 == i) = none → exec (.treeNodeCombine key level k) s = .next s) ∧
      (∀ bs : List Byte, levelCount (key.hi + 1 - key.lo) level ≤ 1 →
        t.nodes.find? (fun e => e.1 == level && e.2.1 == 0) = some (level, 0, bs) → t.differs = false → ∃ u,
        exec (.treeNodeCombine key level k) s = .next u ∧ (∀ x ∈ u.trees, x.key ≠ key) ∧
        (∀ v r, (treeDkind t.desc = 0 ∧ v = treeDvr t.desc) ∨ (treeDkind t.desc = 1 ∧ key.lo ≤ v ∧ v ≤ key.hi) →
          s.rank? v = some r → r.place ≠ .transit → (∀ y ∈ s.cmds, y.by'.vr ≠ v) → ∃ q, u.rank? v = some q ∧
          q.landing = r.landing ++ [{ slot := key.slot, replay := key.replay, endpoint := treeDep t.desc, src := key.lo, tag := t.tag,
                                      bytes := bs, whole := true }]) ∧
        (2 ≤ treeDkind t.desc → u = ({ s with trees := s.trees.filter fun x => x.key != key } : State).buildBlocks key.job (treeDvr t.desc)
          t.step key.pos ((chunksOf 4 bs.length bs).map fun v => BitVec.ofNat 32 v)))) ∧
    (∀ a b : Nat, a < 2 ^ 32 → b < 2 ^ 32 → combElem 0 10 a b = (a + b) % 2 ^ 32)

/-- The sequence of a migration and the failing of a stack (R366, R367, R368, R369, R373, R374, R375, R376, R379, R453).
MIGRATION_COMMAND first checks: a rank not held here, not in the state that the template names or not at a step
boundary ends the command with status 1, one in transit with 6, a destination slot or capacity that is not free with
2, no path in the domain with 7, in a result record that joins the view of the issuing core; a rank that passes is put
in transit with its placement entry in STATE 2. Then, while a page of the rank is pinned, it waits; with too few
frames it ends with status 4, with too few entries of the list with 3, the rank back where it was; else it goes on to
the commit and sends the rank to a destination in another package. MIGRATION_COMMIT installs the rank at a destination
here with its handles invalid, a new generation and the new frame pool, sets its entry, and once every package has
acknowledged that, frees the source and ends with status 0; a destination slot withdrawn meanwhile gives status 2, a
rank that is gone 5. MIGRATION_DATA puts the bytes of a part into memory and keeps a rank until its entry comes, or
installs it. PLACEMENT_UPDATE for this package sets the entry of the VR and installs a rank that has come, one for
another is passed on. STACK_FAILURE withdraws the slot; a rank resident there, or moving from there, leaves and its
entry has STATE 3. -/
def Obligations.Migration : Prop :=
  ∀ s : State,
    (∀ (c : Cmd) (t : BitVec 512) (rec' : Nat → Nat → Nat → Nat → List EByte), s.cmd? c.id = some c → c.ending = false → c.spoiled = [] →
      (rec' = fun status pages frames gangs => (leBytes 8 (status + 2 ^ 16 * (pages % 2 ^ 32)) ++
        leBytes 8 (frames % 2 ^ 32 + 2 ^ 32 * gangs)).zipIdx.map fun p => { dst := .phys (migResult t + p.2), val := p.1 }) →
      (∀ stage read pages gangs root, c.body = .migr t stage read pages gangs root → stage = 0 →
        (s.cmdLive c = false ∨ s.cmdFirst c = false → exec (.migrationCommand c.id) s = .next s) ∧
        (s.cmdLive c = true → s.cmdFirst c = true →
          (∀ st : Nat, (s.rank? (migVr t) = none ∧ st = 1) ∨
            (∃ r, s.rank? (migVr t) = some r ∧ r.place = .transit ∧ st = 6) ∨
            (∃ r, s.rank? (migVr t) = some r ∧ r.place ≠ .transit ∧ (r.place ≠ migrSource t ∨ s.holdsAtStep r = false) ∧ st = 1) ∨
            (∃ r, s.rank? (migVr t) = some r ∧ r.place = migrSource t ∧ s.holdsAtStep r = true ∧
              ((s.migrHere t = true ∧ migToSlot t = true ∧ (bitAt s.clavail (migDstSlot t) = false ∨
                  (s.slot (migDstSlot t)).occupant ≠ none ∨ s.slotAwaited (migDstSlot t) c.id = true) ∧ st = 2) ∨
                (s.migrHere t = true ∧ migToSlot t = false ∧ 48 ≤ s.rankCount (migVr t) ∧ st = 2) ∨
                (s.migrHere t = false ∧ migDom t = s.ownDom ∧ s.linked = false ∧ st = 7))) →
            ∃ u, exec (.migrationCommand c.id) s = .next u ∧ u.cmd? c.id = none ∧ s.SameMemory u ∧ u.place = s.place ∧
              ∀ k, s.rank? c.by'.vr = some k → ∃ q w, u.rank? c.by'.vr = some q ∧ q.place = k.place ∧ q.engView = k.engView ++ [w] ∧
                w.core = c.by'.core ∧ w.bytes = rec' st 0 0 0) ∧
          (∀ r, s.rank? (migVr t) = some r → r.place = migrSource t → s.holdsAtStep r = true → s.migrHere t = true →
            (migToSlot t = true → bitAt s.clavail (migDstSlot t) = true ∧ (s.slot (migDstSlot t)).occupant = none ∧
              s.slotAwaited (migDstSlot t) c.id = false) → (migToSlot t = false → s.rankCount (migVr t) < 48) →
            ∃ u q c', exec (.migrationCommand c.id) s = .next u ∧ u.rank? (migVr t) = some q ∧ q = { r with place := .transit } ∧
              placeState (u.placeEntry (migVr t)) = 2 ∧ u.cmd? c.id = some c' ∧ c'.st = .running ∧
              c'.body = .migr t 1 read 0 0 0 ∧ s.SameMemory u) ∧
          (∀ r, s.rank? (migVr t) = some r → r.place = migrSource t → s.holdsAtStep r = true → s.migrHere t = false →
            (migDom t = s.ownDom → s.linked = true) → ∃ u, exec (.migrationCommand c.id) s = .next u ∧ s.SameMemory u ∧
              (u.cmd? c.id = none ∨ ∃ c', u.cmd? c.id = some c' ∧ c'.body = .migr t 1 read 0 0 0)))) ∧
      (∀ read pages gangs root, c.body = .migr t 1 read pages gangs root → ∀ r, s.rank? (migVr t) = some r →
        ((∃ l ∈ s.locks, l.vr = r.vr) → exec (.migrationCommand c.id) s = .next s) ∧
        ((∀ l ∈ s.locks, l.vr ≠ r.vr) →
          (∀ list s', s.freeList t read = (list, s') →
            (r.gangs.filter fun g => g.isPlaced || !g.cores.isEmpty).length ≤ bitsAt (migFrBase t) 0 8 →
            (∀ new x, ({ s' with mem := s.viewMem c.by' } : State).rebuildTree (if migToSlot t then 0 else 1) r.ptroot
                { list := list, taken := [], pages := 0, tables := [], copies := [] } = .ok (new, x) → ∃ u c',
              exec (.migrationCommand c.id) s = .next u ∧ u.cmd? c.id = some c' ∧
              c'.body = .migr t 2 x.frames x.pages (r.gangs.filter Gang.isPlaced).length new ∧ u.ranks = s.ranks ∧
              (s.migrHere t = false → migDom t = s.ownDom → ∃ k job entries, .migration (migPkg t) (.rank k job entries) ∈ u.out ∧
                k.vr = r.vr ∧ k.gen = r.gen + 1)) ∧
            (∀ x, ({ s' with mem := s.viewMem c.by' } : State).rebuildTree (if migToSlot t then 0 else 1) r.ptroot
                { list := list, taken := [], pages := 0, tables := [], copies := [] } = .error x → ∃ u q,
              exec (.migrationCommand c.id) s = .next u ∧ u.cmd? c.id = none ∧ u.rank? (migVr t) = some q ∧ q.place = migrSource t ∧
              ∀ k, s.rank? c.by'.vr = some k → ∃ q w, u.rank? c.by'.vr = some q ∧ q.engView = k.engView ++ [w] ∧
                w.bytes = rec' 3 0 x.taken.length 0)) ∧
          (bitsAt (migFrBase t) 0 8 < (r.gangs.filter fun g => g.isPlaced || !g.cores.isEmpty).length → ∃ u q,
            exec (.migrationCommand c.id) s = .next u ∧ u.cmd? c.id = none ∧ u.rank? (migVr t) = some q ∧ q.place = migrSource t ∧
            placeState (u.placeEntry (migVr t)) < 2 ∧ s.SameMemory u ∧
            ∀ k, s.rank? c.by'.vr = some k → ∃ q w, u.rank? c.by'.vr = some q ∧ q.engView = k.engView ++ [w] ∧
              w.bytes = rec' 4 0 0 0))) ∧
      (∀ taken pages gangs root, c.body = .migr t 2 taken pages gangs root →
        (s.rank? (migVr t) = none → ∃ u, exec (.migrationCommit c.id) s = .next u ∧ u.cmd? c.id = none ∧
          ∀ k, s.rank? c.by'.vr = some k → ∃ q w, u.rank? c.by'.vr = some q ∧ q.engView = k.engView ++ [w] ∧
            w.bytes = rec' 5 pages taken.length gangs) ∧
        (∀ r, s.rank? (migVr t) = some r →
          (s.migrHere t = true → (migToSlot t = true → bitAt s.clavail (migDstSlot t) = true) → ∃ u q c',
            exec (.migrationCommit c.id) s = .next u ∧ u.rank? (migVr t) = some q ∧
            q.place = (if migToSlot t then .resident (migDstSlot t) else .fallow) ∧ q.gen = r.gen + 1 ∧
            q.frpool = migFrBase t &&& ~~~(0xFFFFF00 : Word) ∧
            q.ptroot = BitVec.ofNat 64 (root + 1) ∧ q.stepno = r.stepno ∧
            (∀ g ∈ q.gangs, ∀ k ∈ g.cores, ∀ h ∈ k.handles.toList, h.valid = false) ∧
            u.placeEntry (migVr t) = commitEntry t r.stepno ∧
            u.cmd? c.id = some c' ∧ c'.body = .migr t 3 taken pages gangs root) ∧
          (s.migrHere t = false → (migDom t = s.ownDom → s.linked = true) →
            (s.partsAway t = true → exec (.migrationCommit c.id) s = .next s) ∧
            (s.partsAway t = false → ∃ u c', exec (.migrationCommit c.id) s = .next u ∧ u.ranks = s.ranks ∧
              u.placeEntry (migVr t) = commitEntry t r.stepno ∧ u.cmd? c.id = some c' ∧ c'.body = .migr t 3 taken pages gangs root)) ∧
          (∀ st : Nat, (s.migrHere t = true ∧ migToSlot t = true ∧ bitAt s.clavail (migDstSlot t) = false ∧ st = 2) ∨
              (s.migrHere t = false ∧ migDom t = s.ownDom ∧ s.linked = false ∧ st = 7) → ∃ u q,
            exec (.migrationCommit c.id) s = .next u ∧ u.cmd? c.id = none ∧ u.rank? (migVr t) = some q ∧ q.place = migrSource t ∧
            ∀ k, s.rank? c.by'.vr = some k → ∃ q w, u.rank? c.by'.vr = some q ∧ q.engView = k.engView ++ [w] ∧
              w.bytes = rec' st 0 taken.length 0))) ∧
      (∀ taken pages gangs root, c.body = .migr t 3 taken pages gangs root →
        ((∃ p ∈ s.pubs, p.cmd = some c.id) → exec (.migrationCommit c.id) s = .next s) ∧
        ((∀ p ∈ s.pubs, p.cmd ≠ some c.id) → ∃ u, exec (.migrationCommit c.id) s = .next u ∧ u.cmd? c.id = none ∧
          (∀ k, migrSource t = .resident k → k < 16 → (u.slot k).occupant ≠ some (migVr t)) ∧
          (s.migrHere t = false → u.rank? (migVr t) = none) ∧
          ∀ k, c.by'.vr ≠ migVr t → s.rank? c.by'.vr = some k → ∃ q w, u.rank? c.by'.vr = some q ∧ q.engView = k.engView ++ [w] ∧
            w.bytes = rec' 0 pages taken.length gangs))) ∧
    (∀ (f : FrameHdr) (p : MigPart),
      (f.dom = s.ownDom → exec (.migrationData f p) s = .next (s.takePart p)) ∧
      (f.dom ≠ s.ownDom → f.crcOk = false → exec (.migrationData f p) s = .next s) ∧
      (f.dom ≠ s.ownDom → f.crcOk = true → f.seq = (s.conn f.port f.dom f.pkg).recvNext → ∃ u, exec (.migrationData f p) s = .next u ∧
        (∀ a bs, p = .page a bs → f.svr = s.ownPkg → u.mem = physPut s.mem a bs ∧ u.ranks = s.ranks) ∧
        (f.svr ≠ s.ownPkg → .migration f.svr p ∈ u.out ∧ s.SameMemory u ∧ u.ranks = s.ranks)) ∧
      (∀ a bs, p = .page a bs → s.takePart p = { s with mem := physPut s.mem a bs }) ∧
      (∀ r job entries, p = .rank r job entries →
        ((s.takeJob job entries).placedHere ((s.takeJob job entries).placeEntry r.vr) = false →
          (s.takePart p).incoming.find? (fun x => x.vr == r.vr) = some r.received ∧ (s.takePart p).ranks = s.ranks ∧
          s.SameMemory (s.takePart p)) ∧
        ((s.takeJob job entries).placedHere ((s.takeJob job entries).placeEntry r.vr) = true → s.canTake r = true → ∃ q,
          (s.takePart p).rank? r.vr = some q ∧ q.place = r.place ∧ q.gen = r.gen ∧ q.phaseno = r.phaseno ∧ q.stepno = r.stepno))) ∧
    (∀ (q : DHdr) (vr : Nat) (e : BitVec 64),
      (q.dpkg ≠ s.ownPkg → exec (.placementUpdate (.placement q vr e)) s = .next (s.forward 32 (.placement q vr e))) ∧
      (q.dpkg = s.ownPkg → ∃ u, exec (.placementUpdate (.placement q vr e)) s = .next u ∧
        (∀ w, w ≠ vr → u.placeEntry w = s.placeEntry w) ∧
        (s.placedHere e = false ∨ s.incoming.find? (fun r => r.vr == vr) = none →
          u.placeEntry vr = e ∧ u.ranks = s.ranks ∧ s.SameMemory u) ∧
        (∀ r, s.placedHere e = true → s.incoming.find? (fun r => r.vr == vr) = some r →
          (s.canTake r = true → u.placeEntry vr = e ∧ ∃ k, u.rank? vr = some k ∧ k.place = r.place ∧ k.gen = r.gen) ∧
          (s.canTake r = false → placeState (u.placeEntry vr) = 3 ∧ u.ranks = s.ranks)))) ∧
    (∀ slot, slot < 16 → ∃ u, exec (.stackFailure slot) s = .next u ∧ bitAt u.clavail slot = false ∧
      (∀ k, k < 16 → k ≠ slot → bitAt u.clavail k = bitAt s.clavail k) ∧
      ((s.slot slot).occupant = none → u = { s with clavail := u.clavail }) ∧
      (∀ r, (s.slot slot).occupant.bind s.rank? = some r → (u.slot slot).occupant = none ∧
        (r.place = .resident slot ∨ (s.movingFrom slot r.vr).isSome = true → u.rank? r.vr = none ∧ placeState (u.placeEntry r.vr) = 3) ∧
        (r.place ≠ .resident slot → s.movingFrom slot r.vr = none → u.ranks = s.ranks ∧ u.place = s.place)))

/-- Gradient blocks at a granary, their application, the close of a step (R385, R389, R392, R393, R394, R396, R399, R401).
GRADIENT_BLOCK_ARRIVE takes, of the blocks of its shard that arrive in one cycle, the one of the lowest number first.
A block for a shard that this package does not keep or has lost is dropped and counted; a seed target holds it. At a
home or mirror: a malformed block only counts MALFORMED; a well-formed one of a step up to C counts STALE, of a step
from C + 2 on EARLY, of the step C + 1 already received DUPLICATE; a new one of step C + 1 is received and waits to be
applied, is kept for a seed target, and the close timer runs. GRANARY_BLOCK_APPLY takes the block from those waiting,
writes the weights that the rule program gives into the master state, and changes no byte outside the master state of
the block and its staging copy. GRANARY_STEP_CLOSE of a home or mirror with every block received and applied
increments C, exchanges the served and the staging copy, takes the hyperparameters of a HYPER, forgets the blocks of
the step and the SNAP buffers, sends a seed target its snapshot and lets the gathers go that waited for this step;
otherwise nothing happens. STEP_CLOSE_TIMEOUT of a home or mirror acts once, when TCLOSE units of 1,024 cycles have
passed, and writes the bitmap of the missing blocks. BLOCK_ACKNOWLEDGEMENT for this package clears its granary from
the blocks kept. -/
def Obligations.GranaryBlocksAndSteps : Prop :=
  ∀ s : State,
    (∀ b : GBlock, exec (.gradientBlockArrive b) s =
      exec (.gradientBlockArrive (lowestBlock b s.inputs).1) { s with inputs := (lowestBlock b s.inputs).2 }) ∧
    (∀ b : GBlock, lowestBlock b s.inputs = (b, s.inputs) →
      (s.shard? b.job b.shard = none ∨ (∃ x, s.shard? b.job b.shard = some x ∧ (x.rec'.role = 0 ∨ x.lost = true)) →
        exec (.gradientBlockArrive b) s = .next { s with dropped := s.dropped + 1 }) ∧
      (∀ x : Shard, s.shard? b.job b.shard = some x → x.rec'.role = 3 → x.lost = false →
        exec (.gradientBlockArrive b) s = .next (s.modShard b.job b.shard fun x => { x with held := x.held ++ [b] }))) ∧
    (∀ (b : GBlock) (x : Shard), lowestBlock b s.inputs = (b, s.inputs) → s.shard? b.job b.shard = some x →
      x.rec'.role = 1 ∨ x.rec'.role = 2 → x.lost = false →
      let formed := gblockCrc b = b.crc ∧ b.payload.length = 16384 ∧ b.block < (x.rec'.elems + 16383) / 16384 ∧
        b.ecnt = min 16384 (x.rec'.elems - 16384 * b.block) ∧ b.fmt = 1 ∧ (s.ruleProgram x.rec'.job x.rec'.rule).isSome = true
      (¬ formed → exec (.gradientBlockArrive b) s = .next (s.modShard b.job b.shard fun x => { x with malf := x.malf + 1 })) ∧
      (formed → b.step ≤ x.rec'.c → ∃ t, exec (.gradientBlockArrive b) s = .next t ∧
        t.shard? b.job b.shard = some { x with stale := x.stale + 1 } ∧ s.SameMemory t) ∧
      (formed → x.rec'.c + 2 ≤ b.step → ∃ t, exec (.gradientBlockArrive b) s = .next t ∧
        t.shard? b.job b.shard = some { x with early := x.early + 1 }) ∧
      (formed → b.step = x.rec'.c + 1 → b.block ∈ x.received → ∃ t, exec (.gradientBlockArrive b) s = .next t ∧
        t.shard? b.job b.shard = some { x with dup := x.dup + 1 } ∧ s.SameMemory t) ∧
      (formed → b.step = x.rec'.c + 1 → b.block ∉ x.received → ∃ t, exec (.gradientBlockArrive b) s = .next t ∧
        t.shard? b.job b.shard = some { x with
          received := x.received ++ [b.block], applying := x.applying ++ [b], timer := some (x.timer.getD 0),
          kept := if x.seeding.any fun d => d.2.2 then x.kept ++ [b] else x.kept } ∧ s.SameMemory t)) ∧
    (∀ (job shard : Nat) (x : Shard) (b : GBlock), s.shard? job shard = some x →
      x.applying.find? (fun y => y.block == b.block) = some b → Memory.wf s.mem = true →
      let prog := (s.ruleProgram job x.rec'.rule).getD []
      let n := min 16384 (x.rec'.elems - 16384 * b.block)
      let base := x.rec'.sbase + b.block * 196608
      let copy := x.rec'.ebase + (2 * b.block + (1 - x.served)) * 32768
      let word := fun (k e : Nat) => leNat (physBytes s.mem (base + 65536 * k + 4 * e) 4)
      ∃ t, exec (.granaryBlockApply job shard b.block) s = .next t ∧
        t.shard? job shard = some { x with applying := x.applying.filter fun y => y.block != b.block } ∧
        (∀ a, ¬ (base ≤ a ∧ a < base + 196608) → ¬ (copy ≤ a ∧ a < copy + 32768) → physRead t.mem a = physRead s.mem a) ∧
        ((∀ a, base ≤ a → a < base + 196608 → physExists a = true) → base + 196608 ≤ copy ∨ copy + 32768 ≤ base →
          ∀ e, e < n → leNat (physBytes t.mem (base + 4 * e) 4) =
            ((prog.foldl ruleStep (ruleStart x.rec' (b.payload[e]?.getD 0).toNat (word 0 e) (word 1 e) (word 2 e), 0)).1[1]?.getD 0)
              % 2 ^ 32)) ∧
    (∀ job shard block : Nat, (∀ x, s.shard? job shard = some x → ∀ y ∈ x.applying, y.block ≠ block) →
      exec (.granaryBlockApply job shard block) s = .next s) ∧
    (∀ (job shard : Nat), s.shard? job shard = none →
      exec (.granaryStepClose job shard) s = .next s ∧ exec (.stepCloseTimeout job shard) s = .next s) ∧
    (∀ (job shard : Nat) (x : Shard), s.shard? job shard = some x →
      ((x.rec'.role = 1 ∨ x.rec'.role = 2) → x.lost = false → x.applying = [] → (x.rec'.elems + 16383) / 16384 ≤ x.received.length →
        ∃ t y, exec (.granaryStepClose job shard) s = .next t ∧
        t.shard? job shard = some y ∧ y.rec'.c = x.rec'.c + 1 ∧ y.served = 1 - x.served ∧ y.received = [] ∧ y.timer = none ∧
        y.timedOut = false ∧ y.rec'.hp = x.hyper.getD x.rec'.hp ∧ y.hyper = none ∧ y.snaps = [] ∧
        y.rec'.p1 = powerUp x.rec'.p1 (x.rec'.hp[0]?.getD 0) ∧ y.rec'.p2 = powerUp x.rec'.p2 (x.rec'.hp[1]?.getD 0) ∧
        y.deferred = (x.deferred.filter fun g => x.rec'.c + 2 < g.step) ∧ y.dup = x.dup ∧ y.stale = x.stale ∧ y.early = x.early ∧
        y.malf = x.malf ∧ (∀ d p, x.seeding = some (d, p, false) → y.seeding = some (d, p, true) ∧
          ∃ state served, Out.snapshot d p y.rec' state served ∈ t.out)) ∧
      (x.rec'.role = 0 ∨ x.rec'.role = 3 ∨ x.applying ≠ [] ∨ x.received.length < (x.rec'.elems + 16383) / 16384 ∨ x.lost = true →
        exec (.granaryStepClose job shard) s = .next s) ∧
      (∀ n, x.rec'.role = 1 ∨ x.rec'.role = 2 → x.timer = some n → x.rec'.tclose ≠ 0 → x.rec'.tclose * 1024 ≤ n → x.timedOut = false →
        ∃ t, exec (.stepCloseTimeout job shard) s = .next t ∧ t.shard? job shard = some { x with timedOut := true } ∧
        (s.noticeRoom = false → t.mem = physPut s.mem x.rec'.bmap (leBytes (((x.rec'.elems + 16383) / 16384 + 7) / 8)
          (x.missing.foldl (fun v b => v + 2 ^ b) 0)))) ∧
      (x.timer = none ∨ x.rec'.tclose = 0 ∨ x.timedOut = true ∨ x.rec'.role = 0 ∨ x.rec'.role = 3 ∨
        (∃ n, x.timer = some n ∧ n < x.rec'.tclose * 1024) → exec (.stepCloseTimeout job shard) s = .next s)) ∧
    (∀ (q : DHdr) (job shard block step : Nat), q.dpkg ≠ s.ownPkg → exec (.blockAcknowledgement q job shard block step) s =
      .next (s.forward 32 (.blockAck q job shard block step))) ∧
    (∀ (q : DHdr) (job shard block step : Nat), q.dpkg = s.ownPkg → ∃ t, exec (.blockAcknowledgement q job shard block step) s = .next t ∧
      t.granary.shards = s.granary.shards ∧ s.SameMemory t ∧
      (∀ k ∈ t.granary.kept, k.waiting ≠ [] ∧ (k.block.job = job → k.block.shard = shard → k.block.block = block →
        k.block.step = step → (q.svr, q.spkg) ∉ k.waiting)) ∧
      (∀ k ∈ s.granary.kept, k.waiting ≠ [] → ¬ (k.block.job = job ∧ k.block.shard = shard ∧ k.block.block = block ∧
        k.block.step = step) → k ∈ t.granary.kept))

/-- The commands of the supervisor to the granary (R381, R385, R388, R398, R399, R401). REG of a legal record in memory
installs it fresh when there is room and ends with status 0, else with status 1, in place of a record already there
with its gathers judged afresh; of a record with an illegal field it ends with status 2. DROP removes a record. RULE
of a legal program loads the slot of the job, of another ends with status 2. HYPER of a home or mirror keeps the new
hyperparameters for the next close; SNAP keeps the buffer. PROMOTE of a mirror makes it the home of the directory;
SEED of a home whose mirror is not valid names the target, of one whose mirror is valid ends with status 5. REPLAY of
blocks that are all kept here ends with status 0; others are asked of the other packages and the command waits, or
ends with status 4 where there are none. On a shard that this package keeps no record of, or whose role does not fit,
DROP, HYPER, PROMOTE, SEED and SNAP end with status 3, and REPLAY with status 4 where there is no record; a code that
is not defined ends with status 2. A command posted when none is pending completes at once where its status is known. -/
def Obligations.GranaryCommands : Prop :=
  ∀ (s : State) (job shard : Nat) (a b : BitVec 64),
    (let v : BitVec 1024 := BitVec.ofNat 1024 (leNat (physBytes s.mem a.toNat 128))
     let r := recOfBits v
     (recLegal v = false → exec (.reg job shard a b) s = .next (s.postGran 1 job shard (some 2)).2) ∧
     (recLegal v = true → s.shard? r.job r.shard = none → s.granary.shards.length < 65536 → ∃ t,
       exec (.reg job shard a b) s = .next t ∧ t.shard? r.job r.shard = some (Shard.fresh r)) ∧
     (recLegal v = true → s.shard? r.job r.shard = none → 65536 ≤ s.granary.shards.length →
       exec (.reg job shard a b) s = .next (s.postGran 1 job shard (some 1)).2) ∧
     (recLegal v = true → ∀ x, s.shard? r.job r.shard = some x → ∃ t y,
       exec (.reg job shard a b) s = .next t ∧ t.shard? r.job r.shard = some y ∧
       y = { Shard.fresh r with snaps := x.snaps, deferred := y.deferred } ∧ ∀ g ∈ y.deferred, g ∈ x.deferred)) ∧
    (s.shard? job shard = none →
      exec (.drop job shard a b) s = .next (s.postGran 2 job shard (some 3)).2 ∧
      exec (.hyper job shard a b) s = .next (s.postGran 4 job shard (some 3)).2 ∧
      exec (.promote job shard a b) s = .next (s.postGran 5 job shard (some 3)).2 ∧
      exec (.seed job shard a b) s = .next (s.postGran 6 job shard (some 3)).2 ∧
      exec (.snap job shard a b) s = .next (s.postGran 7 job shard (some 3)).2 ∧
      exec (.replay job shard a b) s = .next (s.postGran 8 job shard (some 4)).2) ∧
    (let n := b.toNat / 256 % 64
     let words := (List.range n).map fun i => BitVec.ofNat 32 (leNat (physBytes s.mem (a.toNat + 4 * i) 4))
     (0 < n → n ≤ 32 → (∀ w ∈ words, ruleLegal w = true) → ∃ t, exec (.rule job shard a b) s = .next t ∧
       t.ruleProgram job (b.toNat % 16) = some words ∧
       ∀ j k, ¬ (j = job ∧ k = b.toNat % 16) → t.ruleProgram j k = s.ruleProgram j k) ∧
     (n = 0 ∨ 32 < n ∨ (∃ w ∈ words, ruleLegal w = false) →
       exec (.rule job shard a b) s = .next (s.postGran 3 job shard (some 2)).2)) ∧
    (∀ x, s.shard? job shard = some x →
      (∃ t, exec (.drop job shard a b) s = .next t ∧ t.shard? job shard = none) ∧
      (x.rec'.role ≠ 0 → ∃ t, exec (.hyper job shard a b) s = .next t ∧ t.shard? job shard = some { x with
        hyper := some ((List.range 12).map fun i => BitVec.ofNat 32 (leNat (physBytes s.mem (a.toNat + 4 * i) 4))) }) ∧
      (x.rec'.role = 0 → exec (.hyper job shard a b) s = .next (s.postGran 4 job shard (some 3)).2 ∧
        exec (.snap job shard a b) s = .next (s.postGran 7 job shard (some 3)).2) ∧
      (x.rec'.role = 2 → ∃ t, exec (.promote job shard a b) s = .next t ∧ t.shard? job shard = some { x with
        rec' := { x.rec' with role := 1, hdom := s.ownDom, hpkg := s.ownPkg, mv := false } }) ∧
      (x.rec'.role ≠ 2 → exec (.promote job shard a b) s = .next (s.postGran 5 job shard (some 3)).2) ∧
      (x.rec'.role = 1 → x.rec'.mv = false ∨ (x.rec'.mdom, x.rec'.mpkg) ∈ x.failed → ∃ t,
        exec (.seed job shard a b) s = .next t ∧ t.shard? job shard = some { x with
          rec' := { x.rec' with mv := true, mdom := a.toNat / 2 ^ 12 % 2 ^ 10, mpkg := a.toNat % 2 ^ 12 },
          seeding := some (a.toNat / 2 ^ 12 % 2 ^ 10, a.toNat % 2 ^ 12, false), unconfirmed := true,
          failed := x.failed.filter fun d => d != (a.toNat / 2 ^ 12 % 2 ^ 10, a.toNat % 2 ^ 12) }) ∧
      (x.rec'.role = 1 → x.rec'.mv = true → (x.rec'.mdom, x.rec'.mpkg) ∉ x.failed →
        exec (.seed job shard a b) s = .next (s.postGran 6 job shard (some 5)).2) ∧
      (x.rec'.role ≠ 1 → exec (.seed job shard a b) s = .next (s.postGran 6 job shard (some 3)).2) ∧
      (x.rec'.role ≠ 0 → ∃ t, exec (.snap job shard a b) s = .next t ∧
        t.shard? job shard = some { x with snaps := x.snaps ++ [a.toNat] }) ∧
      (∀ away, away = (((List.range ((x.rec'.elems + 16383) / 16384)).filter fun i =>
          (leNat (physBytes s.mem b.toNat (((x.rec'.elems + 16383) / 16384 + 7) / 8))).testBit i).filter fun i =>
            (s.granary.kept.find? fun k => k.block.job == job && k.block.shard == shard && k.block.step == a.toNat &&
              k.block.block == i).isNone) →
        ∃ u : State, u.granary = s.granary ∧ u.ranks = s.ranks ∧ u.mem = s.mem ∧
          (away = [] → exec (.replay job shard a b) s = .next (u.postGran 8 job shard (some 0)).2) ∧
          (away ≠ [] → s.memberPkgs = [] → exec (.replay job shard a b) s = .next (u.postGran 8 job shard (some 4)).2) ∧
          (away ≠ [] → s.memberPkgs ≠ [] → ∃ t, exec (.replay job shard a b) s = .next t ∧
            Out.replay job shard a.toNat away ∈ t.out ∧ ∃ k ∈ t.granary.cmds, k.code = 8 ∧ k.status = none))) ∧
    (∀ code, exec (.granaryUnknownCode code job shard) s = .next (s.postGran code job shard (some 2)).2) ∧
    (∀ code st, s.granary.cmds = [] → (s.postGran code job shard (some st)).2.granary = s.granary)

/-- Gathers, the directory, the seeding of a mirror, the failure of a keeper (R396, R397, R398, R401, R402, R403). A
GATHER for this package is judged after a close of its shard that is due. At the home: of the step C + 1 with its
blocks in the shard it is answered with status 0 and the served copies, of a step up to C with status 1, of a later
step it is deferred, beyond 4,096 deferred it waits; of blocks outside the shard it is answered with status 2, of a
lost shard with 3. At a package that keeps no record of the shard it is answered with status 2; at one that is not the
home it goes on to the home. A gather for another package goes on. GRANARY_GATHER of a command of this package that is
first in its queue starts it; one already started or not its turn stays; one of another package is judged. A change of
the directory for this package sets the fields of its record. SEED_SNAPSHOT_INSTALL at a seed target makes it a mirror
of the record that came, with its HYPER and SNAP kept, has the blocks it held judged and confirms; elsewhere nothing
happens. SEED_CONFIRM at a home that seeds ends the seeding. GRANARY_KEEPER_FAIL of the home of a seed target removes
the target, of a seed target ends the seeding, of the last valid copy loses the shard, of a copy here ends its role;
else the failure is kept in mind. -/
def Obligations.GranaryGathersAndSeeding : Prop :=
  ∀ s : State,
    (∀ (q : DHdr) (g : GatherMsg), q.dpkg ≠ s.ownPkg → exec (.gather q g) s = .next (s.forward 32 (.gather q g))) ∧
    (∀ (i : Instr) (q : DHdr) (g : GatherMsg) (u : State), exec (.granaryStepClose g.job g.shard) s = .next u →
      (i = .gather q g ∧ q.dpkg = s.ownPkg) ∨ (i = .granaryGather g ∧ (g.dom, g.pkg) ≠ (s.ownDom, s.ownPkg)) →
      (u.shard? g.job g.shard = none → exec i s = .next (u.answerGather g [2])) ∧
      (∀ x, u.shard? g.job g.shard = some x → x.rec'.role ≠ 1 →
        (x.lost = true → exec i s = .next (u.answerGather g [3])) ∧
        (x.lost = false → (x.rec'.hdom, x.rec'.hpkg) = (u.ownDom, u.ownPkg) →
          exec i s = .next (if x.failed.contains (u.ownDom, u.ownPkg) then u else u.answerGather g [2])) ∧
        (x.lost = false → (x.rec'.hdom, x.rec'.hpkg) ≠ (u.ownDom, u.ownPkg) → exec i s = .next (u.sendTo x.rec'.hdom
          (.gather { dpkg := x.rec'.hpkg, spkg := u.ownPkg, dvr := 0, svr := 0, seq := g.cmd % 2 ^ 32 } g)))) ∧
      (∀ x, u.shard? g.job g.shard = some x → x.rec'.role = 1 →
        let nblk := (x.rec'.elems + 16383) / 16384
        (g.nblk ≠ 0 → nblk < g.block + g.nblk → exec i s = .next (u.answerGather g [2])) ∧
        (g.nblk = 0 ∨ g.block + g.nblk ≤ nblk →
          (x.lost = true → exec i s = .next (u.answerGather g [3])) ∧
          (x.lost = false → g.step ≤ x.rec'.c → exec i s = .next (u.answerGather g [1])) ∧
          (x.lost = false → g.step = x.rec'.c + 1 → exec i s = .next (u.answerGather g (0 :: (List.range g.nblk).flatMap fun i =>
            physBytes u.mem (x.rec'.ebase + (2 * (g.block + i) + x.served) * 32768) (if x.rec'.efmt = 2 then 16388 else 32768)))) ∧
          (x.lost = false → x.rec'.c + 1 < g.step → x.deferred.length < 4096 → exec i s =
            .next (u.modShard g.job g.shard fun x => { x with deferred := x.deferred ++ [g] })) ∧
          (x.lost = false → x.rec'.c + 1 < g.step → 4096 ≤ x.deferred.length → ∃ t, exec i s = .next t ∧
            t.granary = u.granary ∧ ∃ q', t.net = u.net ++ [.gather q' g] ∧ q'.dpkg = u.ownPkg)))) ∧
    (∀ (c : Cmd) (g : GatherMsg) (dst : Space) (dstr : Int) (scales status : Space) (sent : Bool), s.cmd? c.id = some c →
      c.body = .gran g dst dstr scales status sent → g.cmd = c.id → g.dom = s.ownDom → g.pkg = s.ownPkg →
      (c.ending = false → sent = false → s.cmdLive c = true → s.cmdFirst c = true → ∃ t c', exec (.granaryGather g) s = .next t ∧
        t.cmd? c.id = some c' ∧ c'.st = .running ∧ c'.body = .gran g dst dstr scales status true) ∧
      (c.ending = false → sent = true ∨ s.cmdLive c = false ∨ s.cmdFirst c = false → exec (.granaryGather g) s = .next s) ∧
      (c.ending = true → (s.cmdAway c = true → exec (.granaryGather g) s = .next s) ∧
        (s.cmdAway c = false → exec (.granaryGather g) s = .next (s.retireCmd c c.wrote)))) ∧
    (∀ (q : DHdr) (job shard : Nat) (mv : Bool) (mdom mpkg hdom hpkg : Nat) (x : Shard), q.dpkg = s.ownPkg →
      s.shard? job shard = some x → ∃ t y, exec (.placementUpdate (.directory q job shard mv mdom mpkg hdom hpkg none)) s = .next t ∧
      t.shard? job shard = some y ∧ y.rec' = { x.rec' with
        mv := mv, mdom := mdom, mpkg := mpkg, hdom := hdom, hpkg := hpkg,
        role := if (hdom, hpkg) = (s.ownDom, s.ownPkg) ∨ (mv = true ∧ (mdom, mpkg) = (s.ownDom, s.ownPkg)) then x.rec'.role else 0 }) ∧
    (∀ (rec : Sys2Proof.ShardRec) (state served : List Byte),
      (∀ x, s.shard? rec.job rec.shard = some x → x.rec'.role = 3 → ∃ (t : State) (held : List GBlock),
        exec (.seedSnapshotInstall rec state served) s = .next t ∧
        t.shard? rec.job rec.shard = some { Shard.fresh { rec with role := 2 } with
          hyper := x.hyper, snaps := x.snaps, failed := x.failed } ∧ held.Perm x.held ∧
        t.inputs = held.map Instr.gradientBlockArrive ++ s.inputs ∧ Out.confirm rec.hdom rec.hpkg rec.job rec.shard ∈ t.out) ∧
      ((∀ x, s.shard? rec.job rec.shard = some x → x.rec'.role ≠ 3) → exec (.seedSnapshotInstall rec state served) s = .next s)) ∧
    (∀ (job shard : Nat), (∀ x, s.shard? job shard = some x → x.seeding = none) → exec (.seedConfirm job shard) s = .next s) ∧
    (∀ (job shard : Nat) (x : Shard), s.shard? job shard = some x → x.seeding ≠ none → ∃ t, exec (.seedConfirm job shard) s = .next t ∧
      t.shard? job shard = some { x with seeding := none, kept := [], unconfirmed := false }) ∧
    (∀ (dom pkg job shard : Nat), s.shard? job shard = none → exec (.granaryKeeperFail dom pkg job shard) s = .next s) ∧
    (∀ (dom pkg job shard : Nat) (x y : Shard), s.shard? job shard = some x →
      y = (if (dom, pkg) = (s.ownDom, s.ownPkg) then
          { x with failed := x.failed ++ [(dom, pkg)], rec' := { x.rec' with role := 0 }, deferred := [], applying := [], timer := none }
        else { x with failed := x.failed ++ [(dom, pkg)] }) →
      let left := (x.rec'.hdom, x.rec'.hpkg) ∉ y.failed ∨
        (x.rec'.mv = true ∧ x.unconfirmed = false ∧ (x.rec'.mdom, x.rec'.mpkg) ∉ y.failed)
      ∃ t, exec (.granaryKeeperFail dom pkg job shard) s = .next t ∧
        (x.rec'.role = 3 → (dom, pkg) = (x.rec'.hdom, x.rec'.hpkg) → t.shard? job shard = none) ∧
        (x.rec'.role ≠ 3 ∨ (dom, pkg) ≠ (x.rec'.hdom, x.rec'.hpkg) →
          (∀ b, x.seeding = some (dom, pkg, b) → t.shard? job shard = some { y with
            rec' := { y.rec' with mv := false }, seeding := none, kept := [], unconfirmed := false }) ∧
          ((∀ b, x.seeding ≠ some (dom, pkg, b)) → x.lost = false → ¬ left →
            t.shard? job shard = some { y with lost := true, deferred := [] }) ∧
          ((∀ b, x.seeding ≠ some (dom, pkg, b)) → x.lost = true ∨ left → t.shard? job shard = some y)))

/-- Remote accesses at their target, the frame state table, the fault queue (R103, R105, R122, R303, R323, R334, R335,
R377, R414). A REMOTE_LOAD, POSTED_WRITE or ATOMIC for another package goes on. For a physical address of this
package: in an open frame it performs and is answered (a load with the bytes of memory; an atomic with the old value
of its home; a write is held until the boundary of its rank, or written at once when a shoot-down sent it); in a
closed frame, or where no memory is, it is refused with DETAIL 1; in a parked frame it joins the fault queue, or is
returned when 1,024 accesses are there. Through a window of a rank resident here, which names a scratchpad byte and
whose rank shares a coupling group with the source, a load returns the bytes of the phase start and a write is held
until the boundary and acknowledged; one that does not is refused with DETAIL 2. For a rank that is not resident here
both are dropped and counted when it is in transit or has moved away, else refused with DETAIL 0. FRAME_STATE_SET sets
the state of the frame, and unless that is parked no access to it stays in the fault queue. KEEP_WAITING_TIMER of an
access that has waited 65,536 slots tells its requester. -/
def Obligations.RemoteRequestsAtTheirTarget : Prop :=
  ∀ (s : State) (q : DHdr),
    (q.dpkg ≠ s.ownPkg → ∀ (tgt : RTo) (n : Nat) (core : Nat) (st : StrandId) (o a : Nat) (bs : List Byte) (op : RAtom),
      exec (.remoteLoad q tgt n) s = .next (s.forward 32 (.remoteLoad q tgt n)) ∧
      exec (.postedWrite q tgt core st o bs) s = .next (s.forward 32 (.postedWrite q tgt core st o bs)) ∧
      exec (.atomic q a op) s = .next (s.forward 32 (.atomic q a op))) ∧
    (q.dpkg = s.ownPkg → ∀ (a n core o : Nat) (st : StrandId) (bs : List Byte) (op : RAtom),
      let state := (match s.frameStates.find? fun e => e.1 == frameIndex a with
        | some e => e.2.toNat % 4
        | none => 0)
      let back : DHdr := { dpkg := q.spkg, spkg := q.dpkg, dvr := q.svr, svr := q.dvr, seq := q.seq }
      (physExists a = true → state = 1 →
        exec (.remoteLoad q (.phys a) n) s = .next (s.send (.loadData back (physBytes s.mem a n))) ∧
        (o % 3 = 2 → exec (.postedWrite q (.phys a) core st o bs) s =
          .next ({ s with mem := physPut s.mem a bs }.send (.writeAck back))) ∧
        (o % 3 ≠ 2 → exec (.postedWrite q (.phys a) core st o bs) s = .next (({ s with held := s.held ++ [
          { vr := q.svr, engine := o % 3 == 1, core := core, strand := st, order := o, addr := a, bytes := bs }] } : State).send
            (.writeAck back))) ∧
        exec (.atomic q a op) s = .next ((s.atomAt q.svr a op).2.send (.atomicResult back (s.atomAt q.svr a op).1))) ∧
      (physExists a = false ∨ state = 0 ∨ state = 3 →
        exec (.remoteLoad q (.phys a) n) s = .next (s.send (.refusal back 1)) ∧
        exec (.postedWrite q (.phys a) core st o bs) s = .next (s.send (.refusal back 1)) ∧
        exec (.atomic q a op) s = .next (s.send (.refusal back 1))) ∧
      (physExists a = true → state = 2 → ∀ (i : Instr) (m : Demand), (i, m) ∈ [(Instr.remoteLoad q (.phys a) n,
          Demand.remoteLoad q (.phys a) n), (.postedWrite q (.phys a) core st o bs, .postedWrite q (.phys a) core st o bs),
          (.atomic q a op, .atomic q a op)] →
        exec i s = .next (if s.faultq.length < 1024 then { s with faultq := s.faultq ++ [{ msg := m, slots := 0 }] }
          else s.send (.keepWaiting { back with svr := 1 }))) ∧
      (∀ (dst off slot : Nat) (r : Rank), s.rank? q.dvr = some r → r.place = .resident slot →
        let valid := dst < 256 ∧ off < 0x80000 ∧ ∃ g, r.coupling = some g ∧ s.groupOf r.job q.svr = some g
        (valid → exec (.remoteLoad q (.window dst off) n) s = .next (s.send (.loadData back
            (memBytes (s.slot slot).shadow (dst * 0x80000 + off) n))) ∧
          exec (.postedWrite q (.window dst off) core st o bs) s = .next ((s.modRank q.dvr fun r => { r with posted := r.posted ++
            [{ srcVr := q.svr, srcCore := core, srcStrand := st, order := o, core := dst, off := off, bytes := bs }] }).send
              (.writeAck back))) ∧
        (¬ valid → exec (.remoteLoad q (.window dst off) n) s = .next (s.send (.refusal back 2)) ∧
          exec (.postedWrite q (.window dst off) core st o bs) s = .next (s.send (.refusal back 2)))) ∧
      (∀ (dst off : Nat), s.slotOf q.dvr = none →
        let t : State := if s.movedAway q.dvr then { s with dropped := s.dropped + 1 } else s.send (.refusal back 0)
        exec (.remoteLoad q (.window dst off) n) s = .next t ∧ exec (.postedWrite q (.window dst off) core st o bs) s = .next t)) ∧
    (∀ (index : Nat) (v : BitVec 8), ∃ t, exec (.frameStateSet index v) s = .next t ∧ t.frameState index = v.toNat % 4 ∧
      (∀ k, k ≠ index → t.frameState k = s.frameState k) ∧
      (v.toNat % 4 = 2 → t.faultq = s.faultq) ∧
      (v.toNat % 4 ≠ 2 → t.faultq = s.faultq.filter fun p => (demandAddr p.msg).map frameIndex != some index) ∧
      (v.toNat % 4 ≠ 1 → s.SameMemory t)) ∧
    ((∃ p ∈ s.faultq, demandHdr p.msg = q ∧ 65536 ≤ p.slots) → exec (.keepWaitingTimer q) s =
      .next (({ s with faultq := s.faultq.map fun p => if demandHdr p.msg = q ∧ 65536 ≤ p.slots then { p with slots := p.slots - 65536 } else p }
        : State).send (.keepWaiting (replyHdr q)))) ∧
    ((∀ p ∈ s.faultq, demandHdr p.msg = q → p.slots < 65536) → exec (.keepWaitingTimer q) s = .next s)

/-- Answers to a remote access, its sending, its resend and its time-out (R105, R116, R270, R303, R307, R335, R336, R376,
R396, R398, R414). With an access in flight whose number the answer names: LOAD_DATA ends a window load with its
bytes, a peer load with its bytes under the own writes of its core when no engine command of the core is outstanding,
FXRD with the conversion of the cell, and gives the bytes that an engine command fetches to it; ATOMIC_RESULT ends it
with the old value, WRITE_ACKNOWLEDGEMENT ends it and counts a window write out, REFUSAL refuses it with the DETAIL of
the answer, KEEP_WAITING_NOTICE starts its count of slots again and, when the access was returned, has it sent again
after 65,536 slots. Without one, LOAD_DATA ends the gather command of that number (its answer waits while the gang is
off its cores) and WRITE_ACKNOWLEDGEMENT acknowledges a placement or directory change; the others do nothing. An
answer for another package goes on. MEMORY_ACCESS_COMPLETE of a remote access sends its message, or refuses it with
DETAIL 0 where no path leads to its package; FAULT_QUEUE_RESEND sends a returned one again; REMOTE_TIMEOUT refuses one
without an answer for 262,144 slots with DETAIL 0. A refusal traps the strand that holds for the access, else is
recorded for the strand. -/
def Obligations.RemoteAnswersAtTheSource : Prop :=
  ∀ (s : State) (q : DHdr),
    (q.dpkg ≠ s.ownPkg → ∀ (bs : List Byte) (v : BitVec 64) (n : Nat),
      exec (.loadData q bs) s = .next (s.forward 32 (.loadData q bs)) ∧
      exec (.writeAcknowledgement q) s = .next (s.forward 32 (.writeAck q)) ∧
      exec (.atomicResult q v) s = .next (s.forward 32 (.atomicResult q v)) ∧
      exec (.keepWaitingNotice q) s = .next (s.forward 32 (.keepWaiting q)) ∧
      exec (.refusal q n) s = .next (s.forward 32 (.refusal q n))) ∧
    (q.dpkg = s.ownPkg → ∀ (r : Rank) (a : Access), s.accessOf q.seq = some (r, a) →
      (∀ bs w vr core off d n, a.dst = .window w vr core off → a.op = .load d n →
        exec (.loadData q bs) s = .next (s.endAccess a (BitVec.ofNat 64 (leNat bs)))) ∧
      (∀ bs p x, a.dst = .peer p x → ∃ t : State, t = { s with free := t.free } ∧
        (∀ d n, a.op = .load d n → ∃ bs', exec (.loadData q bs) s = .next (t.endAccess a (BitVec.ofNat 64 (leNat bs'))) ∧
          bs'.length = bs.length ∧ (s.NoCmds a.by' → bs' = r.overlay a.by'.core (.peer p x) bs)) ∧
        (∀ d g, a.op = .fxrd d g → exec (.loadData q bs) s =
          .next (t.endAccess a ((fxReadCell (BitVec.ofNat 128 (leNat bs)) g.toInt).setWidth 64))) ∧
        (∀ id pos n, a.op = .cmdLoad id pos n → exec (.loadData q bs) s =
          .next ((t.dropAccess a.id).cmdData id pos ((bs ++ List.replicate n 0).take n) 0))) ∧
      (∀ v, exec (.atomicResult q v) s = .next (s.endAccess a v)) ∧
      (∃ t, exec (.writeAcknowledgement q) s = .next t ∧ (∀ k ∈ t.ranks, ∀ b ∈ k.accesses, b.id ≠ a.id) ∧ s.SameMemory t ∧
        ∀ k, s.rank? a.by'.vr = some k → ∃ k', t.rank? a.by'.vr = some k' ∧
          (∀ i, i < 16 → k'.walOut[i]?.getD 0 = (k.walOut[i]?.getD 0) - (match a.dst with
            | .window w _ _ _ => if i = w then (1 : BitVec 16) else 0
            | _ => (0 : BitVec 16)))) ∧
      (∀ n, exec (.refusal q n) s = .next (s.refuseAccess a n)) ∧
      exec (.keepWaitingNotice q) s = .next (s.modAccess a.id fun a =>
        { a with slots := 0, resend := if q.svr = 1 then some 65536 else a.resend })) ∧
    (q.dpkg = s.ownPkg → s.accessOf q.seq = none → ∀ (v : BitVec 64) (n : Nat),
      exec (.atomicResult q v) s = .next s ∧ exec (.keepWaitingNotice q) s = .next s ∧ exec (.refusal q n) s = .next s ∧
      (s.gatherCmd? q.seq = none → ∀ bs, exec (.loadData q bs) s = .next s) ∧
      (∀ c, s.gatherCmd? q.seq = some c →
        (s.cmdLive c = false → ∀ bs, exec (.loadData q bs) s = .next { s with net := s.net ++ [.loadData q bs] }) ∧
        (s.cmdLive c = true → c.ending = false → ∀ bs, ∃ t, exec (.loadData q bs) s = .next t ∧
          (t.cmd? c.id = none ∨ ∃ c', t.cmd? c.id = some c' ∧ c'.ending = true) ∧
          ∀ g dst dstr scales x sent k (st : Byte), c.body = .gran g dst dstr scales (.glob 0 0 x) sent → c.spoiled = [] → st ≠ 0 →
            bs = [st] → s.rank? c.by'.vr = some k → t.cmd? c.id = none ∧ ∃ k' w, t.rank? c.by'.vr = some k' ∧
              k'.engView = k.engView ++ [w] ∧
              w.bytes = (leBytes 4 st.toNat).zipIdx.map fun p => { dst := .phys (x + p.2), val := p.1 })) ∧
      (∃ t, exec (.writeAcknowledgement q) s = .next t ∧ ∀ p ∈ t.pubs, p.awaiting ≠ [] ∧ ∀ i ∈ p.awaiting, i % 2 ^ 32 ≠ q.seq)) ∧
    (∀ (r : Rank) (a : Access), s.access? a.id = some (r, a) →
      (∀ (m : Demand) (own : Nat → DHdr) (far : Nat → DHdr),
        (own = fun vr => s.hdrFor vr a.by'.vr a.id) →
        (far = fun pkg => { dpkg := pkg, spkg := s.ownPkg, dvr := 0, svr := a.by'.vr, seq := a.id % 2 ^ 32 }) →
        ((∃ w vr core off d n, a.dst = .window w vr core off ∧ a.op = .load d n ∧ m = .remoteLoad (own vr) (.window core off) n) ∨
          (∃ w vr core off bs, a.dst = .window w vr core off ∧ a.op = .store bs ∧
            m = .postedWrite (own vr) (.window core off) a.by'.core a.by'.strand a.order bs) ∨
          (∃ pkg x d n, a.dst = .peer pkg x ∧ a.op = .load d n ∧ m = .remoteLoad (far pkg) (.phys x) n) ∨
          (∃ pkg x d g, a.dst = .peer pkg x ∧ a.op = .fxrd d g ∧ m = .remoteLoad (far pkg) (.phys x) 16) ∨
          (∃ pkg x o d n v, a.dst = .peer pkg x ∧ a.op = .atom o d n v ∧ m = .atomic (far pkg) x (.atom o n v)) ∨
          (∃ pkg x d n e v, a.dst = .peer pkg x ∧ a.op = .acas d n e v ∧ m = .atomic (far pkg) x (.acas n e v)) ∨
          (∃ pkg x g v, a.dst = .peer pkg x ∧ a.op = .fxadd g v ∧ m = .atomic (far pkg) x (.fxadd g v)) ∨
          (∃ pkg x bs, a.dst = .peer pkg x ∧ a.op = .store bs ∧
            m = .postedWrite (far pkg) (.phys x) a.by'.core a.by'.strand a.order bs) ∨
          (∃ pkg x id n n', a.dst = .peer pkg x ∧ a.op = .cmdLoad id n n' ∧ m = .remoteLoad (far pkg) (.phys x) n') ∨
          (∃ pkg x id bs, a.dst = .peer pkg x ∧ a.op = .cmdStore id bs ∧
            m = .postedWrite (far pkg) (.phys x) a.by'.core a.by'.strand a.order bs)) →
        (a.sent = false → r.behind a = false → a.dst.isPeer = false ∨ s.noPath (demandHdr m) = false →
          exec (.memoryAccessComplete a.id) s = .next ((s.modAccess a.id fun a => { a with sent := true, slots := 0 }).send m)) ∧
        (a.sent = false → r.behind a = false → a.dst.isPeer = true → s.noPath (demandHdr m) = true →
          exec (.memoryAccessComplete a.id) s = .next (s.refuseAccess a 0)) ∧
        (a.sent = true ∨ r.behind a = true → exec (.memoryAccessComplete a.id) s = .next s) ∧
        (a.resend = some 0 → exec (.faultQueueResend a.id) s =
          .next ((s.modAccess a.id fun a => { a with resend := none, slots := 0 }).send m))) ∧
      (a.resend ≠ some 0 → exec (.faultQueueResend a.id) s = .next s) ∧
      (a.sent = true → 262144 ≤ a.slots → a.resend = none → exec (.remoteTimeout a.id) s = .next (s.refuseAccess a 0)) ∧
      (a.sent = false ∨ a.slots < 262144 ∨ a.resend ≠ none → exec (.remoteTimeout a.id) s = .next s) ∧
      (∀ (d : Nat) (st : Strand), s.strand? a.by' = some st →
        (st.wait ≠ some (.access a.id) → ∃ st', (s.refuseAccess a d).strand? a.by' = some st' ∧
          st'.asyncs = st.asyncs ++ [{ cause := 0x10, tval := a.va, detail := d, src := 2, zidx := 0 }]) ∧
        (st.wait = some (.access a.id) → st.tlevel < 2 → st.tvec ≠ 0 → ∃ st', (s.refuseAccess a d).strand? a.by' = some st' ∧
          st'.tlevel = st.tlevel + 1 ∧ st'.pc = st.tvec + 64 * 0x10 ∧ st'.wait = none)))

/-- The furrow table, departures, flits at routers and transfers that end (R406, R407, R408, R409, R410, R411, R412, R416,
R417). FURROW_TABLE_LOAD of a table of legal entries under a legal period replaces the table, any other changes
nothing. FURROW_DEPART of the first waiting transfer in a slot that matches OFF sends its flits, as many as its bytes
and CRC fill, in scheduled slots on every output link of the entry, or into the own combine node; otherwise nothing
happens. SCHEDULED_FLIT_ARRIVE of a flit without an entry reports event 6; at the origin it leaves in this slot, at a
router 40 slots later, where a furrow ends it is taken, at a combine node the result leaves 40 slots later once both
operands have come; a transfer of one flit whose CRC holds is delivered, noted and acknowledged, one whose CRC fails
is dropped and answered with a NACK, one that has been delivered is acknowledged anew. FLIT_FORWARD, in a scheduled
slot, puts the first flit due on a link that is up and not fenced, and drops the others of that slot. TRANSFER_FAIL
answers a transfer whose last slot has passed with a NACK. TRANSFER_ACK of the last package ends the transfer;
TRANSFER_NACK has it leave again, the eighth time it is given up with event 2; for another package they go on. -/
def Obligations.FurrowTransfers : Prop :=
  ∀ s : State,
    (∀ t : FurrowLoad,
      let legal := (∃ k, k < 15 ∧ t.sper = 2 ^ (10 + k)) ∧ t.entries.length ≤ 65536 ∧ ∀ e ∈ t.entries, furLegal t.sper e = true
      (legal → exec (.furrowTableLoad t) s = .next { s with fabric := { s.fabric with
        sper := t.sper, furrows := t.entries, consumers := t.consumers, holders := t.holders, routes := t.routes, boundary := t.boundary } }) ∧
      (¬ legal → exec (.furrowTableLoad t) s = .next s)) ∧
    (∀ fid : Nat, (s.fabric.furrows.find? (fun e => furFid e == fid && furInjects e) = none ∨
        s.fabric.outs.find? (fun x => x.fid == fid && x.departed.isNone) = none) → exec (.furrowDepart fid) s = .next s) ∧
    (∀ (fid : Nat) (e : BitVec 128) (x : XferOut), s.fabric.furrows.find? (fun e => furFid e == fid && furInjects e) = some e →
      s.fabric.outs.find? (fun x => x.fid == fid && x.departed.isNone) = some x →
      (s.fabric.dtb.toNat % s.fabric.sper = furOff e → x.ready ≤ s.fabric.dtb.toNat → (x.bytes.length + 59) / 56 ≤ furNflit e → ∃ t,
        exec (.furrowDepart fid) s = .next t ∧
        (furRole e = 1 → t.fabric.departing.length = s.fabric.departing.length + (x.bytes.length + 59) / 56 * (furOuts e).length ∧
          ∀ d ∈ t.fabric.departing, d ∈ s.fabric.departing ∨ (d.link ∈ furOuts e ∧ s.fabric.dtb.toNat ≤ d.slot ∧ d.slot % 8 ≠ 7 ∧
            d.flit.fid = fid ∧ d.flit.xfer = x.xfer)) ∧
        (furRole e ≠ 1 → ∃ c ∈ t.fabric.combining, c.fid = fid ∧ c.xfer = x.xfer) ∧
        (∀ y ∈ t.fabric.outs, y.fid = fid → y.xfer = x.xfer → y.departed = some s.fabric.dtb.toNat) ∧ t.ranks = s.ranks ∧
        s.SameMemory t) ∧
      (s.fabric.dtb.toNat % s.fabric.sper ≠ furOff e ∨ s.fabric.dtb.toNat < x.ready ∨ furNflit e < (x.bytes.length + 59) / 56 →
        exec (.furrowDepart fid) s = .next s)) ∧
    (∀ (input : Nat) (f : Flit),
      let entry := s.fabric.furrows.find? fun e => furFid e == f.fid && (furInl e == input || (furRole e == 5 && furInr e == input))
      let leave := fun (e : BitVec 128) (slot : Nat) => ({ s with fabric := { s.fabric with
        departing := s.fabric.departing ++ (furOuts e).map fun l => { link := l, slot := slot, input := input, flit := f } } } : State)
      (entry = none → exec (.scheduledFlitArrive input f) s = .next (s.fabricEvent 6 (input + 2 ^ 8 * f.fid))) ∧
      (∀ e, entry = some e → furRole e = 1 → exec (.scheduledFlitArrive input f) s = .next (leave e s.fabric.dtb.toNat)) ∧
      (∀ e, entry = some e → furRole e = 2 → exec (.scheduledFlitArrive input f) s = .next (leave e (s.fabric.dtb.toNat + 40))) ∧
      (∀ e, entry = some e → furRole e = 4 →
        exec (.scheduledFlitArrive input f) s = .next ((leave e (s.fabric.dtb.toNat + 40)).takeFlit e f)) ∧
      (∀ e, entry = some e → furRole e = 5 → ∃ t, exec (.scheduledFlitArrive input f) s = .next t ∧ t.ranks = s.ranks ∧
        (∃ c ∈ t.fabric.combining, c.fid = f.fid ∧ c.xfer = f.xfer) ∧
        ∀ c, s.fabric.combining.find? (fun c => c.fid == f.fid && c.xfer == f.xfer) = some c →
          t.fabric.departing.length = s.fabric.departing.length +
            (if (if input = furInl e then c.right else c.left).any fun p => p.1 == f.idx then (furOuts e).length else 0)) ∧
      (∀ e, entry = some e → furRole e = 3 → exec (.scheduledFlitArrive input f) s = .next (s.takeFlit e f) ∧
        ((f.fid, f.xfer) ∈ s.fabric.delivered → exec (.scheduledFlitArrive input f) s =
          .next (if f.idx = 0 then s.answerXfer f.fid f.xfer true else s))) ∧
      (∀ e, entry = some e → furRole e = 3 → f.idx = 0 →
        (f.fid, f.xfer) ∉ s.fabric.delivered → (∀ x ∈ s.fabric.ins, ¬ (x.fid = f.fid ∧ x.xfer = f.xfer)) →
        s.isBoundary f.fid = false →
        let bytes := leBytes 56 f.payload.toNat
        let len := 16 + leNat ((bytes.drop 4).take 4) / 2
        (∀ (dst : List Nat) (vr slot ep src tag : Nat) (r : Rank),
          s.fabric.consumers.find? (fun c => c.1 == f.fid) = some (f.fid, dst, .landing vr slot ep src tag) →
          s.rank? vr = some r → r.place ≠ .transit → (∀ y ∈ s.cmds, y.by'.vr ≠ vr) →
          1 ≤ furNflit e → len ≤ 52 → leBytes 4 (crc32c (bytes.take len)).toNat = bytes.drop 52 → leNat ((bytes.drop 8).take 8) = 0 →
          ∃ t q, exec (.scheduledFlitArrive input f) s = .next t ∧ (f.fid, f.xfer) ∈ t.fabric.delivered ∧ t.rank? vr = some q ∧
            q.landing = r.landing ++ [{
              slot := slot, replay := leNat (bytes.take 4), endpoint := ep, src := src, tag := tag, bytes := (bytes.take len).drop 16, whole := leNat ((bytes.drop 4).take 4) % 2 == 1 }]) ∧
        (furNflit e = 1 → ¬ (len ≤ 52 ∧ leBytes 4 (crc32c (bytes.take len)).toNat = bytes.drop 52) → ∃ t,
          exec (.scheduledFlitArrive input f) s = .next t ∧ t.ranks = s.ranks ∧ t.fabric.delivered = s.fabric.delivered ∧
          (∀ x ∈ t.fabric.ins, ¬ (x.fid = f.fid ∧ x.xfer = f.xfer))))) ∧
    (∀ link : Nat,
      (s.fabric.dtb.toNat % 8 = 7 ∨ (∀ d ∈ s.fabric.departing, d.link = link → s.fabric.dtb.toNat < d.slot) →
        exec (.flitForward link) s = .next s) ∧
      (∀ d ∈ s.fabric.departing, d.link = link → d.slot ≤ s.fabric.dtb.toNat → s.fabric.dtb.toNat % 8 ≠ 7 →
        (∀ x ∈ s.fabric.departing, x.link = link → x.slot ≤ s.fabric.dtb.toNat → x ≠ d →
          d.slot < x.slot ∨ (d.slot = x.slot ∧ d.input < x.input)) → ∃ t, exec (.flitForward link) s = .next t ∧
        t.fabric.departing = (s.fabric.departing.filter fun x => !(x.link == link && x.slot == d.slot)) ∧
        t.out = s.out ++ (if s.fabric.links[link]?.any fun l => l.up && !l.fenced then [.flit link (flitWord d.flit)] else []))) ∧
    (∀ (fid xfer : Nat),
      ((fid, xfer) ∈ s.fabric.delivered → exec (.transferFail fid xfer) s = .next (s.answerXfer fid xfer true)) ∧
      ((fid, xfer) ∉ s.fabric.delivered →
        (s.fabric.ins.find? (fun x => x.fid == fid && x.xfer == xfer) = none →
          exec (.transferFail fid xfer) s = .next (s.answerXfer fid xfer false)) ∧
        ∀ x, s.fabric.ins.find? (fun x => x.fid == fid && x.xfer == xfer) = some x →
        (x.lastSlot < s.fabric.dtb.toNat → exec (.transferFail fid xfer) s = .next ((s.dropIn fid xfer).answerXfer fid xfer false)) ∧
        (s.fabric.dtb.toNat ≤ x.lastSlot → exec (.transferFail fid xfer) s = .next s))) ∧
    (∀ (q : DHdr) (fid xfer : Nat), q.dpkg ≠ s.ownPkg →
      exec (.transferAck q fid xfer) s = .next (s.forward 32 (.transferAck q fid xfer)) ∧
      exec (.transferNack q fid xfer) s = .next (s.forward 32 (.transferNack q fid xfer))) ∧
    (∀ (q : DHdr) (fid xfer : Nat), q.dpkg = s.ownPkg → (∀ y ∈ s.fabric.outs, ¬ (y.fid = fid ∧ y.xfer = xfer)) →
      exec (.transferAck q fid xfer) s = .next s) ∧
    (∀ (q : DHdr) (fid xfer : Nat) (x : XferOut), q.dpkg = s.ownPkg →
      s.fabric.outs.find? (fun x => x.fid == fid && x.xfer == xfer) = some x →
      ((∀ p ∈ x.awaiting, p = q.spkg) → ∃ t, exec (.transferAck q fid xfer) s = .next t ∧
        (∀ y ∈ t.fabric.outs, ¬ (y.fid = fid ∧ y.xfer = xfer)) ∧ t.ranks = s.ranks ∧ s.SameMemory t) ∧
      ((∃ p ∈ x.awaiting, p ≠ q.spkg) → exec (.transferAck q fid xfer) s = .next { s with fabric := { s.fabric with
        outs := s.fabric.outs.map fun y => if y.fid = fid ∧ y.xfer = xfer
          then { y with awaiting := x.awaiting.filter fun p => p != q.spkg } else y } }) ∧
      (x.departed ≠ none → x.attempts < 7 → exec (.transferNack q fid xfer) s = .next { s with fabric := { s.fabric with
        outs := s.fabric.outs.map fun y => if y.fid = fid ∧ y.xfer = xfer
          then { y with attempts := y.attempts + 1, departed := none, ready := s.fabric.dtb.toNat } else y } }) ∧
      (x.departed ≠ none → 7 ≤ x.attempts → ∃ t, exec (.transferNack q fid xfer) s = .next t ∧
        (∀ y ∈ t.fabric.outs, ¬ (y.fid = fid ∧ y.xfer = xfer)))) ∧
    (∀ (q : DHdr) (fid xfer : Nat), q.dpkg = s.ownPkg → (∀ y ∈ s.fabric.outs, y.fid = fid → y.xfer = xfer → y.departed = none) →
        exec (.transferNack q fid xfer) s = .next s)

/-- Headland slots, link training, loss of lock (R405, R406, R413, R418, R419, R420, R421). HEADLAND_SLOT in a slot s with
s mod 8 = 7 sends the demand flit that waits on the input to which the slot belongs, (h + o) mod 33 for headland
number h and output o, or on the next one in ascending order that has one, when the link is up; in another slot, or
with none, nothing happens. TRAINING_RECORD on a link that trains: a record with a bad CRC has the link train once
more, and a second time fences it; an offer is answered by the agreement of the two offers, or fences the link when no
lane is good; an agreement equal to the one of this end brings the link up, and a package that joins its domain takes
the time in it; another has it train once more as a bad CRC does. LINK_LOSS_OF_LOCK of a link that is up takes it down
and starts training with a fresh offer; of a link that is not up it does nothing. -/
def Obligations.HeadlandSlotsAndLinks : Prop :=
  (∀ (s : State) (link : Nat), s.fabric.links[link]? = none → exec (.headlandSlot link) s = .next s ∧
    exec (.linkLossOfLock link) s = .next s ∧ ∀ r, exec (.trainingRecord link r) s = .next s) ∧
  ∀ (s : State) (link : Nat) (l : Link), s.fabric.links[link]? = some l →
    (∀ (m : HeadFlit) (i : Nat), i < 33 → s.fabric.dtb.toNat % 8 = 7 →
      s.fabric.head.find? (fun x => x.link == link && x.input == (s.fabric.dtb.toNat / 8 + link + i) % 33) = some m →
      (∀ j, j < i → ∀ x ∈ s.fabric.head, x.link = link → x.input ≠ (s.fabric.dtb.toNat / 8 + link + j) % 33) →
      l.up = true → l.fenced = false →
      exec (.headlandSlot link) s = .next { s with fabric := { s.fabric with head := s.fabric.head.erase m },
                                                   out := s.out ++ [.demand link m.msg] }) ∧
    (s.fabric.dtb.toNat % 8 ≠ 7 ∨ l.up = false ∨ l.fenced = true ∨ (∀ x ∈ s.fabric.head, x.link ≠ link) → exec (.headlandSlot link) s = .next s) ∧
    (l.offer = none → ∀ r, exec (.trainingRecord link r) s = .next s) ∧
    (∀ own r : BitVec 128, l.offer = some own →
      (trCrc r ≠ r.extractLsb' 96 32 → l.round = 0 → exec (.trainingRecord link r) s = .next (s.sendOffer link 1)) ∧
      (trCrc r ≠ r.extractLsb' 96 32 → l.round ≠ 0 → ∃ t l', exec (.trainingRecord link r) s = .next t ∧
        t.fabric.links[link]? = some l' ∧ l'.up = false ∧ l'.fenced = true ∧ l'.offer = none) ∧
      (trCrc r = r.extractLsb' 96 32 → trPass r = 1 →
        (∀ n v, agreement own r = some (n, v) → ∃ t rec, exec (.trainingRecord link r) s = .next t ∧
          t.fabric.links[link]? = some { l with lanes := n, spd := v } ∧ t.out = s.out ++ [.training link rec] ∧
          trPass rec = 2 ∧ bitsAt rec 64 8 = 2 ^ n - 1 ∧ trSpd rec = v ∧ trCrc rec = rec.extractLsb' 96 32) ∧
        (agreement own r = none → ∃ t l', exec (.trainingRecord link r) s = .next t ∧
          t.fabric.links[link]? = some l' ∧ l'.up = false ∧ l'.fenced = true)) ∧
      (trCrc r = r.extractLsb' 96 32 → trPass r = 2 → l.lanes ≠ 0 → bitsAt r 64 8 = 2 ^ l.lanes - 1 → trSpd r = l.spd → ∃ t,
        exec (.trainingRecord link r) s = .next t ∧ t.fabric.joining = false ∧
        t.fabric.dtb = (if s.fabric.joining then putBits s.fabric.dtb 0 32 (bitsAt r 0 32) else s.fabric.dtb) ∧
        t.fabric.links[link]? = some { l with up := true, fenced := false, offer := none, round := 0 }) ∧
      (trCrc r = r.extractLsb' 96 32 → trPass r = 2 → l.lanes = 0 ∨ bitsAt r 64 8 ≠ 2 ^ l.lanes - 1 ∨ trSpd r ≠ l.spd →
        (l.round = 0 → exec (.trainingRecord link r) s = .next (s.sendOffer link 1)) ∧
        (l.round ≠ 0 → ∃ t l', exec (.trainingRecord link r) s = .next t ∧
          t.fabric.links[link]? = some l' ∧ l'.up = false ∧ l'.fenced = true ∧ l'.offer = none)) ∧
      (trCrc r = r.extractLsb' 96 32 → trPass r = 0 ∨ trPass r = 3 → exec (.trainingRecord link r) s = .next s)) ∧
    (∀ own r n v, agreement own r = some (n, v) → n ∈ [1, 2, 4, 8] ∧ n ≤ goodLanes own r ∧ v = max (trSpd own) (trSpd r) ∧ v < 3) ∧
    (l.up = false → exec (.linkLossOfLock link) s = .next s) ∧
    (l.up = true → ∃ t l' rec, exec (.linkLossOfLock link) s = .next t ∧ t.fabric.links[link]? = some l' ∧ l'.up = false ∧
      l'.offer = some rec ∧ l'.round = 0 ∧ (∀ d ∈ t.fabric.departing, d.link ≠ link) ∧ Out.training link rec ∈ t.out ∧
      trPass rec = 1 ∧ trCrc rec = rec.extractLsb' 96 32)

/-- Frames of the scale-out transport (R423, R424, R425, R426, R284). A frame with a bad CRC does nothing. FRAME_ACK ends
the frames of its connection before ACKSEQ; FRAME_NACK also resends the frame of the gap; TRANSPORT_RESEND resends the
frames that have waited 50,000 slots, and fails the connection when one of them has been resent 32 times. A data frame
(COLLECTIVE_CHUNK, GRANARY_BLOCK, DEMAND_TRAFFIC_FRAME, MIGRATION_DATA of another domain) whose number is the next of
its connection advances the number and is acknowledged, and is delivered: a chunk into the landing area of its rank,
the last frame of a block to the granary here, a demand message of this package to it. One with a number still to come
is answered with a NACK and not delivered, one with an old number is acknowledged and not delivered. -/
def Obligations.ScaleOutTransport : Prop :=
  ∀ (s : State) (f : FrameHdr),
    let c := s.conn f.port f.dom f.pkg
    let now := fun (t : State) => t.conn f.port f.dom f.pkg
    (∀ (slot : Nat) (bs : List Byte) (b : GBlock) (d : Demand) (p : MigPart) (i : Instr),
      i ∈ [Instr.collectiveChunk f slot bs, .granaryBlock f b, .demandTrafficFrame f d] ∨ (f.dom ≠ s.ownDom ∧ i = .migrationData f p) →
      (f.crcOk = false → exec i s = .next s) ∧
      (f.crcOk = true → f.seq ≠ c.recvNext → exec i s = .next ((s.ackFrames c f.ackseq).answerFrame
        (now (s.ackFrames c f.ackseq)) (if seqBefore f.seq c.recvNext then 2 else 3))) ∧
      (f.crcOk = true → f.seq = c.recvNext → ∃ t h, exec i s = .next t ∧ (now t).recvNext = (c.recvNext + 1) % 2 ^ 32 ∧
        Out.frame f.port 2 h .none ∈ t.out ∧ h.ackseq = (c.recvNext + 1) % 2 ^ 32 ∧
        (∀ r, i = .collectiveChunk f slot bs → s.rank? f.dvr = some r → r.place ≠ .transit → (∀ y ∈ s.cmds, y.by'.vr ≠ f.dvr) → f.offset = 0 →
          (t.rank? f.dvr).map (fun q => q.landing) = some (r.landing ++ [{
            slot := slot, replay := f.replay, endpoint := f.endpt, src := f.svr, tag := f.tag, bytes := bs, whole := f.last }])) ∧
        (i = .granaryBlock f b → f.last = true → f.dvr = s.ownPkg → t.inputs = s.inputs ++ [.gradientBlockArrive b]) ∧
        (i = .granaryBlock f b → f.last = false ∨ f.dvr ≠ s.ownPkg → t.inputs = s.inputs) ∧
        (i = .demandTrafficFrame f d → (demandHdr d).dpkg = s.ownPkg → t.net = s.net ++ [d]))) ∧
    (f.crcOk = false → ∀ gap, exec (.frameAck f) s = .next s ∧ exec (.frameNack f gap) s = .next s) ∧
    (f.crcOk = true → ∃ t, exec (.frameAck f) s = .next t ∧
      (now t).unacked = c.unacked.filter (fun x => !seqBefore x.seq f.ackseq) ∧ (now t).recvNext = c.recvNext ∧ t.ranks = s.ranks ∧
      s.SameMemory t) ∧
    (f.crcOk = true → (∀ x ∈ c.unacked, x.resends < 32 ∧ seqBefore x.seq f.ackseq = false) → ∀ gap, ∃ t,
      exec (.frameNack f gap) s = .next t ∧ (now t).unacked.map (fun x => x.seq) = c.unacked.map (fun x => x.seq) ∧
      (∀ x ∈ c.unacked.take 4096, x.seq = gap → ∃ h, h.seq = x.hdr.seq ∧ Out.frame x.hdr.port x.kind h x.body ∈ t.out)) ∧
    ((∀ x ∈ c.unacked, x.resends < 32) → ∃ t, exec (.transportResend f.port f.dom f.pkg) s = .next t ∧
      (now t).unacked.map (fun x => x.seq) = c.unacked.map (fun x => x.seq) ∧
      (∀ x ∈ c.unacked.take 4096, 50000 ≤ x.age → ∃ h, h.seq = x.hdr.seq ∧ Out.frame x.hdr.port x.kind h x.body ∈ t.out) ∧
      (∀ x ∈ (now t).unacked.take 4096, x.age < 50000)) ∧
    ((∃ x ∈ c.unacked.take 4096, 50000 ≤ x.age ∧ 32 ≤ x.resends) → ∃ t,
      exec (.transportResend f.port f.dom f.pkg) s = .next t ∧ (now t).failed = true ∧ (now t).unacked = [])

/-- The mailboxes and the messages of the host, and the code that a load translates (R427, R428, R429, R433, R434, R435,
R291, R436, R3). Every message act completes in every state. For its own code, with room for an answer: PARTITION
writes PARTCFG once every slot whose number changes is idle, and waits before that; LOADJOB of a refused image answers
its status, of an accepted one with a plan that fits holds the ranks of the plan and answers 0, with the translated
code of the portable section in memory if that is used, and with a plan that does not fit nothing happens (the plan is
the model's argument, log entry 10); ENDJOB leaves no rank and no record of its job; RESET once READY, or after a
failed stage, starts bring-up again with nothing loaded; codes 0x80 to 0xFF pass to the supervisor; other codes answer
1, and before READY every message answers 2. An answer carries code, tag and status and takes one slot of each
mailbox. Without a message, without room for the answer, or for another act's message, nothing happens. A translation
keeps the M words and the V words in record order; legal records without loops always translate, keep their X words in
order too, and each bundle waits until the M and V results of the bundle before it have landed. HOST_BAR_WRITE writes
a mailbox word or a mailbox counter and no other offset. -/
def Obligations.HostMailbox : Prop :=
  ∀ s : State,
    (∀ (m : BitVec 512) (st : Nat), st < 2 ^ 32 →
      let t := s.answer m st
      let a := mailSlot t.host.outbound (mbTail s.host.mbout)
      a.toNat = m.toNat % 2 ^ 8 + 2 ^ 16 * (m.toNat / 2 ^ 16 % 2 ^ 16) + 2 ^ 32 * st ∧
      mbTail t.host.mbout = (mbTail s.host.mbout + 1) % 2 ^ 16 ∧ mbHead t.host.mbout = mbHead s.host.mbout ∧
      mbHead t.host.mbin = (mbHead s.host.mbin + 1) % 2 ^ 16 ∧ mbTail t.host.mbin = mbTail s.host.mbin) ∧
    (s.message = none → ∀ (p : Sys2Proof.LoadPlan) (job : Nat), exec .partition s = .next s ∧ exec (.loadjob p) s = .next s ∧
      exec (.endjob job) s = .next s ∧ exec .reset s = .next s ∧ exec .supervisorMessage s = .next s ∧
      exec .mailboxUnknownCode s = .next s) ∧
    (s.replyRoom = false → ∀ (p : Sys2Proof.LoadPlan) (job : Nat), exec .partition s = .next s ∧ exec (.loadjob p) s = .next s ∧
      exec (.endjob job) s = .next s ∧ exec .reset s = .next s ∧ exec .mailboxUnknownCode s = .next s) ∧
    (∀ m : BitVec 512, s.message = some m →
      let code := m.toNat % 2 ^ 8
      (s.boot.ready = false ∨ code ≠ 1 → exec .partition s = .next s) ∧
      (s.boot.ready = false ∨ code ≠ 2 → ∀ p : Sys2Proof.LoadPlan, exec (.loadjob p) s = .next s) ∧
      (s.boot.ready = false ∨ code ≠ 3 → ∀ job : Nat, exec (.endjob job) s = .next s) ∧
      (s.boot.ready = false ∧ s.boot.stage ≠ 15 ∨ code ≠ 4 → exec .reset s = .next s) ∧
      (s.boot.ready = false ∨ code < 0x80 → exec .supervisorMessage s = .next s) ∧
      (s.boot.ready = true → 1 ≤ code → code ≤ 4 ∨ 0x80 ≤ code → exec .mailboxUnknownCode s = .next s) ∧
      (s.boot.stage = 15 → code = 4 → exec .mailboxUnknownCode s = .next s) ∧
      (s.boot.ready = true → 0x80 ≤ code → ∃ t, exec .supervisorMessage s = .next t ∧ t.host.toSup = s.host.toSup ++ [m] ∧
        t.host.outbound = s.host.outbound ∧ mbHead t.host.mbin = (mbHead s.host.mbin + 1) % 2 ^ 16)) ∧
    (∀ m : BitVec 512, s.message = some m → s.replyRoom = true →
      let code := m.toNat % 2 ^ 8
      let v := mailOperand m 0
      (s.boot.ready = true → code = 1 →
        ((∀ k, k < 16 → bitsAt v (4 * k) 4 ≠ bitsAt s.partcfg (4 * k) 4 → s.slotIdle k = true) →
          exec .partition s = .next ({ s with partcfg := v }.answer m 0)) ∧
        ((∃ k, k < 16 ∧ bitsAt v (4 * k) 4 ≠ bitsAt s.partcfg (4 * k) 4 ∧ s.slotIdle k = false) → exec .partition s = .next s)) ∧
      (s.boot.ready = true → code = 2 → ∀ p : Sys2Proof.LoadPlan,
        let st := s.loadStatus p v.toNat (mailOperand m 1).toNat
        (st.1 ≠ 0 → exec (.loadjob p) s = .next (s.answer m st.1)) ∧
        (st.1 = 0 → s.planOk p (mailOperand m 2).toNat = false → exec (.loadjob p) s = .next s) ∧
        (st.1 = 0 → s.planOk p (mailOperand m 2).toNat = true → ∃ t, exec (.loadjob p) s = .next t ∧
          1 ≤ (mailOperand m 2).toNat ∧ (mailOperand m 2).toNat ≤ 16777216 ∧
          (∀ (l : List (Nat × List (BitVec 128))) (q : Nat × List (BitVec 128)) (words : List (BitVec 32)), st.2 = true → p.records = l ++ [q] → Machine.translate q.2 = some words → Memory.wf s.mem = true →
            (∀ i, i < 4 * words.length → physExists (q.1 + i) = true) →
            ∀ i, i < words.length → leNat (physBytes t.mem (q.1 + 4 * i) 4) = (words[i]?.getD 0).toNat) ∧
          t.ranks.map (fun r => (r.vr, r.job, r.stepno)) = s.ranks.map (fun r => (r.vr, r.job, r.stepno)) ++
            p.ranks.map (fun r => (r.vr, p.job, (1 : Word))) ∧
          t.jobs = s.jobs ++ [{ id := p.job, n := (mailOperand m 2).toNat, seed := mailOperand m 3, groups := p.groups, arrived := [] }] ∧
          mbHead t.host.mbin = (mbHead s.host.mbin + 1) % 2 ^ 16)) ∧
      (s.boot.ready = true → code = 3 → ∀ job, ∃ t, exec (.endjob job) s = .next t ∧ (∀ r ∈ t.ranks, r.job ≠ job) ∧
        (∀ j ∈ t.jobs, j.id ≠ job) ∧ mbHead t.host.mbin = (mbHead s.host.mbin + 1) % 2 ^ 16) ∧
      (s.boot.ready = true ∨ s.boot.stage = 15 → code = 4 → ∃ t, exec .reset s = .next t ∧
        t.boot = { stage := 1, fail := 0, err := false, ready := false, fwver := 0 } ∧ t.ranks = [] ∧ t.jobs = [] ∧ t.cmds = [] ∧
        t.pkgid = 0 ∧ t.partcfg = 0 ∧ t.mem = s.mem ∧ mbHead t.host.mbin = (mbHead s.host.mbin + 1) % 2 ^ 16) ∧
      (s.boot.ready = true → code = 0 ∨ (5 ≤ code ∧ code < 0x80) → exec .mailboxUnknownCode s = .next (s.answer m 1)) ∧
      (s.boot.ready = false → s.boot.stage ≠ 15 ∨ code ≠ 4 → exec .mailboxUnknownCode s = .next (s.answer m 2))) ∧
    (∀ (rs : List (BitVec 128)) (words : List (BitVec 32)), Machine.translate rs = some words → words.length % 4 = 0 ∧
      ∀ col, col = 1 ∨ col = 2 →
        ((List.range (words.length / 4)).map fun i => words[4 * i + col]?.getD 0).filter (· != 0) =
          ((rs.filter fun r => recCol r == col).map recWord).filter (· != 0)) ∧
    (∀ rs : List (BitVec 128), recordsLegal [] rs = true → (∀ r ∈ rs, recLoop r = none) → ∃ words, Machine.translate rs = some words ∧
      ((List.range (words.length / 4)).map fun i => words[4 * i + 3]?.getD 0).filter (· != 0) =
        ((rs.filter fun r => recCol r == 3).map recWord).filter (· != 0) ∧
      ∀ i, 4 * i + 4 < words.length →
        let m := words[4 * i + 1]?.getD 0
        let v := words[4 * i + 2]?.getD 0
        let delay := (words[4 * i + 4]?.getD 0).toNat / 2 ^ 26
        (m ≠ 0 → (mTiming (colWord m).op).1 ≤ delay + 1) ∧ (v ≠ 0 → (vTiming (colWord v).op 32).1 ≤ delay + 1)) ∧
    (∀ (off : Nat) (v : BitVec 64),
      (0x1000 ≤ off → off < 0x2000 → ∃ t, exec (.hostBarWrite off v) s = .next t ∧
        (let n := (off - 0x1000) / 64
         let w := off % 64 / 8
         (mailSlot t.host.inbound n).extractLsb' (64 * w) 64 = v ∧
         (∀ k, k < 8 → k ≠ w → (mailSlot t.host.inbound n).extractLsb' (64 * k) 64 = (mailSlot s.host.inbound n).extractLsb' (64 * k) 64) ∧
         (∀ k, k < 64 → k ≠ n → mailSlot t.host.inbound k = mailSlot s.host.inbound k)) ∧
        t.host.mbin = s.host.mbin ∧ t.host.mbout = s.host.mbout ∧ t.ranks = s.ranks ∧ s.SameMemory t) ∧
      (∃ t, exec (.hostBarWrite 0x3000 v) s = .next t ∧ mbTail t.host.mbin = v.toNat % 2 ^ 16 ∧
        mbHead t.host.mbin = mbHead s.host.mbin ∧ t.host.mbout = s.host.mbout) ∧
      (∃ t, exec (.hostBarWrite 0x3008 v) s = .next t ∧ mbHead t.host.mbout = v.toNat / 2 ^ 16 % 2 ^ 16 ∧
        mbTail t.host.mbout = mbTail s.host.mbout ∧ t.host.mbin = s.host.mbin) ∧
      (off < 0x1000 ∨ 0x2000 ≤ off → off ≠ 0x3000 → off ≠ 0x3008 → exec (.hostBarWrite off v) s = .next s))

/-- Bring-up, management, power and soft errors (R428, R430, R436, R437, R438, R439). POWER_GOOD starts stage 1 and later
does nothing. BRINGUP_STAGE of the stage n in progress that fails makes STAGE 15 and FAIL n; that completes stage 1
gives PKGID and the time base, stage 2 leaves memory and scratchpads 0 and CLAVAIL the good slots, stage 3 gives
FWVER, stage 4 READY; outside bring-up it does nothing. SPDM_REQUEST and MANAGEMENT_REQUEST answer and change neither
ranks nor memory. POWER_LIMIT gates the slots named that hold no gang under pre-emption. MODULE_FAULT leaves no gang
and sets ERR. ECC_CORRECTED counts; ECC_UNCORRECTABLE resets an engine, marks a transfer, fails the copy of a shard,
ends a migration that copies with status 5 in its result record, or removes the gang that consumed the error. Each of
them completes in every state. -/
def Obligations.BringUpPowerAndErrors : Prop :=
  ∀ s : State,
    (s.boot.stage = 0 → exec .powerGood s = .next { s with boot := { s.boot with stage := 1 } }) ∧
    (s.boot.stage ≠ 0 → exec .powerGood s = .next s) ∧
    (∀ e : StageEnd,
      (s.boot.stage = 0 ∨ 4 < s.boot.stage.toNat ∨ s.boot.ready = true → exec (.bringupStage e) s = .next s) ∧
      (1 ≤ s.boot.stage.toNat → s.boot.stage.toNat ≤ 4 → s.boot.ready = false →
        (e.ok = false → exec (.bringupStage e) s = .next { s with boot := { s.boot with stage := 15, fail := s.boot.stage } }) ∧
        (e.ok = true → ∃ t, exec (.bringupStage e) s = .next t ∧ t.boot.err = s.boot.err ∧ t.boot.fail = s.boot.fail ∧
          (s.boot.stage = 1 → t.boot.stage = 2 ∧ t.fabric.dtb = e.dtb.getD s.fabric.dtb ∧
            t.fabric.joining = e.dtb.isNone ∧ s.SameMemory t ∧ t.pkgid.toNat =
            e.pkgid.toNat % 2 ^ 12 + 2 ^ 16 * (e.pkgid.toNat / 2 ^ 16 % 2 ^ 10)) ∧
          (s.boot.stage = 2 → t.boot.stage = 3 ∧ t.clavail = e.good ∧ t.mem = [] ∧ ∀ k, k < 16 → (t.slot k).pads = [] ∧
            (t.slot k).shadow = []) ∧
          (s.boot.stage = 3 → t.boot.stage = 4 ∧ t.boot.fwver = e.fwver ∧ t.boot.ready = false ∧ s.SameMemory t) ∧
          (s.boot.stage = 4 → t.boot.stage = 4 ∧ t.boot.ready = true ∧ s.SameMemory t)))) ∧
    (∀ bs : List Byte, (∃ t a, exec (.spdmRequest bs) s = .next t ∧ t.out = s.out ++ [.doe a] ∧ t.ranks = s.ranks ∧ s.SameMemory t) ∧
      ∃ t a, exec (.managementRequest bs) s = .next t ∧ t.out = s.out ++ [.management a] ∧ t.ranks = s.ranks ∧ s.SameMemory t) ∧
    (∀ v : BitVec 16, ∃ t, exec (.powerLimit v) s = .next t ∧ t.ranks = s.ranks ∧ s.SameMemory t ∧ ∀ k, k < 16 →
      ((t.slot k).gated = true ↔ v.getLsbD k = true ∧
        ¬ ∃ r ∈ s.ranks, r.place = .resident k ∧ ∃ g ∈ r.gangs, ∃ frame why, g.cond = .halting frame why) ∧
      (t.slot k).occupant = (s.slot k).occupant) ∧
    (∃ t, exec .moduleFault s = .next t ∧ t.boot = { s.boot with err := true } ∧
      ((s.ranks.map Rank.vr).Nodup → ∀ r ∈ t.ranks, r.gangs = [])) ∧
    exec .eccCorrected s = .next { s with corrected := s.corrected + 1 } ∧
    (∀ e slot, exec (.eccUncorrectable (.engine e slot)) s = exec (.engineReset e slot) s) ∧
    (∀ job shard, exec (.eccUncorrectable (.shard job shard)) s = exec (.granaryKeeperFail s.ownDom s.ownPkg job shard) s) ∧
    (∀ fid xfer, ∃ t, exec (.eccUncorrectable (.flit fid xfer)) s = .next t ∧ t.ranks = s.ranks ∧
      ∀ x ∈ t.fabric.ins, x.fid = fid → x.xfer = xfer → x.failed = true) ∧
    (∀ r : SRef, ∃ t, exec (.eccUncorrectable (.gang r)) s = .next t ∧ t.gang? r.vr r.gang = none) ∧
    (∀ r : SRef, exec (.eccUncorrectable (.walk r)) s = exec (.eccUncorrectable (.gang r)) s) ∧
    (∀ id : Nat, s.cmd? id = none → exec (.eccUncorrectable (.command id)) s = .next s) ∧
    (∀ id c, s.cmd? id = some c →
      (∀ t stage taken pages gangs root, c.body = .migr t stage taken pages gangs root → stage = 1 ∨ stage = 2 →
        ∃ u, exec (.eccUncorrectable (.command id)) s = .next u ∧ u.cmd? id = none ∧
          (c.spoiled = [] → ∀ k, s.rank? c.by'.vr = some k → ∃ q w, u.rank? c.by'.vr = some q ∧ q.engView = k.engView ++ [w] ∧
            w.bytes = (leBytes 8 5 ++ leBytes 8 (if stage = 2 then taken.length % 2 ^ 32 else 0)).zipIdx.map fun p =>
              { dst := .phys (migResult t + p.2), val := p.1 })) ∧
      ((∀ t stage taken pages gangs root, c.body = .migr t stage taken pages gangs root → stage ≠ 1 ∧ stage ≠ 2) →
        exec (.eccUncorrectable (.command id)) s = exec (.eccUncorrectable (.gang c.by')) s))

/-- Requests, permits, commits and replies of the service ring (R440, R441, R442, R323). SERVICE_REQUEST of a served core
with a request waiting takes the oldest: its slot is free again, a malformed one has the reply 2 at once; without one
nothing happens. For the request whose turn it is, ATOMIC_PERMIT replies refused where the walk finds no leaf, for an
aperture-3 page or a page without R and W, replies with nothing to do where the page admits atomics, and for a peer
page either sets RAP in its entry and replies HOW 1, or makes the leaf name the frame given and replies HOW 2, and
does nothing with a frame that cannot be used (which of the two and the frame are arguments, log entry 25); COMMIT
replies with nothing to do where the page is present, refused where it is absent and not managed, and otherwise stores
the leaf and replies HOW 3, or does nothing with frames that cannot be used. SERVICE_REPLY of a finished oldest
request with room in the ring puts its reply at the tail; otherwise nothing happens. Each completes in every state. -/
def Obligations.ServiceRing : Prop :=
  ∀ (s : State) (r : SRef),
    let w14 := s.ring r.vr r.core 14
    let w15 := s.ring r.vr r.core 15
    (s.served r = false ∨ ringCount w14 = 0 → exec (.serviceRequest r) s = .next s) ∧
    (s.served r = true → ringCount w14 ≠ 0 → ∃ t x, exec (.serviceRequest r) s = .next t ∧
      t.services = s.services ++ [x] ∧ x.by' = r ∧ x.word = s.ringRead r.vr r.core (ringSlot w14 (ringHead w14)) ∧ x.ids = [] ∧
      (x.reply = none ↔ x.word.toNat / 2 ^ 48 % 2 ^ 8 = 0 ∧ (x.word.toNat / 2 ^ 56 = 1 ∨ x.word.toNat / 2 ^ 56 = 2)) ∧
      (x.reply = none ∨ x.reply = some 2) ∧ t.ranks = s.ranks ∧ s.SameMemory t) ∧
    (s.dueRequest r 1 = none → ∀ p, exec (.atomicPermit r p) s = .next s) ∧
    (s.dueRequest r 2 = none → ∀ l, exec (.commit r l) s = .next s) ∧
    (∀ x, s.dueRequest r 1 = some x →
      let va := x.word.toNat % 2 ^ 48
      ((∀ e a large, s.walkFor r.vr false va ≠ .leaf e a large) → ∀ p, exec (.atomicPermit r p) s = .next (s.decide x 0 1 [])) ∧
      (∀ e a large, s.walkFor r.vr false va = .leaf e a large →
        (leafAper e = 3 ∨ leafR e = false ∨ leafW e = false → ∀ p, exec (.atomicPermit r p) s = .next (s.decide x 0 1 [])) ∧
        (leafR e = true → leafW e = true → leafAper e = 0 ∨ leafAper e = 1 ∨ (leafAper e = 2 ∧ leafRap e = true) →
          ∀ p, exec (.atomicPermit r p) s = .next (s.decide x 0 0 [])) ∧
        (leafR e = true → leafW e = true → leafAper e = 2 → leafRap e = false → exec (.atomicPermit r .remap) s =
          .next ({ s with mem := physPut s.mem a (leBytes 16 (putBits e 4 1 1).toNat) }.shootFor x 1)) ∧
        (leafR e = true → leafW e = true → leafAper e = 2 → leafRap e = false → ∀ f : Nat,
          (f % pageSize large ≠ 0 ∨ s.frameOk (s.partOfRank r.vr) 0 f = false →
            exec (.atomicPermit r (.migrate f)) s = .next s) ∧
          (f % pageSize large = 0 → s.frameOk (s.partOfRank r.vr) 0 f = true → ∃ t y,
            exec (.atomicPermit r (.migrate f)) s = .next t ∧ y ∈ t.services ∧ y.word = x.word ∧ y.reply = some 512 ∧
            (Memory.wf s.mem = true → (∀ i, i < 16 → physExists (a + i) = true) → leNat (physBytes t.mem a 16) =
              (putBits (putBits (putBits (putBits e 2 2 0) 4 1 0) 112 12 0) 64 48 (f / 65536)).toNat))))) ∧
    (∀ x, s.dueRequest r 2 = some x →
      let va := x.word.toNat % 2 ^ 48
      ((∀ m, s.walkFor r.vr false va ≠ .absent m) → ∀ l, exec (.commit r l) s = .next (s.decide x 0 0 [])) ∧
      (∀ l, s.walkFor r.vr false va = .absent false → exec (.commit r l) s = .next (s.decide x 0 1 [])) ∧
      (∀ slot page tables t, s.walkFor r.vr false va = .absent true → s.slotOf r.vr = some slot →
        framesOk slot (page :: tables) = true → s.commitPage r.vr va page tables = some t →
        exec (.commit r (page :: tables)) s = .next (t.shootFor x 3)) ∧
      (s.walkFor r.vr false va = .absent true → (s.slotOf r.vr = none → ∀ l, exec (.commit r l) s = .next s) ∧
        exec (.commit r []) s = .next s ∧
        ∀ slot page tables, s.slotOf r.vr = some slot →
          framesOk slot (page :: tables) = false ∨ s.commitPage r.vr va page tables = none →
          exec (.commit r (page :: tables)) s = .next s)) ∧
    (s.services.find? (fun x => x.by'.vr == r.vr && x.by'.core == r.core) = none → exec (.serviceReply r) s = .next s) ∧
    (∀ x, s.services.find? (fun x => x.by'.vr == r.vr && x.by'.core == r.core) = some x →
      (s.finished x = true → serviceRing r.core w15 = true → ringFull w15 = false → exec (.serviceReply r) s = .next
        { (s.ringWrite r.vr r.core (ringSlot w15 (ringTail w15)) (x.reply.getD 0)).setRing r.vr r.core 15
            (ringWithTail w15 (ringTail w15 + 1)) with services := s.services.erase x }) ∧
      (s.finished x = false ∨ serviceRing r.core w15 = false ∨ ringFull w15 = true → exec (.serviceReply r) s = .next s)) ∧
    (∀ x how status ids, x ∈ s.services → ∃ y, y ∈ (s.decide x how status ids).services ∧ y.word = x.word ∧ y.ids = ids ∧
      y.reply = some (BitVec.ofNat 64 (256 * how + status)) ∧ (s.decide x how status ids).services.length = s.services.length)

/-- A step runs the next input, the next event of the cycle, or the instruction that the next strand fetches (R135, R136,
R144, R154, R155, R9, R19). A step takes the oldest act of an outside party if there is one; else the next turn of the
cycle: an event is run; the control processor acts; a strand that may issue fetches at its pc, and with the fetch
granted its decoded instruction of one word or its bundle of four is run with that strand acting; of an instruction of
two words the first is accepted in one turn, and in the next turn the second is fetched and the instruction runs; an
illegal word raises ILLOP with TVAL the first word; a fetch that fails takes its exception; a strand that may not
issue, or that is gone, does nothing. With neither, time passes (the order of the turns is the model's, log entry 3). -/
def Obligations.StepRunsWhatItFinds : Prop :=
  ∀ s : State,
    (∀ i l, s.inputs = i :: l → step s = exec i { s with inputs := l }) ∧
    (∀ i l, s.inputs = [] → s.agenda = .event i :: l → step s = exec i { s with agenda := l }) ∧
    (s.inputs = [] → s.agenda = [] → step s = .next s.tick) ∧
    (∀ l, s.inputs = [] → s.agenda = .pcp :: l → step s = .next ({ s with agenda := l } : State).pcpAct) ∧
    (∀ r l, s.inputs = [] → s.agenda = .strand r :: l → s.strand? r = none → step s = .next { s with agenda := l }) ∧
    (∀ (r : SRef) (l : List Turn) (st : Strand), s.inputs = [] → s.agenda = .strand r :: l → s.strand? r = some st →
      (s.mayIssue r st = false → step s = .next { s with agenda := l }) ∧
      (s.mayIssue r st = true →
        let t : State := { s with agenda := l, cur := r, trapped := false }
        (r.strand ≠ .c → st.ext = none → ∀ bs a n, t.fetch r.vr st.sup st.pc 4 = .ok bs a n →
          let w := leNat bs
          (w / 2 ^ 26 ≠ 0x21 → ∀ i, decodeWord w 0 = some i → step s = exec i (t.fetched a n)) ∧
          (w / 2 ^ 26 ≠ 0x21 → decodeWord w 0 = none →
            step s = .next ((t.fetched a n).trap st 1 ((BitVec.ofNat 32 w).setWidth 64))) ∧
          (w / 2 ^ 26 = 0x21 → step s = .next ((t.fetched a n).modStrand r fun (q : Strand) => { q with ext := some (BitVec.ofNat 32 w) }))) ∧
        (r.strand ≠ .c → st.ext = none → ∀ f, t.fetch r.vr st.sup st.pc 4 = f → (∀ bs a n, f ≠ .ok bs a n) →
          step s = .next (t.fetchFail r st f)) ∧
        (r.strand ≠ .c → ∀ w, st.ext = some w →
          (∀ bs a n, t.fetch r.vr st.sup (st.pc + 4) 4 = .ok bs a n →
            (∀ i, decodeWord w.toNat (leNat bs) = some i → step s = exec i (t.fetched a n)) ∧
            (decodeWord w.toNat (leNat bs) = none → step s = .next ((t.fetched a n).trap st 1 (w.setWidth 64)))) ∧
          ∀ f, t.fetch r.vr st.sup (st.pc + 4) 4 = f → (∀ bs a n, f ≠ .ok bs a n) → step s = .next (t.fetchFail r st f)) ∧
        (r.strand = .c → ∀ bs a n, t.fetch r.vr st.sup st.pc 16 = .ok bs a n →
          step s = exec (decodeBundle (leNat (bs.take 4)) (leNat ((bs.drop 4).take 4)) (leNat ((bs.drop 8).take 4))
            (leNat ((bs.drop 12).take 4))) (t.fetched a n)) ∧
        (r.strand = .c → ∀ f, t.fetch r.vr st.sup st.pc 16 = f → (∀ bs a n, f ≠ .ok bs a n) →
          step s = .next (t.fetchFail r st f))))

/-- Words written out from the encoding tables decode to their instructions (R137, R138, R139, R140, R141, R154). One word
of each group of major opcodes, its fields put where the formats have them, decodes to the instruction that the tables
give; words with an unassigned major, an unlisted function code or a zero field that is not zero decode to nothing. -/
def Obligations.SpecWordsDecode : Prop :=
  decodeWord 0x00000000 0 = some .nop ∧
  decodeWord 0x00005000 0 = some .exit ∧
  decodeWord (0x01 * 2 ^ 26 + 3 * 2 ^ 21 + 4 * 2 ^ 16 + 5 * 2 ^ 11 + 2 ^ 6 + 1) 0 = some (.sub 3 4 5 true) ∧
  decodeWord (0x02 * 2 ^ 26 + 3 * 2 ^ 21 + 4 * 2 ^ 16 + 0xFFFF) 0 = some (.addi 3 4 0xFFFF) ∧
  decodeWord (0x06 * 2 ^ 26 + 3 * 2 ^ 21 + 4 * 2 ^ 16 + 2 * 2 ^ 14 + 2 ^ 7 + 9) 0 = some (.sari 3 4 true 9) ∧
  decodeWord (0x07 * 2 ^ 26 + 2 * 2 ^ 21 + 0x1000) 0 = some (.li 2 0x1000) ∧
  decodeWord (0x0D * 2 ^ 26 + 0x3FFFFFF) 0 = some (.br 0x3FFFFFF) ∧
  decodeWord (0x20 * 2 ^ 26 + 8 * 2 ^ 22) 0 = some .step ∧
  decodeWord (0x01 * 2 ^ 26 + 27) 0 = none ∧
  decodeWord (0x27 * 2 ^ 26) 0 = none ∧
  decodeWord (0x06 * 2 ^ 26 + 2 ^ 7 + 2 ^ 5) 0 = none ∧
  decodeWord (0x07 * 2 ^ 26 + 2 ^ 16) 0 = none ∧
  decodeWord 0x00000001 0 = none

/-- Decoding and encoding agree, both ways (R136, R137, R138, R139, R140, R141, R144). For every well-formed instruction
of a strand word, decoding its encoding gives it back with every operand; a bundle likewise; and a word that decodes
encodes back to itself with its second word, so no bit of a legal word is without meaning and no word has two. -/
def Obligations.DecodeEncodeAgree : Prop :=
  (∀ i : Instr, i.WellFormed → encode i ≠ [] → (∀ h m v x, i ≠ .bundleIssue h m v x) →
    decodeWord ((encode i).headD 0) ((encode i).getD 1 0) = some i) ∧
  (∀ h m v x : BitVec 32, encode (.bundleIssue h m v x) = [h.toNat, m.toNat, v.toNat, x.toNat] ∧
    decodeBundle h.toNat m.toNat v.toNat x.toNat = .bundleIssue h m v x) ∧
  (∀ (w w1 : Nat) (i : Instr), w < 2 ^ 32 → w1 < 2 ^ 32 → decodeWord w w1 = some i →
    i.WellFormed ∧ encode i = w :: (if w / 2 ^ 26 = 0x21 then [w1] else []))

/-- The machine at reset, and that it meets the invariants of a step (R428, R436, R437, R352, R362). At reset HSTAT is 0,
PARTCFG, SPTROOT, SUPGEN, L2CTL and the notice ring are 0, no rank is resident, no job is loaded, no command is
queued, every host queue is disabled and empty, the links are down and nothing is in transit. HSTAT is legal there, no
VR is held twice, and every memory is in canonical form. (PKGID, CLAVAIL and the time base have no value in the spec
before bring-up; their zeros are the model's, log entry 1.) -/
def Obligations.ResetValues : Prop :=
  State.reset.boot = { stage := 0, fail := 0, err := false, ready := false, fwver := 0 } ∧ State.reset.partcfg = 0 ∧
  State.reset.sptroot.toList = List.replicate 16 0 ∧ State.reset.supgen.toList = List.replicate 16 0 ∧ State.reset.l2ctl = 0 ∧
  State.reset.nring = 0 ∧ State.reset.nhead = 0 ∧ State.reset.ntail = 0 ∧ State.reset.notices = [] ∧ State.reset.ranks = [] ∧
  State.reset.jobs = [] ∧ State.reset.cmds = [] ∧ State.reset.locks = [] ∧ State.reset.faultq = [] ∧ State.reset.place = [] ∧
  State.reset.conns = [] ∧ State.reset.pcp = [] ∧ State.reset.held = [] ∧ State.reset.pubs = [] ∧ State.reset.services = [] ∧
  State.reset.incoming = [] ∧ State.reset.home = [] ∧ State.reset.fabric.joining = false ∧ State.reset.fabric.outs = [] ∧ State.reset.fabric.ins = [] ∧
  (∀ l ∈ State.reset.fabric.links, l.up = false ∧ l.fenced = false) ∧ State.reset.fabric.links.length = 32 ∧
  (∀ k, (State.reset.slot k).occupant = none ∧ (State.reset.slot k).hqctl = 0 ∧ (State.reset.slot k).hqptr = 0) ∧
  State.reset.boot.Legal ∧ (State.reset.ranks.map Rank.vr).Nodup ∧ State.reset.MemWf ∧ State.reset.FramesWf

/-- Every step keeps HSTAT legal and every VR held once, and only four events change HSTAT (R428, R436, R438, R367). From
every state in which STAGE is 0 to 4 or 15, READY only with STAGE 4 and FAIL 0 but in STAGE 15, and in which no VR is
held twice, a step leads to such a state. An instruction changes HSTAT only if it is POWER_GOOD, BRINGUP_STAGE, RESET
or MODULE_FAULT; from STAGE 15 only RESET leads to another stage. -/
def Obligations.StepKeepsHstatAndRanks : Prop :=
  (∀ s t : State, s.boot.Legal → (s.ranks.map Rank.vr).Nodup → step s = .next t →
    t.boot.Legal ∧ (t.ranks.map Rank.vr).Nodup) ∧
  (∀ (i : Instr) (s t : State), exec i s = .next t → t.boot ≠ s.boot →
    i = .powerGood ∨ (∃ e, i = .bringupStage e) ∨ i = .reset ∨ i = .moduleFault) ∧
  (∀ (i : Instr) (s t : State), exec i s = .next t → s.boot.stage = 15 → t.boot.stage ≠ 15 → i = .reset)

/-- Every step keeps every memory in canonical form (R436, R97, R319, R312). From every state whose memory, host memory,
scratchpads and phase-start copies are in canonical form, and the scratchpads that saved gangs keep too, a step leads
to such a state (the canonical form is the model's own representation of the bytes that the spec gives). -/
def Obligations.StepKeepsMemoryForm : Prop :=
  ∀ s t : State, s.MemWf → s.FramesWf → step s = .next t → t.MemWf ∧ t.FramesWf
end

