-- ==== Sys2Proof/Laws/Arms.lean ====
section
/-! SUPPORT. exec of each constructor is its meaning. -/

namespace Sys2Proof.Machine

theorem exec_nop (s : State) : exec (.nop) s = execNop s := rfl
theorem exec_feat (d : XReg) (u : BitVec 12) (s : State) : exec (.feat d u) s = execFeat d u s := rfl
theorem exec_rdctl (d : XReg) (c : BitVec 12) (s : State) : exec (.rdctl d c) s = execRdctl d c s := rfl
theorem exec_shapeWrite (a : XReg) (s : State) : exec (.shapeWrite a) s = execShapeWrite a s := rfl
theorem exec_fpflagsClear (a : XReg) (s : State) : exec (.fpflagsClear a) s = execFpflagsClear a s := rfl
theorem exec_loopRegisterWrite (a : XReg) (k : BitVec 3) (s : State) : exec (.loopRegisterWrite a k) s = execLoopRegisterWrite a k s := rfl
theorem exec_ringRegisterWrite (a : XReg) (g : GReg) (s : State) : exec (.ringRegisterWrite a g) s = execRingRegisterWrite a g s := rfl
theorem exec_walWrite (a : XReg) (n : BitVec 4) (s : State) : exec (.walWrite a n) s = execWalWrite a n s := rfl
theorem exec_wrctl (a : XReg) (c : BitVec 12) (s : State) : exec (.wrctl a c) s = execWrctl a c s := rfl
theorem exec_rand (d : XReg) (a : XReg) (u : BitVec 4) (s : State) : exec (.rand d a u) s = execRand d a u s := rfl
theorem exec_exit (s : State) : exec (.exit) s = execExit s := rfl
theorem exec_trap (n : BitVec 12) (s : State) : exec (.trap n) s = execTrap n s := rfl
theorem exec_waiti (n : BitVec 12) (s : State) : exec (.waiti n) s = execWaiti n s := rfl
theorem exec_add (d : XReg) (a : XReg) (b : XReg) (w : Bool) (s : State) : exec (.add d a b w) s = execAdd d a b w s := rfl
theorem exec_sub (d : XReg) (a : XReg) (b : XReg) (w : Bool) (s : State) : exec (.sub d a b w) s = execSub d a b w s := rfl
theorem exec_and (d : XReg) (a : XReg) (b : XReg) (w : Bool) (s : State) : exec (.and d a b w) s = execAnd d a b w s := rfl
theorem exec_or (d : XReg) (a : XReg) (b : XReg) (w : Bool) (s : State) : exec (.or d a b w) s = execOr d a b w s := rfl
theorem exec_xor (d : XReg) (a : XReg) (b : XReg) (w : Bool) (s : State) : exec (.xor d a b w) s = execXor d a b w s := rfl
theorem exec_andn (d : XReg) (a : XReg) (b : XReg) (w : Bool) (s : State) : exec (.andn d a b w) s = execAndn d a b w s := rfl
theorem exec_shl (d : XReg) (a : XReg) (b : XReg) (w : Bool) (s : State) : exec (.shl d a b w) s = execShl d a b w s := rfl
theorem exec_shr (d : XReg) (a : XReg) (b : XReg) (w : Bool) (s : State) : exec (.shr d a b w) s = execShr d a b w s := rfl
theorem exec_sar (d : XReg) (a : XReg) (b : XReg) (w : Bool) (s : State) : exec (.sar d a b w) s = execSar d a b w s := rfl
theorem exec_rot (d : XReg) (a : XReg) (b : XReg) (w : Bool) (s : State) : exec (.rot d a b w) s = execRot d a b w s := rfl
theorem exec_mul (d : XReg) (a : XReg) (b : XReg) (w : Bool) (s : State) : exec (.mul d a b w) s = execMul d a b w s := rfl
theorem exec_mulh (d : XReg) (a : XReg) (b : XReg) (w : Bool) (s : State) : exec (.mulh d a b w) s = execMulh d a b w s := rfl
theorem exec_mulhu (d : XReg) (a : XReg) (b : XReg) (w : Bool) (s : State) : exec (.mulhu d a b w) s = execMulhu d a b w s := rfl
theorem exec_div (d : XReg) (a : XReg) (b : XReg) (w : Bool) (s : State) : exec (.div d a b w) s = execDiv d a b w s := rfl
theorem exec_divu (d : XReg) (a : XReg) (b : XReg) (w : Bool) (s : State) : exec (.divu d a b w) s = execDivu d a b w s := rfl
theorem exec_rem (d : XReg) (a : XReg) (b : XReg) (w : Bool) (s : State) : exec (.rem d a b w) s = execRem d a b w s := rfl
theorem exec_remu (d : XReg) (a : XReg) (b : XReg) (w : Bool) (s : State) : exec (.remu d a b w) s = execRemu d a b w s := rfl
theorem exec_min (d : XReg) (a : XReg) (b : XReg) (w : Bool) (s : State) : exec (.min d a b w) s = execMin d a b w s := rfl
theorem exec_max (d : XReg) (a : XReg) (b : XReg) (w : Bool) (s : State) : exec (.max d a b w) s = execMax d a b w s := rfl
theorem exec_minu (d : XReg) (a : XReg) (b : XReg) (w : Bool) (s : State) : exec (.minu d a b w) s = execMinu d a b w s := rfl
theorem exec_maxu (d : XReg) (a : XReg) (b : XReg) (w : Bool) (s : State) : exec (.maxu d a b w) s = execMaxu d a b w s := rfl
theorem exec_adds (d : XReg) (a : XReg) (b : XReg) (w : Bool) (s : State) : exec (.adds d a b w) s = execAdds d a b w s := rfl
theorem exec_subs (d : XReg) (a : XReg) (b : XReg) (w : Bool) (s : State) : exec (.subs d a b w) s = execSubs d a b w s := rfl
theorem exec_clz (d : XReg) (a : XReg) (w : Bool) (s : State) : exec (.clz d a w) s = execClz d a w s := rfl
theorem exec_popc (d : XReg) (a : XReg) (w : Bool) (s : State) : exec (.popc d a w) s = execPopc d a w s := rfl
theorem exec_sext (d : XReg) (a : XReg) (k : BitVec 2) (s : State) : exec (.sext d a k) s = execSext d a k s := rfl
theorem exec_zext (d : XReg) (a : XReg) (k : BitVec 2) (s : State) : exec (.zext d a k) s = execZext d a k s := rfl
theorem exec_addi (d : XReg) (a : XReg) (i : BitVec 16) (s : State) : exec (.addi d a i) s = execAddi d a i s := rfl
theorem exec_andi (d : XReg) (a : XReg) (i : BitVec 16) (s : State) : exec (.andi d a i) s = execAndi d a i s := rfl
theorem exec_ori (d : XReg) (a : XReg) (i : BitVec 16) (s : State) : exec (.ori d a i) s = execOri d a i s := rfl
theorem exec_xori (d : XReg) (a : XReg) (i : BitVec 16) (s : State) : exec (.xori d a i) s = execXori d a i s := rfl
theorem exec_shli (d : XReg) (a : XReg) (w : Bool) (n : BitVec 6) (s : State) : exec (.shli d a w n) s = execShli d a w n s := rfl
theorem exec_shri (d : XReg) (a : XReg) (w : Bool) (n : BitVec 6) (s : State) : exec (.shri d a w n) s = execShri d a w n s := rfl
theorem exec_sari (d : XReg) (a : XReg) (w : Bool) (n : BitVec 6) (s : State) : exec (.sari d a w n) s = execSari d a w n s := rfl
theorem exec_roti (d : XReg) (a : XReg) (w : Bool) (n : BitVec 6) (s : State) : exec (.roti d a w n) s = execRoti d a w n s := rfl
theorem exec_li (d : XReg) (i : BitVec 16) (s : State) : exec (.li d i) s = execLi d i s := rfl
theorem exec_lis (d : XReg) (i : BitVec 16) (s : State) : exec (.lis d i) s = execLis d i s := rfl
theorem exec_cmp (p : PReg) (a : XReg) (b : XReg) (c : Cond) (w : Bool) (s : State) : exec (.cmp p a b c w) s = execCmp p a b c w s := rfl
theorem exec_cmpi (p : PReg) (a : XReg) (c : Cond) (i : BitVec 10) (s : State) : exec (.cmpi p a c i) s = execCmpi p a c i s := rfl
theorem exec_pand (d : PReg) (a : PReg) (b : PReg) (s : State) : exec (.pand d a b) s = execPand d a b s := rfl
theorem exec_por (d : PReg) (a : PReg) (b : PReg) (s : State) : exec (.por d a b) s = execPor d a b s := rfl
theorem exec_pxor (d : PReg) (a : PReg) (b : PReg) (s : State) : exec (.pxor d a b) s = execPxor d a b s := rfl
theorem exec_pandn (d : PReg) (a : PReg) (b : PReg) (s : State) : exec (.pandn d a b) s = execPandn d a b s := rfl
theorem exec_pnot (d : PReg) (a : PReg) (s : State) : exec (.pnot d a) s = execPnot d a s := rfl
theorem exec_pmov (d : PReg) (a : PReg) (s : State) : exec (.pmov d a) s = execPmov d a s := rfl
theorem exec_pset (d : PReg) (s : State) : exec (.pset d) s = execPset d s := rfl
theorem exec_pclr (d : PReg) (s : State) : exec (.pclr d) s = execPclr d s := rfl
theorem exec_sel (d : XReg) (a : XReg) (b : XReg) (p : PReg) (s : State) : exec (.sel d a b p) s = execSel d a b p s := rfl
theorem exec_br (o : BitVec 26) (s : State) : exec (.br o) s = execBr o s := rfl
theorem exec_brp (p : PReg) (n : Bool) (o : BitVec 18) (s : State) : exec (.brp p n o) s = execBrp p n o s := rfl
theorem exec_call (o : BitVec 26) (s : State) : exec (.call o) s = execCall o s := rfl
theorem exec_jr (d : XReg) (a : XReg) (s : State) : exec (.jr d a) s = execJr d a s := rfl
theorem exec_lpset (l : Bool) (c : XReg) (e : BitVec 20) (s : State) : exec (.lpset l c e) s = execLpset l c e s := rfl
theorem exec_lpseti (l : Bool) (c : BitVec 13) (e : BitVec 12) (s : State) : exec (.lpseti l c e) s = execLpseti l c e s := rfl
theorem exec_ld (d : XReg) (h : HReg) (i : XReg) (u : BitVec 2) (o : BitVec 10) (s : State) : exec (.ld d h i u o) s = execLd d h i u o s := rfl
theorem exec_st (d : XReg) (h : HReg) (i : XReg) (u : BitVec 2) (o : BitVec 10) (s : State) : exec (.st d h i u o) s = execSt d h i u o s := rfl
theorem exec_sld (d : XReg) (a : XReg) (u : BitVec 2) (o : BitVec 14) (s : State) : exec (.sld d a u o) s = execSld d a u o s := rfl
theorem exec_sst (d : XReg) (a : XReg) (u : BitVec 2) (o : BitVec 14) (s : State) : exec (.sst d a u o) s = execSst d a u o s := rfl
theorem exec_atom (d : XReg) (h : HReg) (i : XReg) (v : XReg) (o : AtomOp) (u : Bool) (s : State) : exec (.atom d h i v o u) s = execAtom d h i v o u s := rfl
theorem exec_acas (d : XReg) (h : HReg) (i : XReg) (n : XReg) (u : Bool) (s : State) : exec (.acas d h i n u) s = execAcas d h i n u s := rfl
theorem exec_fxadd (v : XReg) (h : HReg) (i : XReg) (u : BitVec 9) (s : State) : exec (.fxadd v h i u) s = execFxadd v h i u s := rfl
theorem exec_fxrd (v : XReg) (h : HReg) (i : XReg) (u : BitVec 9) (s : State) : exec (.fxrd v h i u) s = execFxrd v h i u s := rfl
theorem exec_xlate (h : HReg) (a : XReg) (p : BitVec 4) (s : State) : exec (.xlate h a p) s = execXlate h a p s := rfl
theorem exec_hrel (h : HReg) (s : State) : exec (.hrel h) s = execHrel h s := rfl
theorem exec_hchk (u : HReg) (p : PReg) (s : State) : exec (.hchk u p) s = execHchk u p s := rfl
theorem exec_hmov (h : HReg) (u : HReg) (s : State) : exec (.hmov h u) s = execHmov h u s := rfl
theorem exec_qpush (d : XReg) (c : Bool) (i : BitVec 4) (s : State) : exec (.qpush d c i) s = execQpush d c i s := rfl
theorem exec_qpop (d : XReg) (c : Bool) (i : BitVec 4) (s : State) : exec (.qpop d c i) s = execQpop d c i s := rfl
theorem exec_qpeek (d : XReg) (c : Bool) (i : BitVec 4) (s : State) : exec (.qpeek d c i) s = execQpeek d c i s := rfl
theorem exec_qclose (i : BitVec 4) (s : State) : exec (.qclose i) s = execQclose i s := rfl
theorem exec_qwaitData (c : Bool) (i : BitVec 4) (l : BitVec 19) (s : State) : exec (.qwaitData c i l) s = execQwaitData c i l s := rfl
theorem exec_qwaitRoom (c : Bool) (i : BitVec 4) (l : BitVec 19) (s : State) : exec (.qwaitRoom c i l) s = execQwaitRoom c i l s := rfl
theorem exec_sdesc (z : ZReg) (x : XReg) (s : State) : exec (.sdesc z x) s = execSdesc z x s := rfl
theorem exec_sset (z : ZReg) (f : BitVec 4) (x : XReg) (s : State) : exec (.sset z f x) s = execSset z f x s := rfl
theorem exec_sbind (z : ZReg) (q : BitVec 4) (s : State) : exec (.sbind z q) s = execSbind z q s := rfl
theorem exec_sunbind (z : ZReg) (s : State) : exec (.sunbind z) s = execSunbind z s := rfl
theorem exec_sstat (z : ZReg) (d : XReg) (s : State) : exec (.sstat z d) s = execSstat z d s := rfl
theorem exec_phase (s : State) : exec (.phase) s = execPhase s := rfl
theorem exec_rvinit (a : BitVec 5) (c : BitVec 12) (s : State) : exec (.rvinit a c) s = execRvinit a c s := rfl
theorem exec_rvarr (a : BitVec 5) (s : State) : exec (.rvarr a) s = execRvarr a s := rfl
theorem exec_rvwait (a : BitVec 5) (s : State) : exec (.rvwait a) s = execRvwait a s := rfl
theorem exec_cfence (s : State) : exec (.cfence) s = execCfence s := rfl
theorem exec_mark (b : XReg) (e : BitVec 6) (s : State) : exec (.mark b e) s = execMark b e s := rfl
theorem exec_mjoin (a : XReg) (b : XReg) (j : BitVec 3) (s : State) : exec (.mjoin a b j) s = execMjoin a b j s := rfl
theorem exec_mwait (a : XReg) (b : XReg) (j : BitVec 3) (s : State) : exec (.mwait a b j) s = execMwait a b j s := rfl
theorem exec_step (s : State) : exec (.step) s = execStep s := rfl
theorem exec_ec (c : BitVec 4) (i : BitVec 6) (p : BitVec 32) (s : State) : exec (.ec c i p) s = execEc c i p s := rfl
theorem exec_ecr (c : BitVec 4) (i : BitVec 6) (u : XReg) (s : State) : exec (.ecr c i u) s = execEcr c i u s := rfl
theorem exec_tload (c : BitVec 3) (a : XReg) (s : State) : exec (.tload c a) s = execTload c a s := rfl
theorem exec_tdiff (c : BitVec 3) (a : XReg) (s : State) : exec (.tdiff c a) s = execTdiff c a s := rfl
theorem exec_tswap (c : BitVec 3) (s : State) : exec (.tswap c) s = execTswap c s := rfl
theorem exec_tcrc (c : BitVec 3) (a : XReg) (s : State) : exec (.tcrc c a) s = execTcrc c a s := rfl
theorem exec_tret (s : State) : exec (.tret) s = execTret s := rfl
theorem exec_rdsys (d : XReg) (i : BitVec 11) (s : State) : exec (.rdsys d i) s = execRdsys d i s := rfl
theorem exec_l2ctlWrite (a : XReg) (s : State) : exec (.l2ctlWrite a) s = execL2ctlWrite a s := rfl
theorem exec_nringWrite (a : XReg) (s : State) : exec (.nringWrite a) s = execNringWrite a s := rfl
theorem exec_frpoolWrite (a : XReg) (s : State) : exec (.frpoolWrite a) s = execFrpoolWrite a s := rfl
theorem exec_stepholdWrite (a : XReg) (s : State) : exec (.stepholdWrite a) s = execStepholdWrite a s := rfl
theorem exec_wtblWrite (a : XReg) (n : BitVec 4) (s : State) : exec (.wtblWrite a n) s = execWtblWrite a n s := rfl
theorem exec_wrsys (a : XReg) (i : BitVec 11) (s : State) : exec (.wrsys a i) s = execWrsys a i s := rfl
theorem exec_ldovf (a : XReg) (s : State) : exec (.ldovf a) s = execLdovf a s := rfl
theorem exec_csave (d : XReg) (a : XReg) (s : State) : exec (.csave d a) s = execCsave d a s := rfl
theorem exec_crest (d : XReg) (a : XReg) (s : State) : exec (.crest d a) s = execCrest d a s := rfl
theorem exec_shoot (d : XReg) (a : XReg) (u : Bool) (s : State) : exec (.shoot d a u) s = execShoot d a u s := rfl
theorem exec_plock (d : XReg) (a : XReg) (s : State) : exec (.plock d a) s = execPlock d a s := rfl
theorem exec_pinq (d : XReg) (a : XReg) (s : State) : exec (.pinq d a) s = execPinq d a s := rfl
theorem exec_punlock (d : XReg) (a : XReg) (s : State) : exec (.punlock d a) s = execPunlock d a s := rfl
theorem exec_vmap (d : XReg) (a : XReg) (s : State) : exec (.vmap d a) s = execVmap d a s := rfl
theorem exec_kill (d : XReg) (a : XReg) (s : State) : exec (.kill d a) s = execKill d a s := rfl
theorem exec_idle (d : XReg) (a : XReg) (s : State) : exec (.idle d a) s = execIdle d a s := rfl
theorem exec_glaunch (d : XReg) (a : XReg) (s : State) : exec (.glaunch d a) s = execGlaunch d a s := rfl
theorem exec_gkill (d : XReg) (a : XReg) (s : State) : exec (.gkill d a) s = execGkill d a s := rfl
theorem exec_gstat (d : XReg) (a : XReg) (s : State) : exec (.gstat d a) s = execGstat d a s := rfl
theorem exec_schld (d : XReg) (a : XReg) (s : State) : exec (.schld d a) s = execSchld d a s := rfl
theorem exec_schgo (d : XReg) (a : XReg) (s : State) : exec (.schgo d a) s = execSchgo d a s := rfl
theorem exec_schhalt (d : XReg) (s : State) : exec (.schhalt d) s = execSchhalt d s := rfl
theorem exec_schstat (d : XReg) (s : State) : exec (.schstat d) s = execSchstat d s := rfl
theorem exec_slotpost (a : XReg) (b : XReg) (s : State) : exec (.slotpost a b) s = execSlotpost a b s := rfl
theorem exec_waitiExpiry (r : SRef) (s : State) : exec (.waitiExpiry r) s = execWaitiExpiry r s := rfl
theorem exec_xlateDeliver (r : SRef) (h : Nat) (s : State) : exec (.xlateDeliver r h) s = execXlateDeliver r h s := rfl
theorem exec_qtimeout (r : SRef) (s : State) : exec (.qtimeout r) s = execQtimeout r s := rfl
theorem exec_loadStreamEntry (r : SRef) (z : Nat) (s : State) : exec (.loadStreamEntry r z) s = execLoadStreamEntry r z s := rfl
theorem exec_storeStreamDrain (r : SRef) (z : Nat) (s : State) : exec (.storeStreamDrain r z) s = execStoreStreamDrain r z s := rfl
theorem exec_mjtimeout (r : SRef) (s : State) : exec (.mjtimeout r) s = execMjtimeout r s := rfl
theorem exec_markerRetire (r : SRef) (e : Nat) (s : State) : exec (.markerRetire r e) s = execMarkerRetire r e s := rfl
theorem exec_idleExpiry (r : SRef) (s : State) : exec (.idleExpiry r) s = execIdleExpiry r s := rfl
theorem exec_bundleIssue (h : BitVec 32) (m : BitVec 32) (v : BitVec 32) (x : BitVec 32) (s : State) : exec (.bundleIssue h m v x) s = execBundleIssue h m v x s := rfl
theorem exec_pendingWriteLand (r : SRef) (s : State) : exec (.pendingWriteLand r) s = execPendingWriteLand r s := rfl
theorem exec_asyncTrap (r : SRef) (s : State) : exec (.asyncTrap r) s = execAsyncTrap r s := rfl
theorem exec_strandWaitRelease (r : SRef) (s : State) : exec (.strandWaitRelease r) s = execStrandWaitRelease r s := rfl
theorem exec_memoryAccessComplete (id : Nat) (s : State) : exec (.memoryAccessComplete id) s = execMemoryAccessComplete id s := rfl
theorem exec_phaseBoundary (vr : Nat) (s : State) : exec (.phaseBoundary vr) s = execPhaseBoundary vr s := rfl
theorem exec_quiescentCommit (vr : Nat) (s : State) : exec (.quiescentCommit vr) s = execQuiescentCommit vr s := rfl
theorem exec_stepArrival (rank : JobRank) (held : Bool) (s : State) : exec (.stepArrival rank held) s = execStepArrival rank held s := rfl
theorem exec_stepCollectiveComplete (job : Nat) (s : State) : exec (.stepCollectiveComplete job) s = execStepCollectiveComplete job s := rfl
theorem exec_boundaryFlitSend (group : Nat) (s : State) : exec (.boundaryFlitSend group) s = execBoundaryFlitSend group s := rfl
theorem exec_boundaryResult (group : Nat) (v : Nat) (s : State) : exec (.boundaryResult group v) s = execBoundaryResult group v s := rfl
theorem exec_gangPlace (slot : Nat) (s : State) : exec (.gangPlace slot) s = execGangPlace slot s := rfl
theorem exec_gangStart (vr : Nat) (gang : Nat) (s : State) : exec (.gangStart vr gang) s = execGangStart vr gang s := rfl
theorem exec_gangComplete (vr : Nat) (gang : Nat) (s : State) : exec (.gangComplete vr gang) s = execGangComplete vr gang s := rfl
theorem exec_priorityAging (vr : Nat) (gang : Nat) (s : State) : exec (.priorityAging vr gang) s = execPriorityAging vr gang s := rfl
theorem exec_gangHalt (vr : Nat) (gang : Nat) (s : State) : exec (.gangHalt vr gang) s = execGangHalt vr gang s := rfl
theorem exec_hostQueuePost (slot : Nat) (s : State) : exec (.hostQueuePost slot) s = execHostQueuePost slot s := rfl
theorem exec_hqbaseWrite (slot : Nat) (v : BitVec 64) (s : State) : exec (.hqbaseWrite slot v) s = execHqbaseWrite slot v s := rfl
theorem exec_hqTailWrite (slot : Nat) (v : BitVec 16) (s : State) : exec (.hqTailWrite slot v) s = execHqTailWrite slot v s := rfl
theorem exec_hqEnable (slot : Nat) (v : BitVec 64) (s : State) : exec (.hqEnable slot v) s = execHqEnable slot v s := rfl
theorem exec_hqTeardown (slot : Nat) (kill : Bool) (s : State) : exec (.hqTeardown slot kill) s = execHqTeardown slot kill s := rfl
theorem exec_hqErrClear (slot : Nat) (s : State) : exec (.hqErrClear slot) s = execHqErrClear slot s := rfl
theorem exec_schedHeadIssue (vr : Nat) (s : State) : exec (.schedHeadIssue vr) s = execSchedHeadIssue vr s := rfl
theorem exec_copyCommand (id : Nat) (s : State) : exec (.copyCommand id) s = execCopyCommand id s := rfl
theorem exec_copyRetire (id : Nat) (s : State) : exec (.copyRetire id) s = execCopyRetire id s := rfl
theorem exec_collectiveCommand (id : Nat) (s : State) : exec (.collectiveCommand id) s = execCollectiveCommand id s := rfl
theorem exec_collOpStart (id : Nat) (op : Nat) (s : State) : exec (.collOpStart id op) s = execCollOpStart id op s := rfl
theorem exec_collOpComplete (id : Nat) (op : Nat) (s : State) : exec (.collOpComplete id op) s = execCollOpComplete id op s := rfl
theorem exec_treeNodeCombine (key : TreeKey) (level : Nat) (k : Nat) (s : State) : exec (.treeNodeCombine key level k) s = execTreeNodeCombine key level k s := rfl
theorem exec_migrationCommand (id : Nat) (s : State) : exec (.migrationCommand id) s = execMigrationCommand id s := rfl
theorem exec_migrationCommit (id : Nat) (s : State) : exec (.migrationCommit id) s = execMigrationCommit id s := rfl
theorem exec_granaryGather (g : GatherMsg) (s : State) : exec (.granaryGather g) s = execGranaryGather g s := rfl
theorem exec_engineReset (e : Nat) (slot : Nat) (s : State) : exec (.engineReset e slot) s = execEngineReset e slot s := rfl
theorem exec_gradientBlockArrive (b : GBlock) (s : State) : exec (.gradientBlockArrive b) s = execGradientBlockArrive b s := rfl
theorem exec_granaryBlockApply (job : Nat) (shard : Nat) (block : Nat) (s : State) : exec (.granaryBlockApply job shard block) s = execGranaryBlockApply job shard block s := rfl
theorem exec_granaryStepClose (job : Nat) (shard : Nat) (s : State) : exec (.granaryStepClose job shard) s = execGranaryStepClose job shard s := rfl
theorem exec_stepCloseTimeout (job : Nat) (shard : Nat) (s : State) : exec (.stepCloseTimeout job shard) s = execStepCloseTimeout job shard s := rfl
theorem exec_reg (job : Nat) (shard : Nat) (a : BitVec 64) (b : BitVec 64) (s : State) : exec (.reg job shard a b) s = execReg job shard a b s := rfl
theorem exec_drop (job : Nat) (shard : Nat) (a : BitVec 64) (b : BitVec 64) (s : State) : exec (.drop job shard a b) s = execDrop job shard a b s := rfl
theorem exec_rule (job : Nat) (shard : Nat) (a : BitVec 64) (b : BitVec 64) (s : State) : exec (.rule job shard a b) s = execRule job shard a b s := rfl
theorem exec_hyper (job : Nat) (shard : Nat) (a : BitVec 64) (b : BitVec 64) (s : State) : exec (.hyper job shard a b) s = execHyper job shard a b s := rfl
theorem exec_promote (job : Nat) (shard : Nat) (a : BitVec 64) (b : BitVec 64) (s : State) : exec (.promote job shard a b) s = execPromote job shard a b s := rfl
theorem exec_seed (job : Nat) (shard : Nat) (a : BitVec 64) (b : BitVec 64) (s : State) : exec (.seed job shard a b) s = execSeed job shard a b s := rfl
theorem exec_snap (job : Nat) (shard : Nat) (a : BitVec 64) (b : BitVec 64) (s : State) : exec (.snap job shard a b) s = execSnap job shard a b s := rfl
theorem exec_replay (job : Nat) (shard : Nat) (a : BitVec 64) (b : BitVec 64) (s : State) : exec (.replay job shard a b) s = execReplay job shard a b s := rfl
theorem exec_granaryUnknownCode (code : Nat) (job : Nat) (shard : Nat) (s : State) : exec (.granaryUnknownCode code job shard) s = execGranaryUnknownCode code job shard s := rfl
theorem exec_seedSnapshotInstall (rec : ShardRec) (state : List Byte) (served : List Byte) (s : State) : exec (.seedSnapshotInstall rec state served) s = execSeedSnapshotInstall rec state served s := rfl
theorem exec_seedConfirm (job : Nat) (shard : Nat) (s : State) : exec (.seedConfirm job shard) s = execSeedConfirm job shard s := rfl
theorem exec_granaryKeeperFail (dom : Nat) (pkg : Nat) (job : Nat) (shard : Nat) (s : State) : exec (.granaryKeeperFail dom pkg job shard) s = execGranaryKeeperFail dom pkg job shard s := rfl
theorem exec_remoteLoad (q : DHdr) (tgt : RTo) (n : Nat) (s : State) : exec (.remoteLoad q tgt n) s = execRemoteLoad q tgt n s := rfl
theorem exec_loadData (q : DHdr) (bytes : List Byte) (s : State) : exec (.loadData q bytes) s = execLoadData q bytes s := rfl
theorem exec_postedWrite (q : DHdr) (tgt : RTo) (core : Nat) (strand : StrandId) (order : Nat) (bytes : List Byte) (s : State) : exec (.postedWrite q tgt core strand order bytes) s = execPostedWrite q tgt core strand order bytes s := rfl
theorem exec_writeAcknowledgement (q : DHdr) (s : State) : exec (.writeAcknowledgement q) s = execWriteAcknowledgement q s := rfl
theorem exec_atomic (q : DHdr) (addr : Nat) (op : RAtom) (s : State) : exec (.atomic q addr op) s = execAtomic q addr op s := rfl
theorem exec_atomicResult (q : DHdr) (old : BitVec 64) (s : State) : exec (.atomicResult q old) s = execAtomicResult q old s := rfl
theorem exec_keepWaitingNotice (q : DHdr) (s : State) : exec (.keepWaitingNotice q) s = execKeepWaitingNotice q s := rfl
theorem exec_refusal (q : DHdr) (detail : Nat) (s : State) : exec (.refusal q detail) s = execRefusal q detail s := rfl
theorem exec_scheduleArrival (q : DHdr) (grad : Bool) (mb : Nat) (step : BitVec 64) (s : State) : exec (.scheduleArrival q grad mb step) s = execScheduleArrival q grad mb step s := rfl
theorem exec_slotPost (q : DHdr) (grad : Bool) (count : Nat) (step : BitVec 64) (s : State) : exec (.slotPost q grad count step) s = execSlotPost q grad count step s := rfl
theorem exec_transferAck (q : DHdr) (fid : Nat) (xfer : Nat) (s : State) : exec (.transferAck q fid xfer) s = execTransferAck q fid xfer s := rfl
theorem exec_transferNack (q : DHdr) (fid : Nat) (xfer : Nat) (s : State) : exec (.transferNack q fid xfer) s = execTransferNack q fid xfer s := rfl
theorem exec_placementUpdate (d : Demand) (s : State) : exec (.placementUpdate d) s = execPlacementUpdate d s := rfl
theorem exec_gather (q : DHdr) (g : GatherMsg) (s : State) : exec (.gather q g) s = execGather q g s := rfl
theorem exec_blockAcknowledgement (q : DHdr) (job : Nat) (shard : Nat) (block : Nat) (step : Nat) (s : State) : exec (.blockAcknowledgement q job shard block step) s = execBlockAcknowledgement q job shard block step s := rfl
theorem exec_frameStateSet (index : Nat) (st : BitVec 8) (s : State) : exec (.frameStateSet index st) s = execFrameStateSet index st s := rfl
theorem exec_faultQueueResend (id : Nat) (s : State) : exec (.faultQueueResend id) s = execFaultQueueResend id s := rfl
theorem exec_keepWaitingTimer (q : DHdr) (s : State) : exec (.keepWaitingTimer q) s = execKeepWaitingTimer q s := rfl
theorem exec_remoteTimeout (id : Nat) (s : State) : exec (.remoteTimeout id) s = execRemoteTimeout id s := rfl
theorem exec_furrowDepart (fid : Nat) (s : State) : exec (.furrowDepart fid) s = execFurrowDepart fid s := rfl
theorem exec_scheduledFlitArrive (input : Nat) (f : Flit) (s : State) : exec (.scheduledFlitArrive input f) s = execScheduledFlitArrive input f s := rfl
theorem exec_flitForward (link : Nat) (s : State) : exec (.flitForward link) s = execFlitForward link s := rfl
theorem exec_transferFail (fid : Nat) (xfer : Nat) (s : State) : exec (.transferFail fid xfer) s = execTransferFail fid xfer s := rfl
theorem exec_headlandSlot (link : Nat) (s : State) : exec (.headlandSlot link) s = execHeadlandSlot link s := rfl
theorem exec_trainingRecord (link : Nat) (rec : BitVec 128) (s : State) : exec (.trainingRecord link rec) s = execTrainingRecord link rec s := rfl
theorem exec_linkLossOfLock (link : Nat) (s : State) : exec (.linkLossOfLock link) s = execLinkLossOfLock link s := rfl
theorem exec_collectiveChunk (f : FrameHdr) (slot : Nat) (bytes : List Byte) (s : State) : exec (.collectiveChunk f slot bytes) s = execCollectiveChunk f slot bytes s := rfl
theorem exec_frameAck (f : FrameHdr) (s : State) : exec (.frameAck f) s = execFrameAck f s := rfl
theorem exec_frameNack (f : FrameHdr) (gap : Nat) (s : State) : exec (.frameNack f gap) s = execFrameNack f gap s := rfl
theorem exec_migrationData (f : FrameHdr) (part : MigPart) (s : State) : exec (.migrationData f part) s = execMigrationData f part s := rfl
theorem exec_granaryBlock (f : FrameHdr) (b : GBlock) (s : State) : exec (.granaryBlock f b) s = execGranaryBlock f b s := rfl
theorem exec_demandTrafficFrame (f : FrameHdr) (d : Demand) (s : State) : exec (.demandTrafficFrame f d) s = execDemandTrafficFrame f d s := rfl
theorem exec_transportResend (port : Nat) (dom : Nat) (pkg : Nat) (s : State) : exec (.transportResend port dom pkg) s = execTransportResend port dom pkg s := rfl
theorem exec_partition (s : State) : exec (.partition) s = execPartition s := rfl
theorem exec_loadjob (plan : LoadPlan) (s : State) : exec (.loadjob plan) s = execLoadjob plan s := rfl
theorem exec_endjob (job : Nat) (s : State) : exec (.endjob job) s = execEndjob job s := rfl
theorem exec_reset (s : State) : exec (.reset) s = execReset s := rfl
theorem exec_supervisorMessage (s : State) : exec (.supervisorMessage) s = execSupervisorMessage s := rfl
theorem exec_mailboxUnknownCode (s : State) : exec (.mailboxUnknownCode) s = execMailboxUnknownCode s := rfl
theorem exec_hostBarWrite (off : Nat) (v : BitVec 64) (s : State) : exec (.hostBarWrite off v) s = execHostBarWrite off v s := rfl
theorem exec_spdmRequest (bytes : List Byte) (s : State) : exec (.spdmRequest bytes) s = execSpdmRequest bytes s := rfl
theorem exec_managementRequest (bytes : List Byte) (s : State) : exec (.managementRequest bytes) s = execManagementRequest bytes s := rfl
theorem exec_powerGood (s : State) : exec (.powerGood) s = execPowerGood s := rfl
theorem exec_bringupStage (e : StageEnd) (s : State) : exec (.bringupStage e) s = execBringupStage e s := rfl
theorem exec_powerLimit (slots : BitVec 16) (s : State) : exec (.powerLimit slots) s = execPowerLimit slots s := rfl
theorem exec_eccUncorrectable (w : EccSite) (s : State) : exec (.eccUncorrectable w) s = execEccUncorrectable w s := rfl
theorem exec_stackFailure (slot : Nat) (s : State) : exec (.stackFailure slot) s = execStackFailure slot s := rfl
theorem exec_sptrootWrite (part : Nat) (v : BitVec 64) (s : State) : exec (.sptrootWrite part v) s = execSptrootWrite part v s := rfl
theorem exec_supervisorShoot (part : Nat) (va : BitVec 64) (large : Bool) (s : State) : exec (.supervisorShoot part va large) s = execSupervisorShoot part va large s := rfl
theorem exec_furrowTableLoad (t : FurrowLoad) (s : State) : exec (.furrowTableLoad t) s = execFurrowTableLoad t s := rfl
theorem exec_graphLoad (vr : Nat) (slot : Nat) (header : BitVec 128) (trees : List (BitVec 128)) (ops : List (BitVec 256)) (s : State) : exec (.graphLoad vr slot header trees ops) s = execGraphLoad vr slot header trees ops s := rfl
theorem exec_serviceRequest (r : SRef) (s : State) : exec (.serviceRequest r) s = execServiceRequest r s := rfl
theorem exec_atomicPermit (r : SRef) (p : Permit) (s : State) : exec (.atomicPermit r p) s = execAtomicPermit r p s := rfl
theorem exec_commit (r : SRef) (frames : List Nat) (s : State) : exec (.commit r frames) s = execCommit r frames s := rfl
theorem exec_serviceReply (r : SRef) (s : State) : exec (.serviceReply r) s = execServiceReply r s := rfl
theorem exec_bubbleCycle (vr : Nat) (s : State) : exec (.bubbleCycle vr) s = execBubbleCycle vr s := rfl
theorem exec_noticeWrite (s : State) : exec (.noticeWrite) s = execNoticeWrite s := rfl
theorem exec_eccCorrected (s : State) : exec (.eccCorrected) s = execEccCorrected s := rfl
theorem exec_moduleFault (s : State) : exec (.moduleFault) s = execModuleFault s := rfl

end Sys2Proof.Machine
end

