-- ==== Sys2Proof/Laws/Memory.lean ====
section
/-! SUPPORT. Memories: every operation keeps the canonical form, a read after a write gives what was written, a write
leaves every other byte alone. -/

namespace Sys2Proof.Machine

/-! ### The canonical form -/

theorem memWfFrom_mono {m : Memory} {lo hi : Nat} (h : memWfFrom hi m = true) (hl : lo ≤ hi) : memWfFrom lo m = true := by
  cases m with
  | nil => rfl
  | cons c t =>
    obtain ⟨k, v⟩ := c
    simp only [memWfFrom, Bool.and_eq_true, decide_eq_true_eq] at h ⊢
    exact ⟨⟨by omega, h.1.2⟩, h.2⟩

theorem memWfFrom_memWrite (m : Memory) (lo a : Nat) (b : Byte) (h : memWfFrom lo m = true) (ha : lo ≤ a) :
    memWfFrom lo (memWrite m a b) = true := by
  induction m generalizing lo with
  | nil =>
    simp only [memWrite]
    split
    · rfl
    · simp_all [memWfFrom]
  | cons c t ih =>
    obtain ⟨k, v⟩ := c
    simp only [memWfFrom, Bool.and_eq_true, decide_eq_true_eq] at h
    obtain ⟨⟨hk, hv⟩, ht⟩ := h
    simp only [memWrite]
    split
    · split
      · simp only [memWfFrom, Bool.and_eq_true, decide_eq_true_eq]
        exact ⟨⟨hk, hv⟩, ht⟩
      · simp_all [memWfFrom]
    · split
      · subst a
        split
        · exact memWfFrom_mono ht (by omega)
        · simp_all [memWfFrom]
      · simp only [memWfFrom, Bool.and_eq_true, decide_eq_true_eq]
        exact ⟨⟨hk, hv⟩, ih (k + 1) ht (by omega)⟩

theorem wf_nil : Memory.wf [] = true := rfl

theorem wf_memWrite {m : Memory} (h : m.wf = true) (a : Nat) (b : Byte) : (memWrite m a b).wf = true :=
  memWfFrom_memWrite m 0 a b h (Nat.zero_le a)

theorem wf_memPut {m : Memory} (h : m.wf = true) (a : Nat) (bs : List Byte) : (memPut m a bs).wf = true := by
  induction bs generalizing m a with
  | nil => exact h
  | cons b bs ih => exact ih (wf_memWrite h a b) (a + 1)

theorem wf_physWrite {m : Memory} (h : m.wf = true) (a : Nat) (b : Byte) : (physWrite m a b).wf = true := by
  unfold physWrite
  split
  · exact wf_memWrite h a b
  · exact h

theorem wf_physPut {m : Memory} (h : m.wf = true) (a : Nat) (bs : List Byte) : (physPut m a bs).wf = true := by
  induction bs generalizing m a with
  | nil => exact h
  | cons b bs ih => exact ih (wf_physWrite h a b) (a + 1)

theorem memWfFrom_filter (p : Nat × Byte → Bool) (m : Memory) (lo : Nat) (h : memWfFrom lo m = true) :
    memWfFrom lo (m.filter p) = true := by
  induction m generalizing lo with
  | nil => rfl
  | cons c t ih =>
    obtain ⟨k, v⟩ := c
    simp only [memWfFrom, Bool.and_eq_true, decide_eq_true_eq] at h
    simp only [List.filter_cons]
    split
    · simp only [memWfFrom, Bool.and_eq_true, decide_eq_true_eq]
      exact ⟨h.1, ih (k + 1) h.2⟩
    · exact memWfFrom_mono (ih (k + 1) h.2) (by omega)

theorem wf_memClear {m : Memory} (h : m.wf = true) (a n : Nat) : (memClear m a n).wf = true := memWfFrom_filter _ m 0 h

theorem wf_memPart {m : Memory} (h : m.wf = true) (a n : Nat) : (memPart m a n).wf = true := memWfFrom_filter _ m 0 h

/-! ### Reading -/

theorem memRead_below {m : Memory} {lo a : Nat} (h : memWfFrom lo m = true) (ha : a < lo) : memRead m a = 0 := by
  cases m with
  | nil => rfl
  | cons c t =>
    obtain ⟨k, v⟩ := c
    simp only [memWfFrom, Bool.and_eq_true, decide_eq_true_eq] at h
    simp only [memRead]
    rw [if_neg (by omega), if_pos (by omega)]

theorem memRead_memWrite_from (m : Memory) (lo a x : Nat) (b : Byte) (h : memWfFrom lo m = true) :
    memRead (memWrite m a b) x = if x = a then b else memRead m x := by
  induction m generalizing lo with
  | nil =>
    simp only [memWrite]
    split <;> split <;> simp_all [memRead]
  | cons c t ih =>
    obtain ⟨k, v⟩ := c
    simp only [memWfFrom, Bool.and_eq_true, decide_eq_true_eq] at h
    obtain ⟨⟨hk, hv⟩, ht⟩ := h
    simp only [memWrite]
    split
    · rename_i hlt
      split
      · split
        · subst x
          simp only [memRead]
          rw [if_neg (by omega), if_pos hlt]
          simp_all
        · rfl
      · split
        · subst x; simp [memRead]
        · simp only [memRead]
          repeat' (first | rfl | split | omega)
    · split
      · subst a
        rename_i h1
        split
        · split
          · subst x
            rw [memRead_below ht (by omega)]
            simp_all
          · simp only [memRead]
            rename_i h0 hx
            rw [if_neg hx]
            split
            · exact memRead_below ht (by omega)
            · rfl
        · split
          · subst x; simp [memRead]
          · rename_i hx
            simp [memRead, hx]
      · simp only [memRead]
        rename_i h1 h2
        split
        · rw [if_neg (by omega)]
        · split
          · rw [if_neg (by omega)]
          · exact ih (k + 1) ht

/-- A read after a write: the byte written at its address, every other byte as before. -/
theorem memRead_memWrite {m : Memory} (h : m.wf = true) (a x : Nat) (b : Byte) :
    memRead (memWrite m a b) x = if x = a then b else memRead m x := memRead_memWrite_from m 0 a x b h

/-- A read after a write of several bytes. -/
theorem memRead_memPut {m : Memory} (h : m.wf = true) (a x : Nat) (bs : List Byte) :
    memRead (memPut m a bs) x = if a ≤ x ∧ x < a + bs.length then bs[x - a]?.getD 0 else memRead m x := by
  induction bs generalizing m a with
  | nil =>
    rw [if_neg (by simp)]
    rfl
  | cons b bs ih =>
    simp only [memPut, ih (wf_memWrite h a b), memRead_memWrite h, List.length_cons]
    by_cases hx : x = a
    · subst x
      rw [if_neg (by omega), if_pos rfl, if_pos (by omega), Nat.sub_self]
      rfl
    · rw [if_neg hx]
      by_cases hy : a + 1 ≤ x ∧ x < a + 1 + bs.length
      · rw [if_pos hy, if_pos (by omega), show x - a = (x - (a + 1)) + 1 by omega]
        rfl
      · rw [if_neg hy, if_neg (by omega)]

theorem length_memBytes (m : Memory) (a n : Nat) : (memBytes m a n).length = n := by
  induction n generalizing a with
  | zero => rfl
  | succ n ih => simp [memBytes, ih]

theorem getElem?_memBytes (m : Memory) (a n i : Nat) (hi : i < n) : (memBytes m a n)[i]? = some (memRead m (a + i)) := by
  induction n generalizing a i with
  | zero => omega
  | succ n ih =>
    cases i with
    | zero => rfl
    | succ i =>
      rw [memBytes, List.getElem?_cons_succ, ih (a + 1) i (by omega)]
      congr 2
      omega

/-- Reading back the bytes just written. -/
theorem memBytes_memPut {m : Memory} (h : m.wf = true) (a : Nat) (bs : List Byte) :
    memBytes (memPut m a bs) a bs.length = bs := by
  apply List.ext_getElem?
  intro i
  by_cases hi : i < bs.length
  · rw [getElem?_memBytes _ _ _ _ hi, memRead_memPut h, if_pos (by omega), Nat.add_sub_cancel_left]
    simp [hi]
  · rw [List.getElem?_eq_none (by rw [length_memBytes]; omega), List.getElem?_eq_none (by omega)]

/-! ### Physical memory -/

theorem physRead_physWrite {m : Memory} (h : m.wf = true) (a x : Nat) (b : Byte) (he : physExists a = true) :
    physRead (physWrite m a b) x = if x = a then b else physRead m x := by
  simp only [physRead, physWrite, he, if_true, memRead_memWrite h]
  by_cases hx : x = a
  · subst x; simp [he]
  · simp [hx]

theorem physWrite_absent (m : Memory) (a : Nat) (b : Byte) (he : physExists a = false) : physWrite m a b = m := by
  simp [physWrite, he]

/-- A write of physical bytes leaves every address outside them as it was. -/
theorem memRead_physPut_of_outside {m : Memory} (h : m.wf = true) (a x : Nat) (bs : List Byte)
    (hx : ¬ (a ≤ x ∧ x < a + bs.length)) : memRead (physPut m a bs) x = memRead m x := by
  induction bs generalizing m a with
  | nil => rfl
  | cons b bs ih =>
    simp only [List.length_cons] at hx
    rw [physPut, ih (wf_physWrite h a b) (a + 1) (by omega)]
    unfold physWrite
    split
    · rw [memRead_memWrite h, if_neg (by omega)]
    · rfl

/-- A write of physical bytes where memory exists. -/
theorem memRead_physPut {m : Memory} (h : m.wf = true) (a x : Nat) (bs : List Byte)
    (he : ∀ i, i < bs.length → physExists (a + i) = true) :
    memRead (physPut m a bs) x = if a ≤ x ∧ x < a + bs.length then bs[x - a]?.getD 0 else memRead m x := by
  induction bs generalizing m a with
  | nil =>
    rw [if_neg (by simp)]
    rfl
  | cons b bs ih =>
    have h0 : physExists a = true := he 0 (by simp)
    have h1 : ∀ i, i < bs.length → physExists (a + 1 + i) = true := fun i hi => by
      have := he (i + 1) (by simp; omega)
      rwa [show a + (i + 1) = a + 1 + i by omega] at this
    simp only [physPut, ih (wf_physWrite h a b) (a + 1) h1, List.length_cons]
    by_cases hx : x = a
    · subst x
      rw [if_neg (by omega), if_pos (by omega), Nat.sub_self]
      simp [physWrite, h0, memRead_memWrite h]
    · by_cases hy : a + 1 ≤ x ∧ x < a + 1 + bs.length
      · rw [if_pos hy, if_pos (by omega), show x - a = (x - (a + 1)) + 1 by omega]
        rfl
      · rw [if_neg hy, if_neg (by omega)]
        simp [physWrite, h0, memRead_memWrite h, hx]

/-! ### Little-endian words -/

theorem length_leBytes (n v : Nat) : (leBytes n v).length = n := by
  induction n generalizing v with
  | zero => rfl
  | succ n ih => simp [leBytes, ih]

/-- The bytes of a number give the number back. -/
theorem leNat_leBytes (n v : Nat) : leNat (leBytes n v) = v % 256 ^ n := by
  induction n generalizing v with
  | zero => simp [leBytes, leNat, Nat.mod_one]
  | succ n ih =>
    simp only [leBytes, leNat, ih, BitVec.toNat_ofNat]
    rw [show (2 : Nat) ^ 8 = 256 from rfl, show (256 : Nat) ^ (n + 1) = 256 * 256 ^ n by rw [Nat.pow_succ, Nat.mul_comm], Nat.mod_mul]

/-! ### Association lists -/

theorem assocGet_assocSet_self (l : List (Nat × Word)) (k : Nat) (v : Word) (h : v ≠ 0) : assocGet (assocSet l k v) k = v := by
  induction l with
  | nil =>
    rw [assocSet, if_neg h]
    simp [assocGet]
  | cons c t ih =>
    obtain ⟨k', v'⟩ := c
    simp only [assocSet, h, if_false]
    split
    · simp [assocGet]
    · split
      · simp [assocGet]
      · rename_i hk
        have : (k' == k) = false := by simp; omega
        simpa [assocGet, List.find?_cons, this] using ih

end Sys2Proof.Machine
end

