-- ==== Sys2Proof/Laws/State.lean ====
section
/-! SUPPORT. What the named updates of State leave alone: one lemma per field and update, so that no proof unfolds a record update. -/

namespace Sys2Proof.Machine

/-! ### modRank -/

@[simp] theorem State.modRank_cur (s : State) (vr : Nat) (f : Rank → Rank) : (s.modRank vr f).cur = s.cur := rfl
@[simp] theorem State.modRank_trapped (s : State) (vr : Nat) (f : Rank → Rank) : (s.modRank vr f).trapped = s.trapped := rfl
@[simp] theorem State.modRank_agenda (s : State) (vr : Nat) (f : Rank → Rank) : (s.modRank vr f).agenda = s.agenda := rfl
@[simp] theorem State.modRank_pcp (s : State) (vr : Nat) (f : Rank → Rank) : (s.modRank vr f).pcp = s.pcp := rfl
@[simp] theorem State.modRank_inputs (s : State) (vr : Nat) (f : Rank → Rank) : (s.modRank vr f).inputs = s.inputs := rfl
@[simp] theorem State.modRank_net (s : State) (vr : Nat) (f : Rank → Rank) : (s.modRank vr f).net = s.net := rfl
@[simp] theorem State.modRank_out (s : State) (vr : Nat) (f : Rank → Rank) : (s.modRank vr f).out = s.out := rfl
@[simp] theorem State.modRank_free (s : State) (vr : Nat) (f : Rank → Rank) : (s.modRank vr f).free = s.free := rfl
@[simp] theorem State.modRank_nextId (s : State) (vr : Nat) (f : Rank → Rank) : (s.modRank vr f).nextId = s.nextId := rfl
@[simp] theorem State.modRank_nextAge (s : State) (vr : Nat) (f : Rank → Rank) : (s.modRank vr f).nextAge = s.nextAge := rfl
@[simp] theorem State.modRank_boot (s : State) (vr : Nat) (f : Rank → Rank) : (s.modRank vr f).boot = s.boot := rfl
@[simp] theorem State.modRank_pkgid (s : State) (vr : Nat) (f : Rank → Rank) : (s.modRank vr f).pkgid = s.pkgid := rfl
@[simp] theorem State.modRank_clavail (s : State) (vr : Nat) (f : Rank → Rank) : (s.modRank vr f).clavail = s.clavail := rfl
@[simp] theorem State.modRank_partcfg (s : State) (vr : Nat) (f : Rank → Rank) : (s.modRank vr f).partcfg = s.partcfg := rfl
@[simp] theorem State.modRank_sptroot (s : State) (vr : Nat) (f : Rank → Rank) : (s.modRank vr f).sptroot = s.sptroot := rfl
@[simp] theorem State.modRank_supgen (s : State) (vr : Nat) (f : Rank → Rank) : (s.modRank vr f).supgen = s.supgen := rfl
@[simp] theorem State.modRank_l2ctl (s : State) (vr : Nat) (f : Rank → Rank) : (s.modRank vr f).l2ctl = s.l2ctl := rfl
@[simp] theorem State.modRank_nring (s : State) (vr : Nat) (f : Rank → Rank) : (s.modRank vr f).nring = s.nring := rfl
@[simp] theorem State.modRank_nhead (s : State) (vr : Nat) (f : Rank → Rank) : (s.modRank vr f).nhead = s.nhead := rfl
@[simp] theorem State.modRank_ntail (s : State) (vr : Nat) (f : Rank → Rank) : (s.modRank vr f).ntail = s.ntail := rfl
@[simp] theorem State.modRank_notices (s : State) (vr : Nat) (f : Rank → Rank) : (s.modRank vr f).notices = s.notices := rfl
@[simp] theorem State.modRank_frameStates (s : State) (vr : Nat) (f : Rank → Rank) : (s.modRank vr f).frameStates = s.frameStates := rfl
@[simp] theorem State.modRank_fstBase (s : State) (vr : Nat) (f : Rank → Rank) : (s.modRank vr f).fstBase = s.fstBase := rfl
@[simp] theorem State.modRank_locks (s : State) (vr : Nat) (f : Rank → Rank) : (s.modRank vr f).locks = s.locks := rfl
@[simp] theorem State.modRank_faultq (s : State) (vr : Nat) (f : Rank → Rank) : (s.modRank vr f).faultq = s.faultq := rfl
@[simp] theorem State.modRank_home (s : State) (vr : Nat) (f : Rank → Rank) : (s.modRank vr f).home = s.home := rfl
@[simp] theorem State.modRank_held (s : State) (vr : Nat) (f : Rank → Rank) : (s.modRank vr f).held = s.held := rfl
@[simp] theorem State.modRank_mem (s : State) (vr : Nat) (f : Rank → Rank) : (s.modRank vr f).mem = s.mem := rfl
@[simp] theorem State.modRank_hostMem (s : State) (vr : Nat) (f : Rank → Rank) : (s.modRank vr f).hostMem = s.hostMem := rfl
@[simp] theorem State.modRank_place (s : State) (vr : Nat) (f : Rank → Rank) : (s.modRank vr f).place = s.place := rfl
@[simp] theorem State.modRank_jobs (s : State) (vr : Nat) (f : Rank → Rank) : (s.modRank vr f).jobs = s.jobs := rfl
@[simp] theorem State.modRank_slots (s : State) (vr : Nat) (f : Rank → Rank) : (s.modRank vr f).slots = s.slots := rfl
@[simp] theorem State.modRank_cmds (s : State) (vr : Nat) (f : Rank → Rank) : (s.modRank vr f).cmds = s.cmds := rfl
@[simp] theorem State.modRank_trees (s : State) (vr : Nat) (f : Rank → Rank) : (s.modRank vr f).trees = s.trees := rfl
@[simp] theorem State.modRank_migPlanes (s : State) (vr : Nat) (f : Rank → Rank) : (s.modRank vr f).migPlanes = s.migPlanes := rfl
@[simp] theorem State.modRank_granary (s : State) (vr : Nat) (f : Rank → Rank) : (s.modRank vr f).granary = s.granary := rfl
@[simp] theorem State.modRank_fabric (s : State) (vr : Nat) (f : Rank → Rank) : (s.modRank vr f).fabric = s.fabric := rfl
@[simp] theorem State.modRank_conns (s : State) (vr : Nat) (f : Rank → Rank) : (s.modRank vr f).conns = s.conns := rfl
@[simp] theorem State.modRank_host (s : State) (vr : Nat) (f : Rank → Rank) : (s.modRank vr f).host = s.host := rfl
@[simp] theorem State.modRank_services (s : State) (vr : Nat) (f : Rank → Rank) : (s.modRank vr f).services = s.services := rfl
@[simp] theorem State.modRank_pubs (s : State) (vr : Nat) (f : Rank → Rank) : (s.modRank vr f).pubs = s.pubs := rfl
@[simp] theorem State.modRank_incoming (s : State) (vr : Nat) (f : Rank → Rank) : (s.modRank vr f).incoming = s.incoming := rfl
@[simp] theorem State.modRank_corrected (s : State) (vr : Nat) (f : Rank → Rank) : (s.modRank vr f).corrected = s.corrected := rfl
@[simp] theorem State.modRank_dropped (s : State) (vr : Nat) (f : Rank → Rank) : (s.modRank vr f).dropped = s.dropped := rfl

/-! ### modGang -/

@[simp] theorem State.modGang_cur (s : State) (vr g : Nat) (f : Gang → Gang) : (s.modGang vr g f).cur = s.cur := rfl
@[simp] theorem State.modGang_trapped (s : State) (vr g : Nat) (f : Gang → Gang) : (s.modGang vr g f).trapped = s.trapped := rfl
@[simp] theorem State.modGang_agenda (s : State) (vr g : Nat) (f : Gang → Gang) : (s.modGang vr g f).agenda = s.agenda := rfl
@[simp] theorem State.modGang_pcp (s : State) (vr g : Nat) (f : Gang → Gang) : (s.modGang vr g f).pcp = s.pcp := rfl
@[simp] theorem State.modGang_inputs (s : State) (vr g : Nat) (f : Gang → Gang) : (s.modGang vr g f).inputs = s.inputs := rfl
@[simp] theorem State.modGang_net (s : State) (vr g : Nat) (f : Gang → Gang) : (s.modGang vr g f).net = s.net := rfl
@[simp] theorem State.modGang_out (s : State) (vr g : Nat) (f : Gang → Gang) : (s.modGang vr g f).out = s.out := rfl
@[simp] theorem State.modGang_free (s : State) (vr g : Nat) (f : Gang → Gang) : (s.modGang vr g f).free = s.free := rfl
@[simp] theorem State.modGang_nextId (s : State) (vr g : Nat) (f : Gang → Gang) : (s.modGang vr g f).nextId = s.nextId := rfl
@[simp] theorem State.modGang_nextAge (s : State) (vr g : Nat) (f : Gang → Gang) : (s.modGang vr g f).nextAge = s.nextAge := rfl
@[simp] theorem State.modGang_boot (s : State) (vr g : Nat) (f : Gang → Gang) : (s.modGang vr g f).boot = s.boot := rfl
@[simp] theorem State.modGang_pkgid (s : State) (vr g : Nat) (f : Gang → Gang) : (s.modGang vr g f).pkgid = s.pkgid := rfl
@[simp] theorem State.modGang_clavail (s : State) (vr g : Nat) (f : Gang → Gang) : (s.modGang vr g f).clavail = s.clavail := rfl
@[simp] theorem State.modGang_partcfg (s : State) (vr g : Nat) (f : Gang → Gang) : (s.modGang vr g f).partcfg = s.partcfg := rfl
@[simp] theorem State.modGang_sptroot (s : State) (vr g : Nat) (f : Gang → Gang) : (s.modGang vr g f).sptroot = s.sptroot := rfl
@[simp] theorem State.modGang_supgen (s : State) (vr g : Nat) (f : Gang → Gang) : (s.modGang vr g f).supgen = s.supgen := rfl
@[simp] theorem State.modGang_l2ctl (s : State) (vr g : Nat) (f : Gang → Gang) : (s.modGang vr g f).l2ctl = s.l2ctl := rfl
@[simp] theorem State.modGang_nring (s : State) (vr g : Nat) (f : Gang → Gang) : (s.modGang vr g f).nring = s.nring := rfl
@[simp] theorem State.modGang_nhead (s : State) (vr g : Nat) (f : Gang → Gang) : (s.modGang vr g f).nhead = s.nhead := rfl
@[simp] theorem State.modGang_ntail (s : State) (vr g : Nat) (f : Gang → Gang) : (s.modGang vr g f).ntail = s.ntail := rfl
@[simp] theorem State.modGang_notices (s : State) (vr g : Nat) (f : Gang → Gang) : (s.modGang vr g f).notices = s.notices := rfl
@[simp] theorem State.modGang_frameStates (s : State) (vr g : Nat) (f : Gang → Gang) : (s.modGang vr g f).frameStates = s.frameStates := rfl
@[simp] theorem State.modGang_fstBase (s : State) (vr g : Nat) (f : Gang → Gang) : (s.modGang vr g f).fstBase = s.fstBase := rfl
@[simp] theorem State.modGang_locks (s : State) (vr g : Nat) (f : Gang → Gang) : (s.modGang vr g f).locks = s.locks := rfl
@[simp] theorem State.modGang_faultq (s : State) (vr g : Nat) (f : Gang → Gang) : (s.modGang vr g f).faultq = s.faultq := rfl
@[simp] theorem State.modGang_home (s : State) (vr g : Nat) (f : Gang → Gang) : (s.modGang vr g f).home = s.home := rfl
@[simp] theorem State.modGang_held (s : State) (vr g : Nat) (f : Gang → Gang) : (s.modGang vr g f).held = s.held := rfl
@[simp] theorem State.modGang_mem (s : State) (vr g : Nat) (f : Gang → Gang) : (s.modGang vr g f).mem = s.mem := rfl
@[simp] theorem State.modGang_hostMem (s : State) (vr g : Nat) (f : Gang → Gang) : (s.modGang vr g f).hostMem = s.hostMem := rfl
@[simp] theorem State.modGang_place (s : State) (vr g : Nat) (f : Gang → Gang) : (s.modGang vr g f).place = s.place := rfl
@[simp] theorem State.modGang_jobs (s : State) (vr g : Nat) (f : Gang → Gang) : (s.modGang vr g f).jobs = s.jobs := rfl
@[simp] theorem State.modGang_slots (s : State) (vr g : Nat) (f : Gang → Gang) : (s.modGang vr g f).slots = s.slots := rfl
@[simp] theorem State.modGang_cmds (s : State) (vr g : Nat) (f : Gang → Gang) : (s.modGang vr g f).cmds = s.cmds := rfl
@[simp] theorem State.modGang_trees (s : State) (vr g : Nat) (f : Gang → Gang) : (s.modGang vr g f).trees = s.trees := rfl
@[simp] theorem State.modGang_migPlanes (s : State) (vr g : Nat) (f : Gang → Gang) : (s.modGang vr g f).migPlanes = s.migPlanes := rfl
@[simp] theorem State.modGang_granary (s : State) (vr g : Nat) (f : Gang → Gang) : (s.modGang vr g f).granary = s.granary := rfl
@[simp] theorem State.modGang_fabric (s : State) (vr g : Nat) (f : Gang → Gang) : (s.modGang vr g f).fabric = s.fabric := rfl
@[simp] theorem State.modGang_conns (s : State) (vr g : Nat) (f : Gang → Gang) : (s.modGang vr g f).conns = s.conns := rfl
@[simp] theorem State.modGang_host (s : State) (vr g : Nat) (f : Gang → Gang) : (s.modGang vr g f).host = s.host := rfl
@[simp] theorem State.modGang_services (s : State) (vr g : Nat) (f : Gang → Gang) : (s.modGang vr g f).services = s.services := rfl
@[simp] theorem State.modGang_pubs (s : State) (vr g : Nat) (f : Gang → Gang) : (s.modGang vr g f).pubs = s.pubs := rfl
@[simp] theorem State.modGang_incoming (s : State) (vr g : Nat) (f : Gang → Gang) : (s.modGang vr g f).incoming = s.incoming := rfl
@[simp] theorem State.modGang_corrected (s : State) (vr g : Nat) (f : Gang → Gang) : (s.modGang vr g f).corrected = s.corrected := rfl
@[simp] theorem State.modGang_dropped (s : State) (vr g : Nat) (f : Gang → Gang) : (s.modGang vr g f).dropped = s.dropped := rfl

/-! ### modCore -/

@[simp] theorem State.modCore_cur (s : State) (r : SRef) (f : Core → Core) : (s.modCore r f).cur = s.cur := rfl
@[simp] theorem State.modCore_trapped (s : State) (r : SRef) (f : Core → Core) : (s.modCore r f).trapped = s.trapped := rfl
@[simp] theorem State.modCore_agenda (s : State) (r : SRef) (f : Core → Core) : (s.modCore r f).agenda = s.agenda := rfl
@[simp] theorem State.modCore_pcp (s : State) (r : SRef) (f : Core → Core) : (s.modCore r f).pcp = s.pcp := rfl
@[simp] theorem State.modCore_inputs (s : State) (r : SRef) (f : Core → Core) : (s.modCore r f).inputs = s.inputs := rfl
@[simp] theorem State.modCore_net (s : State) (r : SRef) (f : Core → Core) : (s.modCore r f).net = s.net := rfl
@[simp] theorem State.modCore_out (s : State) (r : SRef) (f : Core → Core) : (s.modCore r f).out = s.out := rfl
@[simp] theorem State.modCore_free (s : State) (r : SRef) (f : Core → Core) : (s.modCore r f).free = s.free := rfl
@[simp] theorem State.modCore_nextId (s : State) (r : SRef) (f : Core → Core) : (s.modCore r f).nextId = s.nextId := rfl
@[simp] theorem State.modCore_nextAge (s : State) (r : SRef) (f : Core → Core) : (s.modCore r f).nextAge = s.nextAge := rfl
@[simp] theorem State.modCore_boot (s : State) (r : SRef) (f : Core → Core) : (s.modCore r f).boot = s.boot := rfl
@[simp] theorem State.modCore_pkgid (s : State) (r : SRef) (f : Core → Core) : (s.modCore r f).pkgid = s.pkgid := rfl
@[simp] theorem State.modCore_clavail (s : State) (r : SRef) (f : Core → Core) : (s.modCore r f).clavail = s.clavail := rfl
@[simp] theorem State.modCore_partcfg (s : State) (r : SRef) (f : Core → Core) : (s.modCore r f).partcfg = s.partcfg := rfl
@[simp] theorem State.modCore_sptroot (s : State) (r : SRef) (f : Core → Core) : (s.modCore r f).sptroot = s.sptroot := rfl
@[simp] theorem State.modCore_supgen (s : State) (r : SRef) (f : Core → Core) : (s.modCore r f).supgen = s.supgen := rfl
@[simp] theorem State.modCore_l2ctl (s : State) (r : SRef) (f : Core → Core) : (s.modCore r f).l2ctl = s.l2ctl := rfl
@[simp] theorem State.modCore_nring (s : State) (r : SRef) (f : Core → Core) : (s.modCore r f).nring = s.nring := rfl
@[simp] theorem State.modCore_nhead (s : State) (r : SRef) (f : Core → Core) : (s.modCore r f).nhead = s.nhead := rfl
@[simp] theorem State.modCore_ntail (s : State) (r : SRef) (f : Core → Core) : (s.modCore r f).ntail = s.ntail := rfl
@[simp] theorem State.modCore_notices (s : State) (r : SRef) (f : Core → Core) : (s.modCore r f).notices = s.notices := rfl
@[simp] theorem State.modCore_frameStates (s : State) (r : SRef) (f : Core → Core) : (s.modCore r f).frameStates = s.frameStates := rfl
@[simp] theorem State.modCore_fstBase (s : State) (r : SRef) (f : Core → Core) : (s.modCore r f).fstBase = s.fstBase := rfl
@[simp] theorem State.modCore_locks (s : State) (r : SRef) (f : Core → Core) : (s.modCore r f).locks = s.locks := rfl
@[simp] theorem State.modCore_faultq (s : State) (r : SRef) (f : Core → Core) : (s.modCore r f).faultq = s.faultq := rfl
@[simp] theorem State.modCore_home (s : State) (r : SRef) (f : Core → Core) : (s.modCore r f).home = s.home := rfl
@[simp] theorem State.modCore_held (s : State) (r : SRef) (f : Core → Core) : (s.modCore r f).held = s.held := rfl
@[simp] theorem State.modCore_mem (s : State) (r : SRef) (f : Core → Core) : (s.modCore r f).mem = s.mem := rfl
@[simp] theorem State.modCore_hostMem (s : State) (r : SRef) (f : Core → Core) : (s.modCore r f).hostMem = s.hostMem := rfl
@[simp] theorem State.modCore_place (s : State) (r : SRef) (f : Core → Core) : (s.modCore r f).place = s.place := rfl
@[simp] theorem State.modCore_jobs (s : State) (r : SRef) (f : Core → Core) : (s.modCore r f).jobs = s.jobs := rfl
@[simp] theorem State.modCore_slots (s : State) (r : SRef) (f : Core → Core) : (s.modCore r f).slots = s.slots := rfl
@[simp] theorem State.modCore_cmds (s : State) (r : SRef) (f : Core → Core) : (s.modCore r f).cmds = s.cmds := rfl
@[simp] theorem State.modCore_trees (s : State) (r : SRef) (f : Core → Core) : (s.modCore r f).trees = s.trees := rfl
@[simp] theorem State.modCore_migPlanes (s : State) (r : SRef) (f : Core → Core) : (s.modCore r f).migPlanes = s.migPlanes := rfl
@[simp] theorem State.modCore_granary (s : State) (r : SRef) (f : Core → Core) : (s.modCore r f).granary = s.granary := rfl
@[simp] theorem State.modCore_fabric (s : State) (r : SRef) (f : Core → Core) : (s.modCore r f).fabric = s.fabric := rfl
@[simp] theorem State.modCore_conns (s : State) (r : SRef) (f : Core → Core) : (s.modCore r f).conns = s.conns := rfl
@[simp] theorem State.modCore_host (s : State) (r : SRef) (f : Core → Core) : (s.modCore r f).host = s.host := rfl
@[simp] theorem State.modCore_services (s : State) (r : SRef) (f : Core → Core) : (s.modCore r f).services = s.services := rfl
@[simp] theorem State.modCore_pubs (s : State) (r : SRef) (f : Core → Core) : (s.modCore r f).pubs = s.pubs := rfl
@[simp] theorem State.modCore_incoming (s : State) (r : SRef) (f : Core → Core) : (s.modCore r f).incoming = s.incoming := rfl
@[simp] theorem State.modCore_corrected (s : State) (r : SRef) (f : Core → Core) : (s.modCore r f).corrected = s.corrected := rfl
@[simp] theorem State.modCore_dropped (s : State) (r : SRef) (f : Core → Core) : (s.modCore r f).dropped = s.dropped := rfl

/-! ### modStrand -/

@[simp] theorem State.modStrand_cur (s : State) (r : SRef) (f : Strand → Strand) : (s.modStrand r f).cur = s.cur := rfl
@[simp] theorem State.modStrand_trapped (s : State) (r : SRef) (f : Strand → Strand) : (s.modStrand r f).trapped = s.trapped := rfl
@[simp] theorem State.modStrand_agenda (s : State) (r : SRef) (f : Strand → Strand) : (s.modStrand r f).agenda = s.agenda := rfl
@[simp] theorem State.modStrand_pcp (s : State) (r : SRef) (f : Strand → Strand) : (s.modStrand r f).pcp = s.pcp := rfl
@[simp] theorem State.modStrand_inputs (s : State) (r : SRef) (f : Strand → Strand) : (s.modStrand r f).inputs = s.inputs := rfl
@[simp] theorem State.modStrand_net (s : State) (r : SRef) (f : Strand → Strand) : (s.modStrand r f).net = s.net := rfl
@[simp] theorem State.modStrand_out (s : State) (r : SRef) (f : Strand → Strand) : (s.modStrand r f).out = s.out := rfl
@[simp] theorem State.modStrand_free (s : State) (r : SRef) (f : Strand → Strand) : (s.modStrand r f).free = s.free := rfl
@[simp] theorem State.modStrand_nextId (s : State) (r : SRef) (f : Strand → Strand) : (s.modStrand r f).nextId = s.nextId := rfl
@[simp] theorem State.modStrand_nextAge (s : State) (r : SRef) (f : Strand → Strand) : (s.modStrand r f).nextAge = s.nextAge := rfl
@[simp] theorem State.modStrand_boot (s : State) (r : SRef) (f : Strand → Strand) : (s.modStrand r f).boot = s.boot := rfl
@[simp] theorem State.modStrand_pkgid (s : State) (r : SRef) (f : Strand → Strand) : (s.modStrand r f).pkgid = s.pkgid := rfl
@[simp] theorem State.modStrand_clavail (s : State) (r : SRef) (f : Strand → Strand) : (s.modStrand r f).clavail = s.clavail := rfl
@[simp] theorem State.modStrand_partcfg (s : State) (r : SRef) (f : Strand → Strand) : (s.modStrand r f).partcfg = s.partcfg := rfl
@[simp] theorem State.modStrand_sptroot (s : State) (r : SRef) (f : Strand → Strand) : (s.modStrand r f).sptroot = s.sptroot := rfl
@[simp] theorem State.modStrand_supgen (s : State) (r : SRef) (f : Strand → Strand) : (s.modStrand r f).supgen = s.supgen := rfl
@[simp] theorem State.modStrand_l2ctl (s : State) (r : SRef) (f : Strand → Strand) : (s.modStrand r f).l2ctl = s.l2ctl := rfl
@[simp] theorem State.modStrand_nring (s : State) (r : SRef) (f : Strand → Strand) : (s.modStrand r f).nring = s.nring := rfl
@[simp] theorem State.modStrand_nhead (s : State) (r : SRef) (f : Strand → Strand) : (s.modStrand r f).nhead = s.nhead := rfl
@[simp] theorem State.modStrand_ntail (s : State) (r : SRef) (f : Strand → Strand) : (s.modStrand r f).ntail = s.ntail := rfl
@[simp] theorem State.modStrand_notices (s : State) (r : SRef) (f : Strand → Strand) : (s.modStrand r f).notices = s.notices := rfl
@[simp] theorem State.modStrand_frameStates (s : State) (r : SRef) (f : Strand → Strand) : (s.modStrand r f).frameStates = s.frameStates := rfl
@[simp] theorem State.modStrand_fstBase (s : State) (r : SRef) (f : Strand → Strand) : (s.modStrand r f).fstBase = s.fstBase := rfl
@[simp] theorem State.modStrand_locks (s : State) (r : SRef) (f : Strand → Strand) : (s.modStrand r f).locks = s.locks := rfl
@[simp] theorem State.modStrand_faultq (s : State) (r : SRef) (f : Strand → Strand) : (s.modStrand r f).faultq = s.faultq := rfl
@[simp] theorem State.modStrand_home (s : State) (r : SRef) (f : Strand → Strand) : (s.modStrand r f).home = s.home := rfl
@[simp] theorem State.modStrand_held (s : State) (r : SRef) (f : Strand → Strand) : (s.modStrand r f).held = s.held := rfl
@[simp] theorem State.modStrand_mem (s : State) (r : SRef) (f : Strand → Strand) : (s.modStrand r f).mem = s.mem := rfl
@[simp] theorem State.modStrand_hostMem (s : State) (r : SRef) (f : Strand → Strand) : (s.modStrand r f).hostMem = s.hostMem := rfl
@[simp] theorem State.modStrand_place (s : State) (r : SRef) (f : Strand → Strand) : (s.modStrand r f).place = s.place := rfl
@[simp] theorem State.modStrand_jobs (s : State) (r : SRef) (f : Strand → Strand) : (s.modStrand r f).jobs = s.jobs := rfl
@[simp] theorem State.modStrand_slots (s : State) (r : SRef) (f : Strand → Strand) : (s.modStrand r f).slots = s.slots := rfl
@[simp] theorem State.modStrand_cmds (s : State) (r : SRef) (f : Strand → Strand) : (s.modStrand r f).cmds = s.cmds := rfl
@[simp] theorem State.modStrand_trees (s : State) (r : SRef) (f : Strand → Strand) : (s.modStrand r f).trees = s.trees := rfl
@[simp] theorem State.modStrand_migPlanes (s : State) (r : SRef) (f : Strand → Strand) : (s.modStrand r f).migPlanes = s.migPlanes := rfl
@[simp] theorem State.modStrand_granary (s : State) (r : SRef) (f : Strand → Strand) : (s.modStrand r f).granary = s.granary := rfl
@[simp] theorem State.modStrand_fabric (s : State) (r : SRef) (f : Strand → Strand) : (s.modStrand r f).fabric = s.fabric := rfl
@[simp] theorem State.modStrand_conns (s : State) (r : SRef) (f : Strand → Strand) : (s.modStrand r f).conns = s.conns := rfl
@[simp] theorem State.modStrand_host (s : State) (r : SRef) (f : Strand → Strand) : (s.modStrand r f).host = s.host := rfl
@[simp] theorem State.modStrand_services (s : State) (r : SRef) (f : Strand → Strand) : (s.modStrand r f).services = s.services := rfl
@[simp] theorem State.modStrand_pubs (s : State) (r : SRef) (f : Strand → Strand) : (s.modStrand r f).pubs = s.pubs := rfl
@[simp] theorem State.modStrand_incoming (s : State) (r : SRef) (f : Strand → Strand) : (s.modStrand r f).incoming = s.incoming := rfl
@[simp] theorem State.modStrand_corrected (s : State) (r : SRef) (f : Strand → Strand) : (s.modStrand r f).corrected = s.corrected := rfl
@[simp] theorem State.modStrand_dropped (s : State) (r : SRef) (f : Strand → Strand) : (s.modStrand r f).dropped = s.dropped := rfl

/-! ### modSlot -/

@[simp] theorem State.modSlot_cur (s : State) (k : Nat) (f : Slot → Slot) : (s.modSlot k f).cur = s.cur := rfl
@[simp] theorem State.modSlot_trapped (s : State) (k : Nat) (f : Slot → Slot) : (s.modSlot k f).trapped = s.trapped := rfl
@[simp] theorem State.modSlot_agenda (s : State) (k : Nat) (f : Slot → Slot) : (s.modSlot k f).agenda = s.agenda := rfl
@[simp] theorem State.modSlot_pcp (s : State) (k : Nat) (f : Slot → Slot) : (s.modSlot k f).pcp = s.pcp := rfl
@[simp] theorem State.modSlot_inputs (s : State) (k : Nat) (f : Slot → Slot) : (s.modSlot k f).inputs = s.inputs := rfl
@[simp] theorem State.modSlot_net (s : State) (k : Nat) (f : Slot → Slot) : (s.modSlot k f).net = s.net := rfl
@[simp] theorem State.modSlot_out (s : State) (k : Nat) (f : Slot → Slot) : (s.modSlot k f).out = s.out := rfl
@[simp] theorem State.modSlot_free (s : State) (k : Nat) (f : Slot → Slot) : (s.modSlot k f).free = s.free := rfl
@[simp] theorem State.modSlot_nextId (s : State) (k : Nat) (f : Slot → Slot) : (s.modSlot k f).nextId = s.nextId := rfl
@[simp] theorem State.modSlot_nextAge (s : State) (k : Nat) (f : Slot → Slot) : (s.modSlot k f).nextAge = s.nextAge := rfl
@[simp] theorem State.modSlot_boot (s : State) (k : Nat) (f : Slot → Slot) : (s.modSlot k f).boot = s.boot := rfl
@[simp] theorem State.modSlot_pkgid (s : State) (k : Nat) (f : Slot → Slot) : (s.modSlot k f).pkgid = s.pkgid := rfl
@[simp] theorem State.modSlot_clavail (s : State) (k : Nat) (f : Slot → Slot) : (s.modSlot k f).clavail = s.clavail := rfl
@[simp] theorem State.modSlot_partcfg (s : State) (k : Nat) (f : Slot → Slot) : (s.modSlot k f).partcfg = s.partcfg := rfl
@[simp] theorem State.modSlot_sptroot (s : State) (k : Nat) (f : Slot → Slot) : (s.modSlot k f).sptroot = s.sptroot := rfl
@[simp] theorem State.modSlot_supgen (s : State) (k : Nat) (f : Slot → Slot) : (s.modSlot k f).supgen = s.supgen := rfl
@[simp] theorem State.modSlot_l2ctl (s : State) (k : Nat) (f : Slot → Slot) : (s.modSlot k f).l2ctl = s.l2ctl := rfl
@[simp] theorem State.modSlot_nring (s : State) (k : Nat) (f : Slot → Slot) : (s.modSlot k f).nring = s.nring := rfl
@[simp] theorem State.modSlot_nhead (s : State) (k : Nat) (f : Slot → Slot) : (s.modSlot k f).nhead = s.nhead := rfl
@[simp] theorem State.modSlot_ntail (s : State) (k : Nat) (f : Slot → Slot) : (s.modSlot k f).ntail = s.ntail := rfl
@[simp] theorem State.modSlot_notices (s : State) (k : Nat) (f : Slot → Slot) : (s.modSlot k f).notices = s.notices := rfl
@[simp] theorem State.modSlot_frameStates (s : State) (k : Nat) (f : Slot → Slot) : (s.modSlot k f).frameStates = s.frameStates := rfl
@[simp] theorem State.modSlot_fstBase (s : State) (k : Nat) (f : Slot → Slot) : (s.modSlot k f).fstBase = s.fstBase := rfl
@[simp] theorem State.modSlot_locks (s : State) (k : Nat) (f : Slot → Slot) : (s.modSlot k f).locks = s.locks := rfl
@[simp] theorem State.modSlot_faultq (s : State) (k : Nat) (f : Slot → Slot) : (s.modSlot k f).faultq = s.faultq := rfl
@[simp] theorem State.modSlot_home (s : State) (k : Nat) (f : Slot → Slot) : (s.modSlot k f).home = s.home := rfl
@[simp] theorem State.modSlot_held (s : State) (k : Nat) (f : Slot → Slot) : (s.modSlot k f).held = s.held := rfl
@[simp] theorem State.modSlot_mem (s : State) (k : Nat) (f : Slot → Slot) : (s.modSlot k f).mem = s.mem := rfl
@[simp] theorem State.modSlot_hostMem (s : State) (k : Nat) (f : Slot → Slot) : (s.modSlot k f).hostMem = s.hostMem := rfl
@[simp] theorem State.modSlot_place (s : State) (k : Nat) (f : Slot → Slot) : (s.modSlot k f).place = s.place := rfl
@[simp] theorem State.modSlot_jobs (s : State) (k : Nat) (f : Slot → Slot) : (s.modSlot k f).jobs = s.jobs := rfl
@[simp] theorem State.modSlot_ranks (s : State) (k : Nat) (f : Slot → Slot) : (s.modSlot k f).ranks = s.ranks := rfl
@[simp] theorem State.modSlot_cmds (s : State) (k : Nat) (f : Slot → Slot) : (s.modSlot k f).cmds = s.cmds := rfl
@[simp] theorem State.modSlot_trees (s : State) (k : Nat) (f : Slot → Slot) : (s.modSlot k f).trees = s.trees := rfl
@[simp] theorem State.modSlot_migPlanes (s : State) (k : Nat) (f : Slot → Slot) : (s.modSlot k f).migPlanes = s.migPlanes := rfl
@[simp] theorem State.modSlot_granary (s : State) (k : Nat) (f : Slot → Slot) : (s.modSlot k f).granary = s.granary := rfl
@[simp] theorem State.modSlot_fabric (s : State) (k : Nat) (f : Slot → Slot) : (s.modSlot k f).fabric = s.fabric := rfl
@[simp] theorem State.modSlot_conns (s : State) (k : Nat) (f : Slot → Slot) : (s.modSlot k f).conns = s.conns := rfl
@[simp] theorem State.modSlot_host (s : State) (k : Nat) (f : Slot → Slot) : (s.modSlot k f).host = s.host := rfl
@[simp] theorem State.modSlot_services (s : State) (k : Nat) (f : Slot → Slot) : (s.modSlot k f).services = s.services := rfl
@[simp] theorem State.modSlot_pubs (s : State) (k : Nat) (f : Slot → Slot) : (s.modSlot k f).pubs = s.pubs := rfl
@[simp] theorem State.modSlot_incoming (s : State) (k : Nat) (f : Slot → Slot) : (s.modSlot k f).incoming = s.incoming := rfl
@[simp] theorem State.modSlot_corrected (s : State) (k : Nat) (f : Slot → Slot) : (s.modSlot k f).corrected = s.corrected := rfl
@[simp] theorem State.modSlot_dropped (s : State) (k : Nat) (f : Slot → Slot) : (s.modSlot k f).dropped = s.dropped := rfl

/-! ### complete -/

@[simp] theorem State.complete_cur (s : State) (n : Word) (st : Strand) : (s.complete n st).cur = s.cur := rfl
@[simp] theorem State.complete_trapped (s : State) (n : Word) (st : Strand) : (s.complete n st).trapped = s.trapped := rfl
@[simp] theorem State.complete_agenda (s : State) (n : Word) (st : Strand) : (s.complete n st).agenda = s.agenda := rfl
@[simp] theorem State.complete_pcp (s : State) (n : Word) (st : Strand) : (s.complete n st).pcp = s.pcp := rfl
@[simp] theorem State.complete_inputs (s : State) (n : Word) (st : Strand) : (s.complete n st).inputs = s.inputs := rfl
@[simp] theorem State.complete_net (s : State) (n : Word) (st : Strand) : (s.complete n st).net = s.net := rfl
@[simp] theorem State.complete_out (s : State) (n : Word) (st : Strand) : (s.complete n st).out = s.out := rfl
@[simp] theorem State.complete_free (s : State) (n : Word) (st : Strand) : (s.complete n st).free = s.free := rfl
@[simp] theorem State.complete_nextId (s : State) (n : Word) (st : Strand) : (s.complete n st).nextId = s.nextId := rfl
@[simp] theorem State.complete_nextAge (s : State) (n : Word) (st : Strand) : (s.complete n st).nextAge = s.nextAge := rfl
@[simp] theorem State.complete_boot (s : State) (n : Word) (st : Strand) : (s.complete n st).boot = s.boot := rfl
@[simp] theorem State.complete_pkgid (s : State) (n : Word) (st : Strand) : (s.complete n st).pkgid = s.pkgid := rfl
@[simp] theorem State.complete_clavail (s : State) (n : Word) (st : Strand) : (s.complete n st).clavail = s.clavail := rfl
@[simp] theorem State.complete_partcfg (s : State) (n : Word) (st : Strand) : (s.complete n st).partcfg = s.partcfg := rfl
@[simp] theorem State.complete_sptroot (s : State) (n : Word) (st : Strand) : (s.complete n st).sptroot = s.sptroot := rfl
@[simp] theorem State.complete_supgen (s : State) (n : Word) (st : Strand) : (s.complete n st).supgen = s.supgen := rfl
@[simp] theorem State.complete_l2ctl (s : State) (n : Word) (st : Strand) : (s.complete n st).l2ctl = s.l2ctl := rfl
@[simp] theorem State.complete_nring (s : State) (n : Word) (st : Strand) : (s.complete n st).nring = s.nring := rfl
@[simp] theorem State.complete_nhead (s : State) (n : Word) (st : Strand) : (s.complete n st).nhead = s.nhead := rfl
@[simp] theorem State.complete_ntail (s : State) (n : Word) (st : Strand) : (s.complete n st).ntail = s.ntail := rfl
@[simp] theorem State.complete_notices (s : State) (n : Word) (st : Strand) : (s.complete n st).notices = s.notices := rfl
@[simp] theorem State.complete_frameStates (s : State) (n : Word) (st : Strand) : (s.complete n st).frameStates = s.frameStates := rfl
@[simp] theorem State.complete_fstBase (s : State) (n : Word) (st : Strand) : (s.complete n st).fstBase = s.fstBase := rfl
@[simp] theorem State.complete_locks (s : State) (n : Word) (st : Strand) : (s.complete n st).locks = s.locks := rfl
@[simp] theorem State.complete_faultq (s : State) (n : Word) (st : Strand) : (s.complete n st).faultq = s.faultq := rfl
@[simp] theorem State.complete_home (s : State) (n : Word) (st : Strand) : (s.complete n st).home = s.home := rfl
@[simp] theorem State.complete_held (s : State) (n : Word) (st : Strand) : (s.complete n st).held = s.held := rfl
@[simp] theorem State.complete_mem (s : State) (n : Word) (st : Strand) : (s.complete n st).mem = s.mem := rfl
@[simp] theorem State.complete_hostMem (s : State) (n : Word) (st : Strand) : (s.complete n st).hostMem = s.hostMem := rfl
@[simp] theorem State.complete_place (s : State) (n : Word) (st : Strand) : (s.complete n st).place = s.place := rfl
@[simp] theorem State.complete_jobs (s : State) (n : Word) (st : Strand) : (s.complete n st).jobs = s.jobs := rfl
@[simp] theorem State.complete_slots (s : State) (n : Word) (st : Strand) : (s.complete n st).slots = s.slots := rfl
@[simp] theorem State.complete_cmds (s : State) (n : Word) (st : Strand) : (s.complete n st).cmds = s.cmds := rfl
@[simp] theorem State.complete_trees (s : State) (n : Word) (st : Strand) : (s.complete n st).trees = s.trees := rfl
@[simp] theorem State.complete_migPlanes (s : State) (n : Word) (st : Strand) : (s.complete n st).migPlanes = s.migPlanes := rfl
@[simp] theorem State.complete_granary (s : State) (n : Word) (st : Strand) : (s.complete n st).granary = s.granary := rfl
@[simp] theorem State.complete_fabric (s : State) (n : Word) (st : Strand) : (s.complete n st).fabric = s.fabric := rfl
@[simp] theorem State.complete_conns (s : State) (n : Word) (st : Strand) : (s.complete n st).conns = s.conns := rfl
@[simp] theorem State.complete_host (s : State) (n : Word) (st : Strand) : (s.complete n st).host = s.host := rfl
@[simp] theorem State.complete_services (s : State) (n : Word) (st : Strand) : (s.complete n st).services = s.services := rfl
@[simp] theorem State.complete_pubs (s : State) (n : Word) (st : Strand) : (s.complete n st).pubs = s.pubs := rfl
@[simp] theorem State.complete_incoming (s : State) (n : Word) (st : Strand) : (s.complete n st).incoming = s.incoming := rfl
@[simp] theorem State.complete_corrected (s : State) (n : Word) (st : Strand) : (s.complete n st).corrected = s.corrected := rfl
@[simp] theorem State.complete_dropped (s : State) (n : Word) (st : Strand) : (s.complete n st).dropped = s.dropped := rfl

/-! ### retire -/

@[simp] theorem State.retire_cur (s : State) (st : Strand) : (s.retire st).cur = s.cur := rfl
@[simp] theorem State.retire_trapped (s : State) (st : Strand) : (s.retire st).trapped = s.trapped := rfl
@[simp] theorem State.retire_agenda (s : State) (st : Strand) : (s.retire st).agenda = s.agenda := rfl
@[simp] theorem State.retire_pcp (s : State) (st : Strand) : (s.retire st).pcp = s.pcp := rfl
@[simp] theorem State.retire_inputs (s : State) (st : Strand) : (s.retire st).inputs = s.inputs := rfl
@[simp] theorem State.retire_net (s : State) (st : Strand) : (s.retire st).net = s.net := rfl
@[simp] theorem State.retire_out (s : State) (st : Strand) : (s.retire st).out = s.out := rfl
@[simp] theorem State.retire_free (s : State) (st : Strand) : (s.retire st).free = s.free := rfl
@[simp] theorem State.retire_nextId (s : State) (st : Strand) : (s.retire st).nextId = s.nextId := rfl
@[simp] theorem State.retire_nextAge (s : State) (st : Strand) : (s.retire st).nextAge = s.nextAge := rfl
@[simp] theorem State.retire_boot (s : State) (st : Strand) : (s.retire st).boot = s.boot := rfl
@[simp] theorem State.retire_pkgid (s : State) (st : Strand) : (s.retire st).pkgid = s.pkgid := rfl
@[simp] theorem State.retire_clavail (s : State) (st : Strand) : (s.retire st).clavail = s.clavail := rfl
@[simp] theorem State.retire_partcfg (s : State) (st : Strand) : (s.retire st).partcfg = s.partcfg := rfl
@[simp] theorem State.retire_sptroot (s : State) (st : Strand) : (s.retire st).sptroot = s.sptroot := rfl
@[simp] theorem State.retire_supgen (s : State) (st : Strand) : (s.retire st).supgen = s.supgen := rfl
@[simp] theorem State.retire_l2ctl (s : State) (st : Strand) : (s.retire st).l2ctl = s.l2ctl := rfl
@[simp] theorem State.retire_nring (s : State) (st : Strand) : (s.retire st).nring = s.nring := rfl
@[simp] theorem State.retire_nhead (s : State) (st : Strand) : (s.retire st).nhead = s.nhead := rfl
@[simp] theorem State.retire_ntail (s : State) (st : Strand) : (s.retire st).ntail = s.ntail := rfl
@[simp] theorem State.retire_notices (s : State) (st : Strand) : (s.retire st).notices = s.notices := rfl
@[simp] theorem State.retire_frameStates (s : State) (st : Strand) : (s.retire st).frameStates = s.frameStates := rfl
@[simp] theorem State.retire_fstBase (s : State) (st : Strand) : (s.retire st).fstBase = s.fstBase := rfl
@[simp] theorem State.retire_locks (s : State) (st : Strand) : (s.retire st).locks = s.locks := rfl
@[simp] theorem State.retire_faultq (s : State) (st : Strand) : (s.retire st).faultq = s.faultq := rfl
@[simp] theorem State.retire_home (s : State) (st : Strand) : (s.retire st).home = s.home := rfl
@[simp] theorem State.retire_held (s : State) (st : Strand) : (s.retire st).held = s.held := rfl
@[simp] theorem State.retire_mem (s : State) (st : Strand) : (s.retire st).mem = s.mem := rfl
@[simp] theorem State.retire_hostMem (s : State) (st : Strand) : (s.retire st).hostMem = s.hostMem := rfl
@[simp] theorem State.retire_place (s : State) (st : Strand) : (s.retire st).place = s.place := rfl
@[simp] theorem State.retire_jobs (s : State) (st : Strand) : (s.retire st).jobs = s.jobs := rfl
@[simp] theorem State.retire_slots (s : State) (st : Strand) : (s.retire st).slots = s.slots := rfl
@[simp] theorem State.retire_cmds (s : State) (st : Strand) : (s.retire st).cmds = s.cmds := rfl
@[simp] theorem State.retire_trees (s : State) (st : Strand) : (s.retire st).trees = s.trees := rfl
@[simp] theorem State.retire_migPlanes (s : State) (st : Strand) : (s.retire st).migPlanes = s.migPlanes := rfl
@[simp] theorem State.retire_granary (s : State) (st : Strand) : (s.retire st).granary = s.granary := rfl
@[simp] theorem State.retire_fabric (s : State) (st : Strand) : (s.retire st).fabric = s.fabric := rfl
@[simp] theorem State.retire_conns (s : State) (st : Strand) : (s.retire st).conns = s.conns := rfl
@[simp] theorem State.retire_host (s : State) (st : Strand) : (s.retire st).host = s.host := rfl
@[simp] theorem State.retire_services (s : State) (st : Strand) : (s.retire st).services = s.services := rfl
@[simp] theorem State.retire_pubs (s : State) (st : Strand) : (s.retire st).pubs = s.pubs := rfl
@[simp] theorem State.retire_incoming (s : State) (st : Strand) : (s.retire st).incoming = s.incoming := rfl
@[simp] theorem State.retire_corrected (s : State) (st : Strand) : (s.retire st).corrected = s.corrected := rfl
@[simp] theorem State.retire_dropped (s : State) (st : Strand) : (s.retire st).dropped = s.dropped := rfl

/-! ### transfer -/

@[simp] theorem State.transfer_cur (s : State) (st : Strand) (t : Word) : (s.transfer st t).cur = s.cur := rfl
@[simp] theorem State.transfer_trapped (s : State) (st : Strand) (t : Word) : (s.transfer st t).trapped = s.trapped := rfl
@[simp] theorem State.transfer_agenda (s : State) (st : Strand) (t : Word) : (s.transfer st t).agenda = s.agenda := rfl
@[simp] theorem State.transfer_pcp (s : State) (st : Strand) (t : Word) : (s.transfer st t).pcp = s.pcp := rfl
@[simp] theorem State.transfer_inputs (s : State) (st : Strand) (t : Word) : (s.transfer st t).inputs = s.inputs := rfl
@[simp] theorem State.transfer_net (s : State) (st : Strand) (t : Word) : (s.transfer st t).net = s.net := rfl
@[simp] theorem State.transfer_out (s : State) (st : Strand) (t : Word) : (s.transfer st t).out = s.out := rfl
@[simp] theorem State.transfer_free (s : State) (st : Strand) (t : Word) : (s.transfer st t).free = s.free := rfl
@[simp] theorem State.transfer_nextId (s : State) (st : Strand) (t : Word) : (s.transfer st t).nextId = s.nextId := rfl
@[simp] theorem State.transfer_nextAge (s : State) (st : Strand) (t : Word) : (s.transfer st t).nextAge = s.nextAge := rfl
@[simp] theorem State.transfer_boot (s : State) (st : Strand) (t : Word) : (s.transfer st t).boot = s.boot := rfl
@[simp] theorem State.transfer_pkgid (s : State) (st : Strand) (t : Word) : (s.transfer st t).pkgid = s.pkgid := rfl
@[simp] theorem State.transfer_clavail (s : State) (st : Strand) (t : Word) : (s.transfer st t).clavail = s.clavail := rfl
@[simp] theorem State.transfer_partcfg (s : State) (st : Strand) (t : Word) : (s.transfer st t).partcfg = s.partcfg := rfl
@[simp] theorem State.transfer_sptroot (s : State) (st : Strand) (t : Word) : (s.transfer st t).sptroot = s.sptroot := rfl
@[simp] theorem State.transfer_supgen (s : State) (st : Strand) (t : Word) : (s.transfer st t).supgen = s.supgen := rfl
@[simp] theorem State.transfer_l2ctl (s : State) (st : Strand) (t : Word) : (s.transfer st t).l2ctl = s.l2ctl := rfl
@[simp] theorem State.transfer_nring (s : State) (st : Strand) (t : Word) : (s.transfer st t).nring = s.nring := rfl
@[simp] theorem State.transfer_nhead (s : State) (st : Strand) (t : Word) : (s.transfer st t).nhead = s.nhead := rfl
@[simp] theorem State.transfer_ntail (s : State) (st : Strand) (t : Word) : (s.transfer st t).ntail = s.ntail := rfl
@[simp] theorem State.transfer_notices (s : State) (st : Strand) (t : Word) : (s.transfer st t).notices = s.notices := rfl
@[simp] theorem State.transfer_frameStates (s : State) (st : Strand) (t : Word) : (s.transfer st t).frameStates = s.frameStates := rfl
@[simp] theorem State.transfer_fstBase (s : State) (st : Strand) (t : Word) : (s.transfer st t).fstBase = s.fstBase := rfl
@[simp] theorem State.transfer_locks (s : State) (st : Strand) (t : Word) : (s.transfer st t).locks = s.locks := rfl
@[simp] theorem State.transfer_faultq (s : State) (st : Strand) (t : Word) : (s.transfer st t).faultq = s.faultq := rfl
@[simp] theorem State.transfer_home (s : State) (st : Strand) (t : Word) : (s.transfer st t).home = s.home := rfl
@[simp] theorem State.transfer_held (s : State) (st : Strand) (t : Word) : (s.transfer st t).held = s.held := rfl
@[simp] theorem State.transfer_mem (s : State) (st : Strand) (t : Word) : (s.transfer st t).mem = s.mem := rfl
@[simp] theorem State.transfer_hostMem (s : State) (st : Strand) (t : Word) : (s.transfer st t).hostMem = s.hostMem := rfl
@[simp] theorem State.transfer_place (s : State) (st : Strand) (t : Word) : (s.transfer st t).place = s.place := rfl
@[simp] theorem State.transfer_jobs (s : State) (st : Strand) (t : Word) : (s.transfer st t).jobs = s.jobs := rfl
@[simp] theorem State.transfer_slots (s : State) (st : Strand) (t : Word) : (s.transfer st t).slots = s.slots := rfl
@[simp] theorem State.transfer_cmds (s : State) (st : Strand) (t : Word) : (s.transfer st t).cmds = s.cmds := rfl
@[simp] theorem State.transfer_trees (s : State) (st : Strand) (t : Word) : (s.transfer st t).trees = s.trees := rfl
@[simp] theorem State.transfer_migPlanes (s : State) (st : Strand) (t : Word) : (s.transfer st t).migPlanes = s.migPlanes := rfl
@[simp] theorem State.transfer_granary (s : State) (st : Strand) (t : Word) : (s.transfer st t).granary = s.granary := rfl
@[simp] theorem State.transfer_fabric (s : State) (st : Strand) (t : Word) : (s.transfer st t).fabric = s.fabric := rfl
@[simp] theorem State.transfer_conns (s : State) (st : Strand) (t : Word) : (s.transfer st t).conns = s.conns := rfl
@[simp] theorem State.transfer_host (s : State) (st : Strand) (t : Word) : (s.transfer st t).host = s.host := rfl
@[simp] theorem State.transfer_services (s : State) (st : Strand) (t : Word) : (s.transfer st t).services = s.services := rfl
@[simp] theorem State.transfer_pubs (s : State) (st : Strand) (t : Word) : (s.transfer st t).pubs = s.pubs := rfl
@[simp] theorem State.transfer_incoming (s : State) (st : Strand) (t : Word) : (s.transfer st t).incoming = s.incoming := rfl
@[simp] theorem State.transfer_corrected (s : State) (st : Strand) (t : Word) : (s.transfer st t).corrected = s.corrected := rfl
@[simp] theorem State.transfer_dropped (s : State) (st : Strand) (t : Word) : (s.transfer st t).dropped = s.dropped := rfl

/-! ### hold -/

@[simp] theorem State.hold_cur (s : State) (w : Wait) : (s.hold w).cur = s.cur := rfl
@[simp] theorem State.hold_trapped (s : State) (w : Wait) : (s.hold w).trapped = s.trapped := rfl
@[simp] theorem State.hold_agenda (s : State) (w : Wait) : (s.hold w).agenda = s.agenda := rfl
@[simp] theorem State.hold_pcp (s : State) (w : Wait) : (s.hold w).pcp = s.pcp := rfl
@[simp] theorem State.hold_inputs (s : State) (w : Wait) : (s.hold w).inputs = s.inputs := rfl
@[simp] theorem State.hold_net (s : State) (w : Wait) : (s.hold w).net = s.net := rfl
@[simp] theorem State.hold_out (s : State) (w : Wait) : (s.hold w).out = s.out := rfl
@[simp] theorem State.hold_free (s : State) (w : Wait) : (s.hold w).free = s.free := rfl
@[simp] theorem State.hold_nextId (s : State) (w : Wait) : (s.hold w).nextId = s.nextId := rfl
@[simp] theorem State.hold_nextAge (s : State) (w : Wait) : (s.hold w).nextAge = s.nextAge := rfl
@[simp] theorem State.hold_boot (s : State) (w : Wait) : (s.hold w).boot = s.boot := rfl
@[simp] theorem State.hold_pkgid (s : State) (w : Wait) : (s.hold w).pkgid = s.pkgid := rfl
@[simp] theorem State.hold_clavail (s : State) (w : Wait) : (s.hold w).clavail = s.clavail := rfl
@[simp] theorem State.hold_partcfg (s : State) (w : Wait) : (s.hold w).partcfg = s.partcfg := rfl
@[simp] theorem State.hold_sptroot (s : State) (w : Wait) : (s.hold w).sptroot = s.sptroot := rfl
@[simp] theorem State.hold_supgen (s : State) (w : Wait) : (s.hold w).supgen = s.supgen := rfl
@[simp] theorem State.hold_l2ctl (s : State) (w : Wait) : (s.hold w).l2ctl = s.l2ctl := rfl
@[simp] theorem State.hold_nring (s : State) (w : Wait) : (s.hold w).nring = s.nring := rfl
@[simp] theorem State.hold_nhead (s : State) (w : Wait) : (s.hold w).nhead = s.nhead := rfl
@[simp] theorem State.hold_ntail (s : State) (w : Wait) : (s.hold w).ntail = s.ntail := rfl
@[simp] theorem State.hold_notices (s : State) (w : Wait) : (s.hold w).notices = s.notices := rfl
@[simp] theorem State.hold_frameStates (s : State) (w : Wait) : (s.hold w).frameStates = s.frameStates := rfl
@[simp] theorem State.hold_fstBase (s : State) (w : Wait) : (s.hold w).fstBase = s.fstBase := rfl
@[simp] theorem State.hold_locks (s : State) (w : Wait) : (s.hold w).locks = s.locks := rfl
@[simp] theorem State.hold_faultq (s : State) (w : Wait) : (s.hold w).faultq = s.faultq := rfl
@[simp] theorem State.hold_home (s : State) (w : Wait) : (s.hold w).home = s.home := rfl
@[simp] theorem State.hold_held (s : State) (w : Wait) : (s.hold w).held = s.held := rfl
@[simp] theorem State.hold_mem (s : State) (w : Wait) : (s.hold w).mem = s.mem := rfl
@[simp] theorem State.hold_hostMem (s : State) (w : Wait) : (s.hold w).hostMem = s.hostMem := rfl
@[simp] theorem State.hold_place (s : State) (w : Wait) : (s.hold w).place = s.place := rfl
@[simp] theorem State.hold_jobs (s : State) (w : Wait) : (s.hold w).jobs = s.jobs := rfl
@[simp] theorem State.hold_slots (s : State) (w : Wait) : (s.hold w).slots = s.slots := rfl
@[simp] theorem State.hold_cmds (s : State) (w : Wait) : (s.hold w).cmds = s.cmds := rfl
@[simp] theorem State.hold_trees (s : State) (w : Wait) : (s.hold w).trees = s.trees := rfl
@[simp] theorem State.hold_migPlanes (s : State) (w : Wait) : (s.hold w).migPlanes = s.migPlanes := rfl
@[simp] theorem State.hold_granary (s : State) (w : Wait) : (s.hold w).granary = s.granary := rfl
@[simp] theorem State.hold_fabric (s : State) (w : Wait) : (s.hold w).fabric = s.fabric := rfl
@[simp] theorem State.hold_conns (s : State) (w : Wait) : (s.hold w).conns = s.conns := rfl
@[simp] theorem State.hold_host (s : State) (w : Wait) : (s.hold w).host = s.host := rfl
@[simp] theorem State.hold_services (s : State) (w : Wait) : (s.hold w).services = s.services := rfl
@[simp] theorem State.hold_pubs (s : State) (w : Wait) : (s.hold w).pubs = s.pubs := rfl
@[simp] theorem State.hold_incoming (s : State) (w : Wait) : (s.hold w).incoming = s.incoming := rfl
@[simp] theorem State.hold_corrected (s : State) (w : Wait) : (s.hold w).corrected = s.corrected := rfl
@[simp] theorem State.hold_dropped (s : State) (w : Wait) : (s.hold w).dropped = s.dropped := rfl

/-! ### holdFor -/

@[simp] theorem State.holdFor_cur (s : State) (w : Wait) (n : Nat) : (s.holdFor w n).cur = s.cur := rfl
@[simp] theorem State.holdFor_trapped (s : State) (w : Wait) (n : Nat) : (s.holdFor w n).trapped = s.trapped := rfl
@[simp] theorem State.holdFor_agenda (s : State) (w : Wait) (n : Nat) : (s.holdFor w n).agenda = s.agenda := rfl
@[simp] theorem State.holdFor_pcp (s : State) (w : Wait) (n : Nat) : (s.holdFor w n).pcp = s.pcp := rfl
@[simp] theorem State.holdFor_inputs (s : State) (w : Wait) (n : Nat) : (s.holdFor w n).inputs = s.inputs := rfl
@[simp] theorem State.holdFor_net (s : State) (w : Wait) (n : Nat) : (s.holdFor w n).net = s.net := rfl
@[simp] theorem State.holdFor_out (s : State) (w : Wait) (n : Nat) : (s.holdFor w n).out = s.out := rfl
@[simp] theorem State.holdFor_free (s : State) (w : Wait) (n : Nat) : (s.holdFor w n).free = s.free := rfl
@[simp] theorem State.holdFor_nextId (s : State) (w : Wait) (n : Nat) : (s.holdFor w n).nextId = s.nextId := rfl
@[simp] theorem State.holdFor_nextAge (s : State) (w : Wait) (n : Nat) : (s.holdFor w n).nextAge = s.nextAge := rfl
@[simp] theorem State.holdFor_boot (s : State) (w : Wait) (n : Nat) : (s.holdFor w n).boot = s.boot := rfl
@[simp] theorem State.holdFor_pkgid (s : State) (w : Wait) (n : Nat) : (s.holdFor w n).pkgid = s.pkgid := rfl
@[simp] theorem State.holdFor_clavail (s : State) (w : Wait) (n : Nat) : (s.holdFor w n).clavail = s.clavail := rfl
@[simp] theorem State.holdFor_partcfg (s : State) (w : Wait) (n : Nat) : (s.holdFor w n).partcfg = s.partcfg := rfl
@[simp] theorem State.holdFor_sptroot (s : State) (w : Wait) (n : Nat) : (s.holdFor w n).sptroot = s.sptroot := rfl
@[simp] theorem State.holdFor_supgen (s : State) (w : Wait) (n : Nat) : (s.holdFor w n).supgen = s.supgen := rfl
@[simp] theorem State.holdFor_l2ctl (s : State) (w : Wait) (n : Nat) : (s.holdFor w n).l2ctl = s.l2ctl := rfl
@[simp] theorem State.holdFor_nring (s : State) (w : Wait) (n : Nat) : (s.holdFor w n).nring = s.nring := rfl
@[simp] theorem State.holdFor_nhead (s : State) (w : Wait) (n : Nat) : (s.holdFor w n).nhead = s.nhead := rfl
@[simp] theorem State.holdFor_ntail (s : State) (w : Wait) (n : Nat) : (s.holdFor w n).ntail = s.ntail := rfl
@[simp] theorem State.holdFor_notices (s : State) (w : Wait) (n : Nat) : (s.holdFor w n).notices = s.notices := rfl
@[simp] theorem State.holdFor_frameStates (s : State) (w : Wait) (n : Nat) : (s.holdFor w n).frameStates = s.frameStates := rfl
@[simp] theorem State.holdFor_fstBase (s : State) (w : Wait) (n : Nat) : (s.holdFor w n).fstBase = s.fstBase := rfl
@[simp] theorem State.holdFor_locks (s : State) (w : Wait) (n : Nat) : (s.holdFor w n).locks = s.locks := rfl
@[simp] theorem State.holdFor_faultq (s : State) (w : Wait) (n : Nat) : (s.holdFor w n).faultq = s.faultq := rfl
@[simp] theorem State.holdFor_home (s : State) (w : Wait) (n : Nat) : (s.holdFor w n).home = s.home := rfl
@[simp] theorem State.holdFor_held (s : State) (w : Wait) (n : Nat) : (s.holdFor w n).held = s.held := rfl
@[simp] theorem State.holdFor_mem (s : State) (w : Wait) (n : Nat) : (s.holdFor w n).mem = s.mem := rfl
@[simp] theorem State.holdFor_hostMem (s : State) (w : Wait) (n : Nat) : (s.holdFor w n).hostMem = s.hostMem := rfl
@[simp] theorem State.holdFor_place (s : State) (w : Wait) (n : Nat) : (s.holdFor w n).place = s.place := rfl
@[simp] theorem State.holdFor_jobs (s : State) (w : Wait) (n : Nat) : (s.holdFor w n).jobs = s.jobs := rfl
@[simp] theorem State.holdFor_slots (s : State) (w : Wait) (n : Nat) : (s.holdFor w n).slots = s.slots := rfl
@[simp] theorem State.holdFor_cmds (s : State) (w : Wait) (n : Nat) : (s.holdFor w n).cmds = s.cmds := rfl
@[simp] theorem State.holdFor_trees (s : State) (w : Wait) (n : Nat) : (s.holdFor w n).trees = s.trees := rfl
@[simp] theorem State.holdFor_migPlanes (s : State) (w : Wait) (n : Nat) : (s.holdFor w n).migPlanes = s.migPlanes := rfl
@[simp] theorem State.holdFor_granary (s : State) (w : Wait) (n : Nat) : (s.holdFor w n).granary = s.granary := rfl
@[simp] theorem State.holdFor_fabric (s : State) (w : Wait) (n : Nat) : (s.holdFor w n).fabric = s.fabric := rfl
@[simp] theorem State.holdFor_conns (s : State) (w : Wait) (n : Nat) : (s.holdFor w n).conns = s.conns := rfl
@[simp] theorem State.holdFor_host (s : State) (w : Wait) (n : Nat) : (s.holdFor w n).host = s.host := rfl
@[simp] theorem State.holdFor_services (s : State) (w : Wait) (n : Nat) : (s.holdFor w n).services = s.services := rfl
@[simp] theorem State.holdFor_pubs (s : State) (w : Wait) (n : Nat) : (s.holdFor w n).pubs = s.pubs := rfl
@[simp] theorem State.holdFor_incoming (s : State) (w : Wait) (n : Nat) : (s.holdFor w n).incoming = s.incoming := rfl
@[simp] theorem State.holdFor_corrected (s : State) (w : Wait) (n : Nat) : (s.holdFor w n).corrected = s.corrected := rfl
@[simp] theorem State.holdFor_dropped (s : State) (w : Wait) (n : Nat) : (s.holdFor w n).dropped = s.dropped := rfl

/-! ### bufferStore -/

@[simp] theorem State.bufferStore_cur (s : State) (vr : Nat) (b : BStore) : (s.bufferStore vr b).cur = s.cur := rfl
@[simp] theorem State.bufferStore_trapped (s : State) (vr : Nat) (b : BStore) : (s.bufferStore vr b).trapped = s.trapped := rfl
@[simp] theorem State.bufferStore_agenda (s : State) (vr : Nat) (b : BStore) : (s.bufferStore vr b).agenda = s.agenda := rfl
@[simp] theorem State.bufferStore_pcp (s : State) (vr : Nat) (b : BStore) : (s.bufferStore vr b).pcp = s.pcp := rfl
@[simp] theorem State.bufferStore_inputs (s : State) (vr : Nat) (b : BStore) : (s.bufferStore vr b).inputs = s.inputs := rfl
@[simp] theorem State.bufferStore_net (s : State) (vr : Nat) (b : BStore) : (s.bufferStore vr b).net = s.net := rfl
@[simp] theorem State.bufferStore_out (s : State) (vr : Nat) (b : BStore) : (s.bufferStore vr b).out = s.out := rfl
@[simp] theorem State.bufferStore_free (s : State) (vr : Nat) (b : BStore) : (s.bufferStore vr b).free = s.free := rfl
@[simp] theorem State.bufferStore_nextAge (s : State) (vr : Nat) (b : BStore) : (s.bufferStore vr b).nextAge = s.nextAge := rfl
@[simp] theorem State.bufferStore_boot (s : State) (vr : Nat) (b : BStore) : (s.bufferStore vr b).boot = s.boot := rfl
@[simp] theorem State.bufferStore_pkgid (s : State) (vr : Nat) (b : BStore) : (s.bufferStore vr b).pkgid = s.pkgid := rfl
@[simp] theorem State.bufferStore_clavail (s : State) (vr : Nat) (b : BStore) : (s.bufferStore vr b).clavail = s.clavail := rfl
@[simp] theorem State.bufferStore_partcfg (s : State) (vr : Nat) (b : BStore) : (s.bufferStore vr b).partcfg = s.partcfg := rfl
@[simp] theorem State.bufferStore_sptroot (s : State) (vr : Nat) (b : BStore) : (s.bufferStore vr b).sptroot = s.sptroot := rfl
@[simp] theorem State.bufferStore_supgen (s : State) (vr : Nat) (b : BStore) : (s.bufferStore vr b).supgen = s.supgen := rfl
@[simp] theorem State.bufferStore_l2ctl (s : State) (vr : Nat) (b : BStore) : (s.bufferStore vr b).l2ctl = s.l2ctl := rfl
@[simp] theorem State.bufferStore_nring (s : State) (vr : Nat) (b : BStore) : (s.bufferStore vr b).nring = s.nring := rfl
@[simp] theorem State.bufferStore_nhead (s : State) (vr : Nat) (b : BStore) : (s.bufferStore vr b).nhead = s.nhead := rfl
@[simp] theorem State.bufferStore_ntail (s : State) (vr : Nat) (b : BStore) : (s.bufferStore vr b).ntail = s.ntail := rfl
@[simp] theorem State.bufferStore_notices (s : State) (vr : Nat) (b : BStore) : (s.bufferStore vr b).notices = s.notices := rfl
@[simp] theorem State.bufferStore_frameStates (s : State) (vr : Nat) (b : BStore) : (s.bufferStore vr b).frameStates = s.frameStates := rfl
@[simp] theorem State.bufferStore_fstBase (s : State) (vr : Nat) (b : BStore) : (s.bufferStore vr b).fstBase = s.fstBase := rfl
@[simp] theorem State.bufferStore_locks (s : State) (vr : Nat) (b : BStore) : (s.bufferStore vr b).locks = s.locks := rfl
@[simp] theorem State.bufferStore_faultq (s : State) (vr : Nat) (b : BStore) : (s.bufferStore vr b).faultq = s.faultq := rfl
@[simp] theorem State.bufferStore_home (s : State) (vr : Nat) (b : BStore) : (s.bufferStore vr b).home = s.home := rfl
@[simp] theorem State.bufferStore_held (s : State) (vr : Nat) (b : BStore) : (s.bufferStore vr b).held = s.held := rfl
@[simp] theorem State.bufferStore_mem (s : State) (vr : Nat) (b : BStore) : (s.bufferStore vr b).mem = s.mem := rfl
@[simp] theorem State.bufferStore_hostMem (s : State) (vr : Nat) (b : BStore) : (s.bufferStore vr b).hostMem = s.hostMem := rfl
@[simp] theorem State.bufferStore_place (s : State) (vr : Nat) (b : BStore) : (s.bufferStore vr b).place = s.place := rfl
@[simp] theorem State.bufferStore_jobs (s : State) (vr : Nat) (b : BStore) : (s.bufferStore vr b).jobs = s.jobs := rfl
@[simp] theorem State.bufferStore_slots (s : State) (vr : Nat) (b : BStore) : (s.bufferStore vr b).slots = s.slots := rfl
@[simp] theorem State.bufferStore_cmds (s : State) (vr : Nat) (b : BStore) : (s.bufferStore vr b).cmds = s.cmds := rfl
@[simp] theorem State.bufferStore_trees (s : State) (vr : Nat) (b : BStore) : (s.bufferStore vr b).trees = s.trees := rfl
@[simp] theorem State.bufferStore_migPlanes (s : State) (vr : Nat) (b : BStore) : (s.bufferStore vr b).migPlanes = s.migPlanes := rfl
@[simp] theorem State.bufferStore_granary (s : State) (vr : Nat) (b : BStore) : (s.bufferStore vr b).granary = s.granary := rfl
@[simp] theorem State.bufferStore_fabric (s : State) (vr : Nat) (b : BStore) : (s.bufferStore vr b).fabric = s.fabric := rfl
@[simp] theorem State.bufferStore_conns (s : State) (vr : Nat) (b : BStore) : (s.bufferStore vr b).conns = s.conns := rfl
@[simp] theorem State.bufferStore_host (s : State) (vr : Nat) (b : BStore) : (s.bufferStore vr b).host = s.host := rfl
@[simp] theorem State.bufferStore_services (s : State) (vr : Nat) (b : BStore) : (s.bufferStore vr b).services = s.services := rfl
@[simp] theorem State.bufferStore_pubs (s : State) (vr : Nat) (b : BStore) : (s.bufferStore vr b).pubs = s.pubs := rfl
@[simp] theorem State.bufferStore_incoming (s : State) (vr : Nat) (b : BStore) : (s.bufferStore vr b).incoming = s.incoming := rfl
@[simp] theorem State.bufferStore_corrected (s : State) (vr : Nat) (b : BStore) : (s.bufferStore vr b).corrected = s.corrected := rfl
@[simp] theorem State.bufferStore_dropped (s : State) (vr : Nat) (b : BStore) : (s.bufferStore vr b).dropped = s.dropped := rfl

/-! ### padPut -/

@[simp] theorem State.padPut_cur (s : State) (k c o : Nat) (bs : List Byte) : (s.padPut k c o bs).cur = s.cur := rfl
@[simp] theorem State.padPut_trapped (s : State) (k c o : Nat) (bs : List Byte) : (s.padPut k c o bs).trapped = s.trapped := rfl
@[simp] theorem State.padPut_agenda (s : State) (k c o : Nat) (bs : List Byte) : (s.padPut k c o bs).agenda = s.agenda := rfl
@[simp] theorem State.padPut_pcp (s : State) (k c o : Nat) (bs : List Byte) : (s.padPut k c o bs).pcp = s.pcp := rfl
@[simp] theorem State.padPut_inputs (s : State) (k c o : Nat) (bs : List Byte) : (s.padPut k c o bs).inputs = s.inputs := rfl
@[simp] theorem State.padPut_net (s : State) (k c o : Nat) (bs : List Byte) : (s.padPut k c o bs).net = s.net := rfl
@[simp] theorem State.padPut_out (s : State) (k c o : Nat) (bs : List Byte) : (s.padPut k c o bs).out = s.out := rfl
@[simp] theorem State.padPut_free (s : State) (k c o : Nat) (bs : List Byte) : (s.padPut k c o bs).free = s.free := rfl
@[simp] theorem State.padPut_nextId (s : State) (k c o : Nat) (bs : List Byte) : (s.padPut k c o bs).nextId = s.nextId := rfl
@[simp] theorem State.padPut_nextAge (s : State) (k c o : Nat) (bs : List Byte) : (s.padPut k c o bs).nextAge = s.nextAge := rfl
@[simp] theorem State.padPut_boot (s : State) (k c o : Nat) (bs : List Byte) : (s.padPut k c o bs).boot = s.boot := rfl
@[simp] theorem State.padPut_pkgid (s : State) (k c o : Nat) (bs : List Byte) : (s.padPut k c o bs).pkgid = s.pkgid := rfl
@[simp] theorem State.padPut_clavail (s : State) (k c o : Nat) (bs : List Byte) : (s.padPut k c o bs).clavail = s.clavail := rfl
@[simp] theorem State.padPut_partcfg (s : State) (k c o : Nat) (bs : List Byte) : (s.padPut k c o bs).partcfg = s.partcfg := rfl
@[simp] theorem State.padPut_sptroot (s : State) (k c o : Nat) (bs : List Byte) : (s.padPut k c o bs).sptroot = s.sptroot := rfl
@[simp] theorem State.padPut_supgen (s : State) (k c o : Nat) (bs : List Byte) : (s.padPut k c o bs).supgen = s.supgen := rfl
@[simp] theorem State.padPut_l2ctl (s : State) (k c o : Nat) (bs : List Byte) : (s.padPut k c o bs).l2ctl = s.l2ctl := rfl
@[simp] theorem State.padPut_nring (s : State) (k c o : Nat) (bs : List Byte) : (s.padPut k c o bs).nring = s.nring := rfl
@[simp] theorem State.padPut_nhead (s : State) (k c o : Nat) (bs : List Byte) : (s.padPut k c o bs).nhead = s.nhead := rfl
@[simp] theorem State.padPut_ntail (s : State) (k c o : Nat) (bs : List Byte) : (s.padPut k c o bs).ntail = s.ntail := rfl
@[simp] theorem State.padPut_notices (s : State) (k c o : Nat) (bs : List Byte) : (s.padPut k c o bs).notices = s.notices := rfl
@[simp] theorem State.padPut_frameStates (s : State) (k c o : Nat) (bs : List Byte) : (s.padPut k c o bs).frameStates = s.frameStates := rfl
@[simp] theorem State.padPut_fstBase (s : State) (k c o : Nat) (bs : List Byte) : (s.padPut k c o bs).fstBase = s.fstBase := rfl
@[simp] theorem State.padPut_locks (s : State) (k c o : Nat) (bs : List Byte) : (s.padPut k c o bs).locks = s.locks := rfl
@[simp] theorem State.padPut_faultq (s : State) (k c o : Nat) (bs : List Byte) : (s.padPut k c o bs).faultq = s.faultq := rfl
@[simp] theorem State.padPut_home (s : State) (k c o : Nat) (bs : List Byte) : (s.padPut k c o bs).home = s.home := rfl
@[simp] theorem State.padPut_held (s : State) (k c o : Nat) (bs : List Byte) : (s.padPut k c o bs).held = s.held := rfl
@[simp] theorem State.padPut_mem (s : State) (k c o : Nat) (bs : List Byte) : (s.padPut k c o bs).mem = s.mem := rfl
@[simp] theorem State.padPut_hostMem (s : State) (k c o : Nat) (bs : List Byte) : (s.padPut k c o bs).hostMem = s.hostMem := rfl
@[simp] theorem State.padPut_place (s : State) (k c o : Nat) (bs : List Byte) : (s.padPut k c o bs).place = s.place := rfl
@[simp] theorem State.padPut_jobs (s : State) (k c o : Nat) (bs : List Byte) : (s.padPut k c o bs).jobs = s.jobs := rfl
@[simp] theorem State.padPut_ranks (s : State) (k c o : Nat) (bs : List Byte) : (s.padPut k c o bs).ranks = s.ranks := rfl
@[simp] theorem State.padPut_cmds (s : State) (k c o : Nat) (bs : List Byte) : (s.padPut k c o bs).cmds = s.cmds := rfl
@[simp] theorem State.padPut_trees (s : State) (k c o : Nat) (bs : List Byte) : (s.padPut k c o bs).trees = s.trees := rfl
@[simp] theorem State.padPut_migPlanes (s : State) (k c o : Nat) (bs : List Byte) : (s.padPut k c o bs).migPlanes = s.migPlanes := rfl
@[simp] theorem State.padPut_granary (s : State) (k c o : Nat) (bs : List Byte) : (s.padPut k c o bs).granary = s.granary := rfl
@[simp] theorem State.padPut_fabric (s : State) (k c o : Nat) (bs : List Byte) : (s.padPut k c o bs).fabric = s.fabric := rfl
@[simp] theorem State.padPut_conns (s : State) (k c o : Nat) (bs : List Byte) : (s.padPut k c o bs).conns = s.conns := rfl
@[simp] theorem State.padPut_host (s : State) (k c o : Nat) (bs : List Byte) : (s.padPut k c o bs).host = s.host := rfl
@[simp] theorem State.padPut_services (s : State) (k c o : Nat) (bs : List Byte) : (s.padPut k c o bs).services = s.services := rfl
@[simp] theorem State.padPut_pubs (s : State) (k c o : Nat) (bs : List Byte) : (s.padPut k c o bs).pubs = s.pubs := rfl
@[simp] theorem State.padPut_incoming (s : State) (k c o : Nat) (bs : List Byte) : (s.padPut k c o bs).incoming = s.incoming := rfl
@[simp] theorem State.padPut_corrected (s : State) (k c o : Nat) (bs : List Byte) : (s.padPut k c o bs).corrected = s.corrected := rfl
@[simp] theorem State.padPut_dropped (s : State) (k c o : Nat) (bs : List Byte) : (s.padPut k c o bs).dropped = s.dropped := rfl

/-! ### setPlace -/

@[simp] theorem State.setPlace_cur (s : State) (vr : Nat) (e : Word) : (s.setPlace vr e).cur = s.cur := rfl
@[simp] theorem State.setPlace_trapped (s : State) (vr : Nat) (e : Word) : (s.setPlace vr e).trapped = s.trapped := rfl
@[simp] theorem State.setPlace_agenda (s : State) (vr : Nat) (e : Word) : (s.setPlace vr e).agenda = s.agenda := rfl
@[simp] theorem State.setPlace_pcp (s : State) (vr : Nat) (e : Word) : (s.setPlace vr e).pcp = s.pcp := rfl
@[simp] theorem State.setPlace_inputs (s : State) (vr : Nat) (e : Word) : (s.setPlace vr e).inputs = s.inputs := rfl
@[simp] theorem State.setPlace_net (s : State) (vr : Nat) (e : Word) : (s.setPlace vr e).net = s.net := rfl
@[simp] theorem State.setPlace_out (s : State) (vr : Nat) (e : Word) : (s.setPlace vr e).out = s.out := rfl
@[simp] theorem State.setPlace_free (s : State) (vr : Nat) (e : Word) : (s.setPlace vr e).free = s.free := rfl
@[simp] theorem State.setPlace_nextId (s : State) (vr : Nat) (e : Word) : (s.setPlace vr e).nextId = s.nextId := rfl
@[simp] theorem State.setPlace_nextAge (s : State) (vr : Nat) (e : Word) : (s.setPlace vr e).nextAge = s.nextAge := rfl
@[simp] theorem State.setPlace_boot (s : State) (vr : Nat) (e : Word) : (s.setPlace vr e).boot = s.boot := rfl
@[simp] theorem State.setPlace_pkgid (s : State) (vr : Nat) (e : Word) : (s.setPlace vr e).pkgid = s.pkgid := rfl
@[simp] theorem State.setPlace_clavail (s : State) (vr : Nat) (e : Word) : (s.setPlace vr e).clavail = s.clavail := rfl
@[simp] theorem State.setPlace_partcfg (s : State) (vr : Nat) (e : Word) : (s.setPlace vr e).partcfg = s.partcfg := rfl
@[simp] theorem State.setPlace_sptroot (s : State) (vr : Nat) (e : Word) : (s.setPlace vr e).sptroot = s.sptroot := rfl
@[simp] theorem State.setPlace_supgen (s : State) (vr : Nat) (e : Word) : (s.setPlace vr e).supgen = s.supgen := rfl
@[simp] theorem State.setPlace_l2ctl (s : State) (vr : Nat) (e : Word) : (s.setPlace vr e).l2ctl = s.l2ctl := rfl
@[simp] theorem State.setPlace_nring (s : State) (vr : Nat) (e : Word) : (s.setPlace vr e).nring = s.nring := rfl
@[simp] theorem State.setPlace_nhead (s : State) (vr : Nat) (e : Word) : (s.setPlace vr e).nhead = s.nhead := rfl
@[simp] theorem State.setPlace_ntail (s : State) (vr : Nat) (e : Word) : (s.setPlace vr e).ntail = s.ntail := rfl
@[simp] theorem State.setPlace_notices (s : State) (vr : Nat) (e : Word) : (s.setPlace vr e).notices = s.notices := rfl
@[simp] theorem State.setPlace_frameStates (s : State) (vr : Nat) (e : Word) : (s.setPlace vr e).frameStates = s.frameStates := rfl
@[simp] theorem State.setPlace_fstBase (s : State) (vr : Nat) (e : Word) : (s.setPlace vr e).fstBase = s.fstBase := rfl
@[simp] theorem State.setPlace_locks (s : State) (vr : Nat) (e : Word) : (s.setPlace vr e).locks = s.locks := rfl
@[simp] theorem State.setPlace_faultq (s : State) (vr : Nat) (e : Word) : (s.setPlace vr e).faultq = s.faultq := rfl
@[simp] theorem State.setPlace_home (s : State) (vr : Nat) (e : Word) : (s.setPlace vr e).home = s.home := rfl
@[simp] theorem State.setPlace_held (s : State) (vr : Nat) (e : Word) : (s.setPlace vr e).held = s.held := rfl
@[simp] theorem State.setPlace_mem (s : State) (vr : Nat) (e : Word) : (s.setPlace vr e).mem = s.mem := rfl
@[simp] theorem State.setPlace_hostMem (s : State) (vr : Nat) (e : Word) : (s.setPlace vr e).hostMem = s.hostMem := rfl
@[simp] theorem State.setPlace_jobs (s : State) (vr : Nat) (e : Word) : (s.setPlace vr e).jobs = s.jobs := rfl
@[simp] theorem State.setPlace_ranks (s : State) (vr : Nat) (e : Word) : (s.setPlace vr e).ranks = s.ranks := rfl
@[simp] theorem State.setPlace_slots (s : State) (vr : Nat) (e : Word) : (s.setPlace vr e).slots = s.slots := rfl
@[simp] theorem State.setPlace_cmds (s : State) (vr : Nat) (e : Word) : (s.setPlace vr e).cmds = s.cmds := rfl
@[simp] theorem State.setPlace_trees (s : State) (vr : Nat) (e : Word) : (s.setPlace vr e).trees = s.trees := rfl
@[simp] theorem State.setPlace_migPlanes (s : State) (vr : Nat) (e : Word) : (s.setPlace vr e).migPlanes = s.migPlanes := rfl
@[simp] theorem State.setPlace_granary (s : State) (vr : Nat) (e : Word) : (s.setPlace vr e).granary = s.granary := rfl
@[simp] theorem State.setPlace_fabric (s : State) (vr : Nat) (e : Word) : (s.setPlace vr e).fabric = s.fabric := rfl
@[simp] theorem State.setPlace_conns (s : State) (vr : Nat) (e : Word) : (s.setPlace vr e).conns = s.conns := rfl
@[simp] theorem State.setPlace_host (s : State) (vr : Nat) (e : Word) : (s.setPlace vr e).host = s.host := rfl
@[simp] theorem State.setPlace_services (s : State) (vr : Nat) (e : Word) : (s.setPlace vr e).services = s.services := rfl
@[simp] theorem State.setPlace_pubs (s : State) (vr : Nat) (e : Word) : (s.setPlace vr e).pubs = s.pubs := rfl
@[simp] theorem State.setPlace_incoming (s : State) (vr : Nat) (e : Word) : (s.setPlace vr e).incoming = s.incoming := rfl
@[simp] theorem State.setPlace_corrected (s : State) (vr : Nat) (e : Word) : (s.setPlace vr e).corrected = s.corrected := rfl
@[simp] theorem State.setPlace_dropped (s : State) (vr : Nat) (e : Word) : (s.setPlace vr e).dropped = s.dropped := rfl

/-! ### postRefusal -/

@[simp] theorem State.postRefusal_cur (s : State) (r : SRef) (va : Word) (n : Nat) : (s.postRefusal r va n).cur = s.cur := rfl
@[simp] theorem State.postRefusal_trapped (s : State) (r : SRef) (va : Word) (n : Nat) : (s.postRefusal r va n).trapped = s.trapped := rfl
@[simp] theorem State.postRefusal_agenda (s : State) (r : SRef) (va : Word) (n : Nat) : (s.postRefusal r va n).agenda = s.agenda := rfl
@[simp] theorem State.postRefusal_pcp (s : State) (r : SRef) (va : Word) (n : Nat) : (s.postRefusal r va n).pcp = s.pcp := rfl
@[simp] theorem State.postRefusal_inputs (s : State) (r : SRef) (va : Word) (n : Nat) : (s.postRefusal r va n).inputs = s.inputs := rfl
@[simp] theorem State.postRefusal_net (s : State) (r : SRef) (va : Word) (n : Nat) : (s.postRefusal r va n).net = s.net := rfl
@[simp] theorem State.postRefusal_out (s : State) (r : SRef) (va : Word) (n : Nat) : (s.postRefusal r va n).out = s.out := rfl
@[simp] theorem State.postRefusal_free (s : State) (r : SRef) (va : Word) (n : Nat) : (s.postRefusal r va n).free = s.free := rfl
@[simp] theorem State.postRefusal_nextId (s : State) (r : SRef) (va : Word) (n : Nat) : (s.postRefusal r va n).nextId = s.nextId := rfl
@[simp] theorem State.postRefusal_nextAge (s : State) (r : SRef) (va : Word) (n : Nat) : (s.postRefusal r va n).nextAge = s.nextAge := rfl
@[simp] theorem State.postRefusal_boot (s : State) (r : SRef) (va : Word) (n : Nat) : (s.postRefusal r va n).boot = s.boot := rfl
@[simp] theorem State.postRefusal_pkgid (s : State) (r : SRef) (va : Word) (n : Nat) : (s.postRefusal r va n).pkgid = s.pkgid := rfl
@[simp] theorem State.postRefusal_clavail (s : State) (r : SRef) (va : Word) (n : Nat) : (s.postRefusal r va n).clavail = s.clavail := rfl
@[simp] theorem State.postRefusal_partcfg (s : State) (r : SRef) (va : Word) (n : Nat) : (s.postRefusal r va n).partcfg = s.partcfg := rfl
@[simp] theorem State.postRefusal_sptroot (s : State) (r : SRef) (va : Word) (n : Nat) : (s.postRefusal r va n).sptroot = s.sptroot := rfl
@[simp] theorem State.postRefusal_supgen (s : State) (r : SRef) (va : Word) (n : Nat) : (s.postRefusal r va n).supgen = s.supgen := rfl
@[simp] theorem State.postRefusal_l2ctl (s : State) (r : SRef) (va : Word) (n : Nat) : (s.postRefusal r va n).l2ctl = s.l2ctl := rfl
@[simp] theorem State.postRefusal_nring (s : State) (r : SRef) (va : Word) (n : Nat) : (s.postRefusal r va n).nring = s.nring := rfl
@[simp] theorem State.postRefusal_nhead (s : State) (r : SRef) (va : Word) (n : Nat) : (s.postRefusal r va n).nhead = s.nhead := rfl
@[simp] theorem State.postRefusal_ntail (s : State) (r : SRef) (va : Word) (n : Nat) : (s.postRefusal r va n).ntail = s.ntail := rfl
@[simp] theorem State.postRefusal_notices (s : State) (r : SRef) (va : Word) (n : Nat) : (s.postRefusal r va n).notices = s.notices := rfl
@[simp] theorem State.postRefusal_frameStates (s : State) (r : SRef) (va : Word) (n : Nat) : (s.postRefusal r va n).frameStates = s.frameStates := rfl
@[simp] theorem State.postRefusal_fstBase (s : State) (r : SRef) (va : Word) (n : Nat) : (s.postRefusal r va n).fstBase = s.fstBase := rfl
@[simp] theorem State.postRefusal_locks (s : State) (r : SRef) (va : Word) (n : Nat) : (s.postRefusal r va n).locks = s.locks := rfl
@[simp] theorem State.postRefusal_faultq (s : State) (r : SRef) (va : Word) (n : Nat) : (s.postRefusal r va n).faultq = s.faultq := rfl
@[simp] theorem State.postRefusal_home (s : State) (r : SRef) (va : Word) (n : Nat) : (s.postRefusal r va n).home = s.home := rfl
@[simp] theorem State.postRefusal_held (s : State) (r : SRef) (va : Word) (n : Nat) : (s.postRefusal r va n).held = s.held := rfl
@[simp] theorem State.postRefusal_mem (s : State) (r : SRef) (va : Word) (n : Nat) : (s.postRefusal r va n).mem = s.mem := rfl
@[simp] theorem State.postRefusal_hostMem (s : State) (r : SRef) (va : Word) (n : Nat) : (s.postRefusal r va n).hostMem = s.hostMem := rfl
@[simp] theorem State.postRefusal_place (s : State) (r : SRef) (va : Word) (n : Nat) : (s.postRefusal r va n).place = s.place := rfl
@[simp] theorem State.postRefusal_jobs (s : State) (r : SRef) (va : Word) (n : Nat) : (s.postRefusal r va n).jobs = s.jobs := rfl
@[simp] theorem State.postRefusal_slots (s : State) (r : SRef) (va : Word) (n : Nat) : (s.postRefusal r va n).slots = s.slots := rfl
@[simp] theorem State.postRefusal_cmds (s : State) (r : SRef) (va : Word) (n : Nat) : (s.postRefusal r va n).cmds = s.cmds := rfl
@[simp] theorem State.postRefusal_trees (s : State) (r : SRef) (va : Word) (n : Nat) : (s.postRefusal r va n).trees = s.trees := rfl
@[simp] theorem State.postRefusal_migPlanes (s : State) (r : SRef) (va : Word) (n : Nat) : (s.postRefusal r va n).migPlanes = s.migPlanes := rfl
@[simp] theorem State.postRefusal_granary (s : State) (r : SRef) (va : Word) (n : Nat) : (s.postRefusal r va n).granary = s.granary := rfl
@[simp] theorem State.postRefusal_fabric (s : State) (r : SRef) (va : Word) (n : Nat) : (s.postRefusal r va n).fabric = s.fabric := rfl
@[simp] theorem State.postRefusal_conns (s : State) (r : SRef) (va : Word) (n : Nat) : (s.postRefusal r va n).conns = s.conns := rfl
@[simp] theorem State.postRefusal_host (s : State) (r : SRef) (va : Word) (n : Nat) : (s.postRefusal r va n).host = s.host := rfl
@[simp] theorem State.postRefusal_services (s : State) (r : SRef) (va : Word) (n : Nat) : (s.postRefusal r va n).services = s.services := rfl
@[simp] theorem State.postRefusal_pubs (s : State) (r : SRef) (va : Word) (n : Nat) : (s.postRefusal r va n).pubs = s.pubs := rfl
@[simp] theorem State.postRefusal_incoming (s : State) (r : SRef) (va : Word) (n : Nat) : (s.postRefusal r va n).incoming = s.incoming := rfl
@[simp] theorem State.postRefusal_corrected (s : State) (r : SRef) (va : Word) (n : Nat) : (s.postRefusal r va n).corrected = s.corrected := rfl
@[simp] theorem State.postRefusal_dropped (s : State) (r : SRef) (va : Word) (n : Nat) : (s.postRefusal r va n).dropped = s.dropped := rfl

/-! ### Strands -/

@[simp] theorem Strand.wp_x (st : Strand) (i : PReg) (v : Bool) : (st.wp i v).x = st.x := rfl
@[simp] theorem Strand.advance_x (st : Strand) (n : Word) : (st.advance n).x = st.x := by
  unfold Strand.advance; dsimp only; repeat' (first | rfl | split)
@[simp] theorem Strand.clearFlags_x (st : Strand) (v : Word) : (st.clearFlags v).x = st.x := rfl
@[simp] theorem Strand.raiseFlags_x (st : Strand) (v : FFlags) : (st.raiseFlags v).x = st.x := rfl
@[simp] theorem Strand.writeStatus_x (st : Strand) (v : Word) : (st.writeStatus v).x = st.x := rfl
@[simp] theorem Strand.trapReturn_x (st : Strand) : (st.trapReturn).x = st.x := rfl
@[simp] theorem Strand.wx_p (st : Strand) (i : XReg) (v : Word) : (st.wx i v).p = st.p := by
  unfold Strand.wx; split <;> rfl
@[simp] theorem Strand.advance_p (st : Strand) (n : Word) : (st.advance n).p = st.p := by
  unfold Strand.advance; dsimp only; repeat' (first | rfl | split)
@[simp] theorem Strand.clearFlags_p (st : Strand) (v : Word) : (st.clearFlags v).p = st.p := rfl
@[simp] theorem Strand.raiseFlags_p (st : Strand) (v : FFlags) : (st.raiseFlags v).p = st.p := rfl
@[simp] theorem Strand.writeStatus_p (st : Strand) (v : Word) : (st.writeStatus v).p = st.p := rfl
@[simp] theorem Strand.trapReturn_p (st : Strand) : (st.trapReturn).p = st.p := rfl
@[simp] theorem Strand.wx_pc (st : Strand) (i : XReg) (v : Word) : (st.wx i v).pc = st.pc := by
  unfold Strand.wx; split <;> rfl
@[simp] theorem Strand.wp_pc (st : Strand) (i : PReg) (v : Bool) : (st.wp i v).pc = st.pc := rfl
@[simp] theorem Strand.clearFlags_pc (st : Strand) (v : Word) : (st.clearFlags v).pc = st.pc := rfl
@[simp] theorem Strand.raiseFlags_pc (st : Strand) (v : FFlags) : (st.raiseFlags v).pc = st.pc := rfl
@[simp] theorem Strand.writeStatus_pc (st : Strand) (v : Word) : (st.writeStatus v).pc = st.pc := rfl
@[simp] theorem Strand.wx_lp0 (st : Strand) (i : XReg) (v : Word) : (st.wx i v).lp0 = st.lp0 := by
  unfold Strand.wx; split <;> rfl
@[simp] theorem Strand.wp_lp0 (st : Strand) (i : PReg) (v : Bool) : (st.wp i v).lp0 = st.lp0 := rfl
@[simp] theorem Strand.clearFlags_lp0 (st : Strand) (v : Word) : (st.clearFlags v).lp0 = st.lp0 := rfl
@[simp] theorem Strand.raiseFlags_lp0 (st : Strand) (v : FFlags) : (st.raiseFlags v).lp0 = st.lp0 := rfl
@[simp] theorem Strand.writeStatus_lp0 (st : Strand) (v : Word) : (st.writeStatus v).lp0 = st.lp0 := rfl
@[simp] theorem Strand.trapReturn_lp0 (st : Strand) : (st.trapReturn).lp0 = st.lp0 := rfl
@[simp] theorem Strand.wx_lp1 (st : Strand) (i : XReg) (v : Word) : (st.wx i v).lp1 = st.lp1 := by
  unfold Strand.wx; split <;> rfl
@[simp] theorem Strand.wp_lp1 (st : Strand) (i : PReg) (v : Bool) : (st.wp i v).lp1 = st.lp1 := rfl
@[simp] theorem Strand.clearFlags_lp1 (st : Strand) (v : Word) : (st.clearFlags v).lp1 = st.lp1 := rfl
@[simp] theorem Strand.raiseFlags_lp1 (st : Strand) (v : FFlags) : (st.raiseFlags v).lp1 = st.lp1 := rfl
@[simp] theorem Strand.writeStatus_lp1 (st : Strand) (v : Word) : (st.writeStatus v).lp1 = st.lp1 := rfl
@[simp] theorem Strand.trapReturn_lp1 (st : Strand) : (st.trapReturn).lp1 = st.lp1 := rfl
@[simp] theorem Strand.wx_dzt (st : Strand) (i : XReg) (v : Word) : (st.wx i v).dzt = st.dzt := by
  unfold Strand.wx; split <;> rfl
@[simp] theorem Strand.wp_dzt (st : Strand) (i : PReg) (v : Bool) : (st.wp i v).dzt = st.dzt := rfl
@[simp] theorem Strand.advance_dzt (st : Strand) (n : Word) : (st.advance n).dzt = st.dzt := by
  unfold Strand.advance; dsimp only; repeat' (first | rfl | split)
@[simp] theorem Strand.clearFlags_dzt (st : Strand) (v : Word) : (st.clearFlags v).dzt = st.dzt := rfl
@[simp] theorem Strand.raiseFlags_dzt (st : Strand) (v : FFlags) : (st.raiseFlags v).dzt = st.dzt := rfl
@[simp] theorem Strand.trapReturn_dzt (st : Strand) : (st.trapReturn).dzt = st.dzt := rfl
@[simp] theorem Strand.wx_sup (st : Strand) (i : XReg) (v : Word) : (st.wx i v).sup = st.sup := by
  unfold Strand.wx; split <;> rfl
@[simp] theorem Strand.wp_sup (st : Strand) (i : PReg) (v : Bool) : (st.wp i v).sup = st.sup := rfl
@[simp] theorem Strand.advance_sup (st : Strand) (n : Word) : (st.advance n).sup = st.sup := by
  unfold Strand.advance; dsimp only; repeat' (first | rfl | split)
@[simp] theorem Strand.clearFlags_sup (st : Strand) (v : Word) : (st.clearFlags v).sup = st.sup := rfl
@[simp] theorem Strand.raiseFlags_sup (st : Strand) (v : FFlags) : (st.raiseFlags v).sup = st.sup := rfl
@[simp] theorem Strand.writeStatus_sup (st : Strand) (v : Word) : (st.writeStatus v).sup = st.sup := rfl
@[simp] theorem Strand.trapReturn_sup (st : Strand) : (st.trapReturn).sup = st.sup := rfl
@[simp] theorem Strand.wx_fpflags (st : Strand) (i : XReg) (v : Word) : (st.wx i v).fpflags = st.fpflags := by
  unfold Strand.wx; split <;> rfl
@[simp] theorem Strand.wp_fpflags (st : Strand) (i : PReg) (v : Bool) : (st.wp i v).fpflags = st.fpflags := rfl
@[simp] theorem Strand.advance_fpflags (st : Strand) (n : Word) : (st.advance n).fpflags = st.fpflags := by
  unfold Strand.advance; dsimp only; repeat' (first | rfl | split)
@[simp] theorem Strand.writeStatus_fpflags (st : Strand) (v : Word) : (st.writeStatus v).fpflags = st.fpflags := rfl
@[simp] theorem Strand.trapReturn_fpflags (st : Strand) : (st.trapReturn).fpflags = st.fpflags := rfl
@[simp] theorem Strand.wx_tvec (st : Strand) (i : XReg) (v : Word) : (st.wx i v).tvec = st.tvec := by
  unfold Strand.wx; split <;> rfl
@[simp] theorem Strand.wp_tvec (st : Strand) (i : PReg) (v : Bool) : (st.wp i v).tvec = st.tvec := rfl
@[simp] theorem Strand.advance_tvec (st : Strand) (n : Word) : (st.advance n).tvec = st.tvec := by
  unfold Strand.advance; dsimp only; repeat' (first | rfl | split)
@[simp] theorem Strand.clearFlags_tvec (st : Strand) (v : Word) : (st.clearFlags v).tvec = st.tvec := rfl
@[simp] theorem Strand.raiseFlags_tvec (st : Strand) (v : FFlags) : (st.raiseFlags v).tvec = st.tvec := rfl
@[simp] theorem Strand.writeStatus_tvec (st : Strand) (v : Word) : (st.writeStatus v).tvec = st.tvec := rfl
@[simp] theorem Strand.trapReturn_tvec (st : Strand) : (st.trapReturn).tvec = st.tvec := rfl
@[simp] theorem Strand.wx_tlevel (st : Strand) (i : XReg) (v : Word) : (st.wx i v).tlevel = st.tlevel := by
  unfold Strand.wx; split <;> rfl
@[simp] theorem Strand.wp_tlevel (st : Strand) (i : PReg) (v : Bool) : (st.wp i v).tlevel = st.tlevel := rfl
@[simp] theorem Strand.advance_tlevel (st : Strand) (n : Word) : (st.advance n).tlevel = st.tlevel := by
  unfold Strand.advance; dsimp only; repeat' (first | rfl | split)
@[simp] theorem Strand.clearFlags_tlevel (st : Strand) (v : Word) : (st.clearFlags v).tlevel = st.tlevel := rfl
@[simp] theorem Strand.raiseFlags_tlevel (st : Strand) (v : FFlags) : (st.raiseFlags v).tlevel = st.tlevel := rfl
@[simp] theorem Strand.writeStatus_tlevel (st : Strand) (v : Word) : (st.writeStatus v).tlevel = st.tlevel := rfl
@[simp] theorem Strand.wx_bank1 (st : Strand) (i : XReg) (v : Word) : (st.wx i v).bank1 = st.bank1 := by
  unfold Strand.wx; split <;> rfl
@[simp] theorem Strand.wp_bank1 (st : Strand) (i : PReg) (v : Bool) : (st.wp i v).bank1 = st.bank1 := rfl
@[simp] theorem Strand.advance_bank1 (st : Strand) (n : Word) : (st.advance n).bank1 = st.bank1 := by
  unfold Strand.advance; dsimp only; repeat' (first | rfl | split)
@[simp] theorem Strand.clearFlags_bank1 (st : Strand) (v : Word) : (st.clearFlags v).bank1 = st.bank1 := rfl
@[simp] theorem Strand.raiseFlags_bank1 (st : Strand) (v : FFlags) : (st.raiseFlags v).bank1 = st.bank1 := rfl
@[simp] theorem Strand.writeStatus_bank1 (st : Strand) (v : Word) : (st.writeStatus v).bank1 = st.bank1 := rfl
@[simp] theorem Strand.trapReturn_bank1 (st : Strand) : (st.trapReturn).bank1 = st.bank1 := rfl
@[simp] theorem Strand.wx_bank2 (st : Strand) (i : XReg) (v : Word) : (st.wx i v).bank2 = st.bank2 := by
  unfold Strand.wx; split <;> rfl
@[simp] theorem Strand.wp_bank2 (st : Strand) (i : PReg) (v : Bool) : (st.wp i v).bank2 = st.bank2 := rfl
@[simp] theorem Strand.advance_bank2 (st : Strand) (n : Word) : (st.advance n).bank2 = st.bank2 := by
  unfold Strand.advance; dsimp only; repeat' (first | rfl | split)
@[simp] theorem Strand.clearFlags_bank2 (st : Strand) (v : Word) : (st.clearFlags v).bank2 = st.bank2 := rfl
@[simp] theorem Strand.raiseFlags_bank2 (st : Strand) (v : FFlags) : (st.raiseFlags v).bank2 = st.bank2 := rfl
@[simp] theorem Strand.writeStatus_bank2 (st : Strand) (v : Word) : (st.writeStatus v).bank2 = st.bank2 := rfl
@[simp] theorem Strand.trapReturn_bank2 (st : Strand) : (st.trapReturn).bank2 = st.bank2 := rfl
@[simp] theorem Strand.wx_joins (st : Strand) (i : XReg) (v : Word) : (st.wx i v).joins = st.joins := by
  unfold Strand.wx; split <;> rfl
@[simp] theorem Strand.wp_joins (st : Strand) (i : PReg) (v : Bool) : (st.wp i v).joins = st.joins := rfl
@[simp] theorem Strand.advance_joins (st : Strand) (n : Word) : (st.advance n).joins = st.joins := by
  unfold Strand.advance; dsimp only; repeat' (first | rfl | split)
@[simp] theorem Strand.clearFlags_joins (st : Strand) (v : Word) : (st.clearFlags v).joins = st.joins := rfl
@[simp] theorem Strand.raiseFlags_joins (st : Strand) (v : FFlags) : (st.raiseFlags v).joins = st.joins := rfl
@[simp] theorem Strand.writeStatus_joins (st : Strand) (v : Word) : (st.writeStatus v).joins = st.joins := rfl
@[simp] theorem Strand.trapReturn_joins (st : Strand) : (st.trapReturn).joins = st.joins := rfl
@[simp] theorem Strand.wx_recs (st : Strand) (i : XReg) (v : Word) : (st.wx i v).recs = st.recs := by
  unfold Strand.wx; split <;> rfl
@[simp] theorem Strand.wp_recs (st : Strand) (i : PReg) (v : Bool) : (st.wp i v).recs = st.recs := rfl
@[simp] theorem Strand.advance_recs (st : Strand) (n : Word) : (st.advance n).recs = st.recs := by
  unfold Strand.advance; dsimp only; repeat' (first | rfl | split)
@[simp] theorem Strand.clearFlags_recs (st : Strand) (v : Word) : (st.clearFlags v).recs = st.recs := rfl
@[simp] theorem Strand.raiseFlags_recs (st : Strand) (v : FFlags) : (st.raiseFlags v).recs = st.recs := rfl
@[simp] theorem Strand.writeStatus_recs (st : Strand) (v : Word) : (st.writeStatus v).recs = st.recs := rfl
@[simp] theorem Strand.trapReturn_recs (st : Strand) : (st.trapReturn).recs = st.recs := rfl
@[simp] theorem Strand.wx_markers (st : Strand) (i : XReg) (v : Word) : (st.wx i v).markers = st.markers := by
  unfold Strand.wx; split <;> rfl
@[simp] theorem Strand.wp_markers (st : Strand) (i : PReg) (v : Bool) : (st.wp i v).markers = st.markers := rfl
@[simp] theorem Strand.advance_markers (st : Strand) (n : Word) : (st.advance n).markers = st.markers := by
  unfold Strand.advance; dsimp only; repeat' (first | rfl | split)
@[simp] theorem Strand.clearFlags_markers (st : Strand) (v : Word) : (st.clearFlags v).markers = st.markers := rfl
@[simp] theorem Strand.raiseFlags_markers (st : Strand) (v : FFlags) : (st.raiseFlags v).markers = st.markers := rfl
@[simp] theorem Strand.writeStatus_markers (st : Strand) (v : Word) : (st.writeStatus v).markers = st.markers := rfl
@[simp] theorem Strand.trapReturn_markers (st : Strand) : (st.trapReturn).markers = st.markers := rfl
@[simp] theorem Strand.wx_rvPend (st : Strand) (i : XReg) (v : Word) : (st.wx i v).rvPend = st.rvPend := by
  unfold Strand.wx; split <;> rfl
@[simp] theorem Strand.wp_rvPend (st : Strand) (i : PReg) (v : Bool) : (st.wp i v).rvPend = st.rvPend := rfl
@[simp] theorem Strand.advance_rvPend (st : Strand) (n : Word) : (st.advance n).rvPend = st.rvPend := by
  unfold Strand.advance; dsimp only; repeat' (first | rfl | split)
@[simp] theorem Strand.clearFlags_rvPend (st : Strand) (v : Word) : (st.clearFlags v).rvPend = st.rvPend := rfl
@[simp] theorem Strand.raiseFlags_rvPend (st : Strand) (v : FFlags) : (st.raiseFlags v).rvPend = st.rvPend := rfl
@[simp] theorem Strand.writeStatus_rvPend (st : Strand) (v : Word) : (st.writeStatus v).rvPend = st.rvPend := rfl
@[simp] theorem Strand.trapReturn_rvPend (st : Strand) : (st.trapReturn).rvPend = st.rvPend := rfl
@[simp] theorem Strand.wx_rvGen (st : Strand) (i : XReg) (v : Word) : (st.wx i v).rvGen = st.rvGen := by
  unfold Strand.wx; split <;> rfl
@[simp] theorem Strand.wp_rvGen (st : Strand) (i : PReg) (v : Bool) : (st.wp i v).rvGen = st.rvGen := rfl
@[simp] theorem Strand.advance_rvGen (st : Strand) (n : Word) : (st.advance n).rvGen = st.rvGen := by
  unfold Strand.advance; dsimp only; repeat' (first | rfl | split)
@[simp] theorem Strand.clearFlags_rvGen (st : Strand) (v : Word) : (st.clearFlags v).rvGen = st.rvGen := rfl
@[simp] theorem Strand.raiseFlags_rvGen (st : Strand) (v : FFlags) : (st.raiseFlags v).rvGen = st.rvGen := rfl
@[simp] theorem Strand.writeStatus_rvGen (st : Strand) (v : Word) : (st.writeStatus v).rvGen = st.rvGen := rfl
@[simp] theorem Strand.trapReturn_rvGen (st : Strand) : (st.trapReturn).rvGen = st.rvGen := rfl
@[simp] theorem Strand.wx_chain (st : Strand) (i : XReg) (v : Word) : (st.wx i v).chain = st.chain := by
  unfold Strand.wx; split <;> rfl
@[simp] theorem Strand.wp_chain (st : Strand) (i : PReg) (v : Bool) : (st.wp i v).chain = st.chain := rfl
@[simp] theorem Strand.advance_chain (st : Strand) (n : Word) : (st.advance n).chain = st.chain := by
  unfold Strand.advance; dsimp only; repeat' (first | rfl | split)
@[simp] theorem Strand.clearFlags_chain (st : Strand) (v : Word) : (st.clearFlags v).chain = st.chain := rfl
@[simp] theorem Strand.raiseFlags_chain (st : Strand) (v : FFlags) : (st.raiseFlags v).chain = st.chain := rfl
@[simp] theorem Strand.writeStatus_chain (st : Strand) (v : Word) : (st.writeStatus v).chain = st.chain := rfl
@[simp] theorem Strand.trapReturn_chain (st : Strand) : (st.trapReturn).chain = st.chain := rfl
@[simp] theorem Strand.wx_wait (st : Strand) (i : XReg) (v : Word) : (st.wx i v).wait = st.wait := by
  unfold Strand.wx; split <;> rfl
@[simp] theorem Strand.wp_wait (st : Strand) (i : PReg) (v : Bool) : (st.wp i v).wait = st.wait := rfl
@[simp] theorem Strand.advance_wait (st : Strand) (n : Word) : (st.advance n).wait = st.wait := by
  unfold Strand.advance; dsimp only; repeat' (first | rfl | split)
@[simp] theorem Strand.clearFlags_wait (st : Strand) (v : Word) : (st.clearFlags v).wait = st.wait := rfl
@[simp] theorem Strand.raiseFlags_wait (st : Strand) (v : FFlags) : (st.raiseFlags v).wait = st.wait := rfl
@[simp] theorem Strand.writeStatus_wait (st : Strand) (v : Word) : (st.writeStatus v).wait = st.wait := rfl
@[simp] theorem Strand.wx_waitiLeft (st : Strand) (i : XReg) (v : Word) : (st.wx i v).waitiLeft = st.waitiLeft := by
  unfold Strand.wx; split <;> rfl
@[simp] theorem Strand.wp_waitiLeft (st : Strand) (i : PReg) (v : Bool) : (st.wp i v).waitiLeft = st.waitiLeft := rfl
@[simp] theorem Strand.advance_waitiLeft (st : Strand) (n : Word) : (st.advance n).waitiLeft = st.waitiLeft := by
  unfold Strand.advance; dsimp only; repeat' (first | rfl | split)
@[simp] theorem Strand.clearFlags_waitiLeft (st : Strand) (v : Word) : (st.clearFlags v).waitiLeft = st.waitiLeft := rfl
@[simp] theorem Strand.raiseFlags_waitiLeft (st : Strand) (v : FFlags) : (st.raiseFlags v).waitiLeft = st.waitiLeft := rfl
@[simp] theorem Strand.writeStatus_waitiLeft (st : Strand) (v : Word) : (st.writeStatus v).waitiLeft = st.waitiLeft := rfl
@[simp] theorem Strand.wx_waited (st : Strand) (i : XReg) (v : Word) : (st.wx i v).waited = st.waited := by
  unfold Strand.wx; split <;> rfl
@[simp] theorem Strand.wp_waited (st : Strand) (i : PReg) (v : Bool) : (st.wp i v).waited = st.waited := rfl
@[simp] theorem Strand.advance_waited (st : Strand) (n : Word) : (st.advance n).waited = st.waited := by
  unfold Strand.advance; dsimp only; repeat' (first | rfl | split)
@[simp] theorem Strand.clearFlags_waited (st : Strand) (v : Word) : (st.clearFlags v).waited = st.waited := rfl
@[simp] theorem Strand.raiseFlags_waited (st : Strand) (v : FFlags) : (st.raiseFlags v).waited = st.waited := rfl
@[simp] theorem Strand.writeStatus_waited (st : Strand) (v : Word) : (st.writeStatus v).waited = st.waited := rfl
@[simp] theorem Strand.wx_asyncs (st : Strand) (i : XReg) (v : Word) : (st.wx i v).asyncs = st.asyncs := by
  unfold Strand.wx; split <;> rfl
@[simp] theorem Strand.wp_asyncs (st : Strand) (i : PReg) (v : Bool) : (st.wp i v).asyncs = st.asyncs := rfl
@[simp] theorem Strand.advance_asyncs (st : Strand) (n : Word) : (st.advance n).asyncs = st.asyncs := by
  unfold Strand.advance; dsimp only; repeat' (first | rfl | split)
@[simp] theorem Strand.clearFlags_asyncs (st : Strand) (v : Word) : (st.clearFlags v).asyncs = st.asyncs := rfl
@[simp] theorem Strand.raiseFlags_asyncs (st : Strand) (v : FFlags) : (st.raiseFlags v).asyncs = st.asyncs := rfl
@[simp] theorem Strand.writeStatus_asyncs (st : Strand) (v : Word) : (st.writeStatus v).asyncs = st.asyncs := rfl
@[simp] theorem Strand.trapReturn_asyncs (st : Strand) : (st.trapReturn).asyncs = st.asyncs := rfl
@[simp] theorem Strand.wx_xlates (st : Strand) (i : XReg) (v : Word) : (st.wx i v).xlates = st.xlates := by
  unfold Strand.wx; split <;> rfl
@[simp] theorem Strand.wp_xlates (st : Strand) (i : PReg) (v : Bool) : (st.wp i v).xlates = st.xlates := rfl
@[simp] theorem Strand.advance_xlates (st : Strand) (n : Word) : (st.advance n).xlates = st.xlates := by
  unfold Strand.advance; dsimp only; repeat' (first | rfl | split)
@[simp] theorem Strand.clearFlags_xlates (st : Strand) (v : Word) : (st.clearFlags v).xlates = st.xlates := rfl
@[simp] theorem Strand.raiseFlags_xlates (st : Strand) (v : FFlags) : (st.raiseFlags v).xlates = st.xlates := rfl
@[simp] theorem Strand.writeStatus_xlates (st : Strand) (v : Word) : (st.writeStatus v).xlates = st.xlates := rfl
@[simp] theorem Strand.trapReturn_xlates (st : Strand) : (st.trapReturn).xlates = st.xlates := rfl
@[simp] theorem Strand.wx_selvr (st : Strand) (i : XReg) (v : Word) : (st.wx i v).selvr = st.selvr := by
  unfold Strand.wx; split <;> rfl
@[simp] theorem Strand.wp_selvr (st : Strand) (i : PReg) (v : Bool) : (st.wp i v).selvr = st.selvr := rfl
@[simp] theorem Strand.advance_selvr (st : Strand) (n : Word) : (st.advance n).selvr = st.selvr := by
  unfold Strand.advance; dsimp only; repeat' (first | rfl | split)
@[simp] theorem Strand.clearFlags_selvr (st : Strand) (v : Word) : (st.clearFlags v).selvr = st.selvr := rfl
@[simp] theorem Strand.raiseFlags_selvr (st : Strand) (v : FFlags) : (st.raiseFlags v).selvr = st.selvr := rfl
@[simp] theorem Strand.writeStatus_selvr (st : Strand) (v : Word) : (st.writeStatus v).selvr = st.selvr := rfl
@[simp] theorem Strand.trapReturn_selvr (st : Strand) : (st.trapReturn).selvr = st.selvr := rfl
@[simp] theorem Strand.wx_selslot (st : Strand) (i : XReg) (v : Word) : (st.wx i v).selslot = st.selslot := by
  unfold Strand.wx; split <;> rfl
@[simp] theorem Strand.wp_selslot (st : Strand) (i : PReg) (v : Bool) : (st.wp i v).selslot = st.selslot := rfl
@[simp] theorem Strand.advance_selslot (st : Strand) (n : Word) : (st.advance n).selslot = st.selslot := by
  unfold Strand.advance; dsimp only; repeat' (first | rfl | split)
@[simp] theorem Strand.clearFlags_selslot (st : Strand) (v : Word) : (st.clearFlags v).selslot = st.selslot := rfl
@[simp] theorem Strand.raiseFlags_selslot (st : Strand) (v : FFlags) : (st.raiseFlags v).selslot = st.selslot := rfl
@[simp] theorem Strand.writeStatus_selslot (st : Strand) (v : Word) : (st.writeStatus v).selslot = st.selslot := rfl
@[simp] theorem Strand.trapReturn_selslot (st : Strand) : (st.trapReturn).selslot = st.selslot := rfl
@[simp] theorem Strand.wx_ecCount (st : Strand) (i : XReg) (v : Word) : (st.wx i v).ecCount = st.ecCount := by
  unfold Strand.wx; split <;> rfl
@[simp] theorem Strand.wp_ecCount (st : Strand) (i : PReg) (v : Bool) : (st.wp i v).ecCount = st.ecCount := rfl
@[simp] theorem Strand.advance_ecCount (st : Strand) (n : Word) : (st.advance n).ecCount = st.ecCount := by
  unfold Strand.advance; dsimp only; repeat' (first | rfl | split)
@[simp] theorem Strand.clearFlags_ecCount (st : Strand) (v : Word) : (st.clearFlags v).ecCount = st.ecCount := rfl
@[simp] theorem Strand.raiseFlags_ecCount (st : Strand) (v : FFlags) : (st.raiseFlags v).ecCount = st.ecCount := rfl
@[simp] theorem Strand.writeStatus_ecCount (st : Strand) (v : Word) : (st.writeStatus v).ecCount = st.ecCount := rfl
@[simp] theorem Strand.trapReturn_ecCount (st : Strand) : (st.trapReturn).ecCount = st.ecCount := rfl
@[simp] theorem Strand.wx_ext (st : Strand) (i : XReg) (v : Word) : (st.wx i v).ext = st.ext := by
  unfold Strand.wx; split <;> rfl
@[simp] theorem Strand.wp_ext (st : Strand) (i : PReg) (v : Bool) : (st.wp i v).ext = st.ext := rfl
@[simp] theorem Strand.clearFlags_ext (st : Strand) (v : Word) : (st.clearFlags v).ext = st.ext := rfl
@[simp] theorem Strand.raiseFlags_ext (st : Strand) (v : FFlags) : (st.raiseFlags v).ext = st.ext := rfl
@[simp] theorem Strand.writeStatus_ext (st : Strand) (v : Word) : (st.writeStatus v).ext = st.ext := rfl
@[simp] theorem Strand.trapReturn_ext (st : Strand) : (st.trapReturn).ext = st.ext := rfl
@[simp] theorem Strand.wx_ended (st : Strand) (i : XReg) (v : Word) : (st.wx i v).ended = st.ended := by
  unfold Strand.wx; split <;> rfl
@[simp] theorem Strand.wp_ended (st : Strand) (i : PReg) (v : Bool) : (st.wp i v).ended = st.ended := rfl
@[simp] theorem Strand.advance_ended (st : Strand) (n : Word) : (st.advance n).ended = st.ended := by
  unfold Strand.advance; dsimp only; repeat' (first | rfl | split)
@[simp] theorem Strand.clearFlags_ended (st : Strand) (v : Word) : (st.clearFlags v).ended = st.ended := rfl
@[simp] theorem Strand.raiseFlags_ended (st : Strand) (v : FFlags) : (st.raiseFlags v).ended = st.ended := rfl
@[simp] theorem Strand.writeStatus_ended (st : Strand) (v : Word) : (st.writeStatus v).ended = st.ended := rfl
@[simp] theorem Strand.trapReturn_ended (st : Strand) : (st.trapReturn).ended = st.ended := rfl

end Sys2Proof.Machine
end

