-- ==== Sys2Proof/Laws/Parts.lean ====
section
/-! SUPPORT. Finding a part of the state after changing one: the changed part is the changed one, every other part is as it was. -/

namespace Sys2Proof.Machine

/-- Finding in a list in which the elements of one key are changed and keep their key. -/
theorem find?_map_key {α : Type} (l : List α) (key : α → Nat) (k j : Nat) (f : α → α) (hf : ∀ x, key (f x) = key x) :
    (l.map fun x => if key x = k then f x else x).find? (fun x => key x == j) =
      (l.find? fun x => key x == j).map fun x => if j = k then f x else x := by
  induction l with
  | nil => rfl
  | cons a t ih =>
    simp only [List.map_cons, List.find?_cons]
    have hk : key (if key a = k then f a else a) = key a := by split <;> simp [hf]
    rw [hk]
    by_cases h : key a = j
    · simp only [h, beq_self_eq_true, Option.map_some]
    · have : (key a == j) = false := by simpa using h
      rw [this]
      exact ih

@[simp] theorem Core.modStrand_coreno (c : Core) (i : StrandId) (f : Strand → Strand) : (c.modStrand i f).coreno = c.coreno := by
  cases i <;> rfl

@[simp] theorem Core.strand_setStrand (c : Core) (i : StrandId) (st : Strand) : (c.setStrand i st).strand i = st := by
  cases i <;> rfl

theorem Core.strand_setStrand_ne (c : Core) (i j : StrandId) (st : Strand) (h : j ≠ i) :
    (c.setStrand i st).strand j = c.strand j := by
  cases i <;> cases j <;> first | rfl | exact absurd rfl h

@[simp] theorem Gang.modCore_id (g : Gang) (n : Nat) (f : Core → Core) : (g.modCore n f).id = g.id := rfl

@[simp] theorem Rank.modGang_vr (r : Rank) (g : Nat) (f : Gang → Gang) : (r.modGang g f).vr = r.vr := rfl

theorem Gang.core?_modCore (g : Gang) (n m : Nat) (f : Core → Core) (hf : ∀ c, (f c).coreno = c.coreno) :
    (g.modCore n f).core? m = (g.core? m).map fun c => if m = n then f c else c :=
  find?_map_key g.cores Core.coreno n m f hf

theorem Rank.gang?_modGang (r : Rank) (n m : Nat) (f : Gang → Gang) (hf : ∀ g, (f g).id = g.id) :
    (r.modGang n f).gang? m = (r.gang? m).map fun g => if m = n then f g else g :=
  find?_map_key r.gangs Gang.id n m f hf

theorem State.rank?_modRank (s : State) (v w : Nat) (f : Rank → Rank) (hf : ∀ r, (f r).vr = r.vr) :
    (s.modRank v f).rank? w = (s.rank? w).map fun r => if w = v then f r else r :=
  find?_map_key s.ranks Rank.vr v w f hf

theorem State.gang?_modGang (s : State) (v g w h : Nat) (f : Gang → Gang) (hf : ∀ x, (f x).id = x.id) :
    (s.modGang v g f).gang? w h = (s.gang? w h).map fun x => if w = v ∧ h = g then f x else x := by
  unfold State.gang? State.modGang
  rw [State.rank?_modRank _ _ _ _ (fun r => Rank.modGang_vr r g f)]
  cases hr : s.rank? w with
  | none => rfl
  | some r =>
    by_cases hv : w = v
    · simp [hv, Rank.gang?_modGang _ _ _ _ hf]
    · simp [hv]

theorem State.core?_modCore (s : State) (r q : SRef) (f : Core → Core) (hf : ∀ c, (f c).coreno = c.coreno) :
    (s.modCore r f).core? q =
      (s.core? q).map fun c => if q.vr = r.vr ∧ q.gang = r.gang ∧ q.core = r.core then f c else c := by
  unfold State.core? State.modCore
  rw [State.gang?_modGang _ _ _ _ _ _ (fun x => Gang.modCore_id x r.core f)]
  cases hg : s.gang? q.vr q.gang with
  | none => rfl
  | some g =>
    by_cases hv : q.vr = r.vr ∧ q.gang = r.gang
    · simp [hv, Gang.core?_modCore _ _ _ _ hf]
    · have : ¬ (q.vr = r.vr ∧ q.gang = r.gang ∧ q.core = r.core) := fun h => hv ⟨h.1, h.2.1⟩
      simp [hv, this]

/-- The changed strand. -/
theorem State.strand?_modStrand (s : State) (r : SRef) (f : Strand → Strand) :
    (s.modStrand r f).strand? r = (s.strand? r).map f := by
  unfold State.strand? State.modStrand
  rw [State.core?_modCore _ _ _ _ (fun c => Core.modStrand_coreno c r.strand f)]
  cases s.core? r <;> simp [Core.modStrand]

/-- Every other strand. -/
theorem State.strand?_modStrand_ne (s : State) (r q : SRef) (f : Strand → Strand) (h : q ≠ r) :
    (s.modStrand r f).strand? q = s.strand? q := by
  unfold State.strand? State.modStrand
  rw [State.core?_modCore _ _ _ _ (fun c => Core.modStrand_coreno c r.strand f)]
  cases s.core? q with
  | none => rfl
  | some c =>
    by_cases hv : q.vr = r.vr ∧ q.gang = r.gang ∧ q.core = r.core
    · have hs : q.strand ≠ r.strand := fun hs => h (by cases q; cases r; simp_all)
      simp [hv, Core.modStrand, Core.strand_setStrand_ne _ _ _ _ hs]
    · simp [hv]

/-- The rest of the core of a changed strand, and every other core. -/
theorem State.core?_modStrand (s : State) (r q : SRef) (f : Strand → Strand) :
    (s.modStrand r f).core? q =
      (s.core? q).map fun c => if q.vr = r.vr ∧ q.gang = r.gang ∧ q.core = r.core then c.modStrand r.strand f else c :=
  State.core?_modCore s r q _ fun c => Core.modStrand_coreno c r.strand f

/-- A rank after a change of one of its strands: the same but for its gangs. -/
theorem State.rank?_modStrand (s : State) (r : SRef) (f : Strand → Strand) (v : Nat) :
    (s.modStrand r f).rank? v =
      (s.rank? v).map fun k => if v = r.vr then k.modGang r.gang fun g => g.modCore r.core fun c => c.modStrand r.strand f else k :=
  State.rank?_modRank s r.vr v _ fun k => Rank.modGang_vr k r.gang _

@[simp] theorem State.slot_modStrand (s : State) (r : SRef) (f : Strand → Strand) (k : Nat) : (s.modStrand r f).slot k = s.slot k := rfl

@[simp] theorem State.slotOf_modStrand (s : State) (r : SRef) (f : Strand → Strand) (v : Nat) :
    (s.modStrand r f).slotOf v = s.slotOf v := by
  unfold State.slotOf
  rw [State.rank?_modStrand]
  cases s.rank? v with
  | none => rfl
  | some k =>
    by_cases h : v = r.vr
    · simp [h]; rfl
    · simp [h]

@[simp] theorem State.ring_modStrand (s : State) (r : SRef) (f : Strand → Strand) (v c n : Nat) :
    (s.modStrand r f).ring v c n = s.ring v c n := by
  unfold State.ring
  rw [State.slotOf_modStrand]
  rfl

theorem State.slot_modSlot (s : State) (k j : Nat) (f : Slot → Slot) (hk : k < 16) :
    (s.modSlot k f).slot j = if j = k then f (s.slot k) else s.slot j := by
  unfold State.slot State.modSlot
  simp only [Vector.getElem?_setIfInBounds]
  by_cases h : k = j
  · subst h; simp [hk, State.slot]
  · simp [h, Ne.symm h]

/-! ### The shared operations of the strands -/

/-- What a meaning that acts for the current strand answers. -/
theorem State.acting_eq {s : State} {st : Strand} (h : s.strand? s.cur = some st) (f : Strand → State) :
    s.acting f = .next (f st) := by simp [State.acting, h]

/-- All that such a meaning can do. -/
theorem State.acting_cases (s : State) (f : Strand → State) :
    (∃ st, s.strand? s.cur = some st ∧ s.acting f = .next (f st)) ∨ (s.strand? s.cur = none ∧ s.acting f = .fault .noStrand) := by
  unfold State.acting
  cases h : s.strand? s.cur with
  | none => exact .inr ⟨rfl, rfl⟩
  | some st => exact .inl ⟨st, rfl, rfl⟩

theorem State.retire_eq (s : State) (st : Strand) : s.retire st = s.modStrand s.cur fun _ => st.finish s.cur.strand 4 := rfl

theorem State.strand?_retire {s : State} {st0 : Strand} (h : s.strand? s.cur = some st0) (st : Strand) :
    (s.retire st).strand? s.cur = some (st.finish s.cur.strand 4) := by
  rw [State.retire_eq, State.strand?_modStrand, h]; rfl

theorem State.strand?_retire_ne (s : State) (st : Strand) (q : SRef) (h : q ≠ s.cur) : (s.retire st).strand? q = s.strand? q := by
  rw [State.retire_eq, State.strand?_modStrand_ne _ _ _ _ h]

theorem State.strand?_transfer {s : State} {st0 : Strand} (h : s.strand? s.cur = some st0) (st : Strand) (t : Word) :
    (s.transfer st t).strand? s.cur = some { st with pc := t, waited := 0, waitiLeft := 0, wait := none } := by
  unfold State.transfer
  rw [State.strand?_modStrand, h]; rfl

theorem State.strand?_hold {s : State} {st : Strand} (h : s.strand? s.cur = some st) (w : Wait) :
    (s.hold w).strand? s.cur = some { st with wait := some w } := by
  unfold State.hold
  rw [State.strand?_modStrand, h]; rfl

/-- Registers that a completed instruction did not write (07 R162): only the pc, the loops and the wait move. -/
theorem Strand.finish_x (st : Strand) (i : StrandId) (n : Word) : (st.finish i n).x = st.x := by
  unfold Strand.finish; dsimp only; split <;> simp

theorem Strand.finish_p (st : Strand) (i : StrandId) (n : Word) : (st.finish i n).p = st.p := by
  unfold Strand.finish; dsimp only; split <;> simp

theorem Strand.rx_zero (st : Strand) : st.rx 0 = 0 := rfl

theorem Strand.wx_zero (st : Strand) (v : Word) : st.wx 0 v = st := rfl

theorem Strand.rx_wx (st : Strand) (d k : XReg) (v : Word) (h : d ≠ 0) :
    (st.wx d v).rx k = if k = d then v else st.rx k := by
  unfold Strand.rx Strand.wx
  simp only [h, if_false, Vector.getElem?_setIfInBounds]
  by_cases hk : k = d
  · subst hk
    rw [if_neg h]
    simp [k.isLt]
  · have : d.toNat ≠ k.toNat := fun e => hk (BitVec.eq_of_toNat_eq e.symm)
    simp [hk, this]

theorem Strand.rp_wp (st : Strand) (d k : PReg) (v : Bool) (h : d.toNat < 96) :
    (st.wp d v).rp k = if k = d then v else st.rp k := by
  unfold Strand.rp Strand.wp
  simp only [Vector.getElem?_setIfInBounds]
  by_cases hk : k = d
  · subst hk; cases v <;> simp [h]
  · have : d.toNat ≠ k.toNat := fun e => hk (BitVec.eq_of_toNat_eq e.symm)
    simp [hk, this]

/-! ### Trap entry and return (12 R301, R305) -/

/-- Trap entry of a strand below level 2 with a handler set: the bank of the new level, the pc in the vector table, nothing
else of the machine. -/
theorem State.trapEntry_eq {s : State} {r : SRef} {st : Strand} (h : s.strand? r = some st) (hl : st.tlevel ≠ 2) (hv : st.tvec ≠ 0)
    (cause : Nat) (val : Word) (detail src z : Nat) (ret : Word) :
    s.trapEntry r cause val detail src z ret =
      ({ s with trapped := true } : State).modStrand r fun st' =>
        let b : TrapBank := { tpc := ret, tcause := BitVec.ofNat 64 cause, tval := val,
                              tstat := tstatOf detail src z st.chain.isSome }
        let st' := if st'.tlevel = 0 then { st' with bank1 := b } else { st' with bank2 := b }
        { st' with tlevel := st'.tlevel + 1, pc := st'.tvec + BitVec.ofNat 64 (64 * cause), wait := none, waited := 0, waitiLeft := 0,
                   ext := none } := by
  unfold State.trapEntry
  rw [h]
  dsimp only
  rw [if_neg hl, if_neg hv]

end Sys2Proof.Machine
end

