-- ==== Sys2Proof/Laws/PerInstr.lean ====
section
/-! SUPPORT. The family Words of LAWS.json: what the encoder makes of each instruction. -/

namespace Sys2Proof.Laws.Words

/-- Every word that encodes an instruction has 32 bits; an event has no words, a bundle four, any other as many as its size says. -/
def Statement (i : Instr) : Prop := (∀ w ∈ encode i, w < 2 ^ 32) ∧ (encode i = [] ∨ (encode i).length = 4 ∨ (encode i).length = wordsOf i)

theorem none {i : Instr} (h : encode i = []) : Statement i := ⟨fun w hw => (by rw [h] at hw; cases hw), .inl h⟩

theorem one {i : Instr} {n : Nat} (h : encode i = [n]) (hl : wordsOf i = 1) (hn : n < 2 ^ 32) : Statement i :=
  ⟨fun w hw => (by rw [h] at hw; simp at hw; omega), .inr (.inr (by rw [h, hl]; rfl))⟩

theorem bit (b : Bool) : b.toNat < 2 := by cases b <;> decide

theorem cond (c : Cond) : c.code < 16 := by cases c <;> decide

theorem atomOp (o : AtomOp) : o.code < 16 := by cases o <;> decide

theorem nop  : Statement (.nop) := by
  refine one rfl rfl ?_
  decide

theorem feat (d : XReg) (s : BitVec 12) : Statement (.feat d s) := by
  have hd := d.isLt
  have hs := s.isLt
  refine one rfl rfl ?_
  simp only [pack1, pack2]; omega

theorem rdctl (d : XReg) (c : BitVec 12) : Statement (.rdctl d c) := by
  have hd := d.isLt
  have hc := c.isLt
  refine one rfl rfl ?_
  simp only [pack1, pack2]; omega

theorem shapeWrite (a : XReg) : Statement (.shapeWrite a) := by
  have ha := a.isLt
  refine one rfl rfl ?_
  simp only [pack1]; omega

theorem fpflagsClear (a : XReg) : Statement (.fpflagsClear a) := by
  have ha := a.isLt
  refine one rfl rfl ?_
  simp only [pack1]; omega

theorem loopRegisterWrite (a : XReg) (k : BitVec 3) : Statement (.loopRegisterWrite a k) := by
  have ha := a.isLt
  have hk := k.isLt
  refine one rfl rfl ?_
  simp only [pack1, pack2]; omega

theorem ringRegisterWrite (a : XReg) (g : GReg) : Statement (.ringRegisterWrite a g) := by
  have ha := a.isLt
  have hg := g.isLt
  refine one rfl rfl ?_
  simp only [pack1, pack2]; omega

theorem walWrite (a : XReg) (n : BitVec 4) : Statement (.walWrite a n) := by
  have ha := a.isLt
  have hn := n.isLt
  refine one rfl rfl ?_
  simp only [pack1, pack2]; omega

theorem wrctl (a : XReg) (c : BitVec 12) : Statement (.wrctl a c) := by
  have ha := a.isLt
  have hc := c.isLt
  refine one rfl rfl ?_
  simp only [pack1, pack2]; omega

theorem rand (d : XReg) (a : XReg) (s : BitVec 4) : Statement (.rand d a s) := by
  have hd := d.isLt
  have ha := a.isLt
  have hs := s.isLt
  refine one rfl rfl ?_
  simp only [pack1, pack2, pack3]; omega

theorem exit  : Statement (.exit) := by
  refine one rfl rfl ?_
  decide

theorem trap (n : BitVec 12) : Statement (.trap n) := by
  have hn := n.isLt
  refine one rfl rfl ?_
  simp only [pack1]; omega

theorem waiti (n : BitVec 12) : Statement (.waiti n) := by
  have hn := n.isLt
  refine one rfl rfl ?_
  simp only [pack1]; omega

theorem add (d : XReg) (a : XReg) (b : XReg) (w : Bool) : Statement (.add d a b w) := by
  have hd := d.isLt
  have ha := a.isLt
  have hb := b.isLt
  have hw := bit w
  refine one rfl rfl ?_
  simp only [pack1, pack2, pack3, pack4]; omega

theorem sub (d : XReg) (a : XReg) (b : XReg) (w : Bool) : Statement (.sub d a b w) := by
  have hd := d.isLt
  have ha := a.isLt
  have hb := b.isLt
  have hw := bit w
  refine one rfl rfl ?_
  simp only [pack1, pack2, pack3, pack4]; omega

theorem and (d : XReg) (a : XReg) (b : XReg) (w : Bool) : Statement (.and d a b w) := by
  have hd := d.isLt
  have ha := a.isLt
  have hb := b.isLt
  have hw := bit w
  refine one rfl rfl ?_
  simp only [pack1, pack2, pack3, pack4]; omega

theorem or (d : XReg) (a : XReg) (b : XReg) (w : Bool) : Statement (.or d a b w) := by
  have hd := d.isLt
  have ha := a.isLt
  have hb := b.isLt
  have hw := bit w
  refine one rfl rfl ?_
  simp only [pack1, pack2, pack3, pack4]; omega

theorem xor (d : XReg) (a : XReg) (b : XReg) (w : Bool) : Statement (.xor d a b w) := by
  have hd := d.isLt
  have ha := a.isLt
  have hb := b.isLt
  have hw := bit w
  refine one rfl rfl ?_
  simp only [pack1, pack2, pack3, pack4]; omega

theorem andn (d : XReg) (a : XReg) (b : XReg) (w : Bool) : Statement (.andn d a b w) := by
  have hd := d.isLt
  have ha := a.isLt
  have hb := b.isLt
  have hw := bit w
  refine one rfl rfl ?_
  simp only [pack1, pack2, pack3, pack4]; omega

theorem shl (d : XReg) (a : XReg) (b : XReg) (w : Bool) : Statement (.shl d a b w) := by
  have hd := d.isLt
  have ha := a.isLt
  have hb := b.isLt
  have hw := bit w
  refine one rfl rfl ?_
  simp only [pack1, pack2, pack3, pack4]; omega

theorem shr (d : XReg) (a : XReg) (b : XReg) (w : Bool) : Statement (.shr d a b w) := by
  have hd := d.isLt
  have ha := a.isLt
  have hb := b.isLt
  have hw := bit w
  refine one rfl rfl ?_
  simp only [pack1, pack2, pack3, pack4]; omega

theorem sar (d : XReg) (a : XReg) (b : XReg) (w : Bool) : Statement (.sar d a b w) := by
  have hd := d.isLt
  have ha := a.isLt
  have hb := b.isLt
  have hw := bit w
  refine one rfl rfl ?_
  simp only [pack1, pack2, pack3, pack4]; omega

theorem rot (d : XReg) (a : XReg) (b : XReg) (w : Bool) : Statement (.rot d a b w) := by
  have hd := d.isLt
  have ha := a.isLt
  have hb := b.isLt
  have hw := bit w
  refine one rfl rfl ?_
  simp only [pack1, pack2, pack3, pack4]; omega

theorem mul (d : XReg) (a : XReg) (b : XReg) (w : Bool) : Statement (.mul d a b w) := by
  have hd := d.isLt
  have ha := a.isLt
  have hb := b.isLt
  have hw := bit w
  refine one rfl rfl ?_
  simp only [pack1, pack2, pack3, pack4]; omega

theorem mulh (d : XReg) (a : XReg) (b : XReg) (w : Bool) : Statement (.mulh d a b w) := by
  have hd := d.isLt
  have ha := a.isLt
  have hb := b.isLt
  have hw := bit w
  refine one rfl rfl ?_
  simp only [pack1, pack2, pack3, pack4]; omega

theorem mulhu (d : XReg) (a : XReg) (b : XReg) (w : Bool) : Statement (.mulhu d a b w) := by
  have hd := d.isLt
  have ha := a.isLt
  have hb := b.isLt
  have hw := bit w
  refine one rfl rfl ?_
  simp only [pack1, pack2, pack3, pack4]; omega

theorem div (d : XReg) (a : XReg) (b : XReg) (w : Bool) : Statement (.div d a b w) := by
  have hd := d.isLt
  have ha := a.isLt
  have hb := b.isLt
  have hw := bit w
  refine one rfl rfl ?_
  simp only [pack1, pack2, pack3, pack4]; omega

theorem divu (d : XReg) (a : XReg) (b : XReg) (w : Bool) : Statement (.divu d a b w) := by
  have hd := d.isLt
  have ha := a.isLt
  have hb := b.isLt
  have hw := bit w
  refine one rfl rfl ?_
  simp only [pack1, pack2, pack3, pack4]; omega

theorem rem (d : XReg) (a : XReg) (b : XReg) (w : Bool) : Statement (.rem d a b w) := by
  have hd := d.isLt
  have ha := a.isLt
  have hb := b.isLt
  have hw := bit w
  refine one rfl rfl ?_
  simp only [pack1, pack2, pack3, pack4]; omega

theorem remu (d : XReg) (a : XReg) (b : XReg) (w : Bool) : Statement (.remu d a b w) := by
  have hd := d.isLt
  have ha := a.isLt
  have hb := b.isLt
  have hw := bit w
  refine one rfl rfl ?_
  simp only [pack1, pack2, pack3, pack4]; omega

theorem min (d : XReg) (a : XReg) (b : XReg) (w : Bool) : Statement (.min d a b w) := by
  have hd := d.isLt
  have ha := a.isLt
  have hb := b.isLt
  have hw := bit w
  refine one rfl rfl ?_
  simp only [pack1, pack2, pack3, pack4]; omega

theorem max (d : XReg) (a : XReg) (b : XReg) (w : Bool) : Statement (.max d a b w) := by
  have hd := d.isLt
  have ha := a.isLt
  have hb := b.isLt
  have hw := bit w
  refine one rfl rfl ?_
  simp only [pack1, pack2, pack3, pack4]; omega

theorem minu (d : XReg) (a : XReg) (b : XReg) (w : Bool) : Statement (.minu d a b w) := by
  have hd := d.isLt
  have ha := a.isLt
  have hb := b.isLt
  have hw := bit w
  refine one rfl rfl ?_
  simp only [pack1, pack2, pack3, pack4]; omega

theorem maxu (d : XReg) (a : XReg) (b : XReg) (w : Bool) : Statement (.maxu d a b w) := by
  have hd := d.isLt
  have ha := a.isLt
  have hb := b.isLt
  have hw := bit w
  refine one rfl rfl ?_
  simp only [pack1, pack2, pack3, pack4]; omega

theorem adds (d : XReg) (a : XReg) (b : XReg) (w : Bool) : Statement (.adds d a b w) := by
  have hd := d.isLt
  have ha := a.isLt
  have hb := b.isLt
  have hw := bit w
  refine one rfl rfl ?_
  simp only [pack1, pack2, pack3, pack4]; omega

theorem subs (d : XReg) (a : XReg) (b : XReg) (w : Bool) : Statement (.subs d a b w) := by
  have hd := d.isLt
  have ha := a.isLt
  have hb := b.isLt
  have hw := bit w
  refine one rfl rfl ?_
  simp only [pack1, pack2, pack3, pack4]; omega

theorem clz (d : XReg) (a : XReg) (w : Bool) : Statement (.clz d a w) := by
  have hd := d.isLt
  have ha := a.isLt
  have hw := bit w
  refine one rfl rfl ?_
  simp only [pack1, pack2, pack3]; omega

theorem popc (d : XReg) (a : XReg) (w : Bool) : Statement (.popc d a w) := by
  have hd := d.isLt
  have ha := a.isLt
  have hw := bit w
  refine one rfl rfl ?_
  simp only [pack1, pack2, pack3]; omega

theorem sext (d : XReg) (a : XReg) (k : BitVec 2) : Statement (.sext d a k) := by
  have hd := d.isLt
  have ha := a.isLt
  have hk := k.isLt
  refine one rfl rfl ?_
  simp only [pack1, pack2, pack3]; omega

theorem zext (d : XReg) (a : XReg) (k : BitVec 2) : Statement (.zext d a k) := by
  have hd := d.isLt
  have ha := a.isLt
  have hk := k.isLt
  refine one rfl rfl ?_
  simp only [pack1, pack2, pack3]; omega

theorem addi (d : XReg) (a : XReg) (i : BitVec 16) : Statement (.addi d a i) := by
  have hd := d.isLt
  have ha := a.isLt
  have hi := i.isLt
  refine one rfl rfl ?_
  simp only [pack1, pack2, pack3]; omega

theorem andi (d : XReg) (a : XReg) (i : BitVec 16) : Statement (.andi d a i) := by
  have hd := d.isLt
  have ha := a.isLt
  have hi := i.isLt
  refine one rfl rfl ?_
  simp only [pack1, pack2, pack3]; omega

theorem ori (d : XReg) (a : XReg) (i : BitVec 16) : Statement (.ori d a i) := by
  have hd := d.isLt
  have ha := a.isLt
  have hi := i.isLt
  refine one rfl rfl ?_
  simp only [pack1, pack2, pack3]; omega

theorem xori (d : XReg) (a : XReg) (i : BitVec 16) : Statement (.xori d a i) := by
  have hd := d.isLt
  have ha := a.isLt
  have hi := i.isLt
  refine one rfl rfl ?_
  simp only [pack1, pack2, pack3]; omega

theorem shli (d : XReg) (a : XReg) (w : Bool) (n : BitVec 6) : Statement (.shli d a w n) := by
  have hd := d.isLt
  have ha := a.isLt
  have hw := bit w
  have hn := n.isLt
  refine one rfl rfl ?_
  simp only [pack1, pack2, pack3, pack4]; omega

theorem shri (d : XReg) (a : XReg) (w : Bool) (n : BitVec 6) : Statement (.shri d a w n) := by
  have hd := d.isLt
  have ha := a.isLt
  have hw := bit w
  have hn := n.isLt
  refine one rfl rfl ?_
  simp only [pack1, pack2, pack3, pack4]; omega

theorem sari (d : XReg) (a : XReg) (w : Bool) (n : BitVec 6) : Statement (.sari d a w n) := by
  have hd := d.isLt
  have ha := a.isLt
  have hw := bit w
  have hn := n.isLt
  refine one rfl rfl ?_
  simp only [pack1, pack2, pack3, pack4]; omega

theorem roti (d : XReg) (a : XReg) (w : Bool) (n : BitVec 6) : Statement (.roti d a w n) := by
  have hd := d.isLt
  have ha := a.isLt
  have hw := bit w
  have hn := n.isLt
  refine one rfl rfl ?_
  simp only [pack1, pack2, pack3, pack4]; omega

theorem li (d : XReg) (i : BitVec 16) : Statement (.li d i) := by
  have hd := d.isLt
  have hi := i.isLt
  refine one rfl rfl ?_
  simp only [pack1, pack2]; omega

theorem lis (d : XReg) (i : BitVec 16) : Statement (.lis d i) := by
  have hd := d.isLt
  have hi := i.isLt
  refine one rfl rfl ?_
  simp only [pack1, pack2]; omega

theorem cmp (p : PReg) (a : XReg) (b : XReg) (c : Cond) (w : Bool) : Statement (.cmp p a b c w) := by
  have hp := p.isLt
  have ha := a.isLt
  have hb := b.isLt
  have hc := cond c
  have hw := bit w
  refine one rfl rfl ?_
  simp only [pack1, pack2, pack3, pack4, pack5]; omega

theorem cmpi (p : PReg) (a : XReg) (c : Cond) (i : BitVec 10) : Statement (.cmpi p a c i) := by
  have hp := p.isLt
  have ha := a.isLt
  have hc := cond c
  have hi := i.isLt
  refine one rfl rfl ?_
  simp only [pack1, pack2, pack3, pack4]; omega

theorem pand (d : PReg) (a : PReg) (b : PReg) : Statement (.pand d a b) := by
  have hd := d.isLt
  have ha := a.isLt
  have hb := b.isLt
  refine one rfl rfl ?_
  simp only [pack1, pack2, pack3]; omega

theorem por (d : PReg) (a : PReg) (b : PReg) : Statement (.por d a b) := by
  have hd := d.isLt
  have ha := a.isLt
  have hb := b.isLt
  refine one rfl rfl ?_
  simp only [pack1, pack2, pack3]; omega

theorem pxor (d : PReg) (a : PReg) (b : PReg) : Statement (.pxor d a b) := by
  have hd := d.isLt
  have ha := a.isLt
  have hb := b.isLt
  refine one rfl rfl ?_
  simp only [pack1, pack2, pack3]; omega

theorem pandn (d : PReg) (a : PReg) (b : PReg) : Statement (.pandn d a b) := by
  have hd := d.isLt
  have ha := a.isLt
  have hb := b.isLt
  refine one rfl rfl ?_
  simp only [pack1, pack2, pack3]; omega

theorem pnot (d : PReg) (a : PReg) : Statement (.pnot d a) := by
  have hd := d.isLt
  have ha := a.isLt
  refine one rfl rfl ?_
  simp only [pack1, pack2]; omega

theorem pmov (d : PReg) (a : PReg) : Statement (.pmov d a) := by
  have hd := d.isLt
  have ha := a.isLt
  refine one rfl rfl ?_
  simp only [pack1, pack2]; omega

theorem pset (d : PReg) : Statement (.pset d) := by
  have hd := d.isLt
  refine one rfl rfl ?_
  simp only [pack1]; omega

theorem pclr (d : PReg) : Statement (.pclr d) := by
  have hd := d.isLt
  refine one rfl rfl ?_
  simp only [pack1]; omega

theorem sel (d : XReg) (a : XReg) (b : XReg) (p : PReg) : Statement (.sel d a b p) := by
  have hd := d.isLt
  have ha := a.isLt
  have hb := b.isLt
  have hp := p.isLt
  refine one rfl rfl ?_
  simp only [pack1, pack2, pack3, pack4]; omega

theorem br (o : BitVec 26) : Statement (.br o) := by
  have ho := o.isLt
  refine one rfl rfl ?_
  simp only [pack1]; omega

theorem brp (p : PReg) (n : Bool) (o : BitVec 18) : Statement (.brp p n o) := by
  have hp := p.isLt
  have hn := bit n
  have ho := o.isLt
  refine one rfl rfl ?_
  simp only [pack1, pack2, pack3]; omega

theorem call (o : BitVec 26) : Statement (.call o) := by
  have ho := o.isLt
  refine one rfl rfl ?_
  simp only [pack1]; omega

theorem jr (d : XReg) (a : XReg) : Statement (.jr d a) := by
  have hd := d.isLt
  have ha := a.isLt
  refine one rfl rfl ?_
  simp only [pack1, pack2]; omega

theorem lpset (l : Bool) (c : XReg) (e : BitVec 20) : Statement (.lpset l c e) := by
  have hl := bit l
  have hc := c.isLt
  have he := e.isLt
  refine one rfl rfl ?_
  simp only [pack1, pack2, pack3]; omega

theorem lpseti (l : Bool) (c : BitVec 13) (e : BitVec 12) : Statement (.lpseti l c e) := by
  have hl := bit l
  have hc := c.isLt
  have he := e.isLt
  refine one rfl rfl ?_
  simp only [pack1, pack2, pack3]; omega

theorem ld (d : XReg) (h : HReg) (i : XReg) (s : BitVec 2) (o : BitVec 10) : Statement (.ld d h i s o) := by
  have hd := d.isLt
  have hh := h.isLt
  have hi := i.isLt
  have hs := s.isLt
  have ho := o.isLt
  refine one rfl rfl ?_
  simp only [pack1, pack2, pack3, pack4, pack5]; omega

theorem st (d : XReg) (h : HReg) (i : XReg) (s : BitVec 2) (o : BitVec 10) : Statement (.st d h i s o) := by
  have hd := d.isLt
  have hh := h.isLt
  have hi := i.isLt
  have hs := s.isLt
  have ho := o.isLt
  refine one rfl rfl ?_
  simp only [pack1, pack2, pack3, pack4, pack5]; omega

theorem sld (d : XReg) (a : XReg) (s : BitVec 2) (o : BitVec 14) : Statement (.sld d a s o) := by
  have hd := d.isLt
  have ha := a.isLt
  have hs := s.isLt
  have ho := o.isLt
  refine one rfl rfl ?_
  simp only [pack1, pack2, pack3, pack4]; omega

theorem sst (d : XReg) (a : XReg) (s : BitVec 2) (o : BitVec 14) : Statement (.sst d a s o) := by
  have hd := d.isLt
  have ha := a.isLt
  have hs := s.isLt
  have ho := o.isLt
  refine one rfl rfl ?_
  simp only [pack1, pack2, pack3, pack4]; omega

theorem atom (d : XReg) (h : HReg) (i : XReg) (v : XReg) (o : AtomOp) (s : Bool) : Statement (.atom d h i v o s) := by
  have hd := d.isLt
  have hh := h.isLt
  have hi := i.isLt
  have hv := v.isLt
  have ho := atomOp o
  have hs := bit s
  refine one rfl rfl ?_
  simp only [pack1, pack2, pack3, pack4, pack5, pack6]; omega

theorem acas (d : XReg) (h : HReg) (i : XReg) (n : XReg) (s : Bool) : Statement (.acas d h i n s) := by
  have hd := d.isLt
  have hh := h.isLt
  have hi := i.isLt
  have hn := n.isLt
  have hs := bit s
  refine one rfl rfl ?_
  simp only [pack1, pack2, pack3, pack4, pack5]; omega

theorem fxadd (v : XReg) (h : HReg) (i : XReg) (s : BitVec 9) : Statement (.fxadd v h i s) := by
  have hv := v.isLt
  have hh := h.isLt
  have hi := i.isLt
  have hs := s.isLt
  refine one rfl rfl ?_
  simp only [pack1, pack2, pack3, pack4]; omega

theorem fxrd (v : XReg) (h : HReg) (i : XReg) (s : BitVec 9) : Statement (.fxrd v h i s) := by
  have hv := v.isLt
  have hh := h.isLt
  have hi := i.isLt
  have hs := s.isLt
  refine one rfl rfl ?_
  simp only [pack1, pack2, pack3, pack4]; omega

theorem xlate (h : HReg) (a : XReg) (p : BitVec 4) : Statement (.xlate h a p) := by
  have hh := h.isLt
  have ha := a.isLt
  have hp := p.isLt
  refine one rfl rfl ?_
  simp only [pack1, pack2, pack3]; omega

theorem hrel (h : HReg) : Statement (.hrel h) := by
  have hh := h.isLt
  refine one rfl rfl ?_
  simp only [pack1]; omega

theorem hchk (s : HReg) (p : PReg) : Statement (.hchk s p) := by
  have hs := s.isLt
  have hp := p.isLt
  refine one rfl rfl ?_
  simp only [pack1, pack2]; omega

theorem hmov (h : HReg) (s : HReg) : Statement (.hmov h s) := by
  have hh := h.isLt
  have hs := s.isLt
  refine one rfl rfl ?_
  simp only [pack1, pack2]; omega

theorem qpush (d : XReg) (c : Bool) (i : BitVec 4) : Statement (.qpush d c i) := by
  have hd := d.isLt
  have hc := bit c
  have hi := i.isLt
  refine one rfl rfl ?_
  simp only [pack1, pack2, pack3]; omega

theorem qpop (d : XReg) (c : Bool) (i : BitVec 4) : Statement (.qpop d c i) := by
  have hd := d.isLt
  have hc := bit c
  have hi := i.isLt
  refine one rfl rfl ?_
  simp only [pack1, pack2, pack3]; omega

theorem qpeek (d : XReg) (c : Bool) (i : BitVec 4) : Statement (.qpeek d c i) := by
  have hd := d.isLt
  have hc := bit c
  have hi := i.isLt
  refine one rfl rfl ?_
  simp only [pack1, pack2, pack3]; omega

theorem qclose (i : BitVec 4) : Statement (.qclose i) := by
  have hi := i.isLt
  refine one rfl rfl ?_
  simp only [pack1]; omega

theorem qwaitData (c : Bool) (i : BitVec 4) (l : BitVec 19) : Statement (.qwaitData c i l) := by
  have hc := bit c
  have hi := i.isLt
  have hl := l.isLt
  refine one rfl rfl ?_
  simp only [pack1, pack2, pack3]; omega

theorem qwaitRoom (c : Bool) (i : BitVec 4) (l : BitVec 19) : Statement (.qwaitRoom c i l) := by
  have hc := bit c
  have hi := i.isLt
  have hl := l.isLt
  refine one rfl rfl ?_
  simp only [pack1, pack2, pack3]; omega

theorem sdesc (z : ZReg) (x : XReg) : Statement (.sdesc z x) := by
  have hz := z.isLt
  have hx := x.isLt
  refine one rfl rfl ?_
  simp only [pack1, pack2]; omega

theorem sset (z : ZReg) (f : BitVec 4) (x : XReg) : Statement (.sset z f x) := by
  have hz := z.isLt
  have hf := f.isLt
  have hx := x.isLt
  refine one rfl rfl ?_
  simp only [pack1, pack2, pack3]; omega

theorem sbind (z : ZReg) (q : BitVec 4) : Statement (.sbind z q) := by
  have hz := z.isLt
  have hq := q.isLt
  refine one rfl rfl ?_
  simp only [pack1, pack2]; omega

theorem sunbind (z : ZReg) : Statement (.sunbind z) := by
  have hz := z.isLt
  refine one rfl rfl ?_
  simp only [pack1]; omega

theorem sstat (z : ZReg) (d : XReg) : Statement (.sstat z d) := by
  have hz := z.isLt
  have hd := d.isLt
  refine one rfl rfl ?_
  simp only [pack1, pack2]; omega

theorem phase  : Statement (.phase) := by
  refine one rfl rfl ?_
  decide

theorem rvinit (a : BitVec 5) (c : BitVec 12) : Statement (.rvinit a c) := by
  have ha := a.isLt
  have hc := c.isLt
  refine one rfl rfl ?_
  simp only [pack1, pack2]; omega

theorem rvarr (a : BitVec 5) : Statement (.rvarr a) := by
  have ha := a.isLt
  refine one rfl rfl ?_
  simp only [pack1]; omega

theorem rvwait (a : BitVec 5) : Statement (.rvwait a) := by
  have ha := a.isLt
  refine one rfl rfl ?_
  simp only [pack1]; omega

theorem cfence  : Statement (.cfence) := by
  refine one rfl rfl ?_
  decide

theorem mark (b : XReg) (e : BitVec 6) : Statement (.mark b e) := by
  have hb := b.isLt
  have he := e.isLt
  refine one rfl rfl ?_
  simp only [pack1, pack2]; omega

theorem mjoin (a : XReg) (b : XReg) (j : BitVec 3) : Statement (.mjoin a b j) := by
  have ha := a.isLt
  have hb := b.isLt
  have hj := j.isLt
  refine one rfl rfl ?_
  simp only [pack1, pack2, pack3]; omega

theorem mwait (a : XReg) (b : XReg) (j : BitVec 3) : Statement (.mwait a b j) := by
  have ha := a.isLt
  have hb := b.isLt
  have hj := j.isLt
  refine one rfl rfl ?_
  simp only [pack1, pack2, pack3]; omega

theorem step  : Statement (.step) := by
  refine one rfl rfl ?_
  decide

theorem ec (c : BitVec 4) (i : BitVec 6) (p : BitVec 32) : Statement (.ec c i p) := by
  have hc := c.isLt
  have hi := i.isLt
  have hp := p.isLt
  refine ⟨fun w hm => ?_, .inr (.inr rfl)⟩
  have hm : w ∈ [pack2 0x84000000 c.toNat 22 i.toNat 16, p.toNat] := hm
  simp only [List.mem_cons, List.not_mem_nil, or_false] at hm
  rcases hm with rfl | rfl
  · simp only [pack1, pack2]; omega
  · exact hp

theorem ecr (c : BitVec 4) (i : BitVec 6) (s : XReg) : Statement (.ecr c i s) := by
  have hc := c.isLt
  have hi := i.isLt
  have hs := s.isLt
  refine one rfl rfl ?_
  simp only [pack1, pack2, pack3]; omega

theorem tload (c : BitVec 3) (a : XReg) : Statement (.tload c a) := by
  have hc := c.isLt
  have ha := a.isLt
  refine one rfl rfl ?_
  simp only [pack1, pack2]; omega

theorem tdiff (c : BitVec 3) (a : XReg) : Statement (.tdiff c a) := by
  have hc := c.isLt
  have ha := a.isLt
  refine one rfl rfl ?_
  simp only [pack1, pack2]; omega

theorem tswap (c : BitVec 3) : Statement (.tswap c) := by
  have hc := c.isLt
  refine one rfl rfl ?_
  simp only [pack1]; omega

theorem tcrc (c : BitVec 3) (a : XReg) : Statement (.tcrc c a) := by
  have hc := c.isLt
  have ha := a.isLt
  refine one rfl rfl ?_
  simp only [pack1, pack2]; omega

theorem tret  : Statement (.tret) := by
  refine one rfl rfl ?_
  decide

theorem rdsys (d : XReg) (i : BitVec 11) : Statement (.rdsys d i) := by
  have hd := d.isLt
  have hi := i.isLt
  refine one rfl rfl ?_
  simp only [pack1, pack2]; omega

theorem l2ctlWrite (a : XReg) : Statement (.l2ctlWrite a) := by
  have ha := a.isLt
  refine one rfl rfl ?_
  simp only [pack1]; omega

theorem nringWrite (a : XReg) : Statement (.nringWrite a) := by
  have ha := a.isLt
  refine one rfl rfl ?_
  simp only [pack1]; omega

theorem frpoolWrite (a : XReg) : Statement (.frpoolWrite a) := by
  have ha := a.isLt
  refine one rfl rfl ?_
  simp only [pack1]; omega

theorem stepholdWrite (a : XReg) : Statement (.stepholdWrite a) := by
  have ha := a.isLt
  refine one rfl rfl ?_
  simp only [pack1]; omega

theorem wtblWrite (a : XReg) (n : BitVec 4) : Statement (.wtblWrite a n) := by
  have ha := a.isLt
  have hn := n.isLt
  refine one rfl rfl ?_
  simp only [pack1, pack2]; omega

theorem wrsys (a : XReg) (i : BitVec 11) : Statement (.wrsys a i) := by
  have ha := a.isLt
  have hi := i.isLt
  refine one rfl rfl ?_
  simp only [pack1, pack2]; omega

theorem ldovf (a : XReg) : Statement (.ldovf a) := by
  have ha := a.isLt
  refine one rfl rfl ?_
  simp only [pack1]; omega

theorem csave (d : XReg) (a : XReg) : Statement (.csave d a) := by
  have hd := d.isLt
  have ha := a.isLt
  refine one rfl rfl ?_
  simp only [pack1, pack2]; omega

theorem crest (d : XReg) (a : XReg) : Statement (.crest d a) := by
  have hd := d.isLt
  have ha := a.isLt
  refine one rfl rfl ?_
  simp only [pack1, pack2]; omega

theorem shoot (d : XReg) (a : XReg) (s : Bool) : Statement (.shoot d a s) := by
  have hd := d.isLt
  have ha := a.isLt
  have hs := bit s
  refine one rfl rfl ?_
  simp only [pack1, pack2, pack3]; omega

theorem plock (d : XReg) (a : XReg) : Statement (.plock d a) := by
  have hd := d.isLt
  have ha := a.isLt
  refine one rfl rfl ?_
  simp only [pack1, pack2]; omega

theorem pinq (d : XReg) (a : XReg) : Statement (.pinq d a) := by
  have hd := d.isLt
  have ha := a.isLt
  refine one rfl rfl ?_
  simp only [pack1, pack2]; omega

theorem punlock (d : XReg) (a : XReg) : Statement (.punlock d a) := by
  have hd := d.isLt
  have ha := a.isLt
  refine one rfl rfl ?_
  simp only [pack1, pack2]; omega

theorem vmap (d : XReg) (a : XReg) : Statement (.vmap d a) := by
  have hd := d.isLt
  have ha := a.isLt
  refine one rfl rfl ?_
  simp only [pack1, pack2]; omega

theorem kill (d : XReg) (a : XReg) : Statement (.kill d a) := by
  have hd := d.isLt
  have ha := a.isLt
  refine one rfl rfl ?_
  simp only [pack1, pack2]; omega

theorem idle (d : XReg) (a : XReg) : Statement (.idle d a) := by
  have hd := d.isLt
  have ha := a.isLt
  refine one rfl rfl ?_
  simp only [pack1, pack2]; omega

theorem glaunch (d : XReg) (a : XReg) : Statement (.glaunch d a) := by
  have hd := d.isLt
  have ha := a.isLt
  refine one rfl rfl ?_
  simp only [pack1, pack2]; omega

theorem gkill (d : XReg) (a : XReg) : Statement (.gkill d a) := by
  have hd := d.isLt
  have ha := a.isLt
  refine one rfl rfl ?_
  simp only [pack1, pack2]; omega

theorem gstat (d : XReg) (a : XReg) : Statement (.gstat d a) := by
  have hd := d.isLt
  have ha := a.isLt
  refine one rfl rfl ?_
  simp only [pack1, pack2]; omega

theorem schld (d : XReg) (a : XReg) : Statement (.schld d a) := by
  have hd := d.isLt
  have ha := a.isLt
  refine one rfl rfl ?_
  simp only [pack1, pack2]; omega

theorem schgo (d : XReg) (a : XReg) : Statement (.schgo d a) := by
  have hd := d.isLt
  have ha := a.isLt
  refine one rfl rfl ?_
  simp only [pack1, pack2]; omega

theorem schhalt (d : XReg) : Statement (.schhalt d) := by
  have hd := d.isLt
  refine one rfl rfl ?_
  simp only [pack1]; omega

theorem schstat (d : XReg) : Statement (.schstat d) := by
  have hd := d.isLt
  refine one rfl rfl ?_
  simp only [pack1]; omega

theorem slotpost (a : XReg) (b : XReg) : Statement (.slotpost a b) := by
  have ha := a.isLt
  have hb := b.isLt
  refine one rfl rfl ?_
  simp only [pack1, pack2]; omega

theorem waitiExpiry (r : SRef) : Statement (.waitiExpiry r) := none rfl

theorem xlateDeliver (r : SRef) (h : Nat) : Statement (.xlateDeliver r h) := none rfl

theorem qtimeout (r : SRef) : Statement (.qtimeout r) := none rfl

theorem loadStreamEntry (r : SRef) (z : Nat) : Statement (.loadStreamEntry r z) := none rfl

theorem storeStreamDrain (r : SRef) (z : Nat) : Statement (.storeStreamDrain r z) := none rfl

theorem mjtimeout (r : SRef) : Statement (.mjtimeout r) := none rfl

theorem markerRetire (r : SRef) (e : Nat) : Statement (.markerRetire r e) := none rfl

theorem idleExpiry (r : SRef) : Statement (.idleExpiry r) := none rfl

theorem bundleIssue (h : BitVec 32) (m : BitVec 32) (v : BitVec 32) (x : BitVec 32) : Statement (.bundleIssue h m v x) := by
  refine ⟨fun w hm => ?_, .inr (.inl rfl)⟩
  have hm : w ∈ [h.toNat, m.toNat, v.toNat, x.toNat] := hm
  simp only [List.mem_cons, List.not_mem_nil, or_false] at hm
  rcases hm with rfl | rfl | rfl | rfl <;> exact BitVec.isLt _

theorem pendingWriteLand (r : SRef) : Statement (.pendingWriteLand r) := none rfl

theorem asyncTrap (r : SRef) : Statement (.asyncTrap r) := none rfl

theorem strandWaitRelease (r : SRef) : Statement (.strandWaitRelease r) := none rfl

theorem memoryAccessComplete (id : Nat) : Statement (.memoryAccessComplete id) := none rfl

theorem phaseBoundary (vr : Nat) : Statement (.phaseBoundary vr) := none rfl

theorem quiescentCommit (vr : Nat) : Statement (.quiescentCommit vr) := none rfl

theorem stepArrival (rank : JobRank) (held : Bool) : Statement (.stepArrival rank held) := none rfl

theorem stepCollectiveComplete (job : Nat) : Statement (.stepCollectiveComplete job) := none rfl

theorem boundaryFlitSend (group : Nat) : Statement (.boundaryFlitSend group) := none rfl

theorem boundaryResult (group : Nat) (v : Nat) : Statement (.boundaryResult group v) := none rfl

theorem gangPlace (slot : Nat) : Statement (.gangPlace slot) := none rfl

theorem gangStart (vr : Nat) (gang : Nat) : Statement (.gangStart vr gang) := none rfl

theorem gangComplete (vr : Nat) (gang : Nat) : Statement (.gangComplete vr gang) := none rfl

theorem priorityAging (vr : Nat) (gang : Nat) : Statement (.priorityAging vr gang) := none rfl

theorem gangHalt (vr : Nat) (gang : Nat) : Statement (.gangHalt vr gang) := none rfl

theorem hostQueuePost (slot : Nat) : Statement (.hostQueuePost slot) := none rfl

theorem hqbaseWrite (slot : Nat) (v : BitVec 64) : Statement (.hqbaseWrite slot v) := none rfl

theorem hqTailWrite (slot : Nat) (v : BitVec 16) : Statement (.hqTailWrite slot v) := none rfl

theorem hqEnable (slot : Nat) (v : BitVec 64) : Statement (.hqEnable slot v) := none rfl

theorem hqTeardown (slot : Nat) (kill : Bool) : Statement (.hqTeardown slot kill) := none rfl

theorem hqErrClear (slot : Nat) : Statement (.hqErrClear slot) := none rfl

theorem schedHeadIssue (vr : Nat) : Statement (.schedHeadIssue vr) := none rfl

theorem copyCommand (id : Nat) : Statement (.copyCommand id) := none rfl

theorem copyRetire (id : Nat) : Statement (.copyRetire id) := none rfl

theorem collectiveCommand (id : Nat) : Statement (.collectiveCommand id) := none rfl

theorem collOpStart (id : Nat) (op : Nat) : Statement (.collOpStart id op) := none rfl

theorem collOpComplete (id : Nat) (op : Nat) : Statement (.collOpComplete id op) := none rfl

theorem treeNodeCombine (key : TreeKey) (level : Nat) (k : Nat) : Statement (.treeNodeCombine key level k) := none rfl

theorem migrationCommand (id : Nat) : Statement (.migrationCommand id) := none rfl

theorem migrationCommit (id : Nat) : Statement (.migrationCommit id) := none rfl

theorem granaryGather (g : GatherMsg) : Statement (.granaryGather g) := none rfl

theorem engineReset (e : Nat) (slot : Nat) : Statement (.engineReset e slot) := none rfl

theorem gradientBlockArrive (b : GBlock) : Statement (.gradientBlockArrive b) := none rfl

theorem granaryBlockApply (job : Nat) (shard : Nat) (block : Nat) : Statement (.granaryBlockApply job shard block) := none rfl

theorem granaryStepClose (job : Nat) (shard : Nat) : Statement (.granaryStepClose job shard) := none rfl

theorem stepCloseTimeout (job : Nat) (shard : Nat) : Statement (.stepCloseTimeout job shard) := none rfl

theorem reg (job : Nat) (shard : Nat) (a : BitVec 64) (b : BitVec 64) : Statement (.reg job shard a b) := none rfl

theorem drop (job : Nat) (shard : Nat) (a : BitVec 64) (b : BitVec 64) : Statement (.drop job shard a b) := none rfl

theorem rule (job : Nat) (shard : Nat) (a : BitVec 64) (b : BitVec 64) : Statement (.rule job shard a b) := none rfl

theorem hyper (job : Nat) (shard : Nat) (a : BitVec 64) (b : BitVec 64) : Statement (.hyper job shard a b) := none rfl

theorem promote (job : Nat) (shard : Nat) (a : BitVec 64) (b : BitVec 64) : Statement (.promote job shard a b) := none rfl

theorem seed (job : Nat) (shard : Nat) (a : BitVec 64) (b : BitVec 64) : Statement (.seed job shard a b) := none rfl

theorem snap (job : Nat) (shard : Nat) (a : BitVec 64) (b : BitVec 64) : Statement (.snap job shard a b) := none rfl

theorem replay (job : Nat) (shard : Nat) (a : BitVec 64) (b : BitVec 64) : Statement (.replay job shard a b) := none rfl

theorem granaryUnknownCode (code : Nat) (job : Nat) (shard : Nat) : Statement (.granaryUnknownCode code job shard) := none rfl

theorem seedSnapshotInstall (rec : ShardRec) (state : List Byte) (served : List Byte) : Statement (.seedSnapshotInstall rec state served) := none rfl

theorem seedConfirm (job : Nat) (shard : Nat) : Statement (.seedConfirm job shard) := none rfl

theorem granaryKeeperFail (dom : Nat) (pkg : Nat) (job : Nat) (shard : Nat) : Statement (.granaryKeeperFail dom pkg job shard) := none rfl

theorem remoteLoad (q : DHdr) (tgt : RTo) (n : Nat) : Statement (.remoteLoad q tgt n) := none rfl

theorem loadData (q : DHdr) (bytes : List Byte) : Statement (.loadData q bytes) := none rfl

theorem postedWrite (q : DHdr) (tgt : RTo) (core : Nat) (strand : StrandId) (order : Nat) (bytes : List Byte) : Statement (.postedWrite q tgt core strand order bytes) := none rfl

theorem writeAcknowledgement (q : DHdr) : Statement (.writeAcknowledgement q) := none rfl

theorem atomic (q : DHdr) (addr : Nat) (op : RAtom) : Statement (.atomic q addr op) := none rfl

theorem atomicResult (q : DHdr) (old : BitVec 64) : Statement (.atomicResult q old) := none rfl

theorem keepWaitingNotice (q : DHdr) : Statement (.keepWaitingNotice q) := none rfl

theorem refusal (q : DHdr) (detail : Nat) : Statement (.refusal q detail) := none rfl

theorem scheduleArrival (q : DHdr) (grad : Bool) (mb : Nat) (step : BitVec 64) : Statement (.scheduleArrival q grad mb step) := none rfl

theorem slotPost (q : DHdr) (grad : Bool) (count : Nat) (step : BitVec 64) : Statement (.slotPost q grad count step) := none rfl

theorem transferAck (q : DHdr) (fid : Nat) (xfer : Nat) : Statement (.transferAck q fid xfer) := none rfl

theorem transferNack (q : DHdr) (fid : Nat) (xfer : Nat) : Statement (.transferNack q fid xfer) := none rfl

theorem placementUpdate (d : Demand) : Statement (.placementUpdate d) := none rfl

theorem gather (q : DHdr) (g : GatherMsg) : Statement (.gather q g) := none rfl

theorem blockAcknowledgement (q : DHdr) (job : Nat) (shard : Nat) (block : Nat) (step : Nat) : Statement (.blockAcknowledgement q job shard block step) := none rfl

theorem frameStateSet (index : Nat) (st : BitVec 8) : Statement (.frameStateSet index st) := none rfl

theorem faultQueueResend (id : Nat) : Statement (.faultQueueResend id) := none rfl

theorem keepWaitingTimer (q : DHdr) : Statement (.keepWaitingTimer q) := none rfl

theorem remoteTimeout (id : Nat) : Statement (.remoteTimeout id) := none rfl

theorem furrowDepart (fid : Nat) : Statement (.furrowDepart fid) := none rfl

theorem scheduledFlitArrive (input : Nat) (f : Flit) : Statement (.scheduledFlitArrive input f) := none rfl

theorem flitForward (link : Nat) : Statement (.flitForward link) := none rfl

theorem transferFail (fid : Nat) (xfer : Nat) : Statement (.transferFail fid xfer) := none rfl

theorem headlandSlot (link : Nat) : Statement (.headlandSlot link) := none rfl

theorem trainingRecord (link : Nat) (rec : BitVec 128) : Statement (.trainingRecord link rec) := none rfl

theorem linkLossOfLock (link : Nat) : Statement (.linkLossOfLock link) := none rfl

theorem collectiveChunk (f : FrameHdr) (slot : Nat) (bytes : List Byte) : Statement (.collectiveChunk f slot bytes) := none rfl

theorem frameAck (f : FrameHdr) : Statement (.frameAck f) := none rfl

theorem frameNack (f : FrameHdr) (gap : Nat) : Statement (.frameNack f gap) := none rfl

theorem migrationData (f : FrameHdr) (part : MigPart) : Statement (.migrationData f part) := none rfl

theorem granaryBlock (f : FrameHdr) (b : GBlock) : Statement (.granaryBlock f b) := none rfl

theorem demandTrafficFrame (f : FrameHdr) (d : Demand) : Statement (.demandTrafficFrame f d) := none rfl

theorem transportResend (port : Nat) (dom : Nat) (pkg : Nat) : Statement (.transportResend port dom pkg) := none rfl

theorem partition  : Statement (.partition) := none rfl

theorem loadjob (plan : LoadPlan) : Statement (.loadjob plan) := none rfl

theorem endjob (job : Nat) : Statement (.endjob job) := none rfl

theorem reset  : Statement (.reset) := none rfl

theorem supervisorMessage  : Statement (.supervisorMessage) := none rfl

theorem mailboxUnknownCode  : Statement (.mailboxUnknownCode) := none rfl

theorem hostBarWrite (off : Nat) (v : BitVec 64) : Statement (.hostBarWrite off v) := none rfl

theorem spdmRequest (bytes : List Byte) : Statement (.spdmRequest bytes) := none rfl

theorem managementRequest (bytes : List Byte) : Statement (.managementRequest bytes) := none rfl

theorem powerGood  : Statement (.powerGood) := none rfl

theorem bringupStage (e : StageEnd) : Statement (.bringupStage e) := none rfl

theorem powerLimit (slots : BitVec 16) : Statement (.powerLimit slots) := none rfl

theorem eccUncorrectable (w : EccSite) : Statement (.eccUncorrectable w) := none rfl

theorem stackFailure (slot : Nat) : Statement (.stackFailure slot) := none rfl

theorem sptrootWrite (part : Nat) (v : BitVec 64) : Statement (.sptrootWrite part v) := none rfl

theorem supervisorShoot (part : Nat) (va : BitVec 64) (large : Bool) : Statement (.supervisorShoot part va large) := none rfl

theorem furrowTableLoad (t : FurrowLoad) : Statement (.furrowTableLoad t) := none rfl

theorem graphLoad (vr : Nat) (slot : Nat) (header : BitVec 128) (trees : List (BitVec 128)) (ops : List (BitVec 256)) : Statement (.graphLoad vr slot header trees ops) := none rfl

theorem serviceRequest (r : SRef) : Statement (.serviceRequest r) := none rfl

theorem atomicPermit (r : SRef) (p : Permit) : Statement (.atomicPermit r p) := none rfl

theorem commit (r : SRef) (frames : List Nat) : Statement (.commit r frames) := none rfl

theorem serviceReply (r : SRef) : Statement (.serviceReply r) := none rfl

theorem bubbleCycle (vr : Nat) : Statement (.bubbleCycle vr) := none rfl

theorem noticeWrite  : Statement (.noticeWrite) := none rfl

theorem eccCorrected  : Statement (.eccCorrected) := none rfl

theorem moduleFault  : Statement (.moduleFault) := none rfl

end Sys2Proof.Laws.Words
end

