-- ==== Sys2Proof/Tests/Slice0.lean ====
section
/-! SUPPORT. Tests: the well-formedness check, the decoder on words written out from the encodings of the spec, witnesses that the
hypotheses of the statements can be met, and single steps whose results the spec gives. -/

set_option Elab.async false

namespace Sys2Proof.Tests

open Sys2Proof Sys2Proof.Machine

/-! ### States to test on -/

/-- A rank with one gang of one core whose L is acting at 0x0040_0000. -/
def atL : State := { State.reset.withProgram with agenda := [], cur := firstStrand }

/-- The same with C or S acting. -/
def atC : State := { atL with cur := { firstStrand with strand := .c } }
def atS : State := { atL with cur := { firstStrand with strand := .s } }

/-- The acting strand changed; some of its registers set. -/
def withStrand (s : State) (f : Strand → Strand) : State := s.modStrand s.cur f
def withRegs (s : State) (l : List (XReg × Word)) : State :=
  withStrand s fun st => l.foldl (fun st p => st.wx p.1 p.2) st
def withCore (s : State) (f : Core → Core) : State := s.modCore s.cur f
def withRank (s : State) (f : Rank → Rank) : State := s.modRank 0 f
def withGang (s : State) (f : Gang → Gang) : State := s.modGang 0 1 f
def withSlot (s : State) (f : Slot → Slot) : State := s.modSlot 0 f

/-- The acting strand at supervisor privilege with the rank selected. -/
def atSup : State := withStrand atL fun st => { st with sup := true }

/-- What holds of the next state. -/
def next (o : Host.Outcome State Fault Refusal) (p : State → Bool) : Bool := match o with
  | .next t => p t
  | _ => false

/-- What holds of the acting strand, of its core, of its rank. -/
def ofStrand (s : State) (p : Strand → Bool) : Bool := (s.strand? s.cur).any p
def ofCore (s : State) (p : Core → Bool) : Bool := (s.core? s.cur).any p
def ofRank (s : State) (p : Rank → Bool) : Bool := (s.rank? s.cur.vr).any p
def ofGang (s : State) (p : Gang → Bool) : Bool := (s.gang? s.cur.vr s.cur.gang).any p

/-- A register of the acting strand after an instruction, and the cause of the trap that it took. -/
def reg (s : State) (i : Instr) (d : XReg) : Option Word := match exec i s with
  | .next t => (t.strand? t.cur).map fun st => st.rx d
  | _ => none
def trapOf (s : State) (i : Instr) : Option (Word × Word) := match exec i (withStrand s fun st => { st with tvec := 0x1000 }) with
  | .next t => if t.trapped then (t.strand? t.cur).map fun st => (st.bank1.tcause, st.bank1.tval) else none
  | _ => none
def pcAfter (s : State) (i : Instr) : Option Word := match exec i s with
  | .next t => (t.strand? t.cur).map fun st => st.pc
  | _ => none

/-! ### Well-formedness: an ill-formed term for each check -/

theorem test_wf_loopRegister : ¬ (Instr.loopRegisterWrite 1 6).WellFormed := by simp [Instr.WellFormed]
theorem test_wf_wrctl : ¬ (Instr.wrctl 1 0x00A).WellFormed ∧ ¬ (Instr.wrctl 1 0x009).WellFormed ∧ ¬ (Instr.wrctl 1 0x015).WellFormed ∧
    ¬ (Instr.wrctl 1 0x07F).WellFormed ∧ ¬ (Instr.wrctl 1 0x030).WellFormed := by
  simp [Instr.WellFormed, wrctlPlain]
theorem test_wf_ext : ¬ (Instr.sext 1 2 3).WellFormed ∧ ¬ (Instr.zext 1 2 3).WellFormed := by simp [Instr.WellFormed]
theorem test_wf_shiftImm : ¬ (Instr.shli 1 2 true 32).WellFormed ∧ ¬ (Instr.shri 1 2 true 32).WellFormed ∧
    ¬ (Instr.sari 1 2 true 63).WellFormed ∧ ¬ (Instr.roti 1 2 true 32).WellFormed := by simp [Instr.WellFormed]
theorem test_wf_pred : ¬ (Instr.cmp 96 1 2 .eq false).WellFormed ∧ ¬ (Instr.cmpi 96 1 .eq 0).WellFormed ∧
    ¬ (Instr.pand 1 96 2).WellFormed ∧ ¬ (Instr.por 1 2 96).WellFormed ∧ ¬ (Instr.pxor 127 1 2).WellFormed ∧
    ¬ (Instr.pandn 96 1 2).WellFormed ∧ ¬ (Instr.pnot 1 96).WellFormed ∧ ¬ (Instr.pmov 96 1).WellFormed ∧
    ¬ (Instr.pset 96).WellFormed ∧ ¬ (Instr.pclr 96).WellFormed ∧ ¬ (Instr.sel 1 2 3 96).WellFormed ∧
    ¬ (Instr.brp 96 false 0).WellFormed ∧ ¬ (Instr.hchk 1 96).WellFormed := by simp [Instr.WellFormed]
theorem test_wf_xlate : ¬ (Instr.xlate 1 2 0).WellFormed := by simp [Instr.WellFormed]
theorem test_wf_rendezvous : ¬ (Instr.rvinit 24 1).WellFormed ∧ ¬ (Instr.rvinit 0 0).WellFormed ∧ ¬ (Instr.rvinit 0 513).WellFormed ∧
    ¬ (Instr.rvarr 24).WellFormed ∧ ¬ (Instr.rvwait 31).WellFormed := by simp [Instr.WellFormed]
theorem test_wf_mark : ¬ (Instr.mark 1 37).WellFormed := by simp [Instr.WellFormed]
theorem test_wf_engine : ¬ (Instr.ec 0 32 0).WellFormed ∧ ¬ (Instr.ec 1 1 0).WellFormed ∧ ¬ (Instr.ecr 4 0 1).WellFormed := by
  simp [Instr.WellFormed, engineNamed]
theorem test_wf_template : ¬ (Instr.tload 4 1).WellFormed ∧ ¬ (Instr.tdiff 7 1).WellFormed ∧ ¬ (Instr.tswap 4).WellFormed ∧
    ¬ (Instr.tcrc 4 1).WellFormed := by simp [Instr.WellFormed]
theorem test_wf_wrsys : ¬ (Instr.wrsys 1 0x00A).WellFormed ∧ ¬ (Instr.wrsys 1 0x010).WellFormed ∧ ¬ (Instr.wrsys 1 0x045).WellFormed ∧
    ¬ (Instr.wrsys 1 0x047).WellFormed ∧ ¬ (Instr.wrsys 1 0x05F).WellFormed := by simp [Instr.WellFormed, wrsysPlain]

/-! ### Decoding words written out from the encoding tables (06 R136 to R144) -/

theorem test_decode_misc : decodeWord 0x00005000 0 = some .exit ∧ decodeWord (0x6000 + 0x123) 0 = some (.trap 0x123) ∧
    decodeWord (0x7000 + 7) 0 = some (.waiti 7) ∧ decodeWord (2 * 4096 + 5 * 2 ^ 21 + 0x008) 0 = some (.rdctl 5 0x008) ∧
    decodeWord (3 * 4096 + 6 * 2 ^ 16 + 0x00A) 0 = some (.shapeWrite 6) ∧
    decodeWord (3 * 4096 + 6 * 2 ^ 16 + 0x020) 0 = some (.wrctl 6 0x020) := by decide +kernel
theorem test_decode_alu : decodeWord (0x01 * 2 ^ 26 + 1 * 2 ^ 21 + 2 * 2 ^ 16 + 3 * 2 ^ 11 + 0xA) 0 = some (.mul 1 2 3 false) ∧
    decodeWord (0x01 * 2 ^ 26 + 31 * 2 ^ 21 + 2 * 2 ^ 16 + 3 * 2 ^ 11 + 2 ^ 6 + 0x10) 0 = some (.remu 31 2 3 true) ∧
    decodeWord (0x01 * 2 ^ 26 + 1 * 2 ^ 21 + 2 * 2 ^ 16 + 0x17) 0 = some (.clz 1 2 false) := by decide +kernel
theorem test_decode_immediate : decodeWord (0x02 * 2 ^ 26 + 1 * 2 ^ 21 + 2 * 2 ^ 16 + 0x8000) 0 = some (.addi 1 2 0x8000) ∧
    decodeWord (0x05 * 2 ^ 26 + 1 * 2 ^ 21 + 2 * 2 ^ 16 + 0x1) 0 = some (.xori 1 2 1) ∧
    decodeWord (0x08 * 2 ^ 26 + 9 * 2 ^ 21 + 0xABCD) 0 = some (.lis 9 0xABCD) ∧
    decodeWord (0x06 * 2 ^ 26 + 1 * 2 ^ 21 + 2 * 2 ^ 16 + 3 * 2 ^ 14 + 63) 0 = some (.roti 1 2 false 63) := by decide +kernel
theorem test_decode_predicates : decodeWord (0x09 * 2 ^ 26 + 95 * 2 ^ 19 + 3 * 2 ^ 14 + 4 * 2 ^ 9 + 2 * 2 ^ 5 + 2 ^ 4) 0 = some (.cmp 95 3 4 .lt true) ∧
    decodeWord (0x0A * 2 ^ 26 + 1 * 2 ^ 19 + 3 * 2 ^ 14 + 1 * 2 ^ 10 + 0x3FF) 0 = some (.cmpi 1 3 .ne 0x3FF) ∧
    decodeWord (0x0B * 2 ^ 26 + 1 * 2 ^ 19 + 2 * 2 ^ 12 + 3 * 2 ^ 5 + 3 * 2) 0 = some (.pandn 1 2 3) ∧
    decodeWord (0x0C * 2 ^ 26 + 1 * 2 ^ 21 + 2 * 2 ^ 16 + 3 * 2 ^ 11 + 95 * 2 ^ 4) 0 = some (.sel 1 2 3 95) := by decide +kernel
theorem test_decode_control : decodeWord (0x0E * 2 ^ 26 + 5 * 2 ^ 19 + 2 ^ 18 + 7) 0 = some (.brp 5 true 7) ∧
    decodeWord (0x10 * 2 ^ 26 + 31 * 2 ^ 21 + 4 * 2 ^ 16) 0 = some (.jr 31 4) ∧
    decodeWord (0x11 * 2 ^ 26 + 2 ^ 25 + 6 * 2 ^ 20 + 9) 0 = some (.lpset true 6 9) ∧
    decodeWord (0x12 * 2 ^ 26 + 100 * 2 ^ 12 + 9) 0 = some (.lpseti false 100 9) := by decide +kernel
theorem test_decode_memory : decodeWord (0x13 * 2 ^ 26 + 1 * 2 ^ 21 + 15 * 2 ^ 17 + 2 * 2 ^ 12 + 3 * 2 ^ 10 + 0x3FF) 0 = some (.ld 1 15 2 3 0x3FF) ∧
    decodeWord (0x16 * 2 ^ 26 + 1 * 2 ^ 21 + 2 * 2 ^ 16 + 2 * 2 ^ 14 + 0x2000) 0 = some (.sst 1 2 2 0x2000) ∧
    decodeWord (0x17 * 2 ^ 26 + 1 * 2 ^ 21 + 2 * 2 ^ 17 + 3 * 2 ^ 12 + 4 * 2 ^ 7 + 8 * 2 ^ 3 + 6) 0 = some (.atom 1 2 3 4 .swap true) ∧
    decodeWord (0x1B * 2 ^ 26 + 2 * 2 ^ 22 + 3 * 2 ^ 17 + 0xC * 2 ^ 13) 0 = some (.xlate 2 3 0xC) := by decide +kernel
theorem test_decode_queues : decodeWord (0x1D * 2 ^ 26 + 4 * 2 ^ 21 + 2 ^ 20 + 3 * 2 ^ 15) 0 = some (.qpush 4 true 3) ∧
    decodeWord (0x1E * 2 ^ 26 + 14 * 2 ^ 20 + 0x7FFFF) 0 = some (.qwaitData false 14 0x7FFFF) ∧
    decodeWord (0x1F * 2 ^ 26 + 2 ^ 23 + 15 * 2 ^ 19 + 3 * 2 ^ 15 + 2 * 2 ^ 10) 0 = some (.sset 15 3 2) := by decide +kernel
theorem test_decode_sync : decodeWord (0x20 * 2 ^ 26 + 1 * 2 ^ 22 + 23 * 2 ^ 17 + 512) 0 = some (.rvinit 23 512) ∧
    decodeWord (0x20 * 2 ^ 26 + 7 * 2 ^ 22 + 1 * 2 ^ 17 + 2 * 2 ^ 12 + 7) 0 = some (.mwait 1 2 7) := by decide +kernel
theorem test_decode_engines : decodeWord (0x21 * 2 ^ 26 + 31 * 2 ^ 16) 0x12345678 = some (.ec 0 31 0x12345678) ∧
    decodeWord (0x22 * 2 ^ 26 + 1 * 2 ^ 22 + 5 * 2 ^ 11) 0 = some (.ecr 1 0 5) ∧
    decodeWord (0x23 * 2 ^ 26 + 3 * 2 ^ 24 + 2 * 2 ^ 20 + 9 * 2 ^ 9) 0 = some (.tcrc 2 9) := by decide +kernel
theorem test_decode_system : decodeWord (0x24 * 2 ^ 26) 0 = some .tret ∧
    decodeWord (0x24 * 2 ^ 26 + 1 * 2 ^ 21 + 3 * 2 ^ 16 + 0x041) 0 = some (.rdsys 3 0x041) ∧
    decodeWord (0x24 * 2 ^ 26 + 2 * 2 ^ 21 + 3 * 2 ^ 11 + 0x05F) 0 = some (.wtblWrite 3 15) ∧
    decodeWord (0x25 * 2 ^ 26 + 2 * 2 ^ 24 + 1 * 2 ^ 19 + 2 * 2 ^ 14) 0 = some (.gstat 1 2) ∧
    decodeWord (0x26 * 2 ^ 26 + 4 * 2 ^ 23 + 1 * 2 ^ 13 + 2 * 2 ^ 8) 0 = some (.slotpost 1 2) := by decide +kernel
theorem test_decode_illegal : decodeWord (0x3F * 2 ^ 26) 0 = none ∧ decodeWord (0x01 * 2 ^ 26 + 0x1F) 0 = none ∧
    decodeWord (0x00005001) 0 = none ∧ decodeWord (0x1B * 2 ^ 26 + 2 * 2 ^ 22 + 3 * 2 ^ 17) 0 = none := by decide +kernel
theorem test_table_word : decodeTableWord 32 0x1C401000 = some (.li 2 0x1000) ∧ decodeTableWord 32 0 = some .nop := by decide +kernel

/-- The word where the first step fetches runs as the first instruction: LI x2, 0x1000. -/
theorem test_first_step : (match step (State.reset.withFetchWord 32 0x1C401000) with
    | .next s => (s.strand? firstStrand).map fun st => (st.rx 2, st.pc)
    | _ => none) = some (0x1000, 0x400004) := by decide +kernel

/-! ### Witnesses of the statements' hypotheses -/

theorem witness_AluResultIsExact : ofStrand atL (fun _ => true) ∧ ofStrand atC (fun _ => true) ∧ ofStrand atS fun _ => true := by
  decide +kernel
theorem witness_DivisionResultsAndTrap :
    ofStrand (withRegs atL [(2, 0)]) (fun st => st.dzt == false && st.rx 2 == 0) ∧
    ofStrand (withRegs atL [(2, 0xFFFFFFFF00000001)]) (fun st => (st.rx 2).setWidth 32 != (0 : BitVec 32)) ∧
    ofStrand (withStrand atL fun st => { st.wx 2 0x100000000 with dzt := true }) (fun st => st.dzt && (st.rx 2).setWidth 32 == (0 : BitVec 32)) ∧
    (0x80000000 : BitVec 32).toInt = -(2 : Int) ^ (32 - 1) ∧ (0xFFFFFFFF : BitVec 32) = BitVec.allOnes 32 := by decide +kernel
theorem witness_BitCountsAndExtensions : ofStrand atL (fun _ => true) ∧ (Instr.sext 1 2 2).wellFormed := by decide +kernel
theorem witness_ImmediateFormsResult : ofStrand atL (fun _ => true) ∧ (31#6).toNat < 32 := by decide +kernel
theorem witness_ComparesPredicatesSelect : ofStrand atC (fun _ => true) ∧ (Instr.cmp 95 1 2 .gtu true).wellFormed ∧
    (Instr.cmpi 95 1 .eq 0x200).wellFormed := by decide +kernel
theorem witness_IntegerFrame : intDest (.add 1 2 3 false) = some 1 ∧ ofStrand atL (fun st => st.dzt == false) ∧
    next (exec (.add 1 2 3 false) atL) fun _ => true := by decide +kernel

/-- A loop at the address of the acting strand, active, with a count left. -/
def loopAt (c : Word) : HwLoop := { lps := 0x3FFFF0, lpe := 0x400000, lpc := c, active := true, ls := 0x3FFFF0, le := 0x400000, lcnt := c }
def inLoops (a b : HwLoop) : State := withStrand atL fun st => { st with lp0 := a, lp1 := b }
def ends (s : State) (k : Strand → HwLoop) (c : Word) : Bool :=
  ofStrand s fun st => (k st).active && (k st).le == st.pc && (k st).lcnt == c

theorem witness_HardwareLoopTest : atL.cur.strand ≠ .c ∧
    ends (inLoops {} (loopAt 2)) Strand.lp1 2 ∧
    (ends (inLoops (loopAt 2) (loopAt 1)) Strand.lp1 1 ∧ ends (inLoops (loopAt 2) (loopAt 1)) Strand.lp0 2) ∧
    (ends (inLoops (loopAt 0) (loopAt 0)) Strand.lp1 0 ∧ ends (inLoops (loopAt 0) (loopAt 0)) Strand.lp0 0) ∧
    (ends (inLoops {} (loopAt 1)) Strand.lp1 1 ∧ ofStrand (inLoops {} (loopAt 1)) fun st => !st.lp0.active) ∧
    (ends (inLoops (loopAt 2) {}) Strand.lp0 2 ∧ ofStrand (inLoops (loopAt 2) {}) fun st => !st.lp1.active) ∧
    ends (inLoops (loopAt 1) {}) Strand.lp0 1 ∧ ofStrand atL fun st => !st.lp0.active && !st.lp1.active := by decide +kernel
theorem witness_BranchTargets :
    ofStrand (withRegs atL [(2, 0x400004)]) (fun st => (st.rx 2).toNat % 4 == 0) ∧
    ofStrand (withRegs atL [(2, 0x400003)]) (fun st => (st.rx 2).toNat % 4 != 0) ∧
    ofStrand (inLoops (loopAt 1) {}) (fun st => st.lp0.active) := by decide +kernel
theorem witness_MiscInstructionsComplete : ofStrand atL (fun _ => true) ∧ ofRank atL (fun _ => true) ∧
    ofStrand (withStrand atL fun st => { st with wait := some .waiti, waitiLeft := 1, waited := 1 }) (fun st => st.wait == some .waiti) := by
  decide +kernel
theorem witness_ControlRegisters : ofStrand atL (fun _ => true) ∧ (0x007#12).toNat ∉ [0x008, 0x020, 0x022] ∧ ofRank atL (fun _ => true) ∧
    ofGang atL (fun _ => true) ∧ ofCore atL (fun _ => true) ∧ (0x054#12).toNat ∉ [0x050, 0x051, 0x052, 0x053, 0x060] := by decide +kernel
theorem witness_TrapEntryAndReturn :
    ofStrand (withStrand atL fun st => { st with tvec := 0x1000, tlevel := 1 }) (fun st => st.tlevel != 2 && st.tvec != 0) ∧
    ofStrand atL (fun st => st.tlevel == 0) ∧
    ofStrand (withStrand atL fun st => { st with tlevel := 1 }) (fun st => st.tlevel == 1) ∧
    ofStrand (withStrand atL fun st => { st with tlevel := 2 }) (fun st => st.tlevel == 2) := by decide +kernel
theorem witness_ExitEndsStrand : (atL.slotOf atL.cur.vr).isSome ∧ ofStrand atL (fun st => st.asyncs.isEmpty) ∧
    ofCore atL fun k => (List.range 16).all fun z => (k.stream z).st == .unbound := by decide +kernel

/-! ### Steps of the scalar instructions, by hand from the spec -/

theorem test_addWraps : reg (withRegs atL [(2, 0xFFFFFFFFFFFFFFFF), (3, 2)]) (.add 1 2 3 false) 1 = some 1 := by decide +kernel
theorem test_subW : reg (withRegs atL [(2, 0), (3, 1)]) (.sub 1 2 3 true) 1 = some 0xFFFFFFFFFFFFFFFF := by decide +kernel
theorem test_mulh : reg (withRegs atL [(2, 0xFFFFFFFFFFFFFFFF), (3, 2)]) (.mulh 1 2 3 false) 1 = some 0xFFFFFFFFFFFFFFFF := by decide +kernel
theorem test_mulhu : reg (withRegs atL [(2, 0xFFFFFFFFFFFFFFFF), (3, 2)]) (.mulhu 1 2 3 false) 1 = some 1 := by decide +kernel
theorem test_sarW : reg (withRegs atL [(2, 0x80000000), (3, 33)]) (.sar 1 2 3 true) 1 = some 0xFFFFFFFFC0000000 := by decide +kernel
theorem test_rotW : reg (withRegs atL [(2, 0x80000001), (3, 1)]) (.rot 1 2 3 true) 1 = some 3 := by decide +kernel
theorem test_addsClamps : reg (withRegs atL [(2, 0x7FFFFFFFFFFFFFFF), (3, 1)]) (.adds 1 2 3 false) 1 = some 0x7FFFFFFFFFFFFFFF := by
  decide +kernel
theorem test_divOverflow : reg (withRegs atL [(2, 0x8000000000000000), (3, 0xFFFFFFFFFFFFFFFF)]) (.div 1 2 3 false) 1 =
    some 0x8000000000000000 := by decide +kernel
theorem test_divByZero : reg (withRegs atL [(2, 7), (3, 0)]) (.div 1 2 3 false) 1 = some 0xFFFFFFFFFFFFFFFF := by decide +kernel
theorem test_remSign : reg (withRegs atL [(2, -7), (3, 2)]) (.rem 1 2 3 false) 1 = some (-1) := by decide +kernel
theorem test_divTrap : trapOf (withStrand (withRegs atL [(2, 7), (3, 0)]) fun st => { st with dzt := true }) (.div 1 2 3 false) = some (4, 0) := by
  decide +kernel
theorem test_clzOfZeroW : reg atL (.clz 1 2 true) 1 = some 32 := by decide +kernel
theorem test_sextHalf : reg (withRegs atL [(2, 0x8001)]) (.sext 1 2 1) 1 = some 0xFFFFFFFFFFFF8001 := by decide +kernel
theorem test_x0Discards : reg (withRegs atL [(2, 5)]) (.add 0 2 2 false) 0 = some 0 := by decide +kernel
theorem test_lisBuilds : reg (withRegs atL [(1, 0x1234)]) (.lis 1 0x8000) 1 = some 0x12348000 := by decide +kernel
theorem test_cmpW : (match exec (.cmp 5 2 3 .lt true) (withRegs atL [(2, 0x80000000), (3, 0)]) with
    | .next t => ofStrand t fun st => st.p[5] == 1
    | _ => false) = true := by decide +kernel
theorem test_branchBack : pcAfter atL (.br 0x3FFFFFF) = some 0x3FFFFC := by decide +kernel
theorem test_callLinks : reg atL (.call 2) 31 = some 0x400004 ∧ pcAfter atL (.call 2) = some 0x400008 := by decide +kernel
theorem test_jrMisaligned : trapOf (withRegs atL [(2, 6)]) (.jr 1 2) = some (0xA, 6) := by decide +kernel
theorem test_lpsetiBody : (match exec (.lpseti false 3 1) atL with
    | .next t => ofStrand t fun st => st.lp0.active && st.lp0.lps == 0x400004 && st.lp0.lpe == 0x400008 && st.lp0.lcnt == 3
    | _ => false) = true := by decide +kernel
theorem test_lpsetiZeroSkips : pcAfter atL (.lpseti false 0 1) = some 0x40000C := by decide +kernel
theorem test_trapCode : trapOf atL (.trap 0x123) = some (0xE, 0x123) := by decide +kernel
theorem test_featZero : reg atL (.feat 1 0) 1 = some 0x00010101 := by decide +kernel
theorem test_readOnlyControl : trapOf atL (.wrctl 1 0x002) = some (1, 0x13002) := by decide +kernel

/-! ### Witnesses: scratch space, handles, accesses, translation -/

/-- The gang with a second core, number 5. -/
def twoCores (s : State) : State := withGang s fun g => { g with cores := g.cores ++ [Core.start g.launch 5 1] }
/-- A scratch operand in the pad of core 5, the last half word of it. -/
def otherPad : State := twoCores (withRegs atL [(2, 0x1000000 + 5 * 0x80000 + 0x7FFFE)])

theorem witness_ScratchAccessCompletes : (atL.slotOf atL.cur.vr).isSome ∧ atL.cmds = [] ∧
    ofStrand (withRegs atL [(2, 0x7FFF8)]) (fun st => decide ((st.rx 2).toNat + 8 ≤ 0x80000) && (st.rx 2).toNat % 8 == 0) ∧
    (ofStrand otherPad (fun st => (st.rx 2).toNat == 0x1000000 + 5 * 0x80000 + 0x7FFFE && (st.rx 2).toNat % 2 == 0) ∧
      (otherPad.gangCores otherPad.cur).contains 5 ∧ 5 ≠ otherPad.cur.core ∧ 0x7FFFE + 2 ≤ 0x80000) ∧
    ofStrand (withRegs atL [(2, 2 ^ 32)]) (fun st => decide (2 ^ 32 ≤ (st.rx 2).toNat)) ∧
    ofStrand (withRegs atL [(2, 0x80000000)]) (fun st => decide ((st.rx 2).toNat < 2 ^ 32)) ∧
    ofStrand (withRegs atL [(2, 0x7FFFA)]) (fun st => decide ((st.rx 2).toNat + 4 ≤ 0x80000) && (st.rx 2).toNat % 4 != 0) := by
  decide +kernel

/-- A handle on a page of 64 KiB at 0x5_0000 with every permission, in register 1 of the core. -/
def openHandle : Handle := { valid := true, perm := 0xF, aper := 1, frame := 0x50000, va := 0x410000 }
def withHandle (h : Handle) (s : State) : State := withCore s fun k => k.setHandle 1 h
def handleIs (s : State) (p : Handle → Bool) : Bool := ofCore s fun k => p (k.handle 1)
/-- An XLATE into register 1 on its way. -/
def work (left : Nat) (h : Handle) : XlateWork :=
  { pc := 0x400000, h := 1, va := 0x410000, perm := 0xC, left := left, gen := 0, handle := h }

theorem witness_HandleAccessesIssue : ownsHalf .l 1 ∧ ofStrand atL (fun st => !st.handlePending 1) ∧
    handleIs (withHandle openHandle atL) (fun h => h.valid && bitAt h.perm 3 && bitAt h.perm 2 && bitAt h.perm 1 && decide (h.aper.toNat ≤ 1) &&
      decide (0xFFF8 + 8 ≤ pageSize h.large) && 0xFFF8 % 8 == 0 && decide (0xFFF0 + 16 ≤ pageSize h.large) && 0xFFF0 % 16 == 0) := by
  decide +kernel
theorem witness_HandleCheckOrder : ¬ ownsHalf .l 8 ∧ ¬ ownsHalf .s 7 ∧ ownsHalf .s 15 ∧
    ofStrand (withStrand atL fun st => { st with xlates := [work 6 openHandle] }) (fun st => st.handlePending 1) ∧
    handleIs atL (fun h => !h.valid) ∧
    handleIs (withHandle { openHandle with perm := 0x4 } atL) (fun h => h.valid && !bitAt h.perm 3 && bitAt h.perm 2) ∧
    handleIs (withHandle openHandle atL) (fun h => h.valid && bitAt h.perm 3 && decide (pageSize h.large < 0xFFF9 + 8)) ∧
    handleIs (withHandle openHandle atL) (fun h => h.valid && decide (0xFFF7 + 8 ≤ pageSize h.large) && 0xFFF7 % 8 != 0) := by decide +kernel

/-- An access of the acting strand in flight. -/
def flying (op : AccOp) (dst : AccTo) : Access :=
  { id := 9, by' := firstStrand, op := op, dst := dst, va := 0x410000, hold := true, viaHandle := true, sent := false, slots := 0,
    resend := none, order := 9 }
def inFlight (op : AccOp) : State := withRank (withStrand atL fun st => { st with wait := some (.access 9) }) fun r => { r with accesses := [flying op (.phys 0x50000)] }

theorem witness_AccessPerforms : ([AccOp.load 1 8, .atom .add 1 8 5, .atom .minu 1 4 5, .acas 1 4 0 7, .fxadd 0 0x3F800000].all fun op =>
    ((inFlight op).access? 9).any fun p => p.2.op == op && p.2.dst == .phys 0x50000 && (inFlight op).cmds.isEmpty) = true := by decide +kernel

/-- The page at 0x0040_0000 with the strand read bit of its engine mask, without the write bit. -/
def pageRead : State := { atL with mem := physPut atL.mem 0x30400 (leBytes 16 (0x1E3 + 2 ^ 12 + 4 * 2 ^ 64)) }

theorem witness_HandlesAndTranslation :
    ofStrand (withRegs atL [(2, 0x40FFFF)]) (fun st => decide ((st.rx 2).toNat < 2 ^ 48)) ∧
    ((match pageRead.walkFor 0 false 0x40FFFF with
      | .leaf e _ _ => xlateDenied e 0x8 == none && xlateDenied e 0x4 == some 2 && xlateDenied e 0x2 == some 4
      | _ => false) = true) ∧
    ofStrand (withRegs atL [(2, 2 ^ 48)]) (fun st => decide (2 ^ 48 ≤ (st.rx 2).toNat)) ∧
    ofStrand (withStrand atL fun st => { st with xlates := [work 0 openHandle] }) (fun st =>
      (st.xlates.find? fun y => y.h == 1).any fun x => x.left == 0 && x.handle.valid && x.gen == atL.genOf 0 st.sup) := by decide +kernel

theorem test_sldZeroExtends : reg (withSlot (withRegs atL [(2, 0x7FFFC)]) fun k => { k with pads := memPut k.pads 0x7FFFE [0x80, 0xFF] })
    (.sld 1 2 1 1) 1 = some 0xFF80 := by decide +kernel
theorem test_sstLowBytes : next (exec (.sst 1 2 2 0) (withRegs atL [(1, 0x1122334455667788), (2, 0x100)])) (fun t =>
    memBytes (t.slot 0).pads 0x100 5 == [0x88, 0x77, 0x66, 0x55, 0]) := by decide +kernel
theorem test_sstMisaligned : trapOf (withRegs atL [(2, 0x102)]) (.sst 1 2 2 0) = some (0xA, 0x102) := by decide +kernel
theorem test_sldUnmapped : trapOf (withRegs atL [(2, 0x80000)]) (.sld 1 2 2 0) = some (0xB, 0x80000) := by decide +kernel
theorem test_ldStale : trapOf atL (.ld 1 1 2 3 0) = some (9, 2 ^ 48) := by decide +kernel
theorem test_stBuffered : next (exec (.st 1 1 2 3 1) (withHandle openHandle (withRegs atL [(1, 7)]))) (fun t => ofRank t fun r =>
    r.sbuf.map (fun b => (b.dst, b.bytes)) == [(.phys 0x50008, [7, 0, 0, 0, 0, 0, 0, 0])] && t.mem == atL.mem) := by decide +kernel
theorem test_atomAdd : next (exec (.memoryAccessComplete 9) { inFlight (.atom .add 1 4 0xFFFFFFFF) with mem := physPut atL.mem 0x50000 [5] })
    (fun t => ofStrand t (fun st => st.rx 1 == 5) && t.homeBytes 0x50000 4 == [4, 0, 0, 0] && physBytes t.mem 0x50000 1 == [5]) := by
  decide +kernel
theorem test_xlateDelivers : next (exec (.xlateDeliver firstStrand 1) (withStrand atL fun st => { st with xlates := [work 0 openHandle] }))
    (fun t => handleIs t fun h => h == openHandle) := by decide +kernel
theorem test_xlateRange : trapOf (withRegs atL [(2, 2 ^ 48)]) (.xlate 1 2 8) = some (7, 2 ^ 48) := by decide +kernel

/-! ### Witnesses: queues, rings, streams -/

def entries (n : Nat) : List SEntry := List.replicate n { id := 3, landed := true, data := 0x77 }
def withSq (s : State) (i : Nat) (q : SQueue) : State := withCore s fun k => k.setSqueue i q
def sqIs (s : State) (i : Nat) (p : SQueue → Bool) : Bool := ofCore s fun k => p (k.squeue i)

theorem witness_ScalarQueueOperations : atL.cur.strand = .l ∧ atS.cur.strand = .s ∧
    sqIs (withSq atL 12 { head := 0xFFFF, closed := false, ents := entries 16 }) 12 (fun q => decide (16 ≤ q.ents.length)) ∧
    sqIs (withSq atL 13 { head := 0, closed := true, ents := entries 15 }) 13 (fun q => q.ents.length == 15 && q.closed) ∧
    sqIs atL 12 (fun q => !q.closed) ∧
    (sqIs (withSq atS 15 { head := 0, closed := false, ents := entries 1 }) 15 (fun q => q.ents.length == 1 && q.ents.all fun e => e.landed) ∧
      ofCore atS fun k => !k.indexBound 15 && !k.indexBound 14) ∧
    (ofCore (withCore (withSq atS 14 { head := 0, closed := true, ents := [] }) fun k => { k with c := { k.c with ended := true } })
      fun k => (k.squeue 14).closed && k.c.ended && (k.squeue 14).ents.isEmpty) ∧
    (ofCore atS fun k => !(k.squeue 14).closed) ∧ (ofCore atL fun k => !k.tileBound 7) := by decide +kernel

/-- A ring register: base 0x40, 2 entries of 8 bytes, with its tail and head. -/
def ringWord (tail head : Nat) : Word := BitVec.ofNat 64 (tail * 2 ^ 48 + head * 2 ^ 32 + 1 * 2 ^ 24 + 1)
def withRing (s : State) (w : Word) : State := s.setRing 0 0 3 w

theorem witness_RingOperations : ringLogn (atL.ring 0 0 3) = 0 ∧
    (ringLogn ((withRing atL (ringWord 1 0xFFFF)).ring 0 0 3) = 1 ∧ (ringTail (ringWord 1 0xFFFF) - ringHead (ringWord 1 0xFFFF)).toNat = 2 ^ 1) ∧
    ringTail (ringWord 5 5) = ringHead (ringWord 5 5) ∧
    (ringAreaOk atL.cur.core (atL.gangCores atL.cur) (ringWord 1 0) ∧ ringTail (ringWord 1 0) ≠ ringHead (ringWord 1 0) ∧
      (ringTail (ringWord 1 0) - ringHead (ringWord 1 0)).toNat ≠ 2 ^ 1) := by decide +kernel
theorem witness_QueueWaitsAndTimeout :
    sqIs (withSq atL 12 { head := 0, closed := false, ents := entries 16 }) 12 (fun q => decide (16 ≤ q.ents.length) && !q.closed) ∧
    ofStrand atL (fun st => !st.expired 0 && !st.expired 5) ∧
    (ofStrand (withStrand (withSq atL 12 { head := 0, closed := false, ents := entries 16 })
        fun st => { st with wait := some (.queue 12), waitiLeft := 3, waited := 3 }) fun st =>
      st.wait == some (.queue 12) && st.waitiLeft != 0 && decide (st.waitiLeft ≤ st.waited)) ∧
    (ofCore (withSq atL 12 { head := 0, closed := false, ents := entries 16 }) fun k => !k.queueReady .l 12) ∧
    ofStrand (withStrand atL fun st => { st with wait := some (.queue 12), waitiLeft := 3, waited := 2 }) (fun st => decide (st.waited < st.waitiLeft)) := by
  decide +kernel

/-- A descriptor of an affine stream: FP32, 1 row of 2 columns, at scratch address `base`, elements 4 bytes apart, one entry. -/
def affine (base : Nat) : BitVec 512 :=
  BitVec.ofNat 512 (1 * 2 ^ 8 + 2 * 2 ^ 32 + 1 * 2 ^ 40 + base * 2 ^ 64 + 8 * 2 ^ 96 + 4 * 2 ^ 128 + 2 * 2 ^ 192 + 1 * 2 ^ 256)
def withStream (s : State) (z : Nat) (st : ZState) (q base : Nat) : State := withCore s fun k =>
  k.setStream z { st := st, desc := affine base, q := q, descAddr := 0x80 }
def streamIs (s : State) (z : Nat) (p : Stream → Bool) : Bool := ofCore s fun k => p (k.stream z)

theorem witness_StreamInstructions : ¬ ownsHalf .l 8 ∧ ¬ ownsHalf .c 0 ∧ ownsHalf .s 8 ∧
    (streamIs atL 7 (fun z => z.st == .unbound) ∧ ofStrand (withRegs atL [(2, 0x7FFC0)]) fun st =>
      decide ((st.rx 2).toNat + 64 ≤ 0x80000) && (st.rx 2).toNat % 64 == 0) ∧
    streamIs (withStream atL 0 .done 0 0x100) 0 (fun z => z.st != .unbound && z.idxTaken.isEmpty) ∧
    (ofCore (withStream atL 0 .bound 0 0x100) fun k => match k.bindStream 0 7 (affine 0x100) with | .ok _ => true | .error _ => false) ∧
    (ofCore (withStream atS 8 .bound 0 0x100) fun k => match k.bindStream 8 11 (affine 0x100) with | .ok _ => true | .error _ => false) := by
  decide +kernel

def landedEntry : TEntry := { id := 1, landed := true, data := 0x2222222211111111, fmt := some 1, esz := 4, rows := 1, cols := 2, scales := .none }

theorem witness_StreamUnitsMoveEntries : ofGang atL (fun g => g.cond == .placed) ∧
    (streamIs (withStream atL 0 .running 3 0x7FFF8) 0 (fun z => z.st == .running && descKind z.desc == 0 && decide (z.q < 8) &&
        firstFault [0] 4 ((entryElems z.desc (affineRows z.desc z.ordinal)).map Prod.fst) == none &&
        firstFault [0] 4 (scaleAddrs z.desc z.ordinal (affineRows z.desc z.ordinal)) == none) ∧
      ofCore atL fun k => decide ((k.tqueue 3).ents.length < 4)) ∧
    streamIs (withStream atL 0 .running 3 0x7FFFC) 0 (fun z =>
      (firstFault [0] 4 ((entryElems z.desc (affineRows z.desc z.ordinal)).map Prod.fst)).isSome) ∧
    (streamIs (withStream atS 8 .running 8 0x100) 8 (fun z => z.st == .running && decide (8 ≤ z.q) && decide (z.q < 12) &&
        landedEntry.esz == fmtSize (descFmt z.desc) && landedEntry.rows == descRows z.desc && landedEntry.cols == descCols z.desc) ∧
      landedEntry.landed) ∧
    streamIs (withStream atS 8 .running 11 0x7FFFE) 8 (fun z =>
      (firstFault [0] 4 ((entryElems z.desc (affineRows z.desc z.ordinal)).map Prod.fst)).isSome) := by decide +kernel

theorem test_qpopHead : reg (withSq atS 14 { head := 4, closed := false, ents := entries 2 }) (.qpop 1 false 14) 1 = some 0x77 := by decide +kernel
theorem test_qpushClosed : trapOf (withSq atL 12 { head := 4, closed := true, ents := entries 2 }) (.qpush 1 false 12) =
    some (6, 0xC00060004) := by decide +kernel
theorem test_ringPush : next (exec (.qpush 2 true 3) (withRing (withRegs atL [(2, 0x99)]) (ringWord 1 0))) (fun t =>
    memBytes (t.slot 0).pads 0x48 2 == [0x99, 0] && ringTail (t.ring 0 0 3) == 2) := by decide +kernel
theorem test_loadStream : next (exec (.loadStreamEntry firstStrand 0) (withSlot (withStream atL 0 .running 3 0x100)
    fun k => { k with pads := memPut k.pads 0x100 [1, 0, 0, 0, 2] })) (fun t => ofCore t fun k =>
      (k.tqueue 3).ents.map (fun e => (e.data, e.rows, e.cols)) == [(0x200000001, 1, 2)] && (k.stream 0).ordinal == 1) := by decide +kernel
theorem test_storeStream : next (exec (.storeStreamDrain { firstStrand with strand := .s } 8)
    (withCore (withStream atS 8 .running 8 0x100) fun k => k.setTqueue 8 { head := 0, closed := false, ents := [landedEntry] })) (fun t =>
      memBytes (t.slot 0).pads 0x100 8 == [0x11, 0x11, 0x11, 0x11, 0x22, 0x22, 0x22, 0x22] &&
      ofCore t fun k => (k.tqueue 8).ents.isEmpty && (k.tqueue 8).head == 1) := by decide +kernel

/-! ### Witnesses: synchronisation, markers, asynchronous traps -/

def withRv (s : State) (n : Nat) (p : RvPoint) : State := withGang s fun g => { g with rvs := g.rvs.setIfInBounds n p }

theorem witness_PhaseStepFenceRendezvous :
    ofGang atL (fun g => (g.rv 0).count == 0) ∧
    ofGang (withRv atL 23 { count := 512, arrivals := 511, gen := 0xFFFFFFFF }) (fun g => (g.rv 23).count == 512) ∧
    ofStrand (withStrand (withRv atL 0 { count := 2, arrivals := 0, gen := 1 }) fun st =>
        { st with rvPend := st.rvPend.set 0 true }) (fun st => st.rvPend[0]?.getD false && st.rvGen[0]?.getD 0 != 1) ∧
    ofStrand (withStrand (withRv atL 0 { count := 2, arrivals := 1, gen := 0 }) fun st =>
        { st with rvPend := st.rvPend.set 0 true }) (fun st => st.rvPend[0]?.getD false && st.rvGen[0]?.getD 0 == 0) := by decide +kernel

def marker (e : Nat) : Marker := { engine := e, num := 7, cmds := [], streams := [] }

theorem witness_MarkersAndJoins : ofStrand atSup (fun st => st.sup) ∧ atL.cur.strand ≠ .s ∧
    ofStrand (withRegs atL [(1, 2 ^ 37 - 1 - 2 ^ 33)]) (fun st => decide ((st.rx 1).toNat < 2 ^ 37) && !bitAt (st.rx 1) 33) ∧
    ofStrand (withStrand atL fun st => { st with markers := [marker 36] }) (fun st => (st.markers.find? fun m => m.engine == 36).isSome) ∧
    ofStrand (withStrand atL fun st => { st with wait := some (.join 7), joins := st.joins.set 7 (.armed 2 9) })
      (fun st => st.wait == some (.join 7) && st.joins[7]?.getD .idle == .armed 2 9) := by decide +kernel

def refused : AsyncTrap := { cause := 0x10, tval := 0x410000, detail := 1, src := 2, zidx := 0 }
def streamFault (z : Nat) : AsyncTrap := { cause := 0xB, tval := 0x80000, detail := 0, src := 1, zidx := z }

theorem witness_AsyncTrapsAndWaitRelease :
    ofStrand (withStrand atL fun st => { st with asyncs := [refused, streamFault 5, streamFault 3] })
      (fun st => st.tlevel == 0 && !st.ended && st.wait == none && st.nextAsync == some (streamFault 3)) ∧
    ofStrand (withStrand atL fun st => { st with tlevel := 1 }) (fun st => st.tlevel != 0) ∧
    ofStrand (withStrand atL fun st => { st with wait := some .fence }) (fun st => st.wait == some .fence) ∧
    (ofStrand (withStrand atL fun st => { st with wait := some (.drain 1 5 [9]) }) (fun st => st.wait == some (.drain 1 5 [9])) ∧
      atL.access? 9 = none) ∧ ((inFlight (.load 1 8)).access? 9).isSome := by decide +kernel

theorem test_rvLastArrivalOpens : next (exec (.rvarr 0) (withRv atL 0 { count := 2, arrivals := 1, gen := 4 })) (fun t =>
    ofGang t (fun g => (g.rv 0).gen == 5 && (g.rv 0).arrivals == 0) && ofStrand t fun st => st.rvGen[0]? == some 4) := by decide +kernel
theorem test_rvinitOther : (trapOf (withRv atL 0 { count := 2, arrivals := 0, gen := 0 }) (.rvinit 0 3)).map Prod.fst = some 1 := by decide +kernel
theorem test_phaseWaits : next (exec .phase atL) (fun t => ofStrand t fun st => st.wait == some .phase && st.pc == 0x400000) := by decide +kernel
theorem test_markerRecord : next (exec (.markerRetire firstStrand 3) (withStrand atL fun st => { st with markers := [marker 3] })) (fun t =>
    ofStrand t fun st => st.recs[3]? == some 7 && st.markers.isEmpty) := by decide +kernel
theorem test_mwaitFired : reg (withStrand atL fun st => { st with joins := st.joins.set 2 (.fired true) }) (.mwait 5 6 2) 5 = some 2 := by
  decide +kernel
theorem test_asyncSource : next (exec (.asyncTrap firstStrand) (withStrand atL fun st => { st with tvec := 0x1000, asyncs := [streamFault 3] }))
    (fun t => ofStrand t fun st => st.pc == 0x1000 + 64 * 0xB && st.bank1.tpc == 0x400000 && st.bank1.tval == 0x80000) := by decide +kernel

/-! ### Witnesses: engine commands, template planes -/

/-- A copy of 4 bytes from scratch 0x100 to 0x200, as template 5 of the copy plane. -/
def copyTemplate : BitVec 512 := BitVec.ofNat 512 (2 ^ 15 + 0x100 * 2 ^ 32 + 0x200 * 2 ^ 80 + 4 * 2 ^ 112 + 1 * 2 ^ 128)
def withTemplate (s : State) : State := withRank s fun r =>
  { r with copyPlanes := { r.copyPlanes with active := copyTemplate.setWidth 32768 <<< (512 * 5) } }
/-- The patch word that names template 5, no field, and closes the chain. -/
def patch5 : BitVec 32 := BitVec.ofNat 32 (5 * 2 ^ 26)

theorem witness_EngineCommandWords : ofStrand atL (fun st => st.chain == none) ∧ (bitsAt patch5 16 4 = 0 ∧ bitAt patch5 20 = false) ∧
    (bitsAt (0x00300000#32) 21 5 = 1 ∧ bitAt (0x00300000#32) 20 = true) ∧ (bitsAt (0x00100000#32) 21 5 = 0 ∧ bitAt (0x00100000#32) 20 = true) ∧
    (ofRank (withTemplate atL) fun rk => ofCore (withTemplate atL) fun k =>
      match (withTemplate atL).buildCmd firstStrand rk k 0 0 (planeTpl ((withTemplate atL).planes 0 0).active 5) with
      | some b => (b.regions.filterMap Region.handle?).isEmpty && (submitCheck .l k [0] 3 b.regions == none)
      | none => false) ∧ (withTemplate atL).outstandingCmds firstStrand 0 < 16 := by decide +kernel

theorem test_ecSubmits : next (exec (.ec 0 0 patch5) (withSlot (withTemplate atL) fun k => { k with pads := memPut k.pads 0x100 [9, 8, 7, 6] })) (fun t =>
    t.cmds.map (fun c => (c.engine, c.body)) == [(0, .copy (.scratch 0x100) (.scratch 0x200) 4 1 0 0 none [some 9, some 8, some 7, some 6] 0 0)] &&
      ofStrand t fun st => st.pc == 0x400008) := by decide +kernel
theorem test_ecReservedBit : trapOf atL (.ec 0 0 0x00010000) = some (1, 0x100010000) := by decide +kernel

theorem witness_TemplatePlanes : ofStrand atL (fun st => !st.sup) ∧ ofStrand atSup (fun st => st.sup) ∧
    ofStrand (withRegs atL [(1, 0x80000 - 4104)]) (fun st => decide ((st.rx 1).toNat + 4104 ≤ 0x80000) && (st.rx 1).toNat % 8 == 0) ∧
    leNat (((memBytes (atL.slot 0).pads 0 8).drop 4).take 4) = 0 ∧
    (match applyDiff 0 (wordsOfBytes 1 [1, 0, 0x20, 0]) with | .ok p => p == 0x10000 | .error _ => false) = true := by decide +kernel
theorem test_tswapMarks : next (exec (.tswap 1) atL) (fun t => ofRank t fun r => r.collPlanes.swap && !r.copyPlanes.swap) := by decide +kernel

/-! ### Witnesses: system instructions -/

theorem witness_SupervisorOnlyInstructions : ofStrand atL (fun st => !st.sup) := by decide +kernel
/-- The partitions of slots 0 and 1 differ, and a second rank stands in slot 1. -/
def twoRanks : State :=
  { atSup with partcfg := 0x10, ranks := atSup.ranks ++ [{ firstRank with vr := 9, place := .resident 1, gangs := [] }] }
def select (s : State) (v : BitVec 24) : State := withStrand s fun st => { st with selvr := v }
def placed (s : State) (p : RPlace) : State := s.modRank 9 fun r => { r with place := p }
theorem witness_SystemRegisterReads : ofStrand atSup (fun st => st.sup && st.selslot == 0) ∧
    atSup.partOf 0 = atSup.partOfRank 0 ∧
    (twoRanks.rank? 0).any (fun r => r.place == .resident 0) ∧ (twoRanks.rank? 9).any (fun r => r.place == .resident 1) ∧
    twoRanks.partOf 1 ≠ twoRanks.partOfRank 0 ∧ ((placed twoRanks .transit).rank? 9).any (fun r => r.place == .transit) ∧
    ((placed twoRanks .fallow).rank? 9).any (fun r => r.place == .fallow) ∧ twoRanks.rank? 5 = none := by decide +kernel
theorem witness_SystemRegisterWrites : (0x003#11).toNat ∉ [0x001, 0x002, 0x011, 0x043, 0x044] ∧ atSup.onePartition ∧
    atSup.busyPackage (some (0, 1)) = false ∧ atSup.busyPackage none ∧
    ofRank atSup (fun r => r.frames.isEmpty && r.walOut[15]?.getD 0 == 0 && !atSup.wtblBad r 1) ∧
    (atSup.rank? 0).any (fun r => atSup.wtblBad r 0x8000000000000000) ∧
    ofStrand (withStrand atSup fun st => { st with wait := some (.flush 1) }) (fun st => st.wait == some (.flush 1)) := by decide +kernel

theorem test_privRank : trapOf atL (.rdsys 1 0) = some (2, 0x90210000) := by decide +kernel
theorem test_selvr : next (exec (.wrsys 1 0x001) (withRegs atSup [(1, 0xFFFFFF)])) (fun t => ofStrand t fun st => st.selvr == 0xFFFFFF) := by
  decide +kernel
theorem test_selvrReserved : (trapOf (withRegs atSup [(1, 0x1000000)]) (.wrsys 1 0x001)).map Prod.fst = some 1 := by decide +kernel
theorem test_otherPartition : (trapOf (select twoRanks 9) (.rdsys 1 0x041)).map Prod.fst = some 2 := by decide +kernel

def withFrames (s : State) (n : Nat) (fs : List FrameSlot) : State := withRank s fun r => { r with frpool := BitVec.ofNat 64 n, frames := fs }
def savedHere : State :=
  { withGang (withFrames atSup 1 [{ slot := 0, gang := 1 }]) (fun g => { g with cond := .saved 0 0 false }) with
    mem := physPut atSup.mem 0 (leBytes 16 (1 + 2 ^ 96)) }

theorem witness_SupervisorInstructions : (atSup.rank? 0).any (fun r => r.place == .resident 0) ∧ atSup.partOf 0 = atSup.partOfRank 0 ∧
    ovfLegal 0x2AAA ∧
    ofRank (withFrames atSup 1 []) (fun r => r.freeSlot == some 0 && (r.gang? 1).any fun g => g.cond == .placed) ∧
    ofRank (withFrames atSup 1 [{ slot := 0, gang := 1 }]) (fun r => r.freeSlot == none) ∧ ofRank atSup (fun r => r.gang? 2 == none) ∧
    ofRank atSup (fun r => r.frameAt 0x40 == none) ∧
    ofRank savedHere (fun r => (r.frameAt 0).any (fun p => p.1 == 0 && p.2.cond == .saved 0 0 false) && savedHere.headerOk 0 0 1 && r.slot?.isSome) ∧
    ({ atSup with ntail := 1 }.ntail ≠ ({ atSup with ntail := 1 } : State).nhead ∧ atSup.ntail = atSup.nhead) ∧
    ofStrand atSup (fun st => !st.expired 5) ∧
    ofStrand (withStrand atSup fun st => { st with wait := some (.notice 1), waitiLeft := 5, waited := 5 }) (fun st => decide (st.waitiLeft ≤ st.waited)) ∧
    (atSup.ranks.all fun k => k.sbuf.isEmpty && k.accesses.isEmpty) ∧
    ((match atSup.walkFor 0 false 0x400000 with | .leaf _ _ _ => true | _ => false) = true) ∧ atSup.locks = [] ∧
    (atSup.unlockEntry 0 0x400000 = none ∧
      ({ atSup with locks := [{ vr := 0, va := 0x400000, large := false, frame := 0x40000, count := 2 }] }.unlockEntry 0 0x400000).isSome) := by
  decide +kernel

def ringOn : State := { atL with nring := 4 }
theorem witness_PcpActsOnSupervisorSpace : ({ ringOn with notices := [5] } : State).noticeRoom ∧ atL.noticeRoom = false := by decide +kernel

theorem test_plockCounts : reg (withRegs atSup [(2, 0x40FFFF)]) (.plock 1 2) 1 = some 1 := by decide +kernel
theorem test_idleNotice : reg { atSup with ntail := 1 } (.idle 1 2) 1 = some 1 := by decide +kernel
theorem test_shootGen : reg (withRegs atSup [(2, 0x400000)]) (.shoot 1 2 false) 1 = some 1 := by decide +kernel
theorem test_noticePlace : next (exec .noticeWrite { ringOn with notices := [0xAB] }) (fun t =>
    physBytes t.mem 0 2 == [0xAB, 0] && t.ntail == 1 && t.notices.isEmpty) := by decide +kernel

/-! ### Witnesses: gangs, host queues, the schedule table -/

/-- A launch record of one core with an identity, its entry points 0. -/
def recOf (id : Nat) : LaunchRec := { raw := BitVec.ofNat 1024 id, etab := 0 }
/-- A gang of that record in a condition. -/
def gangOf (id : Nat) (c : GCond) : Gang := { Gang.posted (recOf id) .launch 5 with cond := c }
def withGangs (s : State) (l : List Gang) : State := withRank s fun r => { r with gangs := r.gangs ++ l }
/-- The same record in the own scratchpad at `a`. -/
def padRec (s : State) (a id : Nat) : State := withSlot s fun k => { k with pads := memPut k.pads a (leBytes 4 id) }

theorem witness_GangInstructions : ofRank atL (fun r => decide (r.pendingGangs < 256)) ∧
    ofStrand (withRegs atL [(2, 0x80000 - 128)]) (fun st => decide ((st.rx 2).toNat + 128 ≤ 0x80000) && (st.rx 2).toNat % 128 == 0) ∧
    ofRank (padRec atL 0 1) (fun r => r.refusal ((padRec atL 0 1).launchAt firstStrand 0) false (some 0) == some 2) ∧
    ofRank (padRec atL 0 4) (fun r => r.refusal ((padRec atL 0 4).launchAt firstStrand 0) false (some 0) == none) ∧
    (atL.gang? 0 2 = none ∧ (atSup.gang? 0 1).isSome) ∧
    (((withGangs atL [{ gangOf 3 .waiting with launch := { recOf 3 with raw := BitVec.ofNat 1024 (3 + 2 ^ 39) } }]).gang? 0 3).any fun g => g.launch.sup) ∧
    ((placed (select twoRanks 9) .fallow).rank? 9).any (fun q => q.place == .fallow && q.gangs.isEmpty) ∧
    (((withGangs atL [gangOf 3 .waiting]).gang? 0 3).any fun x => x.id != 1 && x.cond == .waiting && x.source == .launch && !x.launch.cen && !x.launch.sup) ∧
    ofRank (withGangs atL [gangOf 3 .waiting]) (fun r => r.gangs.all fun y => y.id == 3 || y.cond != .waiting) := by decide +kernel

theorem test_glaunchPosts : next (exec (.glaunch 1 2) (padRec atL 0 4)) (fun t => ofStrand t (fun st => st.rx 1 == 4) &&
    (t.gang? 0 4).any fun g => g.cond == .ready && g.source == .launch) := by decide +kernel
theorem test_glaunchTwice : reg (padRec atL 0 1) (.glaunch 1 2) 1 = some 0x8000000000000002 := by decide +kernel
theorem test_gkillWaiting : next (exec (.gkill 1 2) (withRegs (withGangs atL [gangOf 3 .waiting]) [(2, 3)])) (fun t =>
    t.gang? 0 3 == none && ofStrand t fun st => st.rx 1 == 0) := by decide +kernel
theorem test_gstatPlaced : reg (withRegs atL [(2, 1)]) (.gstat 1 2) 1 = some 3 := by decide +kernel

/-- A schedule table of one entry, a forward step of microbatch 0 with no input and no target, and one record of gang 4. -/
def schedHeader : BitVec 256 := BitVec.ofNat 256 (1 + 1 * 2 ^ 16 + 2 * 2 ^ 24 + 4 * 2 ^ 32 + 4 * 2 ^ 40 + 7 * 2 ^ 64 + 2 ^ 88 + 8 * 2 ^ 128 + 2 ^ 152)
def schedEntry : BitVec 256 := 1
def withSched (s : State) (f : Sched → Sched) : State := s.modSched 0 f
def loadedSched (st : SchedSt) : State := withSched atL fun q => { q.clear with
  st := st, header := schedHeader, entries := [schedEntry], recs := [4] }
def ofSched (s : State) (p : Sched → Bool) : Bool := ofRank s fun r => p r.sched

theorem witness_ScheduleInstructions : headerLegal schedHeader ∧ entryLegal schedHeader schedEntry ∧ blockLegal false 4 ∧
    ¬ headerLegal 0 ∧ ofSched (loadedSched .ready) (fun t => t.st == .ready) ∧ ofSched atL (fun t => t.st == .idle) ∧
    ofSched (withSched (loadedSched .halted) fun q => { q with posted := true }) (fun t => t.st == .halted && t.posted) ∧
    ofStrand (withRegs atL [(3, 255)]) (fun st => st.rx 2 == 0 && decide ((st.rx 3).toNat < 256)) ∧
    ofSched (withSched (loadedSched .ready) fun q => { q with ainu := 255 }) (fun t => t.upv && decide (255 ≤ t.ainu)) ∧
    ofSched (loadedSched .ready) (fun t => decide (t.ainu < 1)) := by decide +kernel

theorem test_schldIdle : next (exec (.schld 1 2) (withSlot atL fun k => { k with
    pads := memPut (memPut k.pads 0 (leBytes 32 schedHeader.toNat)) 32 (1 :: List.replicate 31 0 ++ [4]) })) (fun t =>
      ofSched t (fun q => q.st == .loaded && q.entries == [1] && q.recs == [4]) && ofStrand t fun st => st.rx 1 == 0) := by decide +kernel
theorem test_schstat : reg (withSched (loadedSched .busy) fun q => { q with pos := 1, acr := 2, gcr := 3, stash := 4, ainu := 5, ginu := 6 })
    (.schstat 1) 1 = some 0x0605030204030001 := by decide +kernel

def endedCore (k : Core) : Core := { k with l := { k.l with ended := true }, c := { k.c with ended := true }, s := { k.s with ended := true } }
theorem witness_GangLifeCycle :
    (ofRank (withRank atL fun r => { r with gangs := [gangOf 3 .ready], walk := true }) fun r =>
      r.walk && r.slot? == some 0 && r.gangs.all fun g => g.cond == .ready) ∧ (atL.slot 0).occupant = some 0 ∧
    (((withGangs atL [gangOf 3 .starting]).gang? 0 3).any fun g => g.cond == .starting && g.cores.isEmpty) ∧
    (((withGangs atL [gangOf 3 (.halting 2 1)]).gang? 0 3).any fun g => g.cond == .halting 2 1) ∧
    (ofGang atL fun g => !atL.gangDone 0 g) ∧
    (((withGangs atL [{ gangOf 3 .placed with cores := [endedCore (Core.start (recOf 3) 0 0)] }]).gang? 0 3).any fun g =>
      (withGangs atL [{ gangOf 3 .placed with cores := [endedCore (Core.start (recOf 3) 0 0)] }]).gangDone 0 g && g.source == .launch) ∧
    ofRank atL (fun r => r.gangs.all fun y => y.cond != .waiting) := by decide +kernel

theorem test_gangStartRegisters : next (exec (.gangStart 0 3) (withGangs atL [{ gangOf 3 .starting with launch :=
    { raw := BitVec.ofNat 1024 (3 + 0x55 * 2 ^ 192), etab := 0x410000 } }])) (fun t => (t.gang? 0 3).any fun g => g.cond == .placed &&
      g.cores.map (fun k => (k.coreno, k.l.pc, k.l.rx 1, k.s.rx 2)) == [(0, 0x410000, 0x55, 0)]) := by decide +kernel

theorem witness_HostQueueRegistersAndPosting : (0x20C#64).toNat % 16 < 13 ∧ 13 ≤ (0x20D#64).toNat % 16 ∧
    (let s := withSlot atL fun k => { k with hqbase := 1, hqctl := 1, hqptr := 0x10000 }
     (s.slot 0).occupant = some 0 ∧ (s.slot 0).hqEn ∧ bitAt (s.slot 0).hqctl 1 = false ∧ (s.slot 0).hqHead ≠ (s.slot 0).hqTail ∧
     (s.slot 0).hqLogn ≠ 0 ∧ ofRank s (fun r => r.refusal (s.hostEntry 0 0) true none == some 4)) ∧
    (let s := withSlot { atL with hostMem := [(0, 9)] } fun k => { k with hqbase := 1, hqctl := 1, hqptr := 0x10000 }
     ofRank s (fun r => r.refusal (s.hostEntry 0 0) true none == none)) ∧ (atL.slot 15).hqEn = false ∧
    (atL.ranks.all fun r => r.gangs.all fun g => g.source != .hostQueue 0) := by decide +kernel

theorem witness_ScheduleTableEvents : ofRank (loadedSched .ready) (fun r => r.vr == 0 && r.sched.headEntry == some 1 && r.slot?.isSome &&
      r.sched.waitCause 1 == none && decide (r.pendingGangs < 256) &&
      r.refusal { blockRec 4 with raw := putBits (putBits (blockRec 4).raw 192 64 (entArg 1)) 36 3 (entPri 1) } false none == none) ∧
    (Sched.waitCause { (Sched.clear firstRank.sched) with acr := 0 } 0x10001 = some 0 ∧
      Sched.waitCause (Sched.clear firstRank.sched) 0x40001 = some 1 ∧ Sched.waitCause (Sched.clear firstRank.sched) 1 = some 2) ∧
    ofSched (loadedSched .ready) (fun t => t.upv && t.upvr == 7 && t.dnv && t.dnvr == 8 && t.arra.isEmpty && t.arrg.isEmpty &&
      decide (t.ainu < t.na) && decide (t.ginu < t.ng) && decide (t.acr + 255 ≤ 255)) := by decide +kernel

/-! ### Witnesses: bundles and boundaries -/

theorem witness_BundleIssueAndLanding : atC.cur.strand = .c ∧
    ofCore atC (fun k => !k.c.lp0.active && !k.c.lp1.active && !k.c.ended) ∧
    ofCore (withCore atC fun k => { k with sinceIssue := 63 }) (fun k => decide (k.sinceIssue < 1 + 63)) ∧
    ofCore (withCore atC fun k => { k with sinceIssue := 64 }) (fun k => decide (1 + 63 ≤ k.sinceIssue)) ∧
    mLegal (colWord 0xFE000000) = false ∧ vLegal (colWord 0xFE000000) 127 = false ∧ xInstr 0xFC000000 = none ∧
    ofCore (withCore atC fun k => { k with shape := 0x20101 }) (fun k => k.eszCode == 2 && k.vBusy == 0 && k.pwq.isEmpty &&
      (k.tqueue 7).ents.isEmpty && !(k.tqueue 7).closed) ∧
    ofCore (withCore atC fun k => k.setTqueue 7 { k.tqueue 7 with closed := true }) (fun k => (k.tqueue 7).closed) ∧
    (let p : Pending := { left := 0, writes := [{ dest := .pred 95, value := 5, mask := 7 }], accum := none, flags := 0, clear := 0, fromX := false }
     ofCore (withCore atC fun k => { k with pwq := [p] }) (fun k => k.pwq == [p])) := by decide +kernel

theorem test_predicateLands : next (exec (.pendingWriteLand firstStrand) (withCore atC fun k => { k with pwq :=
    [{ left := 0, writes := [{ dest := .pred 95, value := 5, mask := 7 }], accum := none, flags := 1, clear := 0, fromX := false }] })) (fun t =>
      ofCore t fun k => k.c.p[95]? == some 5 && k.c.fpflags == 1 && k.pwq.isEmpty) := by decide +kernel
theorem test_bundleTooEarly : next (exec (.bundleIssue (BitVec.ofNat 32 (3 * 2 ^ 26 + 0x1FFFFF)) 0 0 0) (withCore atC fun k => { k with sinceIssue := 3 }))
    (fun t => ofStrand t fun st => st.pc == 0x0) := by decide +kernel
theorem test_bundleX : next (exec (.bundleIssue 0x1FFFFF 0 0 0x08620005) (withCore (withRegs atC [(2, 4)]) fun k => { k with sinceIssue := 1 }))
    (fun t => ofStrand t fun st => st.rx 3 == 9 && st.pc == 16) := by decide +kernel

/-- Every strand of the gang in one wait. -/
def allWait (s : State) (w : Wait) : State := withCore s fun k =>
  { k with l := { k.l with wait := some w }, c := { k.c with wait := some w }, s := { k.s with wait := some w } }
def storeTo (a : Nat) : BStore := { core := 0, strand := .l, gang := 1, dst := .phys a, bytes := [1, 2], va := 0x410000 }
def idleRank (s : State) : State := withRank s fun r => { r with gangs := [], sbuf := [storeTo 0x50000] }
def withJob (s : State) : State := { s with jobs := [{ id := 1, n := 1, seed := 0, groups := [], arrived := [] }] }

theorem witness_PhaseAndStepBoundaries : (atL.ranks.map Rank.vr).Nodup ∧
    (ofRank (allWait atL .phase) fun r => (allWait atL .phase).phaseReady r && r.peerWrites.isEmpty && r.coupling == none && r.slot? == some 0) ∧
    (Memory.wf atL.mem ∧ physExists 0x50000 ∧ physExists 0x50001) ∧
    (ofRank atL fun r => !atL.phaseReady r && !r.quiesced) ∧
    (ofRank (idleRank atL) fun r => r.quiesced && (idleRank atL).uncommitted r && r.peerWrites.isEmpty) ∧
    (ofRank (allWait atL .held) fun r => (allWait atL .held).stepReady r) ∧ (ofRank atL fun r => !atL.stepReady r) ∧
    ((withJob (withRank atL fun r => { r with stepSt := .arrived })).jobs.all fun j =>
      (withJob (withRank atL fun r => { r with stepSt := .arrived })).rankArrived j 0) ∧
    ((withJob atL).jobs.all fun j => !(withJob atL).rankArrived j 0) ∧
    (let s := withRank atL fun r => { r with coupling := some 4 }
     (s.groupRanks 4).length = 1 ∧ ((s.groupRanks 4).all fun r => r.peerWrites.isEmpty) ∧ s.groupAway 4 = false) := by decide +kernel

theorem test_boundaryCommits : next (exec (.phaseBoundary 0) (withRank (allWait atL .phase) fun r => { r with sbuf := [storeTo 0x50000] })) (fun t =>
    ofRank t (fun r => r.phaseno == 1 && r.sbuf.isEmpty) && physBytes t.mem 0x50000 3 == [1, 2, 0] &&
      ofStrand t fun st => st.wait == none) := by decide +kernel
theorem test_stepCompletes : next (exec (.stepCollectiveComplete 1) (withJob (withRank (allWait atL .held) fun r => { r with stepSt := .arrived })))
    (fun t => ofRank t (fun r => r.stepno == 2 && r.stepSt == .running) && ofStrand t fun st => st.wait == none) := by decide +kernel

/-! ### Witnesses: engine commands, collectives, migration -/

def cmdOf (id e : Nat) (st : CmdSt) (b : CmdBody) : Cmd :=
  { id := id, by' := firstStrand, sup := false, engine := e, slot := 0, order := 0, st := st, pins := [], body := b, raw := 0, wrote := [], spoiled := [], ending := false }
def withCmd (s : State) (c : Cmd) : State := { s with cmds := s.cmds ++ [c] }
def stands (s : State) (c : Cmd) : Bool := s.cmd? c.id == some c && s.cmdLive c && s.cmdFirst c
def copyTo (d : Space) : CmdBody := .copy (.scratch 0) d 2 1 0 0 none [some 7, some 8] 0 0
/-- The gang of the acting strand not on its cores. -/
def offCores (s : State) : State := withGang s fun g => { g with cond := .ready }

theorem witness_CopyCommandsAndReset :
    stands (withCmd atL (cmdOf 4 0 .queued (copyTo (.scratch 0x200)))) (cmdOf 4 0 .queued (copyTo (.scratch 0x200))) ∧
    stands (withCmd atL (cmdOf 4 31 .running (copyTo (.scratch 0x7FFFE)))) (cmdOf 4 31 .running (copyTo (.scratch 0x7FFFE))) ∧
    Memory.wf (atL.slot 0).pads ∧
    stands (withCmd atL (cmdOf 4 0 .running (copyTo (.glob 0 0 0x50000)))) (cmdOf 4 0 .running (copyTo (.glob 0 0 0x50000))) ∧
    (offCores (withCmd atL (cmdOf 4 0 .queued (copyTo (.scratch 0x200))))).cmdLive (cmdOf 4 0 .queued (copyTo (.scratch 0x200))) = false ∧
    ofRank atL (fun r => r.servedBy 0 0) := by decide +kernel

/-- The source bytes of the copy stand in the pad; the copy has no row left. -/
def sourced (s : State) : State := withSlot s fun k => { k with pads := memPut k.pads 0 [7, 8] }
def copyEnd (d : Space) : CmdBody := .copy (.scratch 0) d 2 1 0 0 none [some 7, some 8] 1 0
theorem test_copyMoves : next (exec (.copyRetire 4) (sourced (withCmd atL (cmdOf 4 0 .running (copyTo (.scratch 0x200)))))) (fun t =>
    t.cmds.map (fun c => c.body) == [copyEnd (.scratch 0x200)] && memBytes (t.slot 0).pads 0x200 3 == [7, 8, 0]) := by decide +kernel
theorem test_copyRetires : next (exec (.copyRetire 4) (withCmd atL (cmdOf 4 0 .running (copyEnd (.scratch 0x200))))) (fun t => t.cmds.isEmpty) := by
  decide +kernel
theorem test_engineResetRecord : next (exec (.engineReset 3 0) (withStrand atL fun st =>
    { st with recs := st.recs.set 3 9, markers := [marker 3, marker 4] })) (fun t =>
      ofStrand t fun st => st.recs[3]? == some 0 && st.markers == [marker 4]) := by decide +kernel

/-- A graph of two ops: op 0 of a kind to VR 9, with op 1 as its successor. -/
def graph2 (kind : Nat) : Graph :=
  { header := BitVec.ofNat 128 (2 * 2 ^ 48 + 4 * 2 ^ 64), trees := [],
    ops := [BitVec.ofNat 256 (kind + 3 * 2 ^ 64 + 9 * 2 ^ 72 + 4 * 2 ^ 160 + 5 * 2 ^ 192 + 1 * 2 ^ 208 + 0xFFFF * 2 ^ 224 + 0xFFFF * 2 ^ 240),
            BitVec.ofNat 256 (1 + 1 * 2 ^ 32 + 0xFFFF * 2 ^ 208 + 0xFFFF * 2 ^ 224 + 0xFFFF * 2 ^ 240)] }
def opAt (counter : Nat) (running complete sent : Bool) : OpSt :=
  { counter := counter, pos := 0, half := false, running := running, complete := complete, sent := sent, received := false }
def collOf (kind : Nat) (ops : List OpSt) : Coll :=
  { slot := 63, graph := graph2 kind, opf := 0, bufs := [.scratch 0, .scratch 0x100, .scratch 0, .scratch 0], replay := 1, step := 1, ops := ops,
    imgs := [List.replicate 4 (some 6), [], [], []], data := [] }
def collCmd (kind : Nat) (ops : List OpSt) (st : CmdSt) : Cmd := cmdOf 4 32 st (collOf kind ops).body
def freshOps : List OpSt := [opAt 0 false false false, opAt 1 false false false]

/-- A combine node with both operands of level 0. -/
def treeKey : TreeKey := { job := 1, slot := 0, tree := 0, lo := 0, hi := 1, replay := 1, pos := 0, len := 1 }
def treeOf (nodes : List (Nat × Nat × List Byte)) : TreeSt :=
  { key := treeKey, opf := 10, recw := 0, desc := 0, tag := 5, step := 1, nodes := nodes, differs := false }
def withTree (s : State) (t : TreeSt) : State := { s with trees := [t] }

theorem witness_CollectiveEngines :
    graphOk 0 [] [] = false ∧ ofRank atL (fun _ => true) ∧
    (let h : BitVec 128 := BitVec.ofNat 128 (2 ^ 48 + 2 ^ 64 + (graphCrc [] [1]).toNat * 2 ^ 96)
     graphOk h [] [1] = true) ∧
    stands (withCmd atL (collCmd 0 freshOps .queued)) (collCmd 0 freshOps .queued) ∧
    (collOf 1 freshOps).startable 0 ∧ (collOf 1 freshOps).startable 1 = false ∧ opKind ((collOf 4 freshOps).op 0) ∈ [1, 3, 4] ∧
    (opKind ((collOf 0 freshOps).op 0) = 0 ∧ opVlen ((collOf 0 freshOps).op 0) = false ∧ opPeer ((collOf 0 freshOps).op 0) = 9 ∧
      (twoRanks.rank? 9).any (fun r => r.place != .transit) ∧
      ((withCmd twoRanks (collCmd 0 freshOps .running)).cmds.all fun y => y.by'.vr != 9)) ∧
    ((collOf 0 [opAt 0 true false true, opAt 0 false true false]).st 0).sent ∧ ((collOf 0 [opAt 0 true false true, opAt 0 false true false]).st 1).complete ∧
    (ofRank atL fun r => (r.chunksFor ((collOf 1 freshOps).op 0) 1).isEmpty) ∧
    (let t := treeOf [(0, 0, [1, 0, 0, 0]), (0, 1, [2, 0, 0, 0])]
     (2 * 0 + 1 < levelCount 2 0 ∧ combine t.opf t.recw [1, 0, 0, 0] [2, 0, 0, 0] = [3, 0, 0, 0].map some ∧
       atL.holder? treeKey 1 0 = none) ∧ levelCount 2 1 ≤ 1 ∧ treeDkind t.desc = 0 ∧ treeDvr t.desc = 0) := by decide +kernel

theorem test_sendLands : next (exec (.collOpStart 4 0) (withSlot (withCmd twoRanks (collCmd 0 freshOps .running)) fun k =>
    { k with pads := memPut k.pads 0 [6, 6, 6, 6] })) (fun t =>
    (t.rank? 9).any fun r => r.landing.map (fun c => (c.endpoint, c.src, c.tag, c.bytes)) == [(3, 0, 5, [6, 6, 6, 6])]) := by decide +kernel
theorem test_successor : next (exec (.collOpComplete 4 0) (withCmd atL (collCmd 0 [opAt 0 true false true, opAt 1 false false false] .running)))
    (fun t => (t.cmd? 4).any fun c => c.body.coll?.any fun y => (y.st 1).counter == 0 && (y.st 0).complete) := by decide +kernel
theorem test_treeSum : next (exec (.treeNodeCombine treeKey 0 0) (withTree atL (treeOf [(0, 0, [255, 0, 0, 0]), (0, 1, [2, 0, 0, 0])]))) (fun t =>
    t.trees.map (fun x => x.nodes) == [[(1, 0, [1, 1, 0, 0])]]) := by decide +kernel

/-- A migration command for a VR from slot 0, or from fallow, to fallow here or to slot 2. -/
def migTemplate (vr src dst : Nat) : BitVec 512 :=
  BitVec.ofNat 512 (2 ^ 15 + 2 * 2 ^ 8 + (if dst = 16 then 1 else 0) * 2 ^ 28 + dst % 16 * 2 ^ 16 + src / 16 * 2 ^ 30 + src % 16 * 2 ^ 20 + vr * 2 ^ 32 + 0x60000 * 2 ^ 256 +
    2 * 2 ^ 160 + 0x70000 * 2 ^ 96)
def migCmd (vr src dst stage : Nat) : Cmd := cmdOf 4 33 .running (.migr (migTemplate vr src dst) stage [] 0 0 0)
def migrating (vr src dst stage : Nat) : State := withCmd (withRank atL fun r => { r with stepSt := .arrived }) (migCmd vr src dst stage)
/-- VR 9 stands at its step boundary in slot 1, and a strand of VR 0 moves it to fallow here. -/
def moving (stage : Nat) : State := withCmd (twoRanks.modRank 9 fun r => { r with stepSt := .arrived }) (migCmd 9 1 16 stage)
def pinned (vr : Nat) : Lock := { vr := vr, va := 0, large := false, frame := 0, count := 1 }

/-- The free-frame list names one frame of LPDDR. -/
def listed : State := { atL with mem := physPut atL.mem 0x70000 (leBytes 8 0x40000000001) }

theorem witness_Migration : stands (migrating 5 0 16 0) (migCmd 5 0 16 0) ∧ (migrating 5 0 16 0).rank? (migVr (migTemplate 5 0 16)) = none ∧
    (List.range 16).all (fun i => physExists (migResult (migTemplate 5 0 16) + i)) ∧
    ((moving 0).rank? 9).any (fun r => (moving 0).holdsAtStep r && r.place == migrSource (migTemplate 9 1 16)) ∧
    stands (moving 0) (migCmd 9 1 16 0) ∧ (moving 0).migrHere (migTemplate 9 1 16) ∧ migToSlot (migTemplate 0 0 16) = false ∧ migToSlot (migTemplate 0 0 2) ∧
    bitAt { atL with clavail := 4 }.clavail (migDstSlot (migTemplate 0 0 2)) ∧
    ({ atL with locks := [pinned 0] } : State).locks.any (fun l => l.vr == 0) ∧
    (match listed.rebuildTree 1 0 { list := (listed.freeList (migTemplate 0 0 16) [0x40000000001]).1, taken := [], pages := 0, tables := [], copies := [] } with
      | .ok _ => true | .error _ => false) = true ∧
    (migrating 0 0 16 3).pubs.all (fun p => p.cmd != some 4) ∧ migrSource (migTemplate 0 0 16) = .resident 0 ∧
    (atL.slot 0).occupant.bind atL.rank? ≠ none := by decide +kernel

theorem test_migrateUnknown : next (exec (.migrationCommand 4) (migrating 5 0 16 0)) (fun t => t.cmds.isEmpty &&
    ofRank t fun r => r.engView.map (fun w => (w.bytes.take 2).map fun e => (e.dst, e.val)) == [[(.phys 0x60000, 1), (.phys 0x60001, 0)]]) := by
  decide +kernel
theorem test_stackFails : next (exec (.stackFailure 0) atL) (fun t => t.ranks.isEmpty && t.clavail == 0) := by decide +kernel

/-! ### Witnesses: the granary -/

def shardRec (role : Nat) : ShardRec :=
  { job := 1, shard := 2, role := role, efmt := 0, rule := 0, elems := 2, c := 5, p1 := 0, p2 := 0, hp := List.replicate 12 0, sbase := 0x100000,
    ebase := 0x200000, mv := false, mdom := 0, mpkg := 0, hdom := 0, hpkg := 0, bmap := 0, tclose := 1 }
def shardOf (role : Nat) : Shard := Shard.fresh (shardRec role)
def withShard (s : State) (x : Shard) : State :=
  { s with granary := { s.granary with shards := [x], rules := [(1, 0, [])] } }
def blockOf (step : Nat) : GBlock :=
  { sdom := 0, spkg := 0, job := 1, shard := 2, block := 0, step := step, ecnt := 2, fmt := 1, payload := [], crc := 0 }
def hasShard (s : State) (p : Shard → Bool) : Bool := (s.shard? 1 2).any p

theorem witness_GranaryBlocksAndSteps : atL.shard? 1 2 = none ∧
    hasShard (withShard atL (shardOf 1)) (fun x => x.rec'.role == 1 && !x.lost && x.seeding == none && x.received.isEmpty) ∧
    ((blockOf 6).block < ((shardRec 1).elems + 16383) / 16384 ∧ (blockOf 6).ecnt = min 16384 ((shardRec 1).elems - 0) ∧
      ((withShard atL (shardOf 1)).ruleProgram 1 0).isSome) ∧
    (blockOf 5).step ≤ (shardRec 1).c ∧ (shardRec 1).c + 2 ≤ (blockOf 7).step ∧ (blockOf 6).step = (shardRec 1).c + 1 ∧
    hasShard (withShard atL { shardOf 1 with received := [0] }) (fun x => x.received == [0] && x.applying.isEmpty && x.snaps.isEmpty && x.deferred.isEmpty) ∧
    hasShard (withShard atL { shardOf 2 with applying := [blockOf 6] }) (fun x => (x.applying.find? fun y => y.block == 0) == some (blockOf 6)) ∧
    ((withShard atL (shardOf 1)).ruleProgram 1 0 = some [] ∧ Memory.wf atL.mem ∧ physExists 0x100000 ∧ physExists (0x100000 + 196607) ∧
      0x100000 + 196608 ≤ 0x200000) ∧
    hasShard (withShard atL { shardOf 1 with timer := some 1024 }) (fun x => x.timer == some 1024 && x.rec'.tclose != 0 && !x.timedOut) := by
  decide +kernel
/-- A block whose length and CRC are right. -/
def wholeBlock : GBlock := { blockOf 6 with payload := List.replicate 16384 0 }
theorem witness_formedBlock : gblockCrc { wholeBlock with crc := gblockCrc wholeBlock } = { wholeBlock with crc := gblockCrc wholeBlock }.crc ∧
    wholeBlock.payload.length = 16384 := by
  refine ⟨?_, ?_⟩
  · unfold gblockCrc gblockHeader gblockPayload
    exact rfl
  · unfold wholeBlock
    exact List.length_replicate

theorem test_malformedCounts : next (exec (.gradientBlockArrive (blockOf 6)) (withShard atL (shardOf 1))) (fun t =>
    hasShard t fun x => x.malf == 1 && x.received.isEmpty) := by decide +kernel
theorem test_closeAdvances : next (exec (.granaryStepClose 1 2) (withShard atL { shardOf 1 with received := [0], dup := 4 })) (fun t =>
    hasShard t fun x => x.rec'.c == 6 && x.served == 1 && x.received.isEmpty && x.dup == 4) := by decide +kernel

theorem witness_GranaryCommands : recLegal 0 = false ∧ recLegal (BitVec.ofNat 1024 (2 ^ 64)) = true ∧
    ruleLegal 0 = false ∧ ruleLegal (BitVec.ofNat 32 (1 * 2 ^ 26)) = true ∧
    hasShard (withShard atL (shardOf 0)) (fun x => x.rec'.role == 0 && x.deferred.isEmpty) ∧
    hasShard (withShard atL (shardOf 1)) (fun x => x.rec'.role == 1 && !x.rec'.mv) ∧ hasShard (withShard atL (shardOf 2)) (fun x => x.rec'.role == 2) ∧
    hasShard (withShard atL { shardOf 1 with rec' := { shardRec 1 with mv := true } }) (fun x => x.rec'.mv && x.failed.isEmpty) ∧
    leNat (physBytes atL.mem 0x70000 1) = 0 ∧ atL.granary.cmds = [] ∧ (0 < 0x20#64 / 256 ∨ (0x2000#64).toNat / 256 % 64 = 32) := by decide +kernel
theorem test_promote : next (exec (.promote 1 2 0 0) (withShard atL (shardOf 2))) (fun t => hasShard t fun x => x.rec'.role == 1) := by decide +kernel

def gatherOf (step : Nat) : GatherMsg := { dom := 0, pkg := 0, cmd := 4, job := 1, shard := 2, block := 0, nblk := 1, step := step }
def toHere : DHdr := { dpkg := 0, spkg := 3, dvr := 0, svr := 9, seq := 9 }
def toThere : DHdr := { toHere with dpkg := 5 }

theorem witness_GranaryGathersAndSeeding : toThere.dpkg ≠ atL.ownPkg ∧ toHere.dpkg = atL.ownPkg ∧
    ((shardRec 1).elems + 16383) / 16384 < ({ gatherOf 6 with block := 1 }).block + 1 ∧ (gatherOf 6).block + 1 ≤ ((shardRec 1).elems + 16383) / 16384 ∧
    (gatherOf 5).step ≤ (shardRec 1).c ∧ (gatherOf 6).step = (shardRec 1).c + 1 ∧ (shardRec 1).c + 1 < (gatherOf 7).step ∧
    (let c := cmdOf 4 34 .queued (.gran (gatherOf 6) (.scratch 0) 32768 (.scratch 0) (.scratch 0x7FFF0) false)
     stands (withCmd atL c) c) ∧
    hasShard (withShard atL (shardOf 3)) (fun x => x.rec'.role == 3) ∧
    hasShard (withShard atL { shardOf 1 with seeding := some (0, 3, false) }) (fun x => x.seeding != none) ∧
    hasShard (withShard atL { shardOf 2 with rec' := { shardRec 2 with hpkg := 3 } }) (fun x =>
      (x.rec'.hdom, x.rec'.hpkg) == (0, 3) && !x.rec'.mv && x.deferred.isEmpty && !x.lost && (0, 3) != (atL.ownDom, atL.ownPkg)) := by decide +kernel
theorem test_gatherStale : next (exec (.gather toHere { gatherOf 5 with pkg := 3 }) (withShard atL (shardOf 1))) (fun t =>
    t.fabric.head.map (fun m => m.msg) == [.loadData { dpkg := 3, spkg := 0, dvr := 0, svr := 0, seq := 4 } [1]]) := by decide +kernel

/-! ### Witnesses: remote accesses -/

def frameSet (v : BitVec 8) : State := { atL with frameStates := [(frameIndex 0x50000, v)] }
def parkedLoad (n : Nat) : Parked := { msg := .remoteLoad toHere (.phys 0x50000) 8, slots := n }

theorem witness_RemoteRequestsAtTheirTarget : toThere.dpkg ≠ atL.ownPkg ∧ toHere.dpkg = atL.ownPkg ∧ physExists 0x50000 ∧
    (frameSet 1).frameState (frameIndex 0x50000) = 1 ∧ (frameSet 3).frameState (frameIndex 0x50000) = 3 ∧
    (frameSet 2).frameState (frameIndex 0x50000) = 2 ∧ physExists 0x80000000000 = false ∧
    atL.slotOf toHere.dvr = some 0 ∧ atL.slotOf 9 = none ∧
    ({ atL with faultq := [parkedLoad 65536] } : State).faultq.map (fun p => demandHdr p.msg) = [toHere] := by decide +kernel
theorem test_closedFrameRefuses : next (exec (.remoteLoad toHere (.phys 0x50000) 8) atL) (fun t =>
    t.fabric.head.map (fun m => m.msg) == [.refusal { dpkg := 3, spkg := 0, dvr := 9, svr := 0, seq := 9 } 1]) := by decide +kernel
theorem test_openFrameHolds : next (exec (.postedWrite toHere (.phys 0x50000) 0 .l 0 [4, 5]) (frameSet 1)) (fun t =>
    t.held.map (fun h => (h.vr, h.addr, h.bytes)) == [(9, 0x50000, [4, 5])] && t.mem == atL.mem) := by decide +kernel
theorem test_parkedJoins : next (exec (.atomic toHere 0x50000 (.fxadd 0 1)) (frameSet 2)) (fun t => t.faultq.length == 1) := by decide +kernel

def windowAccess (op : AccOp) (sent : Bool) (slots : Nat) (resend : Option Nat) : State := withRank atL fun r =>
  { r with accesses := [{ flying op (.window 3 9 0 0) with sent := sent, slots := slots, resend := resend }] }

theorem witness_RemoteAnswersAtTheSource : ((windowAccess (.load 1 8) true 0 none).accessOf toHere.seq).any (fun p => p.2.id == 9) ∧
    ((windowAccess (.store [1]) true 0 none).accessOf toHere.seq).isSome ∧ atL.accessOf toHere.seq = none ∧ atL.cmds = [] ∧ atL.pubs = [] ∧
    ((windowAccess (.load 1 8) false 0 none).access? 9).any (fun p => !p.2.sent) ∧
    ((windowAccess (.load 1 8) true 0 (some 0)).access? 9).any (fun p => p.2.resend == some 0) ∧
    ((windowAccess (.load 1 8) true 262144 none).access? 9).any (fun p => p.2.sent && decide (262144 ≤ p.2.slots) && p.2.resend == none) ∧
    ofStrand atL (fun st => st.wait != some (.access 9)) := by decide +kernel
theorem test_resultEndsAccess : next (exec (.atomicResult toHere 0x66) (withStrand (windowAccess (.atom .add 2 8 1) true 5 none) fun st =>
    { st with wait := some (.access 9) })) (fun t => ofStrand t (fun st => st.rx 2 == 0x66 && st.wait == none) && ofRank t fun r => r.accesses.isEmpty) := by
  decide +kernel

/-! ### Witnesses: furrows, links, frames -/

/-- A furrow entry: OFF, flits, FID, role, output links, input. -/
def furrow (off n fid role outs inl : Nat) : BitVec 128 :=
  BitVec.ofNat 128 (off * 2 ^ 96 + n * 2 ^ 80 + fid * 2 ^ 64 + role * 2 ^ 60 + outs * 2 ^ 24 + inl * 2 ^ 18)
def withFabric (s : State) (f : Fabric → Fabric) : State := { s with fabric := f s.fabric }
def outOf : XferOut := { fid := 5, xfer := 1, bytes := List.replicate 52 1, ready := 0, departed := none, attempts := 0, awaiting := [3], op := none }
def furrows (l : List (BitVec 128)) : State := withFabric atL fun q => { q with furrows := l, outs := [outOf], dtb := 1026 }
def flit0 : Flit := { fid := 5, idx := 0, xfer := 1, payload := 0 }
def linkIs (s : State) (k : Nat) (p : Link → Bool) : Bool := (s.fabric.links[k]?).any p
def withLink (s : State) (k : Nat) (l : Link) : State := withFabric s fun q => { q with links := q.links.set k l }
def upLink : Link := { up := true, fenced := false, lanes := 8, spd := 0, offer := none, round := 0 }

theorem witness_FurrowTransfers : furLegal 1024 (furrow 2 1 5 1 1 32) ∧ furLegal 1024 (furrow 7 1 5 1 1 32) = false ∧ 1024 = 2 ^ (10 + 0) ∧
    ((furrows [furrow 2 1 5 1 1 32]).fabric.furrows.find? fun e => furFid e == 5 && furRole e == 1).isSome ∧
    ((furrows []).fabric.outs.find? fun x => x.fid == 5 && x.departed.isNone).isSome ∧ 1026 % 1024 = furOff (furrow 2 1 5 1 1 32) ∧
    outOf.bytes.length + 4 ≤ 56 * furNflit (furrow 2 1 5 1 1 32) ∧ 1026 % 1024 ≠ furOff (furrow 3 1 5 1 1 32) ∧
    furRole (furrow 2 1 5 2 1 0) = 2 ∧ furRole (furrow 2 1 5 3 1 0) = 3 ∧ furNflit (furrow 2 1 5 3 1 0) = 1 ∧ furInl (furrow 2 1 5 3 1 0) = 0 ∧
    (let bytes := leBytes 12 (2 * 36 * 2 ^ 32 + 1) ++ List.replicate 40 0
     let f : Flit := { flit0 with payload := BitVec.ofNat 448 (leNat (bytes ++ leBytes 4 (crc32c bytes).toNat)) }
     16 + leNat (((leBytes 56 f.payload.toNat).drop 4).take 4) / 2 ≤ 52 ∧
       leBytes 4 (crc32c ((leBytes 56 f.payload.toNat).take 52)).toNat = (leBytes 56 f.payload.toNat).drop 52) ∧
    linkIs (withLink atL 0 upLink) 0 (fun l => l.up && !l.fenced) ∧ linkIs atL 31 (fun l => !l.up) ∧ outOf.awaiting.all (fun p => p == toHere.spkg) := by
  decide +kernel
theorem test_nackLeavesAgain : next (exec (.transferNack toHere 5 1) (withFabric atL fun q => { q with outs := [{ outOf with departed := some 7 }] }))
    (fun t => t.fabric.outs.map (fun x => (x.attempts, x.departed)) == [(1, none)]) := by decide +kernel
theorem test_routerDelay : next (exec (.scheduledFlitArrive 0 flit0) (furrows [furrow 0 1 5 2 2 0])) (fun t =>
    t.fabric.departing.map (fun d => (d.link, d.slot)) == [(1, 1066)]) := by decide +kernel

def waiting32 : HeadFlit := { link := 0, input := 32, msg := .writeAck toThere }
theorem witness_HeadlandSlotsAndLinks :
    (let s := withFabric (withLink atL 0 upLink) fun q => { q with head := [waiting32], dtb := BitVec.ofNat 64 (32 * 8 + 7) }
     s.fabric.dtb.toNat % 8 = 7 ∧ waiting32.input = (s.fabric.dtb.toNat / 8 + 0) % 33 ∧ linkIs s 0 fun l => l.up && !l.fenced) ∧
    atL.fabric.dtb.toNat % 8 ≠ 7 ∧ linkIs atL 0 (fun l => l.offer == none && !l.up) ∧ linkIs (withLink atL 0 upLink) 0 (fun l => l.up) ∧
    trCrc 0 ≠ (0 : BitVec 128).extractLsb' 96 32 ∧
    (let r := putBits (BitVec.ofNat 128 (1 * 2 ^ 32 + 0xFF * 2 ^ 64)) 96 32 (trCrc (BitVec.ofNat 128 (1 * 2 ^ 32 + 0xFF * 2 ^ 64))).toNat
     trCrc r = r.extractLsb' 96 32 ∧ trPass r = 1 ∧ (agreement r r).isSome) ∧
    (let r := putBits (BitVec.ofNat 128 (2 * 2 ^ 32 + 0xFF * 2 ^ 64)) 96 32 (trCrc (BitVec.ofNat 128 (2 * 2 ^ 32 + 0xFF * 2 ^ 64))).toNat
     trCrc r = r.extractLsb' 96 32 ∧ trPass r = 2 ∧ bitsAt r 64 8 = 2 ^ upLink.lanes - 1 ∧ trSpd r = upLink.spd) ∧ agreement 0 0 = none := by decide +kernel
theorem test_headlandSends : next (exec (.headlandSlot 0) (withFabric (withLink atL 0 upLink) fun q =>
    { q with head := [waiting32], dtb := BitVec.ofNat 64 (32 * 8 + 7) })) (fun t => t.out == [.demand 0 (.writeAck toThere)] && t.fabric.head.isEmpty) := by
  decide +kernel

def frameHdr : FrameHdr :=
  { port := 0, dom := 1, pkg := 3, seq := 0, ackseq := 0, last := true, endpt := 2, dvr := 0, svr := 9, tag := 6, replay := 1, offset := 0, crcOk := true }
def sentFrame (seq age resends : Nat) : OutFrame := { seq := seq, kind := 1, hdr := frameHdr, body := .none, op := none, age := age, resends := resends }
def withConn (l : List OutFrame) : State := { atL with conns := [{ port := 0, dom := 1, pkg := 3, sendSeq := 2, recvNext := 0, unacked := l,
                                                                   failed := false, halved := false }] }

theorem witness_ScaleOutTransport : frameHdr.crcOk ∧ ¬ { frameHdr with crcOk := false }.crcOk ∧ frameHdr.dom ≠ atL.ownDom ∧
    frameHdr.seq = (atL.conn 0 1 3).recvNext ∧ { frameHdr with seq := 1 }.seq ≠ (atL.conn 0 1 3).recvNext ∧
    seqBefore 1 0 = false ∧ seqBefore 0xFFFFFFFF 0 ∧
    (((withConn [sentFrame 0 50000 31]).conn 0 1 3).unacked.all fun x => decide (x.resends < 32) && !seqBefore x.seq frameHdr.ackseq) ∧
    (((withConn [sentFrame 0 50000 32]).conn 0 1 3).unacked.any fun x => decide (50000 ≤ x.age) && decide (32 ≤ x.resends)) := by decide +kernel
theorem test_chunkLands : next (exec (.collectiveChunk frameHdr 4 [1, 2]) atL) (fun t => ofRank t fun r =>
    r.landing.map (fun c => (c.slot, c.endpoint, c.src, c.bytes, c.whole)) == [(4, 2, 9, [1, 2], true)]) := by decide +kernel
theorem test_ackEnds : next (exec (.frameAck { frameHdr with ackseq := 1 }) (withConn [sentFrame 0 0 0, sentFrame 1 0 0])) (fun t =>
    (t.conn 0 1 3).unacked.map (fun x => x.seq) == [1]) := by decide +kernel

/-! ### Witnesses: the host, bring-up, the service ring -/

/-- A message of the host waits, READY or not. -/
def message (ready : Bool) (stage : BitVec 4) (m : Nat) : State :=
  { atL with boot := { atL.boot with stage := stage, ready := ready },
             host := { atL.host with mbin := 1, inbound := [(0, BitVec.ofNat 512 m)] } }
def emptyPlan : Sys2Proof.LoadPlan :=
  { job := 7, ranks := [], entries := [], groups := [], bytes := [], scratch := [], rules := [], gangs := [], records := [], migr := none }

theorem witness_HostMailbox : atL.message = none ∧ (message true 4 1).message = some 1 ∧ (message true 4 1).replyRoom ∧
    (withGang (message true 4 1) fun g => { g with cond := .ready }).slotIdle 0 ∧ (message true 4 1).slotIdle 0 = false ∧
    (message true 4 1).loadStatus emptyPlan 0 0 = (3, false) ∧ (message true 4 2).planOk emptyPlan 1 ∧ (message true 4 2).planOk emptyPlan 0 = false ∧
    (BitVec.ofNat 512 0xFF).toNat % 2 ^ 8 = 0xFF ∧ (message false 15 4).boot.stage = 15 ∧ (message false 3 4).boot.ready = false := by decide +kernel
theorem test_unknownCode : next (exec .mailboxUnknownCode (message true 4 0x50005)) (fun t =>
    mailSlot t.host.outbound 0 == 0x100050005 && mbHead t.host.mbin == 1 && mbTail t.host.mbout == 1) := by decide +kernel
theorem test_resetStage : next (exec .reset (message true 4 4)) (fun t => t.boot.stage == 1 && !t.boot.ready && t.ranks.isEmpty) := by decide +kernel

def inStage (n : BitVec 4) : State := { atL with boot := { atL.boot with stage := n } }
def good : StageEnd := { ok := true, good := 0xFFFE, pkgid := 0x70005, fwver := 3, dtb := some 9 }
theorem witness_BringUpPowerAndErrors : atL.boot.stage = 0 ∧ (inStage 4).boot.stage.toNat = 4 ∧ (inStage 4).boot.ready = false ∧ good.ok ∧
    { good with ok := false }.ok = false ∧ (inStage 15).boot.stage.toNat > 4 ∧ (withCmd atL (cmdOf 4 0 .queued (copyTo (.scratch 0)))).cmd? 4 ≠ none ∧
    (atL.ranks.map Rank.vr).Nodup := by decide +kernel
theorem test_stageTwoClears : next (exec (.bringupStage good) (inStage 2)) (fun t => t.boot.stage == 3 && t.clavail == 0xFFFE && t.mem.isEmpty) := by
  decide +kernel
theorem test_stageFails : next (exec (.bringupStage { good with ok := false }) (inStage 3)) (fun t => t.boot.stage == 15 && t.boot.fail == 3) := by
  decide +kernel
theorem test_moduleFault : next (exec .moduleFault atL) (fun t => t.boot.err && t.ranks.all fun r => r.gangs.isEmpty) := by decide +kernel

/-- Both service rings of the core configured, a request in one. -/
def serving (word : Word) : State :=
  withSlot ((atL.setRing 0 0 14 (ringWord 1 0)).setRing 0 0 15 (BitVec.ofNat 64 (2 ^ 24 + 2)))
    fun k => { k with pads := memPut k.pads 0x40 (leBytes 8 word.toNat) }
def request (va code : Nat) : Service := { by' := firstStrand, word := BitVec.ofNat 64 (code * 2 ^ 56 + va), reply := none, ids := [] }
def asked (s : State) (x : Service) : State := { s with services := [x] }

theorem witness_ServiceRing : atL.served firstStrand = false ∧ (serving 0).served firstStrand ∧ ringCount ((serving 0).ring 0 0 14) ≠ 0 ∧
    (serving 0).slotOf 0 = some 0 ∧ atL.dueRequest firstStrand 1 = none ∧
    (asked atL (request 0x400000 1)).dueRequest firstStrand 1 ≠ none ∧ (asked atL (request 0x400000 2)).dueRequest firstStrand 2 ≠ none ∧
    ((match atL.walkFor 0 false 0 with | .absent m => !m | _ => false) = true) ∧
    ((match atL.walkFor 0 false 0x400000 with | .leaf e _ _ => leafR e && leafW e && leafAper e == 0 | _ => false) = true) ∧
    (asked (serving 0) { request 0 1 with reply := some 2 }).finished { request 0 1 with reply := some 2 } ∧
    serviceRing 0 ((serving 0).ring 0 0 15) ∧ ringFull ((serving 0).ring 0 0 15) = false := by decide +kernel
theorem test_requestTaken : next (exec (.serviceRequest firstStrand) (serving 0x0100000000400000)) (fun t =>
    t.services.map (fun x => (x.word, x.reply)) == [(0x0100000000400000, none)]) := by decide +kernel

/-! ### Witnesses: steps and invariants -/

theorem witness_StepRunsWhatItFinds : atL.inputs = [] ∧ atL.agenda = [] ∧
    ofStrand atL (fun st => atL.mayIssue firstStrand st && !atL.mayIssue firstStrand { st with wait := some .phase }) ∧
    ofStrand (atL.putWords 0x40000 0x1C401000) (fun st => match (atL.putWords 0x40000 0x1C401000).fetch 0 st.sup st.pc 4 with
      | .ok bs _ _ => leNat bs == 0x1C401000
      | _ => false) ∧
    ofStrand (atL.putWords 0x40000 0x84000000) (fun st => match (atL.putWords 0x40000 0x84000000).fetch 0 st.sup (st.pc + 4) 4 with
      | .ok bs _ _ => leNat bs == 0 && (decodeWord 0x84000000 0).isSome
      | _ => false) ∧ decodeWord 0xFC000000 0 = none := by decide +kernel
theorem witness_DecodeEncodeAgree : (Instr.wtblWrite 31 15).wellFormed ∧ encode (.wtblWrite 31 15) ≠ [] ∧
    (decodeWord 0x87FFFFFF 0xFFFFFFFF).isSome = false ∧ (decodeWord 0x84DF0000 0xFFFFFFFF).isSome = false ∧
    (decodeWord 0x841F0000 0xFFFFFFFF).isSome := by decide +kernel
theorem witness_invariants : (atL.ranks.map Rank.vr).Nodup ∧ atL.boot.stage.toNat ≤ 4 ∧ Memory.wf atL.mem ∧
    (next (step { atL with inputs := [.powerGood] }) fun t => t.boot != atL.boot) ∧ (message false 15 4).boot.stage = 15 ∧
    (next (exec .reset (message false 15 4)) fun t => t.boot.stage != 15) := by decide +kernel

/-! ### Witnesses of further clauses: one state for each, at a boundary value where the clause has a range -/

/-- The entry of window 3: valid, rank 9, cores 4 to 7. -/
def windowEntry : Word := BitVec.ofNat 64 (2 ^ 63 + 9 * 2 ^ 32 + 4 * 2 ^ 24 + 3 * 2 ^ 16)
def withWindow (out limit : BitVec 16) : State := withRank (withRegs atL [(2, BitVec.ofNat 64 (0x40000000 + 3 * 0x4000000 + 3 * 0x80000 + 0x7FFF8))])
  fun r => { r with wtbl := r.wtbl.set 3 windowEntry, walOut := r.walOut.set 3 out, walLimit := r.walLimit.set 3 limit }
theorem witnessMore_ScratchAccessCompletes : ([(0, 1), (65534, 65535), (7, 7)].all fun (p : BitVec 16 × BitVec 16) =>
    ofRank (withWindow p.1 p.2) fun r => ((r.wtbl[3]?.getD 0).getLsbD 63) && decide (3 ≤ bitsAt (r.wtbl[3]?.getD 0) 16 8) &&
      (r.walOut[3]?.getD 0 == p.1) && (decide (r.walOut[3]?.getD 0 < r.walLimit[3]?.getD 0) == (p.1 != p.2))) ∧
    atL.cur.core < 256 ∧ (3 * 0x80000 + 0x7FFF8) / 0x80000 = 3 ∧ 3 * 0x80000 + 0x7FFF8 + 8 ≤ 0x4000000 := by decide +kernel

/-- Two accesses of the acting strand in flight, the first an atomic; and an L2 being written back. -/
def twoFlying : State := withRank (inFlight (.load 1 8)) fun r =>
  { r with accesses := [{ flying (.atom .add 0 8 1) (.phys 0x50000) with id := 8, order := 8 }, flying (.atom .add 1 8 1) (.phys 0x50000)] }
def flushingL2 : State := withStrand (inFlight (.load 1 8)) fun st => { st with wait := some (.flush 1) }
def fromHost (op : AccOp) : State := withRank atL fun r => { r with accesses := [flying op (.host 0x1000)] }
theorem witnessMore_AccessPerforms : atL.access? 9 = none ∧ ((twoFlying.access? 9).any fun p => p.1.behind p.2) ∧
    (flushingL2.flushing && (flushingL2.access? 9).any fun p => p.2.dst == .phys 0x50000) ∧
    (([AccOp.load 1 8, .fxrd 1 0].all fun op => ((fromHost op).access? 9).any fun p => p.2.op == op && !p.1.behind p.2 && p.2.dst == .host 0x1000)) ∧
    ((inFlight (.fxrd 1 0x1FF)).access? 9).any (fun p => !p.1.behind p.2 && !(inFlight (.load 1 8)).flushing) ∧
    ofGang (inFlight (.load 1 8)) fun g => g.cond == .placed := by decide +kernel

/-- The leaf of the page at 0x0040_0000 replaced. -/
def leafIs (e : Nat) : State := { atL with mem := physPut atL.mem 0x30400 (leBytes 16 e) }
def walkIs (s : State) (p : WalkRes → Bool) : Bool := p (s.walkFor 0 false 0x400000)
def translating (f : XlateWork → XlateWork) (s : State) : State := withStrand s fun st => { st with xlates := [f (work 0 openHandle)] }
def dueWork (s : State) (p : XlateWork → Bool) : Bool := ofStrand s fun st => (st.xlates.find? fun y => y.h == 1).any p
theorem witnessMore_HandlesAndTranslation :
    walkIs (leafIs 0) (fun w => match w with | .absent m => !m | _ => false) ∧
    walkIs (leafIs (2 ^ 10)) (fun w => match w with | .absent m => m | _ => false) ∧
    walkIs (leafIs (0x1E3 + 3 * 2 ^ 28)) (fun w => match w with | .badClass => true | _ => false) ∧
    walkIs (leafIs (0x1E3 + 2 ^ 20 * 2 ^ 64)) (fun w => match w with | .badFrame => true | _ => false) ∧
    (ownsHalf .l 2 ∧ ofStrand (translating id atL) fun st => st.handlePending 1 && !st.handlePending 2) ∧
    atL.strand? { firstStrand with core := 7 } = none ∧ ofStrand atL (fun st => (st.xlates.find? fun y => y.h == 1) == none) ∧
    dueWork (translating (fun x => { x with left := 1 }) atL) (fun x => x.left != 0) ∧
    dueWork (translating (fun x => { x with handle := {} }) atL) (fun x => x.left == 0 && x.gen == 0 && !x.handle.valid) ∧
    atL.genOf 0 false = 0 ∧ ([atL, leafIs 0, leafIs (2 ^ 10), leafIs (0x1E3 + 3 * 2 ^ 28)].all fun s =>
      dueWork (translating (fun x => { x with gen := 5 }) s) fun x => x.left == 0 && x.gen != s.genOf 0 false) ∧
    walkIs (leafIs (0x1E3 + 3 * 2 ^ 12 + 4 * 2 ^ 64)) (fun w => match w with | .leaf e _ _ => xlateDenied e 0xC == none | _ => false) ∧
    walkIs pageRead (fun w => match w with | .leaf e _ _ => xlateDenied e 0xC == some 2 | _ => false) := by decide +kernel

theorem witnessMore_QueueWaitsAndTimeout :
    (let s := withStrand (withRing atL (ringWord 2 0)) fun st => { st with wait := some (.ring 3 true), waitiLeft := 3, waited := 3 }
     ofStrand s (fun st => st.wait == some (.ring 3 true) && st.waitiLeft != 0 && decide (st.waitiLeft ≤ st.waited)) ∧ (s.core? s.cur).isSome ∧
       ringLogn (s.ring 0 0 3) ≠ 0 ∧ (ringTail (s.ring 0 0 3) - ringHead (s.ring 0 0 3)).toNat = 2 ^ ringLogn (s.ring 0 0 3)) ∧
    (let s := withStrand (withRing atL (ringWord 0 0)) fun st => { st with wait := some (.ring 3 false), waitiLeft := 0, waited := 9 }
     ofStrand s (fun st => st.wait == some (.ring 3 false) && st.waitiLeft == 0) ∧ ringTail (s.ring 0 0 3) = ringHead (s.ring 0 0 3)) ∧
    (sqIs (withSq atS 14 { head := 0, closed := false, ents := entries 1 }) 14 (fun q => q.ents != []) ∧
      ofCore atS fun k => (k.squeue 15).ents == [] && !((k.squeue 15).closed && k.c.ended)) := by decide +kernel

/-- A descriptor from its fields: kind, then FP32 of 1 row and 2 columns, with the further words given. -/
def streamOf (kind : Nat) (words : List (Nat × Nat)) : BitVec 512 :=
  BitVec.ofNat 512 (words.foldl (fun v p => v + p.2 * 2 ^ (32 * p.1)) (kind + 1 * 2 ^ 8 + 2 * 2 ^ 32 + 1 * 2 ^ 40))
def running (s : State) (z q : Nat) (d : BitVec 512) (f : Stream → Stream) : State := withCore s fun k =>
  k.setStream z (f { st := .running, desc := d, q := q, descAddr := 0x80 })
/-- A gather of `n` entries of rows of 8 bytes from 0x7FFF0, at most row 1, its indices from q12; ragged groups at 0x200. -/
def gatherOf' (n : Nat) : BitVec 512 := streamOf 2 [(2, 0x7FFF0), (3, 8), (4, 4), (6, n), (14, 2)]
def raggedOf (groups : Nat) : BitVec 512 := streamOf 3 [(2, 0x100), (3, 8), (4, 4), (13, 0x200), (14, 2), (15, groups)]
def sideOf (n : Nat) : BitVec 512 := BitVec.ofNat 512 (4 + 1 * 2 ^ 8 + 1 * 2 ^ 40 + n * 2 ^ 192 + 0x7FFFC * 2 ^ (32 * 11))
def indexed (s : State) (n : Word) (closed : Bool) : State :=
  withSq s 12 { head := 0, closed := closed, ents := [{ id := 1, landed := true, data := n }] }
def atGroup (grp : Nat) (loaded : Bool) (start count : Nat) (z : Stream) : Stream :=
  { z with grp := grp, grpLoaded := loaded, gstart := start, gcount := count }
theorem witnessMore_StreamUnitsMoveEntries :
    (streamIs (running atL 0 3 (gatherOf' 0) id) 0 fun z => descKind z.desc == 2 && descField z.desc 6 == 0) ∧
    (ofCore (withSq (running atL 0 3 (gatherOf' 1) id) 12 { head := 0, closed := true, ents := [] }) fun k =>
      (k.sq[indexQueue (k.stream 0).desc false]?.any fun q => q.closed && q.ents.isEmpty) && descRows (k.stream 0).desc == 1 &&
        (k.stream 0).idxTaken.isEmpty) ∧
    (ofCore (indexed (running atL 0 3 (gatherOf' 1) id) 1 false) fun k =>
      let d := (k.stream 0).desc
      (k.sq[indexQueue d false]?.any fun q => q.ents.length == descRows d && q.ents.all fun e => e.landed &&
        (match gatherRow d 0 (e.data.setWidth 32) with | .ok _ => true | .error _ => false)) &&
      firstFault [0] 4 ((entryElems d (gatherRows d [1])).map Prod.fst) == none) ∧
    (streamIs (running atL 0 3 (raggedOf 2) (atGroup 2 false 0 0)) 0 fun z => descKind z.desc == 3 && decide (descField z.desc 15 ≤ z.grp)) ∧
    (streamIs (running atL 0 3 (raggedOf 2) (atGroup 1 false 0 0)) 0 fun z =>
      decide (z.grp < descField z.desc 15) && !z.grpLoaded && spanFault [0] ((descField z.desc 13 : Int) + 8 * z.grp) 8 == none) ∧
    (streamIs (running atL 0 3 (streamOf 3 [(13, 0x7FFFC), (15, 1)]) (atGroup 0 false 0 0)) 0 fun z =>
      (spanFault [0] ((descField z.desc 13 : Int) + 8 * z.grp) 8).isSome) ∧
    (streamIs (running atL 0 3 (raggedOf 2) (atGroup 1 true 1 1)) 0 fun z =>
      match raggedRows z.desc 0 z.gstart z.gcount z.gt with | .ok l => l.length == 1 | .error _ => false) ∧
    (streamIs (running atL 0 3 (raggedOf 2) (atGroup 1 true 2 1)) 0 fun z =>
      match raggedRows z.desc 0 z.gstart z.gcount z.gt with | .ok _ => false | .error _ => true) ∧
    (streamIs (running atL 0 3 (sideOf 0) id) 0 fun z => descKind z.desc == 4 && descField z.desc 6 == 0) ∧
    (streamIs (running atL 0 3 (sideOf 1) id) 0 fun z => descKind z.desc == 4 && descField z.desc 6 != 0 &&
      firstFault [0] 4 (sideAddrs z.desc 0) == none && (sideAddrs z.desc 0).length == 1) ∧
    (streamIs (running atS 8 8 (streamOf 0 [(6, 1)]) id) 8 fun z => landedEntry.rows == descRows z.desc && 2 != descCols z.desc - 1) ∧
    (streamIs (withStream atL 0 .done 3 0x100) 0 fun z => z.st != .running) := by decide +kernel

/-- A strand of the first core that holds for a CSAVE of gang 1 of its rank. -/
def csaving (c : GCond) : State := withGangs (withStrand atSup fun st => { st with wait := some (.csave 5 3) }) [gangOf 3 c]
theorem witnessMore_AsyncTrapsAndWaitRelease :
    ([some Wait.waiti, some (.queue 12), some (.ring 3 false), some (.rendezvous 23), some (.join 7), some (.allowance 15), none].all fun w =>
      ofStrand (withStrand atL fun st => { st with wait := w, asyncs := [refused] }) fun st => st.wait == w && st.nextAsync == some refused) ∧
    ofStrand (withStrand atL fun st => { st with wait := some .fence, asyncs := [refused] }) (fun st => st.wait == some .fence) ∧
    ofStrand (withStrand atL fun st => { st with ended := true }) (fun st => st.ended) ∧
    ([GCond.halting 1 0, .saved 1 0 false, .waiting, .ready, .starting, .placed].all fun c =>
      ofStrand (csaving c) (fun st => st.wait == some (.csave 5 3) && st.selvr == 0) && ((csaving c).gang? 0 3).any fun g => g.cond == c) ∧
    (withStrand atSup fun st => { st with wait := some (.csave 5 2) }).gang? 0 2 = none ∧
    ofStrand (withStrand atSup fun st => { st with wait := some (.flush 1) }) (fun st => st.wait == some (.flush 1)) ∧
    (ofStrand (withStrand (inFlight (.load 1 8)) fun st => { st with wait := some (.drain 1 5 [9]) }) fun st => st.wait == some (.drain 1 5 [9])) := by
  decide +kernel

theorem witnessMore_EngineCommandWords : ofStrand atL (fun st => !st.sup) ∧ ofStrand atSup (fun st => st.sup) ∧
    (bitsAt (0x00010000#32) 16 4 ≠ 0 ∧ bitsAt (0x03E00000#32) 21 5 = 31 ∧ bitsAt (0x03E00000#32) 16 4 = 0 ∧ bitAt (0x03E00000#32) 20 = false) ∧
    (ofStrand (withStrand atL fun st => { st with chain := some { cls := 0, idx := 0, tpl := 5, amends := [(1, 7)] } }) fun st =>
      st.chain.any fun h => h.cls == 0 && h.idx == 0 && h.tpl == bitsAt (patch5 ||| 0x00300000#32) 26 6) ∧
    (ofStrand (withStrand atL fun st => { st with chain := some { cls := 1, idx := 0, tpl := 5, amends := [] } }) fun st =>
      st.chain.any fun h => h.cls != 0) ∧ takePins atL.locks [] = some atL.locks ∧
    ofStrand (withRegs atL [(7, 0x123400010000)]) (fun st => (st.rx 7).setWidth 32 == (0x00010000#32 : BitVec 32)) := by decide +kernel

theorem witnessMore_TemplatePlanes :
    ofStrand (withRegs atL [(1, BitVec.ofNat 64 (0x1000000 + 0x80000 - 4104))]) (fun st =>
      (st.rx 1).toNat == 0x1000000 + atL.cur.core * 0x80000 + (0x80000 - 4104)) ∧ atL.cur.core < 256 ∧
    leNat (((memBytes (atL.slot 0).pads 0 8).take 4)) = 0 ∧ (2048 ≤ 2048 ∧ 8 + 4 * 2048 ≤ 0x80000) ∧
    (match applyDiff 0 [] with | .ok p => p == 0 | .error _ => false) = true := by decide +kernel

theorem witnessMore_SystemRegisters :
    (placed twoRanks .transit).inTransit 9 ∧ twoRanks.inTransit 9 = false ∧ twoRanks.inTransit 5 = false ∧
    (withCmd (select twoRanks 5) (migCmd 5 0 16 3)).inTransit 5 ∧ (0x04B#11).toNat ≠ 0x047 ∧
    ofStrand (withRegs (withStrand twoRanks fun st => { st with selslot := 15 }) []) (fun st => st.selslot == 15) ∧
    twoRanks.partOf 15 = twoRanks.partOfRank 0 ∧
    ofRank (withRank atSup fun r => { r with stepSt := .arrived }) (fun r => r.stepSt == .arrived) ∧
    (ofRank (withRank atSup fun r => { r with walOut := r.walOut.set 15 1, frames := [{ slot := 0, gang := 1 }] }) fun r =>
      r.walOut[15]?.getD 0 != 0 && !r.frames.isEmpty) ∧
    (BitVec.ofNat 64 (4 + 2 ^ 12)).toNat / 32 % 128 = 0 ∧ (BitVec.ofNat 64 15).toNat % 32 < 16 ∧ (BitVec.ofNat 64 3).toNat % 32 < 4 ∧
    atSup.l2ctl = 0 ∧ ((2 : Word) ≠ atSup.l2ctl ∧ (2 : Word).toNat < 4) ∧
    ({ withCmd atSup (cmdOf 4 0 .queued (copyTo (.scratch 0))) with l2ctl := 0 }).busyPackage (some (0, 1)) := by decide +kernel

def bigLock (n : Nat) : Lock := { vr := 0, va := 0x400000, large := false, frame := 0x40000, count := n }
def locked (n : Nat) : State := { atSup with locks := [bigLock n] }
theorem witnessMore_SupervisorInstructions : ovfLegal 3 = false ∧
    (((withGangs (withFrames atSup 1 []) [gangOf 3 .starting]).gang? 0 3).any fun g => g.cond == .starting) ∧
    ofRank (withFrames (withGangs atSup [gangOf 3 .starting]) 1 []) (fun r => r.freeSlot == some 0) ∧
    (((withGangs atSup [gangOf 3 .ready]).gang? 0 3).any fun g => g.cond != .placed && g.cond != .starting) ∧
    ofRank (withFrames atSup 1 [{ slot := 0, gang := 1 }]) (fun r => (r.frameAt 0).any fun p => p.2.cond == .placed) ∧
    (let s := { savedHere with mem := [] }
     ofRank s (fun r => (r.frameAt 0).any fun p => !s.headerOk 0 0 p.2.id)) ∧
    (ofRank (withRank savedHere fun r => { r with place := .fallow }) fun r => r.place == .fallow) ∧
    ofStrand (withStrand atSup fun st => { st with wait := some (.notice 1), waitiLeft := 5, waited := 4 }) (fun st => decide (st.waited < st.waitiLeft)) ∧
    ofStrand (withRegs atSup [(2, BitVec.ofNat 64 (2 ^ 48 - 1))]) (fun st => decide ((st.rx 2).toNat < 2 ^ 48) && st.wait == none) ∧
    ofRank atSup (fun r => r.handleAccesses.isEmpty && r.sbuf.isEmpty && r.accesses.isEmpty) ∧
    (let s : State := { withRank atSup fun r => { r with accesses := [flying (.load 1 8) (.phys 0x50000)] } with nextId := 10 }
     ofRank s fun r => r.handleAccesses == [9] && r.accesses.all fun x => decide (x.id < s.nextId)) ∧
    ofRank (withRank atSup fun r => { r with sbuf := [storeTo 0x50000] }) (fun r => r.sbuf.all fun b => !b.sent && b.dst == .phys 0x50000) ∧
    walkIs (leafIs (2 ^ 10)) (fun w => match w with | .absent m => m | _ => false) ∧
    ([1, 65534, 65535].all fun n => (locked n).locks.find? (fun l => l.vr == 0 && l.va == 0x400000) == some (bigLock n) && n != 0) ∧
    61440 < ({ atSup with locks := List.replicate 61441 (bigLock 1) } : State).locks.length ∧
    ({ atSup with locks := List.replicate 61440 (bigLock 1) } : State).locks.length ≤ 61440 := by decide +kernel

theorem witnessMore_PcpActsOnSupervisorSpace : ({ atL with pcp := [.read 5 0 0 0x00A] } : State).rank? 5 = none ∧
    (15 < 16 ∧ atL.notices = []) ∧ (atSup.l2ctlBad 1 = false ∧ ({ atL with ranks := [] } : State).busyPackage none = false) ∧
    ((inFlight (.load 1 8)).access? 9).isSome ∧ atL.access? 9 = none ∧ atL.supgen[15]? = some 0 := by decide +kernel

theorem witnessMore_GangInstructions :
    ofRank (withGangs atL (List.replicate 256 (gangOf 3 .waiting))) (fun r => decide (256 ≤ r.pendingGangs)) ∧
    (∀ v ∈ [(0x7FF81 : Nat), 0x80000], 0x80000 < v + 128) ∧ (0x7FF7F + 128 ≤ 0x80000 ∧ 0x7FF7F % 128 ≠ 0) ∧
    (BitVec.ofNat 64 (2 ^ 63 + 63)).getLsbD 63 = true ∧ (BitVec.ofNat 64 3).getLsbD 63 = false ∧
    (twoRanks.gang? 9 1 = none ∧ (twoRanks.gang? 0 1).isSome) := by decide +kernel

theorem witnessMore_ScheduleInstructions :
    ofStrand (withRegs atL [(1, BitVec.ofNat 64 (0x1000000 + 0x7FFE0))]) (fun st => (st.rx 1).toNat == 0x1000000 + atL.cur.core * 0x80000 + 0x7FFE0) ∧
    (0x7FFE0 + 32 ≤ 0x80000 ∧ 0x7FFE0 % 32 = 0 ∧ 0x80000 < 0x7FFE0 + (32 + 32 * 1)) ∧ (0x80000 ≤ (0xFFFFE0#64).toNat ∧ (0xFFFFE0#64).toNat < 0x1000000) ∧
    ([SchedSt.ready, .busy, .halting].all fun x => ofSched (loadedSched x) fun t => t.st == x) ∧
    ofSched (withSched (loadedSched .halted) fun q => { q with posted := false }) (fun t => !t.posted && t.upv && t.dnv) ∧
    ofSched (withSched (loadedSched .ready) fun q => { q with ginu := 1 }) (fun t => t.dnv && decide (1 ≤ t.ginu)) ∧
    ofSched (loadedSched .fault) (fun t => t.st == .fault) := by decide +kernel

/-- The first gang restored from a frame: starting, with its cores. -/
def restoring : State := withGang atL fun g => { g with cond := .starting }
theorem witnessMore_GangLifeCycle :
    (ofRank (withRank atL fun r => { r with gangs := [gangOf 3 .ready, gangOf 4 .ready], walk := true }) fun r =>
      r.walk && walkPlace r.walkOrder r.heldCores [] == [3]) ∧
    (ofGang restoring fun g => g.cond == .starting && !g.cores.isEmpty) ∧
    ((withGangs atL [gangOf 3 .starting]).startHeldFor 0 = false) ∧
    ((withRank (withGangs atL [gangOf 3 .starting]) fun r => { r with closing := true }).startHeldFor 0) ∧
    (let g : Gang := { gangOf 3 .placed with source := .sched 0, cores := [endedCore (Core.start (recOf 3) 0 0)] }
     (((withGangs (loadedSched .busy) [g]).gang? 0 3).any fun x => x.source == .sched 0 && (withGangs (loadedSched .busy) [g]).gangDone 0 x) ∧
       ofSched (withGangs (loadedSched .busy) [g]) fun t => t.headEntry.any fun e => !(entKind e == 2 && t.stash == 0)) ∧
    (((withGangs atL [{ gangOf 3 .ready with readyCycles := 2 ^ 20 }]).gang? 0 3).any fun g => decide (2 ^ 20 ≤ g.readyCycles)) ∧
    (((withGangs atL [{ gangOf 3 .ready with readyCycles := 2 ^ 20 - 1 }]).gang? 0 3).any fun g => decide (g.readyCycles < 2 ^ 20)) := by decide +kernel

theorem witnessMore_HostQueues : (atL.slot 0).occupant = some 0 ∧
    ofRank (withRank atL fun r => { r with place := .transit }) (fun r => r.slot? == none) ∧
    (0x20C#64).toNat % 16 = 12 ∧ ((withSlot atL fun k => { k with hqctl := 1 }).slot 0).hqEn := by decide +kernel

theorem witnessMore_ScheduleTableEvents : toThere.dpkg ≠ atL.ownPkg ∧
    (withRank (loadedSched .ready) fun r => { r with place := .transit }).inTransit 0 ∧ (loadedSched .ready).inTransit 0 = false ∧
    ofSched atL (fun t => t.st == .idle) ∧ ofRank (loadedSched .ready) (fun r => r.stepno != 7) ∧
    ofSched (withSched (loadedSched .ready) fun q => { q with arra := [255], ainu := 255 }) (fun t => t.arra.contains 255 && decide (t.na ≤ t.ainu)) ∧
    ofSched (withSched (loadedSched .ready) fun q => { q with acr := 1, gcr := 254 }) (fun t => t.acr + 255 == 256 && decide (t.gcr + 1 ≤ 255) &&
      decide (t.ginu < t.ng)) ∧
    (let s := loadedSched .ready
     ofRank (withRank s fun r => { r with gangs := [gangOf 4 .ready] }) fun r =>
       (r.refusal { blockRec 4 with raw := putBits (putBits (blockRec 4).raw 192 64 (entArg 1)) 36 3 (entPri 1) } false none).isSome) := by
  decide +kernel

theorem witnessMore_BundleIssueAndLanding :
    (ofCore (withCore atC fun k => { k with sinceIssue := 1 }) fun k =>
      match (withCore atC fun k => { k with sinceIssue := 1 }).bundlePlan k.c k (BitVec.ofNat 32 0x1FFFFF) 0 0 0x08620005 with
      | .issue u => (u.core? atC.cur).isSome
      | _ => false) ∧
    (let p : Pending := { left := 0, writes := [{ dest := .tile 3 7, value := 5, mask := 7 }], accum := none, flags := 0, clear := 0, fromX := false }
     (ofCore (withCore atC fun k => { k with pwq := [p], tiles := k.tiles.set 3 (some { alloc := 7, buf := 0 }) }) fun k =>
       k.pwq == [p] && k.tiles[3]?.any fun t => t.any fun x => x.alloc == 7) ∧
     (ofCore (withCore atC fun k => { k with pwq := [p], tiles := k.tiles.set 3 (some { alloc := 8, buf := 0 }) }) fun k =>
       k.tiles[3]?.any fun t => t.any fun x => x.alloc != 7)) ∧
    (ofCore atC fun k => k.pwq.all fun p => p.left != 0) := by decide +kernel

/-- The first rank coupled in group 4, whose member VR 9 another package holds. -/
def coupled (f : Rank → Rank) : State :=
  { withRank atL (fun r => f { r with coupling := some 4 }) with jobs := [{ id := 1, n := 10, seed := 0, groups := [(0, 4), (9, 4)], arrived := [] }] }
def peerStore : BStore := { storeTo 0x50000 with dst := .peer 3 0x50000 }
theorem witnessMore_PhaseAndStepBoundaries :
    (let s := withRank (allWait atL .phase) fun r => { r with sbuf := [peerStore] }
     ofRank s fun r => s.phaseReady r && !r.peerWrites.isEmpty && r.coupling == none) ∧
    (let s := withRank (idleRank atL) fun r => { r with sbuf := [peerStore] }
     ofRank s fun r => r.quiesced && s.uncommitted r && !r.peerWrites.isEmpty) ∧
    (let s := withRank (allWait atL .held) fun r => { r with sbuf := [storeTo 0x50000] }
     ofRank s fun r => r.stepHeld && s.uncommitted r) ∧
    (let s := withRank (idleRank atL) fun r => { r with sbuf := [] }
     ofRank s fun r => !s.uncommitted r) ∧
    ofRank (coupled id) (fun r => r.coupling == some 4) ∧ ofRank (withRank atL fun r => { r with place := .fallow }) (fun r => r.slot? == none) ∧
    atL.rank? 9 = none ∧ ofRank (withRank atL fun r => { r with place := .transit }) (fun r => r.place == .transit) ∧
    (atL.jobs.find? fun j => j.id == 1) = none ∧ ((withJob atL).jobs.find? fun j => j.id == 1).isSome ∧ atL.groupRanks 4 = [] ∧
    ((coupled id).groupRanks 4 ≠ [] ∧ (coupled id).groupAway 4 ∧ atL.fabric.bytes = []) ∧
    (let s := withFabric (coupled id) fun q => { q with boundary := [{ group := 4, fid := 5, per := 1024, off := 0, lat := 64 }], bytes := [(4, 2)] }
     s.boundaryFid 4 = some 5 ∧ s.fabric.bytes.find? (fun e => e.1 == 4) = some (4, 2)) ∧
    (let s := coupled fun r => { r with gangs := [], sbuf := [peerStore] }
     ofRank s fun r => s.arrivalByte r == 0) ∧ (ofRank (coupled fun r => { r with gangs := [] }) fun r => (coupled id).arrivalByte r == 2) := by
  decide +kernel

/-- A copy command of the first strand, running, at a row and a byte of it. -/
def copying (b : CmdBody) (wrote : List EByte) (ending : Bool) : Cmd := { cmdOf 4 0 .running b with wrote := wrote, ending := ending }
def outBytes : List EByte := [{ dst := .peer 3 0x50000, val := 7 }, { dst := .peer 3 0x50001, val := 8 }]
def storing : State := withRank (withCmd atL (copying (copyEnd (.glob 2 3 0x50000)) outBytes true)) fun r =>
  { r with accesses := [flying (.cmdStore 4 [7, 8]) (.peer 3 0x50000)] }
theorem witnessMore_CopyCommandsAndReset :
    none ∈ (([some 7, none] : List (Option Byte)).drop (0 * 2 + 0)).take (min 64 (2 - 0)) ∧
    (([some 7, some 8] : List (Option Byte)).drop (0 * 2 + 0)).take (min 64 (2 - 0)) = [7, 8].map some ∧
    ((List.replicate 200 (some (1 : Byte))).drop (1 * 100 + 64)).take (min 64 (100 - 64)) = (List.replicate 36 1).map some ∧
    (([0, 1] : List Nat).all fun i => (sourced atL).readLoc 0 0 0 (copySource 0 (.scratch 0) 0 0 i) == some (BitVec.ofNat 8 (7 + i))) ∧
    (((Space.scratch 0x7FFFE).plus (0 * 0)).plus 0).toStore 0 = .scratch (0 * 0x80000 + 0x7FFFE) ∧ 0x7FFFE + 2 ≤ 0x80000 ∧
    ((Space.glob 2 3 0x50000).plus (0 * 0)).plus 0 = .glob 2 3 0x50000 ∧
    stands (withCmd atL (copying (copyEnd (.glob 2 3 0x50000)) outBytes false)) (copying (copyEnd (.glob 2 3 0x50000)) outBytes false) ∧
    peerRuns outBytes ≠ [] ∧ peerRuns [] = [] ∧ storing.cmdAway (copying (copyEnd (.glob 2 3 0x50000)) outBytes true) ∧
    (withCmd atL (copying (copyEnd (.glob 2 3 0x50000)) outBytes true)).cmdAway (copying (copyEnd (.glob 2 3 0x50000)) outBytes true) = false ∧
    outBytes.all (fun w => !ownPad 0 w.dst) ∧
    (atL.core? { firstStrand with strand := .l }).isSome ∧ (atL.descAt 0 0 0x80 = 0) ∧
    (ofCore (withStream atL 0 .bound 0 0x100) fun k => match k.bindStream 0 3 (affine 0x100) with | .ok _ => true | .error _ => false) ∧
    (ofCore (withStream atL 0 .bound 0 0x100) fun k => match k.bindStream 0 8 (affine 0x100) with | .ok _ => false | .error _ => true) ∧
    ofRank atL (fun r => r.servedBy 36 0 && !r.servedBy 32 1) := by decide +kernel

/-- A graph whose first op is a REDUCE into tree 0 of VRs 0 to 1. -/
def reducing (ops : List OpSt) : Coll := { collOf 2 ops with graph := { graph2 2 with trees := [BitVec.ofNat 128 (1 * 2 ^ 24)] } }
def holding : State := withFabric twoRanks fun q => { q with holders := [{ slot := 63, tree := 0, level := 0, k := 0, pkg := 3, fid := 5 }] }
def lastOp (kind : Nat) (pos : Nat) (sent received : Bool) : Coll :=
  collOf kind [{ counter := 0, pos := pos, half := false, running := true, complete := false, sent := sent, received := received }, opAt 0 false true false]
theorem witnessMore_CollectiveEngines :
    (collOf 0 freshOps).fetched ((collOf 0 freshOps).readRanges 0) ∧
    ({ collOf 0 freshOps with imgs := [[none, none, none, none], [], [], []] }.fetched ((collOf 0 freshOps).readRanges 0) = false) ∧
    (withCmd atL (collCmd 0 freshOps .running)).rank? 9 = none ∧
    ((placed twoRanks .transit).rank? 9).any (fun r => r.place == .transit) ∧
    (twoRanks.chunkTaken 9 { slot := 63, replay := 1, endpoint := 3, src := 0, tag := 5, bytes := [6, 6, 6, 6], whole := true }) = false ∧
    (opKind ((reducing freshOps).op 0) = 2 ∧ (reducing freshOps).startable 0) ∧
    (twoRanks.holder? treeKey 0 0 = none ∧ (holding.holder? { treeKey with slot := 63 } 0 0).isSome) ∧
    (lastOp 0 0 true false).opBytes 0 ≤ 0 + 64 ∧
    ((let x : Coll := { lastOp 0 0 true false with graph := { graph2 0 with ops := (graph2 0).ops.map fun o => o ||| BitVec.ofNat 256 (100 * 2 ^ 160) } }
      0 + 64 < x.opBytes 0)) ∧
    ((lastOp 4 0 false false).st 0).complete = false ∧
    ((lastOp 5 0 true true).st 0).received ∧ (lastOp 5 0 false false).staged 0 0 ∧
    (ofRank (withRank atL fun r => { r with landing :=
        [{ slot := 63, replay := 1, endpoint := 3, src := 9, tag := 5, bytes := [1, 2, 3, 4], whole := true }] }) fun r =>
      (r.chunksFor ((lastOp 1 0 false false).op 0) 1).length == 1) ∧
    (([0, 1] : List Nat).all fun i => ((lastOp 0 0 true false).st i).complete || i == 0) ∧
    { frameHdr with crcOk := false }.crcOk = false ∧ twoRanks.rank? 5 = none ∧
    (3 = levelCount 3 0 ∧ 2 * 1 + 1 = levelCount 3 0) ∧
    (treeOf [(0, 0, [1, 0, 0, 0])]).nodes.find? (fun e => e.1 == 0 && e.2.1 == 1) = none ∧
    (treeOf [(1, 0, [9])]).nodes.find? (fun e => e.1 == 1 && e.2.1 == 0) = some (1, 0, [9]) ∧ levelCount 2 1 ≤ 1 ∧
    treeDkind (BitVec.ofNat 128 (2 ^ 120)) = 1 ∧ treeDkind (BitVec.ofNat 128 (2 ^ 121)) = 2 := by decide +kernel

def migAt (dom pkg : Nat) : BitVec 512 := migTemplate 9 1 16 ||| BitVec.ofNat 512 (pkg * 2 ^ 64 + dom * 2 ^ 80)
def movingTo (t : BitVec 512) (stage : Nat) : State :=
  withCmd (twoRanks.modRank 9 fun r => { r with stepSt := .arrived, place := if stage = 0 then r.place else .transit }) (cmdOf 4 33 .running (.migr t stage [] 0 0 0))
def arriving : Rank := { firstRank with vr := 5, place := .resident 2, gangs := [] }
theorem witnessMore_Migration :
    ((placed (moving 0) .transit).rank? 9).any (fun r => r.place == .transit) ∧
    ((twoRanks.rank? 9).any fun r => !twoRanks.holdsAtStep r && r.place == .resident 1) ∧
    (let s := withCmd (twoRanks.modRank 9 fun r => { r with stepSt := .arrived }) (migCmd 9 1 2 0)
     bitAt s.clavail 2 = false ∧ s.migrHere (migTemplate 9 1 2) ∧ migToSlot (migTemplate 9 1 2)) ∧
    (let s := { withCmd (twoRanks.modRank 9 fun r => { r with stepSt := .arrived }) (migCmd 9 1 2 0) with clavail := 4 }
     bitAt s.clavail 2 ∧ (s.slot 2).occupant = none ∧ s.slotAwaited 2 4 = false) ∧
    (let s := { moving 0 with incoming := List.replicate 47 arriving }
     48 ≤ s.rankCount 9) ∧ (moving 0).rankCount 9 < 48 ∧
    ((movingTo (migAt 0 5) 0).migrHere (migAt 0 5) = false ∧ migDom (migAt 0 5) = atL.ownDom ∧ (movingTo (migAt 0 5) 0).linked = false) ∧
    (withLink (movingTo (migAt 0 5) 0) 0 upLink).linked ∧
    ((movingTo (migAt 1 5) 0).migrHere (migAt 1 5) = false ∧ migDom (migAt 1 5) ≠ atL.ownDom) ∧
    ({ movingTo (migTemplate 9 1 16) 1 with locks := [pinned 9] } : State).locks.any (fun l => l.vr == 9) ∧
    ((movingTo (migTemplate 9 1 16) 1).rank? 9).any (fun r => (r.gangs.filter fun g => g.isPlaced || !g.cores.isEmpty).length == 0) ∧
    ((withCmd (withRank atL fun r => { r with place := .transit }) (cmdOf 4 33 .running (.migr (migTemplate 0 0 16) 1 [] 0 0 0))).rank? 0).any
      (fun r => decide (bitsAt (migFrBase (migTemplate 0 0 16)) 0 8 < (r.gangs.filter fun g => g.isPlaced || !g.cores.isEmpty).length)) ∧
    (match atL.rebuildTree 1 0x10001 { list := [], taken := [], pages := 0, tables := [], copies := [] } with
      | .ok _ => false | .error _ => true) = true ∧
    (movingTo (migTemplate 5 1 16) 2).rank? 5 = none ∧ ((movingTo (migTemplate 9 1 16) 2).rank? 9).isSome ∧
    (movingTo (migAt 1 5) 2).partsAway (migAt 1 5) = false ∧
    ({ movingTo (migTemplate 9 1 16) 3 with pubs := [{ awaiting := [3], cmd := some 4, gran := none }] } : State).pubs.any (fun p => p.cmd == some 4) ∧
    frameHdr.dom ≠ atL.ownDom ∧ frameHdr.svr ≠ atL.ownPkg ∧ { frameHdr with svr := 0 }.svr = atL.ownPkg ∧
    ((atL.takeJob none []).placedHere 0xC000000000000000 = false ∧ (atL.takeJob none []).placedHere (commitEntry (migTemplate 5 0 2) 1)) ∧
    { atL with clavail := 4 }.canTake arriving ∧ atL.canTake arriving = false ∧
    ({ atL with incoming := [arriving] } : State).incoming.find? (fun r => r.vr == 5) = some arriving ∧
    ((movingTo (migTemplate 9 1 16) 1).movingFrom 1 9).isSome ∧ (movingTo (migTemplate 9 1 16) 3).movingFrom 1 9 = none ∧
    (atL.slot 5).occupant = none := by decide +kernel

/-- The shard as a directory record of another home, package 3 of this domain. -/
def elsewhere (role : Nat) : Shard := { shardOf role with rec' := { shardRec role with hpkg := 3 } }
/-- The well-formed block is in witness_formedBlock. -/
theorem witnessMore_GranaryBlocksAndSteps :
    lowestBlock (blockOf 6) [] = (blockOf 6, []) ∧
    lowestBlock { blockOf 6 with block := 1 } [.gradientBlockArrive (blockOf 6)] = (blockOf 6, [.gradientBlockArrive { blockOf 6 with block := 1 }]) ∧
    hasShard (withShard atL (shardOf 3)) (fun x => x.rec'.role == 3 && !x.lost) ∧ hasShard (withShard atL { shardOf 1 with lost := true }) (fun x => x.lost) ∧
    hasShard (withShard atL { shardOf 1 with received := [0] }) (fun x => x.received.contains 0) ∧
    hasShard (withShard atL { shardOf 1 with seeding := some (0, 3, true) }) (fun x => x.seeding.any fun d => d.2.2) ∧
    hasShard (withShard atL { shardOf 1 with seeding := some (0, 3, false), received := [0], snaps := [7], deferred := [gatherOf 7] }) (fun x => x.seeding == some (0, 3, false) && x.received.length == 1) ∧
    hasShard (withShard atL { shardOf 1 with timer := some 1023 }) (fun x => x.timer.any fun n => decide (n < x.rec'.tclose * 1024)) ∧
    hasShard (withShard atL { shardOf 1 with timer := some 1024, timedOut := true }) (fun x => x.timedOut) ∧ atL.noticeRoom = false ∧
    ({ atL with granary := { atL.granary with kept := [{ block := blockOf 6, named := [], waiting := [(9, 3)] }] } } : State).granary.kept.any
      (fun k => k.waiting.contains (toHere.svr, toHere.spkg)) ∧ toThere.dpkg ≠ atL.ownPkg := by decide +kernel

theorem witnessMore_GranaryCommands :
    (let v : BitVec 1024 := BitVec.ofNat 1024 (leNat (physBytes (physPut atL.mem 0x70000 [0, 0, 0, 0, 0, 0, 0, 0, 1]) 0x70000 128))
     recLegal v ∧ (withShard atL { shardOf 1 with rec' := { shardRec 1 with job := (recOfBits v).job, shard := (recOfBits v).shard } }).shard?
       (recOfBits v).job (recOfBits v).shard ≠ none) ∧
    atL.granary.shards.length < 65536 ∧ (0x0100#64).toNat / 256 % 64 = 1 ∧ (0x2100#64).toNat / 256 % 64 = 33 ∧
    hasShard (withShard atL { shardOf 1 with rec' := { shardRec 1 with mv := true, mpkg := 3 }, failed := [(0, 3)] }) (fun x =>
      x.rec'.mv && x.failed.contains (x.rec'.mdom, x.rec'.mpkg)) ∧
    hasShard (withShard atL { shardOf 1 with rec' := { shardRec 1 with mv := true, mpkg := 3 } }) (fun x =>
      x.rec'.mv && !x.failed.contains (x.rec'.mdom, x.rec'.mpkg)) ∧
    atL.memberPkgs = [] ∧ ({ atL with place := [(9, BitVec.ofNat 64 (2 ^ 36 * 3))] } : State).memberPkgs = [(0, 3)] ∧
    (let s := withShard { atL with mem := physPut atL.mem 0x70000 [1] } (shardOf 1)
     hasShard s fun x => (List.range ((x.rec'.elems + 16383) / 16384)).any fun i => (leNat (physBytes s.mem 0x70000 1)).testBit i) := by
  decide +kernel

def deferring (n : Nat) : State := withShard atL { shardOf 1 with deferred := List.replicate n (gatherOf 7) }
theorem witnessMore_GranaryGathersAndSeeding :
    ((gatherOf 6).dom, (gatherOf 6).pkg) = (atL.ownDom, atL.ownPkg) ∧ ({ gatherOf 6 with pkg := 3 }.dom, { gatherOf 6 with pkg := 3 }.pkg) ≠ (atL.ownDom, atL.ownPkg) ∧
    next (exec (.granaryStepClose 1 2) (withShard atL (shardOf 1))) (fun u => hasShard u fun x => x.rec'.role == 1 && x.rec'.c == 5) ∧
    next (exec (.granaryStepClose 1 2) (withShard atL { shardOf 1 with received := [0] })) (fun u => hasShard u fun x => x.rec'.c == 6) ∧
    next (exec (.granaryStepClose 1 2) atL) (fun u => (u.shard? 1 2).isNone) ∧
    hasShard (withShard atL { elsewhere 2 with lost := true }) (fun x => x.lost && x.rec'.role != 1) ∧
    hasShard (withShard atL (elsewhere 2)) (fun x => !x.lost && (x.rec'.hdom, x.rec'.hpkg) != (atL.ownDom, atL.ownPkg)) ∧
    hasShard (withShard atL (shardOf 2)) (fun x => (x.rec'.hdom, x.rec'.hpkg) == (atL.ownDom, atL.ownPkg) && !x.failed.contains (atL.ownDom, atL.ownPkg)) ∧
    hasShard (withShard atL { shardOf 0 with failed := [(0, 0)] }) (fun x => x.failed.contains (atL.ownDom, atL.ownPkg)) ∧
    hasShard (deferring 4095) (fun x => decide (x.deferred.length < 4096)) ∧ hasShard (deferring 4096) (fun x => decide (4096 ≤ x.deferred.length)) ∧
    (let c := cmdOf 4 34 .running (.gran (gatherOf 6) (.scratch 0) 32768 (.scratch 0) (.scratch 0x7FFF0) true)
     stands (withCmd atL c) c ∧ { c with ending := true }.ending ∧ (withCmd atL { c with ending := true }).cmdAway c = false) ∧
    hasShard (withShard atL { shardOf 3 with held := [blockOf 6], hyper := some [] }) (fun x => x.rec'.role == 3 && x.held == [blockOf 6]) ∧
    hasShard (withShard atL (elsewhere 3)) (fun x => x.rec'.role == 3 && (0, 3) == (x.rec'.hdom, x.rec'.hpkg)) ∧
    hasShard (withShard atL { shardOf 1 with seeding := some (0, 3, true) }) (fun x => x.seeding == some (0, 3, true)) ∧
    hasShard (withShard atL { shardOf 1 with rec' := { shardRec 1 with mv := true, mpkg := 3 }, unconfirmed := true }) (fun x => x.unconfirmed) ∧
    hasShard (withShard atL { shardOf 1 with rec' := { shardRec 1 with mv := true, mpkg := 3 } }) (fun x => x.rec'.mv && !x.unconfirmed &&
      !x.failed.contains (0, 3) && !x.lost && x.seeding == none) := by decide +kernel

/-- In `coupled` another package holds VR 9, which shares group 4 with VR 0. -/
theorem witnessMore_RemoteRequestsAtTheirTarget :
    (0 : Nat) = frameIndex 0 ∧ physExists 0x8000000000 = true ∧ (frameSet 0).frameState (frameIndex 0x50000) = 0 ∧
    ({ frameSet 2 with faultq := List.replicate 1024 (parkedLoad 0) } : State).faultq.length = 1024 ∧
    (let s := coupled id
     (s.rank? toHere.dvr).any (fun r => r.place == .resident 0 && r.coupling == some 4 && s.groupOf r.job toHere.svr == some 4)) ∧
    (255 < 256 ∧ 0x7FFFF < 0x80000) ∧ (atL.rank? toHere.dvr).any (fun r => r.coupling == none) ∧
    atL.movedAway 9 = false ∧ ({ atL with place := [(9, BitVec.ofNat 64 (2 ^ 36 * 3))] } : State).movedAway 9 ∧
    (withRank atL fun r => { r with place := .transit }).slotOf 0 = none ∧
    ({ atL with faultq := [parkedLoad 65535] } : State).faultq.all (fun p => decide (p.slots < 65536)) ∧ (0xFE#8).toNat % 4 = 2 ∧
    (5 % 3 = 2 ∧ 4 % 3 = 1) := by decide +kernel

def peerAccess (op : AccOp) (sent : Bool) (resend : Option Nat) : State := withRank atL fun r =>
  { r with accesses := [{ flying op (.peer 3 0x50000) with sent := sent, resend := resend }] }
def awaitsGather : State := withCmd atL (cmdOf 9 34 .running (.gran (gatherOf 6) (.scratch 0) 32768 (.scratch 0) (.glob 0 0 0x60000) true))
theorem witnessMore_RemoteAnswersAtTheSource :
    ([AccOp.load 1 8, .fxrd 1 0, .cmdLoad 4 0 64].all fun op => ((peerAccess op true none).accessOf toHere.seq).any fun p =>
      p.2.op == op && p.2.dst == .peer 3 0x50000) ∧
    ([AccOp.atom .add 1 8 5, .acas 1 4 0 7, .fxadd 0 1, .store [1], .cmdStore 4 [7]].all fun op =>
      ((peerAccess op false none).access? 9).any fun p => p.2.op == op && !p.2.sent && !p.1.behind p.2 && p.2.dst.isPeer) ∧
    (atL.noPath { toHere with dpkg := 3 } ∧ (withLink atL 0 upLink).noPath { toHere with dpkg := 1 } = false) ∧
    ((peerAccess (.load 1 8) true (some 0)).access? 9).any (fun p => p.2.resend == some 0) ∧
    (atL.gatherCmd? toHere.seq = none ∧ (awaitsGather.gatherCmd? toHere.seq).any fun c => awaitsGather.cmdLive c && !c.ending && c.spoiled.isEmpty) ∧
    ((offCores awaitsGather).gatherCmd? toHere.seq).any (fun c => !(offCores awaitsGather).cmdLive c) ∧
    ({ toHere with svr := 1 }.svr = 1 ∧ toHere.svr ≠ 1) ∧
    ofStrand (withStrand atL fun st => { st with wait := some (.access 9), tvec := 0x1000, tlevel := 1 }) (fun st =>
      st.wait == some (.access 9) && decide (st.tlevel < 2) && st.tvec != 0) ∧
    ((windowAccess (.load 1 8) true 262143 none).access? 9).any (fun p => decide (p.2.slots < 262144)) := by decide +kernel

def combineFurrow (inl inr outs : Nat) : BitVec 128 := furrow 0 1 5 5 outs inl ||| BitVec.ofNat 128 (inr * 2 ^ 12)
def halfCombined : State := withFabric (furrows [combineFurrow 0 1 4]) fun q =>
  { q with combining := [{ fid := 5, xfer := 1, left := [], right := [(0, 0)] }] }
def inTransfer (last : Nat) : State := withFabric (furrows []) fun q =>
  { q with ins := [{ fid := 5, xfer := 1, flits := [], lastSlot := last, failed := false }] }
def departs (slot input : Nat) : Departing := { link := 0, slot := slot, input := input, flit := flit0 }
theorem witnessMore_FurrowTransfers : furLegal 1024 (combineFurrow 32 1 4) ∧ furInjects (combineFurrow 32 1 4) ∧
    furInjects (combineFurrow 0 1 4) = false ∧ furRole (combineFurrow 0 1 4) = 5 ∧ furInr (combineFurrow 0 1 4) = 1 ∧
    furRole (furrow 0 1 5 4 2 0) = 4 ∧ (outOf.bytes.length + 59) / 56 ≤ 1 ∧ ({ outOf with bytes := List.replicate 53 1 }.bytes.length + 59) / 56 = 2 ∧
    ((furrows []).fabric.furrows.find? fun e => furFid e == 5 && furInjects e) = none ∧ { outOf with ready := 1027 }.ready > 1026 ∧
    (halfCombined.fabric.combining.find? fun c => c.fid == 5 && c.xfer == 1).isSome ∧
    (withFabric atL fun q => { q with delivered := [(5, 1)] }).fabric.delivered.contains (5, 1) ∧ atL.isBoundary 5 = false ∧
    ((furrows []).fabric.departing = [] ∧ (furrows []).fabric.dtb.toNat % 8 = 2 ∧ (1031 : Word).toNat % 8 = 7) ∧
    ([departs 1026 3, departs 1026 5, departs 1027 0].all fun x => x == departs 1026 3 || decide (1026 < x.slot) || (x.slot == 1026 && decide (3 < x.input))) ∧
    ((inTransfer 1025).fabric.ins.all fun x => decide (x.lastSlot < 1026)) ∧ ((inTransfer 1026).fabric.ins.all fun x => decide (1026 ≤ x.lastSlot)) ∧
    ({ outOf with awaiting := [3, 7] }.awaiting.any fun p => p != toHere.spkg) ∧
    ({ outOf with departed := some 7, attempts := 7 }.attempts = 7 ∧ { outOf with departed := some 7, attempts := 6 }.attempts < 7) := by
  decide +kernel

theorem witnessMore_HeadlandSlotsAndLinks : atL.fabric.links[32]? = none ∧
    linkIs (withLink atL 31 { upLink with offer := some 0, round := 1 }) 31 (fun l => l.offer == some 0 && l.round != 0) ∧
    linkIs (withLink atL 0 { upLink with fenced := true }) 0 (fun l => l.fenced) ∧
    (let s := withFabric (withLink atL 0 upLink) fun q => { q with head := [{ waiting32 with input := 31 }], dtb := BitVec.ofNat 64 (32 * 8 + 7) }
     s.fabric.head.find? (fun x => x.link == 0 && x.input == (s.fabric.dtb.toNat / 8 + 0 + 32) % 33) = some { waiting32 with input := 31 }) ∧
    (withFabric atL fun q => { q with joining := true }).fabric.joining ∧
    (let r := putBits (BitVec.ofNat 128 (3 * 2 ^ 32)) 96 32 (trCrc (BitVec.ofNat 128 (3 * 2 ^ 32))).toNat
     trCrc r = r.extractLsb' 96 32 ∧ trPass r = 3) ∧ { upLink with lanes := 0 }.lanes = 0 := by decide +kernel

theorem witnessMore_ScaleOutTransport : frameHdr.last ∧ frameHdr.dvr = atL.ownPkg ∧ { frameHdr with dvr := 1 }.dvr ≠ atL.ownPkg ∧
    (demandHdr (.writeAck toHere)).dpkg = atL.ownPkg ∧ frameHdr.offset = 0 ∧ (atL.rank? frameHdr.dvr).any (fun r => r.place != .transit) ∧
    atL.cmds = [] ∧ ((withConn [sentFrame 0 49999 32]).conn 0 1 3).unacked.all (fun x => decide (x.age < 50000)) := by decide +kernel

/-- A record of the portable section: its word and its column, unguarded. -/
def record (col : Nat) (w : Nat) : BitVec 128 := BitVec.ofNat 128 (w + col * 2 ^ 32 + 127 * 2 ^ 35)
theorem witnessMore_HostMailbox :
    ({ message true 4 4 with host := { (message true 4 4).host with mbout := 64 } } : State).replyRoom = false ∧
    (message true 4 0x80).message = some 0x80 ∧ (message true 4 0x7F).message = some 0x7F ∧
    (mailOperand (BitVec.ofNat 512 (16777216 * 2 ^ 192)) 2).toNat = 16777216 ∧
    (withGang (message true 4 1) fun g => { g with cond := .ready }).partcfg = 0 ∧
    recordsLegal [] [record 3 0x08620005] ∧ recLoop (record 3 0x08620005) = none ∧ (Machine.translate [record 3 0x08620005]).isSome ∧
    (Machine.translate [record 3 0x08620005, record 3 0x08620005]).any (fun l => l.length == 8) ∧
    (0x1000 ≤ 0x1FF8 ∧ 0x1FF8 < 0x2000) := by decide +kernel

def migrStage (n : Nat) : State := movingTo (migTemplate 9 1 16) n
theorem witnessMore_BringUpPowerAndErrors : { good with dtb := none }.dtb.isNone ∧
    ([1, 2, 3, 4].all fun n => decide (1 ≤ (inStage (BitVec.ofNat 4 n)).boot.stage.toNat)) ∧
    ([1, 2].all fun n => ((migrStage n).cmd? 4).any fun c => match c.body with | .migr _ k _ _ _ _ => k == n | _ => false) ∧
    ((migrStage 3).cmd? 4).isSome ∧ atL.cmd? 4 = none ∧ (inTransfer 5).fabric.ins.any (fun x => x.fid == 5 && x.xfer == 1) ∧
    ({ atL with boot := { atL.boot with stage := 4, ready := true } } : State).boot.ready := by decide +kernel

/-- The leaf of a peer page, readable and writable. -/
def peerLeaf : State := leafIs (0x1E3 + 2 * 2 ^ 2 + 3 * 2 ^ 112 + 4 * 2 ^ 64)
theorem witnessMore_ServiceRing :
    walkIs peerLeaf (fun w => match w with | .leaf e _ _ => leafR e && leafW e && leafAper e == 2 && !leafRap e | _ => false) ∧
    walkIs (leafIs (0x1E3 + 2 * 2 ^ 2 + 2 ^ 4)) (fun w => match w with | .leaf e _ _ => leafAper e == 2 && leafRap e | _ => false) ∧
    walkIs (leafIs (0x1E3 + 3 * 2 ^ 2)) (fun w => match w with | .leaf e _ _ => leafAper e == 3 | _ => false) ∧
    (atL.frameOk 0 0 0x60000 ∧ 0x60000 % pageSize false = 0 ∧ atL.frameOk 0 0 0x1000000000 = false ∧ 0x60001 % pageSize false ≠ 0) ∧
    walkIs (leafIs (2 ^ 10)) (fun w => match w with | .absent m => m | _ => false) ∧
    (framesOk 0 [0x60000] ∧ ((leafIs (2 ^ 10)).commitPage 0 0x400000 0x60000 []).isSome ∧ framesOk 0 [0x60001] = false) ∧
    (({ leafIs (2 ^ 10) with ranks := atL.ranks.map fun r => { r with ptroot := 0 } } : State).commitPage 0 0x400000 0x60000 []).isNone ∧
    (withRank atL fun r => { r with place := .fallow }).slotOf 0 = none ∧
    (asked (serving 0) (request 0 1)).finished (request 0 1) = false ∧ ringFull ((withRing atL (ringWord 2 0)).ring 0 0 3) ∧
    (request 0 1).word.toNat / 2 ^ 48 % 2 ^ 8 = 0 := by decide +kernel

def mayRun (s : State) : Bool := ofStrand s fun st => s.mayIssue firstStrand st
def fetchIs (s : State) (at' n : Nat) (p : Fetch → Bool) : Bool := ofStrand s fun st => p (s.fetch 0 st.sup (BitVec.ofNat 64 at') n)
theorem witnessMore_StepRunsWhatItFinds :
    (ofStrand (withStrand atL fun st => { st with ext := some 0x841F0000 }) fun st => st.ext.isSome) ∧
    mayRun (withStrand atL fun st => { st with ext := some 0x841F0000 }) ∧ mayRun atL ∧
    (fetchIs atL 0x400004 4 fun f => match f with | .ok _ _ _ => true | _ => false) ∧
    (fetchIs atL 0x400000 16 fun f => match f with | .ok _ _ _ => true | _ => false) ∧
    (fetchIs atL 0x400002 4 fun f => match f with | .ok _ _ _ => false | _ => true) ∧
    (fetchIs atL 0x500000 16 fun f => match f with | .page _ => true | _ => false) ∧
    (decodeWord 0x841F0000 0xFFFFFFFF).isSome ∧ decodeWord 0x87FFFFFF 0 = none ∧ 0x841F0000 / 2 ^ 26 = 0x21 ∧
    atL.strand? { firstStrand with gang := 7 } = none ∧ ({ atL with agenda := [.pcp, .strand firstStrand] } : State).agenda ≠ [] := by decide +kernel
end Sys2Proof.Tests
end

/-! ### The boundary flit of a group that loses a rank which has arrived

BOUNDARY_FLIT_SEND lets the ranks of the group send their stores to other packages (17 R415). A store that finds no path is
refused at once; where the strand that made it holds for an access of the very number that the store takes, the refusal traps it
(13 R336), and without a handler the trap kills its gang (12 R301). The commands of the gang are discarded with it (14 R351), and
the discard of a migration past its commit takes the migrated rank out of this package (15 R374), here one that has just reported
its arrival for the group. A statement about states in which no strand holds for an access number not yet given would exclude
this. -/

namespace Sys2Proof.Machine.BoundaryLoss

/-- A store to package 1, to which no link of the package leads. -/
def strayStore : BStore := { core := 0, strand := .l, gang := 1, dst := .peer 1 0, bytes := [], va := 0 }

/-- A gang that is not placed and whose L has no handler and holds for the access that takes the next number. -/
def holdingGang : Gang :=
  let core := Core.start firstLaunch 0 0
  { Gang.posted firstLaunch .pcp 0 with cores := [{ core with l := { core.l with wait := some (.access State.reset.nextId) } }] }

/-- The rank of the group that has quiesced but for its store to another package. -/
def sendingRank : Rank := { firstRank with coupling := some 0, gangs := [holdingGang], sbuf := [strayStore] }

/-- The rank of the group that has quiesced and has nothing to send. -/
def arrivedRank : Rank := Rank.loaded { vr := 1, slot := some 1, ptroot := 0, coupling := some 0, planes := (0, 0, 0) } 1 0

/-- A migration of VR 1 from slot 1 to package 1 of the domain, past its commit; the gang of the stray store has submitted it. -/
def lateMigration : Cmd :=
  { id := 1, by' := firstStrand, sup := true, engine := 33, slot := 0, order := 0, st := .running, pins := [],
    body := .migr (BitVec.ofNat 512 (2 ^ 20 + 2 ^ 32 + 2 ^ 64)) 3 [] 0 0 0, raw := 0, wrote := [], spoiled := [], ending := false }

/-- The two ranks of group 0 resident in a package just reset, the command under way. -/
def lossState : State := { State.reset with ranks := [sendingRank, arrivedRank], cmds := [lateMigration] }

theorem lossState_vrs_nodup : (lossState.ranks.map Rank.vr).Nodup := by decide

theorem lossState_groupRanks : lossState.groupRanks 0 = [sendingRank, arrivedRank] := rfl

/-- The arrived rank reports quiescence (17 R415). -/
theorem lossState_arrivalByte : lossState.arrivalByte arrivedRank = 2 := by decide +kernel

/-- Whether an outcome is a next state that holds no rank of a VR. -/
def lacksRank (vr : Nat) : Host.Outcome State Fault Refusal → Bool
  | .next t => (t.rank? vr).isNone
  | _ => false

/-- The sending of the boundary flit takes the arrived rank out of the package. -/
theorem lossState_lacksRank : lacksRank arrivedRank.vr (exec (.boundaryFlitSend 0) lossState) = true := by decide +kernel

theorem rank?_of_lacksRank {vr : Nat} {o : Host.Outcome State Fault Refusal} {t : State} (h : lacksRank vr o = true)
    (ho : o = .next t) : t.rank? vr = none := by
  subst ho
  exact Option.isNone_iff_eq_none.mp h

end Sys2Proof.Machine.BoundaryLoss

namespace Sys2Proof.Machine
open BoundaryLoss

/-- Refutes O40: BOUNDARY_FLIT_SEND need not leave every rank whose byte says that it has arrived with no gang starting. In
`lossState` a store of another rank of the group is refused, the gang that made it is killed, and its discarded migration takes
the arrived rank out of the package. -/
theorem not_phaseAndStepBoundaries : ¬ Obligations.PhaseAndStepBoundaries := by
  intro h
  obtain ⟨-, -, -, -, -, -, -, -, hsend, -⟩ := h lossState lossState_vrs_nodup
  obtain ⟨t, v, hexec, -, -, -, -, hclosing, -⟩ := hsend 0 (by simp [lossState_groupRanks])
  have hmem : arrivedRank ∈ lossState.groupRanks 0 := by simp [lossState_groupRanks]
  have hclosed := hclosing arrivedRank hmem (by simp [lossState_arrivalByte])
  simp [rank?_of_lacksRank lossState_lacksRank hexec] at hclosed

end Sys2Proof.Machine

/-! ### What a search for a rank finds, and the acting strand's schedule table -/

namespace Sys2Proof.Machine

theorem State.vr_of_rank? {s : State} {vr : Nat} {r : Rank} (h : s.rank? vr = some r) : r.vr = vr := by
  simpa using List.find?_some h

theorem State.withSched_eq {s : State} {r : Rank} (h : s.rank? s.cur.vr = some r) (f : Rank → Sched → State) :
    s.withSched f = f r r.sched := by simp [State.withSched, h]

/-! ### Records in the own scratchpad (04 R97, R98) -/

theorem scratchAt_low {core off : Nat} (h : off < 0x80000) : scratchAt core off = .own off := if_pos h

theorem scratchAt_alias {core off : Nat} (hc : core < 256) (h : off < 0x80000) :
    scratchAt core (0x1000000 + core * 0x80000 + off) = .own off := by
  have hquot : (0x1000000 + core * 0x80000 + off - 0x1000000) / 0x80000 = core := by omega
  have hrem : (0x1000000 + core * 0x80000 + off - 0x1000000) % 0x80000 = off := by omega
  unfold scratchAt
  rw [if_neg (by omega), if_pos (by omega)]
  simp only [hquot, hrem, if_true]

theorem scratchAt_gap {core a : Nat} (hlo : 0x80000 ≤ a) (hhi : a < 0x1000000) : scratchAt core a = .unmapped := by
  unfold scratchAt
  rw [if_neg (by omega), if_neg (by omega), if_neg (by omega)]

theorem padOff_own {core off : Nat} {a : Word} (h : scratchAt core a.toNat = .own off) : padOff core a = off := by
  simp [padOff, h]

theorem recordSpan_own {core off : Nat} {a : Word} (h : scratchAt core a.toNat = .own off) (n al : Nat) :
    recordSpan core a n al = if 0x80000 < off + n then some (0xB, a + BitVec.ofNat 64 (0x80000 - off))
      else if off % al = 0 then none else some (0xA, a) := by
  simp [recordSpan, h]

theorem recordSpan_unmapped {core : Nat} {a : Word} (h : scratchAt core a.toNat = .unmapped) (n al : Nat) :
    recordSpan core a n al = some (0xB, a) := by
  simp [recordSpan, h]

/-! ### SCHLD (14 R364) -/

/-- The header of the image at an offset of a scratchpad. -/
def State.imageHeader (s : State) (slot core off : Nat) : BitVec 256 := BitVec.ofNat 256 (leNat (s.padBytes slot core off 32))

/-- The bytes of an image under its header. -/
def imageSize (h : BitVec 256) : Nat := 32 + 32 * hdrNent h + 512 * hdrNrec h

/-- The entries of the image, and its record blocks. -/
def State.imageEntries (s : State) (slot core off : Nat) : List (BitVec 256) :=
  let h := s.imageHeader slot core off
  unpackWords 256 (hdrNent h) (s.padBytes slot core (off + 32) (32 * hdrNent h))
def State.imageRecs (s : State) (slot core off : Nat) : List (BitVec 4096) :=
  let h := s.imageHeader slot core off
  unpackWords 4096 (hdrNrec h) (s.padBytes slot core (off + (32 + 32 * hdrNent h)) (512 * hdrNrec h))

/-- Whether an image is legal for a strand of this privilege (14 R355, R356). -/
def State.imageLegal (s : State) (slot core off : Nat) (sup : Bool) : Bool :=
  headerLegal (s.imageHeader slot core off) && (s.imageEntries slot core off).all (entryLegal (s.imageHeader slot core off)) &&
    (s.imageRecs slot core off).all (blockLegal sup)

theorem State.imageLegal_iff (s : State) (slot core off : Nat) (sup : Bool) : s.imageLegal slot core off sup = true ↔
    headerLegal (s.imageHeader slot core off) = true ∧
      (∀ e ∈ s.imageEntries slot core off, entryLegal (s.imageHeader slot core off) e = true) ∧
      ∀ k ∈ s.imageRecs slot core off, blockLegal sup k = true := by
  simp [State.imageLegal, and_assoc]

/-! ### What SCHGO posts and what SLOTPOST refuses (14 R362, R364) -/

theorem State.postCredits_of_posted {s : State} {r : Rank} (hr : s.rank? s.cur.vr = some r) (h : r.sched.posted = true) :
    s.postCredits s.cur.vr = s := by
  simp [State.postCredits, hr, h]

theorem State.postCredits_of_not_posted {s : State} {r : Rank} (hr : s.rank? s.cur.vr = some r) (h : r.sched.posted = false) :
    s.postCredits s.cur.vr =
    ((if r.sched.dnv then (fun (u : State) => u.sendSlots r true r.sched.ng) else id)
      ((if r.sched.upv then (fun (u : State) => u.sendSlots r false r.sched.na) else id) s)).modSched s.cur.vr
        fun q => { q with posted := true } := by
  simp only [State.postCredits, hr, h]
  cases r.sched.upv <;> cases r.sched.dnv <;> rfl

theorem bitsAt_one_ne_zero (v : Word) : bitsAt v 1 63 ≠ 0 ↔ 2 ≤ v.toNat := by
  simp only [bitsAt, BitVec.extractLsb'_toNat, Nat.shiftRight_eq_div_pow]
  have := v.isLt
  omega

theorem bitsAt_eight_ne_zero (v : Word) : bitsAt v 8 56 ≠ 0 ↔ 256 ≤ v.toNat := by
  simp only [bitsAt, BitVec.extractLsb'_toNat, Nat.shiftRight_eq_div_pow]
  have := v.isLt
  omega

/-- What SLOTPOST refuses: reserved bits of the kind, a count outside 1 to 255, an idle or faulted table, more slots than are in
use, a neighbour that the header does not name. -/
def Sched.slotpostBad (t : Sched) (k n : Word) : Prop :=
  2 ≤ k.toNat ∨ 256 ≤ n.toNat ∨ n.toNat = 0 ∨ t.st = .idle ∨ t.st = .fault ∨
    (if bitAt k 0 then t.ginu < n.toNat ∨ t.dnv = false else t.ainu < n.toNat ∨ t.upv = false)

theorem Sched.slotpostBad_iff (t : Sched) (k n : Word) : t.slotpostBad k n ↔
    ¬ (0 < n.toNat ∧ n.toNat < 256 ∧ t.st ≠ .idle ∧ t.st ≠ .fault) ∨ 2 ≤ k.toNat ∨
      (k = 0 ∧ (t.ainu < n.toNat ∨ t.upv = false)) ∨ (k = 1 ∧ (t.ginu < n.toNat ∨ t.dnv = false)) := by
  have hcase : 2 ≤ k.toNat ∨ k = 0 ∨ k = 1 := by
    rcases Nat.lt_or_ge k.toNat 2 with hlt | hge
    · have : k.toNat = 0 ∨ k.toNat = 1 := by omega
      exact .inr (this.imp BitVec.eq_of_toNat_eq BitVec.eq_of_toNat_eq)
    · exact .inl hge
  rcases hcase with hge | rfl | rfl
  · simp [Sched.slotpostBad, hge]
  · have hkind : bitAt (0 : Word) 0 = false := rfl
    grind [Sched.slotpostBad]
  · have hkind : bitAt (1 : Word) 0 = true := rfl
    grind [Sched.slotpostBad]

/-! ### The instructions -/

section
variable {s : State} {st : Strand} {r : Rank} {slot : Nat} (hs : s.strand? s.cur = some st) (hr : s.rank? s.cur.vr = some r)
include hs hr

theorem exec_schld_unmapped (d a : XReg) (h : scratchAt s.cur.core (st.rx a).toNat = .unmapped) :
    exec (.schld d a) s = .next (s.trap st 0xB (st.rx a)) := by
  rw [exec_schld, execSchld, State.acting_eq hs, State.withSched_eq hr]
  simp [recordSpan_unmapped h]

section
variable {d a : XReg} {off : Nat} (hown : scratchAt s.cur.core (st.rx a).toNat = .own off) (hhead : off + 32 ≤ 0x80000)
include hown hhead

theorem exec_schld_misaligned (hal : off % 32 ≠ 0) : exec (.schld d a) s = .next (s.trap st 0xA (st.rx a)) := by
  rw [exec_schld, execSchld, State.acting_eq hs, State.withSched_eq hr]
  simp [recordSpan_own hown, hal, Nat.not_lt.mpr hhead]

variable (hslot : s.slotOf s.cur.vr = some slot) (hal : off % 32 = 0)
include hslot hal

theorem exec_schld_beyond (hsize : 0x80000 < off + imageSize (s.imageHeader slot s.cur.core off)) :
    exec (.schld d a) s = .next (s.trap st 0xB (st.rx a + BitVec.ofNat 64 (0x80000 - off))) := by
  rw [exec_schld, execSchld, State.acting_eq hs, State.withSched_eq hr]
  simp only [imageSize, State.imageHeader] at hsize
  simp [recordSpan_own hown, padOff_own hown, hslot, hal, hsize, Nat.not_lt.mpr hhead]

theorem exec_schld_inside (hsize : off + imageSize (s.imageHeader slot s.cur.core off) ≤ 0x80000) :
    exec (.schld d a) s = .next (
      if r.sched.st = .ready ∨ r.sched.st = .busy ∨ r.sched.st = .halting then s.retire (st.wx d 1)
      else if !s.imageLegal slot s.cur.core off st.sup then s.retire (st.wx d 2)
      else (s.modSched r.vr fun q =>
        { q.clear with st := .loaded, header := s.imageHeader slot s.cur.core off, entries := s.imageEntries slot s.cur.core off,
                       recs := s.imageRecs slot s.cur.core off, supLoaded := st.sup }).retire (st.wx d 0)) := by
  rw [exec_schld, execSchld, State.acting_eq hs, State.withSched_eq hr]
  simp only [imageSize, State.imageHeader, ← Nat.not_lt, Nat.add_assoc] at hsize
  simp only [recordSpan_own hown, padOff_own hown, hslot, hal, Nat.not_lt.mpr hhead, hsize, if_false, if_true, Option.getD_some,
    State.imageLegal, State.imageEntries, State.imageRecs, State.imageHeader, Bool.not_and, Nat.add_assoc]
end

/-! ### SCHGO, SCHHALT, SCHSTAT (14 R361, R362, R364) -/

theorem exec_schgo_refused (d a : XReg) (h : r.sched.st ∉ [SchedSt.loaded, .halted]) :
    exec (.schgo d a) s = .next (s.retire (st.wx d 1)) := by
  have hnot : ¬ (r.sched.st = .loaded ∨ r.sched.st = .halted) := by simpa using h
  rw [exec_schgo, execSchgo, State.acting_eq hs, State.withSched_eq hr, if_neg hnot]

theorem exec_schgo_accepted (d a : XReg) (h : r.sched.st ∈ [SchedSt.loaded, .halted]) :
    exec (.schgo d a) s = .next (((s.postCredits r.vr).modSched r.vr fun q =>
      { q with st := (if q.pos = q.entries.length then .done else .ready),
               bubin := (if (st.rx a).getLsbD 0 then 0 else q.bubin), bubdn := (if (st.rx a).getLsbD 0 then 0 else q.bubdn),
               bubst := (if (st.rx a).getLsbD 0 then 0 else q.bubst) }).retire (st.wx d 0)) := by
  have hready : r.sched.st = .loaded ∨ r.sched.st = .halted := by simpa using h
  rw [exec_schgo, execSchgo, State.acting_eq hs, State.withSched_eq hr, if_pos hready]
  rfl

theorem exec_schhalt_eq (d : XReg) : exec (.schhalt d) s = .next (match r.sched.st with
    | .ready => (s.modSched r.vr fun q => { q with st := .halted }).retire (st.wx d 0)
    | .busy => (s.modSched r.vr fun q => { q with st := .halting }).retire (st.wx d 0)
    | .halting => s.retire (st.wx d 0)
    | _ => s.retire (st.wx d 1)) := by
  cases hst : r.sched.st <;> simp only [exec_schhalt, execSchhalt, State.acting_eq hs, State.withSched_eq hr, hst]

theorem exec_schstat_eq (d : XReg) : exec (.schstat d) s = .next (s.retire (st.wx d (BitVec.ofNat 64
    (r.sched.ginu * 2 ^ 56 + r.sched.ainu * 2 ^ 48 + r.sched.gcr * 2 ^ 40 + r.sched.acr * 2 ^ 32 + r.sched.stash * 2 ^ 24 +
      r.sched.st.code * 2 ^ 16 + r.sched.pos)))) := by
  rw [exec_schstat, execSchstat, State.acting_eq hs, State.withSched_eq hr]

/-! ### SLOTPOST (14 R364) -/

theorem exec_slotpost_of_bad (a b : XReg) (h : r.sched.slotpostBad (st.rx a) (st.rx b)) :
    exec (.slotpost a b) s = .next (s.trap st 1 (s.wordVal (.slotpost a b))) := by
  have hzero : st.rx b = 0 ↔ (st.rx b).toNat = 0 := BitVec.toNat_inj.symm
  rw [exec_slotpost, execSlotpost, State.acting_eq hs, State.withSched_eq hr, if_pos]
  · rfl
  · simpa only [bitsAt_one_ne_zero, bitsAt_eight_ne_zero, hzero, Sched.slotpostBad] using h

theorem exec_slotpost_of_good (a b : XReg) (h : ¬ r.sched.slotpostBad (st.rx a) (st.rx b)) :
    exec (.slotpost a b) s = .next (((s.modSched r.vr fun q =>
      if bitAt (st.rx a) 0 then { q with arrg := q.arrg.drop (st.rx b).toNat, ginu := q.ginu - (st.rx b).toNat }
      else { q with arra := q.arra.drop (st.rx b).toNat, ainu := q.ainu - (st.rx b).toNat }).sendSlots r (bitAt (st.rx a) 0)
        (st.rx b).toNat).retire st) := by
  have hzero : st.rx b = 0 ↔ (st.rx b).toNat = 0 := BitVec.toNat_inj.symm
  rw [exec_slotpost, execSlotpost, State.acting_eq hs, State.withSched_eq hr, if_neg]
  · rfl
  · simpa only [bitsAt_one_ne_zero, bitsAt_eight_ne_zero, hzero, Sched.slotpostBad] using h

theorem exec_slotpost_activation (a b : XReg) (hkind : st.rx a = 0) (h : ¬ r.sched.slotpostBad 0 (st.rx b)) :
    exec (.slotpost a b) s = .next (((s.modSched r.vr fun q =>
      { q with arra := q.arra.drop (st.rx b).toNat, ainu := q.ainu - (st.rx b).toNat }).sendSlots r false (st.rx b).toNat).retire st) := by
  rw [exec_slotpost_of_good hs hr a b (by rwa [hkind]), hkind]
  rfl

theorem exec_slotpost_gradient (a b : XReg) (hkind : st.rx a = 1) (h : ¬ r.sched.slotpostBad 1 (st.rx b)) :
    exec (.slotpost a b) s = .next (((s.modSched r.vr fun q =>
      { q with arrg := q.arrg.drop (st.rx b).toNat, ginu := q.ginu - (st.rx b).toNat }).sendSlots r true (st.rx b).toNat).retire st) := by
  rw [exec_slotpost_of_good hs hr a b (by rwa [hkind]), hkind]
  rfl

end

/-- Settles O35: each instruction of the schedule table answers what the lemma of its case above says. -/
theorem scheduleInstructions : Obligations.ScheduleInstructions := by
  intro s st d a b r slot hs hr hslot t v n
  have hvr := State.vr_of_rank? hr
  refine ⟨?_, ?_, exec_schgo_refused hs hr d a, exec_schgo_accepted hs hr d a, ?_, ?_, exec_schhalt_eq hs hr d,
    exec_schstat_eq hs hr d, ?_⟩
  · intro off hoff hhead pad h ents recs size legal
    have hown : scratchAt s.cur.core v.toNat = .own off := by
      rcases hoff with hlow | ⟨hcore, halias⟩
      · rw [hlow]; exact scratchAt_low (by omega)
      · rw [halias]; exact scratchAt_alias hcore (by omega)
    refine ⟨exec_schld_misaligned hs hr hown hhead, exec_schld_beyond hs hr hown hhead hslot, fun hal hsize => ?_⟩
    have hexec := exec_schld_inside hs hr (d := d) hown hhead hslot hal hsize
    have hlegal : s.imageLegal slot s.cur.core off st.sup = true ↔ legal := by
      rw [State.imageLegal_iff]
      rfl
    rw [hexec, ← hlegal]
    refine ⟨fun hbusy => ?_, fun hidle hillegal => ?_, fun hidle hok => ?_⟩
    · rw [if_pos (by simpa using hbusy)]
    · rw [if_neg (by simpa using hidle), if_pos (by simpa using hillegal)]
    · rw [if_neg (by simpa using hidle), if_neg (by simpa using hok)]
      rfl
  · intro hlo hhi
    exact exec_schld_unmapped hs hr d a (scratchAt_gap hlo hhi)
  · rw [hvr]; exact State.postCredits_of_posted hr
  · rw [hvr]; exact State.postCredits_of_not_posted hr
  · intro fits
    refine ⟨fun hfits hv hle hup => exec_slotpost_activation hs hr a b hv ?_,
      fun hfits hv hle hdn => exec_slotpost_gradient hs hr a b hv ?_,
      fun hbad => exec_slotpost_of_bad hs hr a b ((Sched.slotpostBad_iff _ _ _).mpr hbad)⟩
    · rw [Sched.slotpostBad_iff]
      grind
    · rw [Sched.slotpostBad_iff]
      grind

end Sys2Proof.Machine

/-! ### Sending a message: what of the state it leaves (17 R413, R414) -/

namespace Sys2Proof.Machine

theorem State.mine_own {s : State} {q : DHdr} (h : q.dpkg = s.ownPkg) (m : Demand) (f : State → State) : s.mine q m f = f s := if_pos h

theorem State.mine_other {s : State} {q : DHdr} (h : q.dpkg ≠ s.ownPkg) (m : Demand) (f : State → State) :
    s.mine q m f = s.forward 32 m := if_neg h

/-- A message goes into the package's own net, or into the headland queue of a link. -/
theorem State.send_cases (s : State) (m : Demand) : (∃ l, s.send m = { s with net := l }) ∨ ∃ f, s.send m = { s with fabric := f } := by
  unfold State.send State.forward
  cases s.linkFor (demandHdr m) with
  | none => exact .inl ⟨_, rfl⟩
  | some l => exact .inr ⟨_, rfl⟩

/-- What a field that no message touches holds after one is sent. -/
theorem State.send_keeps {γ : Type} (π : State → γ) (hnet : ∀ (s : State) l, π { s with net := l } = π s)
    (hfabric : ∀ (s : State) f, π { s with fabric := f } = π s) (s : State) (m : Demand) : π (s.send m) = π s := by
  obtain ⟨l, h⟩ | ⟨f, h⟩ := s.send_cases m
  · rw [h, hnet]
  · rw [h, hfabric]

theorem foldl_keeps {α β γ : Type} (π : α → γ) {f : α → β → α} (h : ∀ a b, π (f a b) = π a) (l : List β) (a : α) :
    π (l.foldl f a) = π a := by
  induction l generalizing a with
  | nil => rfl
  | cons b t ih => rw [List.foldl_cons, ih, h]

/-- The memories of the state: of the package, of the host, of the slots. -/
def State.memories (s : State) : Memory × Memory × Vector Slot 16 := (s.mem, s.hostMem, s.slots)

theorem State.sameMemory_of_memories {s t : State} (h : t.memories = s.memories) : s.SameMemory t := by
  simp only [State.memories, Prod.mk.injEq] at h
  obtain ⟨hmem, hhost, hslots⟩ := h
  simp [State.SameMemory, State.slot, hmem, hhost, hslots]

@[simp] theorem State.send_memories (s : State) (m : Demand) : (s.send m).memories = s.memories :=
  State.send_keeps State.memories (fun _ _ => rfl) (fun _ _ => rfl) s m

/-! ### The frame state table and the fault queue (13 R334, R335) -/

theorem bitsAt_zero_two (v : BitVec 8) : bitsAt v 0 2 = v.toNat % 4 := by
  simp [bitsAt]

/-- The frame state table with the fault queue. -/
def State.gateTable (s : State) : List (Nat × BitVec 8) × List Parked := (s.frameStates, s.faultq)

@[simp] theorem State.send_gateTable (s : State) (m : Demand) : (s.send m).gateTable = s.gateTable :=
  State.send_keeps State.gateTable (fun _ _ => rfl) (fun _ _ => rfl) s m

@[simp] theorem State.homePut_gateTable (s : State) (vr a : Nat) (fixed : Bool) (bs : List Byte) :
    (s.homePut vr a fixed bs).gateTable = s.gateTable := by
  induction bs generalizing s a with
  | nil => rfl
  | cons b t ih => rw [State.homePut, ih]; rfl

@[simp] theorem State.atomAt_gateTable (s : State) (vr a : Nat) (op : RAtom) : (s.atomAt vr a op).2.gateTable = s.gateTable := by
  cases op <;> simp [State.atomAt]

@[simp] theorem State.performRemote_gateTable (s : State) (m : Demand) : (s.performRemote m).gateTable = s.gateTable := by
  unfold State.performRemote
  split
  · simp
  · rw [State.send_gateTable]
    split <;> rfl
  · simp
  · rfl

theorem State.frameState_congr {s t : State} (h : t.frameStates = s.frameStates) (i : Nat) : t.frameState i = s.frameState i := by
  simp [State.frameState, h]

/-- An entry of the frame state table set, the others as they were. -/
def State.setFrame (s : State) (index : Nat) (v : BitVec 8) : State :=
  { s with frameStates := (s.frameStates.filter fun e => e.1 != index) ++ [(index, v)] }

theorem State.frameState_setFrame_self (s : State) (index : Nat) (v : BitVec 8) : (s.setFrame index v).frameState index = v.toNat % 4 := by
  have hnone : (s.frameStates.filter fun e => e.1 != index).find? (fun e => e.1 == index) = none := by
    simp
  simp [State.frameState, State.setFrame, List.find?_append, hnone, bitsAt_zero_two]

theorem State.frameState_setFrame_ne (s : State) {index k : Nat} (v : BitVec 8) (h : k ≠ index) :
    (s.setFrame index v).frameState k = s.frameState k := by
  have hfind : ((s.frameStates.filter fun e => e.1 != index) ++ [(index, v)]).find? (fun e => e.1 == k) =
      s.frameStates.find? fun e => e.1 == k := by
    have hlast : [(index, v)].find? (fun e => e.1 == k) = none := by simp [Ne.symm h]
    rw [List.find?_append, List.find?_filter, hlast, Option.or_none]
    congr 1
    funext e
    by_cases he : e.1 = k <;> simp [he, h]
  simp only [State.frameState, State.setFrame, hfind]

/-- Whether a parked access is to a frame. -/
def Parked.atFrame (p : Parked) (index : Nat) : Bool := (demandAddr p.msg).map frameIndex == some index

theorem exec_frameStateSet_parked (s : State) (index : Nat) {v : BitVec 8} (h : v.toNat % 4 = 2) :
    exec (.frameStateSet index v) s = .next (s.setFrame index v) := by
  rw [exec_frameStateSet, execFrameStateSet]
  simp only [bitsAt_zero_two, h, if_true]
  rfl

/-- The frame opened or closed: the accesses parked there leave the queue, and perform or are refused. -/
theorem exec_frameStateSet_of_ne (s : State) (index : Nat) {v : BitVec 8} (h : v.toNat % 4 ≠ 2) :
    exec (.frameStateSet index v) s = .next (
      let t := { s.setFrame index v with faultq := s.faultq.filter fun p => !p.atFrame index }
      let mine := s.faultq.filter fun p => p.atFrame index
      if v.toNat % 4 = 1 then mine.foldl (fun (s : State) p => s.performRemote p.msg) t
      else mine.foldl (fun (s : State) p => s.send (.refusal (replyHdr (demandHdr p.msg)) 1)) t) := by
  rw [exec_frameStateSet, execFrameStateSet]
  simp only [bitsAt_zero_two, h, if_false]
  rfl

theorem exec_frameStateSet_spec (s : State) (index : Nat) (v : BitVec 8) : ∃ t, exec (.frameStateSet index v) s = .next t ∧
    t.gateTable = ((s.setFrame index v).frameStates,
      if v.toNat % 4 = 2 then s.faultq else s.faultq.filter fun p => !p.atFrame index) ∧
    (v.toNat % 4 ≠ 1 → t.memories = s.memories) := by
  by_cases hpark : v.toNat % 4 = 2
  · refine ⟨_, exec_frameStateSet_parked s index hpark, ?_, fun _ => rfl⟩
    simp [hpark, State.gateTable, State.setFrame]
  · refine ⟨_, exec_frameStateSet_of_ne s index hpark, ?_, fun hclosed => ?_⟩
    · dsimp only
      rw [if_neg hpark]
      split
      · exact foldl_keeps State.gateTable (fun s (p : Parked) => s.performRemote_gateTable p.msg) _ _
      · exact foldl_keeps State.gateTable (fun s p => s.send_gateTable _) _ _
    · dsimp only
      rw [if_neg hclosed]
      exact foldl_keeps State.memories (fun s p => s.send_memories _) _ _

/-! ### An access at its target (04 R103, R105; 13 R334, R335) -/

section
variable {s : State} {a : Nat}

theorem State.arriveRemote_opened (hex : physExists a = true) (hst : s.frameState (frameIndex a) = 1) (m : Demand) :
    s.arriveRemote m a = s.performRemote m := by
  simp [State.arriveRemote, State.gate, hex, hst]

theorem State.arriveRemote_parked (hex : physExists a = true) (hst : s.frameState (frameIndex a) = 2) (m : Demand) :
    s.arriveRemote m a = if s.faultq.length < 1024 then { s with faultq := s.faultq ++ [{ msg := m, slots := 0 }] }
      else s.send (.keepWaiting { replyHdr (demandHdr m) with svr := 1 }) := by
  simp [State.arriveRemote, State.gate, hex, hst]

theorem State.arriveRemote_refused
    (h : physExists a = false ∨ s.frameState (frameIndex a) = 0 ∨ s.frameState (frameIndex a) = 3) (m : Demand) :
    s.arriveRemote m a = s.send (.refusal (replyHdr (demandHdr m)) 1) := by
  have hgate : s.gate a = .refused := by
    rcases h with hex | hst | hst
    · simp [State.gate, hex]
    · simp [State.gate, hst]
    · simp [State.gate, hst]
  simp [State.arriveRemote, hgate]
end

section
variable {s : State} {q : DHdr} (hown : q.dpkg = s.ownPkg)
include hown

theorem exec_remoteLoad_phys (a n : Nat) :
    exec (.remoteLoad q (.phys a) n) s = .next (s.arriveRemote (.remoteLoad q (.phys a) n) a) := by
  rw [exec_remoteLoad, execRemoteLoad, State.mine_own hown]

theorem exec_postedWrite_phys (a core : Nat) (st : StrandId) (o : Nat) (bs : List Byte) :
    exec (.postedWrite q (.phys a) core st o bs) s = .next (s.arriveRemote (.postedWrite q (.phys a) core st o bs) a) := by
  rw [exec_postedWrite, execPostedWrite, State.mine_own hown]

theorem exec_atomic_own (a : Nat) (op : RAtom) : exec (.atomic q a op) s = .next (s.arriveRemote (.atomic q a op) a) := by
  rw [exec_atomic, execAtomic, State.mine_own hown]

theorem exec_remoteLoad_notHeld (dst off n : Nat) (h : s.slotOf q.dvr = none) :
    exec (.remoteLoad q (.window dst off) n) s = .next (s.notHeld q) := by
  rw [exec_remoteLoad, execRemoteLoad, State.mine_own hown]
  simp [h]

theorem exec_postedWrite_notHeld (dst off core : Nat) (st : StrandId) (o : Nat) (bs : List Byte) (h : s.slotOf q.dvr = none) :
    exec (.postedWrite q (.window dst off) core st o bs) s = .next (s.notHeld q) := by
  rw [exec_postedWrite, execPostedWrite, State.mine_own hown]
  simp [h]

theorem exec_remoteLoad_window {slot : Nat} (h : s.slotOf q.dvr = some slot) (dst off n : Nat) :
    exec (.remoteLoad q (.window dst off) n) s = .next (s.send (if s.windowOk q dst off
      then .loadData (replyHdr q) (memBytes (s.slot slot).shadow (dst * 0x80000 + off) n) else .refusal (replyHdr q) 2)) := by
  rw [exec_remoteLoad, execRemoteLoad, State.mine_own hown]
  cases hok : s.windowOk q dst off <;> simp [h, hok]

theorem exec_postedWrite_window {slot : Nat} (h : s.slotOf q.dvr = some slot) (dst off core : Nat) (st : StrandId) (o : Nat)
    (bs : List Byte) : exec (.postedWrite q (.window dst off) core st o bs) s = .next (if s.windowOk q dst off
      then (s.modRank q.dvr fun r => { r with posted := r.posted ++
        [{ srcVr := q.svr, srcCore := core, srcStrand := st, order := o, core := dst, off := off, bytes := bs }] }).send
          (.writeAck (replyHdr q))
      else s.send (.refusal (replyHdr q) 2)) := by
  rw [exec_postedWrite, execPostedWrite, State.mine_own hown]
  cases hok : s.windowOk q dst off <;> simp [h, hok]
end

theorem State.windowOk_iff {s : State} {q : DHdr} {r : Rank} (hr : s.rank? q.dvr = some r) (core off : Nat) :
    s.windowOk q core off = true ↔
      core < 256 ∧ off < 0x80000 ∧ ∃ g, r.coupling = some g ∧ s.groupOf r.job q.svr = some g := by
  cases hc : r.coupling <;> simp [State.windowOk, hr, hc, and_assoc]

/-! ### The timer of a parked access (13 R335) -/

theorem exec_keepWaitingTimer_of_none {s : State} {q : DHdr} (h : ∀ p ∈ s.faultq, demandHdr p.msg = q → p.slots < 65536) :
    exec (.keepWaitingTimer q) s = .next s := by
  have hfind : (s.faultq.find? fun p => demandHdr p.msg == q && 65536 ≤ p.slots) = none := by
    simpa using h
  rw [exec_keepWaitingTimer, execKeepWaitingTimer, hfind]

theorem exec_keepWaitingTimer_of_some {s : State} {q : DHdr} (h : ∃ p ∈ s.faultq, demandHdr p.msg = q ∧ 65536 ≤ p.slots) :
    exec (.keepWaitingTimer q) s = .next (({ s with
      faultq := s.faultq.map fun p => if demandHdr p.msg = q ∧ 65536 ≤ p.slots then { p with slots := p.slots - 65536 } else p }
        : State).send (.keepWaiting (replyHdr q))) := by
  obtain ⟨p, hp⟩ : ∃ p, (s.faultq.find? fun p => demandHdr p.msg == q && 65536 ≤ p.slots) = some p := by
    rw [← Option.isSome_iff_exists, List.find?_isSome]
    simpa using h
  rw [exec_keepWaitingTimer, execKeepWaitingTimer, hp]

/-- Settles O47: the gate of the frame decides for a physical address, the residence of the rank and its coupling group for a window. -/
theorem remoteRequestsAtTheirTarget : Obligations.RemoteRequestsAtTheirTarget := by
  intro s q
  refine ⟨fun hother tgt n core st o a bs op => ?_, fun hown a n core o st bs op => ?_, fun index v => ?_,
    exec_keepWaitingTimer_of_some, exec_keepWaitingTimer_of_none⟩
  · rw [exec_remoteLoad, exec_postedWrite, exec_atomic, execRemoteLoad, execPostedWrite, execAtomic]
    simp only [State.mine_other hother, and_self]
  · intro state back
    have hstate : state = s.frameState (frameIndex a) := by
      simp only [state, State.frameState]
      cases s.frameStates.find? fun e => e.1 == frameIndex a <;> simp [bitsAt_zero_two]
    rw [exec_remoteLoad_phys hown, exec_postedWrite_phys hown, exec_atomic_own hown, hstate]
    refine ⟨fun hex hst => ?_, fun hclosed => ?_, fun hex hst i m hi => ?_, fun dst off slot r hr hplace => ?_, fun dst off hslot => ?_⟩
    · simp only [State.arriveRemote_opened hex hst]
      refine ⟨rfl, fun hkind => ?_, fun hkind => ?_, rfl⟩
      · simp only [State.performRemote, if_pos hkind]
        rfl
      · simp only [State.performRemote, if_neg hkind]
        rfl
    · simp only [State.arriveRemote_refused hclosed]
      exact ⟨rfl, rfl, rfl⟩
    · simp only [List.mem_cons, Prod.mk.injEq, List.not_mem_nil, or_false] at hi
      rcases hi with ⟨rfl, rfl⟩ | ⟨rfl, rfl⟩ | ⟨rfl, rfl⟩
      · rw [exec_remoteLoad_phys hown, State.arriveRemote_parked hex hst]; rfl
      · rw [exec_postedWrite_phys hown, State.arriveRemote_parked hex hst]; rfl
      · rw [exec_atomic_own hown, State.arriveRemote_parked hex hst]; rfl
    · intro valid
      have hslot : s.slotOf q.dvr = some slot := by simp [State.slotOf, hr, Rank.slot?, hplace]
      have hok : s.windowOk q dst off = true ↔ valid := State.windowOk_iff hr dst off
      rw [exec_remoteLoad_window hown hslot, exec_postedWrite_window hown hslot, ← hok]
      refine ⟨fun hvalid => ?_, fun hinvalid => ?_⟩
      · rw [if_pos hvalid, if_pos hvalid]
        exact ⟨rfl, rfl⟩
      · rw [if_neg hinvalid, if_neg hinvalid]
        exact ⟨rfl, rfl⟩
    · exact ⟨exec_remoteLoad_notHeld hown dst off n hslot, exec_postedWrite_notHeld hown dst off core st o bs hslot⟩
  · obtain ⟨t, hexec, htable, hmem⟩ := exec_frameStateSet_spec s index v
    obtain ⟨hstates, hqueue⟩ := Prod.mk.inj htable
    refine ⟨t, hexec, ?_, fun k hk => ?_, fun hpark => ?_, fun hleft => ?_, fun hclosed => State.sameMemory_of_memories (hmem hclosed)⟩
    · rw [State.frameState_congr hstates, State.frameState_setFrame_self]
    · rw [State.frameState_congr hstates, State.frameState_setFrame_ne s v hk]
    · rw [hqueue, if_pos hpark]
    · rw [hqueue, if_neg hleft]
      rfl

end Sys2Proof.Machine

/-! ### Ranks changed without their gangs: the strands stand -/

namespace Sys2Proof.Machine

theorem State.rank?_mapRanks (s : State) (v : Nat) (f : Rank → Rank) (hf : ∀ k, (f k).vr = k.vr := by intro _; rfl) :
    ({ s with ranks := s.ranks.map f } : State).rank? v = (s.rank? v).map f := by
  have hpred : ((fun k : Rank => k.vr == v) ∘ f) = fun k => k.vr == v := by
    funext k
    simp [hf]
  simp only [State.rank?, List.find?_map, hpred]

theorem State.strand?_congr {s t : State} (h : ∀ v, (t.rank? v).map Rank.gangs = (s.rank? v).map Rank.gangs) (r : SRef) :
    t.strand? r = s.strand? r := by
  have hgang : ∀ u : State, u.gang? r.vr r.gang = ((u.rank? r.vr).map Rank.gangs).bind fun l => l.find? fun x => x.id == r.gang := by
    intro u
    rw [Option.bind_map]
    rfl
  simp only [State.strand?, State.core?, hgang, h]

theorem State.strand?_mapRanks (s : State) (r : SRef) (f : Rank → Rank) (hvr : ∀ k, (f k).vr = k.vr := by intro _; rfl)
    (hgangs : ∀ k, (f k).gangs = k.gangs := by intro _; rfl) : ({ s with ranks := s.ranks.map f } : State).strand? r = s.strand? r := by
  refine State.strand?_congr (fun v => ?_) r
  rw [State.rank?_mapRanks s v f hvr, Option.map_map]
  congr 1
  funext k
  exact hgangs k

theorem State.strand?_modRank (s : State) (v : Nat) (r : SRef) (f : Rank → Rank) (hvr : ∀ k, (f k).vr = k.vr := by intro _; rfl)
    (hgangs : ∀ k, (f k).gangs = k.gangs := by intro _; rfl) : (s.modRank v f).strand? r = s.strand? r := by
  refine State.strand?_mapRanks s r _ (fun k => ?_) (fun k => ?_)
  · split
    · exact hvr k
    · rfl
  · split
    · exact hgangs k
    · rfl

/-! ### Accesses in flight (07 R162) -/

theorem State.rank?_dropAccess (s : State) (id v : Nat) : (s.dropAccess id).rank? v =
    (s.rank? v).map fun k => { k with accesses := k.accesses.filter fun a => a.id != id } :=
  State.rank?_mapRanks s v _

@[simp] theorem State.strand?_dropAccess (s : State) (id : Nat) (r : SRef) : (s.dropAccess id).strand? r = s.strand? r :=
  State.strand?_mapRanks s r _

theorem State.accesses_dropAccess (s : State) (id : Nat) : ∀ k ∈ (s.dropAccess id).ranks, ∀ b ∈ k.accesses, b.id ≠ id := by
  intro k hk b hb
  obtain ⟨k', -, rfl⟩ := List.mem_map.mp hk
  simpa using (List.mem_filter.mp hb).2

/-- WALw.OUT counts a window write out (04 R105). -/
def Rank.countOut (k : Rank) (w : Nat) : Rank := { k with walOut := k.walOut.setIfInBounds w ((k.walOut[w]?.getD 0) - 1) }

theorem Rank.walOut_countOut (k : Rank) (w : Nat) {i : Nat} (hi : i < 16) :
    (k.countOut w).walOut[i]?.getD 0 = k.walOut[i]?.getD 0 - if i = w then 1 else 0 := by
  simp only [Rank.countOut, Vector.getElem?_setIfInBounds]
  by_cases h : w = i
  · subst h
    simp [hi]
  · simp [h, Ne.symm h]

/-! ### Refusal of an access (12 R307; 13 R334, R336) -/

theorem State.strand?_reframe (s : State) (r q : SRef) : (s.reframe r).strand? q = s.strand? q := by
  unfold State.reframe
  split
  · split
    · exact State.strand?_modRank _ _ q _
    · rfl
  · rfl

@[simp] theorem State.strand?_cmdData (s : State) (id pos : Nat) (bs : List Byte) (used : Nat) (r : SRef) :
    (s.cmdData id pos bs used).strand? r = s.strand? r := rfl

/-- What a refusal does with the access: it leaves the list, a window store is counted out, bytes that a command would have read are
open. -/
def State.withdrawAccess (s : State) (a : Access) : State := match a.dst, a.op with
  | .window w _ _ _, .store _ => (s.dropAccess a.id).modRank a.by'.vr fun k => k.countOut w
  | _, .cmdLoad cmd pos n => (s.dropAccess a.id).cmdData cmd pos ((List.range n).map fun i => Config.freeByte (s.free + i)) n
  | _, _ => s.dropAccess a.id

theorem State.strand?_withdrawAccess (s : State) (a : Access) (r : SRef) : (s.withdrawAccess a).strand? r = s.strand? r := by
  rw [← State.strand?_dropAccess s a.id r]
  unfold State.withdrawAccess
  split
  · exact State.strand?_modRank _ _ r _
  · rfl
  · rfl

/-- The strand of a refused access traps if it holds for the access, else the refusal is recorded for it. -/
theorem State.refuseAccess_eq {s : State} {a : Access} {st : Strand} (h : s.strand? a.by' = some st) (detail : Nat) :
    s.refuseAccess a detail =
      if st.wait = some (.access a.id) then ((s.withdrawAccess a).trapEntry a.by' 0x10 a.va detail 0 0 st.pc).reframe a.by'
      else (s.withdrawAccess a).postRefusal a.by' a.va detail := by
  have hrefuse : s.refuseAccess a detail = match (s.withdrawAccess a).strand? a.by' with
    | none => s.withdrawAccess a
    | some st => if st.wait = some (.access a.id)
        then ((s.withdrawAccess a).trapEntry a.by' 0x10 a.va detail 0 0 st.pc).reframe a.by'
        else (s.withdrawAccess a).postRefusal a.by' a.va detail := rfl
  rw [hrefuse, State.strand?_withdrawAccess, h]

theorem State.refuseAccess_records {s : State} {a : Access} {st : Strand} (h : s.strand? a.by' = some st)
    (hwait : st.wait ≠ some (.access a.id)) (detail : Nat) : (s.refuseAccess a detail).strand? a.by' =
      some { st with asyncs := st.asyncs ++ [{ cause := 0x10, tval := a.va, detail := detail, src := 2, zidx := 0 }] } := by
  rw [State.refuseAccess_eq h, if_neg hwait, State.postRefusal, State.strand?_modStrand, State.strand?_withdrawAccess, h]
  rfl

theorem State.refuseAccess_traps {s : State} {a : Access} {st : Strand} (h : s.strand? a.by' = some st)
    (hwait : st.wait = some (.access a.id)) (hlevel : st.tlevel < 2) (hvec : st.tvec ≠ 0) (detail : Nat) :
    ∃ st', (s.refuseAccess a detail).strand? a.by' = some st' ∧ st'.tlevel = st.tlevel + 1 ∧ st'.pc = st.tvec + 64 * 0x10 ∧
      st'.wait = none := by
  have ht : (s.withdrawAccess a).strand? a.by' = some st := (State.strand?_withdrawAccess s a _).trans h
  rw [State.refuseAccess_eq h, if_pos hwait, State.strand?_reframe, State.trapEntry_eq ht hlevel.ne hvec, State.strand?_modStrand]
  refine ⟨_, congrArg _ ht, ?_, ?_, rfl⟩
  · dsimp only
    split <;> rfl
  · dsimp only
    split <;> rfl

/-! ### The bytes of a load under the engine commands of its core (05 R131, R453) -/

theorem State.pickRaced_state (s : State) (r : SRef) (d : StoreTo) (bs : List Byte) :
    (s.pickRaced r d bs).2 = { s with free := (s.pickRaced r d bs).2.free } := by
  unfold State.pickRaced
  dsimp only
  split <;> rfl

theorem State.pickRaced_length (s : State) (r : SRef) (d : StoreTo) (bs : List Byte) :
    (s.pickRaced r d bs).1.length = bs.length := by
  unfold State.pickRaced
  dsimp only
  split
  · rfl
  · dsimp only
    split <;> simp

theorem State.openRaced_state (s : State) (r : SRef) (d : StoreTo) (bs : List Byte) :
    (s.openRaced r d bs).2 = { s with free := (s.openRaced r d bs).2.free } := by
  unfold State.openRaced
  split
  · rfl
  · simp only [State.openOwn]
    rw [State.pickRaced_state]

theorem State.openRaced_length (s : State) (r : SRef) (d : StoreTo) (bs : List Byte) :
    (s.openRaced r d bs).1.length = bs.length := by
  unfold State.openRaced
  split
  · rfl
  · simp [State.openOwn, State.pickRaced_length]

theorem State.coreCmds_of_noCmds {s : State} {r : SRef} (h : s.NoCmds r) (own : Bool) : s.coreCmds r own = [] := by
  refine List.filter_eq_nil_iff.mpr fun c hc hcond => h c hc ?_
  simp only [Bool.and_eq_true, beq_iff_eq] at hcond
  obtain ⟨⟨⟨hvr, hgang⟩, hcore⟩, -⟩ := hcond
  exact ⟨hvr, hgang, hcore⟩

theorem State.pickRaced_of_noCmds {s : State} {r : SRef} (h : s.NoCmds r) (d : StoreTo) (bs : List Byte) :
    s.pickRaced r d bs = (bs, s) := by
  simp [State.pickRaced, State.coreCmds_of_noCmds h, afterByte]

theorem State.openRaced_of_noCmds {s : State} {r : SRef} (h : s.NoCmds r) (d : StoreTo) (bs : List Byte) :
    (s.openRaced r d bs).1 = bs := by
  unfold State.openRaced
  split
  · rfl
  · simp [State.pickRaced_of_noCmds h, State.openOwn, State.raced, State.coreCmds_of_noCmds h]

theorem Rank.length_overlay (k : Rank) (core : Nat) (d : StoreTo) (bs : List Byte) : (k.overlay core d bs).length = bs.length := by
  simp [Rank.overlay]

/-! ### Answers that name an access in flight (04 R105; 13 R334 to R336; 17 R414) -/

theorem State.takeLoad_window {s : State} {r : Rank} {a : Access} {w vr core off n : Nat} {d : XReg} (hdst : a.dst = .window w vr core off)
    (hop : a.op = .load d n) (bs : List Byte) : s.takeLoad r a bs = s.endAccess a (BitVec.ofNat 64 (leNat bs)) := by
  simp [State.takeLoad, hdst, hop]

section
variable {s : State} {r : Rank} {a : Access} {p x : Nat} (hdst : a.dst = .peer p x) (bs : List Byte)
include hdst

/-- The bytes that a peer load returns, and the state after any choice among them. -/
def State.peerBytes (s : State) (r : Rank) (a : Access) (p x : Nat) (bs : List Byte) : List Byte × State :=
  s.openRaced a.by' (.peer p x) (r.overlay a.by'.core (.peer p x) bs)

omit hdst in
theorem State.length_peerBytes : (s.peerBytes r a p x bs).1.length = bs.length := by
  simp [State.peerBytes, State.openRaced_length, Rank.length_overlay]

theorem State.takeLoad_peer_load {d : XReg} {n : Nat} (hop : a.op = .load d n) : s.takeLoad r a bs =
    (s.peerBytes r a p x bs).2.endAccess a (BitVec.ofNat 64 (leNat (s.peerBytes r a p x bs).1)) := by
  simp [State.takeLoad, State.peerBytes, hdst, hop]

theorem State.takeLoad_peer_fxrd {d : XReg} {g : BitVec 9} (hop : a.op = .fxrd d g) : s.takeLoad r a bs =
    (s.peerBytes r a p x bs).2.endAccess a ((fxReadCell (BitVec.ofNat 128 (leNat bs)) g.toInt).setWidth 64) := by
  simp [State.takeLoad, State.peerBytes, hdst, hop]

theorem State.takeLoad_peer_cmdLoad {id pos n : Nat} (hop : a.op = .cmdLoad id pos n) : s.takeLoad r a bs =
    ((s.peerBytes r a p x bs).2.dropAccess a.id).cmdData id pos ((bs ++ List.replicate n 0).take n) 0 := by
  simp [State.takeLoad, State.peerBytes, hdst, hop]
end

section
variable {s : State} {q : DHdr} (hown : q.dpkg = s.ownPkg)
include hown

section
variable {r : Rank} {a : Access} (hacc : s.accessOf q.seq = some (r, a))
include hacc

theorem exec_loadData_access (bs : List Byte) : exec (.loadData q bs) s = .next (s.takeLoad r a bs) := by
  rw [exec_loadData, execLoadData, State.mine_own hown, hacc]

theorem exec_atomicResult_access (v : Word) : exec (.atomicResult q v) s = .next (s.endAccess a v) := by
  rw [exec_atomicResult, execAtomicResult, State.mine_own hown, hacc]

theorem exec_refusal_access (n : Nat) : exec (.refusal q n) s = .next (s.refuseAccess a n) := by
  rw [exec_refusal, execRefusal, State.mine_own hown, hacc]

theorem exec_keepWaitingNotice_access : exec (.keepWaitingNotice q) s = .next (s.modAccess a.id fun a =>
    { a with slots := 0, resend := if q.svr = 1 then some 65536 else a.resend }) := by
  rw [exec_keepWaitingNotice, execKeepWaitingNotice, State.mine_own hown, hacc]

theorem exec_writeAcknowledgement_window {w vr core off : Nat} (hdst : a.dst = .window w vr core off) :
    exec (.writeAcknowledgement q) s = .next ((s.dropAccess a.id).modRank a.by'.vr fun k => k.countOut w) := by
  rw [exec_writeAcknowledgement, execWriteAcknowledgement, State.mine_own hown, hacc]
  simp only [hdst]
  rfl

theorem exec_writeAcknowledgement_other (hdst : ∀ w vr core off, a.dst ≠ .window w vr core off) :
    exec (.writeAcknowledgement q) s = .next (s.dropAccess a.id) := by
  rw [exec_writeAcknowledgement, execWriteAcknowledgement, State.mine_own hown, hacc]
  cases h : a.dst with
  | window w vr core off => exact absurd h (hdst w vr core off)
  | phys _ => simp only [h]
  | host _ => simp only [h]
  | peer _ _ => simp only [h]
end

/-! ### Answers that name none -/

variable (hacc : s.accessOf q.seq = none)
include hacc

theorem exec_atomicResult_none (v : Word) : exec (.atomicResult q v) s = .next s := by
  rw [exec_atomicResult, execAtomicResult, State.mine_own hown, hacc]

theorem exec_refusal_none (n : Nat) : exec (.refusal q n) s = .next s := by
  rw [exec_refusal, execRefusal, State.mine_own hown, hacc]

theorem exec_keepWaitingNotice_none : exec (.keepWaitingNotice q) s = .next s := by
  rw [exec_keepWaitingNotice, execKeepWaitingNotice, State.mine_own hown, hacc]

theorem exec_writeAcknowledgement_none : exec (.writeAcknowledgement q) s = .next (s.pubAck q.seq) := by
  rw [exec_writeAcknowledgement, execWriteAcknowledgement, State.mine_own hown, hacc]

theorem exec_loadData_none (h : s.gatherCmd? q.seq = none) (bs : List Byte) : exec (.loadData q bs) s = .next s := by
  rw [exec_loadData, execLoadData, State.mine_own hown, hacc, h]

theorem exec_loadData_gather {c : Cmd} (h : s.gatherCmd? q.seq = some c) (bs : List Byte) : exec (.loadData q bs) s =
    .next (if s.cmdLive c then s.finishGather c bs else { s with net := s.net ++ [.loadData q bs] }) := by
  rw [exec_loadData, execLoadData, State.mine_own hown, hacc, h]
end

/-! ### Published changes acknowledged (15 R376, 16 R398) -/

theorem State.notify_pubs (s : State) (n : BitVec 1024) : (s.notify n).pubs = s.pubs := by
  unfold State.notify
  split <;> rfl

theorem State.flushGran_pubs (n : Nat) (s : State) : (s.flushGran n).pubs = s.pubs := by
  induction n generalizing s with
  | zero => rfl
  | succ n ih =>
    unfold State.flushGran
    split
    · split
      · rw [ih, State.granNotice, State.notify_pubs]
        rfl
      · rfl
    · rfl

theorem State.endGran_pubs (s : State) (p : GranCmd → Bool) (status : Nat) : (s.endGran p status).pubs = s.pubs := by
  rw [State.endGran, State.flushGran_pubs]
  rfl

/-- A change that is still published awaits packages, none of them by the number acknowledged. -/
theorem State.pubAck_pubs (s : State) (seq : Nat) :
    ∀ p ∈ (s.pubAck seq).pubs, p.awaiting ≠ [] ∧ ∀ i ∈ p.awaiting, i % 2 ^ 32 ≠ seq := by
  intro p hp
  unfold State.pubAck at hp
  dsimp only at hp
  rw [foldl_keeps State.pubs] at hp
  rotate_left
  · intro u x
    split
    · exact State.endGran_pubs _ _ _
    · rfl
  obtain ⟨hmem, hleft⟩ := List.mem_filter.mp hp
  obtain ⟨p', -, rfl⟩ := List.mem_map.mp hmem
  refine ⟨by simpa using hleft, fun i hi => by simpa using (List.mem_filter.mp hi).2⟩

end Sys2Proof.Machine

/-! ### A window write counted out (04 R105) -/

namespace Sys2Proof.Machine

theorem State.accesses_countOut (s : State) (a : Access) (w : Nat) :
    ∀ k ∈ ((s.dropAccess a.id).modRank a.by'.vr fun k => k.countOut w).ranks, ∀ b ∈ k.accesses, b.id ≠ a.id := by
  intro k hk b hb
  obtain ⟨k', hk', rfl⟩ := List.mem_map.mp hk
  refine State.accesses_dropAccess s a.id k' hk' b ?_
  split at hb
  · exact hb
  · exact hb

theorem State.rank?_countOut {s : State} {v : Nat} {k : Rank} (hk : s.rank? v = some k) (id w : Nat) :
    ((s.dropAccess id).modRank v fun k => k.countOut w).rank? v =
      some ({ k with accesses := k.accesses.filter fun a => a.id != id }.countOut w) := by
  rw [State.rank?_modRank _ _ _ _ (by intro _; rfl), State.rank?_dropAccess, hk]
  simp

/-! ### A gather command ends with its answer (16 R396) -/

theorem State.cmd?_congr {s t : State} (h : t.cmds = s.cmds) (id : Nat) : t.cmd? id = s.cmd? id := by
  simp [State.cmd?, h]

theorem State.cmd?_modCmd (s : State) (id j : Nat) (f : Cmd → Cmd) (hf : ∀ c, (f c).id = c.id := by intro _; rfl) :
    (s.modCmd id f).cmd? j = (s.cmd? j).map fun c => if j = id then f c else c :=
  find?_map_key s.cmds Cmd.id id j f hf

theorem State.openSpoiled_cmds (s : State) (c : Cmd) (ws : List EByte) : (s.openSpoiled c ws).2.cmds = s.cmds := by
  unfold State.openSpoiled
  split <;> rfl

theorem State.cmdAccess_cmds (s : State) (c : Cmd) (op : AccOp) (pkg addr order : Nat) :
    (s.cmdAccess c op pkg addr order).cmds = s.cmds := rfl

theorem State.putOwnWrites_cmds (s : State) (c : Cmd) (ws : List EByte) : (s.putOwnWrites c ws).cmds = s.cmds := by
  unfold State.putOwnWrites
  split <;> rfl

theorem State.retireCmd_cmds (s : State) (c : Cmd) (ws : List EByte) :
    (s.retireCmd c ws).cmds = s.cmds.filter fun x => x.id != c.id := by
  unfold State.retireCmd
  dsimp only
  split
  · exact State.putOwnWrites_cmds _ c ws
  · exact State.putOwnWrites_cmds _ c ws

theorem State.cmd?_retireCmd (s : State) (c : Cmd) (ws : List EByte) : (s.retireCmd c ws).cmd? c.id = none := by
  rw [State.cmd?, State.retireCmd_cmds]
  simp

/-- A command whose writes are known is gone, or it ends once its writes at other packages have performed (10 R270). -/
theorem State.cmd?_endCmd {s : State} {c : Cmd} (hc : c ∈ s.cmds) (ws : List EByte) :
    (s.endCmd c ws).cmd? c.id = none ∨ ∃ c', (s.endCmd c ws).cmd? c.id = some c' ∧ c'.ending = true := by
  unfold State.endCmd
  dsimp only
  split
  · exact .inl (State.cmd?_retireCmd _ c _)
  · refine .inr ?_
    have hcmds : ∀ l : List (Nat × Nat × List Byte), (l.foldl (fun (s : State) q =>
        s.cmdAccess c (.cmdStore c.id q.2.2) q.1 q.2.1 (peerOrder c.order 1)) (s.openSpoiled c ws).2).cmds = s.cmds :=
      fun l => (foldl_keeps State.cmds (by intro _ _; rfl) l _).trans (State.openSpoiled_cmds s c ws)
    obtain ⟨c0, hc0⟩ : ∃ c0, s.cmd? c.id = some c0 := by
      rw [← Option.isSome_iff_exists, State.cmd?, List.find?_isSome]
      exact ⟨c, hc, by simp⟩
    refine ⟨{ c0 with wrote := (s.openSpoiled c ws).1, ending := true }, (State.cmd?_modCmd _ _ _ _).trans ?_, rfl⟩
    rw [State.cmd?_congr (hcmds _), hc0, Option.map_some, if_pos rfl]

theorem State.gatherCmd?_spec {s : State} {seq : Nat} {c : Cmd} (h : s.gatherCmd? seq = some c) :
    c ∈ s.cmds ∧ ∃ g dst dstr scales status sent, c.body = .gran g dst dstr scales status sent := by
  refine ⟨List.mem_of_find?_eq_some h, ?_⟩
  have hbody := List.find?_some h
  cases hc : c.body with
  | gran g dst dstr scales status sent => exact ⟨_, _, _, _, _, _, rfl⟩
  | copy => simp [hc] at hbody
  | coll => simp [hc] at hbody
  | migr => simp [hc] at hbody

section
variable {s : State} {c : Cmd} {g : GatherMsg} {dst scales status : Space} {dstr : Int} {sent : Bool} (hending : c.ending = false)
  (hbody : c.body = .gran g dst dstr scales status sent)
include hending hbody

theorem State.finishGather_eq_endCmd (answer : List Byte) : ∃ ws, s.finishGather c answer = s.endCmd c ws := by
  unfold State.finishGather
  rw [hending, hbody]
  exact ⟨_, rfl⟩

/-- A gather that fails writes its status word only. -/
theorem State.finishGather_failed {st : Byte} (hst : st ≠ 0) :
    s.finishGather c [st] = s.endCmd c (runWrites c.by'.core status (leBytes 4 st.toNat)) := by
  unfold State.finishGather
  rw [hending, hbody]
  have hhead : [st].headD 0 ≠ 0 := hst
  exact congrArg (s.endCmd c) (if_neg hhead)
end

theorem peerRuns_of_phys {l : List EByte} (h : ∀ e ∈ l, ∃ a, e.dst = .phys a) : peerRuns l = [] := by
  induction l with
  | nil => rfl
  | cons e t ih =>
    obtain ⟨a, ha⟩ := h e (by simp)
    simp [peerRuns, ha, ih fun e he => h e (by simp [he])]

theorem runWrites_phys (core x : Nat) (bs : List Byte) :
    runWrites core (.glob 0 0 x) bs = bs.zipIdx.map fun p => { dst := .phys (x + p.2), val := p.1 } := by
  simp [runWrites, Space.toStore, StoreTo.plus]

theorem State.rank?_putOwnWrites (s : State) (c : Cmd) (ws : List EByte) (v : Nat) : (s.putOwnWrites c ws).rank? v = s.rank? v := by
  unfold State.putOwnWrites
  split <;> rfl

/-- A command that retires with writes to memory of this package only gives them to the view of its core (05 R453). -/
theorem State.endCmd_of_phys {s : State} {c : Cmd} {k : Rank} {ws : List EByte} (hspoiled : c.spoiled = []) (hne : ws ≠ [])
    (hphys : ∀ e ∈ ws, ∃ a, e.dst = .phys a) (hk : s.rank? c.by'.vr = some k) : (s.endCmd c ws).cmd? c.id = none ∧
      (s.endCmd c ws).rank? c.by'.vr = some { k with engView := k.engView ++
        [{ core := c.by'.core, strand := c.by'.strand, order := c.order, bytes := ws }] } := by
  have hend : s.endCmd c ws = s.retireCmd c ws := by
    simp [State.endCmd, State.openSpoiled, hspoiled, peerRuns_of_phys hphys]
  have hrest : (ws.filter fun w => !ownPad c.by'.core w.dst) = ws := by
    refine List.filter_eq_self.mpr fun e he => ?_
    obtain ⟨a, ha⟩ := hphys e he
    simp [ownPad, ha]
  rw [hend]
  refine ⟨State.cmd?_retireCmd s c ws, ?_⟩
  unfold State.retireCmd
  rw [hrest]
  simp only [List.isEmpty_iff, if_neg hne]
  refine (State.rank?_modRank _ _ _ _ (by intro _; rfl)).trans ?_
  rw [State.rank?_putOwnWrites]
  simp only [if_true]
  exact congrArg _ hk

/-- A gather that fails, its status word in memory of this package: the word joins the view of its core (16 R396). -/
theorem State.finishGather_to_phys {s : State} {c : Cmd} {k : Rank} {g : GatherMsg} {dst scales : Space} {x : Nat} {dstr : Int}
    {sent : Bool} {st : Byte} (hending : c.ending = false) (hbody : c.body = .gran g dst dstr scales (.glob 0 0 x) sent)
    (hspoiled : c.spoiled = []) (hst : st ≠ 0) (hk : s.rank? c.by'.vr = some k) : (s.finishGather c [st]).cmd? c.id = none ∧
      (s.finishGather c [st]).rank? c.by'.vr = some { k with engView := k.engView ++
        [{ core := c.by'.core, strand := c.by'.strand, order := c.order,
           bytes := (leBytes 4 st.toNat).zipIdx.map fun p => { dst := .phys (x + p.2), val := p.1 } }] } := by
  rw [State.finishGather_failed hending hbody hst, runWrites_phys]
  refine State.endCmd_of_phys hspoiled (by simp [leBytes]) (fun e he => ?_) hk
  obtain ⟨p, -, rfl⟩ := List.mem_map.mp he
  exact ⟨_, rfl⟩

/-! ### The message of a remote access, its resend and its time-out (13 R334 to R336) -/

section
variable {s : State} {r : Rank} {a : Access} (hacc : s.access? a.id = some (r, a))
include hacc

theorem exec_faultQueueResend_idle (h : a.resend ≠ some 0) : exec (.faultQueueResend a.id) s = .next s := by
  rw [exec_faultQueueResend, execFaultQueueResend, hacc]
  cases hres : a.resend with
  | none => simp only [hres]
  | some n =>
    cases n with
    | zero => exact absurd hres h
    | succ n => simp only [hres]

theorem exec_remoteTimeout_due (hsent : a.sent = true) (hslots : 262144 ≤ a.slots) (hresend : a.resend = none) :
    exec (.remoteTimeout a.id) s = .next (s.refuseAccess a 0) := by
  rw [exec_remoteTimeout, execRemoteTimeout, hacc]
  simp [hsent, hslots, hresend]

theorem exec_remoteTimeout_idle (h : a.sent = false ∨ a.slots < 262144 ∨ a.resend ≠ none) : exec (.remoteTimeout a.id) s = .next s := by
  rw [exec_remoteTimeout, execRemoteTimeout, hacc]
  have hnot : (a.sent && decide (262144 ≤ a.slots) && a.resend.isNone) = false := by
    rcases h with h | h | h
    · simp [h]
    · simp [h]
    · simp [Option.isSome_iff_ne_none.mpr h]
  simp [hnot]

variable {m : Demand} (hmsg : s.accessMsg a = some m)
include hmsg

theorem exec_faultQueueResend_due (h : a.resend = some 0) : exec (.faultQueueResend a.id) s =
    .next ((s.modAccess a.id fun a => { a with resend := none, slots := 0 }).send m) := by
  rw [exec_faultQueueResend, execFaultQueueResend, hacc]
  simp only [h, hmsg]

/-- An access that has a message is a remote one: it waits behind an earlier atomic, has left already, or leaves now. -/
theorem exec_memoryAccessComplete_remote : exec (.memoryAccessComplete a.id) s = .next (
    if r.behind a ∨ a.sent then s
    else if a.dst.isPeer && s.noPath (demandHdr m) then s.refuseAccess a 0
    else (s.modAccess a.id fun a => { a with sent := true, slots := 0 }).send m) := by
  rw [exec_memoryAccessComplete, execMemoryAccessComplete, hacc]
  by_cases hbehind : r.behind a
  · simp [hbehind]
  cases hdst : a.dst with
  | phys x => simp [State.accessMsg, hdst] at hmsg
  | host x => simp [State.accessMsg, hdst] at hmsg
  | peer pkg x => cases hsent : a.sent <;> simp [hbehind, hdst, hsent, hmsg]
  | window w vr core off => cases hsent : a.sent <;> simp [hbehind, hdst, hsent, hmsg]
end

/-- Settles O48: an answer is looked up among the accesses in flight, then among the gather commands and the published changes; the
access itself says which message it sends, and the wait of its strand how a refusal reaches it. -/
theorem remoteAnswersAtTheSource : Obligations.RemoteAnswersAtTheSource := by
  intro s q
  refine ⟨fun hother bs v n => ?_, fun hown r a hacc => ?_, fun hown hacc v n => ?_, fun r a hacc => ?_⟩
  · rw [exec_loadData, exec_writeAcknowledgement, exec_atomicResult, exec_keepWaitingNotice, exec_refusal, execLoadData,
      execWriteAcknowledgement, execAtomicResult, execKeepWaitingNotice, execRefusal]
    simp only [State.mine_other hother, and_self]
  · refine ⟨fun bs w vr core off d n hdst hop => ?_, fun bs p x hdst => ?_, exec_atomicResult_access hown hacc, ?_,
      exec_refusal_access hown hacc, exec_keepWaitingNotice_access hown hacc⟩
    · rw [exec_loadData_access hown hacc, State.takeLoad_window hdst hop]
    · rw [exec_loadData_access hown hacc]
      refine ⟨(s.peerBytes r a p x bs).2, State.openRaced_state _ _ _ _, fun d n hop => ?_, fun d g hop => ?_, fun id pos n hop => ?_⟩
      · refine ⟨(s.peerBytes r a p x bs).1, congrArg _ (State.takeLoad_peer_load hdst bs hop), State.length_peerBytes bs, fun hno => ?_⟩
        exact State.openRaced_of_noCmds hno _ _
      · rw [State.takeLoad_peer_fxrd hdst bs hop]
      · rw [State.takeLoad_peer_cmdLoad hdst bs hop]
    · cases hdst : a.dst with
      | window w vr core off =>
        refine ⟨_, exec_writeAcknowledgement_window hown hacc hdst, State.accesses_countOut s a w,
          State.sameMemory_of_memories rfl, fun k hk => ⟨_, State.rank?_countOut hk a.id w, fun i hi => ?_⟩⟩
        exact Rank.walOut_countOut _ w hi
      | _ =>
        refine ⟨_, exec_writeAcknowledgement_other hown hacc (by simp [hdst]), State.accesses_dropAccess s a.id,
          State.sameMemory_of_memories rfl, fun k hk => ⟨_, (State.rank?_dropAccess s a.id _).trans (congrArg _ hk), fun i hi => ?_⟩⟩
        simp
  · refine ⟨exec_atomicResult_none hown hacc v, exec_keepWaitingNotice_none hown hacc, exec_refusal_none hown hacc n,
      exec_loadData_none hown hacc, fun c hc => ⟨fun haway bs => ?_, fun hlive hending bs => ?_⟩,
      _, exec_writeAcknowledgement_none hown hacc, State.pubAck_pubs s q.seq⟩
    · rw [exec_loadData_gather hown hacc hc, haway]
      rfl
    · obtain ⟨hmem, g, dst, dstr, scales, status, sent, hbody⟩ := State.gatherCmd?_spec hc
      refine ⟨s.finishGather c bs, ?_, ?_, ?_⟩
      · rw [exec_loadData_gather hown hacc hc, hlive]
        rfl
      · obtain ⟨ws, hws⟩ := State.finishGather_eq_endCmd (s := s) hending hbody bs
        rw [hws]
        exact State.cmd?_endCmd hmem ws
      · intro g' dst' dstr' scales' x sent' k st hbody' hspoiled hst hbs hk
        obtain ⟨hcmd, hview⟩ := State.finishGather_to_phys (s := s) hending hbody' hspoiled hst hk
        rw [hbs]
        exact ⟨hcmd, _, _, hview, rfl, rfl⟩
  · refine ⟨fun m own far hownHdr hfarHdr hasks => ?_, exec_faultQueueResend_idle hacc, exec_remoteTimeout_due hacc,
      exec_remoteTimeout_idle hacc, fun d st hst => ⟨fun hwait => ⟨_, State.refuseAccess_records hst hwait d, rfl⟩,
        fun hwait hlevel hvec => State.refuseAccess_traps hst hwait hlevel hvec d⟩⟩
    have hmsg : s.accessMsg a = some m := by
      subst hownHdr hfarHdr
      rcases hasks with ⟨_, _, _, _, _, _, hdst, hop, rfl⟩ | ⟨_, _, _, _, _, hdst, hop, rfl⟩ | ⟨_, _, _, _, hdst, hop, rfl⟩ |
        ⟨_, _, _, _, hdst, hop, rfl⟩ | ⟨_, _, _, _, _, _, hdst, hop, rfl⟩ | ⟨_, _, _, _, _, _, hdst, hop, rfl⟩ |
        ⟨_, _, _, _, hdst, hop, rfl⟩ | ⟨_, _, _, hdst, hop, rfl⟩ | ⟨_, _, _, _, _, hdst, hop, rfl⟩ | ⟨_, _, _, _, hdst, hop, rfl⟩
      all_goals simp only [State.accessMsg, hdst, hop, AccOp.atomic?, AccOp.bytes]
    refine ⟨fun hsent hbehind hpath => ?_, fun hsent hbehind hpeer hpath => ?_, fun hstays => ?_, exec_faultQueueResend_due hacc hmsg⟩
    · have hleaves : (a.dst.isPeer && s.noPath (demandHdr m)) = false := by
        rcases hpath with h | h <;> simp [h]
      simp [exec_memoryAccessComplete_remote hacc hmsg, hsent, hbehind, hleaves]
    · simp [exec_memoryAccessComplete_remote hacc hmsg, hsent, hbehind, hpeer, hpath]
    · rw [exec_memoryAccessComplete_remote hacc hmsg, if_pos hstays.symm]

end Sys2Proof.Machine

/-! ### The words of the encoding tables (06 R137 to R141, R144) -/

namespace Sys2Proof.Machine

/-- Settles O56, by running the decoder on each word. -/
theorem specWordsDecode : Obligations.SpecWordsDecode := by
  unfold Obligations.SpecWordsDecode
  decide

/-- WRCTL of the control index 0x016, in no row of the table of control registers (02 R66), is a well-formed instruction of the
model: `wrctlPlain` leaves out 0x010 to 0x015 only. -/
theorem wellFormed_wrctl_unlisted : (Instr.wrctl 0 0x016).WellFormed := by
  simp [Instr.WellFormed, wrctlPlain]

/-- The decoder reads its word as a write of loop register 6, which does not exist. -/
theorem decodeMajor_encode_wrctl_unlisted :
    decodeMajor ((encode (.wrctl 0 0x016)).headD 0) ((encode (.wrctl 0 0x016)).getD 1 0) = some (.loopRegisterWrite 0 6) := by
  decide

theorem decodeWord_encode_wrctl_unlisted :
    decodeWord ((encode (.wrctl 0 0x016)).headD 0) ((encode (.wrctl 0 0x016)).getD 1 0) = none := by
  rw [decodeWord, decodeMajor_encode_wrctl_unlisted]
  rfl

/-- Refutes O57: the well-formed WRCTL of 0x016 is not what its encoding decodes to. A `wrctlPlain` that left out 0x016 and 0x017
too, as the decoder's row of the loop registers does, would exclude this. -/
theorem not_decodeEncodeAgree : ¬ Obligations.DecodeEncodeAgree := by
  intro h
  obtain ⟨hdecode, -⟩ := h
  have hback := hdecode (.wrctl 0 0x016) wellFormed_wrctl_unlisted (List.cons_ne_nil _ _) (by simp)
  rw [decodeWord_encode_wrctl_unlisted] at hback
  exact absurd hback (by simp)

/-! ### What a step runs (01 R9, R19; 06 R135) -/

section
variable {s : State} {l : List Turn} {i : Instr} {r : SRef}

theorem step_of_input {l : List Instr} (h : s.inputs = i :: l) : step s = exec i { s with inputs := l } := by
  simp [step, h]

theorem step_of_event (hin : s.inputs = []) (h : s.agenda = .event i :: l) : step s = exec i { s with agenda := l } := by
  simp [step, hin, h]

theorem step_of_idle (hin : s.inputs = []) (h : s.agenda = []) : step s = .next s.tick := by
  simp [step, hin, h]

theorem step_of_pcp (hin : s.inputs = []) (h : s.agenda = .pcp :: l) : step s = .next ({ s with agenda := l } : State).pcpAct := by
  simp [step, hin, h]

theorem step_of_strand (hin : s.inputs = []) (h : s.agenda = .strand r :: l) :
    step s = ({ s with agenda := l } : State).strandTurn r := by
  simp [step, hin, h]

end

section
variable {s : State} {r : SRef} {st : Strand}

theorem State.strandTurn_of_gone (h : s.strand? r = none) : s.strandTurn r = .next s := by
  simp [State.strandTurn, h]

theorem State.strandTurn_of_not_mayIssue (h : s.strand? r = some st) (hno : s.mayIssue r st = false) : s.strandTurn r = .next s := by
  simp [State.strandTurn, h, hno]

theorem State.strandTurn_of_mayIssue (h : s.strand? r = some st) (hmay : s.mayIssue r st = true) :
    s.strandTurn r = ({ s with cur := r, trapped := false } : State).issueAt r st := by
  simp [State.strandTurn, h, hmay]

theorem tvalWord_zero (bits : BitVec 32) : tvalWord 0 bits = bits.setWidth 64 := by
  simp [tvalWord]

theorem State.runWord_legal {w w1 : Nat} {i : Instr} (h : decodeWord w w1 = some i) : s.runWord st w w1 = exec i s := by
  simp [State.runWord, h]

theorem State.runWord_illegal {w w1 : Nat} (h : decodeWord w w1 = none) :
    s.runWord st w w1 = .next (s.trap st 1 ((BitVec.ofNat 32 w).setWidth 64)) := by
  simp [State.runWord, h, tvalWord_zero]

variable {bs : List Byte} {a n : Nat}

section
variable (hc : r.strand = .c)
include hc

theorem State.issueAt_bundle (hf : s.fetch r.vr st.sup st.pc 16 = .ok bs a n) :
    s.issueAt r st = exec (bundleOf bs) (s.fetched a n) := by
  simp [State.issueAt, hc, hf]

theorem State.issueAt_bundle_unfetched {f : Fetch} (hf : s.fetch r.vr st.sup st.pc 16 = f) (hno : ∀ bs a n, f ≠ .ok bs a n) :
    s.issueAt r st = .next (s.fetchFail r st f) := by
  cases f with
  | ok bs a n => exact absurd rfl (hno bs a n)
  | trap => simp [State.issueAt, hc, hf]
  | page => simp [State.issueAt, hc, hf]
end

theorem State.runLong_fetched {w : Nat} (hf : s.fetch r.vr st.sup (st.pc + 4) 4 = .ok bs a n) :
    s.runLong r st w = (s.fetched a n).runWord st w (leNat bs) := by
  simp only [State.runLong, hf]

theorem State.runLong_unfetched {w : Nat} {f : Fetch} (hf : s.fetch r.vr st.sup (st.pc + 4) 4 = f) (hno : ∀ bs a n, f ≠ .ok bs a n) :
    s.runLong r st w = .next (s.fetchFail r st f) := by
  cases f with
  | ok bs a n => exact absurd rfl (hno bs a n)
  | trap => simp only [State.runLong, hf]
  | page => simp only [State.runLong, hf]

section
variable (hc : r.strand ≠ .c)
include hc

/-- A strand of L or S goes on with a first word that it has accepted. -/
theorem State.issueAt_accepted {w : BitVec 32} (hext : st.ext = some w) : s.issueAt r st = s.runLong r st w.toNat := by
  unfold State.issueAt
  split
  · contradiction
  · rw [hext]

variable (hext : st.ext = none)
include hext

theorem State.issueAt_word (hf : s.fetch r.vr st.sup st.pc 4 = .ok bs a n) (hone : leNat bs / 2 ^ 26 ≠ 0x21) :
    s.issueAt r st = (s.fetched a n).runWord st (leNat bs) 0 := by
  unfold State.issueAt
  split
  · contradiction
  · simp only [hext, hf]
    exact if_neg (by simpa [twoWords] using hone)

theorem State.issueAt_firstWord (hf : s.fetch r.vr st.sup st.pc 4 = .ok bs a n) (htwo : leNat bs / 2 ^ 26 = 0x21) :
    s.issueAt r st =
      .next ((s.fetched a n).modStrand r fun (q : Strand) => { q with ext := some (BitVec.ofNat 32 (leNat bs)) }) := by
  unfold State.issueAt
  split
  · contradiction
  · simp only [hext, hf]
    exact if_pos (by simpa [twoWords] using htwo)

theorem State.issueAt_unfetched {f : Fetch} (hf : s.fetch r.vr st.sup st.pc 4 = f) (hno : ∀ bs a n, f ≠ .ok bs a n) :
    s.issueAt r st = .next (s.fetchFail r st f) := by
  unfold State.issueAt
  split
  · contradiction
  · cases f with
    | ok bs a n => exact absurd rfl (hno bs a n)
    | trap => simp only [hext, hf]
    | page => simp only [hext, hf]

end

end

/-- Settles O55: the turn that comes first, and for a strand that may issue what its fetch gives. -/
theorem stepRunsWhatItFinds : Obligations.StepRunsWhatItFinds := by
  intro s
  refine ⟨fun _ _ => step_of_input, fun _ _ => step_of_event, step_of_idle, fun _ => step_of_pcp, fun r l hin hag hgone => ?_,
    fun r l st hin hag hst => ?_⟩
  · rw [step_of_strand hin hag]
    exact State.strandTurn_of_gone hgone
  rw [step_of_strand hin hag]
  refine ⟨State.strandTurn_of_not_mayIssue (s := { s with agenda := l }) hst, fun hmay => ?_⟩
  intro t
  rw [State.strandTurn_of_mayIssue (s := { s with agenda := l }) hst hmay]
  refine ⟨fun hc hext bs a n hf => ?_, fun hc hext f => State.issueAt_unfetched hc hext, fun hc w hext => ?_,
    fun hc bs a n => State.issueAt_bundle hc, fun hc f => State.issueAt_bundle_unfetched hc⟩
  · refine ⟨fun hone i hi => ?_, fun hone hbad => ?_, State.issueAt_firstWord hc hext hf⟩
    · rw [State.issueAt_word hc hext hf hone, State.runWord_legal hi]
    · rw [State.issueAt_word hc hext hf hone, State.runWord_illegal hbad]
  · rw [State.issueAt_accepted hc hext]
    refine ⟨fun bs a n hf => ?_, fun f => State.runLong_unfetched⟩
    rw [State.runLong_fetched hf]
    refine ⟨fun i => State.runWord_legal, fun hbad => ?_⟩
    rw [State.runWord_illegal hbad, BitVec.ofNat_toNat, BitVec.setWidth_eq]

/-! ### SYS instructions at rank privilege (06 R143, R154; 12 R289, R295) -/

section
variable {s : State} {st : Strand} (hst : s.strand? s.cur = some st)
include hst

/-- The check of a SYS instruction at rank privilege, whatever its meaning. -/
theorem State.asSup_of_rank (hrank : st.sup = false) (i : Instr) (f : Strand → State) :
    s.asSup i f = .next (s.trap st 2 (s.wordVal i)) := by
  rw [State.asSup, State.acting_eq hst]
  simp [hrank, State.priv]

theorem State.asSysReg_of_unlisted {n : Nat} (h : sysListed n = false) (i : Instr) (f : Strand → State) :
    s.asSysReg i n f = .next (s.trap st 1 (s.wordVal i)) := by
  simp [State.asSysReg, h, State.acting_eq hst, State.illop]

theorem State.asSysReg_of_rank {n : Nat} (h : sysListed n = true) (hrank : st.sup = false) (i : Instr) (f : Strand → State) :
    s.asSysReg i n f = .next (s.trap st 2 (s.wordVal i)) := by
  simp [State.asSysReg, h, State.asSup_of_rank hst hrank]

end

theorem sysListed_iff (n : Nat) : sysListed n = true ↔ n ≤ 3 ∨ (8 ≤ n ∧ n ≤ 10) ∨ (0x10 ≤ n ∧ n ≤ 0x12) ∨ n = 0x20 ∨
    (0x41 ≤ n ∧ n ≤ 0x47) ∨ (0x50 ≤ n ∧ n ≤ 0x5F) := by
  simp [sysListed, or_assoc]

/-- Settles O29: RDSYS and WRSYS check their index first; every other SYS instruction checks the privilege before anything else. -/
theorem supervisorOnlyInstructions : Obligations.SupervisorOnlyInstructions := by
  intro s st d a i n b hst listed
  have hlisted : sysListed i.toNat = true ↔ listed := sysListed_iff i.toNat
  simp only [List.forall_mem_cons, List.not_mem_nil, false_implies, implies_true, and_true]
  refine ⟨fun hno => ?_, fun hrank hyes => ?_, fun hrank => ?_⟩
  · have hbad : sysListed i.toNat = false := by simpa [← hlisted] using hno
    exact ⟨State.asSysReg_of_unlisted hst hbad _ _, State.asSysReg_of_unlisted hst hbad _ _⟩
  · have hok := hlisted.mpr hyes
    exact ⟨State.asSysReg_of_rank hst hok hrank _ _, State.asSysReg_of_rank hst hok hrank _ _⟩
  · and_intros <;> exact State.asSup_of_rank hst hrank _ _

end Sys2Proof.Machine

/-! ### A bundle while C waits

Where X is empty, a bundle that issues leaves the wait of C as it was, and the pc of a C that waits does not move (06 R150, R154). No
turn gives a bundle to a C that waits, since it may not issue then; a statement about cores whose C does not wait would exclude
this. -/

namespace Sys2Proof.Machine.WaitingBundle

/-- A core at the start of its gang, its SHAPE one element of 4 bytes, whose C waits for the boundary of the phase. -/
def waitingCore : Core :=
  let core := Core.start firstLaunch 0 0
  { core with shape := 0x20101, c := { core.c with wait := some .phase } }

/-- A resident rank that runs it, C's turn. -/
def waitingState : State :=
  { State.reset with ranks := [{ firstRank with gangs := [{ firstGang with cores := [waitingCore] }] }], cur := refOf 0 1 0 .c }

/-- TFILL.I32 of 0 to t0 in V alone, unconditional, DELAY 0. -/
def fillBundle : Instr := .bundleIssue (BitVec.ofNat 32 (0 * 2 ^ 26 + 0x1FFFFF)) 0 (BitVec.ofNat 32 (0x32 * 2 ^ 25 + 0 * 2 ^ 18 + 0 * 2 ^ 4 + 2)) 0

/-- The pc of the acting core's C in the next state, where there is one. -/
def nextPc (r : SRef) (o : Host.Outcome State Fault Refusal) : Option Word :=
  match o with
  | .next t => (t.core? r).map fun k => k.c.pc
  | _ => none

theorem waitingState_core? : waitingState.core? waitingState.cur = some waitingCore := by decide +kernel

/-- The bundle issues and the pc stays. -/
theorem fillBundle_keeps_pc : nextPc waitingState.cur (exec fillBundle waitingState) = some waitingCore.c.pc := by decide +kernel

theorem pc_of_nextPc {r : SRef} {o : Host.Outcome State Fault Refusal} {t : State} {k : Core} {pc : Word} (h : nextPc r o = some pc)
    (ho : o = .next t) (hk : t.core? r = some k) : k.c.pc = pc := by
  subst ho
  simpa [nextPc, hk] using h

end Sys2Proof.Machine.WaitingBundle

namespace Sys2Proof.Machine
open WaitingBundle

/-- Refutes O39: a TFILL.I32 in V alone need not advance the pc by 16. In `waitingState` C waits, and the bundle issues with the pc
where it was. -/
theorem not_bundleIssueAndLanding : ¬ Obligations.BundleIssueAndLanding := by
  intro h
  obtain ⟨hbundle, -⟩ := h
  obtain ⟨-, hready⟩ := hbundle waitingState waitingCore 0 0 0 0 rfl waitingState_core? (by decide) rfl rfl rfl
  obtain ⟨-, -, -, -, -, hfill, -⟩ := hready (by decide)
  obtain ⟨t, k, p, tile, hexec, hcore, -, -, -, -, -, -, hpc, -⟩ := hfill 0 0 (by decide) (by decide) (by decide +kernel) rfl (by decide)
  have hstays := pc_of_nextPc fillBundle_keeps_pc hexec hcore
  rw [hstays] at hpc
  exact absurd hpc (by decide +kernel)

end Sys2Proof.Machine

/-! ### Integer arithmetic: the model's operations are the exact values modulo 2^n (07 R163, R164) -/

namespace Sys2Proof.Machine

section
variable {s : State} {st : Strand} (hs : s.strand? s.cur = some st)
include hs

theorem State.writeReg_eq (d : XReg) (v : Strand → Word) : s.writeReg d v = .next (s.retire (st.wx d (v st))) :=
  State.acting_eq hs _

theorem State.writePred_eq (p : PReg) (v : Strand → Bool) : s.writePred p v = .next (s.retire (st.wp p (v st))) :=
  State.acting_eq hs _

end

/-- The operation on n bits that the instruction runs. -/
def Alu2.op (k : Alu2) (n : Nat) (x y : BitVec n) : BitVec n :=
  match k with
  | .add => x + y
  | .sub => x - y
  | .and => x &&& y
  | .or => x ||| y
  | .xor => x ^^^ y
  | .andn => x &&& ~~~y
  | .shl => x <<< shiftAmount y
  | .shr => x >>> shiftAmount y
  | .sar => x.sshiftRight (shiftAmount y)
  | .rot => x.rotateLeft (shiftAmount y)
  | .mul => x * y
  | .mulh => mulHighSigned x y
  | .mulhu => mulHighUnsigned x y
  | .min => if x.slt y then x else y
  | .max => if x.slt y then y else x
  | .minu => if x.ult y then x else y
  | .maxu => if x.ult y then y else x
  | .adds => clampSigned n (x.toInt + y.toInt)
  | .subs => clampSigned n (x.toInt - y.toInt)

theorem Alu2.exec_instr (k : Alu2) (d a b : XReg) (w : Bool) (s : State) : exec (k.instr d a b w) s = s.aluOp d a b w k.op := by
  cases k <;> rfl

theorem ofInt_natCast_toNat {n : Nat} (z : BitVec n) {m : Nat} (h : z.toNat = m % 2 ^ n) : z = BitVec.ofInt n (m : Int) := by
  rw [BitVec.ofInt_natCast]
  exact BitVec.eq_of_toNat_eq (by simpa using h)

section
variable {n : Nat} (x y : BitVec n)

theorem toNat_rotateLeft_of_lt {a : Nat} (h : a < n) :
    (x.rotateLeft a).toNat = (x.toNat * 2 ^ a + x.toNat / 2 ^ (n - a)) % 2 ^ n := by
  have hsplit : 2 ^ n = 2 ^ (n - a) * 2 ^ a := by rw [← Nat.pow_add, Nat.sub_add_cancel h.le]
  have hhigh : x.toNat / 2 ^ (n - a) < 2 ^ a := by
    rw [Nat.div_lt_iff_lt_mul (Nat.two_pow_pos _), Nat.mul_comm, ← hsplit]
    exact x.isLt
  have hlow : x.toNat * 2 ^ a % 2 ^ n = 2 ^ a * (x.toNat % 2 ^ (n - a)) := by
    rw [hsplit, Nat.mul_mod_mul_right, Nat.mul_comm]
  have hsum : 2 ^ a * (x.toNat % 2 ^ (n - a)) + x.toNat / 2 ^ (n - a) < 2 ^ n := by
    have hrem : x.toNat % 2 ^ (n - a) + 1 ≤ 2 ^ (n - a) := Nat.mod_lt _ (Nat.two_pow_pos _)
    calc 2 ^ a * (x.toNat % 2 ^ (n - a)) + x.toNat / 2 ^ (n - a)
        < 2 ^ a * (x.toNat % 2 ^ (n - a) + 1) := by rw [Nat.mul_add_one]; omega
      _ ≤ 2 ^ a * 2 ^ (n - a) := Nat.mul_le_mul_left _ hrem
      _ = 2 ^ n := by rw [hsplit, Nat.mul_comm]
  rw [BitVec.toNat_rotateLeft, Nat.mod_eq_of_lt h, Nat.shiftLeft_eq, Nat.shiftRight_eq_div_pow, hlow,
    ← Nat.two_pow_add_eq_or_of_lt hhigh, Nat.add_mod, hlow, Nat.mod_eq_of_lt (hhigh.trans (Nat.pow_lt_pow_right (by omega) h)),
    Nat.mod_eq_of_lt hsum]

theorem clampSigned_eq (v : Int) :
    clampSigned n v = BitVec.ofInt n (Max.max (-2 ^ (n - 1)) (Min.min (2 ^ (n - 1) - 1) v)) := by
  have hpos : (0 : Int) < 2 ^ (n - 1) := by positivity
  unfold clampSigned
  congr 1
  push_cast
  generalize (2 : Int) ^ (n - 1) = c at hpos
  split <;> [skip; split] <;> omega

/-- Of two values that are equal where neither is below the other, a test for below picks as a test for at most does. -/
theorem ite_slt_eq (u v : BitVec n) (h : x = y → u = v) : (if x.slt y then u else v) = if x.toInt ≤ y.toInt then u else v := by
  rcases Int.lt_trichotomy x.toInt y.toInt with hlt | heq | hgt
  · rw [if_pos (BitVec.slt_iff_toInt_lt.mpr hlt), if_pos hlt.le]
  · rw [h (BitVec.toInt_inj.mp heq), ite_self, ite_self]
  · rw [if_neg (by simpa [BitVec.slt_iff_toInt_lt] using hgt.le), if_neg (by omega)]

theorem ite_ult_eq (u v : BitVec n) (h : x = y → u = v) : (if x.ult y then u else v) = if x.toNat ≤ y.toNat then u else v := by
  rcases Nat.lt_trichotomy x.toNat y.toNat with hlt | heq | hgt
  · rw [if_pos (BitVec.ult_iff_lt.mpr hlt), if_pos hlt.le]
  · rw [h (BitVec.eq_of_toNat_eq heq), ite_self, ite_self]
  · rw [if_neg (by simpa [BitVec.ult_eq_decide] using hgt.le), if_neg (by omega)]

/-- The value that an operation forms is the exact one modulo 2^n. -/
theorem Alu2.op_eq_exact (k : Alu2) (hn : 0 < n) : k.op n x y = BitVec.ofInt n (k.exact n x y) := by
  have hamount : shiftAmount y < n := Nat.mod_lt _ hn
  cases k with
  | add => simp [Alu2.op, Alu2.exact, BitVec.ofInt_add]
  | sub => simp [Alu2.op, Alu2.exact, Int.sub_eq_add_neg, BitVec.ofInt_add, BitVec.ofInt_neg, BitVec.sub_eq_add_neg]
  | mul => simp [Alu2.op, Alu2.exact, BitVec.ofInt_mul]
  | and => exact ofInt_natCast_toNat _ (by simp [Alu2.op, ← BitVec.toNat_and])
  | or => exact ofInt_natCast_toNat _ (by simp [Alu2.op, ← BitVec.toNat_or])
  | xor => exact ofInt_natCast_toNat _ (by simp [Alu2.op, ← BitVec.toNat_xor])
  | andn => exact ofInt_natCast_toNat _ (by rw [← BitVec.toNat_not, ← BitVec.toNat_and, BitVec.toNat_mod_cancel]; rfl)
  | shl => exact ofInt_natCast_toNat _ (by simp [Alu2.op, shiftAmount, Nat.shiftLeft_eq])
  | shr =>
    refine ofInt_natCast_toNat _ ?_
    rw [Nat.mod_eq_of_lt ((Nat.div_le_self _ _).trans_lt x.isLt), ← Nat.shiftRight_eq_div_pow]
    exact BitVec.toNat_ushiftRight x _
  | sar =>
    have hvalue : (x.sshiftRight (shiftAmount y)).toInt = x.toInt / 2 ^ (y.toNat % n) := by
      simp [BitVec.toInt_sshiftRight, Int.shiftRight_eq_div_pow, shiftAmount]
    simp only [Alu2.op, Alu2.exact, ← hvalue, BitVec.ofInt_toInt]
  | rot => exact ofInt_natCast_toNat _ (toNat_rotateLeft_of_lt x hamount)
  | mulh => simp [Alu2.op, Alu2.exact, mulHighSigned]
  | mulhu => exact ofInt_natCast_toNat _ (by simp [Alu2.op, mulHighUnsigned])
  | min => simp [Alu2.op, Alu2.exact, ite_slt_eq, apply_ite (BitVec.ofInt n)]
  | max => simp [Alu2.op, Alu2.exact, ite_slt_eq x y y x Eq.symm, apply_ite (BitVec.ofInt n)]
  | minu => simp [Alu2.op, Alu2.exact, ite_ult_eq, apply_ite (BitVec.ofInt n)]
  | maxu => simp [Alu2.op, Alu2.exact, ite_ult_eq x y y x Eq.symm, apply_ite (BitVec.ofInt n)]
  | adds => exact clampSigned_eq _
  | subs => exact clampSigned_eq _

end

/-- An operation that is the exact one modulo 2^n at both widths gives the exact result. -/
theorem atWidth_eq_resultAt {f : (n : Nat) → BitVec n → BitVec n → BitVec n} {g : (n : Nat) → BitVec n → BitVec n → Int}
    (h : ∀ (n : Nat) (x y : BitVec n), 0 < n → f n x y = BitVec.ofInt n (g n x y)) (w : Bool) (x y : Word) :
    atWidth w f x y = resultAt w g x y := by
  cases w
  · exact h 64 x y (by decide)
  · exact congrArg (BitVec.signExtend 64) (h 32 _ _ (by decide))

theorem Alu2.atWidth_op (k : Alu2) (w : Bool) (x y : Word) : atWidth w k.op x y = resultAt w k.exact x y :=
  atWidth_eq_resultAt (fun _ x y => k.op_eq_exact x y) w x y

/-- Settles O1: the operation that the instruction runs is the exact one at both widths. -/
theorem aluResultIsExact : Obligations.AluResultIsExact := by
  refine ⟨fun k d a b w s st hs => ?_, fun st d k v => ?_⟩
  · rw [Alu2.exec_instr, State.aluOp, State.writeReg_eq hs, Alu2.atWidth_op]
  · by_cases hk : k = 0
    · rw [if_pos hk, hk, Strand.rx_zero]
    · by_cases hd : d = 0
      · rw [hd, Strand.wx_zero, if_neg hk, if_neg hk]
      · rw [if_neg hk, Strand.rx_wx st d k v hd]

/-! ### Division (07 R164) -/

/-- The division of n bits that the instruction runs. -/
def Div4.op (k : Div4) (n : Nat) (x y : BitVec n) : BitVec n :=
  match k with
  | .div => divSigned x y
  | .divu => divUnsigned x y
  | .rem => remSigned x y
  | .remu => remUnsigned x y

theorem Div4.exec_instr (k : Div4) (d a b : XReg) (w : Bool) (s : State) : exec (k.instr d a b w) s = s.divOp d a b w k.op := by
  cases k <;> rfl

section
variable {n : Nat} (x y : BitVec n)

theorem sdiv_eq_ofInt : x.sdiv y = BitVec.ofInt n (x.toInt.tdiv y.toInt) :=
  BitVec.eq_of_toInt_eq (by rw [BitVec.toInt_sdiv, BitVec.toInt_ofInt])

theorem srem_eq_ofInt : x.srem y = BitVec.ofInt n (x.toInt.tmod y.toInt) := by
  rw [← BitVec.toInt_srem, BitVec.ofInt_toInt]

theorem udiv_eq_ofInt : x.udiv y = BitVec.ofInt n ((x.toNat / y.toNat : Nat) : Int) := by
  rw [BitVec.ofInt_natCast, ← BitVec.toNat_udiv, BitVec.ofNat_toNat, BitVec.setWidth_eq]
  rfl

theorem umod_eq_ofInt : x.umod y = BitVec.ofInt n ((x.toNat % y.toNat : Nat) : Int) := by
  rw [BitVec.ofInt_natCast, ← BitVec.toNat_umod, BitVec.ofNat_toNat, BitVec.setWidth_eq]
  rfl

/-- A quotient or a remainder is the exact one modulo 2^n, the case of divisor 0 included. -/
theorem Div4.op_eq_exact (k : Div4) : k.op n x y = BitVec.ofInt n (k.exact n x y) := by
  by_cases hy : y = 0
  · cases k <;> simp [Div4.op, Div4.exact, divSigned, divUnsigned, remSigned, remUnsigned, hy, BitVec.ofInt_neg,
      BitVec.neg_one_eq_allOnes]
  · cases k with
    | div => simp only [Div4.op, Div4.exact, divSigned, hy, if_false, sdiv_eq_ofInt]
    | divu => simp only [Div4.op, Div4.exact, divUnsigned, hy, if_false, udiv_eq_ofInt]
    | rem => simp only [Div4.op, Div4.exact, remSigned, hy, if_false, srem_eq_ofInt]
    | remu => simp only [Div4.op, Div4.exact, remUnsigned, hy, if_false, umod_eq_ofInt]

end

theorem Div4.atWidth_op (k : Div4) (w : Bool) (x y : Word) : atWidth w k.op x y = resultAt w k.exact x y :=
  atWidth_eq_resultAt (fun _ x y _ => k.op_eq_exact x y) w x y

theorem divisorZero_iff (w : Bool) (y : Word) :
    (if w then y.setWidth 32 == (0 : BitVec 32) else y == 0) = true ↔ divisorZero w y := by
  cases w <;> simp [divisorZero]

section
variable {s : State} {st : Strand} (hs : s.strand? s.cur = some st) {b : XReg} {w : Bool}
include hs

theorem State.divOp_of_zero (hdzt : st.dzt = true) (hzero : divisorZero w (st.rx b)) (d a : XReg)
    (f : (n : Nat) → BitVec n → BitVec n → BitVec n) : s.divOp d a b w f = .next (s.trap st 4 0) := by
  rw [State.divOp, State.acting_eq hs, if_pos]
  rw [hdzt, Bool.true_and, divisorZero_iff]
  exact hzero

theorem State.divOp_of_defined (h : st.dzt = false ∨ ¬ divisorZero w (st.rx b)) (d a : XReg)
    (f : (n : Nat) → BitVec n → BitVec n → BitVec n) :
    s.divOp d a b w f = .next (s.retire (st.wx d (atWidth w f (st.rx a) (st.rx b)))) := by
  rw [State.divOp, State.acting_eq hs, if_neg]
  rw [Bool.and_eq_true, divisorZero_iff]
  rintro ⟨hdzt, hzero⟩
  exact h.elim (by simp [hdzt]) (· hzero)

end

/-- The signed overflow: the least number divided by -1 (07 R164). -/
theorem Div4.exact_overflow {n : Nat} {x y : BitVec n} (hx : x.toInt = -(2 : Int) ^ (n - 1)) (hy : y = BitVec.allOnes n) (hn : 1 < n) :
    BitVec.ofInt n (Div4.div.exact n x y) = x ∧ BitVec.ofInt n (Div4.rem.exact n x y) = 0 := by
  have hdivisor : y.toInt = -1 := by rw [hy, BitVec.toInt_allOnes, if_pos (by omega)]
  have hne : y ≠ 0 := by
    rintro rfl
    simp at hdivisor
  have hleast : x = BitVec.intMin n := BitVec.eq_of_toInt_eq (by rw [hx, BitVec.toInt_intMin_of_pos (by omega)])
  constructor
  · rw [Div4.exact, if_neg hne, hdivisor, Int.tdiv_neg, Int.tdiv_one, BitVec.ofInt_neg, BitVec.ofInt_toInt, hleast,
      BitVec.neg_intMin]
  · rw [Div4.exact, if_neg hne, hdivisor, Int.tmod_neg, Int.tmod_one]
    rfl

/-- Settles O2: a division traps exactly for a divisor of 0 with DZT set, and else gives the exact result. -/
theorem divisionResultsAndTrap : Obligations.DivisionResultsAndTrap := by
  refine ⟨fun k d a b w s st hs hok => ?_, fun k d a b w s st hs hdzt hzero => ?_, fun n x y => Div4.exact_overflow⟩
  · rw [Div4.exec_instr, State.divOp_of_defined hs hok, Div4.atWidth_op]
  · rw [Div4.exec_instr, State.divOp_of_zero hs hdzt hzero]

end Sys2Proof.Machine

namespace Sys2Proof.Machine

/-! ### Counting bits and extending (07 R163) -/

theorem leadingZeros_spec {n : Nat} (x : BitVec n) : leadingZeros x ≤ n ∧ x.toNat < 2 ^ (n - leadingZeros x) ∧
    (leadingZeros x < n → 2 ^ (n - leadingZeros x - 1) ≤ x.toNat) := by
  unfold leadingZeros
  split
  · next hzero => simp [hzero]
  · next hne =>
    have hlog : Nat.log2 x.toNat < n := (Nat.log2_lt hne).mpr x.isLt
    refine ⟨by omega, ?_, fun _ => ?_⟩
    · rw [show n - (n - 1 - Nat.log2 x.toNat) = Nat.log2 x.toNat + 1 by omega]
      exact Nat.lt_log2_self
    · rw [show n - (n - 1 - Nat.log2 x.toNat) - 1 = Nat.log2 x.toNat by omega]
      exact Nat.log2_self_le hne

theorem signExtend_ofNat_of_lt {c : Nat} (h : c < 2 ^ 31) : (BitVec.ofNat 32 c).signExtend 64 = BitVec.ofNat 64 c := by
  have hmsb : (BitVec.ofNat 32 c).msb = false := by
    rw [BitVec.msb_eq_decide, BitVec.toNat_ofNat, Nat.mod_eq_of_lt (by omega)]
    simpa using h
  rw [BitVec.signExtend_eq_setWidth_of_msb_false hmsb, BitVec.setWidth_ofNat_of_le_of_lt (by decide) (by omega)]

/-- A number that fits the narrow form is the same in both. -/
theorem atWidth_ofNat (w : Bool) (f : (n : Nat) → BitVec n → BitVec n → Nat) (x y : Word)
    (h : f 32 (x.setWidth 32) (y.setWidth 32) < 2 ^ 31) : atWidth w (fun n x y => BitVec.ofNat n (f n x y)) x y =
      BitVec.ofNat 64 (if w then f 32 (x.setWidth 32) (y.setWidth 32) else f 64 x y) := by
  cases w
  · rfl
  · exact signExtend_ofNat_of_lt h

theorem length_filter_eq_sum {α : Type} (p : α → Bool) (l : List α) :
    (l.filter p).length = (l.map fun i => if p i then 1 else 0).sum := by
  induction l with
  | nil => rfl
  | cons a t ih => cases h : p a <;> simp [h, ih, Nat.add_comm]

theorem oneBits_eq_sum {n : Nat} (x : BitVec n) :
    oneBits x = ((List.range n).map fun i => if x.getLsbD i then 1 else 0).sum := length_filter_eq_sum _ _

theorem oneBits_le {n : Nat} (x : BitVec n) : oneBits x ≤ n :=
  (List.length_filter_le _ _).trans_eq List.length_range

/-- The low bits of a word are those of its truncation. -/
theorem oneBits_setWidth (x : Word) :
    oneBits (x.setWidth 32) = ((List.range 32).map fun i => if x.getLsbD i then 1 else 0).sum := by
  rw [oneBits_eq_sum]
  congr 1
  refine List.map_congr_left fun i hi => ?_
  simp [List.mem_range.mp hi]

theorem toInt_setWidth_eq_signedOf {m : Nat} (hm : 0 < m) (x : Word) : (x.setWidth m).toInt = signedOf m x.toNat := by
  have hhalf : 2 ^ m = 2 * 2 ^ (m - 1) := (Nat.two_pow_pred_mul_two hm).symm.trans (Nat.mul_comm _ _)
  rw [BitVec.toInt_eq_toNat_cond, BitVec.toNat_setWidth, signedOf]
  split <;> split <;> omega

theorem signExtend_setWidth_eq {m : Nat} (hm : 0 < m) (x : Word) :
    (x.setWidth m).signExtend 64 = BitVec.ofInt 64 (signedOf m x.toNat) := by
  rw [BitVec.signExtend, toInt_setWidth_eq_signedOf hm]

theorem setWidth_setWidth_eq_ofNat (m : Nat) (x : Word) : (x.setWidth m).setWidth 64 = BitVec.ofNat 64 (x.toNat % 2 ^ m) :=
  BitVec.eq_of_toNat_eq (by simp)

/-- Settles O3: the counts at each width by `leadingZeros_spec` and `oneBits_eq_sum`, the extensions by the value of the truncated
operand. -/
theorem bitCountsAndExtensions : Obligations.BitCountsAndExtensions := by
  refine ⟨fun d a w s st hs => ?_, fun d a w s st hs => ?_, fun d a k s st hs _ => ⟨?_, ?_⟩⟩
  · have hsmall : leadingZeros ((st.rx a).setWidth 32) < 2 ^ 31 := (leadingZeros_spec _).1.trans_lt (by decide)
    refine ⟨if w then leadingZeros ((st.rx a).setWidth 32) else leadingZeros (st.rx a), ?_, ?_⟩
    · rw [exec_clz, execClz, State.writeReg_eq hs, atWidth_ofNat w (fun _ x _ => leadingZeros x) _ _ hsmall]
    · cases w
      · simpa [Nat.mod_eq_of_lt (st.rx a).isLt] using leadingZeros_spec (st.rx a)
      · simpa using leadingZeros_spec ((st.rx a).setWidth 32)
  · have hsmall : oneBits ((st.rx a).setWidth 32) < 2 ^ 31 := (oneBits_le _).trans_lt (by decide)
    rw [exec_popc, execPopc, State.writeReg_eq hs, atWidth_ofNat w (fun _ x _ => oneBits x) _ _ hsmall]
    cases w
    · rw [if_neg (by decide), if_neg (by decide), oneBits_eq_sum]
    · rw [if_pos rfl, if_pos rfl, oneBits_setWidth]
  · rw [exec_sext, execSext, State.writeReg_eq hs, signExtend_setWidth_eq (by positivity)]
  · rw [exec_zext, execZext, State.writeReg_eq hs, setWidth_setWidth_eq_ofNat]

/-! ### Immediates (07 R165, R166) -/

theorem add_sextImm {n : Nat} (x : Word) (i : BitVec n) : x + sextImm i = BitVec.ofInt 64 (x.toInt + i.toInt) := by
  rw [BitVec.ofInt_add, BitVec.ofInt_toInt]
  rfl

theorem toNat_zextImm {n : Nat} (i : BitVec n) (h : n ≤ 64) : (zextImm i).toNat = i.toNat := by
  rw [zextImm, BitVec.toNat_setWidth, Nat.mod_eq_of_lt (i.isLt.trans_le (Nat.pow_le_pow_right (by decide) h))]

theorem eq_ofNat_toNat (x : Word) {m : Nat} (h : x.toNat = m) : x = BitVec.ofNat 64 m := by
  rw [← h, BitVec.ofNat_toNat, BitVec.setWidth_eq]

theorem shiftLeft_or_zextImm (x : Word) (i : BitVec 16) :
    x <<< 16 ||| zextImm i = BitVec.ofNat 64 (x.toNat * 2 ^ 16 + i.toNat) := by
  refine BitVec.eq_of_toNat_eq ?_
  have hlow : i.toNat < 2 ^ 16 := i.isLt
  have hshift : x.toNat * 2 ^ 16 % 2 ^ 64 = 2 ^ 16 * (x.toNat % 2 ^ 48) := by omega
  rw [BitVec.toNat_or, BitVec.toNat_shiftLeft, toNat_zextImm i (by decide), Nat.shiftLeft_eq, hshift,
    ← Nat.two_pow_add_eq_or_of_lt hlow, BitVec.toNat_ofNat]
  omega

section
variable {s : State} {st : Strand} (hs : s.strand? s.cur = some st)
include hs

/-- A shift by an immediate is the shift by that amount in a register. -/
theorem State.shiftImm_eq (k : Alu2) (d a : XReg) (w : Bool) (n : BitVec 6) :
    s.shiftImm d a w n k.op = .next (s.retire (st.wx d (resultAt w k.exact (st.rx a) (BitVec.ofNat 64 n.toNat)))) := by
  rw [State.shiftImm, State.writeReg_eq hs, Alu2.atWidth_op, BitVec.ofNat_toNat]

end

/-- Settles O4: each form writes the value of its operation on the extended immediate. -/
theorem immediateFormsResult : Obligations.ImmediateFormsResult := by
  intro d a i s st hs
  refine ⟨?_, ?_, ?_, ?_, State.writeReg_eq hs _ _, ?_, fun w n _ =>
    ⟨State.shiftImm_eq hs .shl d a w n, State.shiftImm_eq hs .shr d a w n, State.shiftImm_eq hs .sar d a w n,
      State.shiftImm_eq hs .rot d a w n⟩⟩
  · rw [exec_addi, execAddi, State.writeReg_eq hs, add_sextImm]
  · rw [exec_andi, execAndi, State.writeReg_eq hs]
    rw [← eq_ofNat_toNat (st.rx a &&& zextImm i) (by rw [BitVec.toNat_and, toNat_zextImm i (by decide)])]
  · rw [exec_ori, execOri, State.writeReg_eq hs]
    rw [← eq_ofNat_toNat (st.rx a ||| zextImm i) (by rw [BitVec.toNat_or, toNat_zextImm i (by decide)])]
  · rw [exec_xori, execXori, State.writeReg_eq hs]
    rw [← eq_ofNat_toNat (st.rx a ^^^ zextImm i) (by rw [BitVec.toNat_xor, toNat_zextImm i (by decide)])]
  · rw [exec_lis, execLis, State.writeReg_eq hs, shiftLeft_or_zextImm]

/-! ### Compares, predicates, selection (07 R167 to R169) -/

theorem condHolds_eq {n : Nat} (c : Cond) (x y : BitVec n) : condHolds c x y = condTrue c x.toInt y.toInt x.toNat y.toNat := by
  cases c <;> simp [condHolds, condTrue, BitVec.slt_eq_decide, BitVec.sle_eq_decide, BitVec.ult_eq_decide, BitVec.ule_eq_decide,
    ← BitVec.toNat_inj, bne, beq_eq_decide]

theorem Strand.wp_eq (st : Strand) (p : PReg) (v : Bool) : st.wp p v = st.putPred p (if v then 1 else 0) := by
  cases v <;> rfl

theorem Strand.pred0_eq (st : Strand) (p : PReg) : st.pred0 p = (st.rp p).toNat := by
  rw [Strand.pred0, Strand.rp, BitVec.getLsbD, Nat.testBit_zero]
  generalize (st.p[p.toNat]?.getD 0).toNat = v
  rcases Nat.mod_two_eq_zero_or_one v with h | h <;> simp [h]

/-- Settles O5: a truth value goes into bit 0 of the predicate, and the logic on bits is arithmetic on 0 and 1. -/
theorem comparesPredicatesSelect : Obligations.ComparesPredicatesSelect := by
  refine ⟨fun p a b c w s st hs _ => ⟨_, ?_, rfl⟩, fun p a c i s st hs _ => ⟨_, ?_, rfl⟩, fun d a b s st hs => ?_,
    fun d a b p s st hs => ?_⟩
  · rw [exec_cmp, execCmp, State.writePred_eq hs, Strand.wp_eq]
    cases w
    · simp [condHolds_eq, Strand.putPred, Nat.mod_eq_of_lt (st.rx a).isLt, Nat.mod_eq_of_lt (st.rx b).isLt]
    · simp only [condHolds_eq, Strand.putPred, toInt_setWidth_eq_signedOf (m := 32) (by decide), BitVec.toNat_setWidth, if_true]
  · rw [exec_cmpi, execCmpi, State.writePred_eq hs, Strand.wp_eq, condHolds_eq, sextImm, BitVec.toInt_signExtend_of_le (by decide)]
    rfl
  · rw [exec_pand, execPand, exec_por, execPor, exec_pxor, execPxor, exec_pandn, execPandn, exec_pnot, execPnot, exec_pmov, execPmov,
      exec_pset, execPset, exec_pclr, execPclr]
    simp only [State.writePred_eq hs, Strand.wp_eq, Strand.pred0_eq]
    cases st.rp a <;> cases st.rp b <;> simp
  · rw [exec_sel, execSel, State.writeReg_eq hs, Strand.pred0_eq]
    cases st.rp p <;> rfl

end Sys2Proof.Machine

/-! ### The integer instructions change one register and move on (07 R163 to R166, R169) -/

namespace Sys2Proof.Machine

/-- An integer instruction writes its register, or divides into it. -/
theorem exec_of_intDest {i : Instr} {d : XReg} (h : intDest i = some d) (s : State) :
    (∃ v, exec i s = s.writeReg d v) ∨ ∃ a b w f, exec i s = s.divOp d a b w f := by
  cases i with
  | div d' a b w => cases h; exact .inr ⟨a, b, w, _, rfl⟩
  | divu d' a b w => cases h; exact .inr ⟨a, b, w, _, rfl⟩
  | rem d' a b w => cases h; exact .inr ⟨a, b, w, _, rfl⟩
  | remu d' a b w => cases h; exact .inr ⟨a, b, w, _, rfl⟩
  | _ => cases h <;> exact .inl ⟨_, rfl⟩

/-- Where DZT is clear, every integer instruction completes with a value in its register. -/
theorem exec_integer {i : Instr} {d : XReg} {s : State} {st : Strand} (h : intDest i = some d) (hs : s.strand? s.cur = some st)
    (hdzt : st.dzt = false) : ∃ v, exec i s = .next (s.retire (st.wx d v)) := by
  obtain ⟨v, hwrite⟩ | ⟨a, b, w, f, hdiv⟩ := exec_of_intDest h s
  · exact ⟨_, hwrite.trans (State.writeReg_eq hs d v)⟩
  · exact ⟨_, hdiv.trans (State.divOp_of_defined hs (.inl hdzt) d a f)⟩

theorem Strand.rx_finish (st : Strand) (i : StrandId) (n : Word) (k : XReg) : (st.finish i n).rx k = st.rx k := by
  simp only [Strand.rx, Strand.finish_x]

theorem Strand.rx_wx_ne (st : Strand) (d k : XReg) (v : Word) (h : k ≠ d) : (st.wx d v).rx k = st.rx k := by
  by_cases hd : d = 0
  · rw [hd, Strand.wx_zero]
  · rw [Strand.rx_wx st d k v hd, if_neg h]

/-- A strand that completes with a value in a register is the same but for that register, the pc, the loops and the wait. -/
theorem Strand.sameBut_finish_wx (st : Strand) (d : XReg) (v : Word) (i : StrandId) (n : Word) :
    st.SameBut ((st.wx d v).finish i n) d := by
  refine ⟨fun k hk => by rw [Strand.rx_finish, Strand.rx_wx_ne st d k v hk], ?_⟩
  unfold Strand.finish
  dsimp only
  split
  · simp
  · simp

/-- Settles O6: the instruction completes, and completing changes the acting strand alone. -/
theorem integerFrame : Obligations.IntegerFrame := by
  intro i d s t st hd hs hdzt hexec
  obtain ⟨v, hnext⟩ := exec_integer hd hs hdzt
  obtain rfl : s.retire (st.wx d v) = t := Host.Outcome.next.inj (hnext.symm.trans hexec)
  exact ⟨_, rfl, State.strand?_retire hs _, st.sameBut_finish_wx d v s.cur.strand 4, State.sameMemory_of_memories rfl,
    fun q hq => State.strand?_retire_ne s _ q hq, rfl, rfl, rfl⟩

/-! ### The loop test (07 R172) -/

/-- A loop that goes round again, and one that ends. -/
def HwLoop.again (lp : HwLoop) : HwLoop := { lp with lcnt := lp.lcnt - 1, lpc := lp.lcnt - 1 }
def HwLoop.ended (lp : HwLoop) : HwLoop := { lp with lcnt := 0, lpc := 0, active := false }

/-- Whether a unit is the latched end of an active loop. -/
def HwLoop.EndsAt (lp : HwLoop) (pc : Word) : Prop := lp.active = true ∧ lp.le = pc

/-- The test of one loop at a unit: where the loop goes, if it goes round again, and the loop after the test. -/
def HwLoop.pass (lp : HwLoop) (pc : Word) : Option Word × HwLoop :=
  if lp.active && lp.le == pc then (if 1 < lp.lcnt.toNat then (some lp.ls, lp.again) else (none, lp.ended)) else (none, lp)

section
variable {lp : HwLoop} {pc : Word}

theorem HwLoop.pass_again (h : lp.EndsAt pc) (hmore : 1 < lp.lcnt.toNat) : lp.pass pc = (some lp.ls, lp.again) := by
  obtain ⟨hactive, hend⟩ := h
  simp [HwLoop.pass, hactive, hend, hmore]

theorem HwLoop.pass_ended (h : lp.EndsAt pc) (hlast : ¬ 1 < lp.lcnt.toNat) : lp.pass pc = (none, lp.ended) := by
  obtain ⟨hactive, hend⟩ := h
  simp [HwLoop.pass, hactive, hend, hlast]

theorem HwLoop.pass_of_not (h : ¬ lp.EndsAt pc) : lp.pass pc = (none, lp) := by
  rw [HwLoop.pass, if_neg]
  rwa [Bool.and_eq_true, beq_iff_eq]

end

/-- lp1 is tested first; unless it goes round again, lp0 is tested, and the pc goes on if lp0 does not go round again either. -/
theorem Strand.advance_eq (st : Strand) (n : Word) : st.advance n = match (st.lp1.pass st.pc).1 with
    | some t => { st with ext := none, lp1 := (st.lp1.pass st.pc).2, pc := t }
    | none => { st with ext := none, lp1 := (st.lp1.pass st.pc).2, lp0 := (st.lp0.pass st.pc).2,
                        pc := (st.lp0.pass st.pc).1.getD (st.pc + n) } := by
  unfold Strand.advance HwLoop.pass HwLoop.test
  dsimp only
  cases hend1 : st.lp1.active && st.lp1.le == st.pc <;> cases hend0 : st.lp0.active && st.lp0.le == st.pc <;>
    by_cases hmore1 : 1 < st.lp1.lcnt.toNat <;> by_cases hmore0 : 1 < st.lp0.lcnt.toNat <;>
      simp only [hmore1, hmore0, if_true, if_false, Option.getD, Bool.false_eq_true] <;> rfl

theorem Strand.finish_eq_advance {i : StrandId} (hi : i ≠ .c) (st : Strand) (n : Word) :
    st.finish i n = ({ st with waited := 0, waitiLeft := 0, wait := none } : Strand).advance n := if_neg hi

/-- Settles O7: the NOP completes, and the cases of the statement are those of the tests of the two loops. -/
theorem hardwareLoopTest : Obligations.HardwareLoopTest := by
  intro s st hs hstrand
  refine ⟨_, State.acting_eq hs _, Strand.finish_x _ _ _, ?_⟩
  intro at0 at1 ended again
  rw [Strand.finish_eq_advance hstrand, Strand.advance_eq]
  refine ⟨fun ⟨h1, hmore⟩ => ?_, fun ⟨h1, hlast, h0, hmore⟩ => ?_, fun ⟨h1, hlast, h0, hlast0⟩ => ?_, fun ⟨h1, hlast, h0⟩ => ?_,
    fun ⟨h1, h0, hmore⟩ => ?_, fun ⟨h1, h0, hlast⟩ => ?_, fun ⟨h1, h0⟩ => ?_⟩
  · rw [HwLoop.pass_again h1 hmore]; exact ⟨rfl, rfl, rfl⟩
  · rw [HwLoop.pass_ended h1 hlast, HwLoop.pass_again h0 hmore]; exact ⟨rfl, rfl, rfl⟩
  · rw [HwLoop.pass_ended h1 hlast, HwLoop.pass_ended h0 hlast0]; exact ⟨rfl, rfl, rfl⟩
  · rw [HwLoop.pass_ended h1 hlast, HwLoop.pass_of_not h0]; exact ⟨rfl, rfl, rfl⟩
  · rw [HwLoop.pass_of_not h1, HwLoop.pass_again h0 hmore]; exact ⟨rfl, rfl, rfl⟩
  · rw [HwLoop.pass_of_not h1, HwLoop.pass_ended h0 hlast]; exact ⟨rfl, rfl, rfl⟩
  · rw [HwLoop.pass_of_not h1, HwLoop.pass_of_not h0]; exact ⟨rfl, rfl, rfl⟩

end Sys2Proof.Machine

/-! ### Transfers of control (07 R170, R171, R173) -/

namespace Sys2Proof.Machine

theorem branchTarget_eq {n : Nat} (pc : Word) (o : BitVec n) : pc + sextImm o * 4 = BitVec.ofInt 64 (pc.toInt + 4 * o.toInt) := by
  rw [BitVec.ofInt_add, BitVec.ofInt_mul, BitVec.ofInt_toInt, BitVec.mul_comm]
  rfl

theorem HwLoop.leave_eq (lp : HwLoop) (t : Word) : lp.leave t =
    if lp.active = true ∧ (t.toNat < lp.ls.toNat ∨ lp.le.toNat < t.toNat) then { lp with lcnt := 0, lpc := 0, active := false }
    else lp := by
  simp only [HwLoop.leave, Bool.and_eq_true, Bool.or_eq_true, BitVec.ult_iff_lt, BitVec.lt_def]

theorem Strand.rp_bne_iff (st : Strand) (p : PReg) (n : Bool) : (st.rp p != n) = true ↔ (st.pred0 p + n.toNat) % 2 = 1 := by
  rw [Strand.pred0_eq]
  cases st.rp p <;> cases n <;> decide

theorem extractLsb'_two_eq_zero_iff (t : Word) : t.extractLsb' 0 2 = 0 ↔ t.toNat % 4 = 0 := by
  rw [← BitVec.toNat_inj, BitVec.extractLsb'_toNat]
  simp

section
variable {s : State} {st : Strand} (hs : s.strand? s.cur = some st)
include hs

theorem exec_brp_eq (p : PReg) (n : Bool) (o : BitVec 18) : exec (.brp p n o) s =
    .next (if (st.pred0 p + n.toNat) % 2 = 1 then s.branchTo st (st.pc + sextImm o * 4) else s.retire st) := by
  rw [exec_brp, execBrp, State.acting_eq hs]
  simp only [Strand.rp_bne_iff]

theorem exec_jr_eq (d a : XReg) : exec (.jr d a) s =
    .next (if (st.rx a).toNat % 4 = 0 then s.transfer (st.wx d (st.pc + 4)) (st.rx a) else s.trap st 0xA (st.rx a)) := by
  rw [exec_jr, execJr, State.acting_eq hs]
  simp only [extractLsb'_two_eq_zero_iff]

theorem State.startLoop_eq (i : Instr) (l : Bool) (count : Strand → Word) (e : Nat) : s.startLoop i l count e =
    .next (if (st.loop l).active then s.trap st 1 (s.wordVal i) else
      let u := unitBytes s.cur.strand
      let lp : HwLoop := { st.loop l with lps := st.pc + u, lpe := st.pc + u * BitVec.ofNat 64 (e + 1), lpc := count st }
      if count st = 0 then s.transfer (st.setLoop l lp) (lp.lpe + u)
      else s.retire (st.setLoop l { lp with active := true, ls := lp.lps, le := lp.lpe, lcnt := count st })) :=
  State.acting_eq hs _

end

/-- Settles O8: a branch ends the loops that it leaves, a call and a jump none; a loop starts where none is active. -/
theorem branchTargets : Obligations.BranchTargets := by
  refine ⟨fun s st hs => ?_, fun l s st hs => ?_⟩
  · intro go kept left
    have hbranch : ∀ t, s.branchTo st t = go (left t) t := fun t => by
      rw [State.branchTo, HwLoop.leave_eq, HwLoop.leave_eq]; rfl
    refine ⟨fun o => ⟨?_, ?_⟩, fun p n o => ?_, fun d a hal => ?_, fun d a hal => ?_⟩
    · rw [exec_br, execBr, State.acting_eq hs, branchTarget_eq, hbranch]
    · rw [exec_call, execCall, State.acting_eq hs, branchTarget_eq]; rfl
    · rw [exec_brp_eq hs, branchTarget_eq, hbranch]
    · rw [exec_jr_eq hs, if_pos hal]; rfl
    · rw [exec_jr_eq hs, if_neg hal]
  · intro u old put after
    refine ⟨fun c e => (State.startLoop_eq hs _ l _ _).trans ?_, fun c e => (State.startLoop_eq hs _ l _ _).trans ?_⟩
    · rfl
    · rw [← zextImm, ← eq_ofNat_toNat (zextImm c) (toNat_zextImm c (by decide))]
      rfl

/-! ### The MISC group (07 R193, R195, R196) -/

theorem State.feature_eq (s : State) (vr n : Nat) : s.feature vr n =
    ([0x00010101, 0x0000004034400200, 0x0100601810400100, 0xFF, 0xF, BitVec.ofNat 64 (s.jobSize vr)] : List Word)[n]?.getD 0 := by
  match n with
  | 0 | 1 | 2 | 3 | 4 | 5 => rfl
  | _ + 6 => rfl

theorem exec_waiti_eq {s : State} {st : Strand} (hs : s.strand? s.cur = some st) (n : BitVec 12) :
    exec (.waiti n) s = .next (if n = 0 then s.retire st else s.holdFor .waiti n.toNat) := State.acting_eq hs _

theorem exec_waitiExpiry_eq {s : State} {r : SRef} {st : Strand} (hs : s.strand? r = some st) (hwait : st.wait = some .waiti) :
    exec (.waitiExpiry r) s = .next (if st.waitiLeft ≤ st.waited then ({ s with cur := r } : State).retire st else s) := by
  simp [exec_waitiExpiry, execWaitiExpiry, hs, hwait]

/-- Settles O9: each instruction of the group completes with its value, WAITI when its count has run out. -/
theorem miscInstructionsComplete : Obligations.MiscInstructionsComplete := by
  intro s st hs
  refine ⟨State.acting_eq hs _, fun d f => ?_, fun d a n r hr => ?_, exec_waiti_eq hs 0, fun n hn => ?_,
    fun r sr hr hwait => exec_waitiExpiry_eq hr hwait⟩
  · rw [exec_feat, execFeat, State.writeReg_eq hs, State.feature_eq]
  · rw [exec_rand, execRand, State.acting_eq hs, hr, BitVec.ofNat_toNat]
  · rw [exec_waiti_eq hs, if_neg hn]
    rfl

end Sys2Proof.Machine

/-! ### WRCTL (07 R194; 02 R50, R59, R64, R66 to R69; 12 R300) -/

namespace Sys2Proof.Machine

theorem bitsAt_eq {k : Nat} (v : BitVec k) (lo n : Nat) : bitsAt v lo n = v.toNat / 2 ^ lo % 2 ^ n := by
  rw [bitsAt, BitVec.extractLsb'_toNat, Nat.shiftRight_eq_div_pow]

/-- The bits of a word from one up are 0 where the word is below the power of that bit. -/
theorem bitsAt_high_eq_zero_iff (v : Word) {lo n : Nat} (h : lo + n = 64) : bitsAt v lo n = 0 ↔ v.toNat < 2 ^ lo := by
  have hlt : v.toNat / 2 ^ lo < 2 ^ n := by
    rw [Nat.div_lt_iff_lt_mul (Nat.two_pow_pos lo), ← Nat.pow_add, Nat.add_comm, h]
    exact v.isLt
  rw [bitsAt_eq, Nat.mod_eq_of_lt hlt, Nat.div_eq_zero_iff_lt (Nat.two_pow_pos lo)]

theorem bitsAt_zero_eq {k : Nat} (v : BitVec k) (n : Nat) : bitsAt v 0 n = v.toNat % 2 ^ n := by
  rw [bitsAt_eq, Nat.pow_zero, Nat.div_one]

/-- The registers that WRCTL writes by their index. -/
def plainCtl : List Nat := [0x008, 0x020, 0x022, 0x023, 0x024, 0x025, 0x026, 0x027, 0x028, 0x029]

section
variable (st : Strand) (v : Word)

theorem Strand.writeCtl_tvec : st.writeCtl 0x020 v = if v.toNat % 4096 = 0 then some { st with tvec := v } else none := by
  rw [show v.toNat % 4096 = bitsAt v 0 12 from (bitsAt_zero_eq v 12).symm]
  rfl

theorem tstatOk_iff : (bitsAt v 16 48 == 0 && !bitAt v 4) = true ↔ v.toNat < 2 ^ 16 ∧ v.getLsbD 4 = false := by
  rw [Bool.and_eq_true, beq_iff_eq, bitsAt_high_eq_zero_iff v (by decide), bitAt, Bool.not_eq_true']

theorem Strand.writeCtl_tstat1 : st.writeCtl 0x025 v =
    if v.toNat < 2 ^ 16 ∧ v.getLsbD 4 = false then some { st with bank1 := { st.bank1 with tstat := v } } else none := by
  simp only [← tstatOk_iff]
  rfl

theorem Strand.writeCtl_tstat2 : st.writeCtl 0x029 v =
    if v.toNat < 2 ^ 16 ∧ v.getLsbD 4 = false then some { st with bank2 := { st.bank2 with tstat := v } } else none := by
  simp only [← tstatOk_iff]
  rfl

theorem Strand.writeCtl_unlisted {n : Nat} (h : n ∉ plainCtl) : st.writeCtl n v = none := by
  simp only [plainCtl, List.mem_cons, List.not_mem_nil, or_false, not_or] at h
  unfold Strand.writeCtl
  split <;> simp_all

end

section
variable {s : State} {st : Strand} (hs : s.strand? s.cur = some st)
include hs

theorem exec_wrctl_of_some {a : XReg} {c : BitVec 12} {st' : Strand} (h : st.writeCtl c.toNat (st.rx a) = some st') :
    exec (.wrctl a c) s = .next (s.retire st') := by
  rw [exec_wrctl, execWrctl, State.acting_eq hs, h]

theorem exec_wrctl_of_none {a : XReg} {c : BitVec 12} (h : st.writeCtl c.toNat (st.rx a) = none) :
    exec (.wrctl a c) s = .next (s.trap st 1 (s.wordVal (.wrctl a c))) := by
  rw [exec_wrctl, execWrctl, State.acting_eq hs, h]
  rfl

theorem exec_wrctl_of_ite {a : XReg} {c : BitVec 12} {st' : Strand} {p : Prop} [Decidable p]
    (h : st.writeCtl c.toNat (st.rx a) = if p then some st' else none) : exec (.wrctl a c) s =
      if p then .next (s.retire st') else .next (s.trap st 1 (s.wordVal (.wrctl a c))) := by
  by_cases hp : p
  · rw [if_pos hp] at h ⊢
    exact exec_wrctl_of_some hs h
  · rw [if_neg hp] at h ⊢
    exact exec_wrctl_of_none hs h

theorem exec_fpflagsClear_eq (a : XReg) : exec (.fpflagsClear a) s =
    if (st.rx a).toNat < 32 then .next (s.retire (st.clearFlags (st.rx a)))
    else .next (s.trap st 1 (s.wordVal (.fpflagsClear a))) := by
  rw [exec_fpflagsClear, execFpflagsClear, State.acting_eq hs]
  simp only [ne_eq, bitsAt_high_eq_zero_iff (st.rx a) (lo := 5) (n := 59) (by decide), ite_not]
  exact apply_ite Host.Outcome.next _ _ _

theorem exec_shapeWrite_eq (a : XReg) : exec (.shapeWrite a) s =
    if s.cur.strand = .c ∧ shapeLegal (st.rx a) = true then
      .next ((s.modCore s.cur fun k => { k with shape := st.rx a }).retire st)
    else .next (s.trap st 1 (s.wordVal (.shapeWrite a))) := by
  have hcond : s.cur.strand ≠ .c ∨ (!shapeLegal (st.rx a)) = true ↔ ¬ (s.cur.strand = .c ∧ shapeLegal (st.rx a) = true) := by
    rw [Bool.not_eq_true', ← Bool.not_eq_true, not_and_or]
  rw [exec_shapeWrite, execShapeWrite, State.acting_eq hs]
  simp only [hcond, ite_not]
  exact apply_ite Host.Outcome.next _ _ _

theorem exec_ringRegisterWrite_eq (a : XReg) (g : GReg) : exec (.ringRegisterWrite a g) s =
    if s.cur.strand ≠ .c ∧ ringEsz (st.rx a) < 10 ∧ ringLogn (st.rx a) < 13 ∧ bitsAt (st.rx a) 22 2 = 0 then
      .next ((s.setRing s.cur.vr s.cur.core g.toNat (st.rx a)).retire st)
    else .next (s.trap st 1 (s.wordVal (.ringRegisterWrite a g))) := by
  have hcond : s.cur.strand = .c ∨ 10 ≤ ringEsz (st.rx a) ∨ 13 ≤ ringLogn (st.rx a) ∨ bitsAt (st.rx a) 22 2 ≠ 0 ↔
      ¬ (s.cur.strand ≠ .c ∧ ringEsz (st.rx a) < 10 ∧ ringLogn (st.rx a) < 13 ∧ bitsAt (st.rx a) 22 2 = 0) := by
    simp only [not_and_or, not_not, Nat.not_lt, ne_eq]
  rw [exec_ringRegisterWrite, execRingRegisterWrite, State.acting_eq hs]
  simp only [hcond, ite_not]
  exact apply_ite Host.Outcome.next _ _ _

end

/-- LIMIT of a WALn as WRCTL leaves it: 1 for 0, and at most the ceiling of the window (02 R69). -/
def clampLimit (v : Word) (ceil : BitVec 16) : BitVec 16 :=
  BitVec.ofNat 16 (if v.toNat % 2 ^ 16 = 0 then 1 else min ceil.toNat (v.toNat % 2 ^ 16))

theorem clampLimit_eq (v : Word) (ceil : BitVec 16) : clampLimit v ceil =
    if v.extractLsb' 0 16 = (0 : BitVec 16) then 1 else if ceil.ult (v.extractLsb' 0 16) then ceil else v.extractLsb' 0 16 := by
  have hlim : (v.extractLsb' 0 16).toNat = v.toNat % 2 ^ 16 := bitsAt_zero_eq v 16
  have hzero : v.extractLsb' 0 16 = (0 : BitVec 16) ↔ v.toNat % 2 ^ 16 = 0 := by rw [← BitVec.toNat_inj, hlim]; rfl
  simp only [clampLimit, hzero, BitVec.ult_iff_lt, BitVec.lt_def, hlim]
  split
  · rfl
  · split
    · next hlt => rw [Nat.min_eq_left hlt.le, BitVec.ofNat_toNat, BitVec.setWidth_eq]
    · next hge => rw [Nat.min_eq_right (Nat.le_of_not_lt hge), ← hlim, BitVec.ofNat_toNat, BitVec.setWidth_eq]

theorem exec_walWrite_eq {s : State} {st : Strand} (hs : s.strand? s.cur = some st) (a : XReg) (n : BitVec 4) :
    exec (.walWrite a n) s =
    if (st.rx a).toNat < 2 ^ 32 then
      let lim := clampLimit (st.rx a) (wtblCeil (s.wtbl s.cur.vr n.toNat))
      .next ((s.modRank s.cur.vr fun k => { k with walLimit := k.walLimit.setIfInBounds n.toNat lim }).retire st)
    else .next (s.trap st 1 (s.wordVal (.walWrite a n))) := by
  rw [clampLimit_eq, exec_walWrite, execWalWrite, State.acting_eq hs]
  simp only [ne_eq, bitsAt_high_eq_zero_iff (st.rx a) (lo := 32) (n := 32) (by decide), ite_not]
  exact apply_ite Host.Outcome.next _ _ _

/-- Settles O10: each register takes what its row allows, and every other write is ILLOP. -/
theorem controlRegisterWrites : Obligations.ControlRegisterWrites := by
  intro s st a hs v bad done limit
  exact ⟨exec_wrctl_of_ite hs rfl, exec_wrctl_of_ite hs (st.writeCtl_tvec v), exec_wrctl_of_some hs rfl, exec_wrctl_of_some hs rfl,
    exec_wrctl_of_some hs rfl, exec_wrctl_of_ite hs (st.writeCtl_tstat1 v), exec_wrctl_of_some hs rfl, exec_wrctl_of_some hs rfl,
    exec_wrctl_of_some hs rfl, exec_wrctl_of_ite hs (st.writeCtl_tstat2 v),
    fun c hc => exec_wrctl_of_none hs (st.writeCtl_unlisted v hc), exec_fpflagsClear_eq hs a, State.acting_eq hs _,
    State.acting_eq hs _, State.acting_eq hs _, State.acting_eq hs _, State.acting_eq hs _, State.acting_eq hs _,
    exec_shapeWrite_eq hs a, exec_ringRegisterWrite_eq hs a, exec_walWrite_eq hs a⟩

end Sys2Proof.Machine

/-! ### RDCTL (07 R194; 02 R45, R66) -/

namespace Sys2Proof.Machine

section
variable {s : State} {st : Strand} (hs : s.strand? s.cur = some st)
include hs

theorem exec_rdctl_of_some (d : XReg) {c : BitVec 12} {v : Word} (h : s.readCtl s.cur st c.toNat = some v) :
    exec (.rdctl d c) s = .next (s.retire (st.wx d v)) := by
  rw [exec_rdctl, execRdctl, State.acting_eq hs, h]

theorem exec_rdctl_of_none (d : XReg) {c : BitVec 12} (h : s.readCtl s.cur st c.toNat = none) :
    exec (.rdctl d c) s = .next (s.trap st 1 (s.wordVal (.rdctl d c))) := by
  rw [exec_rdctl, execRdctl, State.acting_eq hs, h]
  rfl

end

section
variable (s : State) (r : SRef) (st : Strand) {n : Nat}

theorem State.readCtl_wal (h : n < 16) : s.readCtl r st (0x030 + n) = some (s.rankField r.vr fun k =>
    (k.walLimit[n]?.getD 0).setWidth 64 ||| (k.walOut[n]?.getD 0).setWidth 64 <<< 16) := by
  interval_cases n <;> rfl

theorem State.readCtl_ring (h : n < 16) :
    s.readCtl r st (0x070 + n) = if r.strand = .c then none else some (s.ring r.vr r.core n) := by
  interval_cases n <;> rfl

/-- The indices of the table of control registers but for the window allowances and the rings (02 R66). -/
def ctlTable : List Nat := [0x000, 0x001, 0x002, 0x003, 0x004, 0x005, 0x006, 0x008, 0x009, 0x00A, 0x010, 0x011, 0x012, 0x013,
  0x014, 0x015, 0x020, 0x021, 0x022, 0x023, 0x024, 0x025, 0x026, 0x027, 0x028, 0x029, 0x040, 0x050, 0x051, 0x052, 0x053, 0x060]

theorem State.readCtl_unlisted (h : n ∉ ctlTable) (hwal : ¬ (0x030 ≤ n ∧ n < 0x040)) (hring : ¬ (0x070 ≤ n ∧ n < 0x080)) :
    s.readCtl r st n = none := by
  unfold State.readCtl
  split
  rotate_right
  · rw [if_neg hwal, if_neg hring]
  all_goals exact absurd (by decide) h

end

theorem State.rankField_eq {s : State} {vr : Nat} {r : Rank} (hr : s.rank? vr = some r) (f : Rank → Word) : s.rankField vr f = f r := by
  rw [State.rankField, hr]

theorem toNat_ofNat_ctl {m : Nat} (h : m < 4096) : (BitVec.ofNat 12 m).toNat = m := by
  rw [BitVec.toNat_ofNat, Nat.mod_eq_of_lt h]

/-- Settles O11: each index of the table reads its register; a ring register named by C, and an index of no row, is ILLOP. -/
theorem controlRegisterReads : Obligations.ControlRegisterReads := by
  intro s st d r g k hs hr hg hk
  refine ⟨fun c v hmem => exec_rdctl_of_some hs d ((?_ : ∀ e ∈ _, s.readCtl s.cur st e.1 = some e.2) _ hmem), fun n hn => ?_,
    fun n hn => ?_, fun c hc hwal hring => exec_rdctl_of_none hs d (s.readCtl_unlisted s.cur st hc hwal hring)⟩
  · simp only [List.forall_mem_cons, State.readCtl, State.rankField_eq hr, hg, hk, Strand.status, Strand.fpflagsWord,
      List.not_mem_nil, false_implies, implies_true, true_and, and_true]
    cases s.cur.strand <;> rfl
  · have hread := s.readCtl_wal s.cur st hn
    rw [State.rankField_eq hr, ← toNat_ofNat_ctl (m := 0x030 + n) (by omega)] at hread
    exact exec_rdctl_of_some hs d hread
  · have hread := s.readCtl_ring s.cur st hn
    rw [← toNat_ofNat_ctl (m := 0x070 + n) (by omega)] at hread
    split at hread
    · next hc => rw [if_pos hc, exec_rdctl_of_none hs d hread]
    · next hc => rw [if_neg hc, exec_rdctl_of_some hs d hread]

end Sys2Proof.Machine

/-! ### Rendezvous points (07 R189) -/

namespace Sys2Proof.Machine

section
variable {s : State} {st : Strand} {g : Gang} (hs : s.strand? s.cur = some st) (hg : s.gang? s.cur.vr s.cur.gang = some g)

include hg in
theorem State.withRv_eq (k : Nat) (f : RvPoint → State) : s.withRv k f = f (g.rv k) := by
  rw [State.withRv, hg]

include hs hg

theorem exec_rvinit_eq (a : BitVec 5) (c : BitVec 12) : exec (.rvinit a c) s = .next (
    if (g.rv a.toNat).count = 0 then (s.setRv a.toNat { g.rv a.toNat with count := c.toNat }).retire st
    else if (g.rv a.toNat).count = c.toNat then s.retire st
    else s.trap st 1 (s.wordVal (.rvinit a c))) := by
  rw [exec_rvinit, execRvinit, State.acting_eq hs, State.withRv_eq hg]
  rfl

theorem exec_rvarr_eq (a : BitVec 5) : exec (.rvarr a) s = .next (
    if (g.rv a.toNat).count = 0 then s.trap st 1 (s.wordVal (.rvarr a))
    else (s.setRv a.toNat (g.rv a.toNat).arrive).retire (st.arrived a.toNat (g.rv a.toNat).gen)) := by
  rw [exec_rvarr, execRvarr, State.acting_eq hs, State.withRv_eq hg]
  rfl

theorem exec_rvwait_uncounted {a : BitVec 5} (h : (g.rv a.toNat).count = 0) :
    exec (.rvwait a) s = .next (s.trap st 1 (s.wordVal (.rvwait a))) := by
  rw [exec_rvwait, execRvwait, State.acting_eq hs, State.withRv_eq hg, if_pos h]
  rfl

/-- RVWAIT of a strand that has arrived: it goes on once the generation is another. -/
theorem exec_rvwait_pending {a : BitVec 5} (h : (g.rv a.toNat).count ≠ 0) (hpend : st.rvPend[a.toNat]?.getD false = true) :
    exec (.rvwait a) s = .next (
      if st.rvGen[a.toNat]?.getD 0 = (g.rv a.toNat).gen then (s.modStrand s.cur fun _ => st).hold (.rendezvous a.toNat)
      else s.retire { st with rvPend := st.rvPend.setIfInBounds a.toNat false }) := by
  rw [exec_rvwait, execRvwait, State.acting_eq hs, State.withRv_eq hg, if_neg h]
  simp only [hpend, if_true]

end

/-- Settles O24: the rules above, one for each instruction. -/
theorem phaseStepFenceRendezvous : Obligations.PhaseStepFenceRendezvous := by
  intro s st g a hs hg n p wait setRv
  refine ⟨State.acting_eq hs _, State.acting_eq hs _, State.acting_eq hs _, exec_rvinit_eq hs hg a, fun hzero => ⟨?_, ?_⟩,
    fun hcount => ?_, fun hcount hpend hgen => ?_, fun hcount hpend hgen => ⟨_, exec_rvwait_pending hs hg hcount hpend, ?_⟩⟩
  · rw [exec_rvarr_eq hs hg, if_pos hzero]
  · exact exec_rvwait_uncounted hs hg hzero
  · rw [exec_rvarr_eq hs hg, if_neg hcount]
    rfl
  · rw [exec_rvwait_pending hs hg hcount hpend, if_neg hgen]
  · rw [if_pos hgen]
    exact ⟨State.strand?_hold ((State.strand?_modStrand _ _ _).trans (congrArg _ hs)) _, State.sameMemory_of_memories rfl⟩

/-! ### Markers and joins (07 R190 to R192) -/

section
variable {s : State} {st : Strand} {k : Core}

theorem State.withCore_eq (hk : s.core? s.cur = some k) (f : Core → State) : s.withCore f = f k := by
  rw [State.withCore, hk]

/-- The commands that a marker of the acting strand stands behind on an engine. -/
def State.aheadCmds (s : State) (e : Nat) : List Nat :=
  (s.cmds.filter fun c => c.by' == s.cur && c.engine == e).map fun c => c.id

section
variable (hs : s.strand? s.cur = some st) (hk : s.core? s.cur = some k) (b : XReg)
include hs hk

theorem exec_mark_engine (e : BitVec 6) (he : e.toNat < 33 ∨ e.toNat = 34 ∨ e.toNat = 33 ∧ st.sup = true) :
    exec (.mark b e) s = .next (s.retire { st with markers := st.markers ++
      [{ engine := e.toNat, num := (st.rx b).setWidth 16, cmds := s.aheadCmds e.toNat, streams := [] }] }) := by
  have hpriv : ¬ (e.toNat = 33 ∧ (!st.sup) = true) := by
    rintro ⟨h33, hsup⟩
    rcases he with h | h | ⟨-, h⟩
    · omega
    · omega
    · simp [h] at hsup
  rw [exec_mark, execMark, State.acting_eq hs, State.withCore_eq hk]
  simp only [hpriv, if_false, show e.toNat ≠ 35 by omega, show e.toNat ≠ 36 by omega, false_and, or_self]
  rfl

theorem exec_mark_loads (hstrand : s.cur.strand ≠ .s) : exec (.mark b 35) s = .next (s.retire { st with markers := st.markers ++
    [{ engine := 35, num := (st.rx b).setWidth 16, cmds := s.aheadCmds 35,
       streams := (([0, 1, 2, 3, 4, 5, 6, 7] : List Nat).filter fun z => (k.stream z).st == .running).map fun z =>
         (z, (k.stream z).serial) }] }) := by
  have hnum : (35 : BitVec 6).toNat = 35 := rfl
  rw [exec_mark, execMark, State.acting_eq hs, State.withCore_eq hk]
  simp only [hnum, hstrand, and_false, or_false, if_true, show ¬ (35 = 33 ∧ (!st.sup) = true) by omega,
    show ¬ (35 = 36 ∧ s.cur.strand = .l) by omega, if_false]
  rfl

end

theorem exec_mjoin_eq (hs : s.strand? s.cur = some st) (a b : XReg) (j : BitVec 3) (hmask : (st.rx a).toNat < 2 ^ 37)
    (hpriv : bitAt (st.rx a) 33 = true → st.sup = true) : exec (.mjoin a b j) s = .next (s.retire
      { st with joins := st.joins.setIfInBounds j.toNat (.armed (st.rx a) ((st.rx b).setWidth 16)) }.fireJoins) := by
  have hsup : ¬ (bitAt (st.rx a) 33 = true ∧ (!st.sup) = true) := by
    rintro ⟨hbit, hno⟩
    simp [hpriv hbit] at hno
  rw [exec_mjoin, execMjoin, State.acting_eq hs]
  simp only [(bitsAt_high_eq_zero_iff (st.rx a) (lo := 37) (n := 27) (by decide)).mpr hmask, ne_eq, not_true, if_false, hsup]

theorem exec_markerRetire_eq {r : SRef} {e : Nat} {m : Marker} (hr : s.strand? r = some st) (hk : s.core? r = some k)
    (hm : st.markers.find? (fun m => m.engine == e) = some m) : exec (.markerRetire r e) s = .next (
      if s.markerDone k m then s.modStrand r fun q => ({ q with markers := q.markers.erase m } : Strand).setRec e m.num else s) := by
  rw [exec_markerRetire, execMarkerRetire]
  simp only [hr, hk, hm]

theorem exec_mjtimeout_eq {r : SRef} {j : Nat} {mask : Word} {m : BitVec 16} (hr : s.strand? r = some st)
    (hwait : st.wait = some (.join j)) (hjoin : st.joins[j]?.getD .idle = .armed mask m) : exec (.mjtimeout r) s = .next (
      if st.waitiLeft ≠ 0 ∧ st.waitiLeft ≤ st.waited then s.trapEntry r 0xF (mjtimeoutVal j m) 0 0 0 st.pc else s) := by
  rw [exec_mjtimeout, execMjtimeout]
  simp only [hr, hwait, hjoin]

end

/-- Settles O25: the rules above; MWAIT by the state of its join. -/
theorem markersAndJoins : Obligations.MarkersAndJoins := by
  intro s st k hs hk
  refine ⟨fun b e => exec_mark_engine hs hk b e, fun b => exec_mark_loads hs hk b, fun a b j => exec_mjoin_eq hs a b j,
    fun a b j => ?_, fun r sr kr e m => exec_markerRetire_eq, fun r sr j mask m => exec_mjtimeout_eq⟩
  rw [exec_mwait, execMwait, State.acting_eq hs]
  cases st.joins[j.toNat]?.getD .idle with
  | idle => rfl
  | fired ab => rfl
  | armed mask m =>
    dsimp only
    rw [bitsAt_zero_eq]
    rfl

end Sys2Proof.Machine

/-! ### Queues (07 R184, R185; 02 R57, R58) -/

namespace Sys2Proof.Machine

theorem queueVal_queue (n : Nat) (tail head : BitVec 16) :
    queueVal false n tail head = BitVec.ofNat 64 (n * 2 ^ 32 + tail.toNat * 2 ^ 16 + head.toNat) := by
  simp [queueVal]

theorem queueVal_ring (n : Nat) (tail head : BitVec 16) :
    queueVal true n tail head = BitVec.ofNat 64 (2 ^ 40 + n * 2 ^ 32 + tail.toNat * 2 ^ 16 + head.toNat) := rfl

section
variable {s : State} {st : Strand} (hs : s.strand? s.cur = some st)
include hs

/-- A push to a queue that the strand may not write is ILLOP. -/
theorem exec_qpush_foreign {i : BitVec 4} (h : s.cur.strand ≠ .l ∨ i.toNat ≠ 12 ∧ i.toNat ≠ 13) (d : XReg) :
    exec (.qpush d false i) s = .next (s.trap st 1 (s.wordVal (.qpush d false i))) := by
  rw [exec_qpush, execQpush, State.acting_eq hs]
  dsimp only
  rw [if_neg (by decide), if_pos (by simpa using h)]
  rfl

/-- A pop or a peek of a queue that the strand may not read is ILLOP. -/
theorem State.takeEntry_foreign {n : Nat} (h : s.cur.strand ≠ .s ∨ n ≠ 14 ∧ n ≠ 15) (instr : Instr) (d : XReg) (pop : Bool) :
    s.takeEntry instr d false n pop = .next (s.trap st 1 (s.wordVal instr)) := by
  rw [State.takeEntry, State.acting_eq hs, if_neg (by decide), if_pos (by simpa using h)]
  rfl

variable {k : Core} (hk : s.core? s.cur = some k)
include hk

theorem exec_qpush_queue {i : BitVec 4} (hl : s.cur.strand = .l) (hi : i.toNat = 12 ∨ i.toNat = 13) (d : XReg) :
    exec (.qpush d false i) s = .next (
      if 16 ≤ (k.squeue i.toNat).ents.length then s.hold (.queue i.toNat)
      else if (k.squeue i.toNat).closed then
        s.trap st 6 (queueVal false i.toNat (k.squeue i.toNat).tail (k.squeue i.toNat).head)
      else (s.modCore s.cur fun k' =>
        { k'.setSqueue i.toNat { k.squeue i.toNat with
            ents := (k.squeue i.toNat).ents ++ [{ id := k'.nextId, landed := true, data := st.rx d }] } with
          nextId := k'.nextId + 1 }).retire st) := by
  rw [exec_qpush, execQpush, State.acting_eq hs]
  dsimp only
  rw [if_neg (by decide), if_neg (by simp [hl]; omega), State.withCore_eq hk]
  rfl

section
variable {n : Nat} (hstrand : s.cur.strand = .s) (hn : n = 14 ∨ n = 15) (hfree : k.indexBound n = false) (instr : Instr) (d : XReg)
  (pop : Bool)
include hstrand hn hfree

/-- A pop or a peek of a landed head that no gather reads. -/
theorem State.takeEntry_landed {e : SEntry} {rest : List SEntry} (hents : (k.squeue n).ents = e :: rest) (hland : e.landed = true) :
    s.takeEntry instr d false n pop = .next
      ((if pop then s.modCore s.cur fun k' => k'.setSqueue n { k.squeue n with head := (k.squeue n).head + 1, ents := rest }
        else s).retire (st.wx d e.data)) := by
  rw [State.takeEntry, State.acting_eq hs, if_neg (by decide), if_neg (by simp [hstrand]; omega), State.withCore_eq hk]
  simp only [hfree, hents, hland, Bool.not_true, Bool.false_eq_true, if_false]

theorem State.takeEntry_empty (hents : (k.squeue n).ents = []) : s.takeEntry instr d false n pop = .next
    (if (k.squeue n).closed && k.c.ended then s.trap st 6 (queueVal false n (k.squeue n).tail (k.squeue n).head)
      else s.hold (.queue n)) := by
  rw [State.takeEntry, State.acting_eq hs, if_neg (by decide), if_neg (by simp [hstrand]; omega), State.withCore_eq hk]
  simp only [hfree, hents, Bool.false_eq_true, if_false]

end

theorem exec_qclose_scalar {i : BitVec 4} (hl : s.cur.strand = .l) (hi : i.toNat = 12 ∨ i.toNat = 13) : exec (.qclose i) s =
    .next ((s.modCore s.cur fun k' => k'.setSqueue i.toNat { k'.squeue i.toNat with closed := true }).retire st) := by
  rw [exec_qclose, execQclose, State.acting_eq hs, State.withCore_eq hk]
  dsimp only
  rw [if_neg (not_not_intro hl), if_neg (by omega), if_pos hi]

theorem exec_qclose_tile {i : BitVec 4} (hl : s.cur.strand = .l) (hi : i.toNat < 8) (hfree : k.tileBound i.toNat = false) :
    exec (.qclose i) s =
    .next ((s.modCore s.cur fun k' => k'.setTqueue i.toNat { k'.tqueue i.toNat with closed := true }).retire st) := by
  rw [exec_qclose, execQclose, State.acting_eq hs, State.withCore_eq hk]
  dsimp only
  rw [if_neg (not_not_intro hl), if_pos hi, if_neg (by simp [hfree])]

end

/-- Settles O19: the rules above, each queue by its strand, its entries and its end. -/
theorem scalarQueueOperations : Obligations.ScalarQueueOperations := by
  intro s st k i hs hk n q full wait
  have hfull : queueVal false n q.tail q.head = full := queueVal_queue n q.tail q.head
  refine ⟨fun d hl hn => ?_, fun hstrand hn hfree d => ⟨fun e rest hents hland => ⟨?_, ?_⟩, fun hents hover => ?_, fun hents hopen => ?_⟩,
    fun hl hn => exec_qclose_scalar hs hk hl hn, fun hl hn hfree => exec_qclose_tile hs hk hl hn hfree,
    fun d h => exec_qpush_foreign hs h d,
    fun d h => ⟨State.takeEntry_foreign hs h _ d true, State.takeEntry_foreign hs h _ d false⟩⟩
  · rw [exec_qpush_queue hs hk hl hn, hfull]
    rfl
  · exact State.takeEntry_landed hs hk hstrand hn hfree _ d true hents hland
  · exact State.takeEntry_landed hs hk hstrand hn hfree _ d false hents hland
  · have hrule : ∀ instr pop, s.takeEntry instr d false n pop = .next (s.trap st 6 full) := fun instr pop => by
      rw [State.takeEntry_empty hs hk hstrand hn hfree _ _ _ hents, if_pos hover, hfull]
    exact ⟨hrule _ true, hrule _ false⟩
  · have hrule : ∀ instr pop, s.takeEntry instr d false n pop = .next wait := fun instr pop => by
      rw [State.takeEntry_empty hs hk hstrand hn hfree _ _ _ hents, if_neg (by simpa using hopen)]
      rfl
    exact ⟨hrule _ true, hrule _ false⟩

/-! ### Rings (07 R186; 02 R59) -/

theorem ringFull_iff (w : Word) : ringFull w = true ↔ (ringTail w - ringHead w).toNat = 2 ^ ringLogn w := beq_iff_eq

theorem ringCount_eq_zero_iff (w : Word) : ringCount w = 0 ↔ ringTail w = ringHead w := by
  rw [ringCount, ← BitVec.toNat_zero, BitVec.toNat_inj, BitVec.sub_eq_iff_eq_add, BitVec.zero_add]

section
variable {s : State} {st : Strand} (hs : s.strand? s.cur = some st) {n : Nat}

theorem State.withRing_off (h : ringLogn (s.ring s.cur.vr s.cur.core n) = 0) (i : Instr) (f : Word → State) :
    s.withRing st i n f = s.trap st 1 (s.wordVal i) := if_pos h

theorem State.withRing_on (h : ringLogn (s.ring s.cur.vr s.cur.core n) ≠ 0) (i : Instr) (f : Word → State) :
    s.withRing st i n f = f (s.ring s.cur.vr s.cur.core n) := if_neg h

theorem State.ringAccess_ok {w : Word} (h : ringAreaOk s.cur.core (s.gangCores s.cur) w = true) (i : BitVec 16) (f : Nat → State) :
    s.ringAccess st w i f = f (ringSlot w i) := if_pos h

include hs

theorem exec_qpush_ring (d : XReg) (i : BitVec 4) : exec (.qpush d true i) s = .next (
    s.withRing st (.qpush d true i) i.toNat fun w =>
      if ringFull w then s.hold (.ring i.toNat true)
      else s.ringAccess st w (ringTail w) fun a =>
        ((s.ringWrite s.cur.vr s.cur.core a (st.rx d)).setRing s.cur.vr s.cur.core i.toNat
          (ringWithTail w (ringTail w + 1))).retire st) :=
  State.acting_eq hs _

theorem State.takeEntry_ring (instr : Instr) (d : XReg) (pop : Bool) : s.takeEntry instr d true n pop = .next (
    s.withRing st instr n fun w =>
      if ringCount w = 0 then s.hold (.ring n false)
      else s.ringAccess st w (ringHead w) fun a =>
        (if pop then s.setRing s.cur.vr s.cur.core n (ringWithHead w (ringHead w + 1)) else s).retire
          (st.wx d (s.ringRead s.cur.vr s.cur.core a))) :=
  State.acting_eq hs _

theorem State.takeEntry_ring_off (h : ringLogn (s.ring s.cur.vr s.cur.core n) = 0) (instr : Instr) (d : XReg) (pop : Bool) :
    s.takeEntry instr d true n pop = .next (s.trap st 1 (s.wordVal instr)) := by
  rw [State.takeEntry_ring hs, State.withRing_off h]

variable (hon : ringLogn (s.ring s.cur.vr s.cur.core n) ≠ 0)
include hon

theorem State.takeEntry_ring_empty (h : ringTail (s.ring s.cur.vr s.cur.core n) = ringHead (s.ring s.cur.vr s.cur.core n))
    (instr : Instr) (d : XReg) (pop : Bool) : s.takeEntry instr d true n pop = .next (s.hold (.ring n false)) := by
  rw [State.takeEntry_ring hs, State.withRing_on hon, if_pos ((ringCount_eq_zero_iff _).mpr h)]

theorem State.takeEntry_ring_entry (h : ringTail (s.ring s.cur.vr s.cur.core n) ≠ ringHead (s.ring s.cur.vr s.cur.core n))
    (harea : ringAreaOk s.cur.core (s.gangCores s.cur) (s.ring s.cur.vr s.cur.core n) = true)
    (instr : Instr) (d : XReg) (pop : Bool) : s.takeEntry instr d true n pop = .next (
      let w := s.ring s.cur.vr s.cur.core n
      (if pop then s.setRing s.cur.vr s.cur.core n (ringWithHead w (ringHead w + 1)) else s).retire
        (st.wx d (s.ringRead s.cur.vr s.cur.core (ringSlot w (ringHead w))))) := by
  rw [State.takeEntry_ring hs, State.withRing_on hon, if_neg (mt (ringCount_eq_zero_iff _).mp h), State.ringAccess_ok harea]

end

/-- Settles O20: an unconfigured ring is ILLOP, else the entries decide. -/
theorem ringOperations : Obligations.RingOperations := by
  intro s st d i hs n w wait
  refine ⟨fun hoff => ?_, fun hon hfull => ?_, fun hon hempty => ⟨?_, ?_⟩, fun hon harea => ⟨fun hroom => ?_, fun hentry => ?_⟩⟩
  · simp only [List.forall_mem_cons, List.not_mem_nil, false_implies, implies_true, and_true]
    refine ⟨?_, State.takeEntry_ring_off hs hoff _ d true, State.takeEntry_ring_off hs hoff _ d false⟩
    rw [exec_qpush_ring hs, State.withRing_off hoff]
  · rw [exec_qpush_ring hs, State.withRing_on hon, if_pos ((ringFull_iff w).mpr hfull)]
    rfl
  · exact State.takeEntry_ring_empty hs hon hempty _ d true
  · exact State.takeEntry_ring_empty hs hon hempty _ d false
  · rw [exec_qpush_ring hs, State.withRing_on hon, if_neg (mt (ringFull_iff w).mp hroom), State.ringAccess_ok harea]
    rfl
  · exact ⟨State.takeEntry_ring_entry hs hon hentry harea _ d true, State.takeEntry_ring_entry hs hon hentry harea _ d false⟩

/-! ### QWAIT and QTIMEOUT (07 R187; 12 R304) -/

section
variable {s : State} {st : Strand} (hs : s.strand? s.cur = some st)
include hs

section
variable {k : Core} (hk : s.core? s.cur = some k) {n : Nat} (instr : Instr) (limit : Nat)
include hk

theorem State.queueWait_room (hl : s.cur.strand = .l) (hn : n = 12 ∨ n = 13) : s.queueWait instr false n limit true = .next (
    if (k.squeue n).ents.length < 16 then s.retire st
    else if (k.squeue n).closed then s.trap st 6 (queueVal false n (k.squeue n).tail (k.squeue n).head)
    else if st.expired limit then s.trap st 5 (queueVal false n (k.squeue n).tail (k.squeue n).head)
    else s.holdFor (.queue n) limit) := by
  rw [State.queueWait, State.acting_eq hs, if_neg (by decide), if_neg (by simp [hl]; omega), if_neg (by simp),
    State.withCore_eq hk]
  simp [scalarDepth]

theorem State.queueWait_data (hstrand : s.cur.strand = .s) (hn : n = 14 ∨ n = 15) :
    s.queueWait instr false n limit false = .next (
    if (k.squeue n).ents ≠ [] then s.retire st
    else if (k.squeue n).closed && k.c.ended then s.trap st 6 (queueVal false n (k.squeue n).tail (k.squeue n).head)
    else if st.expired limit then s.trap st 5 (queueVal false n (k.squeue n).tail (k.squeue n).head)
    else s.holdFor (.queue n) limit) := by
  rw [State.queueWait, State.acting_eq hs, if_neg (by decide), if_neg (by simp), if_neg (by simp [hstrand]; omega),
    State.withCore_eq hk]
  simp

end

theorem State.queueWait_ring {n : Nat} (hon : ringLogn (s.ring s.cur.vr s.cur.core n) ≠ 0) (instr : Instr) (limit : Nat) (room : Bool) :
    s.queueWait instr true n limit room = .next (
      let w := s.ring s.cur.vr s.cur.core n
      if (if room then !ringFull w else ringCount w != 0) then s.retire st
      else if st.expired limit then s.trap st 5 (queueVal true n (ringTail w) (ringHead w))
      else s.holdFor (.ring n room) limit) := by
  rw [State.queueWait, State.acting_eq hs, if_pos rfl, State.withRing_on hon]

end

theorem ringReady_iff (w : Word) (room : Bool) : ringReady w room = true ↔
    ringLogn w = 0 ∨ (if room then (ringTail w - ringHead w).toNat ≠ 2 ^ ringLogn w else ringTail w ≠ ringHead w) := by
  cases room
  · simp [ringReady, ringCount_eq_zero_iff]
  · simp [ringReady, ringFull, ringCount]

section
variable {s : State} {r : SRef} {st : Strand} {k : Core} (hr : s.strand? r = some st) (hk : s.core? r = some k)
include hr hk

theorem exec_qtimeout_early (h : st.waitiLeft = 0 ∨ st.waited < st.waitiLeft) : exec (.qtimeout r) s = .next s := by
  rw [exec_qtimeout, execQtimeout]
  simp only [hr, hk, if_pos h]

theorem exec_qtimeout_queue {m : Nat} (hwait : st.wait = some (.queue m)) (hleft : st.waitiLeft ≠ 0) (hdue : st.waitiLeft ≤ st.waited) :
    exec (.qtimeout r) s = .next (if k.queueReady r.strand m then s
      else s.trapEntry r 5 (queueVal false m (k.squeue m).tail (k.squeue m).head) 0 0 0 st.pc) := by
  rw [exec_qtimeout, execQtimeout]
  simp only [hr, hk, hwait, if_neg (show ¬ (st.waitiLeft = 0 ∨ st.waited < st.waitiLeft) by omega)]

theorem exec_qtimeout_ring {m : Nat} {room : Bool} (hwait : st.wait = some (.ring m room)) (hleft : st.waitiLeft ≠ 0)
    (hdue : st.waitiLeft ≤ st.waited) : exec (.qtimeout r) s = .next (if ringReady (s.ring r.vr r.core m) room then s
      else s.trapEntry r 5 (queueVal true m (ringTail (s.ring r.vr r.core m)) (ringHead (s.ring r.vr r.core m))) 0 0 0 st.pc) := by
  rw [exec_qtimeout, execQtimeout]
  simp only [hr, hk, hwait, if_neg (show ¬ (st.waitiLeft = 0 ∨ st.waited < st.waitiLeft) by omega)]

end

/-- Settles O21: the rules above; at the limit the readiness of the object decides. -/
theorem queueWaitsAndTimeout : Obligations.QueueWaitsAndTimeout := by
  intro s st k i l hs hk n q w wait
  refine ⟨fun hl hn => ⟨fun hroom => ?_, fun hfull hopen hlimit => ?_⟩, fun hstrand hn => ⟨fun hents => ?_, fun hents hopen hlimit => ?_⟩,
    fun hon => ⟨fun hroom => ?_, fun hentry => ?_, fun hempty hlimit => ?_⟩, fun r sr kr m hr hkr hwait => ⟨fun hleft hdue hno => ?_, fun h => ?_⟩,
    fun r sr m room hr hkr hwait => ?_⟩
  · rw [exec_qwaitRoom, execQwaitRoom, State.queueWait_room hs hk _ _ hl hn, if_pos hroom]
  · rw [exec_qwaitRoom, execQwaitRoom, State.queueWait_room hs hk _ _ hl hn, if_neg (Nat.not_lt.mpr hfull), if_neg (by simpa using hopen),
      if_neg (by simpa using hlimit)]
    rfl
  · rw [exec_qwaitData, execQwaitData, State.queueWait_data hs hk _ _ hstrand hn, if_pos hents]
  · rw [exec_qwaitData, execQwaitData, State.queueWait_data hs hk _ _ hstrand hn, if_neg (not_not_intro hents),
      if_neg (by simpa using hopen), if_neg (by simpa using hlimit)]
    rfl
  · rw [exec_qwaitRoom, execQwaitRoom, State.queueWait_ring hs hon]
    exact congrArg _ (if_pos (by simpa [ringFull, ringCount] using hroom))
  · rw [exec_qwaitData, execQwaitData, State.queueWait_ring hs hon]
    exact congrArg _ (if_pos (by simpa [ringCount_eq_zero_iff] using hentry))
  · rw [exec_qwaitData, execQwaitData, State.queueWait_ring hs hon]
    exact congrArg _ ((if_neg (by simpa [ringCount_eq_zero_iff] using hempty)).trans (if_neg (by simpa using hlimit)))
  · rw [exec_qtimeout_queue hr hkr hwait hleft hdue, if_neg (by simpa using hno), queueVal_queue]
    rfl
  · by_cases hdue : sr.waitiLeft = 0 ∨ sr.waited < sr.waitiLeft
    · exact exec_qtimeout_early hr hkr hdue
    · rw [exec_qtimeout_queue hr hkr hwait (by omega) (by omega), if_pos (by tauto)]
  · obtain ⟨kr, hkr⟩ := Option.isSome_iff_exists.mp hkr
    intro w ready
    refine ⟨fun hleft hdue hno => ?_, fun h => ?_⟩
    · rw [exec_qtimeout_ring hr hkr hwait hleft hdue, if_neg (mt (ringReady_iff _ _).mp hno), queueVal_ring]
    · by_cases hdue : sr.waitiLeft = 0 ∨ sr.waited < sr.waitiLeft
      · exact exec_qtimeout_early hr hkr hdue
      · rw [exec_qtimeout_ring hr hkr hwait (by omega) (by omega), if_pos ((ringReady_iff _ _).mpr (by tauto))]

end Sys2Proof.Machine

/-! ### Handle operands (02 R45; 04 R106, R107; 07 R176, R182) -/

namespace Sys2Proof.Machine

theorem handleOffset_eq (x : Word) (o : BitVec 10) (sz : Nat) : handleOffset x o sz = x + BitVec.ofNat 64 (o.toNat * 2 ^ sz) := by
  rw [handleOffset, BitVec.ofNat_mul, ← eq_ofNat_toNat (zextImm o) (toNat_zextImm o (by decide))]

section
variable {s : State} (st : Strand) (i : Instr) {h : Nat} (f : Handle → State)

theorem State.withHandle_foreign (hown : ownsHalf s.cur.strand h = false) : s.withHandle st i h f = s.trap st 1 (s.wordVal i) := by
  rw [State.withHandle, if_pos (by simpa using hown)]
  rfl

section
variable {st} (hown : ownsHalf s.cur.strand h = true)
include hown

theorem State.withHandle_pending (hpend : st.handlePending h = true) : s.withHandle st i h f = s.hold (.handle h) := by
  rw [State.withHandle, if_neg (by simpa using hown), if_pos hpend]

theorem State.withHandle_own {k : Core} (hpend : st.handlePending h = false) (hk : s.core? s.cur = some k) :
    s.withHandle st i h f = f (k.handle h) := by
  rw [State.withHandle, if_neg (by simpa using hown), if_neg (by simpa using hpend), hk]

end

end

/-! ### The checks of a handle access (07 R176) -/

section
variable (hd : Handle) (idx : Nat) (need : Perm) (po : Word) (n al : Nat)

theorem Handle.violation_stale (h : hd.valid = false) : hd.violation idx need po n al = some (9, stalehVal idx hd, 0) := by
  simp [Handle.violation, h]

variable {hd need} (hvalid : hd.valid = true)
include hvalid

theorem Handle.violation_perm (h : bitAt hd.perm need.bit = false) :
    hd.violation idx need po n al = some (8, BitVec.ofNat 64 hd.va + po, need.detail) := by
  simp [Handle.violation, hvalid, h]

variable {po n} (hperm : bitAt hd.perm need.bit = true)
include hperm

theorem Handle.violation_page (h : pageSize hd.large < po.toNat + n) :
    hd.violation idx need po n al = some (7, BitVec.ofNat 64 hd.va + po, 1) := by
  simp [Handle.violation, hvalid, hperm, h]

variable {al} (hpage : po.toNat + n ≤ pageSize hd.large)
include hpage

theorem Handle.violation_align (h : po.toNat % al ≠ 0) :
    hd.violation idx need po n al = some (0xA, BitVec.ofNat 64 hd.va + po, 0) := by
  simp [Handle.violation, hvalid, hperm, Nat.not_lt.mpr hpage, h]

theorem Handle.violation_none (h : po.toNat % al = 0) : hd.violation idx need po n al = none := by
  simp [Handle.violation, hvalid, hperm, Nat.not_lt.mpr hpage, h]

end

section
variable {s : State} {st : Strand} {k : Core} {h : Nat} (hown : ownsHalf s.cur.strand h = true) (hpend : st.handlePending h = false)
  (hk : s.core? s.cur = some k) (i : Instr) {need : Perm} {po : Word} {n al : Nat} (f : Handle → State)
include hown hpend hk

theorem State.handleAccess_violation {c dt : Nat} {v : Word} (hv : (k.handle h).violation h need po n al = some (c, v, dt)) :
    s.handleAccess st i h need po n al f = s.trap st c v dt := by
  rw [State.handleAccess, State.withHandle_own i _ hown hpend hk, hv]

theorem State.handleAccess_ok (hv : (k.handle h).violation h need po n al = none) :
    s.handleAccess st i h need po n al f = f (k.handle h) := by
  rw [State.handleAccess, State.withHandle_own i _ hown hpend hk, hv]

end

/-- LD and ST are accesses through a handle with the offset of the statement; what they do when it passes is their own. -/
theorem exec_handleAccess {s : State} {st : Strand} (hs : s.strand? s.cur = some st) (d : XReg) (h : HReg) (x : XReg) (sz : BitVec 2)
    (o : BitVec 10) {i : Instr} {bit detail : Nat}
    (hi : i = .ld d h x sz o ∧ bit = 3 ∧ detail = 1 ∨ i = .st d h x sz o ∧ bit = 2 ∧ detail = 2) :
    ∃ (need : Perm) (f : Handle → State), need.bit = bit ∧ need.detail = detail ∧ exec i s = .next
      (s.handleAccess st i h.toNat need (st.rx x + BitVec.ofNat 64 (o.toNat * 2 ^ sz.toNat)) (2 ^ sz.toNat) (2 ^ sz.toNat) f) := by
  rw [← handleOffset_eq]
  obtain ⟨rfl, rfl, rfl⟩ | ⟨rfl, rfl, rfl⟩ := hi
  · exact ⟨.r, _, rfl, rfl, State.acting_eq hs _⟩
  · exact ⟨.w, _, rfl, rfl, State.acting_eq hs _⟩

/-- Settles O16: ownership and an outstanding XLATE come first, then the checks of the handle in their order. -/
theorem handleCheckOrder : Obligations.HandleCheckOrder := by
  intro s st k d h x sz o hs hk hd n po va i bit detail hi
  obtain ⟨need, f, rfl, rfl, hexec⟩ := exec_handleAccess hs d h x sz o hi
  rw [hexec]
  refine ⟨fun hown => congrArg _ (State.withHandle_foreign st i _ hown),
    fun hown hpend => congrArg _ (State.withHandle_pending i _ hown hpend), fun hown hpend => ?_⟩
  have htrap : ∀ {c v dt}, hd.violation h.toNat need po n n = some (c, v, dt) →
      Host.Outcome.next (s.handleAccess st i h.toNat need po n n f) =
        (.next (s.trap st c v dt) : Host.Outcome State Fault Refusal) :=
    fun hv => congrArg _ (State.handleAccess_violation hown hpend hk i f hv)
  exact ⟨fun hvalid => htrap (hd.violation_stale _ _ _ _ _ hvalid), fun hvalid hperm => htrap (Handle.violation_perm _ _ _ _ hvalid hperm),
    fun hvalid hperm hpage => htrap (Handle.violation_page _ _ hvalid hperm hpage),
    fun hvalid hperm hpage hal => htrap (Handle.violation_align _ hvalid hperm hpage hal)⟩

/-! ### Accesses through a handle that pass (07 R176 to R180) -/

theorem State.spoil_state (s : State) (r : SRef) (d : StoreTo) (bs : List Byte) :
    ∃ (free : Nat) (cmds : List Cmd), (s.spoil r d bs).2 = { s with free := free, cmds := cmds } := by
  unfold State.spoil
  split
  · exact ⟨s.free, s.cmds, rfl⟩
  · exact ⟨_, _, rfl⟩

theorem State.spoil_length (s : State) (r : SRef) (d : StoreTo) (bs : List Byte) : (s.spoil r d bs).1.length = bs.length := by
  unfold State.spoil
  split
  · rfl
  · simp [State.openOwn]

section
variable {s : State} {r : SRef} (h : s.NoCmds r) (d : StoreTo) (bs : List Byte)
include h

theorem State.spoil_bytes_of_noCmds : (s.spoil r d bs).1 = bs := by
  unfold State.spoil
  split
  · rfl
  · simp [State.openOwn, State.raced, State.coreCmds_of_noCmds h]

theorem State.spoil_state_of_noCmds : (s.spoil r d bs).2 = { s with free := (s.spoil r d bs).2.free } := by
  unfold State.spoil
  split
  · rfl
  · dsimp only
    congr 1
    refine (List.map_congr_left fun c hc => if_neg fun hmine => h c hc ?_).trans (List.map_id' _)
    simp only [Bool.and_eq_true, beq_iff_eq] at hmine
    obtain ⟨⟨⟨⟨hvr, hgang⟩, hcore⟩, -⟩, -⟩ := hmine
    exact ⟨hvr, hgang, hcore⟩

end

/-- A store under the engine commands of its core: as many bytes, a state that differs in the count of free values and the commands'
records alone, and without such commands the bytes themselves (05 R131). -/
theorem State.spoil_spec (s : State) (r : SRef) (d : StoreTo) (bs : List Byte) : ∃ bs' t, s.spoil r d bs = (bs', t) ∧
    bs'.length = bs.length ∧ t.cur = s.cur ∧ t.ranks = s.ranks ∧ t.slots = s.slots ∧ t.mem = s.mem ∧
    (s.NoCmds r → bs' = bs ∧ t = ({ s with free := t.free } : State)) := by
  obtain ⟨free, cmds, hstate⟩ := s.spoil_state r d bs
  refine ⟨(s.spoil r d bs).1, (s.spoil r d bs).2, rfl, s.spoil_length r d bs, by rw [hstate], by rw [hstate], by rw [hstate], by rw [hstate],
    fun hno => ⟨State.spoil_bytes_of_noCmds hno d bs, State.spoil_state_of_noCmds hno d bs⟩⟩

/-- The store of the acting strand that goes into the buffer once its bytes are settled. -/
theorem State.bufferStore_spoiled {s t : State} {dst : StoreTo} {bs bs' : List Byte} (hspoil : s.spoil s.cur dst bs = (bs', t))
    (hcur : t.cur = s.cur) (st : Strand) (va : Word) :
    (let (bs, s) := s.spoil s.cur dst bs
     (s.bufferStore s.cur.vr { core := s.cur.core, strand := s.cur.strand, gang := s.cur.gang, dst := dst, bytes := bs,
                               va := va }).retire st) =
      (t.bufferStore s.cur.vr { core := s.cur.core, strand := s.cur.strand, gang := s.cur.gang, dst := dst, bytes := bs',
                                va := va }).retire st := by
  rw [hspoil]
  simp only [hcur]

/-- Settles O15: an access that passes its checks goes in flight, a store into the buffer, at the place that the aperture names. -/
theorem handleAccessesIssue : Obligations.HandleAccessesIssue := by
  intro s st k h x hs hk hown hpend hd ok goal dest acc
  have hpass : ∀ (i : Instr) (need : Perm) (po : Word) (n : Nat) (f : Handle → State), ok need.bit po.toNat n →
      s.handleAccess st i h.toNat need po n n f = f hd := by
    rintro i need po n f ⟨hvalid, hperm, hpage, hal⟩
    exact State.handleAccess_ok hown hpend hk i f (Handle.violation_none _ hvalid hperm hpage hal)
  refine ⟨fun d sz o => ?_, fun d v op w hok => ⟨?_, ?_⟩, fun v g => ⟨fun hok => ?_, fun hok => ?_⟩⟩
  · intro n po
    refine ⟨fun hok => ?_, fun hok => ?_⟩
    · obtain ⟨bs, t, hspoil, hlen, hcur, hranks, hslots, hmem, hno⟩ := s.spoil_spec s.cur (dest po) (lowBytes (st.rx d) n)
      refine ⟨t, bs, ?_, hlen.trans (length_leBytes _ _), hranks, hslots, hmem, hno⟩
      rw [exec_st, execSt, State.acting_eq hs, handleOffset_eq, hpass _ .w po n _ hok]
      exact congrArg _ (State.bufferStore_spoiled hspoil hcur st _)
    · rw [exec_ld, execLd, State.acting_eq hs, handleOffset_eq, hpass _ .r po n _ hok]
      rfl
  · rw [exec_atom, execAtom, State.acting_eq hs, hpass _ .a _ _ _ hok]
    rfl
  · rw [exec_acas, execAcas, State.acting_eq hs, hpass _ .a _ _ _ hok]
    rfl
  · rw [exec_fxadd, execFxadd, State.acting_eq hs, hpass _ .a _ _ _ hok]
    rfl
  · rw [exec_fxrd, execFxrd, State.acting_eq hs, hpass _ .r _ _ _ hok]
    rfl

end Sys2Proof.Machine

/-! ### XLATE and its delivery (07 R181, R182; 13 R320, R326, R330) -/

namespace Sys2Proof.Machine

theorem State.notify_cur (s : State) (n : BitVec 1024) : (s.notify n).cur = s.cur := by
  unfold State.notify
  split <;> rfl

theorem State.pageGang_cur (s : State) (r : SRef) (va detail : Nat) (pc : Word) : (s.pageGang r va detail pc).cur = s.cur := by
  unfold State.pageGang
  split
  · dsimp only
    split <;> split
    · rfl
    · exact State.notify_cur _ _
    · rfl
    · exact State.notify_cur _ _
  · rfl

/-- What XLATE does once its walk has found something. -/
def State.xlateWalked (s : State) (st : Strand) (h : HReg) (va : Word) (p : BitVec 4) : WalkRes → State
  | .absent true => s.trap st 7 va 2
  | .badClass => s.trap st 7 va 3
  | .badFrame => s.trap st 7 va 2
  | .absent false => (s.pageGang s.cur va.toNat 2 st.pc).hold (.paging va (s.genOf s.cur.vr st.sup))
  | .leaf e at' large => match xlateDenied e p with
    | some dt => s.trap st 8 va dt
    | none =>
      let gen := s.genOf s.cur.vr st.sup
      (s.markLeaf at' (permW p || permA p)).retire
        { st with xlates := st.xlates ++ [{ pc := st.pc, h := h.toNat, va := va, perm := p, left := 6, gen := gen,
                                            handle := handleOf e large va.toNat p gen st.sup }] }

/-- What a delivery does whose walk has started again. -/
def State.xlateRewalked (s : State) (r : SRef) (st : Strand) (h : Nat) (x : XlateWork) : WalkRes → State :=
  let gone := s.modStrand r fun q => { q with xlates := q.xlates.filter fun y => y.h != h }
  let gen := s.genOf r.vr st.sup
  fun
  | .leaf e at' large => match xlateDenied e x.perm with
    | some dt => gone.trapEntry r 8 x.va dt 0 0 x.pc
    | none => (gone.markLeaf at' (permW x.perm || permA x.perm)).modCore r fun k =>
        k.setHandle h (handleOf e large x.va.toNat x.perm gen st.sup)
  | .absent false => (s.pageGang r x.va.toNat 2 x.pc).modStrand r fun q =>
      { q with xlates := q.xlates.map fun y => if y.h = h then { y with gen := gen, handle := {} } else y
               wait := if q.wait = none then some (.paging x.va gen) else q.wait }
  | .absent true => gone.trapEntry r 7 x.va 2 0 0 x.pc
  | .badClass => gone.trapEntry r 7 x.va 3 0 0 x.pc
  | .badFrame => gone.trapEntry r 7 x.va 2 0 0 x.pc

section
variable {s : State} {st : Strand} {k : Core} {h : HReg} (hs : s.strand? s.cur = some st) (hk : s.core? s.cur = some k)
  (hown : ownsHalf s.cur.strand h.toNat = true) (hpend : st.handlePending h.toNat = false)
include hs hk hown hpend

theorem exec_xlate_own (a : XReg) (p : BitVec 4) : exec (.xlate h a p) s = .next (
    if 2 ^ 48 ≤ (st.rx a).toNat then s.trap st 7 (st.rx a) 4
    else s.xlateWalked st h (st.rx a) p (s.walkFor s.cur.vr st.sup (st.rx a).toNat)) := by
  rw [exec_xlate, execXlate, State.acting_eq hs, State.withHandle_own _ _ hown hpend hk]
  rfl

theorem exec_xlate_walk {a : XReg} (hlow : (st.rx a).toNat < 2 ^ 48) {w : WalkRes}
    (hw : s.walkFor s.cur.vr st.sup (st.rx a).toNat = w) (p : BitVec 4) :
    exec (.xlate h a p) s = .next (s.xlateWalked st h (st.rx a) p w) := by
  rw [exec_xlate_own hs hk hown hpend, if_neg (Nat.not_le.mpr hlow), hw]

theorem exec_hrel_own : exec (.hrel h) s =
    .next ((s.modCore s.cur fun k' => k'.setHandle h.toNat { k.handle h.toNat with valid := false }).retire st) := by
  rw [exec_hrel, execHrel, State.acting_eq hs, State.withHandle_own _ _ hown hpend hk]

theorem exec_hchk_own (p : PReg) : exec (.hchk h p) s = .next (s.retire (st.wp p (k.handle h.toNat).valid)) := by
  rw [exec_hchk, execHchk, State.acting_eq hs, State.withHandle_own _ _ hown hpend hk]

theorem exec_hmov_own (h' : HReg) : exec (.hmov h h') s = .next (s.withHandle st (.hmov h h') h'.toNat fun hd =>
    (s.modCore s.cur fun k' => k'.setHandle h.toNat hd).retire st) := by
  rw [exec_hmov, execHmov, State.acting_eq hs, State.withHandle_own _ _ hown hpend hk]

end

/-- Every instruction of the group names its handle before anything else. -/
theorem exec_namesHandle {s : State} {st : Strand} (hs : s.strand? s.cur = some st) (h : HReg) {i : Instr}
    (hi : i = .hrel h ∨ (∃ a p, i = .xlate h a p) ∨ (∃ p, i = .hchk h p) ∨ ∃ h', i = .hmov h h') :
    ∃ f, exec i s = .next (s.withHandle st i h.toNat f) := by
  obtain rfl | ⟨a, p, rfl⟩ | ⟨p, rfl⟩ | ⟨h', rfl⟩ := hi <;> exact ⟨_, State.acting_eq hs _⟩

section
variable {s : State} {r : SRef} {n : Nat}

theorem exec_xlateDeliver_gone (hr : s.strand? r = none) : exec (.xlateDeliver r n) s = .next s := by
  rw [exec_xlateDeliver, execXlateDeliver, hr]

variable {st : Strand} (hr : s.strand? r = some st)
include hr

theorem exec_xlateDeliver_none (hx : st.xlates.find? (fun y => y.h == n) = none) : exec (.xlateDeliver r n) s = .next s := by
  rw [exec_xlateDeliver, execXlateDeliver, hr]
  simp only [hx]

theorem exec_xlateDeliver_some {x : XlateWork} (hx : st.xlates.find? (fun y => y.h == n) = some x) :
    exec (.xlateDeliver r n) s = .next (if x.left ≠ 0 then s else if s.genOf r.vr st.sup = x.gen then
        (if x.handle.valid then (s.modStrand r fun q => { q with xlates := q.xlates.filter fun y => y.h != n }).modCore r fun k =>
          k.setHandle n x.handle else s)
      else s.xlateRewalked r st n x (s.walkFor r.vr st.sup x.va.toNat)) := by
  rw [exec_xlateDeliver, execXlateDeliver, hr]
  simp only [hx]
  rfl

theorem exec_xlateDeliver_rewalk {x : XlateWork} (hx : st.xlates.find? (fun y => y.h == n) = some x) (hleft : x.left = 0)
    (hgen : s.genOf r.vr st.sup ≠ x.gen) {w : WalkRes} (hw : s.walkFor r.vr st.sup x.va.toNat = w) :
    exec (.xlateDeliver r n) s = .next (s.xlateRewalked r st n x w) := by
  rw [exec_xlateDeliver_some hr hx, if_neg (not_not_intro hleft), if_neg hgen, hw]

end

/-- Settles O18: the handle register first, then what the walk finds. -/
theorem handlesAndTranslation : Obligations.HandlesAndTranslation := by
  intro s
  refine ⟨fun st k h hs hk => ⟨fun i hi => ?_, fun hown hpend => ⟨fun a p hlow => ?_, fun a p e at' large hlow hleaf => ⟨fun hok => ?_,
    fun dt hno => ?_⟩, fun a p hhigh => ?_, exec_hrel_own hs hk hown hpend, fun p => ?_, fun h' hown' hpend' => ?_, fun h' => ⟨fun hno => ?_,
    fun hown' hpend' => ?_⟩⟩⟩, fun r n => ⟨exec_xlateDeliver_gone, fun sr hr => ⟨exec_xlateDeliver_none hr, fun x hx => ?_⟩⟩⟩
  · obtain ⟨f, hexec⟩ := exec_namesHandle hs h hi
    rw [hexec]
    exact ⟨fun hno => congrArg _ (State.withHandle_foreign st i f hno), fun hown hpend => congrArg _ (State.withHandle_pending i f hown hpend)⟩
  · have hwalk := fun w hw => exec_xlate_walk (w := w) hs hk hown hpend hlow hw p
    refine ⟨fun hw => hw.elim (hwalk _) (hwalk _), hwalk _, fun hw => (hwalk _ hw).trans ?_⟩
    rw [State.xlateWalked, State.hold, State.pageGang_cur]
  · rw [exec_xlate_walk hs hk hown hpend hlow hleaf, State.xlateWalked, hok]
    rfl
  · rw [exec_xlate_walk hs hk hown hpend hlow hleaf, State.xlateWalked, hno]
  · rw [exec_xlate_own hs hk hown hpend, if_pos hhigh]
  · rw [exec_hchk_own hs hk hown hpend, Strand.wp_eq]
  · rw [exec_hmov_own hs hk hown hpend, State.withHandle_own _ _ hown' hpend' hk]
  · rw [exec_hmov_own hs hk hown hpend, State.withHandle_foreign _ _ _ hno]
  · rw [exec_hmov_own hs hk hown hpend, State.withHandle_pending _ _ hown' hpend']
    rfl
  · intro gone gen w
    refine ⟨fun hidle => ?_, fun hleft hgen hvalid => ?_, fun hleft hgen => ?_⟩
    · rw [exec_xlateDeliver_some hr hx]
      obtain hleft | ⟨hgen, hvalid⟩ := hidle
      · rw [if_pos hleft]
      · rw [if_pos hgen, if_neg (c := x.handle.valid = true) (by simp [hvalid]), ite_self]
    · rw [exec_xlateDeliver_some hr hx, if_neg (not_not_intro hleft), if_pos hgen, if_pos hvalid]
    · have hwalk := fun w' hw => exec_xlateDeliver_rewalk (w := w') hr hx hleft hgen hw
      refine ⟨fun e at' large hleaf => ⟨fun hok => (hwalk _ hleaf).trans ?_, fun dt hno => (hwalk _ hleaf).trans ?_⟩,
        fun hw => hw.elim (hwalk _) (hwalk _), hwalk _, hwalk _⟩
      · simp only [State.xlateRewalked, hok]
        rfl
      · simp only [State.xlateRewalked, hno]
        rfl

end Sys2Proof.Machine

/-! ### Performing at the home (07 R162, R177 to R180; 05 R114, R116, R125, R127) -/

namespace Sys2Proof.Machine

/-! #### What performing leaves of memory -/

theorem State.NotSaved.congr {s t : State} {r : SRef} (h : s.NotSaved r)
    (hcond : (t.gang? r.vr r.gang).map Gang.cond = (s.gang? r.vr r.gang).map Gang.cond) : t.NotSaved r := by
  intro g hg k w b hsaved
  rw [hg, Option.map_some, eq_comm, Option.map_eq_some_iff] at hcond
  obtain ⟨g', hg', heq⟩ := hcond
  exact h g' hg' k w b (heq.trans hsaved)

theorem State.reframe_of_notSaved {s : State} {r : SRef} (h : s.NotSaved r) : s.reframe r = s := by
  unfold State.reframe
  split
  · next k g st hk hg hst =>
    split
    · next slot why b i hcond hi => exact absurd hcond (h g hg slot why b)
    · rfl
  · rfl

theorem State.gang?_dropAccess (s : State) (id v g : Nat) : (s.dropAccess id).gang? v g = s.gang? v g := by
  rw [State.gang?, State.rank?_dropAccess, Option.bind_map]
  rfl

theorem State.cond_retire (s : State) (st : Strand) (v g : Nat) :
    ((s.retire st).gang? v g).map Gang.cond = (s.gang? v g).map Gang.cond := by
  rw [State.retire_eq, State.modStrand, State.modCore, State.gang?_modGang _ _ _ _ _ _ fun x => Gang.modCore_id x _ _, Option.map_map]
  congr 1
  funext x
  simp only [Function.comp_apply]
  split <;> rfl

/-- The end of an access of a strand whose gang is in no frame touches no memory. -/
theorem State.endAccess_memories {s : State} {a : Access} (h : s.NotSaved a.by') (v : Word) :
    (s.endAccess a v).memories = s.memories := by
  unfold State.endAccess
  dsimp only
  split
  · next st hst =>
    split
    · rw [State.reframe_of_notSaved]
      · rfl
      · refine h.congr ((State.cond_retire _ _ _ _).trans ?_)
        exact congrArg _ (State.gang?_dropAccess s a.id _ _)
    · rfl
  · rfl

/-- What an atomic at its home leaves: the ranks and every memory. -/
theorem State.homePut_keeps (s : State) (vr p : Nat) (fixed : Bool) (bs : List Byte) :
    (s.homePut vr p fixed bs).ranks = s.ranks ∧ (s.homePut vr p fixed bs).memories = s.memories := by
  induction bs generalizing s p with
  | nil => exact ⟨rfl, rfl⟩
  | cons b t ih => exact ih _ _

theorem State.atomAt_keeps (s : State) (vr p : Nat) (op : RAtom) :
    (s.atomAt vr p op).2.ranks = s.ranks ∧ (s.atomAt vr p op).2.memories = s.memories := by
  cases op <;> exact State.homePut_keeps s vr p _ _

theorem State.NotSaved.of_ranks {s t : State} {r : SRef} (h : s.NotSaved r) (hranks : t.ranks = s.ranks) : t.NotSaved r :=
  h.congr (by simp only [State.gang?, State.rank?, hranks])

theorem State.openRaced_keeps (s : State) (r : SRef) (d : StoreTo) (bs : List Byte) :
    (s.openRaced r d bs).2.ranks = s.ranks ∧ (s.openRaced r d bs).2.memories = s.memories := by
  rw [State.openRaced_state]
  exact ⟨rfl, rfl⟩

theorem State.loadAt_memories {s : State} {a : Access} (h : s.NotSaved a.by') (r : Rank) (d : StoreTo) :
    (s.loadAt r a d).memories = s.memories := by
  unfold State.loadAt
  split
  · exact State.endAccess_memories h _
  · next d' n hop =>
    obtain ⟨hranks, hmem⟩ := s.openRaced_keeps a.by' d (r.overlay a.by'.core d ((List.range n).map fun i => s.committedByte 16 (d.plus i)))
    exact (State.endAccess_memories (h.of_ranks hranks) _).trans hmem
  · exact State.endAccess_memories h _

/-! #### Loads -/

section
variable {s : State} {r : Rank} {a : Access}

/-- A load ends with as many bytes as it asked for, those at its home under the own writes of its core unless an engine command of the
core is outstanding. -/
theorem State.loadAt_load (dst : StoreTo) {d : XReg} {n : Nat} (hop : a.op = .load d n) : ∃ (t : State) (bs : List Byte),
    s.loadAt r a dst = t.endAccess a (BitVec.ofNat 64 (leNat bs)) ∧ bs.length = n ∧ t = ({ s with free := t.free } : State) ∧
    (s.NoCmds a.by' → bs = r.overlay a.by'.core dst ((List.range n).map fun i => s.committedByte 16 (dst.plus i))) := by
  refine ⟨(s.openRaced a.by' dst (r.overlay a.by'.core dst ((List.range n).map fun i => s.committedByte 16 (dst.plus i)))).2,
    (s.openRaced a.by' dst (r.overlay a.by'.core dst ((List.range n).map fun i => s.committedByte 16 (dst.plus i)))).1, ?_, ?_,
    State.openRaced_state _ _ _ _, fun hno => State.openRaced_of_noCmds hno _ _⟩
  · simp only [State.loadAt, hop]
    rfl
  · rw [State.openRaced_length, Rank.length_overlay, List.length_map, List.length_range]

theorem State.loadAt_fxrd (dst : StoreTo) {d : XReg} {g : BitVec 9} (hop : a.op = .fxrd d g) :
    s.loadAt r a dst = s.endAccess a ((fxReadCell (BitVec.ofNat 128
      (leNat ((List.range 16).map fun i => s.committedByte 16 (dst.plus i)))) g.toInt).setWidth 64) := by
  simp only [State.loadAt, hop]

/-! #### MEMORY_ACCESS_COMPLETE -/

theorem exec_memoryAccessComplete_none {id : Nat} (h : s.access? id = none) : exec (.memoryAccessComplete id) s = .next s := by
  rw [exec_memoryAccessComplete, execMemoryAccessComplete, h]

variable {id : Nat} (hacc : s.access? id = some (r, a))
include hacc

theorem exec_memoryAccessComplete_behind (h : r.behind a = true) : exec (.memoryAccessComplete id) s = .next s := by
  rw [exec_memoryAccessComplete, execMemoryAccessComplete, hacc]
  exact congrArg _ (if_pos h)

theorem exec_memoryAccessComplete_flushing {p : Nat} (hdst : a.dst = .phys p) (hflush : s.flushing = true) :
    exec (.memoryAccessComplete id) s = .next s := by
  rw [exec_memoryAccessComplete, execMemoryAccessComplete, hacc]
  simp only [hdst, hflush, if_true, ite_self]

theorem exec_memoryAccessComplete_host {p : Nat} (hdst : a.dst = .host p) (hfirst : r.behind a = false) :
    exec (.memoryAccessComplete id) s = .next (s.loadAt r a (.host p)) := by
  rw [exec_memoryAccessComplete, execMemoryAccessComplete, hacc]
  simp only [hdst, hfirst, Bool.false_eq_true, if_false]

section
variable {p : Nat} (hdst : a.dst = .phys p) (hflush : s.flushing = false) (hfirst : r.behind a = false)
include hdst hflush hfirst

theorem exec_memoryAccessComplete_plain (hop : a.op.atomic? = none) :
    exec (.memoryAccessComplete id) s = .next (s.loadAt r a (.phys p)) := by
  rw [exec_memoryAccessComplete, execMemoryAccessComplete, hacc]
  simp only [hdst, hfirst, hflush, hop, Bool.false_eq_true, if_false]

theorem exec_memoryAccessComplete_atomic {op : RAtom} (hop : a.op.atomic? = some op) :
    exec (.memoryAccessComplete id) s = .next ((s.atomAt r.vr p op).2.endAccess a (s.atomAt r.vr p op).1) := by
  rw [exec_memoryAccessComplete, execMemoryAccessComplete, hacc]
  simp only [hdst, hfirst, hflush, hop, Bool.false_eq_true, if_false]

/-- Whatever access to memory of the package performs, memory itself stands: plain loads see an atomic after a boundary (05 R126). -/
theorem exec_memoryAccessComplete_sameMemory (hns : s.NotSaved a.by') {t : State} (ht : exec (.memoryAccessComplete id) s = .next t) :
    s.SameMemory t := by
  refine State.sameMemory_of_memories ?_
  cases hop : a.op.atomic? with
  | none =>
    obtain rfl := Host.Outcome.next.inj ((exec_memoryAccessComplete_plain hacc hdst hflush hfirst hop).symm.trans ht)
    exact State.loadAt_memories hns r _
  | some op =>
    obtain rfl := Host.Outcome.next.inj ((exec_memoryAccessComplete_atomic hacc hdst hflush hfirst hop).symm.trans ht)
    obtain ⟨hranks, hmem⟩ := s.atomAt_keeps r.vr p op
    exact (State.endAccess_memories (hns.of_ranks hranks) _).trans hmem

end

end

/-- Settles O17: a plain access loads at its home, an atomic acts there, and one that is not due leaves the state. -/
theorem accessPerforms : Obligations.AccessPerforms := by
  intro s id
  refine ⟨exec_memoryAccessComplete_none, fun r a hacc => ⟨exec_memoryAccessComplete_behind hacc,
    fun p hdst hflush => exec_memoryAccessComplete_flushing hacc hdst hflush, fun p hdst hfirst => ?_, fun p hdst hflush hfirst => ?_⟩⟩
  · have hexec := exec_memoryAccessComplete_host hacc hdst hfirst
    rw [hexec]
    refine ⟨fun d n hop => ?_, fun d g hop => congrArg _ (State.loadAt_fxrd _ hop)⟩
    obtain ⟨t, bs, hload, hspec⟩ := State.loadAt_load (s := s) (r := r) (.host p) hop
    exact ⟨t, bs, congrArg _ hload, hspec⟩
  · have hplain := exec_memoryAccessComplete_plain hacc hdst hflush hfirst
    have hatomic := fun op => exec_memoryAccessComplete_atomic (op := op) hacc hdst hflush hfirst
    intro old
    refine ⟨fun d n hop => ?_, fun d g hop => ?_, fun o d v hop => ?_, fun o d v hop => ?_, fun d n e v hop => ?_, fun g v hop => ?_,
      fun hns t => exec_memoryAccessComplete_sameMemory hacc hdst hflush hfirst hns⟩
    · obtain ⟨t, bs, hload, hspec⟩ := State.loadAt_load (s := s) (r := r) (.phys p) hop
      exact ⟨t, bs, (hplain (by rw [hop]; rfl)).trans (congrArg _ hload), hspec⟩
    · exact (hplain (by rw [hop]; rfl)).trans (congrArg _ (State.loadAt_fxrd _ hop))
    · exact hatomic (.atom o 8 v) (by rw [hop]; rfl)
    · exact hatomic (.atom o 4 v) (by rw [hop]; rfl)
    · exact hatomic (.acas n e v) (by rw [hop]; rfl)
    · exact hatomic (.fxadd g v) (by rw [hop]; rfl)

end Sys2Proof.Machine

/-! ### Scratch space (04 R97, R98, R104; 07 R175) -/

namespace Sys2Proof.Machine

/-! #### Where an address lies -/

theorem scratchAt_other {core c off : Nat} (hc : c < 256) (hne : c ≠ core) (h : off < 0x80000) :
    scratchAt core (0x1000000 + c * 0x80000 + off) = .other c off := by
  have hquot : (0x1000000 + c * 0x80000 + off - 0x1000000) / 0x80000 = c := by omega
  have hrem : (0x1000000 + c * 0x80000 + off - 0x1000000) % 0x80000 = off := by omega
  unfold scratchAt
  rw [if_neg (by omega), if_pos (by omega)]
  simp only [hquot, hrem, hne, if_false]

theorem scratchAt_window {w off : Nat} (core : Nat) (hw : w < 16) (h : off < 0x4000000) :
    scratchAt core (0x40000000 + w * 0x4000000 + off) = .window w off := by
  have hquot : (0x40000000 + w * 0x4000000 + off - 0x40000000) / 0x4000000 = w := by omega
  have hrem : (0x40000000 + w * 0x4000000 + off - 0x40000000) % 0x4000000 = off := by omega
  unfold scratchAt
  rw [if_neg (by omega), if_neg (by omega), if_pos (by omega), hquot, hrem]

/-- Both aliases of a core's own scratchpad (R98). -/
theorem scratchAt_own {core b off : Nat} (hc : core < 256) (h : off < 0x80000) (hb : b = off ∨ b = 0x1000000 + core * 0x80000 + off) :
    scratchAt core b = .own off := by
  obtain rfl | rfl := hb
  · exact scratchAt_low h
  · exact scratchAt_alias hc h

theorem scratchAt_beyond {a : Nat} (core : Nat) (h : 0x80000000 ≤ a) : scratchAt core a = .unmapped := by
  unfold scratchAt
  rw [if_neg (by omega), if_neg (by omega), if_neg (by omega)]

theorem scratchOperand_eq (x : Word) (o : BitVec 14) (sz : Nat) :
    scratchOperand x o sz = x + BitVec.ofInt 64 (o.toInt * ((2 ^ sz : Nat) : Int)) := by
  rw [BitVec.ofInt_mul, BitVec.ofInt_natCast]
  rfl

/-- The bytes of an aligned access through a window lie in one scratchpad. -/
theorem window_block {k w off i : Nat} (hk : k < 4) (hal : (0x40000000 + w * 0x4000000 + off) % 2 ^ k = 0) (hi : i < 2 ^ k) :
    (off + i) / 0x80000 = off / 0x80000 := by
  interval_cases k <;> omega

/-- A core that runs a strand is one of its gang. -/
theorem State.core_mem_gangCores {s : State} {r : SRef} {st : Strand} (h : s.strand? r = some st) : r.core ∈ s.gangCores r := by
  obtain ⟨k, hk, -⟩ := Option.map_eq_some_iff.mp h
  obtain ⟨g, hg, hcore⟩ := Option.bind_eq_some_iff.mp hk
  have hno : k.coreno = r.core := by simpa using List.find?_some hcore
  rw [State.gangCores, hg, ← hno]
  exact List.mem_map_of_mem (List.mem_of_find?_eq_some hcore)

/-! #### The checks -/

section
variable {s : State} {r : SRef} {a : Word} {n : Nat}

theorem State.scratchMapped_low (cores : List Nat) {b : Nat} (h : b < 0x80000) : s.scratchMapped r cores b = true := by
  simp [State.scratchMapped, scratchAt_low h, h]

theorem State.scratchMapped_own {cores : List Nat} {b off : Nat} (hat : scratchAt r.core b = .own off) (hmem : r.core ∈ cores) :
    s.scratchMapped r cores b = true := by
  simp [State.scratchMapped, hat, hmem]

theorem State.scratchMapped_other {cores : List Nat} {b c off : Nat} (hat : scratchAt r.core b = .other c off) (hmem : c ∈ cores) :
    s.scratchMapped r cores b = true := by
  simp [State.scratchMapped, hat, hmem]

theorem State.scratchMapped_window (cores : List Nat) {b w off : Nat} (hat : scratchAt r.core b = .window w off)
    (hvalid : wtblV (s.wtbl r.vr w) = true) (hreach : off / 0x80000 ≤ wtblCnt (s.wtbl r.vr w)) :
    s.scratchMapped r cores b = true := by
  simp [State.scratchMapped, hat, hvalid, hreach]

theorem State.scratchViolation_mapped (hlow : a.toNat < 2 ^ 32)
    (hmap : ∀ i, i < n → s.scratchMapped r (s.gangCores r) (a.toNat + i) = true) :
    s.scratchViolation r a n = if a.toNat % n = 0 then none else some (0xA, a) := by
  have hfind : ((List.range n).find? fun i => !s.scratchMapped r (s.gangCores r) (a.toNat + i)) = none := by
    simpa using hmap
  rw [State.scratchViolation, if_neg (Nat.not_le.mpr hlow), hfind]

theorem State.scratchViolation_outside (hn : 0 < n) (h : 2 ^ 32 ≤ a.toNat ∨ scratchAt r.core a.toNat = .unmapped) :
    s.scratchViolation r a n = some (0xB, a) := by
  unfold State.scratchViolation
  split
  · rfl
  · next hlow =>
    obtain ⟨m, rfl⟩ := Nat.exists_eq_add_one.mpr hn
    have hfirst : s.scratchMapped r (s.gangCores r) a.toNat = false := by
      rw [State.scratchMapped, h.resolve_left hlow]
    rw [List.range_succ_eq_map, List.find?_cons_of_pos (by simp [hfirst])]
    simp

end

/-! #### SLD and SST -/

theorem State.storeScratch_own {s : State} {r : SRef} {b off : Nat} (hat : scratchAt r.core b = .own off) (slot : Nat) (bs : List Byte) :
    s.storeScratch r slot b bs = s.modSlot slot fun k => { k with pads := memPut k.pads (r.core * 0x80000 + off) bs } := by
  rw [State.storeScratch, hat]
  rfl

theorem State.storeScratch_other {s : State} {r : SRef} {a : Word} {c off : Nat} (hat : scratchAt r.core a.toNat = .other c off)
    (slot : Nat) (bs : List Byte) : s.storeScratch r slot a.toNat bs = s.bufferStore r.vr
      { core := r.core, strand := r.strand, gang := r.gang, dst := .scratch (c * 0x80000 + off), bytes := bs, va := a } := by
  simp only [State.storeScratch, hat, BitVec.ofNat_toNat, BitVec.setWidth_eq]

section
variable {s : State} {st : Strand} (hs : s.strand? s.cur = some st) {a : XReg} {sz : BitVec 2} {o : BitVec 14} {addr : Word}
  (haddr : st.rx a + BitVec.ofInt 64 (o.toInt * ((2 ^ sz.toNat : Nat) : Int)) = addr) (d : XReg)
include hs haddr

theorem exec_sld_violation {c : Nat} {v : Word} (h : s.scratchViolation s.cur addr (2 ^ sz.toNat) = some (c, v)) :
    exec (.sld d a sz o) s = .next (s.trap st c v) := by
  rw [exec_sld, execSld, State.acting_eq hs, scratchOperand_eq, haddr]
  simp only [h]

theorem exec_sst_violation {c : Nat} {v : Word} (h : s.scratchViolation s.cur addr (2 ^ sz.toNat) = some (c, v)) :
    exec (.sst d a sz o) s = .next (s.trap st c v) := by
  rw [exec_sst, execSst, State.acting_eq hs, scratchOperand_eq, haddr]
  simp only [h]

variable (hok : s.scratchViolation s.cur addr (2 ^ sz.toNat) = none)
include hok

section
variable {slot : Nat} (hslot : s.slotOf s.cur.vr = some slot)
include hslot

/-- A load from a scratchpad completes with as many bytes as it asked for, those of the place unless an engine command of the core is
outstanding. -/
theorem exec_sld_pad {dst : StoreTo} {bs : List Byte}
    (hload : (∃ off, scratchAt s.cur.core addr.toNat = .own off ∧ dst = .scratch (s.cur.core * 0x80000 + off) ∧
        bs = s.padBytes slot s.cur.core off (2 ^ sz.toNat)) ∨
      ∃ c off, scratchAt s.cur.core addr.toNat = .other c off ∧ dst = .scratch (c * 0x80000 + off) ∧
        bs = s.viewBytes s.cur.vr s.cur.core slot dst (2 ^ sz.toNat)) :
    exec (.sld d a sz o) s =
      .next ((s.openRaced s.cur dst bs).2.retire (st.wx d (BitVec.ofNat 64 (leNat (s.openRaced s.cur dst bs).1)))) := by
  rw [exec_sld, execSld, State.acting_eq hs, scratchOperand_eq, haddr]
  simp only [hok, hslot, Option.getD_some]
  obtain ⟨off, hat, rfl, rfl⟩ | ⟨c, off, hat, rfl, rfl⟩ := hload
  · simp only [hat]
    rfl
  · simp only [hat, State.loadScratch]
    rfl

/-- A store to a scratchpad, once its bytes are settled, is that of `storeScratch`. -/
theorem exec_sst_pad {t : State} {bs : List Byte} (hwin : ∀ w off, scratchAt s.cur.core addr.toNat ≠ .window w off)
    (hspoil : s.spoil s.cur ((Space.scratch addr.toNat).toStore s.cur.core) (leBytes (2 ^ sz.toNat) (st.rx d).toNat) = (bs, t))
    (hcur : t.cur = s.cur) (hranks : t.ranks = s.ranks) :
    exec (.sst d a sz o) s = .next ((t.storeScratch s.cur slot addr.toNat bs).retire st) := by
  have hslot' : t.slotOf s.cur.vr = some slot := by rw [← hslot, State.slotOf, State.slotOf, State.rank?, State.rank?, hranks]
  rw [exec_sst, execSst, State.acting_eq hs, scratchOperand_eq, haddr]
  simp only [hok]
  rw [lowBytes, hspoil]
  simp only [hcur, hslot', Option.getD_some]

/-- SLD in the own scratchpad. -/
theorem exec_sld_own {off : Nat} (hat : scratchAt s.cur.core addr.toNat = .own off) : ∃ (t : State) (bs : List Byte),
    exec (.sld d a sz o) s = .next (t.retire (st.wx d (BitVec.ofNat 64 (leNat bs)))) ∧ bs.length = 2 ^ sz.toNat ∧
      t = ({ s with free := t.free } : State) ∧
      (s.NoCmds s.cur → bs = memBytes (s.slot slot).pads (s.cur.core * 0x80000 + off) (2 ^ sz.toNat)) :=
  ⟨_, _, exec_sld_pad hs haddr d hok hslot (.inl ⟨off, hat, rfl, rfl⟩),
    (State.openRaced_length _ _ _ _).trans (by rw [State.padBytes, length_memBytes]), State.openRaced_state _ _ _ _,
    fun hno => State.openRaced_of_noCmds hno _ _⟩

/-- SLD in the scratchpad of another core. -/
theorem exec_sld_other {c off : Nat} (hat : scratchAt s.cur.core addr.toNat = .other c off) : ∃ (t : State) (bs : List Byte),
    exec (.sld d a sz o) s = .next (t.retire (st.wx d (BitVec.ofNat 64 (leNat bs)))) ∧ bs.length = 2 ^ sz.toNat ∧
      t = ({ s with free := t.free } : State) ∧
      (s.NoCmds s.cur → bs = s.viewBytes s.cur.vr s.cur.core slot (.scratch (c * 0x80000 + off)) (2 ^ sz.toNat)) :=
  ⟨_, _, exec_sld_pad hs haddr d hok hslot (.inr ⟨c, off, hat, rfl, rfl⟩),
    (State.openRaced_length _ _ _ _).trans (by rw [State.viewBytes, List.length_map, List.length_range]), State.openRaced_state _ _ _ _,
    fun hno => State.openRaced_of_noCmds hno _ _⟩

/-- SST to a scratchpad: what `storeScratch` writes of the bytes once they are settled. -/
theorem exec_sst_settled (hwin : ∀ w off, scratchAt s.cur.core addr.toNat ≠ .window w off) : ∃ (t : State) (bs : List Byte),
    exec (.sst d a sz o) s = .next ((t.storeScratch s.cur slot addr.toNat bs).retire st) ∧ bs.length = 2 ^ sz.toNat ∧
      t.ranks = s.ranks ∧ t.slots = s.slots ∧ t.mem = s.mem ∧
      (s.NoCmds s.cur → bs = leBytes (2 ^ sz.toNat) (st.rx d).toNat ∧ t = ({ s with free := t.free } : State)) := by
  obtain ⟨bs, t, hspoil, hlen, hcur, hranks, hslots, hmem, hno⟩ :=
    s.spoil_spec s.cur ((Space.scratch addr.toNat).toStore s.cur.core) (leBytes (2 ^ sz.toNat) (st.rx d).toNat)
  exact ⟨t, bs, exec_sst_pad hs haddr d hok hslot hwin hspoil hcur hranks, hlen.trans (length_leBytes _ _), hranks, hslots, hmem, hno⟩

theorem exec_sst_own {off : Nat} (hat : scratchAt s.cur.core addr.toNat = .own off) : ∃ (t : State) (bs : List Byte),
    exec (.sst d a sz o) s = .next ((t.modSlot slot fun k => { k with pads := memPut k.pads (s.cur.core * 0x80000 + off) bs }).retire st) ∧
      bs.length = 2 ^ sz.toNat ∧ t.ranks = s.ranks ∧ t.slots = s.slots ∧ t.mem = s.mem ∧
      (s.NoCmds s.cur → bs = leBytes (2 ^ sz.toNat) (st.rx d).toNat ∧ t = ({ s with free := t.free } : State)) := by
  obtain ⟨t, bs, hexec, hrest⟩ := exec_sst_settled hs haddr d hok hslot (by simp [hat])
  rw [State.storeScratch_own hat] at hexec
  exact ⟨t, bs, hexec, hrest⟩

theorem exec_sst_other {c off : Nat} (hat : scratchAt s.cur.core addr.toNat = .other c off) : ∃ (t : State) (bs : List Byte),
    exec (.sst d a sz o) s = .next ((t.bufferStore s.cur.vr
        { core := s.cur.core, strand := s.cur.strand, gang := s.cur.gang, dst := .scratch (c * 0x80000 + off), bytes := bs,
          va := addr }).retire st) ∧
      bs.length = 2 ^ sz.toNat ∧ t.ranks = s.ranks ∧ t.slots = s.slots ∧ t.mem = s.mem ∧
      (s.NoCmds s.cur → bs = leBytes (2 ^ sz.toNat) (st.rx d).toNat ∧ t = ({ s with free := t.free } : State)) := by
  obtain ⟨t, bs, hexec, hrest⟩ := exec_sst_settled hs haddr d hok hslot (by simp [hat])
  rw [State.storeScratch_other hat] at hexec
  exact ⟨t, bs, hexec, hrest⟩

end

section
variable {w off : Nat} (hat : scratchAt s.cur.core addr.toNat = .window w off) {r : Rank} (hr : s.rank? s.cur.vr = some r)
include hat hr

theorem exec_sld_window : exec (.sld d a sz o) s = .next (s.inFlight st (.load d (2 ^ sz.toNat))
    (.window w (wtblTarget (r.wtbl[w]?.getD 0)) (wtblFirst (r.wtbl[w]?.getD 0) + off / 0x80000) (off % 0x80000)) addr true false) := by
  rw [exec_sld, execSld, State.acting_eq hs, scratchOperand_eq, haddr]
  simp only [hok]
  simp only [hat, State.windowTarget, State.wtbl, hr]
  rfl

theorem exec_sst_window : exec (.sst d a sz o) s = .next (
    if r.walOut[w]?.getD 0 < r.walLimit[w]?.getD 0 then
      (s.modRank s.cur.vr fun q => { q with walOut := q.walOut.setIfInBounds w (r.walOut[w]?.getD 0 + 1) }).inFlight st
        (.store (leBytes (2 ^ sz.toNat) (st.rx d).toNat))
        (.window w (wtblTarget (r.wtbl[w]?.getD 0)) (wtblFirst (r.wtbl[w]?.getD 0) + off / 0x80000) (off % 0x80000)) addr false false
    else s.modStrand s.cur fun q => { q with wait := some (.allowance w) }) := by
  have hroom : (r.walLimit[w]?.getD 0).ule (r.walOut[w]?.getD 0) = true ↔ ¬ r.walOut[w]?.getD 0 < r.walLimit[w]?.getD 0 := by
    rw [BitVec.ule_iff_le, BitVec.not_lt]
  rw [exec_sst, execSst, State.acting_eq hs, scratchOperand_eq, haddr]
  simp only [hok]
  simp only [hat, State.windowTarget, State.wtbl, hr, hroom, ite_not]
  rfl

end

end

/-- Settles O14: where the address lies decides, and every byte of the access lies there. -/
theorem scratchAccessCompletes : Obligations.ScratchAccessCompletes := by
  intro s st d a sz o slot hs hslot hcore n addr at' val same
  have hmem : s.cur.core ∈ s.gangCores s.cur := State.core_mem_gangCores hs
  have hpos : 0 < n := Nat.two_pow_pos _
  refine ⟨fun off hat hend hal => ?_, fun c off hat hend hc hne hgang hal => ?_, fun w off r hat hw hend hal hr hvalid hreach => ?_,
    fun hout => ?_, fun hend hal => ?_⟩
  · have hown : ∀ i, i < n → scratchAt s.cur.core (at' + i) = .own (off + i) := fun i hi =>
      scratchAt_own hcore (by omega) (by omega)
    have hok : s.scratchViolation s.cur addr n = none :=
      (State.scratchViolation_mapped (by omega) fun i hi => State.scratchMapped_own (hown i hi) hmem).trans (if_pos hal)
    exact ⟨exec_sld_own hs rfl d hok hslot (hown 0 hpos), exec_sst_own hs rfl d hok hslot (hown 0 hpos)⟩
  · have hother : ∀ i, i < n → scratchAt s.cur.core (at' + i) = .other c (off + i) := fun i hi => by
      rw [hat, Nat.add_assoc]
      exact scratchAt_other hc hne (by omega)
    have hok : s.scratchViolation s.cur addr n = none :=
      (State.scratchViolation_mapped (by omega) fun i hi => State.scratchMapped_other (hother i hi) hgang).trans (if_pos hal)
    exact ⟨exec_sst_other hs rfl d hok hslot (hother 0 hpos), exec_sld_other hs rfl d hok hslot (hother 0 hpos)⟩
  · have hwindow : ∀ i, i < n → scratchAt s.cur.core (at' + i) = .window w (off + i) := fun i hi => by
      rw [hat, Nat.add_assoc]
      exact scratchAt_window _ hw (by omega)
    have hentry : s.wtbl s.cur.vr w = r.wtbl[w]?.getD 0 := by rw [State.wtbl, hr]
    have hok : s.scratchViolation s.cur addr n = none := by
      refine (State.scratchViolation_mapped (by omega) fun i hi => State.scratchMapped_window _ (hwindow i hi) ?_ ?_).trans (if_pos hal)
      · rw [hentry]
        exact hvalid
      · rw [hentry, window_block sz.isLt (hat ▸ hal) hi]
        exact hreach
    exact ⟨exec_sld_window hs rfl d hok (hwindow 0 hpos) hr, exec_sst_window hs rfl d hok (hwindow 0 hpos) hr⟩
  · have hviol : s.scratchViolation s.cur addr n = some (0xB, addr) :=
      State.scratchViolation_outside hpos (hout.imp_right fun h => h.elim (scratchAt_beyond _) fun h => scratchAt_gap h.1 h.2)
    exact ⟨exec_sld_violation hs rfl d hviol, exec_sst_violation hs rfl d hviol⟩
  · have hviol : s.scratchViolation s.cur addr n = some (0xA, addr) :=
      (State.scratchViolation_mapped (by omega) fun i hi => State.scratchMapped_low _ (by omega)).trans (if_neg hal)
    exact ⟨exec_sld_violation hs rfl d hviol, exec_sst_violation hs rfl d hviol⟩

end Sys2Proof.Machine

/-! ### EXIT and the streams of the strand (07 R193; 09 R247; 02 R58) -/

namespace Sys2Proof.Machine

/-! #### What the unit of a stream touches -/

/-- What the unit of stream z may have done to its core: of the strands it writes only the pending stream faults, of the streams only its
own. -/
structure Core.Streamed (z : Nat) (c c' : Core) : Prop where
  coreno : c'.coreno = c.coreno
  strand : ∀ i, c'.strand i = { c.strand i with asyncs := (c'.strand i).asyncs }
  stream : ∀ z', z' ≠ z → c'.stream z' = c.stream z'

namespace Core.Streamed

variable {z : Nat}

theorem refl (c : Core) : c.Streamed z c := ⟨rfl, fun _ => rfl, fun _ _ => rfl⟩

theorem trans {a b c : Core} (hab : a.Streamed z b) (hbc : b.Streamed z c) : a.Streamed z c :=
  ⟨hbc.coreno.trans hab.coreno, fun i => by rw [hbc.strand i, hab.strand i], fun z' h => (hbc.stream z' h).trans (hab.stream z' h)⟩

/-- The unit sets its stream, and the queues and the entry numbers of the core as it likes. -/
theorem setStream (c : Core) (x : Stream) (tq : Vector TQueue 12) (sq : Vector SQueue 4) (nextId : Nat) :
    c.Streamed z { c.setStream z x with tq := tq, sq := sq, nextId := nextId } :=
  ⟨rfl, fun i => by cases i <;> rfl, fun z' h => by simp [Core.stream, Core.setStream, Ne.symm h]⟩

theorem asyncs (c : Core) (i : StrandId) (f : List AsyncTrap → List AsyncTrap) :
    c.Streamed z (c.modStrand i fun st => { st with asyncs := f st.asyncs }) :=
  ⟨Core.modStrand_coreno _ _ _, fun j => by cases i <;> cases j <;> rfl, fun _ _ => by cases i <;> rfl⟩

end Core.Streamed

theorem Core.stream_setStream (c : Core) {z : Nat} (hz : z < 16) (x : Stream) : (c.setStream z x).stream z = x := by
  simp [Core.stream, Core.setStream, hz]

@[simp] theorem Core.strand_setStream (c : Core) (z : Nat) (x : Stream) (i : StrandId) : (c.setStream z x).strand i = c.strand i := by
  cases i <;> rfl

theorem Core.strand_modStrand (c : Core) (i j : StrandId) (f : Strand → Strand) :
    (c.modStrand i f).strand j = if j = i then f (c.strand j) else c.strand j := by
  split
  · next h => rw [h, Core.modStrand, Core.strand_setStrand]
  · next h => exact Core.strand_setStrand_ne c i j _ h

@[simp] theorem Core.stream_modStrand (c : Core) (i : StrandId) (f : Strand → Strand) (z : Nat) :
    (c.modStrand i f).stream z = c.stream z := by
  cases i <;> rfl

/-- A step of the unit of stream z of the core that the strand `r` names. -/
structure State.Streamed (r : SRef) (z : Nat) (s t : State) : Prop where
  cur : t.cur = s.cur
  slotOf : t.slotOf r.vr = s.slotOf r.vr
  core : ∀ c, s.core? r = some c → ∃ c', t.core? r = some c' ∧ c.Streamed z c'

theorem State.core?_modCore_self (s : State) (r : SRef) {f : Core → Core} (hf : ∀ c, (f c).coreno = c.coreno) {c : Core}
    (h : s.core? r = some c) : (s.modCore r f).core? r = some (f c) := by
  simp [State.core?_modCore s r r f hf, h]

theorem State.slotOf_modRank (s : State) (v w : Nat) {f : Rank → Rank} (hvr : ∀ k, (f k).vr = k.vr) (hplace : ∀ k, (f k).place = k.place) :
    (s.modRank v f).slotOf w = s.slotOf w := by
  rw [State.slotOf, State.slotOf, State.rank?_modRank _ _ _ _ hvr]
  cases s.rank? w with
  | none => rfl
  | some k =>
    by_cases h : w = v
    · simp [h, Rank.slot?, hplace]
    · simp [h]

theorem State.core?_modRank (s : State) (v : Nat) (r : SRef) {f : Rank → Rank} (hvr : ∀ k, (f k).vr = k.vr)
    (hgangs : ∀ k, (f k).gangs = k.gangs) : (s.modRank v f).core? r = s.core? r := by
  rw [State.core?, State.core?, State.gang?, State.gang?, State.rank?_modRank _ _ _ _ hvr]
  cases s.rank? r.vr with
  | none => rfl
  | some k =>
    by_cases h : r.vr = v
    · simp [h, Rank.gang?, hgangs]
    · simp [h]

@[simp] theorem State.modCore_memories (s : State) (r : SRef) (f : Core → Core) : (s.modCore r f).memories = s.memories := rfl

/-- The rank with one more buffered store, as `bufferStore` leaves it. -/
def Rank.buffered (b : BStore) (k : Rank) : Rank := { k with sbuf := k.sbuf ++ [b] }

namespace State.Streamed

variable {r : SRef} {z : Nat} {s t u : State}

theorem refl (s : State) : s.Streamed r z s := ⟨rfl, rfl, fun c h => ⟨c, h, .refl c⟩⟩

theorem trans (hst : s.Streamed r z t) (htu : t.Streamed r z u) : s.Streamed r z u where
  cur := htu.cur.trans hst.cur
  slotOf := htu.slotOf.trans hst.slotOf
  core c hc := by
    obtain ⟨c', hc', hcc'⟩ := hst.core c hc
    obtain ⟨c'', hc'', hcc''⟩ := htu.core c' hc'
    exact ⟨c'', hc'', hcc'.trans hcc''⟩

theorem modCore (s : State) {f : Core → Core} (hf : ∀ c : Core, c.Streamed z (f c)) : s.Streamed r z (s.modCore r f) :=
  ⟨rfl, s.slotOf_modRank _ _ (fun _ => rfl) fun _ => rfl, fun c hc => ⟨f c, s.core?_modCore_self r (fun k => (hf k).coreno) hc, hf c⟩⟩

theorem bufferStore (s : State) (vr : Nat) (b : BStore) : s.Streamed r z (s.bufferStore vr b) :=
  ⟨rfl, s.slotOf_modRank vr _ (f := Rank.buffered { b with order := s.nextId }) (fun _ => rfl) fun _ => rfl,
    fun c hc => ⟨c, (s.core?_modRank vr r (f := Rank.buffered { b with order := s.nextId }) (fun _ => rfl) fun _ => rfl).trans hc,
      .refl c⟩⟩

theorem storeScratch (s : State) (q : SRef) (slot a : Nat) (bs : List Byte) : s.Streamed r z (s.storeScratch q slot a bs) := by
  unfold State.storeScratch
  split
  · exact ⟨rfl, rfl, fun c hc => ⟨c, hc, .refl c⟩⟩
  · exact bufferStore s _ _
  · exact refl s

theorem writeElems (s : State) (q : SRef) (slot sz : Nat) (data : Buf) (elems : List (Int × Nat)) :
    s.Streamed r z (s.writeElems q slot sz data elems) := by
  induction elems generalizing s with
  | nil => exact refl s
  | cons e rest ih => exact (storeScratch s _ _ _ _).trans (ih _)

theorem streamFault (s : State) (f : SFault) : s.Streamed r z (s.streamFault r z f) :=
  modCore s fun c => (Core.Streamed.setStream c _ c.tq c.sq c.nextId).trans (.asyncs _ _ fun l => l ++ [_])

theorem deliverEntry (s : State) (slot : Nat) (cores : List Nat) (x : Stream) (rows : List RowSrc) :
    s.Streamed r z (s.deliverEntry r z slot cores x rows) := by
  unfold State.deliverEntry
  dsimp only
  split
  · exact streamFault s _
  · exact streamFault s _
  · exact modCore s fun c => .setStream c _ _ c.sq _

theorem drainEntry (s : State) (slot : Nat) (cores : List Nat) (x : Stream) (e : TEntry) (rows : List RowSrc) :
    s.Streamed r z (s.drainEntry r z slot cores x e rows) := by
  unfold State.drainEntry
  dsimp only
  split
  · exact streamFault s _
  · split
    · exact streamFault s _
    · exact (writeElems s _ _ _ _ _).trans (modCore _ fun c => .setStream c _ _ c.sq c.nextId)

theorem finishEntry (s : State) (slot : Nat) (cores : List Nat) (x : Stream) (rows : List RowSrc) :
    s.Streamed r z (s.finishEntry r z slot cores x rows) := by
  unfold State.finishEntry
  split
  · exact deliverEntry s _ _ _ _
  · split
    · exact drainEntry s _ _ _ _ _
    · exact refl s

end State.Streamed

/-! #### Stopping streams -/

/-- The core with stream z, whose state was `was`, stopped: the register is bound again and its fault record is cleared. -/
def Core.stop (z : Nat) (was : ZState) (c : Core) : Core :=
  (c.setStream z { c.stream z with st := if was = .unbound then .unbound else .bound, idxTaken := [] }).modStrand
    (if z < 8 then .l else .s) fun x => { x with asyncs := x.asyncs.filter fun a => !(a.src == 1 && a.zidx == z) }

theorem Core.streamed_stop (z : Nat) (was : ZState) (c : Core) : c.Streamed z (c.stop z was) :=
  (Core.Streamed.setStream c _ c.tq c.sq c.nextId).trans (.asyncs _ _ (List.filter _))

theorem Core.stream_stop {z : Nat} (hz : z < 16) (was : ZState) (c : Core) :
    ((c.stop z was).stream z).st = if was = .unbound then .unbound else .bound := by
  rw [Core.stop, Core.stream_modStrand, Core.stream_setStream _ hz]

theorem Core.not_running_stop {z : Nat} (hz : z < 16) (was : ZState) (c : Core) : ((c.stop z was).stream z).st ≠ .running := by
  rw [Core.stream_stop hz]
  split <;> simp

/-- A strand without pending traps stays as it is. -/
theorem Core.strand_stop_of_calm {c : Core} {i : StrandId} (h : (c.strand i).asyncs = []) (z : Nat) (was : ZState) :
    (c.stop z was).strand i = c.strand i := by
  have hkept : ((c.stop z was).strand i).asyncs = (c.strand i).asyncs := by
    rw [Core.stop, Core.strand_modStrand, Core.strand_setStream]
    by_cases howner : i = if z < 8 then .l else .s
    · simp [if_pos howner, h]
    · rw [if_neg howner]
  rw [(c.streamed_stop z was).strand i, hkept]

/-- What has become of the core `c` of the strand `r` when its streams `zs` have been stopped, `c'`. -/
structure State.Stopped (r : SRef) (zs : List Nat) (s : State) (c : Core) (t : State) (c' : Core) : Prop where
  cur : t.cur = s.cur
  slotOf : t.slotOf r.vr = s.slotOf r.vr
  core : t.core? r = some c'
  strand : ∀ i, c'.strand i = { c.strand i with asyncs := (c'.strand i).asyncs }
  stopped : ∀ z, z ∈ zs ∨ (c.stream z).st ≠ .running → (c'.stream z).st ≠ .running
  calm : ∀ i, (∀ z, z < 16 → (c.stream z).st = .unbound) → (c.strand i).asyncs = [] →
    t.memories = s.memories ∧ c'.strand i = c.strand i ∧ ∀ z, z < 16 → (c'.stream z).st = .unbound

namespace State.Stopped

variable {r : SRef} {zs : List Nat} {s t u : State} {c c' c'' : Core}

theorem refl (h : s.core? r = some c) : s.Stopped r [] c s c :=
  ⟨rfl, rfl, h, fun _ => rfl, fun z hz => hz.resolve_left (by simp), fun _ hidle _ => ⟨rfl, rfl, hidle⟩⟩

theorem cons {z : Nat} (hst : s.Stopped r [z] c t c') (htu : t.Stopped r zs c' u c'') : s.Stopped r (z :: zs) c u c'' where
  cur := htu.cur.trans hst.cur
  slotOf := htu.slotOf.trans hst.slotOf
  core := htu.core
  strand i := by rw [htu.strand i, hst.strand i]
  stopped z' h := by
    rw [List.mem_cons] at h
    refine htu.stopped z' ?_
    obtain (rfl | hmem) | hrun := h
    · exact .inr (hst.stopped _ (.inl (by simp)))
    · exact .inl hmem
    · exact .inr (hst.stopped z' (.inr hrun))
  calm i hidle hcalm := by
    obtain ⟨hmem, hstrand, hidle'⟩ := hst.calm i hidle hcalm
    obtain ⟨hmem', hstrand', hidle''⟩ := htu.calm i hidle' (hstrand ▸ hcalm)
    exact ⟨hmem'.trans hmem, hstrand'.trans hstrand, hidle''⟩

end State.Stopped

section
variable {s : State} {r : SRef} {c : Core} (hc : s.core? r = some c)
include hc

/-- Stopping a stream is what its unit may still do, then its stop. -/
theorem State.stopStream_spec {slot : Nat} (hslot : s.slotOf r.vr = some slot) (z : Nat) : ∃ t, s.Streamed r z t ∧
    s.stopStream r z = t.modCore r (Core.stop z (c.stream z).st) ∧ ((c.stream z).st ≠ .running → t = s) := by
  rw [State.stopStream, hc, hslot]
  dsimp only
  refine ⟨_, ?_, rfl, ?_⟩
  · split
    · exact State.Streamed.finishEntry s _ _ _ _
    · exact .refl s
  · exact fun h => if_neg fun hrun => h hrun.1

theorem State.stopped_stopStream {slot : Nat} (hslot : s.slotOf r.vr = some slot) {z : Nat} (hz : z < 16) :
    ∃ c', s.Stopped r [z] c (s.stopStream r z) c' := by
  obtain ⟨t, hst, heq, hsame⟩ := State.stopStream_spec hc hslot z
  obtain ⟨k, hk, hck⟩ := hst.core c hc
  have hstop : s.Streamed r z (s.stopStream r z) := hst.trans (heq ▸ .modCore t (Core.streamed_stop z _))
  have hcore : (s.stopStream r z).core? r = some (k.stop z (c.stream z).st) :=
    heq ▸ t.core?_modCore_self r (fun x => (x.streamed_stop z _).coreno) hk
  have hstreamed : c.Streamed z (k.stop z (c.stream z).st) := hck.trans (k.streamed_stop z _)
  refine ⟨_, hstop.cur, hstop.slotOf, hcore, hstreamed.strand, fun z' h => ?_, fun i hidle hcalm => ?_⟩
  · by_cases hzz : z' = z
    · exact hzz ▸ Core.not_running_stop hz _ _
    · rw [hstreamed.stream z' hzz]
      exact h.resolve_left (by simpa using hzz)
  · obtain rfl := hsame (by simp [hidle z hz])
    obtain rfl : c = k := Option.some.inj (hc.symm.trans hk)
    refine ⟨by rw [heq, State.modCore_memories], Core.strand_stop_of_calm hcalm z _, fun z' hz' => ?_⟩
    by_cases hzz : z' = z
    · rw [hzz, Core.stream_stop hz, if_pos (hidle z hz)]
    · rw [hstreamed.stream z' hzz, hidle z' hz']

end

theorem State.stopped_foldl {r : SRef} {zs : List Nat} (hzs : ∀ z ∈ zs, z < 16) {s : State} {c : Core} (hc : s.core? r = some c)
    {slot : Nat} (hslot : s.slotOf r.vr = some slot) : ∃ c', s.Stopped r zs c (zs.foldl (fun s z => s.stopStream r z) s) c' := by
  induction zs generalizing s c with
  | nil => exact ⟨c, .refl hc⟩
  | cons z zs ih =>
    obtain ⟨c₁, h₁⟩ := State.stopped_stopStream hc hslot (hzs z List.mem_cons_self)
    obtain ⟨c₂, h₂⟩ := ih (fun x hx => hzs x (List.mem_cons_of_mem z hx)) h₁.core (h₁.slotOf.trans hslot)
    exact ⟨c₂, h₁.cons h₂⟩

/-- The streams of a strand (R247): 0 to 7 are of L, 8 to 15 of S. -/
def ownStreams : StrandId → List Nat
  | .l => [0, 1, 2, 3, 4, 5, 6, 7]
  | .c => []
  | .s => [8, 9, 10, 11, 12, 13, 14, 15]

theorem mem_ownStreams {i : StrandId} {z : Nat} : z ∈ ownStreams i ↔ z < 16 ∧ (i = .l ∧ z < 8 ∨ i = .s ∧ 8 ≤ z) := by
  cases i <;> simp [ownStreams] <;> omega

theorem State.stopStreams_eq (s : State) (r : SRef) (i : StrandId) :
    s.stopStreams r i = (ownStreams i).foldl (fun s z => s.stopStream r z) s := by
  cases i <;> rfl

/-- Of a rank that is not resident no stream is stopped. -/
theorem State.stopStreams_notResident {s : State} {r : SRef} (h : s.slotOf r.vr = none) (i : StrandId) : s.stopStreams r i = s := by
  have hid : ∀ z, s.stopStream r z = s := fun z => by simp [State.stopStream, h]
  rw [State.stopStreams_eq]
  induction ownStreams i with
  | nil => rfl
  | cons z zs ih => rw [List.foldl_cons, hid z, ih]

theorem State.stopped_stopStreams {s : State} {r : SRef} {c : Core} (hc : s.core? r = some c) (i : StrandId) :
    ∃ zs c', s.Stopped r zs c (s.stopStreams r i) c' ∧ ((s.slotOf r.vr).isSome = true → zs = ownStreams i) := by
  cases hslot : s.slotOf r.vr with
  | none =>
    rw [State.stopStreams_notResident hslot i]
    exact ⟨[], c, .refl hc, by simp⟩
  | some slot =>
    obtain ⟨c', hstopped⟩ := State.stopped_foldl (zs := ownStreams i) (fun z h => (mem_ownStreams.mp h).1) hc hslot
    exact ⟨_, c', State.stopStreams_eq s r i ▸ hstopped, fun _ => rfl⟩

/-! #### EXIT -/

/-- The queues of a core after the EXIT of its strand `i`. -/
def Core.closedBy (i : StrandId) (c : Core) : Core := if i = .l then c.closeQueues else c

@[simp] theorem Core.closedBy_coreno (i : StrandId) (c : Core) : (c.closedBy i).coreno = c.coreno := by
  unfold Core.closedBy
  split <;> rfl

@[simp] theorem Core.closedBy_strand (i j : StrandId) (c : Core) : (c.closedBy i).strand j = c.strand j := by
  unfold Core.closedBy
  split
  · cases j <;> rfl
  · rfl

@[simp] theorem Core.closedBy_stream (i : StrandId) (c : Core) (z : Nat) : (c.closedBy i).stream z = c.stream z := by
  unfold Core.closedBy
  split <;> rfl

/-- An ended strand (R193). -/
def Strand.exited (st : Strand) : Strand := { st with ended := true, chain := none, wait := none, waited := 0, waitiLeft := 0 }

theorem exec_exit_eq {s : State} {st : Strand} (hs : s.strand? s.cur = some st)
    (hcur : (s.stopStreams s.cur s.cur.strand).cur = s.cur) :
    exec .exit s = .next ((if s.cur.strand = .l then (s.stopStreams s.cur s.cur.strand).modCore s.cur Core.closeQueues
      else s.stopStreams s.cur s.cur.strand).modStrand s.cur Strand.exited) := by
  rw [exec_exit, execExit, State.acting_eq hs]
  dsimp only
  rw [hcur]
  split
  · rw [State.modCore_cur, hcur]
    rfl
  · rw [hcur]
    rfl

theorem State.core?_closed {t : State} {r : SRef} {c : Core} (h : t.core? r = some c) :
    (if r.strand = .l then t.modCore r Core.closeQueues else t).core? r = some (c.closedBy r.strand) := by
  unfold Core.closedBy
  split
  · exact t.core?_modCore_self r (f := Core.closeQueues) (fun _ => rfl) h
  · exact h

theorem Core.closed_of_closedBy_l (c : Core) :
    (∀ q ∈ (c.closedBy .l).tq.toList, q.closed = true) ∧ ∀ q ∈ (c.closedBy .l).sq.toList, q.closed = true := by
  simp [Core.closedBy, Core.closeQueues]

theorem Core.queues_modStrand (c : Core) (i : StrandId) (f : Strand → Strand) :
    (c.modStrand i f).tq = c.tq ∧ (c.modStrand i f).sq = c.sq := by
  cases i <;> exact ⟨rfl, rfl⟩

/-- Settles O13: EXIT is the stop of the strand's streams, the close of the queues by L, and the end of the strand. -/
theorem exitEndsStrand : Obligations.ExitEndsStrand := by
  intro s st k hs hk
  obtain ⟨zs, c, hstop, hown⟩ := State.stopped_stopStreams hk s.cur.strand
  have hst : k.strand s.cur.strand = st := by simpa [State.strand?, hk] using hs
  have hcore := State.core?_closed hstop.core
  have hend := (State.core?_modCore_self _ _ (fun x => Core.modStrand_coreno x s.cur.strand Strand.exited)) hcore
  have hstrand : ((c.closedBy s.cur.strand).modStrand s.cur.strand Strand.exited).strand s.cur.strand =
      (c.strand s.cur.strand).exited := by
    rw [Core.strand_modStrand, if_pos rfl, Core.closedBy_strand]
  obtain ⟨htq, hsq⟩ := Core.queues_modStrand (c.closedBy s.cur.strand) s.cur.strand Strand.exited
  have hkept := hstop.strand s.cur.strand
  rw [hst] at hkept
  refine ⟨_, _, _, exec_exit_eq hs hstop.cur, hend, by rw [State.strand?, State.modStrand, hend, Option.map_some, hstrand], rfl, rfl, rfl,
    by rw [hkept]; rfl, by rw [hkept]; rfl, by rw [hkept]; rfl, fun hslot z hz howner => ?_, fun n hslot hidle hcalm => ?_, fun hl => ?_,
    fun hc => ?_⟩
  · rw [Core.stream_modStrand, Core.closedBy_stream]
    exact hstop.stopped z (.inl (hown hslot ▸ mem_ownStreams.mpr ⟨hz, howner⟩))
  · obtain ⟨hmem, hsame, -⟩ := hstop.calm s.cur.strand hidle (hst ▸ hcalm)
    refine ⟨State.sameMemory_of_memories (.trans ?_ hmem), by rw [hsame, hst]; rfl⟩
    split <;> rfl
  · rw [htq, hsq, hl]
    exact c.closed_of_closedBy_l
  · have hsame : some c = some k := by
      rw [← hstop.core, hc]
      exact hk
    rw [htq, hsq, hc, Option.some.inj hsame]
    exact ⟨rfl, rfl⟩

end Sys2Proof.Machine

/-! ### SDESC, SSET, SBIND, SUNBIND and SSTAT (09 R243 to R248) -/

namespace Sys2Proof.Machine

theorem recordViolation_none {a : Word} {n al : Nat} (hin : a.toNat + n ≤ 0x80000) (hal : a.toNat % al = 0) :
    recordViolation a n al = none := by
  rw [recordViolation, if_neg (by omega), if_pos hal]

/-- The strand that owns the half in which a register lies. -/
theorem owner_of_ownsHalf {i : StrandId} {z : Nat} (h : ownsHalf i z = true) : (if z < 8 then StrandId.l else .s) = i := by
  cases i <;> simp [ownsHalf] at h ⊢ <;> omega

/-- A check that is passed on the way to an accepted result. -/
theorem ite_error_eq_ok_iff {ε α : Type} {p : Prop} [Decidable p] {e : ε} {x : Except ε α} {a : α} :
    (if p then .error e else x) = .ok a ↔ ¬ p ∧ x = .ok a := by
  by_cases h : p <;> simp [h]

/-- A binding that is accepted: the stream runs on its queue, having been bound or done before, and the queue is one of its side. -/
theorem Core.bindStream_ok {k k' : Core} {z q : Nat} {d : BitVec 512} (h : k.bindStream z q d = .ok k') :
    k' = { k.setStream z { st := .running, descAddr := (k.stream z).descAddr, desc := d, q := q, serial := k.nextId } with
      nextId := k.nextId + 1 } ∧ ((k.stream z).st = .bound ∨ (k.stream z).st = .done) ∧
      if 8 ≤ z then 8 ≤ q ∧ q < 12 else q < 8 := by
  unfold Core.bindStream at h
  simp only [ite_error_eq_ok_iff] at h
  obtain ⟨hst, hq, -, -, -, -, hk'⟩ := h
  refine ⟨(Except.ok.inj hk').symm, by tauto, ?_⟩
  split <;> simp_all

theorem Core.stream_bindStream {k k' : Core} {z q : Nat} {d : BitVec 512} (hz : z < 16) (h : k.bindStream z q d = .ok k') :
    (k'.stream z).st = .running ∧ (k'.stream z).q = q := by
  rw [(Core.bindStream_ok h).1]
  refine ⟨?_, ?_⟩
  · exact congrArg Stream.st (k.stream_setStream hz _)
  · exact congrArg Stream.q (k.stream_setStream hz _)

/-- The owner of a stopped stream has no fault of it pending (R247). -/
theorem Core.asyncs_stop_owner {i : StrandId} {z : Nat} (h : ownsHalf i z = true) (was : ZState) (c : Core) :
    ((c.stop z was).strand i).asyncs = (c.strand i).asyncs.filter fun a => !(a.src == 1 && a.zidx == z) := by
  rw [Core.stop, owner_of_ownsHalf h, Core.strand_modStrand, if_pos rfl, Core.strand_setStream]

@[simp] theorem Strand.finish_asyncs (st : Strand) (i : StrandId) (n : Word) : (st.finish i n).asyncs = st.asyncs := by
  unfold Strand.finish
  dsimp only
  split <;> simp

theorem State.strand_of_core? {s : State} {r : SRef} {st : Strand} {k : Core} (hs : s.strand? r = some st) (hk : s.core? r = some k) :
    k.strand r.strand = st := by
  simpa [State.strand?, hk] using hs

theorem State.core?_retire {s : State} {k : Core} (hk : s.core? s.cur = some k) (st : Strand) :
    (s.retire st).core? s.cur = some (k.modStrand s.cur.strand fun _ => st.finish s.cur.strand 4) :=
  s.core?_modCore_self s.cur (fun c => Core.modStrand_coreno c s.cur.strand _) hk

/-- Stopping a stream that has no entry in progress is its stop alone (R247). -/
theorem State.stopStream_of_idle {s : State} {r : SRef} {c : Core} (hc : s.core? r = some c) {slot : Nat}
    (hslot : s.slotOf r.vr = some slot) {z : Nat} (hidle : (c.stream z).idxTaken = []) :
    s.stopStream r z = s.modCore r (Core.stop z (c.stream z).st) := by
  rw [State.stopStream, hc, hslot]
  dsimp only
  rw [if_neg fun h => h.2.2 hidle]
  rfl

section
variable {s : State} {st : Strand} {k : Core} {z : ZReg} (hs : s.strand? s.cur = some st)

theorem State.withStream_foreign (h : ownsHalf s.cur.strand z.toNat = false) (i : Instr) (f : Stream → State) :
    s.withStream st i z.toNat f = s.trap st 1 (s.wordVal i) := by
  simp [State.withStream, h, State.illop]

theorem State.withStream_own (h : ownsHalf s.cur.strand z.toNat = true) (hk : s.core? s.cur = some k) (i : Instr) (f : Stream → State) :
    s.withStream st i z.toNat f = f (k.stream z.toNat) := by
  simp [State.withStream, h, hk]

include hs

/-- Every instruction of the group first asks whether the strand owns the register (R243). -/
theorem exec_namesStream (x : XReg) (w q : BitVec 4) {i : Instr}
    (hi : i ∈ [Instr.sdesc z x, Instr.sset z w x, Instr.sbind z q, Instr.sunbind z, Instr.sstat z x]) :
    ∃ f, exec i s = .next (s.withStream st i z.toNat f) := by
  simp only [List.mem_cons, List.not_mem_nil, or_false] at hi
  obtain rfl | rfl | rfl | rfl | rfl := hi
  all_goals exact ⟨_, State.acting_eq hs _⟩

variable (hk : s.core? s.cur = some k) (hown : ownsHalf s.cur.strand z.toNat = true)
include hk hown

theorem exec_sdesc_own {x : XReg} (hrun : (k.stream z.toNat).st ≠ .running) (hfault : (k.stream z.toNat).st ≠ .faulted)
    (hin : (st.rx x).toNat + 64 ≤ 0x80000) (hal : (st.rx x).toNat % 64 = 0) :
    exec (.sdesc z x) s = .next ((s.modCore s.cur fun c =>
      c.setStream z.toNat { k.stream z.toNat with st := .bound, descAddr := (st.rx x).toNat }).retire st) := by
  rw [exec_sdesc, execSdesc, State.acting_eq hs, State.withStream_own hown hk]
  simp only [hrun, hfault, or_self, if_false, recordViolation_none hin hal]

theorem exec_sset_own (w : BitVec 4) (x : XReg) (h : (k.stream z.toNat).st ≠ .unbound) :
    exec (.sset z w x) s = .next ((s.padPut ((s.slotOf s.cur.vr).getD 16) s.cur.core ((k.stream z.toNat).descAddr + 4 * w.toNat)
      (leBytes 4 (st.rx x).toNat)).retire st) := by
  rw [exec_sset, execSset, State.acting_eq hs, State.withStream_own hown hk]
  exact congrArg _ (if_neg h)

theorem exec_sbind_ok {q : BitVec 4} {k' : Core}
    (h : k.bindStream z.toNat q.toNat (s.descAt s.cur.vr s.cur.core (k.stream z.toNat).descAddr) = .ok k') :
    exec (.sbind z q) s = .next ((s.modCore s.cur fun _ => k').retire st) := by
  rw [exec_sbind, execSbind, State.acting_eq hs, State.withStream_own hown hk, State.withCore_eq hk, h]

theorem exec_sunbind_idle {slot : Nat} (hslot : s.slotOf s.cur.vr = some slot) (hbound : (k.stream z.toNat).st ≠ .unbound)
    (hidle : (k.stream z.toNat).idxTaken = []) :
    exec (.sunbind z) s = .next ((s.modCore s.cur (Core.stop z.toNat (k.stream z.toNat).st)).retire
      ((k.stop z.toNat (k.stream z.toNat).st).strand s.cur.strand)) := by
  have hcore := s.core?_modCore_self s.cur (fun c => (c.streamed_stop z.toNat (k.stream z.toNat).st).coreno) hk
  rw [exec_sunbind, execSunbind, State.acting_eq hs, State.withStream_own hown hk, if_neg hbound]
  simp only [State.stopStream_of_idle hk hslot hidle, State.modCore_cur, State.strand?, hcore, Option.map_some]

theorem exec_sstat_own (d : XReg) :
    exec (.sstat z d) s = .next (s.retire (st.wx d (BitVec.ofNat 64 ((k.stream z.toNat).descAddr * 2 ^ 32 +
      (k.stream z.toNat).count.toNat * 2 ^ 16 + (k.stream z.toNat).q * 2 ^ 8 + (k.stream z.toNat).st.code)))) := by
  rw [exec_sstat, execSstat, State.acting_eq hs, State.withStream_own hown hk]
end

/-- Settles O22: the register must be the strand's own, then the rules above. -/
theorem streamInstructions : Obligations.StreamInstructions := by
  intro s st k z slot hs hk hslot zr
  refine ⟨fun hforeign x w q i hi => ?_, fun hown => ⟨fun x hrun hfault hin hal => exec_sdesc_own hs hk hown hrun hfault hin hal,
    fun w x hbound => ?_, fun q k' hbind => ?_, fun hbound hidle => ?_, fun d => ?_⟩⟩
  · obtain ⟨f, hf⟩ := exec_namesStream hs x w q hi
    rw [hf, State.withStream_foreign hforeign]
  · rw [exec_sset_own hs hk hown w x hbound, hslot]
    rfl
  · have hdesc : s.descAt s.cur.vr s.cur.core zr.descAddr =
        BitVec.ofNat 512 (leNat (memBytes (s.slot slot).pads (s.cur.core * 0x80000 + zr.descAddr) 64)) := by
      rw [State.descAt, hslot]
      rfl
    obtain ⟨hrun, hq⟩ := Core.stream_bindStream z.isLt hbind
    obtain ⟨-, hwas, hside⟩ := Core.bindStream_ok hbind
    exact ⟨exec_sbind_ok hs hk hown (hdesc ▸ hbind), hrun, hq, hwas, hside⟩
  · have hcore := s.core?_modCore_self s.cur (fun c => (c.streamed_stop z.toNat zr.st).coreno) hk
    refine ⟨_, _, _, exec_sunbind_idle hs hk hown hslot hbound hidle, State.core?_retire hcore _, ?_,
      State.strand?_retire (by rw [State.strand?, State.modCore_cur, hcore, Option.map_some]) _, ?_, State.sameMemory_of_memories rfl, ?_⟩
    · rw [Core.stream_modStrand, Core.stream_stop z.isLt, if_neg hbound]
    · rw [Strand.finish_x, (k.streamed_stop z.toNat zr.st).strand s.cur.strand, State.strand_of_core? hs hk]
    · intro a ha
      rw [Strand.finish_asyncs, Core.asyncs_stop_owner hown] at ha
      simpa [imp_iff_not_or] using (List.mem_filter.mp ha).2
  · exact exec_sstat_own hs hk hown d

end Sys2Proof.Machine

/-! ### TLOAD, TDIFF, TSWAP, TCRC (09 R259 to R263) -/

namespace Sys2Proof.Machine

/-- A record that fits into the own scratchpad at an aligned place breaks no bound (04 R97, R98). -/
theorem recordSpan_none {core off : Nat} {a : Word} (h : scratchAt core a.toNat = .own off) {n al : Nat} (hin : off + n ≤ 0x80000)
    (hal : off % al = 0) : recordSpan core a n al = none := by
  rw [recordSpan_own h, if_neg (by omega), if_pos hal]

section
variable {s : State} {st : Strand} {c : BitVec 3}

theorem State.withClass_priv (hc : c = 2) (hrank : st.sup = false) (i : Instr) (f : State) :
    s.withClass st i c.toNat f = s.trap st 2 (s.wordVal i) := by
  simp [State.withClass, hc, hrank, State.priv]

theorem State.withClass_allowed (hallow : c = 2 → st.sup = true) (i : Instr) (f : State) : s.withClass st i c.toNat f = f := by
  refine if_neg fun h => ?_
  have hc : c = 2 := BitVec.eq_of_toNat_eq h.1
  simp [hallow hc] at h

variable (hs : s.strand? s.cur = some st)
include hs

/-- The four instructions first ask for the privilege of the class (06 R143). -/
theorem exec_namesPlane (a : XReg) {i : Instr} (hi : i ∈ [Instr.tload c a, .tdiff c a, .tswap c, .tcrc c a]) :
    ∃ f, exec i s = .next (s.withClass st i c.toNat f) := by
  simp only [List.mem_cons, List.not_mem_nil, or_false] at hi
  obtain rfl | rfl | rfl | rfl := hi
  all_goals exact ⟨_, State.acting_eq hs _⟩

variable (hallow : c = 2 → st.sup = true)
include hallow

section
variable {slot off : Nat} {a : XReg} (hslot : s.slotOf s.cur.vr = some slot) (hown : scratchAt s.cur.core (st.rx a).toNat = .own off)
  (hal : off % 8 = 0)
include hslot hown hal

/-- TLOAD of a record that keeps the layout goes to the check of its CRC (R261). -/
theorem exec_tload_record (hin : off + 4104 ≤ 0x80000) (hhigh : leNat (((s.padBytes slot s.cur.core off 4104).drop 4).take 4) = 0) :
    exec (.tload c a) s = .next (s.stage st c.toNat (BitVec.ofNat 32 (leNat ((s.padBytes slot s.cur.core off 4104).take 4)))
      (BitVec.ofNat 32768 (leNat ((s.padBytes slot s.cur.core off 4104).drop 8)))) := by
  rw [exec_tload, execTload, State.acting_eq hs, State.withClass_allowed hallow]
  simp [recordSpan_none hown hin hal, padOff_own hown, hslot, hhigh]

/-- TDIFF of words that keep the layout goes to the check of the CRC (R261). -/
theorem exec_tdiff_record {n : Nat} {new : BitVec 32768} (hn : leNat ((s.padBytes slot s.cur.core off 8).take 4) = n) (hmax : n ≤ 2048)
    (hin : off + 8 + 4 * n ≤ 0x80000)
    (hnew : applyDiff (s.planes s.cur.vr c.toNat).active (wordsOfBytes n (s.padBytes slot s.cur.core (off + 8) (4 * n))) = .ok new) :
    exec (.tdiff c a) s = .next (s.stage st c.toNat
      (BitVec.ofNat 32 (leNat ((s.padBytes slot s.cur.core off 8).drop 4))) new) := by
  have hcount : bitsAt (BitVec.ofNat 32 n) 0 16 = n := by
    rw [bitsAt_zero_eq, BitVec.toNat_ofNat]
    omega
  have hrest : bitsAt (BitVec.ofNat 32 n) 16 16 = 0 := by
    rw [bitsAt_eq, BitVec.toNat_ofNat]
    omega
  rw [exec_tdiff, execTdiff, State.acting_eq hs, State.withClass_allowed hallow]
  simp only [recordSpan_none hown (show off + 8 ≤ 0x80000 by omega) hal, padOff_own hown, hslot, Option.getD_some, hn, hcount, hrest,
    recordSpan_none hown (show off + (8 + 4 * n) ≤ 0x80000 by omega) hal, hnew, ne_eq, not_true, false_or, if_neg (Nat.not_lt.mpr hmax)]
end

/-- TSWAP of class 2 is kept with the rank of the strand (log entry 41), that of another class with its planes (R262). -/
theorem exec_tswap_eq : exec (.tswap c) s = .next ((if c = 2 then s.modRank s.cur.vr fun r => { r with migSwap := true }
    else s.modPlanes s.cur.vr c.toNat fun p => { p with swap := true }).retire st) := by
  rw [exec_tswap, execTswap, State.acting_eq hs, State.withClass_allowed hallow]

theorem exec_tcrc_eq (a : XReg) :
    exec (.tcrc c a) s = .next (s.retire (st.wx a ((planeCrc (s.planes s.cur.vr c.toNat).active).setWidth 64))) := by
  rw [exec_tcrc, execTcrc, State.acting_eq hs, State.withClass_allowed hallow]
end

/-- Settles O28: the privilege of the class first, then the layout of the record, and the CRC decides. -/
theorem templatePlanes : Obligations.TemplatePlanes := by
  intro s st c a slot hs hslot off hoff pad put back wrong
  have hown : off < 0x80000 → scratchAt s.cur.core (st.rx a).toNat = .own off := fun hlow =>
    hoff.elim (fun h => h ▸ scratchAt_low (h ▸ hlow)) fun ⟨hcore, h⟩ => h ▸ scratchAt_alias hcore hlow
  have hpad : ∀ o n, pad o n = s.padBytes slot s.cur.core (off + o) n := fun o n => by rw [State.padBytes, ← Nat.add_assoc]
  refine ⟨fun hc hrank i hi => ?_, fun hallow => ⟨fun hin hal hhigh => ?_, fun n new hn hmax hin hal hnew => ?_, fun hc => ?_,
    fun hc => ?_, exec_tcrc_eq hs hallow a⟩⟩
  · obtain ⟨f, hf⟩ := exec_namesPlane hs a hi
    rw [hf, State.withClass_priv hc hrank]
  · rw [hpad] at hhigh ⊢
    exact exec_tload_record hs hallow hslot (hown (by omega)) hal hin hhigh
  · rw [hpad] at hn hnew ⊢
    exact exec_tdiff_record hs hallow hslot (hown (by omega)) hal hn hmax hin hnew
  · rw [exec_tswap_eq hs hallow, if_neg hc]
  · rw [exec_tswap_eq hs hallow, if_pos hc]

end Sys2Proof.Machine

/-! ### EC and ECR (06 R153 to R155; 09 R250 to R252) -/

namespace Sys2Proof.Machine

/-! #### Patch words -/

theorem patchBad_iff (p : BitVec 32) : patchBad p = true ↔ bitsAt p 16 4 ≠ 0 ∨ (bitsAt p 21 5 = 0 ∧ bitAt p 20 = true) := by
  simp [patchBad]

theorem tvalWord_one (p : BitVec 32) : tvalWord 1 p = BitVec.ofNat 64 (2 ^ 32 + p.toNat) := by
  apply BitVec.eq_of_toNat_eq
  simp [tvalWord]

/-- The amendments of the open chain. -/
def Strand.held (st : Strand) : List (Nat × BitVec 16) :=
  match st.chain with
  | some h => h.amends
  | none => []

/-- A patch word that keeps the chain rules: no reserved bit, no amendment of field 0, the engine and template of the open chain. -/
def Strand.patchLegal (st : Strand) (cls idx : Nat) (p : BitVec 32) : Prop :=
  bitsAt p 16 4 = 0 ∧ ¬ (bitsAt p 21 5 = 0 ∧ bitAt p 20 = true) ∧
    ∀ h, st.chain = some h → h.cls = cls ∧ h.idx = idx ∧ h.tpl = bitsAt p 26 6

theorem Strand.patchBad_of_patchLegal {st : Strand} {cls idx : Nat} {p : BitVec 32} (h : st.patchLegal cls idx p) : patchBad p = false := by
  obtain ⟨hzero, hfield, -⟩ := h
  rw [← Bool.not_eq_true, patchBad_iff]
  tauto

/-- The amendments with that of a patch word, which names none with field 0. -/
def Strand.amended (st : Strand) (p : BitVec 32) : List (Nat × BitVec 16) :=
  if bitsAt p 21 5 = 0 then st.held else st.held ++ [(bitsAt p 21 5, p.extractLsb' 0 16)]

section
variable {s : State} {st : Strand} {size : Word} {cls idx : Nat} {p : BitVec 32} {bad : Word}

theorem State.patch_illegal (h : ¬ st.patchLegal cls idx p) : s.patch st size cls idx p bad = s.trap st 1 bad := by
  refine if_pos ?_
  rw [Bool.or_eq_true, patchBad_iff]
  by_contra hno
  refine h ⟨by tauto, by tauto, fun c hc => ?_⟩
  rw [hc] at hno
  simp only [Bool.or_eq_true, bne_iff_ne] at hno
  tauto

theorem State.patch_legal (h : st.patchLegal cls idx p) : s.patch st size cls idx p bad =
    if bitAt p 20 then
      s.complete size { st with chain := some { cls := cls, idx := idx, tpl := bitsAt p 26 6, amends := st.amended p } }
    else s.submit st size cls idx p (st.amended p) := by
  refine if_neg ?_
  rw [Bool.or_eq_true, Strand.patchBad_of_patchLegal h]
  cases hc : st.chain with
  | none => simp
  | some c =>
    obtain ⟨hcls, hidx, htpl⟩ := h.2.2 c hc
    simp [hcls, hidx, htpl]

end

section
variable {s : State} {st : Strand} (hs : s.strand? s.cur = some st) {i : Instr} {c : BitVec 4} {j : BitVec 6} {p : BitVec 32}
  {size : Word} (hi : (i = .ec c j p ∧ size = 8) ∨ (∃ x, i = .ecr c j x ∧ p = (st.rx x).setWidth 32 ∧ size = 4))
include hs hi

/-- A class that the strand may name: the patch word goes to the chain, of EC (R250) as of ECR. -/
theorem exec_patchWord (hallow : c ≠ 2 ∨ st.sup = true) :
    exec i s = .next (s.patch st size c.toNat j.toNat p (tvalWord 1 p)) := by
  have hpriv : ¬ (c = 2 ∧ (!st.sup) = true) := by
    rintro ⟨hc, hrank⟩
    simp_all
  obtain ⟨rfl, rfl⟩ | ⟨x, rfl, rfl, rfl⟩ := hi
  · rw [exec_ec, execEc, State.acting_eq hs]
    by_cases hbad : patchBad p = true
    · rw [if_pos hbad, State.patch_illegal fun h => by simp [Strand.patchBad_of_patchLegal h] at hbad]
    · rw [if_neg hbad, if_neg hpriv]
  · rw [exec_ecr, execEcr, State.acting_eq hs]
    exact congrArg _ (if_neg hpriv)

/-- Class 2 at rank privilege: PRIV, in EC after the bits that the patch word shows by itself (06 R154). -/
theorem exec_patchWord_priv (hc : c = 2) (hrank : st.sup = false) :
    exec i s = .next (if size = 8 ∧ patchBad p = true then s.trap st 1 (tvalWord 1 p) else s.trap st 2 (s.wordVal i)) := by
  have hpriv : c = 2 ∧ (!st.sup) = true := ⟨hc, by simp [hrank]⟩
  obtain ⟨rfl, rfl⟩ | ⟨x, rfl, rfl, rfl⟩ := hi
  · rw [exec_ec, execEc, State.acting_eq hs, if_pos hpriv]
    simp only [true_and]
    rfl
  · rw [exec_ecr, execEcr, State.acting_eq hs]
    dsimp only
    rw [if_pos hpriv, if_neg fun h => absurd h.1 (by decide)]
    rfl
end

/-! #### Submission (09 R250 to R252) -/

/-- What the building of a command and the marking of dirty pages leave alone: the acting strand, the commands, the page-lock table, the
strands. -/
structure State.KeepsStrands (s t : State) : Prop where
  cur : t.cur = s.cur
  cmds : t.cmds = s.cmds
  locks : t.locks = s.locks
  strand : ∀ r, t.strand? r = s.strand? r

namespace State.KeepsStrands

variable {s t u : State}

theorem refl (s : State) : s.KeepsStrands s := ⟨rfl, rfl, rfl, fun _ => rfl⟩

theorem trans (hst : s.KeepsStrands t) (htu : t.KeepsStrands u) : s.KeepsStrands u :=
  ⟨htu.cur.trans hst.cur, htu.cmds.trans hst.cmds, htu.locks.trans hst.locks, fun r => (htu.strand r).trans (hst.strand r)⟩

theorem markDirty (s : State) (a : Nat) : s.KeepsStrands (s.markDirty a) := ⟨rfl, rfl, rfl, fun _ => rfl⟩

theorem dirtyLeaves (s : State) (vr : Nat) (k : Core) (gs : List Region) : s.KeepsStrands (s.dirtyLeaves vr k gs) := by
  induction gs generalizing s with
  | nil => exact refl s
  | cons g gs ih =>
    unfold State.dirtyLeaves
    split
    · refine trans ?_ (ih _)
      split
      · exact refl s
      · split
        · exact markDirty s _
        · exact refl s
    · exact ih s

/-- The body of a command that a template builds: a collective counts its replays, no other changes the state. -/
theorem buildBody {r : SRef} {rk : Rank} {k : Core} {slot cls : Nat} {tpl : BitVec 512} {b : Build}
    (hb : s.buildCmd r rk k slot cls tpl = some b) (u : State) : u.KeepsStrands (b.body u).2 := by
  unfold State.buildCmd at hb
  split at hb
  · unfold buildCopy at hb
    obtain ⟨-, hb⟩ := Option.ite_none_left_eq_some.mp hb
    obtain rfl := Option.some.inj hb
    exact refl u
  · unfold buildColl at hb
    obtain ⟨-, hb⟩ := Option.ite_none_left_eq_some.mp hb
    split at hb
    · cases hb
    · obtain ⟨-, hb⟩ := Option.ite_none_left_eq_some.mp hb
      obtain rfl := Option.some.inj hb
      exact ⟨rfl, rfl, rfl, fun q => u.strand?_modRank r.vr q _⟩
  · unfold buildMigr at hb
    obtain ⟨-, hb⟩ := Option.ite_none_left_eq_some.mp hb
    obtain rfl := Option.some.inj hb
    exact refl u
  · unfold buildGather at hb
    obtain ⟨-, hb⟩ := Option.ite_none_left_eq_some.mp hb
    obtain rfl := Option.some.inj hb
    exact refl u

end State.KeepsStrands

/-- The class by which the permissions of a handle are asked (R251). -/
def permClass (cls : Nat) : Nat := match cls with | 0 => 3 | 1 => 5 | 2 => 6 | _ => 7

/-- The template of a plane with the amendments of a chain (06 R153). -/
def State.amendedTpl (s : State) (cls : Nat) (p : BitVec 32) (amends : List (Nat × BitVec 16)) : BitVec 512 :=
  amends.foldl (fun t a => tplSet t a.1 a.2.toNat) (planeTpl (s.planes s.cur.vr cls).active (bitsAt p 26 6))

/-- The pin of the page of a handle (13 R328). -/
def Core.pinOf (k : Core) (vr h : Nat) : Pin :=
  { vr := vr, va := (k.handle h).va, large := (k.handle h).large, frame := (k.handle h).frame }

/-- The handles that a command names. -/
def Build.handles (b : Build) : List Nat := b.regions.filterMap Region.handle?

/-- The command of a strand as it is queued (R251). -/
def State.newCmd (t : State) (st : Strand) (e slot : Nat) (pins : List Pin) (body : CmdBody) (raw : BitVec 512) : Cmd :=
  { id := t.nextId, by' := t.cur, sup := st.sup, engine := e, slot := slot, order := st.ecCount, st := .queued, pins := pins,
    body := body, raw := raw, wrote := [], spoiled := [], ending := false }

def State.enqueue (t : State) (c : Cmd) : State := { t with nextId := t.nextId + 1, cmds := t.cmds ++ [c] }

def Strand.submitted (st : Strand) : Strand := { st with chain := none, ecCount := st.ecCount + 1 }

theorem State.strand?_complete {s : State} {st0 : Strand} (h : s.strand? s.cur = some st0) (size : Word) (st : Strand) :
    (s.complete size st).strand? s.cur = some (st.finish s.cur.strand size) := by
  rw [State.complete, State.strand?_modStrand, h]
  rfl

@[simp] theorem Strand.finish_chain (st : Strand) (i : StrandId) (n : Word) : (st.finish i n).chain = st.chain := by
  unfold Strand.finish
  dsimp only
  split <;> simp

@[simp] theorem Strand.finish_ecCount (st : Strand) (i : StrandId) (n : Word) : (st.finish i n).ecCount = st.ecCount := by
  unfold Strand.finish
  dsimp only
  split <;> simp

section
variable {s : State} {st : Strand} {size : Word} {cls idx : Nat} {p : BitVec 32} {amends : List (Nat × BitVec 16)} {rk : Rank}
  {k : Core} {slot : Nat} {b : Build} {locks : List Lock}
  (hrk : s.rank? s.cur.vr = some rk) (hk : s.core? s.cur = some k) (hslot : s.slotOf s.cur.vr = some slot)
  (hb : s.buildCmd s.cur rk k slot cls (s.amendedTpl cls p amends) = some b)
  (hready : ∀ h ∈ b.handles, st.handlePending h = false)
  (hcheck : submitCheck s.cur.strand k (s.gangCores s.cur) (permClass cls) b.regions = none)
  (hroom : s.outstandingCmds s.cur (engineNo cls idx) < 16)
  (hpins : takePins s.locks (b.handles.dedup.map (k.pinOf s.cur.vr)) = some locks)
include hrk hk hslot hb hready hcheck hroom hpins

/-- A command whose checks pass, with room for it, is queued, and the instruction completes with the chain closed (R251). -/
theorem State.submit_eq {body : CmdBody} {t : State} (hbody : b.body { s with locks := locks } = (body, t)) :
    s.submit st size cls idx p amends =
      ((t.enqueue (t.newCmd st (engineNo cls idx) slot (b.handles.dedup.map (k.pinOf s.cur.vr)) body
        (s.amendedTpl cls p amends))).dirtyLeaves t.cur.vr k b.regions).complete size st.submitted := by
  have hnone : (b.regions.filterMap Region.handle?).find? (fun h => st.handlePending h) = none :=
    List.find?_eq_none.mpr fun h hh => by simp [hready h hh]
  rw [State.amendedTpl] at hb
  unfold State.submit
  rw [hrk, hk, hslot]
  dsimp only
  rw [hb]
  dsimp only
  rw [hnone]
  dsimp only
  generalize hfail : submitCheck s.cur.strand k (s.gangCores s.cur) _ b.regions = fail
  obtain rfl : fail = none := hfail.symm.trans hcheck
  dsimp only
  rw [if_neg (Nat.not_le.mpr hroom)]
  generalize htaken : takePins s.locks _ = taken
  obtain rfl : taken = some locks := htaken.symm.trans hpins
  dsimp only
  obtain rfl : (b.body _).2 = t := congrArg Prod.snd hbody
  obtain rfl : (b.body _).1 = body := congrArg Prod.fst hbody
  rfl

/-- What a queued command leaves: itself, its pins, and the strand with its chain closed. -/
theorem State.submit_spec (hs : s.strand? s.cur = some st) : ∃ cmd st', let t := s.submit st size cls idx p amends
    t.cmds = s.cmds ++ [cmd] ∧ cmd.by' = s.cur ∧ cmd.engine = engineNo cls idx ∧ cmd.order = st.ecCount ∧ cmd.st = .queued ∧
      cmd.pins = b.handles.dedup.map (k.pinOf s.cur.vr) ∧ t.locks = locks ∧ t.strand? s.cur = some st' ∧ st'.chain = none ∧
      st'.ecCount = st.ecCount + 1 ∧ st'.x = st.x := by
  obtain ⟨body, t, hbody⟩ : ∃ body t, b.body { s with locks := locks } = (body, t) := ⟨_, _, rfl⟩
  have hbuilt := State.KeepsStrands.buildBody hb { s with locks := locks }
  rw [hbody] at hbuilt
  obtain ⟨hcur, hcmds, hlocks, hstrand⟩ := hbuilt
  rw [State.submit_eq hrk hk hslot hb hready hcheck hroom hpins hbody]
  generalize hcmd : t.newCmd st (engineNo cls idx) slot (b.handles.dedup.map (k.pinOf s.cur.vr)) body (s.amendedTpl cls p amends) = cmd
  obtain ⟨hcur', hcmds', hlocks', hstrand'⟩ := State.KeepsStrands.dirtyLeaves (t.enqueue cmd) t.cur.vr k b.regions
  generalize (t.enqueue cmd).dirtyLeaves t.cur.vr k b.regions = u at *
  have hcur_u : u.cur = s.cur := hcur'.trans hcur
  have hstrand_u : u.strand? u.cur = some st := by rw [hcur_u, hstrand', ← hs]; exact hstrand s.cur
  refine ⟨cmd, st.submitted.finish u.cur.strand size, ?_, ?_, ?_, ?_, ?_, ?_, ?_, ?_, ?_, ?_, ?_⟩
  · exact hcmds'.trans (congrArg (· ++ [cmd]) hcmds)
  · exact hcmd ▸ hcur
  · exact hcmd ▸ rfl
  · exact hcmd ▸ rfl
  · exact hcmd ▸ rfl
  · exact hcmd ▸ rfl
  · exact hlocks'.trans hlocks
  · rw [← hcur_u]
    exact State.strand?_complete hstrand_u size _
  · exact Strand.finish_chain _ _ _
  · exact Strand.finish_ecCount _ _ _
  · exact Strand.finish_x _ _ _
end

/-- Settles O27: the bits of the patch word and the privilege, the chain rules, and the submission. -/
theorem engineCommandWords : Obligations.EngineCommandWords := by
  intro s st hs i c j p size hi own
  have hbad : patchBad p = true ↔ own := patchBad_iff p
  refine ⟨fun hc hrank => ?_, fun hallow => ?_⟩
  · rw [exec_patchWord_priv hs hi hc hrank, tvalWord_one]
    refine ⟨fun h => congrArg _ (if_neg ?_), fun hsize hown => congrArg _ (if_pos ⟨hsize, hbad.mpr hown⟩)⟩
    rintro ⟨rfl, hown⟩
    exact h.elim (by decide) fun h => h (hbad.mp hown)
  · intro tpl fld same held legal
    have hexec := exec_patchWord hs hi hallow
    refine ⟨fun hno => ?_, fun hok hchain => ?_, fun hok hlast rk k slot b hrk hk hslot hb => ?_⟩
    · rw [hexec, State.patch_illegal hno, tvalWord_one]
    · have hfield : fld ≠ 0 := fun hzero => hok.2.1 ⟨hzero, hchain⟩
      rw [hexec, State.patch_legal hok, if_pos hchain, Strand.amended, if_neg hfield]
      rfl
    · intro hands pins hready hcheck hroom locks hpins
      obtain ⟨cmd, st', h⟩ := State.submit_spec (size := size) (amends := st.amended p) hrk hk hslot hb hready hcheck hroom hpins hs
      rw [hexec, State.patch_legal hok, hlast]
      exact ⟨_, cmd, st', rfl, h⟩

end Sys2Proof.Machine

/-! ### The stream units (09 R236 to R242, R246) -/

namespace Sys2Proof.Machine

/-! #### What the stores of a drain read and write -/

/-- What the stores of a stream unit depend on and change: the memories, the next identity, the buffered stores of the rank. -/
def State.storeView (s : State) (vr : Nat) : (Memory × Memory × Vector Slot 16) × Nat × Option (List BStore) :=
  (s.memories, s.nextId, (s.rank? vr).map Rank.sbuf)

theorem State.storeView_iff {s t : State} {vr : Nat} : t.storeView vr = s.storeView vr ↔
    (t.mem = s.mem ∧ t.hostMem = s.hostMem ∧ t.slots = s.slots) ∧ t.nextId = s.nextId ∧
      (t.rank? vr).map Rank.sbuf = (s.rank? vr).map Rank.sbuf := by
  simp [State.storeView, State.memories]

@[simp] theorem State.modCore_storeView (s : State) (r : SRef) (f : Core → Core) (vr : Nat) :
    (s.modCore r f).storeView vr = s.storeView vr := by
  refine State.storeView_iff.mpr ⟨⟨rfl, rfl, rfl⟩, rfl, ?_⟩
  rw [State.modCore, State.modGang, State.rank?_modRank _ _ _ _ (fun k => Rank.modGang_vr k r.gang _), Option.map_map]
  congr 1
  funext k
  dsimp only [Function.comp]
  split <;> rfl

theorem State.rank?_bufferStore (s : State) (vr : Nat) (b : BStore) (v : Nat) : (s.bufferStore vr b).rank? v =
    (s.rank? v).map fun k => if v = vr then k.buffered { b with order := s.nextId } else k :=
  s.rank?_modRank vr v (Rank.buffered { b with order := s.nextId }) fun _ => rfl

theorem State.storeScratch_storeView {s t : State} {q : SRef} (h : t.storeView q.vr = s.storeView q.vr) (slot a : Nat) (bs : List Byte) :
    (t.storeScratch q slot a bs).storeView q.vr = (s.storeScratch q slot a bs).storeView q.vr := by
  obtain ⟨⟨hmem, hhost, hslots⟩, hid, hbuf⟩ := State.storeView_iff.mp h
  unfold State.storeScratch
  split
  · exact State.storeView_iff.mpr ⟨⟨hmem, hhost, by simp [State.padPut, State.modSlot, State.slot, hslots]⟩, hid, hbuf⟩
  · refine State.storeView_iff.mpr ⟨⟨hmem, hhost, hslots⟩, congrArg (· + 1) hid, ?_⟩
    have happend : ∀ u : State, ∀ b : BStore, ((u.bufferStore q.vr b).rank? q.vr).map Rank.sbuf =
        ((u.rank? q.vr).map Rank.sbuf).map fun l => l ++ [{ b with order := u.nextId }] := fun u b => by
      rw [State.rank?_bufferStore, Option.map_map, Option.map_map]
      simp [Function.comp_def, Rank.buffered]
    rw [happend, happend, hbuf, hid]
  · exact h

/-- The elements that a drain writes, and where, rest on the store view alone. -/
theorem State.writeElems_storeView {s t : State} {r : SRef} (h : t.storeView r.vr = s.storeView r.vr) (slot sz : Nat) (data : Buf)
    (elems : List (Int × Nat)) :
    (t.writeElems r slot sz data elems).storeView r.vr = (s.writeElems r slot sz data elems).storeView r.vr := by
  induction elems generalizing s t with
  | nil => exact h
  | cons e rest ih => exact ih (State.storeScratch_storeView (q := { r with strand := .s }) h _ _ _)

theorem State.storeScratch_mem (s : State) (q : SRef) (slot a : Nat) (bs : List Byte) : (s.storeScratch q slot a bs).mem = s.mem := by
  unfold State.storeScratch
  split <;> rfl

theorem State.writeElems_mem (s : State) (r : SRef) (slot sz : Nat) (data : Buf) (elems : List (Int × Nat)) :
    (s.writeElems r slot sz data elems).mem = s.mem := by
  induction elems generalizing s with
  | nil => rfl
  | cons e rest ih => exact (ih _).trans (State.storeScratch_mem s _ _ _ _)

theorem State.storeScratch_core? (s : State) (q : SRef) (slot a : Nat) (bs : List Byte) (r : SRef) :
    (s.storeScratch q slot a bs).core? r = s.core? r := by
  unfold State.storeScratch
  split
  · rfl
  · exact s.core?_modRank q.vr r (f := Rank.buffered _) (fun _ => rfl) fun _ => rfl
  · rfl

theorem State.writeElems_core? (s : State) (r : SRef) (slot sz : Nat) (data : Buf) (elems : List (Int × Nat)) :
    (s.writeElems r slot sz data elems).core? r = s.core? r := by
  induction elems generalizing s with
  | nil => rfl
  | cons e rest ih => exact (ih _).trans (State.storeScratch_core? s _ _ _ _ r)

theorem State.streamRead_congr {s t : State} (h : t.slots = s.slots) (slot core : Nat) (laid : List (Nat × Byte)) (a : Int) (n : Nat) :
    t.streamRead slot core laid a n = s.streamRead slot core laid a n := by
  simp [State.streamRead, State.padBytes, State.slot, h]

/-! #### One entry -/

/-- What a fault of stream z leaves of the core and the memories: the stream is faulted, the tile queues stand (R241). -/
def State.FaultedFrom (s : State) (r : SRef) (z : Nat) (k : Core) (t : State) : Prop :=
  ∃ k', t.core? r = some k' ∧ (k'.stream z).st = .faulted ∧ k'.tq = k.tq ∧ t.memories = s.memories

theorem State.streamFault_spec {s : State} {r : SRef} {k : Core} (hk : s.core? r = some k) {z : Nat} (hz : z < 16) (f : SFault) :
    s.FaultedFrom r z k (s.streamFault r z f) := by
  have hstreamed : ∀ c : Core, (((c.setStream z { c.stream z with st := .faulted }).modStrand (if z < 8 then .l else .s) fun st =>
      { st with asyncs := st.asyncs ++ [{ cause := f.cause, tval := f.tval, detail := 0, src := 1, zidx := z }] }).coreno) = c.coreno :=
    fun c => Core.modStrand_coreno _ _ _
  refine ⟨_, s.core?_modCore_self r hstreamed hk, ?_, (Core.queues_modStrand _ _ _).1, rfl⟩
  rw [Core.stream_modStrand, Core.stream_setStream k hz]

/-- The elements of an entry that a load stream delivers: a scale side-stream has values of its own (R239). -/
def Stream.loadElems (x : Stream) (rows : List RowSrc) : List (Int × Nat) :=
  if descKind x.desc = 4 then (sideAddrs x.desc x.ordinal).zipIdx.map fun p => (p.1, p.2 * 4) else entryElems x.desc rows

/-- The entry that a load stream delivers (R236, R239). -/
def State.loadEntry (s : State) (slot core : Nat) (x : Stream) (rows : List RowSrc) (id : Nat) : TEntry :=
  { id := id, landed := true,
    data := bufOf ((x.loadElems rows).map fun p => (p.2, s.streamRead slot core x.laid p.1 (fmtSize (descFmt x.desc)))),
    fmt := some (descFmt x.desc), esz := fmtSize (descFmt x.desc), rows := descRows x.desc, cols := descTagCols x.desc,
    scales := s.entryScales slot core x.laid x.desc x.ordinal rows }

/-- The core with an entry, named by the next number, behind the load queue of stream z, which goes on. -/
def Core.appendEntry (z : Nat) (x : Stream) (e : Nat → TEntry) (c : Core) : Core :=
  { c.setStream z x.next with
    nextId := c.nextId + 1
    tq := c.tq.setIfInBounds x.q { c.tqueue x.q with ents := (c.tqueue x.q).ents ++ [e c.nextId] } }

/-- The core without the head of the store queue of stream z, which goes on. -/
def Core.dropEntry (z : Nat) (x : Stream) (c : Core) : Core :=
  { c.setStream z x.next with
    tq := c.tq.setIfInBounds x.q { c.tqueue x.q with head := (c.tqueue x.q).head + 1, ents := (c.tqueue x.q).ents.drop 1 } }

section
variable (c : Core) {z : Nat} {x : Stream} (e : Nat → TEntry)

theorem Core.tqueue_appendEntry (hq : x.q < 12) :
    (c.appendEntry z x e).tqueue x.q = { c.tqueue x.q with ents := (c.tqueue x.q).ents ++ [e c.nextId] } := by
  simp [Core.appendEntry, Core.tqueue, hq]

theorem Core.tqueue_dropEntry (hq : x.q < 12) : (c.dropEntry z x).tqueue x.q =
    { c.tqueue x.q with head := (c.tqueue x.q).head + 1, ents := (c.tqueue x.q).ents.drop 1 } := by
  simp [Core.dropEntry, Core.tqueue, hq]

theorem Core.stream_appendEntry (hz : z < 16) : (c.appendEntry z x e).stream z = x.next := c.stream_setStream hz _

theorem Core.stream_dropEntry (hz : z < 16) : (c.dropEntry z x).stream z = x.next := c.stream_setStream hz _
end

section
variable {s : State} {r : SRef} {k : Core} {z slot : Nat} {cores : List Nat} {x : Stream} {rows : List RowSrc} {e : TEntry}

/-- A load stream reads the elements and the scales of its entry where the gang may read (R236, R239). -/
theorem State.deliverEntry_eq
    (hbad : firstFault cores (fmtSize (descFmt x.desc)) ((x.loadElems rows).map Prod.fst) = none)
    (hscale : firstFault cores 4 (scaleAddrs x.desc x.ordinal rows) = none) :
    s.deliverEntry r z slot cores x rows = s.modCore r (Core.appendEntry z x (s.loadEntry slot r.core x rows)) := by
  unfold Stream.loadElems at hbad
  unfold State.deliverEntry
  dsimp only
  rw [hbad, hscale]
  rfl

/-- A store stream takes the head of its queue, whose tag is right, and writes its elements (R240). -/
theorem State.drainEntry_eq (htag : e.esz = fmtSize (descFmt x.desc) ∧ e.rows = descRows x.desc ∧ e.cols = descCols x.desc)
    (hbad : firstFault cores (fmtSize (descFmt x.desc)) ((entryElems x.desc rows).map Prod.fst) = none) :
    s.drainEntry r z slot cores x e rows = (s.writeElems r slot (fmtSize (descFmt x.desc)) e.data (entryElems x.desc rows)).modCore r
      (Core.dropEntry z x) := by
  unfold State.drainEntry
  dsimp only
  rw [if_neg (by tauto), hbad]
  rfl

variable (hk : s.core? r = some k) (hz : z < 16)
include hk hz

theorem State.deliverEntry_fault
    (hbad : firstFault cores (fmtSize (descFmt x.desc)) ((x.loadElems rows).map Prod.fst) ≠ none ∨
      firstFault cores 4 (scaleAddrs x.desc x.ordinal rows) ≠ none) :
    s.FaultedFrom r z k (s.deliverEntry r z slot cores x rows) := by
  unfold Stream.loadElems at hbad
  unfold State.deliverEntry
  dsimp only
  split
  · exact State.streamFault_spec hk hz _
  · exact State.streamFault_spec hk hz _
  · next hnone hnone' => simp [hnone, hnone'] at hbad

/-- A head of another tag, or an element where the gang may not write, is not drained (R240, log entry 13). -/
theorem State.drainEntry_fault
    (hbad : ¬ (e.esz = fmtSize (descFmt x.desc) ∧ e.rows = descRows x.desc ∧ e.cols = descCols x.desc) ∨
      firstFault cores (fmtSize (descFmt x.desc)) ((entryElems x.desc rows).map Prod.fst) ≠ none) :
    s.FaultedFrom r z k (s.drainEntry r z slot cores x e rows) := by
  unfold State.drainEntry
  dsimp only
  split
  · exact State.streamFault_spec hk hz _
  · split
    · exact State.streamFault_spec hk hz _
    · next htag _ hnone => exact absurd hnone (hbad.resolve_left (by tauto))
end

theorem State.finishEntry_load (s : State) (r : SRef) (z slot : Nat) (cores : List Nat) {x : Stream} (hq : x.q < 8) (rows : List RowSrc) :
    s.finishEntry r z slot cores x rows = s.deliverEntry r z slot cores x rows := if_pos hq

theorem State.finishEntry_store {s : State} {r : SRef} {k : Core} (hk : s.core? r = some k) {x : Stream} (hq : 8 ≤ x.q ∧ x.q < 12)
    {e : TEntry} {rest : List TEntry} (hents : (k.tqueue x.q).ents = e :: rest) (z slot : Nat) (cores : List Nat) (rows : List RowSrc) :
    s.finishEntry r z slot cores x rows = s.drainEntry r z slot cores x e rows := by
  have hhead : ((s.core? r).bind fun c => c.tq[x.q]?).bind (fun q => q.ents.head?) = some e := by
    simp only [Core.tqueue, Vector.getElem?_eq_getElem hq.2, Option.getD_some] at hents
    simp [hk, hq.2, hents]
  rw [State.finishEntry, if_neg (Nat.not_lt.mpr hq.1), hhead]

/-! #### The indices of a gather (R237) -/

/-- A stream with more indices taken for the entry in progress. -/
def Stream.withIndices (x : Stream) (l : List (BitVec 32)) : Stream := { x with idxTaken := x.idxTaken ++ l }

theorem Stream.withIndices_nil (x : Stream) : x.withIndices [] = x := by simp [Stream.withIndices]

theorem Stream.withIndices_cons (x : Stream) (i : BitVec 32) (l : List (BitVec 32)) :
    x.withIndices (i :: l) = (x.withIndices [i]).withIndices l := by simp [Stream.withIndices]

/-- Index queue `i` of a core, q12 to q15. -/
def Core.indexQ (c : Core) (i : Nat) : SQueue := c.sq[i]?.getD { head := 0, closed := false, ents := [] }

theorem indexQueue_lt (d : BitVec 512) (store : Bool) : indexQueue d store < 4 := by
  unfold indexQueue
  split <;> omega

/-- The core after one index has gone from its queue to stream z. -/
def Core.takeIndex (z qi : Nat) (idx : BitVec 32) (rest : List SEntry) (k c : Core) : Core :=
  { c.setStream z ((k.stream z).withIndices [idx]) with
    sq := c.sq.setIfInBounds qi { k.indexQ qi with head := (k.indexQ qi).head + 1, ents := rest } }

/-- The taking of indices has led from `s` with core `c` to `t` with core `c'`: stream z has them, its queue keeps the rest. -/
structure State.Took (r : SRef) (z qi : Nat) (idx : List (BitVec 32)) (left : List SEntry) (s : State) (c : Core) (t : State) (c' : Core) :
    Prop where
  core : t.core? r = some c'
  stream : c'.stream z = (c.stream z).withIndices idx
  tq : c'.tq = c.tq
  queue : (c'.indexQ qi).ents = left
  view : t.storeView r.vr = s.storeView r.vr

section
variable {r : SRef} {z qi rows : Nat} {left : List SEntry} (hz : z < 16) (hqi : qi < 4)
include hz hqi

theorem State.takeIndices_spec {took : List SEntry} {n : Nat} {s : State} {c : Core} (hc : s.core? r = some c)
    (hrun : (c.stream z).st = .running) (hqueue : (c.indexQ qi).ents = took ++ left)
    (hgood : ∀ e ∈ took, e.landed = true ∧ ∃ x, gatherRow (c.stream z).desc z (e.data.setWidth 32) = .ok x)
    (hlen : (c.stream z).idxTaken.length + took.length = rows) (hn : took.length ≤ n) :
    ∃ c', State.Took r z qi (took.map fun e => e.data.setWidth 32) left s c (s.takeIndices r z qi rows n) c' := by
  induction took generalizing n s c with
  | nil =>
    have hstop : s.takeIndices r z qi rows n = s := by
      cases n with
      | zero => rfl
      | succ n =>
        rw [State.takeIndices, hc]
        exact if_pos (.inr hlen.ge)
    rw [hstop]
    exact ⟨c, hc, (Stream.withIndices_nil _).symm, rfl, hqueue, rfl⟩
  | cons e took ih =>
    obtain ⟨m, rfl⟩ : ∃ m, n = m + 1 := ⟨n - 1, by simp at hn; omega⟩
    obtain ⟨⟨hland, x, hx⟩, hrest⟩ := List.forall_mem_cons.mp hgood
    rw [List.length_cons] at hlen hn
    have hmore : ¬ ((c.stream z).st ≠ .running ∨ rows ≤ (c.stream z).idxTaken.length) := by
      rintro (hst | hfull)
      · exact hst hrun
      · omega
    have hstep : s.takeIndices r z qi rows (m + 1) =
        (s.modCore r (Core.takeIndex z qi (e.data.setWidth 32) (took ++ left) c)).takeIndices r z qi rows m := by
      rw [Core.indexQ] at hqueue
      rw [State.takeIndices, hc]
      dsimp only
      rw [if_neg hmore, hqueue]
      dsimp only [List.cons_append]
      rw [hland, hx]
      rfl
    have hstream : (Core.takeIndex z qi (e.data.setWidth 32) (took ++ left) c c).stream z =
        (c.stream z).withIndices [e.data.setWidth 32] := c.stream_setStream hz _
    have hcore := s.core?_modCore_self r (f := Core.takeIndex z qi (e.data.setWidth 32) (took ++ left) c) (fun _ => rfl) hc
    obtain ⟨c', h⟩ := ih (n := m) hcore (by rw [hstream]; exact hrun) (by simp [Core.indexQ, Core.takeIndex, hqi])
      (by rw [hstream]; exact hrest)
      (by rw [hstream, Stream.withIndices, List.length_append, List.length_singleton]; omega) (by omega)
    refine ⟨c', ?_⟩
    rw [hstep]
    refine ⟨h.core, ?_, h.tq, h.queue, h.view.trans (State.modCore_storeView _ _ _ _)⟩
    rw [h.stream, hstream, List.map_cons, ← Stream.withIndices_cons]
end

theorem State.takeIndices_empty {s : State} {r : SRef} {c : Core} (hc : s.core? r = some c) {z qi : Nat} (h : (c.indexQ qi).ents = [])
    (rows n : Nat) : s.takeIndices r z qi rows n = s := by
  rw [Core.indexQ] at h
  cases n with
  | zero => rfl
  | succ n =>
    rw [State.takeIndices, hc]
    dsimp only
    rw [h]
    exact ite_self s

/-! #### A turn of a unit -/

/-- The step of the unit that serves stream z. -/
def unitStep (r : SRef) (z : Nat) : Instr := if z < 8 then .loadStreamEntry r z else .storeStreamDrain r z

theorem exec_unitStep (s : State) (r : SRef) {z : Nat} (hz : z < 16) : exec (unitStep r z) s = .next (s.streamTurn r z) := by
  unfold unitStep
  split
  · next h => rw [exec_loadStreamEntry, execLoadStreamEntry, if_pos h]
  · next h => rw [exec_storeStreamDrain, execStoreStreamDrain, if_pos ⟨by omega, hz⟩]

section
variable {s : State} {r : SRef} {g : Gang} {k : Core} {slot z : Nat} (hg : s.gang? r.vr r.gang = some g) (hk : s.core? r = some k)

include hg in
theorem State.gangCores_eq : s.gangCores r = g.cores.map fun c => c.coreno := by
  rw [State.gangCores, hg]

include hg hk in
theorem State.streamTurn_idle (h : (k.stream z).st ≠ .running) : s.streamTurn r z = s := by
  unfold State.streamTurn
  rw [hg, hk]
  split
  · next g' k' slot' hg' hk' hslot' =>
    obtain rfl := Option.some.inj hk'
    exact if_neg (by simp [h])
  · rfl

variable (hslot : s.slotOf r.vr = some slot) (hplaced : g.cond = .placed) (hrun : (k.stream z).st = .running)

include hg hk hslot hplaced hrun in
/-- A running stream of a gang on its cores acts when its queue lets it, or when it goes on without (R246). -/
theorem State.streamTurn_act
    (h : k.streamReady (k.stream z) = true ∨ s.streamPasses r slot (g.cores.map fun c => c.coreno) k (k.stream z) = true) :
    s.streamTurn r z = s.streamAct r z slot (g.cores.map fun c => c.coreno) (k.stream z) := by
  unfold State.streamTurn
  rw [hg, hk, hslot]
  dsimp only
  rw [State.gangCores_eq hg]
  refine if_pos ?_
  rw [Gang.isPlaced, hplaced, hrun]
  simpa using h

end

section
variable {k : Core} {x : Stream}

theorem Core.streamReady_load (hq : x.q < 8) (hroom : (k.tqueue x.q).ents.length < 4) : k.streamReady x = true := by
  unfold Core.streamReady
  dsimp only
  rw [if_pos hq]
  exact decide_eq_true hroom

theorem Core.streamReady_store (hq : 8 ≤ x.q) {e : TEntry} {rest : List TEntry} (hents : (k.tqueue x.q).ents = e :: rest)
    (hland : e.landed = true) : k.streamReady x = true := by
  rw [Core.tqueue] at hents
  unfold Core.streamReady
  dsimp only
  rw [if_neg (Nat.not_lt.mpr hq), hents]
  exact hland

end

/-- The rows of the entry of a running stream are known: by the ordinal of an affine stream, by the indices taken and those that `took`
holds, by the group in progress; a scale side-stream has none. -/
def Stream.RowsKnown (x : Stream) (z : Nat) (took : List SEntry) (rows : List RowSrc) : Prop :=
  (descKind x.desc ∉ [2, 3, 4] ∧ took = [] ∧ rows = affineRows x.desc x.ordinal) ∨
  (descKind x.desc = 2 ∧ descField x.desc 6 ≠ 0 ∧
    (∀ e ∈ took, e.landed = true ∧ ∃ y, gatherRow x.desc z (e.data.setWidth 32) = .ok y) ∧
    x.idxTaken.length + took.length = descRows x.desc ∧
    rows = gatherRows x.desc (x.idxTaken ++ took.map fun e => e.data.setWidth 32)) ∨
  (descKind x.desc = 3 ∧ x.grp < descField x.desc 15 ∧ x.grpLoaded = true ∧ took = [] ∧
    raggedRows x.desc z x.gstart x.gcount x.gt = .ok rows) ∨
  (descKind x.desc = 4 ∧ descField x.desc 6 ≠ 0 ∧ took = [] ∧ rows = [])

/-- The stream with the record of its next group taken in: a group that yields nothing is passed over unless the descriptor wants an
entry for it (R238). -/
def Stream.openGroup (x : Stream) (w : Nat) : Stream :=
  let y := { x with grpLoaded := true, gstart := w % 2 ^ 32, gcount := w / 2 ^ 32, gt := 0 }
  if y.gcount = 0 && !descEmpty x.desc then
    { y with grp := x.grp + 1, grpLoaded := false, st := if descField x.desc 15 ≤ x.grp + 1 then .done else y.st }
  else y

theorem Stream.openGroup_spec (x : Stream) (w : Nat) :
    if w / 2 ^ 32 = 0 ∧ descEmpty x.desc = false then (x.openGroup w).grp = x.grp + 1 ∧ (x.openGroup w).grpLoaded = false
    else (x.openGroup w).grp = x.grp ∧ (x.openGroup w).grpLoaded = true ∧ (x.openGroup w).gt = 0 ∧
      (x.openGroup w).gstart = w % 2 ^ 32 ∧ (x.openGroup w).gcount = w / 2 ^ 32 := by
  unfold Stream.openGroup
  by_cases h : w / 2 ^ 32 = 0 ∧ descEmpty x.desc = false
  · have hyes : (decide (w / 2 ^ 32 = 0) && !descEmpty x.desc) = true := by simpa using h
    rw [if_pos h]
    dsimp only
    rw [if_pos hyes]
    exact ⟨rfl, rfl⟩
  · rw [if_neg h]
    have hno : ¬ (decide (w / 2 ^ 32 = 0) && !descEmpty x.desc) = true := by simpa using h
    dsimp only
    rw [if_neg hno]
    simp

section
variable {s : State} {r : SRef} {k : Core} {z slot : Nat} {cores : List Nat} {x : Stream}

theorem State.streamAct_gather (hkind : descKind x.desc = 2) (hsome : descField x.desc 6 ≠ 0) {t : State} {c : Core}
    (ht : s.takeIndices r z (indexQueue x.desc (8 ≤ x.q)) (descRows x.desc) (descRows x.desc) = t) (hc : t.core? r = some c)
    (hrun : (c.stream z).st = .running) (hfull : (c.stream z).idxTaken.length = descRows x.desc) :
    s.streamAct r z slot cores x = t.finishEntry r z slot cores (c.stream z) (gatherRows x.desc (c.stream z).idxTaken) := by
  unfold State.streamAct
  simp only [hkind]
  rw [if_neg hsome, ht, hc]
  dsimp only
  rw [if_neg (by simp [hrun]), if_pos hfull]

theorem State.streamAct_done (h : descKind x.desc = 2 ∧ descField x.desc 6 = 0 ∨ descKind x.desc = 3 ∧ descField x.desc 15 ≤ x.grp ∨
    descKind x.desc = 4 ∧ descField x.desc 6 = 0) : s.streamAct r z slot cores x = s.streamDone r z := by
  unfold State.streamAct
  obtain ⟨hkind, h⟩ | ⟨hkind, h⟩ | ⟨hkind, h⟩ := h
  all_goals
    simp only [hkind]
    exact if_pos h

/-- A gather whose index queue is closed and empty before its next entry ends (R237). -/
theorem State.streamAct_dry (hk : s.core? r = some k) (hrun : (k.stream z).st = .running) (hkind : descKind (k.stream z).desc = 2)
    (hsome : descField (k.stream z).desc 6 ≠ 0) (hnone : (k.stream z).idxTaken = []) (hrows : descRows (k.stream z).desc ≠ 0)
    (hempty : (k.indexQ (indexQueue (k.stream z).desc (8 ≤ (k.stream z).q))).ents = [])
    (hclosed : (k.indexQ (indexQueue (k.stream z).desc (8 ≤ (k.stream z).q))).closed = true)
    (hend : (k.stream z).q < 8 ∨ k.c.ended = true) : s.streamAct r z slot cores (k.stream z) = s.streamDone r z := by
  have hfull : ¬ (k.stream z).idxTaken.length = descRows (k.stream z).desc := by
    rw [hnone]
    exact fun h => hrows h.symm
  have hstore : (!Decidable.decide (8 ≤ (k.stream z).q) || k.c.ended) = true := by
    rw [Bool.or_eq_true, Bool.not_eq_true', decide_eq_false_iff_not, Nat.not_le]
    exact hend
  unfold State.streamAct
  simp only [hkind]
  rw [if_neg hsome, State.takeIndices_empty hk hempty, hk]
  dsimp only
  rw [if_neg (by simp [hrun]), if_neg hfull]
  rw [Core.indexQ] at hempty hclosed
  rw [if_pos (by rw [hempty, hclosed, hstore, hnone]; rfl)]

/-- An affine stream knows the rows of its entry by its ordinal (R236). -/
theorem State.streamAct_affine (hkind : descKind x.desc ∉ [2, 3, 4]) :
    s.streamAct r z slot cores x = s.finishEntry r z slot cores x (affineRows x.desc x.ordinal) := by
  simp only [List.mem_cons, List.not_mem_nil, or_false, not_or] at hkind
  obtain ⟨h2, h3, h4⟩ := hkind
  unfold State.streamAct
  simp only

theorem State.streamAct_side (hkind : descKind x.desc = 4) (hsome : descField x.desc 6 ≠ 0) :
    s.streamAct r z slot cores x = s.finishEntry r z slot cores x [] := by
  unfold State.streamAct
  simp only [hkind, if_neg hsome]

section
variable (hkind : descKind x.desc = 3) (hgrp : x.grp < descField x.desc 15)
include hkind hgrp

theorem State.streamAct_group (hloaded : x.grpLoaded = true) {rows : List RowSrc}
    (hrows : raggedRows x.desc z x.gstart x.gcount x.gt = .ok rows) :
    s.streamAct r z slot cores x = s.finishEntry r z slot cores x rows := by
  unfold State.streamAct
  simp only [hkind, if_neg (Nat.not_le.mpr hgrp), hloaded, Bool.not_true, Bool.false_eq_true, if_false, hrows]

theorem State.streamAct_group_fault (hloaded : x.grpLoaded = true) {f : SFault}
    (hrows : raggedRows x.desc z x.gstart x.gcount x.gt = .error f) :
    s.streamAct r z slot cores x = s.streamFault r z f := by
  unfold State.streamAct
  simp only [hkind, if_neg (Nat.not_le.mpr hgrp), hloaded, Bool.not_true, Bool.false_eq_true, if_false, hrows]

variable (hloaded : x.grpLoaded = false)
include hloaded

theorem State.streamAct_record_fault {f : SFault} (hspan : spanFault cores ((descField x.desc 13 : Int) + 8 * x.grp) 8 = some f) :
    s.streamAct r z slot cores x = s.streamFault r z f := by
  unfold State.streamAct
  simp only [hkind, if_neg (Nat.not_le.mpr hgrp), hloaded, Bool.not_false, if_true, hspan]

/-- A ragged stream between groups takes in the record of its next group (R238). -/
theorem State.streamAct_record (hspan : spanFault cores ((descField x.desc 13 : Int) + 8 * x.grp) 8 = none) :
    s.streamAct r z slot cores x = s.modCore r fun c => c.setStream z
      (x.openGroup (leNat (s.streamRead slot r.core x.laid ((descField x.desc 13 : Int) + 8 * x.grp) 8))) := by
  unfold State.streamAct
  simp only [hkind, if_neg (Nat.not_le.mpr hgrp), hloaded, Bool.not_false, if_true, hspan]
  rfl
end

/-- A unit whose stream's rows are known finishes the entry, a gather after it has taken its indices. -/
theorem State.streamAct_entry (hk : s.core? r = some k) (hz : z < 16) (hrun : (k.stream z).st = .running) {took left : List SEntry}
    {rows : List RowSrc} (hqueue : (k.indexQ (indexQueue (k.stream z).desc (8 ≤ (k.stream z).q))).ents = took ++ left)
    (h : (k.stream z).RowsKnown z took rows) :
    ∃ idx t c, State.Took r z (indexQueue (k.stream z).desc (8 ≤ (k.stream z).q)) idx left s k t c ∧
      s.streamAct r z slot cores (k.stream z) = t.finishEntry r z slot cores (c.stream z) rows := by
  have hsame : took = [] → State.Took r z (indexQueue (k.stream z).desc (8 ≤ (k.stream z).q)) [] left s k s k := by
    rintro rfl
    exact ⟨hk, (Stream.withIndices_nil _).symm, rfl, hqueue, rfl⟩
  obtain ⟨hkind, htook, rfl⟩ | ⟨hkind, hsome, hgood, hlen, rfl⟩ | ⟨hkind, hgrp, hloaded, htook, hrows⟩ | ⟨hkind, hsome, htook, rfl⟩ := h
  · exact ⟨[], s, k, hsame htook, State.streamAct_affine hkind⟩
  · obtain ⟨c, hc⟩ := State.takeIndices_spec hz (indexQueue_lt _ _) hk hrun hqueue hgood hlen (n := descRows (k.stream z).desc) (by omega)
    refine ⟨_, _, c, hc, ?_⟩
    have hstream := hc.stream
    rw [State.streamAct_gather hkind hsome rfl hc.core (by rw [hstream]; exact hrun) (by rw [hstream]; simpa [Stream.withIndices] using hlen), hstream]
    rfl
  · exact ⟨[], s, k, hsame htook, State.streamAct_group hkind hgrp hloaded hrows⟩
  · exact ⟨[], s, k, hsame htook, State.streamAct_side hkind hsome⟩
end

section
variable {r : SRef} {z qi : Nat} {idx : List (BitVec 32)} {left : List SEntry} {s t : State} {k c : Core}
  (h : State.Took r z qi idx left s k t c)
include h

theorem State.Took.memories : t.memories = s.memories := congrArg Prod.fst h.view

theorem State.Took.tqueue (q : Nat) : c.tqueue q = k.tqueue q := by rw [Core.tqueue, h.tq, Core.tqueue]

theorem State.Took.faultedFrom {u : State} (hu : t.FaultedFrom r z c u) : s.FaultedFrom r z k u := by
  obtain ⟨k', hk', hst, htq, hmem⟩ := hu
  exact ⟨k', hk', hst, htq.trans h.tq, hmem.trans h.memories⟩
end

section
variable {s : State} {r : SRef} {g : Gang} {k : Core} {slot z : Nat} {x : Stream} (hg : s.gang? r.vr r.gang = some g)
  (hk : s.core? r = some k) (hslot : s.slotOf r.vr = some slot) (hplaced : g.cond = .placed) (hz : z < 16) (hx : k.stream z = x)
  (hrun : x.st = .running)
include hg hk hslot hplaced hz hx hrun

/-- The turn of a unit that may go on. -/
theorem exec_unitStep_act
    (h : k.streamReady x = true ∨ s.streamPasses r slot (g.cores.map fun c => c.coreno) k x = true) :
    exec (unitStep r z) s = .next (s.streamAct r z slot (g.cores.map fun c => c.coreno) x) := by
  subst hx
  rw [exec_unitStep s r hz, State.streamTurn_act hg hk hslot hplaced hrun h]

section
variable {took left : List SEntry} {rows : List RowSrc} (hqueue : (k.indexQ (indexQueue x.desc (8 ≤ x.q))).ents = took ++ left)
  (hrows : x.RowsKnown z took rows)
include hqueue hrows

/-- The turn of a unit whose queue lets it finish an entry of known rows. -/
theorem exec_unitStep_entry (hready : k.streamReady x = true) :
    ∃ idx t c, State.Took r z (indexQueue x.desc (8 ≤ x.q)) idx left s k t c ∧ exec (unitStep r z) s =
      .next (t.finishEntry r z slot (g.cores.map fun c => c.coreno) (x.withIndices idx) rows) := by
  subst hx
  obtain ⟨idx, t, c, htook, hact⟩ := State.streamAct_entry (slot := slot) (cores := g.cores.map fun c => c.coreno) hk hz hrun hqueue hrows
  refine ⟨idx, t, c, htook, ?_⟩
  rw [exec_unitStep_act hg hk hslot hplaced hz rfl hrun (.inl hready), hact, htook.stream]

section
variable (hq : x.q < 8) (hroom : (k.tqueue x.q).ents.length < 4)
include hq hroom

/-- LOAD_STREAM_ENTRY of an entry that lies where the gang may read (R240). -/
theorem exec_unitStep_deliver
    (hbad : firstFault (g.cores.map fun c => c.coreno) (fmtSize (descFmt x.desc)) ((x.loadElems rows).map Prod.fst) = none)
    (hscale : firstFault (g.cores.map fun c => c.coreno) 4 (scaleAddrs x.desc x.ordinal rows) = none) :
    ∃ t k' e, exec (unitStep r z) s = .next t ∧ t.core? r = some k' ∧ (k'.tqueue x.q).ents = (k.tqueue x.q).ents ++ [e] ∧
      e.landed = true ∧ e.fmt = some (descFmt x.desc) ∧ e.rows = descRows x.desc ∧ e.cols = descTagCols x.desc ∧
      e.data = bufOf ((x.loadElems rows).map fun p => (p.2, s.streamRead slot r.core x.laid p.1 (fmtSize (descFmt x.desc)))) ∧
      k'.stream z = x.next ∧ (k'.indexQ (indexQueue x.desc (8 ≤ x.q))).ents = left ∧ s.SameMemory t := by
  obtain ⟨idx, t, c, htook, hexec⟩ :=
    exec_unitStep_entry hg hk hslot hplaced hz hx hrun hqueue hrows (Core.streamReady_load hq hroom)
  obtain ⟨⟨-, -, hslots⟩, -, -⟩ := State.storeView_iff.mp htook.view
  have hdata : ∀ a, t.streamRead slot r.core x.laid a (fmtSize (descFmt x.desc)) =
      s.streamRead slot r.core x.laid a (fmtSize (descFmt x.desc)) := fun a => State.streamRead_congr hslots _ _ _ _ _
  rw [State.finishEntry_load t r z slot _ (x := x.withIndices idx) hq,
    State.deliverEntry_eq (x := x.withIndices idx) hbad hscale] at hexec
  refine ⟨_, _, t.loadEntry slot r.core (x.withIndices idx) rows c.nextId, hexec,
    t.core?_modCore_self r (f := Core.appendEntry z (x.withIndices idx) (t.loadEntry slot r.core (x.withIndices idx) rows))
      (fun _ => rfl) htook.core,
    ?_, rfl, rfl, rfl, rfl, ?_, Core.stream_appendEntry c _ hz, htook.queue, State.sameMemory_of_memories htook.memories⟩
  · rw [← htook.tqueue]
    exact congrArg TQueue.ents (Core.tqueue_appendEntry c (x := x.withIndices idx) _ (show x.q < 12 by omega))
  · simp only [← hdata]
    rfl

theorem exec_unitStep_deliver_fault
    (hbad : firstFault (g.cores.map fun c => c.coreno) (fmtSize (descFmt x.desc)) ((x.loadElems rows).map Prod.fst) ≠ none ∨
      firstFault (g.cores.map fun c => c.coreno) 4 (scaleAddrs x.desc x.ordinal rows) ≠ none) :
    ∃ t, exec (unitStep r z) s = .next t ∧ s.FaultedFrom r z k t := by
  obtain ⟨idx, t, c, htook, hexec⟩ :=
    exec_unitStep_entry hg hk hslot hplaced hz hx hrun hqueue hrows (Core.streamReady_load hq hroom)
  rw [State.finishEntry_load t r z slot _ (x := x.withIndices idx) hq] at hexec
  exact ⟨_, hexec, htook.faultedFrom (State.deliverEntry_fault htook.core hz hbad)⟩
end

section
variable (hq : 8 ≤ x.q ∧ x.q < 12) {e : TEntry} {rest : List TEntry} (hents : (k.tqueue x.q).ents = e :: rest) (hland : e.landed = true)
include hq hents hland

/-- STORE_STREAM_DRAIN of a head of the right tag whose elements lie where the gang may write (R240). -/
theorem exec_unitStep_drain (htag : e.esz = fmtSize (descFmt x.desc) ∧ e.rows = descRows x.desc ∧ e.cols = descCols x.desc)
    (hbad : firstFault (g.cores.map fun c => c.coreno) (fmtSize (descFmt x.desc)) ((entryElems x.desc rows).map Prod.fst) = none) :
    ∃ t k', exec (unitStep r z) s = .next t ∧ t.core? r = some k' ∧
      k'.tqueue x.q = { head := (k.tqueue x.q).head + 1, closed := (k.tqueue x.q).closed, ents := rest } ∧
      k'.stream z = x.next ∧ (k'.indexQ (indexQueue x.desc (8 ≤ x.q))).ents = left ∧
      t.storeView r.vr = (s.writeElems r slot (fmtSize (descFmt x.desc)) e.data (entryElems x.desc rows)).storeView r.vr := by
  obtain ⟨idx, t, c, htook, hexec⟩ :=
    exec_unitStep_entry hg hk hslot hplaced hz hx hrun hqueue hrows (Core.streamReady_store hq.1 hents hland)
  rw [← htook.tqueue] at hents
  rw [State.finishEntry_store htook.core (x := x.withIndices idx) hq hents,
    State.drainEntry_eq (x := x.withIndices idx) htag hbad] at hexec
  refine ⟨_, _, hexec, State.core?_modCore_self _ r (f := Core.dropEntry z _) (fun _ => rfl)
    ((State.writeElems_core? _ _ _ _ _ _).trans htook.core), ?_, Core.stream_dropEntry c hz, htook.queue,
    (State.modCore_storeView _ _ _ _).trans (State.writeElems_storeView htook.view _ _ _ _)⟩
  rw [← htook.tqueue]
  refine (Core.tqueue_dropEntry c (x := x.withIndices idx) hq.2).trans ?_
  exact congrArg (fun l => { c.tqueue x.q with head := (c.tqueue x.q).head + 1, ents := List.drop 1 l }) hents

theorem exec_unitStep_drain_fault
    (hbad : ¬ (e.esz = fmtSize (descFmt x.desc) ∧ e.rows = descRows x.desc ∧ e.cols = descCols x.desc) ∨
      firstFault (g.cores.map fun c => c.coreno) (fmtSize (descFmt x.desc)) ((entryElems x.desc rows).map Prod.fst) ≠ none) :
    ∃ t, exec (unitStep r z) s = .next t ∧ s.FaultedFrom r z k t := by
  obtain ⟨idx, t, c, htook, hexec⟩ :=
    exec_unitStep_entry hg hk hslot hplaced hz hx hrun hqueue hrows (Core.streamReady_store hq.1 hents hland)
  rw [← htook.tqueue] at hents
  rw [State.finishEntry_store htook.core (x := x.withIndices idx) hq hents] at hexec
  exact ⟨_, hexec, htook.faultedFrom (State.drainEntry_fault htook.core hz hbad)⟩
end
end
end

/-- A gather goes on without its queue when it has no entries, or when its index queue is closed and empty before its next entry. -/
theorem State.streamPasses_gather (s : State) (r : SRef) (slot : Nat) (cores : List Nat) (k : Core) {x : Stream}
    (hkind : descKind x.desc = 2) (h : descField x.desc 6 = 0 ∨ x.idxTaken = [] ∧ (k.indexQ (indexQueue x.desc (8 ≤ x.q))).ents = [] ∧
      (k.indexQ (indexQueue x.desc (8 ≤ x.q))).closed = true ∧ (x.q < 8 ∨ k.c.ended = true)) :
    s.streamPasses r slot cores k x = true := by
  unfold State.streamPasses
  simp only [hkind]
  obtain hnone | ⟨htaken, hents, hclosed, hend⟩ := h
  · simp [hnone]
  · rw [Core.indexQ] at hents hclosed
    rw [hents, hclosed, htaken]
    simp [hend]

theorem State.streamPasses_ragged (s : State) (r : SRef) (slot : Nat) (cores : List Nat) (k : Core) {x : Stream}
    (hkind : descKind x.desc = 3) (h : descField x.desc 15 ≤ x.grp) : s.streamPasses r slot cores k x = true := by
  unfold State.streamPasses
  simp only [hkind]
  simp [h]

/-- Settles O23: a unit whose rows are known finishes its entry or faults; a stream past its entries is done. -/
theorem streamUnitsMoveEntries : Obligations.StreamUnitsMoveEntries := by
  intro s r g k slot z hg hk hslot hplaced hz zr d kind cores sz unit indices done faults
  have hunit : exec unit s = .next (s.streamTurn r z) := exec_unitStep s r hz
  have hfaults : (∃ t, exec unit s = .next t ∧ s.FaultedFrom r z k t) → faults := by
    rintro ⟨t, ht, k', hk', hst, htq, hmem⟩
    exact ⟨t, k', ht, hk', hst, htq, State.sameMemory_of_memories hmem⟩
  refine ⟨fun hz8 => ?_, fun hz8 => ?_, fun hidle => ?_, fun hrun => ?_⟩
  · rw [exec_loadStreamEntry, execLoadStreamEntry, if_neg (by omega)]
  · rw [exec_storeStreamDrain, execStoreStreamDrain, if_neg (by omega)]
  · rw [hunit, State.streamTurn_idle hg hk hidle]
  have hact := exec_unitStep_act (x := zr) hg hk hslot hplaced hz rfl hrun
  refine ⟨fun hkind hnone => ?_, fun hkind hsome htaken hrows hents hclosed hend => ?_, fun hkind hpast => ?_, fun hqueue => ?_,
    fun rows took left hindex hrows => ?_⟩
  · exact (hact (.inr (s.streamPasses_gather r slot _ k hkind (.inl hnone)))).trans
      (congrArg _ (State.streamAct_done (.inl ⟨hkind, hnone⟩)))
  · exact (hact (.inr (s.streamPasses_gather r slot _ k hkind (.inr ⟨htaken, hents, hclosed, hend⟩)))).trans
      (congrArg _ (State.streamAct_dry hk hrun hkind hsome htaken hrows hents hclosed hend))
  · exact (hact (.inr (s.streamPasses_ragged r slot _ k hkind hpast))).trans
      (congrArg _ (State.streamAct_done (.inr (.inl ⟨hkind, hpast⟩))))
  · have hready : k.streamReady zr = true := hqueue.elim (fun ⟨_, hq, hroom⟩ => Core.streamReady_load hq hroom)
      fun ⟨_, hq, _, e, rest, hents, hland⟩ => Core.streamReady_store hq hents hland
    have hstep := hact (.inl hready)
    refine ⟨fun hkind hnone => ?_, fun hkind hgrp hloaded => ⟨fun f hspan => ?_, fun hspan => ?_⟩, fun f hkind hgrp hloaded hrows => ?_⟩
    · exact hstep.trans (congrArg _ (State.streamAct_done (.inr (.inr ⟨hkind, hnone⟩))))
    · rw [State.streamAct_record_fault hkind hgrp hloaded hspan] at hstep
      exact hfaults ⟨_, hstep, State.streamFault_spec hk hz f⟩
    · rw [State.streamAct_record hkind hgrp hloaded hspan] at hstep
      refine ⟨_, _, hstep, s.core?_modCore_self r (f := fun c => c.setStream z (zr.openGroup _)) (fun _ => rfl) hk, rfl,
        State.sameMemory_of_memories rfl, ?_⟩
      rw [Core.stream_setStream k hz]
      exact zr.openGroup_spec _
    · rw [State.streamAct_group_fault hkind hgrp hloaded hrows] at hstep
      exact hfaults ⟨_, hstep, State.streamFault_spec hk hz f⟩
  · have hknown : zr.RowsKnown z took rows := hrows
    intro elems bad badScale
    refine ⟨fun hz8 hq hroom => ?_, fun hz8 hq hq12 e rest hents hland => ?_⟩
    · have helems : elems = zr.loadElems rows := by
        simp only [elems, hz8, and_true]
        rfl
      refine ⟨fun hbad hscale => ?_, fun hbad => ?_⟩
      · have hunit' : exec unit s = exec (.loadStreamEntry r z) s := congrArg (fun i => exec i s) (if_pos hz8)
        rw [← hunit', helems]
        exact exec_unitStep_deliver hg hk hslot hplaced hz rfl hrun hindex hknown hq hroom (helems ▸ hbad) hscale
      · exact hfaults (exec_unitStep_deliver_fault hg hk hslot hplaced hz rfl hrun hindex hknown hq hroom (helems ▸ hbad))
    · have helems : elems = entryElems d rows := if_neg fun h => absurd h.2 (Nat.not_lt.mpr hz8)
      refine ⟨fun htag hbad => ?_, fun hbad => ?_⟩
      · obtain ⟨t, k', hexec, hcore, hqueue, hstream, hleft, hview⟩ :=
          exec_unitStep_drain hg hk hslot hplaced hz rfl hrun hindex hknown ⟨hq, hq12⟩ hents hland htag (helems ▸ hbad)
        rw [← helems] at hview
        obtain ⟨⟨hmem, -, hslots⟩, -, hbuf⟩ := State.storeView_iff.mp hview
        have hunit' : exec unit s = exec (.storeStreamDrain r z) s := congrArg (fun i => exec i s) (if_neg (Nat.not_lt.mpr hz8))
        rw [← hunit']
        exact ⟨t, k', hexec, hcore, hqueue, hstream, hleft, hslots, hmem.trans (State.writeElems_mem _ _ _ _ _ _), hbuf⟩
      · exact hfaults (exec_unitStep_drain_fault hg hk hslot hplaced hz rfl hrun hindex hknown ⟨hq, hq12⟩ hents hland (helems ▸ hbad))

end Sys2Proof.Machine

/-! ### Copy commands and the reset of an engine (05 R453; 09 R255, R256; 10 R267 to R271, R273) -/

namespace Sys2Proof.Machine

/-! #### What a command asks of other packages -/

/-- A command has asked other packages: the accesses of its rank grow by some with these operations, in this order. -/
structure State.Asks (c : Cmd) (ops : List AccOp) (s t : State) : Prop where
  cmds : t.cmds = s.cmds
  memories : t.memories = s.memories
  accesses : ∀ r, s.rank? c.by'.vr = some r → ∃ q news, t.rank? c.by'.vr = some q ∧ q.accesses = r.accesses ++ news ∧
    news.map Access.op = ops

/-- A command has asked for some of its source bytes. -/
def State.AsksLoads (c : Cmd) (s t : State) : Prop := ∃ ops, s.Asks c ops t ∧ ∀ op ∈ ops, ∃ pos n, op = .cmdLoad c.id pos n

section
variable {c : Cmd}

theorem State.Asks.refl (s : State) : s.Asks c [] s := ⟨rfl, rfl, fun r hr => ⟨r, [], hr, by simp, rfl⟩⟩

theorem State.Asks.trans {ops ops' : List AccOp} {s t u : State} (h : s.Asks c ops t) (h' : t.Asks c ops' u) :
    s.Asks c (ops ++ ops') u := by
  refine ⟨h'.cmds.trans h.cmds, h'.memories.trans h.memories, fun r hr => ?_⟩
  obtain ⟨q, news, hq, haccs, hops⟩ := h.accesses r hr
  obtain ⟨q', news', hq', haccs', hops'⟩ := h'.accesses q hq
  exact ⟨q', news ++ news', hq', by rw [haccs', haccs, List.append_assoc], by rw [List.map_append, hops, hops']⟩

theorem State.asks_cmdAccess (s : State) (op : AccOp) (pkg addr order : Nat) : s.Asks c [op] (s.cmdAccess c op pkg addr order) := by
  refine ⟨rfl, rfl, fun r hr => ?_⟩
  obtain ⟨a, hop, ha⟩ : ∃ a : Access, a.op = op ∧ s.cmdAccess c op pkg addr order = s.fresh.2.modRank c.by'.vr (Rank.addAccess · a) :=
    ⟨_, rfl, rfl⟩
  have hr' : s.fresh.2.rank? c.by'.vr = some r := hr
  refine ⟨r.addAccess a, [a], ?_, rfl, congrArg (· :: []) hop⟩
  rw [ha, State.rank?_modRank _ _ _ _ (by intro _; rfl), hr', Option.map_some, if_pos rfl]

/-- The bytes for other packages are sent in their runs (10 R270). -/
theorem State.asks_stores (order : Nat) (l : List (Nat × Nat × List Byte)) (s : State) :
    s.Asks c (l.map fun q => .cmdStore c.id q.2.2)
      (l.foldl (fun (s : State) q => s.cmdAccess c (.cmdStore c.id q.2.2) q.1 q.2.1 order) s) := by
  induction l generalizing s with
  | nil => exact .refl s
  | cons q t ih => exact (s.asks_cmdAccess _ _ _ _).trans (ih _)

theorem State.AsksLoads.refl (s : State) : s.AsksLoads c s := ⟨[], .refl s, by simp⟩

theorem State.AsksLoads.trans {s t u : State} (h : s.AsksLoads c t) (h' : t.AsksLoads c u) : s.AsksLoads c u := by
  obtain ⟨ops, hask, hops⟩ := h
  obtain ⟨ops', hask', hops'⟩ := h'
  exact ⟨ops ++ ops', hask.trans hask', fun op hop => (List.mem_append.mp hop).elim (hops op) (hops' op)⟩

theorem State.asksLoads_foldl {β : Type} {f : State → β → State} (h : ∀ (s : State) b, s.AsksLoads c (f s b)) (l : List β) (s : State) :
    s.AsksLoads c (l.foldl f s) := by
  induction l generalizing s with
  | nil => exact .refl s
  | cons b t ih => exact (h s b).trans (ih _)

theorem State.asksLoads_fetchRun (s : State) (p : Space) (pos : Nat) (l : List (Option Byte)) :
    s.AsksLoads c (s.fetchRun c p pos l) := by
  refine State.asksLoads_foldl (fun s q => ?_) _ s
  split
  · exact ⟨_, s.asks_cmdAccess _ _ _ _, by simp⟩
  · exact .refl s

theorem fetchRuns_of_known {l : List (Option Byte)} (h : none ∉ l) : fetchRuns l = [] := by
  rw [fetchRuns, List.filterMap_eq_nil_iff]
  intro i _
  refine if_neg fun hany => h ?_
  obtain ⟨b, hb, hnone⟩ := List.any_eq_true.mp hany
  rw [← Option.isNone_iff_eq_none.mp hnone]
  exact List.mem_of_mem_drop (List.mem_of_mem_take hb)

/-- A run that lacks nothing is not fetched. -/
theorem State.fetchRun_of_known (s : State) (p : Space) (pos : Nat) {l : List (Option Byte)} (h : none ∉ l) :
    s.fetchRun c p pos l = s := by
  rw [State.fetchRun, fetchRuns_of_known h]
  rfl
end

/-! #### A copy as its engine runs it -/

section
variable {s : State} {c : Cmd} {src dst : Space} {rlen nrow : Nat} {sstr dstr : Int} {follow : Option (Nat × Nat)}
  {data : List (Option Byte)} {row byte : Nat} (hbody : c.body = .copy src dst rlen nrow sstr dstr follow data row byte)

section
include hbody

theorem State.asksLoads_fetchSources (s : State) : s.AsksLoads c (s.fetchSources c) := by
  rw [State.fetchSources, hbody]
  exact State.asksLoads_foldl (fun s _ => s.asksLoads_fetchRun _ _ _) _ s

theorem State.fetchSources_of_known (s : State) (h : none ∉ data) : s.fetchSources c = s := by
  rw [State.fetchSources, hbody]
  refine foldl_keeps id (fun s i => ?_) (List.range nrow) s
  exact s.fetchRun_of_known _ _ fun hnone => h (List.mem_of_mem_drop (List.mem_of_mem_take hnone))
end

theorem State.cmd?_modCmd_self (hc : s.cmd? c.id = some c) (f : Cmd → Cmd) (hf : ∀ c, (f c).id = c.id := by intro _; rfl) :
    (s.modCmd c.id f).cmd? c.id = some (f c) := by
  rw [State.cmd?_modCmd _ _ _ _ hf, hc, Option.map_some, if_pos rfl]

variable (hc : s.cmd? c.id = some c)
include hbody hc

theorem exec_copyCommand_eq : exec (.copyCommand c.id) s = .next (s.startAndFetch c) := by
  rw [exec_copyCommand, execCopyCommand, hc]
  simp only [hbody]

theorem exec_copyRetire_eq : exec (.copyRetire c.id) s = .next
    (if c.st = .running ∧ s.cmdLive c ∧ s.cmdFirst c then (if c.ending then s.retireCopy c dst follow else s.copyStep c) else s) := by
  rw [exec_copyRetire, execCopyRetire, hc]
  simp only [hbody]

theorem exec_copyCommand_idle (h : c.st ≠ .queued ∨ s.cmdLive c = false ∨ s.cmdFirst c = false) : exec (.copyCommand c.id) s = .next s := by
  rw [exec_copyCommand_eq hbody hc, State.startAndFetch, if_neg fun ⟨hst, hlive, hfirst⟩ => by simp [hst, hlive, hfirst] at h]

theorem exec_copyRetire_idle (h : c.st ≠ .running ∨ s.cmdLive c = false ∨ s.cmdFirst c = false) : exec (.copyRetire c.id) s = .next s := by
  rw [exec_copyRetire_eq hbody hc, if_neg fun ⟨hst, hlive, hfirst⟩ => by simp [hst, hlive, hfirst] at h]

section
variable (hst : c.st = .queued) (hlive : s.cmdLive c = true) (hfirst : s.cmdFirst c = true)
include hst hlive hfirst

theorem exec_copyCommand_first :
    exec (.copyCommand c.id) s = .next ((s.modCmd c.id fun c => { c with st := .running }).fetchSources c) := by
  rw [exec_copyCommand_eq hbody hc, State.startAndFetch, if_pos ⟨hst, hlive, hfirst⟩, State.startCmd, hc]
  simp only [hst, hlive, hfirst, and_self, if_true]

/-- A started copy runs and has asked for what it lacks (10 R267, R270). -/
theorem exec_copyCommand_starts : ∃ t c', exec (.copyCommand c.id) s = .next t ∧ t.cmd? c.id = some c' ∧
    c' = { c with st := .running } ∧ s.SameMemory t ∧ ∀ r, s.rank? c.by'.vr = some r → ∃ q news, t.rank? c.by'.vr = some q ∧
      q.accesses = r.accesses ++ news ∧ ∀ a ∈ news, ∃ pos n, a.op = .cmdLoad c.id pos n := by
  obtain ⟨ops, hask, hops⟩ := State.asksLoads_fetchSources hbody (s.modCmd c.id fun c => { c with st := .running })
  refine ⟨_, _, exec_copyCommand_first hbody hc hst hlive hfirst, (State.cmd?_congr hask.cmds _).trans (State.cmd?_modCmd_self hc _), rfl,
    State.sameMemory_of_memories hask.memories, fun r hr => ?_⟩
  obtain ⟨q, news, hq, haccs, hnews⟩ := hask.accesses r hr
  exact ⟨q, news, hq, haccs, fun a ha => hops a.op (hnews ▸ List.mem_map_of_mem ha)⟩
end

section
variable (hst : c.st = .running) (hlive : s.cmdLive c = true) (hfirst : s.cmdFirst c = true)
include hst hlive hfirst

theorem exec_copyRetire_step (hending : c.ending = false) : exec (.copyRetire c.id) s = .next (s.copyStep c) := by
  rw [exec_copyRetire_eq hbody hc, if_pos ⟨hst, hlive, hfirst⟩, hending]
  rfl
end
end

/-! #### Writes of a command -/

theorem ownPad_own {core o : Nat} (h : o < 0x80000) : ownPad core (.scratch (core * 0x80000 + o)) = true := by
  simp only [ownPad, beq_iff_eq]
  omega

theorem ownPad_glob (core : Nat) (ap : BitVec 2) (pr a n : Nat) : ownPad core (((Space.glob ap pr a).toStore core).plus n) = false := by
  unfold Space.toStore
  dsimp only
  split
  · rfl
  · split <;> rfl

/-- Writes of bytes side by side in a scratchpad are one write of the run. -/
theorem foldl_putOwn_run (a : Nat) (vs : List Byte) (k : Nat) (m : Memory) :
    ((vs.zipIdx k).map fun q => ({ dst := .scratch (a + q.2), val := q.1 } : EByte)).foldl putOwn m = memPut m (a + k) vs := by
  induction vs generalizing k m with
  | nil => rfl
  | cons v t ih =>
    rw [List.zipIdx_cons, List.map_cons, List.foldl_cons, ih]
    rfl

theorem runWrites_scratch {core : Nat} {p : Space} {a : Nat} (h : p.toStore core = .scratch a) (vs : List Byte) :
    runWrites core p vs = vs.zipIdx.map fun q => { dst := .scratch (a + q.2), val := q.1 } := by
  simp [runWrites, h, StoreTo.plus]

theorem State.modSlot_self (s : State) (slot : Nat) {f : Slot → Slot} (h : ∀ k, f k = k) : s.modSlot slot f = s := by
  have hslots : s.slots.setIfInBounds slot (f (s.slot slot)) = s.slots := by
    refine Vector.ext fun i hi => ?_
    rw [Vector.getElem_setIfInBounds]
    split
    · next heq =>
      subst heq
      simp [h, State.slot, hi]
    · rfl
  rw [State.modSlot, hslots]

/-- Writes that are not in the scratchpad of the issuing core change nothing at once (05 R453). -/
theorem State.putOwnWrites_foreign (s : State) {c : Cmd} {ws : List EByte} (h : ∀ w ∈ ws, ownPad c.by'.core w.dst = false) :
    s.putOwnWrites c ws = s := by
  have hnone : (ws.filter fun w => ownPad c.by'.core w.dst) = [] := List.filter_eq_nil_iff.mpr fun w hw => by simp [h w hw]
  unfold State.putOwnWrites
  rw [hnone]
  dsimp only
  split
  · exact s.modSlot_self _ fun _ => rfl
  · rfl

/-- Writes into the scratchpad of the issuing core stand there at once (05 R453). -/
theorem State.pads_putOwnWrites {s : State} {c : Cmd} {ws : List EByte} {slot : Nat} (hslot : s.slotOf c.by'.vr = some slot)
    (hlt : slot < 16) (h : ∀ w ∈ ws, ownPad c.by'.core w.dst = true) :
    ((s.putOwnWrites c ws).slot slot).pads = ws.foldl putOwn (s.slot slot).pads := by
  unfold State.putOwnWrites
  rw [hslot, List.filter_eq_self.mpr h]
  dsimp only
  rw [State.slot_modSlot _ _ _ _ hlt, if_pos rfl]

theorem State.putOwnWrites_mem (s : State) (c : Cmd) (ws : List EByte) : (s.putOwnWrites c ws).mem = s.mem := by
  unfold State.putOwnWrites
  split <;> rfl

theorem State.putOwnWrites_ranks (s : State) (c : Cmd) (ws : List EByte) : (s.putOwnWrites c ws).ranks = s.ranks := by
  unfold State.putOwnWrites
  split <;> rfl

theorem filter_ownPad_foreign {core : Nat} {ws : List EByte} (h : ∀ w ∈ ws, ownPad core w.dst = false) :
    (ws.filter fun w => !ownPad core w.dst) = ws := List.filter_eq_self.mpr fun w hw => by simp [h w hw]

theorem filter_ownPad_own {core : Nat} {ws : List EByte} (h : ∀ w ∈ ws, ownPad core w.dst = true) :
    (ws.filter fun w => !ownPad core w.dst) = [] := List.filter_eq_nil_iff.mpr fun w hw => by simp [h w hw]

/-! #### The next bytes of a copy -/

/-- The command goes on after some of its writes: those outside its core's scratchpad are kept (05 R453, 10 R268). -/
def Cmd.advance (ws : List EByte) (b : CmdBody) (c : Cmd) : Cmd :=
  { c with wrote := c.wrote ++ ws.filter (fun w => !ownPad c.by'.core w.dst), body := b }

/-- Where a copy goes on after 64 bytes of its row, or after the last of them. -/
def copyNext (rlen row byte : Nat) : Nat × Nat := if rlen ≤ byte + 64 then (row + 1, 0) else (row, byte + 64)

section
variable {s : State} {c : Cmd} {src dst : Space} {rlen nrow : Nat} {sstr dstr : Int} {follow : Option (Nat × Nat)}
  {data : List (Option Byte)} {row byte : Nat} (hbody : c.body = .copy src dst rlen nrow sstr dstr follow data row byte)

/-- Source bytes that are as they were are the bytes that arrive (05 R132). -/
theorem State.copyBytes_unchanged {slot : Nat} (hslot : s.slotOf c.by'.vr = some slot) {vs : List Byte}
    (hsame : ∀ i w, i < vs.length → s.readLoc c.by'.vr c.by'.core slot (copySource c.by'.core src sstr row (byte + i)) = some w →
      vs[i]? = some w) :
    s.copyBytes c src sstr row byte (vs.map some) = (vs, { s with free := s.free + vs.length }) := by
  unfold State.copyBytes
  dsimp only
  rw [hslot, Option.getD_some, List.length_map]
  congr 1
  refine List.ext_getElem (by simp) fun i hi hi' => ?_
  have hsame := hsame i
  simp only [List.getElem_map, List.getElem_zipIdx, Nat.zero_add]
  split
  · next v w hv hw =>
    rw [List.getElem?_eq_getElem hi'] at hsame
    cases hv
    rw [if_pos (by simp [Option.some.inj (hsame w hi' hw)])]
  · next hv _ => exact (Option.some.inj hv).symm
  · next hv => cases hv

section
variable (hrow : row < nrow)
include hbody hrow

theorem State.copyStep_waits (h : none ∈ (data.drop (row * rlen + byte)).take (min 64 (rlen - byte))) : s.copyStep c = s := by
  unfold State.copyStep
  rw [hbody]
  dsimp only
  rw [if_neg (Nat.not_le.mpr hrow), if_pos (List.any_eq_true.mpr ⟨none, h, rfl⟩)]

theorem State.copyStep_moves {vs : List Byte} (h : (data.drop (row * rlen + byte)).take (min 64 (rlen - byte)) = vs.map some) :
    s.copyStep c =
      let b := s.copyBytes c src sstr row byte (vs.map some)
      let w := b.2.openSpoiled c (runWrites c.by'.core ((dst.plus ((row : Int) * dstr)).plus byte) b.1)
      (w.2.putOwnWrites c w.1).modCmd c.id (.advance w.1
        (.copy src dst rlen nrow sstr dstr follow data (copyNext rlen row byte).1 (copyNext rlen row byte).2)) := by
  unfold State.copyStep
  rw [hbody]
  dsimp only
  rw [if_neg (Nat.not_le.mpr hrow), h, if_neg (by simp)]
  rfl

theorem State.copyStep_body (hc : s.cmd? c.id = some c) {vs : List Byte}
    (h : (data.drop (row * rlen + byte)).take (min 64 (rlen - byte)) = vs.map some) :
    ∃ c', (s.copyStep c).cmd? c.id = some c' ∧ c'.body =
      .copy src dst rlen nrow sstr dstr follow data (copyNext rlen row byte).1 (copyNext rlen row byte).2 := by
  rw [State.copyStep_moves hbody hrow h]
  refine ⟨_, State.cmd?_modCmd_self ?_ _, rfl⟩
  exact (State.cmd?_congr ((State.putOwnWrites_cmds _ _ _).trans (State.openSpoiled_cmds _ _ _)) _).trans hc

variable {slot : Nat} {vs : List Byte} (h : (data.drop (row * rlen + byte)).take (min 64 (rlen - byte)) = vs.map some)
  (hslot : s.slotOf c.by'.vr = some slot) (hspoiled : c.spoiled = [])
  (hsame : ∀ i w, i < vs.length → s.readLoc c.by'.vr c.by'.core slot (copySource c.by'.core src sstr row (byte + i)) = some w →
      vs[i]? = some w)
include h hslot hspoiled hsame

/-- Source bytes that have not changed since the submission arrive as they are (05 R131, R132). -/
theorem State.copyStep_unchanged : s.copyStep c =
    let ws := runWrites c.by'.core ((dst.plus ((row : Int) * dstr)).plus byte) vs
    ({ s with free := s.free + vs.length }.putOwnWrites c ws).modCmd c.id (.advance ws
      (.copy src dst rlen nrow sstr dstr follow data (copyNext rlen row byte).1 (copyNext rlen row byte).2)) := by
  rw [State.copyStep_moves hbody hrow h, State.copyBytes_unchanged hslot hsame]
  simp [State.openSpoiled, hspoiled]

/-- Bytes into the issuing core's own scratchpad stand there at once (05 R453). -/
theorem State.copyStep_own (hc : s.cmd? c.id = some c) (hlt : slot < 16) (hwf : Memory.wf (s.slot slot).pads = true) {o : Nat}
    (hdst : ((dst.plus ((row : Int) * dstr)).plus byte).toStore c.by'.core = .scratch (c.by'.core * 0x80000 + o))
    (hin : o + vs.length ≤ 0x80000) : ∃ c', (s.copyStep c).cmd? c.id = some c' ∧ c'.wrote = c.wrote ∧
      (s.copyStep c).mem = s.mem ∧ (s.copyStep c).ranks = s.ranks ∧ ∀ x, memRead ((s.copyStep c).slot slot).pads x =
        if c.by'.core * 0x80000 + o ≤ x ∧ x < c.by'.core * 0x80000 + o + vs.length
          then vs[x - (c.by'.core * 0x80000 + o)]?.getD 0 else memRead (s.slot slot).pads x := by
  have hruns := runWrites_scratch hdst vs
  have hown : ∀ w ∈ runWrites c.by'.core ((dst.plus ((row : Int) * dstr)).plus byte) vs, ownPad c.by'.core w.dst = true := by
    rw [hruns]
    intro w hw
    obtain ⟨q, hq, rfl⟩ := List.mem_map.mp hw
    have hlt := (List.mem_zipIdx' hq).1
    rw [Nat.add_assoc]
    exact ownPad_own (by omega)
  have hpads := State.pads_putOwnWrites (s := { s with free := s.free + vs.length }) hslot hlt hown
  rw [hruns, foldl_putOwn_run, Nat.add_zero] at hpads
  rw [State.copyStep_unchanged hbody hrow h hslot hspoiled hsame]
  dsimp only
  refine ⟨_, State.cmd?_modCmd_self ?_ _, ?_, State.putOwnWrites_mem _ _ _, State.putOwnWrites_ranks _ _ _, fun x => ?_⟩
  · exact (State.cmd?_congr (State.putOwnWrites_cmds _ _ _) _).trans hc
  · simp [Cmd.advance, filter_ownPad_own hown]
  · rw [hruns]
    exact (congrArg (memRead · x) hpads).trans (memRead_memPut hwf _ _ _)

/-- Bytes for memory, host memory or another package are kept until the command retires (05 R453). -/
theorem State.copyStep_glob (hc : s.cmd? c.id = some c) {ap : BitVec 2} {pr a : Nat}
    (hdst : (dst.plus ((row : Int) * dstr)).plus byte = .glob ap pr a) : ∃ c', (s.copyStep c).cmd? c.id = some c' ∧
      c'.wrote = c.wrote ++ runWrites c.by'.core (.glob ap pr a) vs ∧ (s.copyStep c).memories = s.memories ∧
      (s.copyStep c).ranks = s.ranks := by
  have hforeign : ∀ w ∈ runWrites c.by'.core (.glob ap pr a) vs, ownPad c.by'.core w.dst = false := by
    intro w hw
    obtain ⟨q, -, rfl⟩ := List.mem_map.mp hw
    exact ownPad_glob _ _ _ _ _
  rw [State.copyStep_unchanged hbody hrow h hslot hspoiled hsame, hdst]
  dsimp only
  rw [State.putOwnWrites_foreign _ hforeign]
  refine ⟨_, State.cmd?_modCmd_self hc _, ?_, rfl, rfl⟩
  simp [Cmd.advance, filter_ownPad_foreign hforeign]
end

section
include hbody

/-- After the last row the bytes for other packages are sent (10 R270). -/
theorem State.copyStep_sends (hrow : nrow ≤ row)
    (haway : peerRuns c.wrote ≠ []) : s.copyStep c = (peerRuns c.wrote).foldl
      (fun (s : State) q => s.cmdAccess c (.cmdStore c.id q.2.2) q.1 q.2.1 (peerOrder c.order 1))
      (s.modCmd c.id fun c => { c with ending := true }) := by
  unfold State.copyStep
  rw [hbody]
  dsimp only
  rw [if_pos hrow, if_neg (by simpa using haway)]

theorem State.copyStep_ends (hrow : nrow ≤ row)
    (haway : peerRuns c.wrote = []) : s.copyStep c = s.retireCopy c dst follow := by
  unfold State.copyStep
  rw [hbody]
  dsimp only
  rw [if_pos hrow, haway]
  rfl
end
end

/-! #### The end of a copy -/

/-- The rank has taken what a retired command keeps into the view of its core (05 R453). -/
def Cmd.viewed (c : Cmd) (ws : List EByte) (r : Rank) : Rank :=
  { r with engView := r.engView ++ if ws = [] then [] else [{ core := c.by'.core, strand := c.by'.strand, order := c.order, bytes := ws }] }

theorem State.modRank_self (s : State) (v : Nat) {f : Rank → Rank} (h : ∀ r, f r = r) : s.modRank v f = s := by
  have hranks : (s.ranks.map fun r => if r.vr = v then f r else r) = s.ranks := by simp [h]
  rw [State.modRank, hranks]

section
variable {s : State} {c : Cmd} {ws : List EByte} (hforeign : ∀ w ∈ ws, ownPad c.by'.core w.dst = false)
include hforeign

/-- A command that has nothing more for its core's own scratchpad retires into the view of that core (05 R453, 10 R271). -/
theorem State.retireCmd_foreign : s.retireCmd c ws =
    ({ s with cmds := s.cmds.filter fun x => x.id != c.id }.modRank c.by'.vr (c.viewed ws)).releasePins c.pins := by
  unfold State.retireCmd
  rw [filter_ownPad_foreign hforeign, State.putOwnWrites_foreign _ hforeign]
  dsimp only
  split
  · next hempty =>
    have hnil := List.isEmpty_iff.mp hempty
    rw [State.modRank_self _ _ fun r => by simp [Cmd.viewed, hnil]]
  · next hsome =>
    have hne : ws ≠ [] := fun h => hsome (List.isEmpty_iff.mpr h)
    have hviewed : c.viewed ws = fun r => { r with engView := r.engView ++
        [{ core := c.by'.core, strand := c.by'.strand, order := c.order, bytes := ws }] } := by
      funext r
      rw [Cmd.viewed, if_neg hne]
    rw [hviewed]

theorem State.retireCmd_locks : (s.retireCmd c ws).locks = c.pins.foldl releasePin s.locks := by
  rw [State.retireCmd_foreign hforeign]
  rfl

theorem State.retireCmd_memories : (s.retireCmd c ws).memories = s.memories := by
  rw [State.retireCmd_foreign hforeign]
  rfl

theorem State.rank?_retireCmd {r : Rank} (hr : s.rank? c.by'.vr = some r) : (s.retireCmd c ws).rank? c.by'.vr = some (c.viewed ws r) := by
  rw [State.retireCmd_foreign hforeign]
  exact (State.rank?_modRank { s with cmds := s.cmds.filter fun x => x.id != c.id } _ _ (c.viewed ws) fun _ => rfl).trans
    ((congrArg (Option.map _) hr).trans (congrArg some (if_pos rfl)))

theorem State.core?_retireCmd (q : SRef) : (s.retireCmd c ws).core? q = s.core? q := by
  rw [State.retireCmd_foreign hforeign]
  exact State.core?_modRank { s with cmds := s.cmds.filter fun x => x.id != c.id } _ q (fun _ => rfl) fun _ => rfl

theorem State.slotOf_retireCmd (v : Nat) : (s.retireCmd c ws).slotOf v = s.slotOf v := by
  rw [State.retireCmd_foreign hforeign]
  exact State.slotOf_modRank { s with cmds := s.cmds.filter fun x => x.id != c.id } _ v (fun _ => rfl) fun _ => rfl

theorem State.descAt_retireCmd (v core a : Nat) : (s.retireCmd c ws).descAt v core a = s.descAt v core a := by
  have hslots : (s.retireCmd c ws).slots = s.slots := congrArg (·.2.2) (State.retireCmd_memories hforeign)
  rw [State.descAt, State.slotOf_retireCmd hforeign, State.padBytes, State.slot, hslots]
  rfl
end

theorem State.retireCopy_away {s : State} {c : Cmd} (h : s.cmdAway c = true) (dst : Space) (follow : Option (Nat × Nat)) :
    s.retireCopy c dst follow = s := if_pos h

theorem State.retireCopy_none {s : State} {c : Cmd} (h : s.cmdAway c = false) (dst : Space) :
    s.retireCopy c dst none = s.retireCmd c c.wrote := by simp [State.retireCopy, h]

theorem State.retireCopy_some {s : State} {c : Cmd} (h : s.cmdAway c = false) (dst : Space) (z q : Nat) :
    s.retireCopy c dst (some (z, q)) = (s.retireCmd c c.wrote).followOn c dst z q c.wrote := by simp [State.retireCopy, h]

/-! #### The follow-on stream (09 R256) -/

theorem memBytes_eq_map (m : Memory) (a n : Nat) : memBytes m a n = (List.range n).map fun i => memRead m (a + i) := by
  refine List.ext_getElem? fun i => ?_
  by_cases hi : i < n
  · rw [getElem?_memBytes m a n i hi]
    simp [hi]
  · rw [List.getElem?_eq_none (by rw [length_memBytes]; omega), List.getElem?_eq_none (by simp; omega)]

/-- Putting a core back that bears the number of the one read. -/
theorem State.core?_modCore_const {s : State} {r : SRef} {k : Core} (hk : s.core? r = some k) {k' : Core} (hno : k'.coreno = k.coreno) :
    (s.modCore r fun _ => k').core? r = some k' := by
  obtain ⟨g, -, hcore⟩ := Option.bind_eq_some_iff.mp hk
  have hr : k.coreno = r.core := by simpa using List.find?_some hcore
  have hmod : s.modCore r (fun _ => k') = s.modCore r fun c => if c.coreno = r.core then k' else c := by
    have hgang : ∀ g : Gang, g.modCore r.core (fun _ => k') = g.modCore r.core fun c => if c.coreno = r.core then k' else c := fun g => by
      unfold Gang.modCore
      congr 1
      refine List.map_congr_left fun c _ => ?_
      by_cases h : c.coreno = r.core <;> simp [h]
    simp only [State.modCore, hgang]
  rw [hmod, s.core?_modCore_self r (fun c => ?_) hk, if_pos hr]
  split
  · next h => rw [hno, hr, h]
  · rfl

section
variable {s : State} {c : Cmd} {dst : Space} {z q o slot : Nat} {k : Core} (ws : List EByte)
  (hdst : dst.toStore c.by'.core = .scratch (c.by'.core * 0x80000 + o)) (ho : o < 0x80000)
  (hk : s.core? { c.by' with strand := .l } = some k) (hslot : s.slotOf c.by'.vr = some slot)
include hdst ho hk hslot

/-- A follow-on stream of the issuing core binds to the descriptor that stands in that core's scratchpad. -/
theorem State.followOn_own : (∀ k', k.bindStream z q (s.descAt c.by'.vr c.by'.core (k.stream z).descAddr) = .ok k' →
      s.followOn c dst z q ws = s.modCore { c.by' with strand := .l } fun _ => k'.setStream z { k'.stream z with laid := [] }) ∧
    ∀ e, k.bindStream z q (s.descAt c.by'.vr c.by'.core (k.stream z).descAddr) = .error e →
      s.followOn c dst z q ws = s.streamFault { c.by' with strand := .l } z (groupovr 3 z 0) := by
  have hcore : (c.by'.core * 0x80000 + o) / 0x80000 = c.by'.core := by omega
  have hdesc : s.descAt c.by'.vr c.by'.core (k.stream z).descAddr = BitVec.ofNat 512 (leNat ((List.range 64).map fun i =>
      memRead (s.slot slot).pads (c.by'.core * 0x80000 + ((k.stream z).descAddr + i)))) := by
    rw [State.descAt, hslot, State.padBytes, memBytes_eq_map]
    simp only [Option.getD_some, Nat.add_assoc]
  have hk' : s.core? { vr := c.by'.vr, gang := c.by'.gang, core := c.by'.core, strand := .l } = some k := hk
  unfold State.followOn
  rw [hdst]
  dsimp only
  rw [hcore, hk', hslot]
  dsimp only
  generalize hl : List.filterMap _ ws = laid
  have hlaid : laid = [] := by
    rw [← hl, List.filterMap_eq_nil_iff]
    intro w _
    split
    · exact if_neg fun h => h.2 rfl
    · rfl
  subst hlaid
  simp only [List.reverse_nil, List.find?_nil]
  rw [← hdesc]
  refine ⟨fun k' hbind => ?_, fun e hbind => ?_⟩
  · rw [hbind]
  · rw [hbind]

/-- The follow-on stream runs on its queue where the binding is legal, else it faults. -/
theorem State.followOn_stream (hz : z < 16) : ∃ k', (s.followOn c dst z q ws).core? { c.by' with strand := .l } = some k' ∧
    (∀ k'', k.bindStream z q (s.descAt c.by'.vr c.by'.core (k.stream z).descAddr) = .ok k'' →
      (k'.stream z).st = .running ∧ (k'.stream z).q = q) ∧
    ∀ e, k.bindStream z q (s.descAt c.by'.vr c.by'.core (k.stream z).descAddr) = .error e → (k'.stream z).st = .faulted := by
  obtain ⟨hok, herror⟩ := State.followOn_own (z := z) (q := q) ws hdst ho hk hslot
  cases hbind : k.bindStream z q (s.descAt c.by'.vr c.by'.core (k.stream z).descAddr) with
  | ok k'' =>
    obtain ⟨hrun, hq⟩ := Core.stream_bindStream hz hbind
    have hno : (k''.setStream z { k''.stream z with laid := [] }).coreno = k.coreno := by
      rw [(Core.bindStream_ok hbind).1]
      rfl
    refine ⟨_, (congrArg (State.core? · { c.by' with strand := .l }) (hok k'' hbind)).trans (State.core?_modCore_const hk hno),
      fun _ _ => ?_, fun _ h => (nomatch h)⟩
    rw [Core.stream_setStream k'' hz]
    exact ⟨hrun, hq⟩
  | error e =>
    obtain ⟨k', hk', hst, -, -⟩ := State.streamFault_spec hk hz (groupovr 3 z 0)
    rw [herror e hbind]
    exact ⟨k', hk', fun _ h => (nomatch h), fun _ _ => hst⟩
end

/-! #### The reset of an engine (10 R273) -/

theorem State.undefine_cmds (s : State) (slot : Nat) (r : SRef) (l : List (Space × Nat)) : (s.undefine slot r l).cmds = s.cmds := by
  have hput : ∀ (s : State) (d : StoreTo) (bs : List Byte), (s.putCommitted slot d bs).cmds = s.cmds := fun s d bs => by cases d <;> rfl
  induction l generalizing s with
  | nil => rfl
  | cons p t ih =>
    unfold State.undefine
    dsimp only
    rw [ih]
    split
    · exact hput _ _ _
    · exact foldl_keeps State.cmds (fun _ _ => hput _ _ _) _ _

theorem State.freeSource_cmds (s : State) (t : BitVec 512) : (s.freeSource t).cmds = s.cmds := by
  unfold State.freeSource
  dsimp only
  repeat' split
  all_goals rfl

theorem State.abandonMigr_cmds (s : State) (c : Cmd) : (s.abandonMigr c).cmds = s.cmds := by
  have htell : ∀ (s : State) (vr : Nat), (s.tell vr).cmds = s.cmds := fun s vr => by
    unfold State.tell
    split
    · split <;> rfl
    · rfl
  unfold State.abandonMigr
  split
  · dsimp only
    split
    · exact htell _ _
    · split
      · exact s.freeSource_cmds _
      · rfl
  · rfl

theorem State.discardCmds_cmds (s : State) (p : Cmd → Bool) : (s.discardCmds p).cmds = s.cmds.filter fun c => !p c :=
by
  unfold State.discardCmds
  refine (foldl_keeps State.cmds (fun s c => ?_) _ _).trans rfl
  rw [State.abandonMigr_cmds]
  exact State.undefine_cmds _ _ _ _

/-- A strand after the reset of an engine: no record, no marker, no armed join of it. -/
theorem Strand.engineReset_spec (st : Strand) {e : Nat} (he : e < 37) : (st.engineReset e).recs[e]? = some 0 ∧
    (∀ m ∈ (st.engineReset e).markers, m.engine ≠ e) ∧
    ∀ j ∈ (st.engineReset e).joins.toList, ∀ mask m, j = .armed mask m → bitAt mask e = false := by
  unfold Strand.engineReset
  refine ⟨?_, fun m hm => ?_, fun j hj mask m hjm => ?_⟩
  · simp [he]
  · simpa using (List.mem_filter.mp hm).2
  · rw [Vector.toList_map] at hj
    obtain ⟨i, -, rfl⟩ := List.mem_map.mp hj
    cases i with
    | armed mask' m' =>
      cases hbit : bitAt mask' e <;> simp [hbit] at hjm
      simpa [← hjm.1] using hbit
    | idle => cases hjm
    | fired => cases hjm

theorem State.cmds_resetEngine (s : State) (e slot : Nat) (c : Cmd) :
    c ∈ (s.resetEngine e slot).cmds ↔ c ∈ s.cmds ∧ ¬ (c.engine = e ∧ (e ≠ 32 ∨ c.slot = slot)) := by
  have hcmds : (s.resetEngine e slot).cmds = (s.discardCmds fun c => c.engine == e && (e != 32 || c.slot == slot)).cmds := rfl
  rw [hcmds, State.discardCmds_cmds, List.mem_filter]
  simp [imp_iff_not_or]

/-- Both strands of every core in a rank that the engine serves have been reset. -/
theorem State.strands_resetEngine {s : State} {e slot : Nat} {r : Rank} (hr : r ∈ (s.resetEngine e slot).ranks)
    (hserved : r.servedBy e slot = true) {g : Gang} (hg : g ∈ r.gangs) {k : Core} (hk : k ∈ g.cores) {st : Strand} (hst : st ∈ [k.l, k.s]) :
    ∃ st0 : Strand, st = st0.engineReset e := by
  obtain ⟨r0, -, rfl⟩ := List.mem_map.mp hr
  cases h0 : r0.servedBy e slot with
  | false =>
    rw [h0] at hserved
    exact absurd (h0.symm.trans hserved) Bool.false_ne_true
  | true =>
    rw [h0] at hg
    obtain ⟨g0, -, rfl⟩ := List.mem_map.mp hg
    obtain ⟨k0, -, rfl⟩ := List.mem_map.mp hk
    obtain rfl | rfl : st = k0.l.engineReset e ∨ st = k0.s.engineReset e := by simpa using hst
    · exact ⟨_, rfl⟩
    · exact ⟨_, rfl⟩

section
variable {s : State} {c : Cmd} {src dst : Space} {rlen nrow : Nat} {sstr dstr : Int} {follow : Option (Nat × Nat)}
  {data : List (Option Byte)} {row byte : Nat} (hbody : c.body = .copy src dst rlen nrow sstr dstr follow data row byte)
  (hc : s.cmd? c.id = some c) (hst : c.st = .running) (hlive : s.cmdLive c = true) (hfirst : s.cmdFirst c = true)
include hbody hc hst hlive hfirst

/-- A copy past its last row with bytes for other packages sends them and waits (10 R270). -/
theorem exec_copyRetire_sends (hending : c.ending = false) (hrow : nrow ≤ row) (haway : peerRuns c.wrote ≠ []) :
    ∃ t, exec (.copyRetire c.id) s = .next t ∧ t.cmd? c.id = some { c with ending := true } ∧ s.SameMemory t ∧
      ∀ r, s.rank? c.by'.vr = some r → ∃ q news, t.rank? c.by'.vr = some q ∧ q.accesses = r.accesses ++ news ∧
        news.map Access.op = (peerRuns c.wrote).map fun p => .cmdStore c.id p.2.2 := by
  have hask := State.asks_stores (c := c) (peerOrder c.order 1) (peerRuns c.wrote) (s.modCmd c.id fun c => { c with ending := true })
  rw [← State.copyStep_sends hbody hrow haway] at hask
  exact ⟨_, exec_copyRetire_step hbody hc hst hlive hfirst hending, (State.cmd?_congr hask.cmds _).trans (State.cmd?_modCmd_self hc _),
    State.sameMemory_of_memories hask.memories, hask.accesses⟩

/-- A copy that has nothing more to send retires once its accesses have performed (10 R270). -/
theorem exec_copyRetire_ends (hend : c.ending = true ∨ (nrow ≤ row ∧ peerRuns c.wrote = [])) :
    exec (.copyRetire c.id) s = .next (s.retireCopy c dst follow) := by
  rw [exec_copyRetire_eq hbody hc, if_pos ⟨hst, hlive, hfirst⟩]
  split
  · rfl
  · next hne =>
    obtain ⟨hrow, haway⟩ := hend.resolve_left hne
    rw [State.copyStep_ends hbody hrow haway]
end

/-- Settles O41: by the rules of COPY_COMMAND, of the next bytes, of the end of a copy and of a reset above. -/
theorem copyCommandsAndReset : Obligations.CopyCommandsAndReset := by
  intro s
  refine ⟨fun c src dst rlen nrow sstr dstr follow data row byte hc hbody => ⟨fun hst hlive hfirst => ⟨fun hknown => ?_, ?_⟩,
    exec_copyCommand_idle hbody hc, exec_copyRetire_idle hbody hc, fun hst hlive hfirst => ⟨fun hending hrow => ⟨fun hwait => ?_,
      fun vs hvs => ⟨?_, fun slot hslot hlt hwf hspoiled hsame => ⟨fun o hdst hin => ?_, fun ap pr a hdst => ?_⟩⟩⟩,
      exec_copyRetire_sends hbody hc hst hlive hfirst, fun hend => ⟨fun haway => ?_, fun haway hforeign => ?_⟩⟩⟩,
    fun e slot he => ⟨s.resetEngine e slot, rfl, fun c h => (s.cmds_resetEngine e slot c).mp h,
      fun c h hne => (s.cmds_resetEngine e slot c).mpr ⟨h, hne⟩, fun r hr hserved g hg k hk st hst => ?_⟩⟩
  · rw [exec_copyCommand_first hbody hc hst hlive hfirst, State.fetchSources_of_known hbody _ hknown]
  · exact exec_copyCommand_starts hbody hc hst hlive hfirst
  · rw [exec_copyRetire_step hbody hc hst hlive hfirst hending, State.copyStep_waits hbody hrow hwait]
  · obtain ⟨c', hc', hbody'⟩ := State.copyStep_body hbody hrow hc hvs
    refine ⟨_, c', exec_copyRetire_step hbody hc hst hlive hfirst hending, hc', hbody'.trans ?_⟩
    unfold copyNext
    split <;> rfl
  · obtain ⟨c', hc', hrest⟩ := State.copyStep_own hbody hrow hvs hslot hspoiled hsame hc hlt hwf hdst hin
    exact ⟨_, c', exec_copyRetire_step hbody hc hst hlive hfirst hending, hc', hrest⟩
  · obtain ⟨c', hc', hwrote, hmem, hranks⟩ := State.copyStep_glob hbody hrow hvs hslot hspoiled hsame hc hdst
    exact ⟨_, c', exec_copyRetire_step hbody hc hst hlive hfirst hending, hc', hwrote, State.sameMemory_of_memories hmem, hranks⟩
  · rw [exec_copyRetire_ends hbody hc hst hlive hfirst hend, State.retireCopy_away haway]
  · have hstep := exec_copyRetire_ends hbody hc hst hlive hfirst hend
    refine ⟨_, rfl, State.cmd?_retireCmd s c _, State.retireCmd_locks hforeign,
      State.sameMemory_of_memories (State.retireCmd_memories hforeign), fun r hr => ⟨_, State.rank?_retireCmd hforeign hr, rfl, rfl⟩,
      fun hnone => ?_, fun z q hsome => ⟨?_, fun o slot k hdst ho hz hk hslot => ?_⟩⟩
    · rw [hstep, hnone, State.retireCopy_none haway]
    · rw [hstep, hsome, State.retireCopy_some haway]
    · have hfollow := State.followOn_stream (q := q) c.wrote hdst ho ((State.core?_retireCmd hforeign _).trans hk)
        ((State.slotOf_retireCmd hforeign _).trans hslot) hz
      rwa [State.descAt_retireCmd hforeign] at hfollow
  · obtain ⟨st0, rfl⟩ := State.strands_resetEngine hr hserved hg hk hst
    exact st0.engineReset_spec he

end Sys2Proof.Machine

/-! ### Graphs, ops and trees of the collective engine (10 R268 to R285) -/

namespace Sys2Proof.Machine

/-! #### Free values (log entry 5) -/

theorem State.length_fill (s : State) (bs : List (Option Byte)) : (s.fill bs).1.length = bs.length := by
  simp [State.fill]

theorem State.getElem?_fill (s : State) {bs : List (Option Byte)} {k : Nat} {v : Byte} (h : bs[k]? = some (some v)) :
    (s.fill bs).1[k]? = some v := by
  simp [State.fill, h]

/-- Bytes that are all known stay as they are. -/
theorem State.fill_map_some (s : State) (bs : List Byte) : (s.fill (bs.map some)).1 = bs := by
  refine List.ext_getElem (by simp [State.length_fill]) fun k hk hk' => ?_
  have hfill := s.getElem?_fill (bs := bs.map some) (k := k) (v := bs[k]) (by simp)
  rwa [List.getElem?_eq_getElem hk, Option.some.injEq] at hfill

/-! #### The load of a graph (10 R274) -/

theorem State.rank?_modRank_self {s : State} {vr : Nat} {r : Rank} (hr : s.rank? vr = some r) (f : Rank → Rank)
    (hf : ∀ r, (f r).vr = r.vr := by intro _; rfl) : (s.modRank vr f).rank? vr = some (f r) := by
  rw [State.rank?_modRank _ _ _ f hf, hr, Option.map_some, if_pos rfl]

/-- A rank with a slot of its graph store loaded, or emptied where the record is bad. -/
def Rank.loadGraph (slot : Nat) (g : Option Graph) (r : Rank) : Rank :=
  { r with graphs := (r.graphs.filter fun p => p.1 != slot) ++ g.toList.map fun g => (slot, g) }

theorem Rank.find?_loadGraph_self (r : Rank) (slot : Nat) (g : Option Graph) :
    (r.loadGraph slot g).graphs.find? (fun p => p.1 == slot) = g.map fun g => (slot, g) := by
  have hnone : (r.graphs.filter fun p => p.1 != slot).find? (fun p => p.1 == slot) = none := by simp
  rw [Rank.loadGraph, List.find?_append, hnone, Option.none_or]
  cases g <;> simp

theorem Rank.find?_loadGraph_ne (r : Rank) {slot k : Nat} (h : k ≠ slot) (g : Option Graph) :
    (r.loadGraph slot g).graphs.find? (fun p => p.1 == k) = r.graphs.find? fun p => p.1 == k := by
  have hkeep : ∀ p : Nat × Graph, decide ((p.1 != slot) = true ∧ (p.1 == k) = true) = (p.1 == k) := by
    intro p
    by_cases hp : p.1 = k <;> simp [hp, h]
  have hnew : (g.toList.map fun g => (slot, g)).find? (fun p => p.1 == k) = none := by cases g <;> simp [h.symm]
  rw [Rank.loadGraph, List.find?_append, List.find?_filter, hnew, Option.or_none]
  exact congrArg (List.find? · r.graphs) (funext hkeep)

theorem exec_graphLoad_ok {slot : Nat} (hslot : slot < 64) {h : BitVec 128} {trees : List (BitVec 128)} {ops : List (BitVec 256)}
    (hok : graphOk h trees ops = true) (s : State) (vr : Nat) : exec (.graphLoad vr slot h trees ops) s =
      .next (s.modRank vr (Rank.loadGraph slot (some { header := h, trees := trees, ops := ops }))) := by
  simp only [exec_graphLoad, execGraphLoad, hok, if_neg (Nat.not_le.mpr hslot), if_true]
  rfl

theorem exec_graphLoad_bad {slot : Nat} (hslot : slot < 64) {h : BitVec 128} {trees : List (BitVec 128)} {ops : List (BitVec 256)}
    (hbad : graphOk h trees ops = false) (s : State) (vr : Nat) : exec (.graphLoad vr slot h trees ops) s =
      .next (({ s with out := s.out ++ [.report 0 vr slot] } : State).modRank vr (Rank.loadGraph slot none)) := by
  simp only [exec_graphLoad, execGraphLoad, hbad, if_neg (Nat.not_le.mpr hslot)]
  rfl

/-- A record that agrees with its header fills the slot, another empties it and is reported (10 R274). -/
theorem exec_graphLoad_spec {s : State} {vr slot : Nat} {r : Rank} {h : BitVec 128} {trees : List (BitVec 128)} {ops : List (BitVec 256)}
    (hslot : slot < 64) (hr : s.rank? vr = some r) : ∃ t q, exec (.graphLoad vr slot h trees ops) s = .next t ∧ t.rank? vr = some q ∧
      (graphOk h trees ops = true → q.graphs.find? (fun p => p.1 == slot) = some (slot, { header := h, trees := trees, ops := ops }) ∧
        t.out = s.out) ∧
      (graphOk h trees ops = false → q.graphs.find? (fun p => p.1 == slot) = none ∧ t.out = s.out ++ [.report 0 vr slot]) ∧
      (∀ k, k ≠ slot → q.graphs.find? (fun p => p.1 == k) = r.graphs.find? fun p => p.1 == k) ∧ s.SameMemory t := by
  cases hok : graphOk h trees ops with
  | true =>
    exact ⟨_, _, exec_graphLoad_ok hslot hok s vr, State.rank?_modRank_self hr _,
      fun _ => ⟨r.find?_loadGraph_self _ _, rfl⟩, fun h => (nomatch h), fun k hk => r.find?_loadGraph_ne hk _, State.sameMemory_of_memories rfl⟩
  | false =>
    exact ⟨_, _, exec_graphLoad_bad hslot hok s vr,
      State.rank?_modRank_self (s := { s with out := s.out ++ [.report 0 vr slot] }) hr _,
      fun h => (nomatch h), fun _ => ⟨r.find?_loadGraph_self _ _, rfl⟩, fun k hk => r.find?_loadGraph_ne hk _, State.sameMemory_of_memories rfl⟩

/-! #### The parts of a collective command -/

theorem CmdBody.eq_body {b : CmdBody} {x : Coll} (h : b.coll? = some x) : b = x.body := by
  cases b with
  | coll =>
    cases h
    rfl
  | copy => cases h
  | migr => cases h
  | gran => cases h

@[simp] theorem Coll.coll?_body (x : Coll) : x.body.coll? = some x := rfl

theorem Coll.st_modOp (x : Coll) (i : Nat) (f : OpSt → OpSt) {j : Nat} (h : j < x.ops.length) :
    (x.modOp i f).st j = if i = j then f (x.st j) else x.st j := by
  simp only [Coll.st, Coll.modOp, List.getElem?_modify, List.getElem?_eq_getElem h, Option.getD_some]
  split <;> rfl

@[simp] theorem Coll.length_ops_modOp (x : Coll) (i : Nat) (f : OpSt → OpSt) : (x.modOp i f).ops.length = x.ops.length := by
  simp [Coll.modOp]

/-- An op that the graph does not have is never ready. -/
theorem Coll.lt_of_startable {x : Coll} {i : Nat} (h : x.startable i = true) : i < x.ops.length := by
  by_contra hge
  rw [Coll.startable, Coll.st, List.getElem?_eq_none (Nat.not_lt.mp hge)] at h
  simp at h

theorem Coll.all_complete_iff (x : Coll) : x.ops.all OpSt.complete = true ↔ ∀ j, j < x.ops.length → (x.st j).complete = true := by
  rw [List.all_eq_true]
  constructor
  · intro h j hj
    rw [Coll.st, List.getElem?_eq_getElem hj]
    exact h _ (List.getElem_mem hj)
  · intro h o ho
    obtain ⟨j, hj, rfl⟩ := List.mem_iff_getElem.mp ho
    have hst := h j hj
    rwa [Coll.st, List.getElem?_eq_getElem hj] at hst

/-! #### COLLECTIVE_COMMAND (10 R267, R278) -/

section
variable {s : State} {c : Cmd}

theorem State.startAndFetch_first (hc : s.cmd? c.id = some c) (hst : c.st = .queued) (hlive : s.cmdLive c = true)
    (hfirst : s.cmdFirst c = true) : s.startAndFetch c = (s.modCmd c.id fun c => { c with st := .running }).fetchSources c := by
  rw [State.startAndFetch, if_pos ⟨hst, hlive, hfirst⟩, State.startCmd, hc]
  simp only [hst, hlive, hfirst, and_self, if_true]

theorem State.startAndFetch_idle (h : c.st ≠ .queued ∨ s.cmdLive c = false ∨ s.cmdFirst c = false) : s.startAndFetch c = s := by
  rw [State.startAndFetch, if_neg fun ⟨hst, hlive, hfirst⟩ => by simp [hst, hlive, hfirst] at h]

variable {x : Coll} (hx : c.body.coll? = some x)
include hx

theorem State.fetchSources_coll (s : State) : s.fetchSources c =
    (x.bufs.zip x.imgs).zipIdx.foldl (fun s q => s.fetchRun c q.1.1 (q.2 * 2 ^ 40) q.1.2) s := by
  rw [State.fetchSources, CmdBody.eq_body hx]
  rfl

theorem State.asksLoads_fetchSources_coll (s : State) : s.AsksLoads c (s.fetchSources c) := by
  rw [State.fetchSources_coll hx]
  exact State.asksLoads_foldl (fun s _ => s.asksLoads_fetchRun _ _ _) _ s

theorem State.fetchSources_coll_of_known (s : State) (h : ∀ l ∈ x.imgs, none ∉ l) : s.fetchSources c = s := by
  rw [State.fetchSources_coll hx, List.foldl_ext _ (fun s _ => s) s fun s q hq => ?_]
  · exact List.foldl_fixed _
  · have hq' : q.1 ∈ x.bufs.zip x.imgs := (List.mem_zipIdx' hq).2 ▸ List.getElem_mem _
    exact s.fetchRun_of_known _ _ (h _ (List.of_mem_zip hq').2)

theorem exec_collectiveCommand_eq (hc : s.cmd? c.id = some c) : exec (.collectiveCommand c.id) s = .next (s.startAndFetch c) := by
  simp only [exec_collectiveCommand, execCollectiveCommand, hc, hx]

theorem exec_collectiveCommand_first (hc : s.cmd? c.id = some c) (hst : c.st = .queued) (hlive : s.cmdLive c = true)
    (hfirst : s.cmdFirst c = true) :
    ((∀ l ∈ x.imgs, none ∉ l) → exec (.collectiveCommand c.id) s = .next (s.modCmd c.id fun c => { c with st := .running })) ∧
      ∃ t, exec (.collectiveCommand c.id) s = .next t ∧ t.cmd? c.id = some { c with st := .running } ∧ s.SameMemory t := by
  rw [exec_collectiveCommand_eq hx hc, State.startAndFetch_first hc hst hlive hfirst]
  refine ⟨fun hknown => by rw [State.fetchSources_coll_of_known hx _ hknown], _, rfl, ?_⟩
  obtain ⟨ops, hask, -⟩ := State.asksLoads_fetchSources_coll hx (s.modCmd c.id fun c => { c with st := .running })
  exact ⟨(State.cmd?_congr hask.cmds _).trans (State.cmd?_modCmd_self hc _), State.sameMemory_of_memories hask.memories⟩
end

/-! #### What sending leaves alone -/

/-- What no message to another package touches: the ranks, the engine commands, the trees. -/
def State.collState (s : State) : List Rank × List Cmd × List TreeSt := (s.ranks, s.cmds, s.trees)

theorem State.sendFrame_collState (s : State) (kind : Nat) (h : FrameHdr) (body : FrameBody) (op : Option (Nat × Nat)) :
    (s.sendFrame kind h body op).collState = s.collState := by
  unfold State.sendFrame
  dsimp only
  repeat' split
  all_goals rfl

theorem State.chunkFurrow_collState (s : State) (vr : Nat) (c : Chunk) (offset pkg : Nat) (op : Option (Nat × Nat)) :
    (s.chunkFurrow vr c offset pkg op).collState = s.collState := by
  unfold State.chunkFurrow
  split <;> rfl

theorem State.sendBlockNear_collState (s : State) (b : GBlock) (pkgs : List Nat) : (s.sendBlockNear b pkgs).collState = s.collState := by
  unfold State.sendBlockNear
  dsimp only
  repeat' split
  all_goals rfl

theorem State.sendBlock_collState (s : State) (b : GBlock) (dests : List (Nat × Nat)) : (s.sendBlock b dests).collState = s.collState := by
  have hfar : ∀ (s : State) (d : Nat × Nat), (s.sendBlockFar b d).collState = s.collState := fun s d =>
    foldl_keeps State.collState (fun _ _ => State.sendFrame_collState _ _ _ _ _) _ s
  exact (foldl_keeps State.collState hfar _ _).trans (State.sendBlockNear_collState _ _ _)

theorem State.buildBlocks_collState (s : State) (job shard step pos : Nat) (vals : List (BitVec 32)) :
    (s.buildBlocks job shard step pos vals).collState = s.collState := by
  unfold State.buildBlocks
  split
  · rfl
  · exact foldl_keeps State.collState (fun s b => s.sendBlock_collState b _) _ _

/-! #### Chunks (10 R277, R284) -/

section
variable {s : State} {vr : Nat} {c : Chunk}

/-- A rank that no command names has no op that has taken a chunk. -/
theorem State.chunkTaken_of_noCmds (h : vr ∉ s.cmds.map fun y => y.by'.vr) : s.chunkTaken vr c = false := by
  have hop : s.chunkOp vr c true = false := by
    rw [State.chunkOp, List.any_eq_false]
    intro y hy
    have hne : y.by'.vr ≠ vr := fun heq => h (heq ▸ List.mem_map_of_mem hy)
    simp [hne]
  rw [State.chunkTaken, hop, Bool.false_and]

theorem State.vr_notMem_of_forall_ne (h : ∀ y ∈ s.cmds, y.by'.vr ≠ vr) : vr ∉ s.cmds.map fun y => y.by'.vr := by
  intro hmem
  obtain ⟨y, hy, heq⟩ := List.mem_map.mp hmem
  exact h y hy heq

theorem State.any_vr_of_rank? {r : Rank} (hr : s.rank? vr = some r) : (s.ranks.any fun r => r.vr == vr) = true := by
  rw [List.any_eq_true]
  exact ⟨r, List.mem_of_find?_eq_some hr, beq_iff_eq.mpr (State.vr_of_rank? hr)⟩

theorem State.any_vr_of_none (hr : s.rank? vr = none) : (s.ranks.any fun r => r.vr == vr) = false := by
  rw [List.any_eq_false]
  exact List.find?_eq_none.mp hr

/-- A rank with one more chunk in its landing area. -/
def Rank.landed (c : Chunk) (r : Rank) : Rank := { r with landing := r.landing ++ [c] }

theorem State.deposit_lands {r : Rank} (hr : s.rank? vr = some r) (hplace : r.place ≠ .transit) (htaken : s.chunkTaken vr c = false) :
    s.deposit vr c 0 = s.modRank vr (Rank.landed c) := by
  rw [State.deposit, hr]
  simp only [if_neg hplace, htaken]
  rfl

/-- A chunk for a rank in transit, or for an op that has one already, is dropped and counted (10 R277, 15 R377). -/
theorem State.deposit_drops {r : Rank} (hr : s.rank? vr = some r) (h : r.place = .transit ∨ s.chunkTaken vr c = true) :
    ∃ o, s.deposit vr c 0 = { s with dropped := s.dropped + 1, out := o } := by
  rw [State.deposit, hr]
  dsimp only
  split
  · exact ⟨s.out, rfl⟩
  · next hne => exact ⟨_, if_pos (h.resolve_left hne)⟩

theorem State.rank?_landed {r : Rank} (hr : s.rank? vr = some r) : (s.modRank vr (Rank.landed c)).rank? vr = some (r.landed c) :=
  State.rank?_modRank_self hr _

theorem State.rank?_deposit_ne {v : Nat} (h : v ≠ vr) (c : Chunk) (offset : Nat) : (s.deposit vr c offset).rank? v = s.rank? v := by
  have hvr : ∀ r : Rank, (r.landPiece c offset).vr = r.vr := fun r => by
    unfold Rank.landPiece
    dsimp only
    split <;> rfl
  unfold State.deposit
  repeat' split
  · rfl
  · rfl
  · rfl
  · rw [State.rank?_modRank _ _ _ _ hvr]
    simp [h]

theorem State.deposit_cmds (s : State) (vr : Nat) (c : Chunk) (offset : Nat) : (s.deposit vr c offset).cmds = s.cmds := by
  unfold State.deposit
  repeat' split
  all_goals rfl

theorem State.deposit_trees (s : State) (vr : Nat) (c : Chunk) (offset : Nat) : (s.deposit vr c offset).trees = s.trees := by
  unfold State.deposit
  repeat' split
  all_goals rfl

theorem State.sendChunk_here {r : Rank} (hr : s.rank? vr = some r) (c : Chunk) (op : Option (Nat × Nat)) :
    s.sendChunk vr c op = (true, s.deposit vr c 0) := by
  rw [State.sendChunk, State.any_vr_of_rank? hr]
  rfl

/-- A chunk for a rank that is not held here waits for the next holder to accept it; here nothing changes but what is sent (10 R278). -/
theorem State.sendChunk_away (hr : s.rank? vr = none) (c : Chunk) (op : Option (Nat × Nat)) :
    (s.sendChunk vr c op).1 = false ∧ (s.sendChunk vr c op).2.collState = s.collState := by
  rw [State.sendChunk, State.any_vr_of_none hr]
  dsimp only
  rw [if_neg Bool.false_ne_true]
  split
  · exact ⟨rfl, rfl⟩
  · split
    · exact ⟨rfl, State.chunkFurrow_collState _ _ _ _ _ _⟩
    · exact ⟨rfl, foldl_keeps State.collState (fun _ _ => State.sendFrame_collState _ _ _ _ _) _ s⟩

/-- A chunk for a rank held here joins its landing area, or is dropped and counted (10 R277, 15 R377). -/
theorem State.sendChunk_here_spec {r : Rank} (hr : s.rank? vr = some r) (c : Chunk) (op : Option (Nat × Nat)) :
    ∃ q, (s.sendChunk vr c op).2.rank? vr = some q ∧
      (r.place ≠ .transit → s.chunkTaken vr c = false → q.landing = r.landing ++ [c]) ∧
      (r.place = .transit ∨ s.chunkTaken vr c = true → q.landing = r.landing ∧ (s.sendChunk vr c op).2.dropped = s.dropped + 1) := by
  rw [State.sendChunk_here hr]
  by_cases hdrop : r.place = .transit ∨ s.chunkTaken vr c = true
  · obtain ⟨o, ho⟩ := State.deposit_drops hr hdrop
    dsimp only
    rw [ho]
    exact ⟨r, hr, fun hplace hno => (hdrop.elim hplace fun h => nomatch h.symm.trans hno).elim, fun _ => ⟨rfl, rfl⟩⟩
  · obtain ⟨hplace, htaken⟩ := not_or.mp hdrop
    dsimp only
    rw [State.deposit_lands hr hplace (Bool.not_eq_true _ ▸ htaken)]
    exact ⟨r.landed c, State.rank?_landed hr, fun _ _ => rfl, fun h => absurd h hdrop⟩

theorem State.sendChunk_cmds (s : State) (vr : Nat) (c : Chunk) (op : Option (Nat × Nat)) : (s.sendChunk vr c op).2.cmds = s.cmds := by
  cases hr : s.rank? vr with
  | none => exact congrArg (·.2.1) (State.sendChunk_away hr c op).2
  | some r =>
    rw [State.sendChunk_here hr]
    exact s.deposit_cmds vr c 0

theorem State.sendChunk_trees (s : State) (vr : Nat) (c : Chunk) (op : Option (Nat × Nat)) : (s.sendChunk vr c op).2.trees = s.trees := by
  cases hr : s.rank? vr with
  | none => exact congrArg (·.2.2) (State.sendChunk_away hr c op).2
  | some r =>
    rw [State.sendChunk_here hr]
    exact s.deposit_trees vr c 0

theorem State.rank?_sendChunk_ne {v : Nat} (h : v ≠ vr) (c : Chunk) (op : Option (Nat × Nat)) :
    (s.sendChunk vr c op).2.rank? v = s.rank? v := by
  cases hr : s.rank? vr with
  | none =>
    have hranks : (s.sendChunk vr c op).2.ranks = s.ranks := congrArg (·.1) (State.sendChunk_away hr c op).2
    rw [State.rank?, hranks]
    rfl
  | some r =>
    rw [State.sendChunk_here hr]
    exact State.rank?_deposit_ne h c 0
end

/-- A chunk sent to several ranks lands once at each of them that is held here (10 R275). -/
theorem State.rank?_sendChunks {c : Chunk} {v : Nat} {r : Rank} {l : List Nat} (hl : l.Nodup) (hv : v ∈ l) {s : State}
    (hr : s.rank? v = some r) (hplace : r.place ≠ .transit) (hcmds : v ∉ s.cmds.map fun y => y.by'.vr) :
    (l.foldl (fun (s : State) w => (s.sendChunk w c none).2) s).rank? v = some (r.landed c) := by
  induction l generalizing s with
  | nil => cases hv
  | cons w t ih =>
    obtain ⟨hw, ht⟩ := List.nodup_cons.mp hl
    rw [List.foldl_cons]
    by_cases heq : v = w
    · subst heq
      rw [State.sendChunk_here hr, State.deposit_lands hr hplace (State.chunkTaken_of_noCmds hcmds),
        List.foldl_ext _ (fun (s : State) w => if w = v then s else (s.sendChunk w c none).2) _ fun s w hwt =>
          (if_neg fun h : w = v => hw (h ▸ hwt)).symm]
      refine (foldl_keeps (fun s : State => s.rank? v) (fun s w => ?_) t _).trans (State.rank?_landed hr)
      split
      · rfl
      · next hne => exact State.rank?_sendChunk_ne (Ne.symm hne) c none
    · refine ih ht ((List.mem_cons.mp hv).resolve_left heq) ((State.rank?_sendChunk_ne heq c none).trans hr) ?_
      rwa [State.sendChunk_cmds]

/-! #### What a sending op reads (05 R132; 10 R277, R278) -/

/-- The bytes that op `i` of a command reads of a buffer from an offset on: those that neither race nor have changed since the
submission are the bytes that the buffer holds for it. -/
def State.ReadsRun (s : State) (r : SRef) (x : Coll) (i b off : Nat) (bs : List Byte) : Prop :=
  ∀ k v, k < bs.length → x.racedRead r.core i (x.loc r.core b (off + k)) = false → s.changed r x b (off + k) = false →
    x.byte? r.core b (off + k) = some v → bs[k]? = some v

/-- The state with the counter of free values at `n`. -/
def State.freeAt (s : State) (n : Nat) : State := { s with free := n }

theorem State.collRead_spec (s : State) (x : Coll) (r : SRef) (i b off n : Nat) :
    (s.collRead x r i b off n).1.length = n ∧ s.ReadsRun r x i b off (s.collRead x r i b off n).1 ∧
      ∃ k, (s.collRead x r i b off n).2 = s.freeAt k := by
  have hlen : (s.collRead x r i b off n).1.length = n := (s.length_fill _).trans (by simp)
  refine ⟨hlen, fun k v hk hraced hchanged hbyte => s.getElem?_fill ?_, _, rfl⟩
  rw [hlen] at hk
  simp [hk, hraced, hchanged, hbyte]

theorem State.sendLen_spec (s : State) (x : Coll) (r : SRef) (i : Nat) : (s.sendLen x r i).1 ≤ opLen (x.op i) ∧
    (opVlen (x.op i) = false → (s.sendLen x r i).1 = opLen (x.op i)) ∧ ∃ n, (s.sendLen x r i).2 = s.freeAt n := by
  unfold State.sendLen
  dsimp only
  split
  · next hvlen => exact ⟨Nat.min_le_left _ _, fun h => (nomatch hvlen.symm.trans h), (s.collRead_spec x r i 3 _ 4).2.2⟩
  · exact ⟨Nat.le_refl _, fun _ => rfl, s.free, rfl⟩

/-- The elements that a sending op sends: `m` of them, at most LEN, without VLEN all, and their bytes. -/
structure State.OpSends (s : State) (c : Cmd) (x : Coll) (i m : Nat) (bs : List Byte) : Prop where
  length : bs.length = m * x.esz i
  le : m ≤ opLen (x.op i)
  all : opVlen (x.op i) = false → m = opLen (x.op i)
  reads : s.ReadsRun c.by' x i (opSbuf (x.op i)) (opSoff (x.op i) * x.esz i) bs

/-- What an op reads does not depend on the state of the commands. -/
theorem State.OpSends.of_modCmd {s : State} {c : Cmd} {x : Coll} {i m id : Nat} {bs : List Byte} {f : Cmd → Cmd}
    (h : (s.modCmd id f).OpSends c x i m bs) : s.OpSends c x i m bs := ⟨h.length, h.le, h.all, h.reads⟩

/-- What a sending op reads: the number of its elements and their bytes. -/
def State.sendRead (s : State) (c : Cmd) (x : Coll) (i : Nat) : Nat × List Byte × State :=
  let p := s.sendLen x c.by' i
  (p.1, p.2.collRead x c.by' i (opSbuf (x.op i)) (opSoff (x.op i) * x.esz i) (p.1 * x.esz i))

theorem State.sendRead_spec (s : State) (c : Cmd) (x : Coll) (i : Nat) :
    s.OpSends c x i (s.sendRead c x i).1 (s.sendRead c x i).2.1 ∧ ∃ n, (s.sendRead c x i).2.2 = s.freeAt n := by
  obtain ⟨hle, hall, n, hlen⟩ := s.sendLen_spec x c.by' i
  unfold State.sendRead
  dsimp only
  rw [hlen]
  obtain ⟨hbytes, hreads, k, hread⟩ := (s.freeAt n).collRead_spec x c.by' i (opSbuf (x.op i)) (opSoff (x.op i) * x.esz i)
    ((s.sendLen x c.by' i).1 * x.esz i)
  exact ⟨⟨hbytes, hle, hall, hreads⟩, k, hread⟩

/-! #### An op starts (10 R277, R278) -/

/-- A command whose op runs. -/
def Coll.starts (x : Coll) (i : Nat) : Coll := x.modOp i fun q => { q with running := true }

/-- The chunk that op `i` of a command of a VR sends. -/
def Coll.chunk (x : Coll) (vr i : Nat) (bs : List Byte) : Chunk :=
  { slot := x.slot, replay := x.replay, endpoint := opEndpt (x.op i), src := vr, tag := opTag (x.op i), bytes := bs, whole := true }

/-- The descriptor of the tree of a REDUCE. -/
def Coll.treeDesc (x : Coll) (i : Nat) : BitVec 128 := x.graph.trees[opTree (x.op i)]?.getD 0

/-- The tree to which a REDUCE of `m` elements belongs. -/
def Coll.leafKey (x : Coll) (job i m : Nat) : TreeKey :=
  { job := job, slot := x.slot, tree := opTree (x.op i), lo := treeLo (x.treeDesc i), hi := treeHi (x.treeDesc i), replay := x.replay,
    pos := opSoff (x.op i), len := m }

/-- The leaf that a REDUCE of a VR gives its tree. -/
def Coll.leaf (x : Coll) (vr job i m : Nat) (bs : List Byte) : NodeVal :=
  { key := x.leafKey job i m, level := 0, k := vr - treeLo (x.treeDesc i), opf := x.opf,
    recw := if opfOp x.opf = 3 then x.graph.recw else 0, desc := x.treeDesc i, tag := opTag (x.op i), step := x.step, differs := false,
    bytes := bs }

/-- A value has been handed on: where the next holder has accepted it at once, the op is sent (10 R278). -/
def State.handed (p : Bool × State) (op : Nat × Nat) : State := if p.1 then p.2.markSent (some op) else p.2

/-- Which kinds of op send. -/
theorem sends_eq (k : Nat) : (k == 0 || k == 2 || k == 5) = decide (k = 0 ∨ k = 2 ∨ k = 5) := by
  simp [Bool.or_assoc, Bool.decide_or, beq_eq_decide]

section
variable {s : State} {c : Cmd} {x : Coll} {i : Nat}

/-- The state in which a started op hands on what it has read: the op runs, some free values are used up. -/
def State.startedOp (s : State) (c : Cmd) (x : Coll) (i n : Nat) : State :=
  (s.modCmd c.id fun c => { c with body := (x.starts i).body }).freeAt n

theorem State.startOp_local (h : opKind (x.op i) ∈ [1, 3, 4]) :
    s.startOp c x i = s.modCmd c.id fun c => { c with body := (x.starts i).body } := by
  have hno : ¬ (opKind (x.op i) = 0 ∨ opKind (x.op i) = 2 ∨ opKind (x.op i) = 5) := by
    simp only [List.mem_cons, List.not_mem_nil, or_false] at h
    omega
  unfold State.startOp
  dsimp only
  rw [sends_eq, decide_eq_false hno]
  rfl

theorem State.startOp_chunk (h : opKind (x.op i) = 0 ∨ opKind (x.op i) = 5) : ∃ m bs n, s.OpSends c x i m bs ∧ s.startOp c x i =
    State.handed ((s.startedOp c x i n).sendChunk (opPeer (x.op i)) (x.chunk c.by'.vr i bs) (some (c.id, i))) (c.id, i) := by
  have hne : opKind (x.op i) ≠ 2 := by omega
  obtain ⟨hsends, n, hread⟩ := (s.modCmd c.id fun c => { c with body := (x.starts i).body }).sendRead_spec c x i
  refine ⟨_, _, n, hsends.of_modCmd, ?_⟩
  rw [State.startedOp, ← hread]
  unfold State.startOp
  dsimp only
  rw [sends_eq, decide_eq_true (by omega), if_neg hne]
  rfl

theorem State.startOp_leaf (h : opKind (x.op i) = 2) : ∃ job m bs n, (∀ r, s.rank? c.by'.vr = some r → job = r.job) ∧
    s.OpSends c x i m bs ∧ s.startOp c x i =
      State.handed ((s.startedOp c x i n).putNode (x.leaf c.by'.vr job i m bs) (some (c.id, i))) (c.id, i) := by
  obtain ⟨hsends, n, hread⟩ := (s.modCmd c.id fun c => { c with body := (x.starts i).body }).sendRead_spec c x i
  refine ⟨((s.rank? c.by'.vr).map Rank.job).getD 0, _, _, n, fun r hr => by rw [hr]; rfl, hsends.of_modCmd, ?_⟩
  have hrank : (s.startedOp c x i n).rank? c.by'.vr = s.rank? c.by'.vr := rfl
  rw [State.startedOp, ← hread] at hrank ⊢
  unfold State.startOp
  dsimp only
  rw [sends_eq, decide_eq_true (by omega), if_pos h]
  unfold State.sendRead at hrank
  dsimp only [Coll.starts] at hrank
  rw [hrank]
  cases s.rank? c.by'.vr <;> rfl

/-! #### An op is sent (10 R278) -/

/-- A command with the send of an op accepted. -/
def Cmd.opSent (i : Nat) (c : Cmd) : Cmd := match c.body.coll? with
  | some x => { c with body := (x.modOp i fun q => { q with sent := true }).body }
  | none => c

theorem Cmd.opSent_id (i : Nat) (c : Cmd) : (c.opSent i).id = c.id := by
  unfold Cmd.opSent
  split <;> rfl

theorem Cmd.opSent_by (i : Nat) (c : Cmd) : (c.opSent i).by' = c.by' := by
  unfold Cmd.opSent
  split <;> rfl

theorem State.markSent_some (s : State) (id i : Nat) : s.markSent (some (id, i)) = s.modCmd id (Cmd.opSent i) := by
  have hcmds : (s.markSent (some (id, i))).cmds = (s.modCmd id (Cmd.opSent i)).cmds := by
    refine List.map_congr_left fun c _ => ?_
    unfold Cmd.opSent
    cases c.body <;> rfl
  exact congrArg (fun l => { s with cmds := l }) hcmds

theorem State.markSent_eq (s : State) (op : Option (Nat × Nat)) : ∃ l, s.markSent op = { s with cmds := l } := by
  cases op <;> exact ⟨_, rfl⟩

theorem State.handed_eq (p : Bool × State) (op : Nat × Nat) : ∃ l, State.handed p op = { p.2 with cmds := l } := by
  unfold State.handed
  split <;> exact ⟨_, rfl⟩

/-- A command whose op has handed its value on: the op runs, and is sent where the value was accepted. -/
theorem State.cmd?_handed (hc : s.cmd? c.id = some c) (hi : i < x.ops.length) {p : Bool × State}
    {n : Nat} (hcmds : p.2.cmds = (s.startedOp c x i n).cmds) : ∃ c' y, (State.handed p (c.id, i)).cmd? c.id = some c' ∧
      c'.body.coll? = some y ∧ (y.st i).running = true ∧ (y.st i).sent = (p.1 || (x.st i).sent) := by
  have hcmd : p.2.cmd? c.id = some { c with body := (x.starts i).body } := (State.cmd?_congr hcmds _).trans (State.cmd?_modCmd_self hc _)
  have hst : (x.starts i).st i = { x.st i with running := true } := (x.st_modOp i _ hi).trans (if_pos rfl)
  have hi' : i < (x.starts i).ops.length := by rwa [Coll.starts, Coll.length_ops_modOp]
  unfold State.handed
  split
  · next haccepted =>
    have hsent := (x.starts i).st_modOp i (fun q => { q with sent := true }) hi'
    rw [if_pos rfl, hst] at hsent
    rw [State.markSent_some, State.cmd?_modCmd _ _ _ _ (Cmd.opSent_id i), hcmd, Option.map_some, if_pos rfl]
    exact ⟨_, _, rfl, Coll.coll?_body _, by rw [hsent], by rw [hsent, haccepted]; rfl⟩
  · next hrefused =>
    rw [Bool.not_eq_true] at hrefused
    exact ⟨_, _, hcmd, Coll.coll?_body _, by rw [hst], by rw [hst, hrefused]; rfl⟩

/-! #### A started op and the chunks that ops have taken -/

theorem any_zip_modify {α β : Type} (l : List α) (m : List β) (i : Nat) {f : β → β} {p : α × β → Bool} (h : ∀ a b, p (a, f b) = p (a, b)) :
    (l.zip (m.modify i f)).any p = (l.zip m).any p := by
  induction m generalizing l i with
  | nil => simp
  | cons b t ih =>
    cases l with
    | nil => rfl
    | cons a l =>
      cases i with
      | zero => simp [h]
      | succ i => simp [ih]

/-- That an op starts does not say that it has received a chunk. -/
theorem State.chunkOp_starts (hx : c.body.coll? = some x) (huniq : ∀ y ∈ s.cmds, y.id = c.id → y = c) (vr : Nat) (ch : Chunk) (b : Bool) :
    (s.modCmd c.id fun c => { c with body := (x.starts i).body }).chunkOp vr ch b = s.chunkOp vr ch b := by
  rw [State.chunkOp, State.chunkOp, State.modCmd, List.any_map, Bool.eq_iff_iff, List.any_eq_true, List.any_eq_true]
  refine exists_congr fun y => and_congr_right fun hy => ?_
  rw [Function.comp_apply]
  split
  · next hid =>
    obtain rfl := huniq y hy hid
    rw [CmdBody.eq_body hx]
    have hany := any_zip_modify x.graph.ops x.ops i (f := fun q => { q with running := true })
      (p := fun p => opTakes p.1 x.replay ch && p.2.received == b) fun _ _ => rfl
    exact iff_of_eq (congrArg (fun a => (y.by'.vr == vr && a) = true) hany)
  · exact Iff.rfl

theorem State.chunkTaken_startedOp (hx : c.body.coll? = some x) (huniq : ∀ y ∈ s.cmds, y.id = c.id → y = c) (n vr : Nat) (ch : Chunk) :
    (s.startedOp c x i n).chunkTaken vr ch = s.chunkTaken vr ch :=
  congrArg₂ (fun a b => a && !b) (State.chunkOp_starts hx huniq vr ch true) (State.chunkOp_starts hx huniq vr ch false)

/-! #### Values of trees (10 R280, R282) -/

theorem State.putNode_here {v : NodeVal} (h : s.holder? v.key v.level v.k = none) (op : Option (Nat × Nat)) :
    s.putNode v op = (true, s.landNode v) := by
  rw [State.putNode, h]

theorem State.putNode_away {v : NodeVal} {h : NodeHold} (hh : s.holder? v.key v.level v.k = some h) (op : Option (Nat × Nat)) :
    ∃ o t, s.putNode v op = (false, t) ∧ t.collState = s.collState ∧ t.fabric.outs = s.fabric.outs ++ [o] ∧ o.fid = h.fid ∧
      o.awaiting = [h.pkg] ∧ o.op = op := by
  rw [State.putNode, hh]
  exact ⟨_, _, rfl, rfl, rfl, rfl, rfl, rfl⟩

theorem State.landNode_cmds (s : State) (v : NodeVal) : (s.landNode v).cmds = s.cmds := by
  unfold State.landNode
  split <;> rfl

theorem State.landNode_ranks (s : State) (v : NodeVal) : (s.landNode v).ranks = s.ranks := by
  unfold State.landNode
  split <;> rfl

/-- A value that reaches a node buffer of this package stands in the tree of its key. -/
theorem State.landNode_holds (s : State) (v : NodeVal) :
    ∃ tr ∈ (s.landNode v).trees, tr.key = v.key ∧ (v.level, v.k, v.bytes) ∈ tr.nodes := by
  unfold State.landNode
  split
  · next hany =>
    obtain ⟨tr, htr, hkey⟩ := List.any_eq_true.mp hany
    rw [beq_iff_eq] at hkey
    exact ⟨tr.put v, List.mem_map.mpr ⟨tr, htr, if_pos hkey⟩, hkey, by simp [TreeSt.put]⟩
  · exact ⟨_, List.mem_append_right _ (List.mem_singleton_self _), rfl, List.mem_singleton_self _⟩

/-! #### COLL_OP_START (10 R277, R278) -/

variable (hc : s.cmd? c.id = some c) (hx : c.body.coll? = some x)
include hc hx

theorem exec_collOpStart_eq (i : Nat) : exec (.collOpStart c.id i) s = .next (if c.st = .running ∧ s.cmdLive c ∧ x.startable i ∧
    x.fetched (x.readRanges i) then s.startOp c x i else s) := by
  simp only [exec_collOpStart, execCollOpStart, hc, hx]

theorem exec_collOpStart_idle (h : c.st ≠ .running ∨ s.cmdLive c = false ∨ x.startable i = false ∨ x.fetched (x.readRanges i) = false) :
    exec (.collOpStart c.id i) s = .next s := by
  rw [exec_collOpStart_eq hc hx, if_neg fun ⟨hst, hlive, hstart, hfetch⟩ => by simp [hst, hlive, hstart, hfetch] at h]

variable (hst : c.st = .running) (hlive : s.cmdLive c = true) (hstart : x.startable i = true) (hfetch : x.fetched (x.readRanges i) = true)
include hst hlive hstart hfetch

theorem exec_collOpStart_ready : exec (.collOpStart c.id i) s = .next (s.startOp c x i) := by
  rw [exec_collOpStart_eq hc hx, if_pos ⟨hst, hlive, hstart, hfetch⟩]

/-- A SEND or PERMUTE lands at a rank that is held here, or waits to be accepted elsewhere (10 R277, R278). -/
theorem exec_collOpStart_chunk (huniq : ∀ y ∈ s.cmds, y.id = c.id → y = c) (h : opKind (x.op i) = 0 ∨ opKind (x.op i) = 5) :
    ∃ t c' y bs m, exec (.collOpStart c.id i) s = .next t ∧ t.cmd? c.id = some c' ∧ c'.body.coll? = some y ∧ (y.st i).running = true ∧
      s.OpSends c x i m bs ∧
      (∀ r, s.rank? (opPeer (x.op i)) = some r → (y.st i).sent = true ∧ ∃ q, t.rank? (opPeer (x.op i)) = some q ∧
        (r.place ≠ .transit → s.chunkTaken (opPeer (x.op i)) (x.chunk c.by'.vr i bs) = false →
          q.landing = r.landing ++ [x.chunk c.by'.vr i bs]) ∧
        (r.place = .transit ∨ s.chunkTaken (opPeer (x.op i)) (x.chunk c.by'.vr i bs) = true →
          q.landing = r.landing ∧ t.dropped = s.dropped + 1)) ∧
      (s.rank? (opPeer (x.op i)) = none → (y.st i).sent = (x.st i).sent ∧ t.ranks = s.ranks) := by
  obtain ⟨m, bs, n, hsends, hop⟩ := State.startOp_chunk (s := s) (c := c) h
  obtain ⟨c', y, hcmd, hy, hrun, hsent⟩ := State.cmd?_handed hc (Coll.lt_of_startable hstart)
    ((s.startedOp c x i n).sendChunk_cmds (opPeer (x.op i)) (x.chunk c.by'.vr i bs) (some (c.id, i)))
  obtain ⟨l, hl⟩ := State.handed_eq ((s.startedOp c x i n).sendChunk (opPeer (x.op i)) (x.chunk c.by'.vr i bs) (some (c.id, i))) (c.id, i)
  rw [← hop] at hcmd hl
  refine ⟨_, c', y, bs, m, exec_collOpStart_ready hc hx hst hlive hstart hfetch, hcmd, hy, hrun, hsends, fun r hr => ?_, fun hr => ?_⟩
  · have hspec := State.sendChunk_here_spec (s := s.startedOp c x i n) hr (x.chunk c.by'.vr i bs) (some (c.id, i))
    rw [State.chunkTaken_startedOp hx huniq] at hspec
    rw [hl]
    exact ⟨hsent.trans (by rw [State.sendChunk_here (s := s.startedOp c x i n) hr]; rfl), hspec⟩
  · obtain ⟨hwaits, hsame⟩ := State.sendChunk_away (s := s.startedOp c x i n) hr (x.chunk c.by'.vr i bs) (some (c.id, i))
    rw [hl]
    exact ⟨hsent.trans (by rw [hwaits, Bool.false_or]), congrArg (·.1) hsame⟩

/-- A REDUCE gives its leaf to the node that consumes it, here or over a furrow (10 R278, R282). -/
theorem exec_collOpStart_leaf (h : opKind (x.op i) = 2) : ∃ t c' y bs m, exec (.collOpStart c.id i) s = .next t ∧
    t.cmd? c.id = some c' ∧ c'.body.coll? = some y ∧ (y.st i).running = true ∧ s.OpSends c x i m bs ∧
    ∀ r, s.rank? c.by'.vr = some r →
      (s.holder? (x.leafKey r.job i m) 0 (c.by'.vr - treeLo (x.treeDesc i)) = none → (y.st i).sent = true ∧
        ∃ tr ∈ t.trees, tr.key = x.leafKey r.job i m ∧ (0, c.by'.vr - treeLo (x.treeDesc i), bs) ∈ tr.nodes) ∧
      ∀ h, s.holder? (x.leafKey r.job i m) 0 (c.by'.vr - treeLo (x.treeDesc i)) = some h → (y.st i).sent = (x.st i).sent ∧
        ∃ o, t.fabric.outs = s.fabric.outs ++ [o] ∧ o.fid = h.fid ∧ o.awaiting = [h.pkg] ∧ o.op = some (c.id, i) := by
  obtain ⟨job, m, bs, n, hjob, hsends, hop⟩ := State.startOp_leaf (s := s) (c := c) h
  have hstep := exec_collOpStart_ready hc hx hst hlive hstart hfetch
  cases hholder : s.holder? (x.leafKey job i m) 0 (c.by'.vr - treeLo (x.treeDesc i)) with
  | none =>
    rw [State.putNode_here (s := s.startedOp c x i n) (v := x.leaf c.by'.vr job i m bs) hholder] at hop
    obtain ⟨c', y, hcmd, hy, hrun, hsent⟩ := State.cmd?_handed hc (Coll.lt_of_startable hstart)
      (p := (true, (s.startedOp c x i n).landNode (x.leaf c.by'.vr job i m bs))) ((s.startedOp c x i n).landNode_cmds _)
    obtain ⟨l, hl⟩ := State.handed_eq (true, (s.startedOp c x i n).landNode (x.leaf c.by'.vr job i m bs)) (c.id, i)
    rw [← hop] at hcmd hl
    refine ⟨_, c', y, bs, m, hstep, hcmd, hy, hrun, hsends, fun r hr => ?_⟩
    obtain rfl := hjob r hr
    refine ⟨fun _ => ⟨hsent, ?_⟩, fun h hh => nomatch hholder.symm.trans hh⟩
    rw [hl]
    exact (s.startedOp c x i n).landNode_holds (x.leaf c.by'.vr r.job i m bs)
  | some h =>
    obtain ⟨o, t, hput, hsame, houts, hfid, hawait, ho⟩ := State.putNode_away (s := s.startedOp c x i n)
      (v := x.leaf c.by'.vr job i m bs) hholder (some (c.id, i))
    obtain ⟨c', y, hcmd, hy, hrun, hsent⟩ := State.cmd?_handed hc (Coll.lt_of_startable hstart) (p := (false, t)) (n := n)
      (congrArg (·.2.1) hsame)
    rw [hput] at hop
    rw [hop] at hstep
    refine ⟨_, c', y, bs, m, hstep, hcmd, hy, hrun, hsends, fun r hr => ?_⟩
    obtain rfl := hjob r hr
    refine ⟨fun hnone => (nomatch hholder.symm.trans hnone), fun h' hh' => ?_⟩
    obtain rfl := Option.some.inj (hholder.symm.trans hh')
    exact ⟨hsent, o, houts, hfid, hawait, ho⟩

end

/-! #### The end of a command (05 R131; 10 R270, R271) -/

theorem peerRuns_of_no_peer {l : List EByte} (h : ∀ e ∈ l, ∀ p a, e.dst ≠ .peer p a) : peerRuns l = [] := by
  induction l with
  | nil => rfl
  | cons e t ih =>
    have ht := ih fun e he => h e (List.mem_cons_of_mem _ he)
    have he := h e List.mem_cons_self
    unfold peerRuns
    split
    · next p a hdst => exact absurd hdst (he p a)
    · exact ht

/-- Bytes that the strand has written meanwhile are open, but go where they went (05 R131). -/
theorem State.dst_openSpoiled (s : State) (c : Cmd) {ws : List EByte} {e : EByte} (he : e ∈ (s.openSpoiled c ws).1) :
    ∃ w ∈ ws, w.dst = e.dst := by
  unfold State.openSpoiled at he
  split at he
  · exact ⟨e, he, rfl⟩
  · obtain ⟨p, hp, rfl⟩ := List.mem_map.mp he
    refine ⟨p.1, (List.mem_zipIdx' hp).2 ▸ List.getElem_mem _, ?_⟩
    split <;> rfl

theorem State.openSpoiled_locks (s : State) (c : Cmd) (ws : List EByte) : (s.openSpoiled c ws).2.locks = s.locks := by
  unfold State.openSpoiled
  split <;> rfl

theorem State.putOwnWrites_locks (s : State) (c : Cmd) (ws : List EByte) : (s.putOwnWrites c ws).locks = s.locks := by
  unfold State.putOwnWrites
  split <;> rfl

/-- A command that retires releases its pins (10 R271). -/
theorem State.locks_retireCmd (s : State) (c : Cmd) (ws : List EByte) : (s.retireCmd c ws).locks = c.pins.foldl releasePin s.locks := by
  unfold State.retireCmd
  dsimp only
  split
  · exact congrArg (c.pins.foldl releasePin) (State.putOwnWrites_locks _ c ws)
  · exact congrArg (c.pins.foldl releasePin) (State.putOwnWrites_locks _ c ws)

/-- A command with no writes at other packages retires at once. -/
theorem State.endCmd_of_no_peer (s : State) (c : Cmd) {ws : List EByte} (h : ∀ e ∈ ws, ∀ p a, e.dst ≠ .peer p a) :
    (s.endCmd c ws).cmd? c.id = none ∧ (s.endCmd c ws).locks = c.pins.foldl releasePin s.locks := by
  have haway : peerRuns (s.openSpoiled c ws).1 = [] := peerRuns_of_no_peer fun e he p a => by
    obtain ⟨w, hw, hdst⟩ := s.dst_openSpoiled c he
    rw [← hdst]
    exact h w hw p a
  unfold State.endCmd
  dsimp only
  rw [haway]
  exact ⟨State.cmd?_retireCmd _ c _, (State.locks_retireCmd _ c _).trans (congrArg (c.pins.foldl releasePin) (s.openSpoiled_locks c ws))⟩

theorem mem_insertBy {α : Type} {lt : α → α → Bool} {x y : α} {l : List α} (h : y ∈ insertBy lt x l) : y = x ∨ y ∈ l := by
  induction l with
  | nil => exact .inl (List.mem_singleton.mp h)
  | cons z t ih =>
    unfold insertBy at h
    split at h
    · exact List.mem_cons.mp h
    · obtain rfl | h := List.mem_cons.mp h
      · exact .inr List.mem_cons_self
      · exact (ih h).imp_right (List.mem_cons_of_mem _)

theorem mem_of_mem_sortBy {α : Type} {lt : α → α → Bool} {y : α} {l : List α} (h : y ∈ sortBy lt l) : y ∈ l := by
  have hfold : ∀ (l m : List α), y ∈ l.foldl (fun r x => insertBy lt x r) m → y ∈ m ∨ y ∈ l := fun l => by
    induction l with
    | nil => exact fun m h => .inl h
    | cons x t ih =>
      intro m h
      obtain h | h := ih _ h
      · exact (mem_insertBy h).elim (fun heq => .inr (heq ▸ List.mem_cons_self)) .inl
      · exact .inr (List.mem_cons_of_mem _ h)
  exact (hfold l [] h).resolve_left List.not_mem_nil

/-! #### The ops of a command that goes on -/

/-- An op of a command has gone on: it has written some bytes into the buffers, and may have received; the rest of the command is as
before. -/
structure Coll.GoesOn (core : Nat) (x y : Coll) : Prop where
  graph : y.graph = x.graph
  bufs : y.bufs = x.bufs
  length : y.ops.length = x.ops.length
  st : ∀ j, y.st j = { x.st j with received := (y.st j).received }
  data : ∃ new, y.data = x.data ++ new ∧ ∀ e ∈ new, ∃ b o, e.2.dst = x.loc core b o

section
variable {core i : Nat} {x y z : Coll}

theorem Coll.GoesOn.refl (core : Nat) (x : Coll) : x.GoesOn core x :=
  ⟨rfl, rfl, rfl, fun _ => rfl, [], (List.append_nil _).symm, fun _ h => (nomatch h)⟩

theorem Coll.GoesOn.trans (h : x.GoesOn core y) (h' : y.GoesOn core z) : x.GoesOn core z := by
  obtain ⟨new, hnew, hdst⟩ := h.data
  obtain ⟨new', hnew', hdst'⟩ := h'.data
  refine ⟨h'.graph.trans h.graph, h'.bufs.trans h.bufs, h'.length.trans h.length, fun j => ?_, new ++ new', ?_, fun e he => ?_⟩
  · rw [h'.st j, h.st j]
  · rw [hnew', hnew, List.append_assoc]
  · obtain he | he := List.mem_append.mp he
    · exact hdst e he
    · obtain ⟨b, o, heq⟩ := hdst' e he
      rw [Coll.loc, h.bufs] at heq
      exact ⟨b, o, heq⟩

section
variable (h : x.GoesOn core y) (j : Nat)
include h

theorem Coll.GoesOn.op : y.op j = x.op j := by rw [Coll.op, h.graph, Coll.op]

theorem Coll.GoesOn.counter : (y.st j).counter = (x.st j).counter := by rw [h.st j]

theorem Coll.GoesOn.running : (y.st j).running = (x.st j).running := by rw [h.st j]

theorem Coll.GoesOn.complete : (y.st j).complete = (x.st j).complete := by rw [h.st j]

theorem Coll.GoesOn.sent : (y.st j).sent = (x.st j).sent := by rw [h.st j]
end

theorem Coll.goesOn_received (core i : Nat) (x : Coll) : x.GoesOn core (x.modOp i fun q => { q with received := true }) := by
  refine ⟨rfl, rfl, x.length_ops_modOp _ _, fun j => ?_, [], (List.append_nil _).symm, fun _ h => (nomatch h)⟩
  by_cases hj : j < x.ops.length
  · rw [x.st_modOp _ _ hj]
    split <;> rfl
  · have hj' := Nat.not_lt.mp hj
    rw [Coll.st, Coll.st, List.getElem?_eq_none hj', List.getElem?_eq_none (by rwa [Coll.length_ops_modOp])]

/-- A byte of a buffer that is not reached through the peer aperture lies at no other package. -/
theorem Coll.loc_no_peer (x : Coll) (h : ∀ b ∈ x.bufs, ∀ p a, b ≠ .glob 2 p a) (core b o p a : Nat) : x.loc core b o ≠ .peer p a := by
  have hbuf : ∀ q a, x.bufs[b]?.getD (.scratch 0) ≠ .glob 2 q a := by
    cases hb : x.bufs[b]? with
    | none => exact fun _ _ => nofun
    | some d => exact h d (List.mem_of_getElem? hb)
  unfold Coll.loc
  generalize x.bufs[b]?.getD (.scratch 0) = d at hbuf ⊢
  cases d with
  | scratch n =>
    simp only [Space.plus, Space.toStore]
    split <;> exact nofun
  | glob ap q n =>
    have hap : ap ≠ 2 := fun h => hbuf q n (h ▸ rfl)
    simp only [Space.plus, Space.toStore, if_neg hap]
    split <;> exact nofun

/-- What an op writes into a buffer joins the writes of the command. -/
theorem State.collWrite_goesOn (s : State) (x : Coll) (core i b off : Nat) (bs : List Byte) :
    x.GoesOn core (s.collWrite x core i b off bs).1 ∧ (s.collWrite x core i b off bs).1.ops = x.ops ∧
      ∃ n, (s.collWrite x core i b off bs).2 = s.freeAt n := by
  refine ⟨⟨rfl, rfl, rfl, fun _ => rfl, _, rfl, fun e he => ?_⟩, rfl, _, rfl⟩
  obtain ⟨p, -, rfl⟩ := List.mem_map.mp he
  exact ⟨b, _, rfl⟩

/-- Bytes that race with no other op are written as they are (10 R278). -/
theorem State.data_collWrite (s : State) (x : Coll) {core : Nat} (i b off : Nat) (bs : List Byte) (h : ∀ d, x.racedWrite core i d = false) :
    (s.collWrite x core i b off bs).1.data = x.data ++ (bs.take (x.graph.cnt * x.graph.esz - off)).zipIdx.map fun p =>
      (i, { dst := x.loc core b (off + p.2), val := p.1 }) := by
  have hfill : ((bs.take (x.graph.cnt * x.graph.esz - off)).zipIdx.map fun p =>
      if x.racedWrite core i (x.loc core b (off + p.2)) then none else some p.1) = (bs.take (x.graph.cnt * x.graph.esz - off)).map some := by
    refine List.ext_getElem (by simp) fun k hk hk' => ?_
    simp [h]
  unfold State.collWrite
  dsimp only
  rw [hfill, State.fill_map_some]

/-- The bytes that a receiving op takes of a chunk, combined with its own under MERGE (10 R277). -/
def State.receiveBytes (s : State) (r : SRef) (x : Coll) (i : Nat) (ch : Chunk) : List Byte × State :=
  let n := min (opLen (x.op i) * x.esz i) ch.bytes.length
  if opKind (x.op i) = 3 then
    let a := s.collRead x r i (opDbuf (x.op i)) (opDoff (x.op i) * x.esz i) n
    a.2.fill (combine x.opf x.graph.recw a.1 (ch.bytes.take n))
  else (ch.bytes.take n, s)

/-- With VLEN a receiving op writes the length that came into its count word (10 R277). -/
def State.receiveCount (s : State) (x : Coll) (core i : Nat) (ch : Chunk) : Coll × State :=
  if opVlen (x.op i) then s.collWrite x core i 3 (4 * opCidx (x.op i)) (leBytes 4 (ch.bytes.length / x.esz i)) else (x, s)

theorem State.receiveOp_eq (s : State) (r : SRef) (x : Coll) (i : Nat) (ch : Chunk) : s.receiveOp r x i ch =
    let p := s.receiveBytes r x i ch
    let q := p.2.collWrite x r.core i (opDbuf (x.op i)) (opDoff (x.op i) * x.esz i) p.1
    let w := q.2.receiveCount q.1 r.core i ch
    (w.1.modOp i fun q => { q with received := true }, w.2) := rfl

theorem State.receiveBytes_free (s : State) (r : SRef) (x : Coll) (i : Nat) (ch : Chunk) : ∃ n, (s.receiveBytes r x i ch).2 = s.freeAt n := by
  unfold State.receiveBytes
  dsimp only
  split
  · exact ⟨_, rfl⟩
  · exact ⟨s.free, rfl⟩

theorem State.receiveCount_goesOn (s : State) (x : Coll) (core i : Nat) (ch : Chunk) : x.GoesOn core (s.receiveCount x core i ch).1 ∧
    (s.receiveCount x core i ch).1.ops = x.ops ∧ ∃ n, (s.receiveCount x core i ch).2 = s.freeAt n := by
  unfold State.receiveCount
  split
  · exact s.collWrite_goesOn x core i _ _ _
  · exact ⟨.refl core x, rfl, s.free, rfl⟩

/-- An op receives a chunk: it writes what it takes, and has received (10 R277). -/
theorem State.receiveOp_goesOn (s : State) (r : SRef) (x : Coll) {i : Nat} (hi : i < x.ops.length) (ch : Chunk) :
    x.GoesOn r.core (s.receiveOp r x i ch).1 ∧ ((s.receiveOp r x i ch).1.st i).received = true ∧
      ∃ n, (s.receiveOp r x i ch).2 = s.freeAt n := by
  rw [State.receiveOp_eq]
  dsimp only
  obtain ⟨n, hbytes⟩ := s.receiveBytes_free r x i ch
  obtain ⟨hwrites, hops, n', hn'⟩ := (s.receiveBytes r x i ch).2.collWrite_goesOn x r.core i (opDbuf (x.op i)) (opDoff (x.op i) * x.esz i)
    (s.receiveBytes r x i ch).1
  generalize (s.receiveBytes r x i ch).2.collWrite x r.core i (opDbuf (x.op i)) (opDoff (x.op i) * x.esz i)
    (s.receiveBytes r x i ch).1 = q at hwrites hops hn' ⊢
  obtain ⟨hcount, hops', n'', hn''⟩ := q.2.receiveCount_goesOn q.1 r.core i ch
  refine ⟨(hwrites.trans hcount).trans (Coll.goesOn_received _ _ _), ?_, n'', ?_⟩
  · rw [Coll.st_modOp _ _ _ (by rwa [hops', hops]), if_pos rfl]
  · rw [hn'', hn', hbytes]
    rfl

/-- What a RECV writes of a chunk where nothing races with it: at most its elements, as far as the graph addresses the buffer. -/
def Coll.recvWrites (x : Coll) (core i : Nat) (ch : Chunk) : List (Nat × EByte) :=
  ((ch.bytes.take (min (opLen (x.op i) * x.esz i) ch.bytes.length)).take
    (x.graph.cnt * x.graph.esz - opDoff (x.op i) * x.esz i)).zipIdx.map fun p =>
      (i, { dst := x.loc core (opDbuf (x.op i)) (opDoff (x.op i) * x.esz i + p.2), val := p.1 })

theorem State.data_receiveOp (s : State) (r : SRef) (x : Coll) {i : Nat} (ch : Chunk) (hkind : opKind (x.op i) = 1)
    (hvlen : opVlen (x.op i) = false) (h : ∀ d, x.racedWrite r.core i d = false) :
    (s.receiveOp r x i ch).1.data = x.data ++ x.recvWrites r.core i ch := by
  have hne : opKind (x.op i) ≠ 3 := by omega
  refine Eq.trans ?_ (s.data_collWrite x i (opDbuf (x.op i)) (opDoff (x.op i) * x.esz i)
    (ch.bytes.take (min (opLen (x.op i) * x.esz i) ch.bytes.length)) h)
  unfold State.receiveOp
  dsimp only
  rw [if_neg hne, hvlen]
  rfl

/-! #### An op completes (10 R270, R271, R278) -/

/-- Ops whose counters have decremented, once for every time that a list names them. -/
def Coll.release (x : Coll) (l : List Nat) : Coll := l.foldl (fun (x : Coll) j => x.modOp j fun q => { q with counter := q.counter - 1 }) x

theorem Coll.length_release (x : Coll) (l : List Nat) : (x.release l).ops.length = x.ops.length :=
  foldl_keeps (fun x : Coll => x.ops.length) (fun x j => x.length_ops_modOp j _) l x

theorem Coll.data_release (x : Coll) (l : List Nat) : (x.release l).data = x.data :=
  foldl_keeps Coll.data (f := fun x j => x.modOp j fun q => { q with counter := q.counter - 1 }) (fun _ _ => rfl) l x

theorem Coll.st_release (x : Coll) (l : List Nat) {j : Nat} (hj : j < x.ops.length) :
    (x.release l).st j = { x.st j with counter := (x.st j).counter - (l.filter fun k => k == j).length } := by
  induction l generalizing x with
  | nil => rfl
  | cons k t ih =>
    have hstep : x.release (k :: t) = (x.modOp k fun q => { q with counter := q.counter - 1 }).release t := rfl
    rw [hstep, ih _ (by rwa [Coll.length_ops_modOp]), Coll.st_modOp _ _ _ hj, List.filter_cons]
    by_cases hkj : k = j
    · simp only [hkj, if_true, beq_self_eq_true, List.length_cons]
      congr 1
      omega
    · simp only [if_neg hkj, beq_eq_false_iff_ne.mpr hkj, Bool.false_eq_true, if_false]

/-- The command with op `i` complete and the counters of its successors decremented. -/
def Coll.ended (x : Coll) (i : Nat) : Coll :=
  (x.modOp i fun q => { q with running := false, complete := true }).release ([0, 1, 2].map (opSucc (x.op i)))

theorem Coll.length_ended (x : Coll) (i : Nat) : (x.ended i).ops.length = x.ops.length :=
  (Coll.length_release _ _).trans (x.length_ops_modOp _ _)

theorem Coll.data_ended (x : Coll) (i : Nat) : (x.ended i).data = x.data := Coll.data_release _ _

theorem Coll.st_ended_self (x : Coll) {i : Nat} (hi : i < x.ops.length) :
    ((x.ended i).st i).complete = true ∧ ((x.ended i).st i).running = false := by
  rw [Coll.ended, Coll.st_release _ _ (by rwa [Coll.length_ops_modOp]), x.st_modOp _ _ hi, if_pos rfl]
  exact ⟨rfl, rfl⟩

theorem Coll.complete_ended_ne (x : Coll) {i j : Nat} (hj : j < x.ops.length) (hne : j ≠ i) :
    ((x.ended i).st j).complete = (x.st j).complete := by
  rw [Coll.ended, Coll.st_release _ _ (by rwa [Coll.length_ops_modOp]), x.st_modOp _ _ hj, if_neg hne.symm]

theorem Coll.counter_ended (x : Coll) (i : Nat) {j : Nat} (hj : j < x.ops.length) :
    ((x.ended i).st j).counter = (x.st j).counter - (([0, 1, 2].map (opSucc (x.op i))).filter fun k => k == j).length := by
  rw [Coll.ended, Coll.st_release _ _ (by rwa [Coll.length_ops_modOp]), x.st_modOp _ _ hj]
  split <;> rfl

/-- With op `i` complete all ops are, exactly if all others were. -/
theorem Coll.all_ended_iff (x : Coll) {i : Nat} (hi : i < x.ops.length) :
    (x.ended i).ops.all OpSt.complete = true ↔ ∀ j, j < x.ops.length → j ≠ i → (x.st j).complete = true := by
  rw [Coll.all_complete_iff, Coll.length_ended]
  constructor
  · intro h j hj hne
    rw [← x.complete_ended_ne hj hne]
    exact h j hj
  · intro h j hj
    by_cases hji : j = i
    · rw [hji]
      exact (x.st_ended_self hi).1
    · rw [x.complete_ended_ne hj hji]
      exact h j hj hji

/-- The writes of a command in ascending op index (10 R271). -/
def Coll.writes (x : Coll) : List EByte := (sortBy (fun (a b : Nat × EByte) => a.1 < b.1) x.data).map fun e => e.2

theorem Coll.writes_no_peer {x : Coll} (h : ∀ e ∈ x.data, ∀ p a, e.2.dst ≠ .peer p a) : ∀ e ∈ x.writes, ∀ p a, e.dst ≠ .peer p a := by
  intro e he
  obtain ⟨d, hd, rfl⟩ := List.mem_map.mp he
  exact h d (mem_of_mem_sortBy hd)

theorem State.endOp_eq (s : State) (c : Cmd) (x : Coll) (i : Nat) : s.endOp c x i =
    if (x.ended i).ops.all OpSt.complete then
      (s.modCmd c.id fun c => { c with body := (x.ended i).body }).endCmd c (x.ended i).writes
    else s.modCmd c.id fun c => { c with body := (x.ended i).body } := rfl

/-- The last op of a graph retires the command, or leaves it waiting for its writes at another package (10 R270, R271). -/
theorem State.endOp_last {s : State} {c : Cmd} (hc : s.cmd? c.id = some c) (hi : i < x.ops.length)
    (hlast : ∀ j, j < x.ops.length → j ≠ i → (x.st j).complete = true) :
    ((s.endOp c x i).cmd? c.id = none ∨ ∃ c', (s.endOp c x i).cmd? c.id = some c' ∧ c'.ending = true) ∧
      ((∀ e ∈ x.data, ∀ p a, e.2.dst ≠ .peer p a) →
        (s.endOp c x i).cmd? c.id = none ∧ (s.endOp c x i).locks = c.pins.foldl releasePin s.locks) := by
  rw [State.endOp_eq, if_pos ((x.all_ended_iff hi).mpr hlast)]
  refine ⟨?_, fun h => State.endCmd_of_no_peer (s.modCmd c.id _) c (Coll.writes_no_peer ((x.data_ended i).symm ▸ h))⟩
  have hmod := State.cmd?_modCmd_self hc fun c => { c with body := (x.ended i).body }
  exact State.cmd?_endCmd (List.mem_of_find?_eq_some hmod) (x.ended i).writes

/-- Another op leaves the command running. -/
theorem State.endOp_next (s : State) (c : Cmd) (hi : i < x.ops.length)
    (hmore : ∃ j, j < x.ops.length ∧ j ≠ i ∧ (x.st j).complete = false) :
    s.endOp c x i = s.modCmd c.id fun c => { c with body := (x.ended i).body } := by
  obtain ⟨j, hj, hne, hopen⟩ := hmore
  rw [State.endOp_eq, if_neg fun hall => nomatch hopen.symm.trans ((x.all_ended_iff hi).mp hall j hj hne)]

end

/-! #### A running op goes on to its end (10 R278, R285) -/

section
variable {s : State} {c : Cmd} {x : Coll} {i : Nat}

/-- A chunk has come that a receiving op of a command would take. -/
def State.HasChunk (s : State) (c : Cmd) (x : Coll) (i : Nat) : Prop :=
  ∃ r, s.rank? c.by'.vr = some r ∧ r.chunksFor (x.op i) x.replay ≠ []

theorem State.takeChunk_none (h : ¬ s.HasChunk c x i) : s.takeChunk c.by'.vr (x.op i) x.replay = none := by
  unfold State.takeChunk
  cases hr : s.rank? c.by'.vr with
  | none => rfl
  | some r =>
    have hnil : r.chunksFor (x.op i) x.replay = [] := by
      by_contra hne
      exact h ⟨r, hr, hne⟩
    rw [Option.map_some, hnil]

/-- A receiving op takes one of the chunks for it; commands and pins are as before. -/
theorem State.takeChunk_some (h : s.HasChunk c x i) : ∃ ch s', s.takeChunk c.by'.vr (x.op i) x.replay = some (ch, s') ∧
    s'.cmds = s.cmds ∧ s'.locks = s.locks ∧ ∀ r a, s.rank? c.by'.vr = some r → r.chunksFor (x.op i) x.replay = [a] → ch = a := by
  obtain ⟨r, hr, hne⟩ := h
  obtain ⟨a, t, hat⟩ := List.exists_cons_of_ne_nil hne
  unfold State.takeChunk
  rw [hr, Option.map_some, hat]
  cases t with
  | nil =>
    refine ⟨_, _, rfl, rfl, rfl, fun r' b hr' hb => ?_⟩
    obtain rfl := Option.some.inj hr'
    exact (List.cons.inj (hat.symm.trans hb)).1
  | cons b t =>
    refine ⟨_, _, rfl, rfl, rfl, fun r' b' hr' hb => ?_⟩
    obtain rfl := Option.some.inj hr'
    exact nomatch (List.cons.inj (hat.symm.trans hb)).2

theorem State.runOp_sending (h : opKind (x.op i) = 0 ∨ opKind (x.op i) = 2) :
    s.runOp c x i = if (x.st i).sent then s.endOp c x i else s := by
  unfold State.runOp
  dsimp only
  obtain h | h := h <;> rw [h] <;> rfl

theorem State.runOp_copy (h : opKind (x.op i) = 4) : ∃ n y, s.runOp c x i = (s.freeAt n).endOp c y i ∧ x.GoesOn c.by'.core y := by
  obtain ⟨-, -, n, hread⟩ := s.collRead_spec x c.by' i (opSbuf (x.op i)) (opSoff (x.op i) * x.esz i) (opLen (x.op i) * x.esz i)
  obtain ⟨hgoes, -, n', hwrite⟩ := (s.collRead x c.by' i (opSbuf (x.op i)) (opSoff (x.op i) * x.esz i)
    (opLen (x.op i) * x.esz i)).2.collWrite_goesOn x c.by'.core i (opDbuf (x.op i)) (opDoff (x.op i) * x.esz i)
      (s.collRead x c.by' i (opSbuf (x.op i)) (opSoff (x.op i) * x.esz i) (opLen (x.op i) * x.esz i)).1
  refine ⟨n', _, ?_, hgoes⟩
  unfold State.runOp
  dsimp only
  rw [h]
  rw [hwrite]
  rfl

theorem State.runOp_receiving_none (h : opKind (x.op i) = 1 ∨ opKind (x.op i) = 3)
    (htake : s.takeChunk c.by'.vr (x.op i) x.replay = none) : s.runOp c x i = s := by
  unfold State.runOp
  dsimp only
  rw [htake]
  obtain h | h := h <;> rw [h] <;> rfl

theorem State.runOp_receiving_some (h : opKind (x.op i) = 1 ∨ opKind (x.op i) = 3) {ch : Chunk} {s' : State}
    (htake : s.takeChunk c.by'.vr (x.op i) x.replay = some (ch, s')) :
    s.runOp c x i = (s'.receiveOp c.by' x i ch).2.endOp c (s'.receiveOp c.by' x i ch).1 i := by
  unfold State.runOp
  dsimp only
  rw [htake]
  obtain h | h := h <;> rw [h] <;> rfl

section
variable (h : opKind (x.op i) = 5)
include h

theorem State.runOp_permute_received (hrec : (x.st i).received = true) :
    s.runOp c x i = if (x.st i).sent then s.endOp c x i else s := by
  unfold State.runOp
  dsimp only
  rw [h, hrec]
  rfl

variable (hrec : (x.st i).received = false)
include hrec

theorem State.runOp_permute_unstaged (hstaged : x.staged c.by'.core i = false) : s.runOp c x i = s := by
  unfold State.runOp
  dsimp only
  rw [h, hrec, hstaged]
  rfl

variable (hstaged : x.staged c.by'.core i = true)
include hstaged

theorem State.runOp_permute_none (htake : s.takeChunk c.by'.vr (x.op i) x.replay = none) : s.runOp c x i = s := by
  unfold State.runOp
  dsimp only
  rw [h, hrec, hstaged, htake]
  rfl

theorem State.runOp_permute_some {ch : Chunk} {s' : State} (htake : s.takeChunk c.by'.vr (x.op i) x.replay = some (ch, s')) :
    s.runOp c x i = if ((s'.receiveOp c.by' x i ch).1.st i).sent then
        (s'.receiveOp c.by' x i ch).2.endOp c (s'.receiveOp c.by' x i ch).1 i
      else (s'.receiveOp c.by' x i ch).2.modCmd c.id fun k => { k with body := (s'.receiveOp c.by' x i ch).1.body } := by
  unfold State.runOp
  dsimp only
  rw [h, hrec, hstaged, htake]
  rfl
end

/-- Op `i` completes: in a state with the same commands and pins, with what it has written; a RECV of one chunk writes that. -/
structure State.Completes (s : State) (c : Cmd) (x : Coll) (i : Nat) (s' : State) (y : Coll) : Prop where
  run : s.runOp c x i = s'.endOp c y i
  cmds : s'.cmds = s.cmds
  locks : s'.locks = s.locks
  goesOn : x.GoesOn c.by'.core y
  recv : ∀ r ch, opKind (x.op i) = 1 → opVlen (x.op i) = false → s.rank? c.by'.vr = some r → r.chunksFor (x.op i) x.replay = [ch] →
    (∀ d, x.racedWrite c.by'.core i d = false) → y.data = x.data ++ x.recvWrites c.by'.core i ch

/-- When op `i` of a running command completes (10 R278, R285). -/
def State.MayEnd (s : State) (c : Cmd) (x : Coll) (i : Nat) : Prop :=
  ((opKind (x.op i) = 0 ∨ opKind (x.op i) = 2) ∧ (x.st i).sent = true) ∨ opKind (x.op i) = 4 ∨
    ((opKind (x.op i) = 1 ∨ opKind (x.op i) = 3) ∧ s.HasChunk c x i) ∨
    (opKind (x.op i) = 5 ∧ (x.st i).sent = true ∧ ((x.st i).received = true ∨ (x.staged c.by'.core i = true ∧ s.HasChunk c x i)))

/-- When op `i` of a running command waits. -/
def State.MustWait (s : State) (c : Cmd) (x : Coll) (i : Nat) : Prop :=
  ((opKind (x.op i) = 0 ∨ opKind (x.op i) = 2) ∧ (x.st i).sent = false) ∨
    ((opKind (x.op i) = 1 ∨ opKind (x.op i) = 3) ∧ ¬ s.HasChunk c x i) ∨
    (opKind (x.op i) = 5 ∧ (x.st i).received = true ∧ (x.st i).sent = false) ∨
    (opKind (x.op i) = 5 ∧ (x.st i).received = false ∧ (x.staged c.by'.core i = false ∨ ¬ s.HasChunk c x i))

theorem State.runOp_waits (h : s.MustWait c x i) : s.runOp c x i = s := by
  obtain ⟨hkind, hsent⟩ | ⟨hkind, hno⟩ | ⟨hkind, hrec, hsent⟩ | ⟨hkind, hrec, hno⟩ := h
  · rw [State.runOp_sending hkind, hsent]
    rfl
  · exact State.runOp_receiving_none hkind (State.takeChunk_none hno)
  · rw [State.runOp_permute_received hkind hrec, hsent]
    rfl
  · cases hstaged : x.staged c.by'.core i with
    | false => exact State.runOp_permute_unstaged hkind hrec hstaged
    | true =>
      exact State.runOp_permute_none hkind hrec hstaged (State.takeChunk_none (hno.resolve_left fun h => nomatch hstaged.symm.trans h))

theorem State.runOp_completes (hi : i < x.ops.length) (h : s.MayEnd c x i) : ∃ s' y, s.Completes c x i s' y := by
  obtain ⟨hkind, hsent⟩ | hkind | ⟨hkind, hgot⟩ | ⟨hkind, hsent, hready⟩ := h
  · exact ⟨s, x, by rw [State.runOp_sending hkind, if_pos hsent], rfl, rfl, .refl _ _, fun _ _ h => by omega⟩
  · obtain ⟨n, y, hrun, hgoes⟩ := State.runOp_copy (s := s) (c := c) hkind
    exact ⟨_, y, hrun, rfl, rfl, hgoes, fun _ _ h => by omega⟩
  · obtain ⟨ch, s', htake, hcmds, hlocks, hone⟩ := State.takeChunk_some hgot
    obtain ⟨hgoes, -, n, hfree⟩ := s'.receiveOp_goesOn c.by' x hi ch
    refine ⟨_, _, State.runOp_receiving_some hkind htake, by rw [hfree]; exact hcmds, by rw [hfree]; exact hlocks, hgoes,
      fun r ch' hrecv hvlen hr hch hrace => ?_⟩
    obtain rfl := hone r ch' hr hch
    exact s'.data_receiveOp c.by' x ch hrecv hvlen hrace
  · cases hrec : (x.st i).received with
    | true => exact ⟨s, x, by rw [State.runOp_permute_received hkind hrec, if_pos hsent], rfl, rfl, .refl _ _, fun _ _ h => by omega⟩
    | false =>
      obtain ⟨hstaged, hgot⟩ := hready.resolve_left fun h => nomatch hrec.symm.trans h
      obtain ⟨ch, s', htake, hcmds, hlocks, -⟩ := State.takeChunk_some hgot
      obtain ⟨hgoes, -, n, hfree⟩ := s'.receiveOp_goesOn c.by' x hi ch
      have hsent' : ((s'.receiveOp c.by' x i ch).1.st i).sent = true := (hgoes.sent i).trans hsent
      have hrun : s.runOp c x i = (s'.receiveOp c.by' x i ch).2.endOp c (s'.receiveOp c.by' x i ch).1 i := by
        rw [State.runOp_permute_some hkind hrec hstaged htake, if_pos hsent']
      exact ⟨_, _, hrun, by rw [hfree]; exact hcmds, by rw [hfree]; exact hlocks, hgoes, fun _ _ h => by omega⟩

/-- A PERMUTE that is not sent receives and runs on (10 R285). -/
theorem State.runOp_receives (hc : s.cmd? c.id = some c) (hi : i < x.ops.length) (hkind : opKind (x.op i) = 5)
    (hrec : (x.st i).received = false) (hstaged : x.staged c.by'.core i = true) (hgot : s.HasChunk c x i) (hsent : (x.st i).sent = false) :
    ∃ c' y, (s.runOp c x i).cmd? c.id = some c' ∧ c'.body.coll? = some y ∧ (y.st i).received = true ∧ (y.st i).running = (x.st i).running := by
  obtain ⟨ch, s', htake, hcmds, -, -⟩ := State.takeChunk_some hgot
  obtain ⟨hgoes, hreceived, n, hfree⟩ := s'.receiveOp_goesOn c.by' x hi ch
  have hsent' : ((s'.receiveOp c.by' x i ch).1.st i).sent = false := (hgoes.sent i).trans hsent
  have hrun : s.runOp c x i = (s'.receiveOp c.by' x i ch).2.modCmd c.id fun k => { k with body := (s'.receiveOp c.by' x i ch).1.body } := by
    rw [State.runOp_permute_some hkind hrec hstaged htake, hsent', if_neg Bool.false_ne_true]
  have hcmds' : (s'.receiveOp c.by' x i ch).2.cmds = s.cmds := by rw [hfree]; exact hcmds
  rw [hrun]
  exact ⟨_, (s'.receiveOp c.by' x i ch).1, State.cmd?_modCmd_self ((State.cmd?_congr hcmds' _).trans hc) _, Coll.coll?_body _, hreceived,
    hgoes.running i⟩

/-! #### COLL_OP_COMPLETE (10 R268, R270, R278) -/

variable (hc : s.cmd? c.id = some c) (hx : c.body.coll? = some x)
include hc hx

theorem exec_collOpComplete_eq (i : Nat) : exec (.collOpComplete c.id i) s = .next (
    if c.st ≠ .running ∨ !s.cmdLive c then s
    else if c.ending then s.finishCmd c
    else if !(x.st i).running then s
    else if (x.st i).pos + 64 < x.opBytes i then
      s.modCmd c.id fun c => { c with body := (x.modOp i fun o => { o with pos := o.pos + 64, half := !o.half }).body }
    else s.runOp c x i) := by
  simp only [exec_collOpComplete, execCollOpComplete, hc, hx]

theorem exec_collOpComplete_idle (h : c.st ≠ .running ∨ s.cmdLive c = false ∨ (c.ending = true ∧ s.cmdAway c = true) ∨
    (c.ending = false ∧ (x.st i).running = false)) : exec (.collOpComplete c.id i) s = .next s := by
  rw [exec_collOpComplete_eq hc hx]
  obtain h | h | ⟨hending, haway⟩ | ⟨hending, hrun⟩ := h
  · rw [if_pos (.inl h)]
  · rw [if_pos (.inr (by rw [h]; rfl))]
  · rw [hending, if_pos rfl, State.finishCmd, if_pos haway, ite_self]
  · rw [hending, hrun]
    simp

variable (hst : c.st = .running) (hlive : s.cmdLive c = true)
include hst hlive

theorem exec_collOpComplete_finish (hending : c.ending = true) (haway : s.cmdAway c = false) :
    exec (.collOpComplete c.id i) s = .next (s.retireCmd c c.wrote) := by
  rw [exec_collOpComplete_eq hc hx, State.finishCmd]
  simp [hst, hlive, hending, haway]

variable (hending : c.ending = false) (hrun : (x.st i).running = true)
include hending hrun

theorem exec_collOpComplete_moves (hi : i < x.ops.length) (hmore : (x.st i).pos + 64 < x.opBytes i) :
    ∃ t c' y, exec (.collOpComplete c.id i) s = .next t ∧ t.cmd? c.id = some c' ∧ c'.body.coll? = some y ∧
      y.st i = { x.st i with pos := (x.st i).pos + 64, half := !(x.st i).half } ∧ s.SameMemory t := by
  have hexec := exec_collOpComplete_eq hc hx i
  simp only [hst, hlive, hending, hrun, if_pos hmore, ne_eq, not_true_eq_false, Bool.not_true, Bool.false_eq_true, or_self, if_false] at hexec
  exact ⟨_, _, _, hexec, State.cmd?_modCmd_self hc _, Coll.coll?_body _, (x.st_modOp i _ hi).trans (if_pos rfl), State.sameMemory_of_memories rfl⟩

theorem exec_collOpComplete_run (hlast : x.opBytes i ≤ (x.st i).pos + 64) :
    exec (.collOpComplete c.id i) s = .next (s.runOp c x i) := by
  rw [exec_collOpComplete_eq hc hx, if_neg (Nat.not_lt.mpr hlast)]
  simp [hst, hlive, hending, hrun]

/-- The last op of a command completes (10 R270, R271, R278). -/
theorem exec_collOpComplete_last (hi : i < x.ops.length) (hlast : x.opBytes i ≤ (x.st i).pos + 64) (hend : s.MayEnd c x i)
    (hothers : ∀ j, j < x.ops.length → j ≠ i → (x.st j).complete = true) : ∃ t, exec (.collOpComplete c.id i) s = .next t ∧
      (t.cmd? c.id = none ∨ ∃ c', t.cmd? c.id = some c' ∧ c'.ending = true) ∧
      ((∀ b ∈ x.bufs, ∀ p a, b ≠ .glob 2 p a) → (∀ e ∈ x.data, ∀ p a, e.2.dst ≠ .peer p a) →
        t.cmd? c.id = none ∧ t.locks = c.pins.foldl releasePin s.locks) := by
  obtain ⟨s', y, hdone⟩ := State.runOp_completes hi hend
  obtain ⟨hended, hretired⟩ := State.endOp_last (s := s') (c := c) (x := y) (i := i) ((State.cmd?_congr hdone.cmds _).trans hc)
    (by rwa [hdone.goesOn.length]) fun j hj hne => (hdone.goesOn.complete j).trans
      (hothers j (by rwa [hdone.goesOn.length] at hj) hne)
  rw [exec_collOpComplete_run hc hx hst hlive hending hrun hlast, hdone.run]
  refine ⟨_, rfl, hended, fun hbufs hdata => ?_⟩
  rw [← hdone.locks]
  refine hretired fun e he p a => ?_
  obtain ⟨new, hnew, hdst⟩ := hdone.goesOn.data
  rw [hnew] at he
  obtain he | he := List.mem_append.mp he
  · exact hdata e he p a
  · obtain ⟨b, o, hloc⟩ := hdst e he
    rw [hloc]
    exact x.loc_no_peer hbufs c.by'.core b o p a

/-- Another op of a command completes, and its successors' counters decrement (10 R278). -/
theorem exec_collOpComplete_next (hi : i < x.ops.length) (hlast : x.opBytes i ≤ (x.st i).pos + 64) (hend : s.MayEnd c x i)
    (hmore : ∃ j, j < x.ops.length ∧ j ≠ i ∧ (x.st j).complete = false) : ∃ t c' y, exec (.collOpComplete c.id i) s = .next t ∧
      t.cmd? c.id = some c' ∧ c'.body.coll? = some y ∧ (y.st i).complete = true ∧ (y.st i).running = false ∧
      (∀ j, j < x.ops.length → (y.st j).counter =
        (x.st j).counter - (([0, 1, 2].map (opSucc (x.op i))).filter fun k => k == j).length) ∧
      ∀ r ch, opKind (x.op i) = 1 → opVlen (x.op i) = false → s.rank? c.by'.vr = some r →
        r.chunksFor (x.op i) x.replay = [ch] → (∀ d, x.racedWrite c.by'.core i d = false) →
        y.data = x.data ++ x.recvWrites c.by'.core i ch := by
  obtain ⟨s', y, hdone⟩ := State.runOp_completes hi hend
  have hlen := hdone.goesOn.length
  have hopen : ∃ j, j < y.ops.length ∧ j ≠ i ∧ (y.st j).complete = false := by
    obtain ⟨j, hj, hne, hopen⟩ := hmore
    exact ⟨j, by rwa [hlen], hne, (hdone.goesOn.complete j).trans hopen⟩
  obtain ⟨hcomplete, hstopped⟩ := y.st_ended_self (i := i) (by rwa [hlen])
  rw [exec_collOpComplete_run hc hx hst hlive hending hrun hlast, hdone.run, State.endOp_next s' c (by rwa [hlen]) hopen]
  refine ⟨_, _, y.ended i, rfl, State.cmd?_modCmd_self ((State.cmd?_congr hdone.cmds _).trans hc) _, Coll.coll?_body _, hcomplete, hstopped,
    fun j hj => ?_, fun r ch hkind hvlen hr hch hrace => ?_⟩
  · rw [y.counter_ended i (by rwa [hlen]), hdone.goesOn.counter j, hdone.goesOn.op i]
  · rw [y.data_ended]
    exact hdone.recv r ch hkind hvlen hr hch hrace

end

/-! #### COLLECTIVE_CHUNK (10 R284, 17 R425) -/

theorem State.conn_setConn {s : State} {c : Conn} : (s.setConn c).conn c.port c.dom c.pkg = c := by
  have hnone : (s.conns.filter fun x => !(x.port == c.port && x.dom == c.dom && x.pkg == c.pkg)).find?
      (fun x => x.port == c.port && x.dom == c.dom && x.pkg == c.pkg) = none := by
    rw [List.find?_eq_none]
    intro x hx
    exact ne_true_of_eq_false ((Bool.not_eq_true' _).mp (List.mem_filter.mp hx).2)
  simp only [State.conn, State.setConn, List.find?_append, hnone, Option.none_or]
  simp

theorem State.conn_key (s : State) (port dom pkg : Nat) :
    (s.conn port dom pkg).port = port ∧ (s.conn port dom pkg).dom = dom ∧ (s.conn port dom pkg).pkg = pkg := by
  unfold State.conn
  split
  · next c hc => simpa [and_assoc] using List.find?_some hc
  · exact ⟨rfl, rfl, rfl⟩

/-- What an acknowledgement leaves alone: the ranks, and which ranks commands belong to. -/
def State.cmdVrs (s : State) : List Rank × List Nat := (s.ranks, s.cmds.map fun y => y.by'.vr)

theorem State.markSent_cmdVrs (s : State) (op : Option (Nat × Nat)) : (s.markSent op).cmdVrs = s.cmdVrs := by
  cases op with
  | none => rfl
  | some op =>
    rw [State.markSent_some, State.cmdVrs, State.cmdVrs, State.modCmd, List.map_map]
    congr 1
    refine List.map_congr_left fun y _ => ?_
    rw [Function.comp_apply]
    split
    · rw [Cmd.opSent_by]
    · rfl

theorem State.ackFrames_cmdVrs (s : State) (c : Conn) (ackseq : Nat) : (s.ackFrames c ackseq).cmdVrs = s.cmdVrs := by
  unfold State.ackFrames
  refine foldl_keeps State.cmdVrs (fun s f => ?_) _ _
  exact s.markSent_cmdVrs f.op

/-- An acknowledgement takes frames from a connection and leaves its numbers as they are. -/
theorem State.conn_ackFrames (s : State) (c : Conn) (ackseq : Nat) :
    ((s.ackFrames c ackseq).conn c.port c.dom c.pkg).recvNext = c.recvNext := by
  have hconns : (s.ackFrames c ackseq).conns =
      (s.setConn { c with unacked := c.unacked.filter fun f => !seqBefore f.seq ackseq }).conns := by
    unfold State.ackFrames
    refine foldl_keeps State.conns (fun s f => ?_) _ _
    obtain ⟨l, hl⟩ := s.markSent_eq f.op
    rw [hl]
  have hnext := congrArg Conn.recvNext
    (State.conn_setConn (s := s) (c := { c with unacked := c.unacked.filter fun f => !seqBefore f.seq ackseq }))
  rw [State.conn, hconns]
  exact hnext

section
variable {s : State} {f : FrameHdr}

theorem State.recvFrame_bad (h : f.crcOk = false) (act : State → State) : s.recvFrame f act = s := by
  rw [State.recvFrame, h]
  rfl

/-- A frame is delivered in a state with the ranks and the commands' ranks of the one that it reached, or not at all (17 R425). -/
theorem State.recvFrame_cases (s : State) (f : FrameHdr) (act : State → State) :
    (∃ s', s.recvFrame f act = act s' ∧ s'.cmdVrs = s.cmdVrs) ∨ (s.recvFrame f act).cmdVrs = s.cmdVrs := by
  unfold State.recvFrame
  dsimp only
  split
  · exact .inr rfl
  · split
    · exact .inl ⟨_, rfl, s.ackFrames_cmdVrs _ _⟩
    · split
      · exact .inr (s.ackFrames_cmdVrs _ _)
      · exact .inr (s.ackFrames_cmdVrs _ _)

/-- The next frame in order is delivered. -/
theorem State.recvFrame_next (hcrc : f.crcOk = true) (hseq : f.seq = (s.conn f.port f.dom f.pkg).recvNext) (act : State → State) :
    ∃ s', s.recvFrame f act = act s' ∧ s'.cmdVrs = s.cmdVrs := by
  obtain ⟨hport, hdom, hpkg⟩ := s.conn_key f.port f.dom f.pkg
  have hnext := s.conn_ackFrames (s.conn f.port f.dom f.pkg) f.ackseq
  rw [hport, hdom, hpkg, ← hseq] at hnext
  unfold State.recvFrame
  dsimp only
  rw [hcrc, if_neg (by simp), if_pos hnext.symm]
  exact ⟨_, rfl, s.ackFrames_cmdVrs _ _⟩

/-- The chunk that a frame carries a piece of. -/
def frameChunk (f : FrameHdr) (slot : Nat) (bytes : List Byte) : Chunk :=
  { slot := slot, replay := f.replay, endpoint := f.endpt, src := f.svr, tag := f.tag, bytes := bytes, whole := f.last }

/-- What the delivery of a frame of KIND 1 does (10 R284). -/
def State.takePiece (f : FrameHdr) (slot : Nat) (bytes : List Byte) (s : State) : State :=
  if s.ranks.any fun r => r.vr == f.dvr then s.deposit f.dvr (frameChunk f slot bytes) f.offset
  else s.chunkFurrow f.dvr (frameChunk f slot bytes) f.offset (placePkg (s.placeEntry f.dvr)) none

theorem exec_collectiveChunk_eq (slot : Nat) (bytes : List Byte) :
    exec (.collectiveChunk f slot bytes) s = .next (s.recvFrame f (State.takePiece f slot bytes)) := by
  rw [exec_collectiveChunk]
  rfl

theorem State.rank?_congr {t : State} (h : t.ranks = s.ranks) (vr : Nat) : t.rank? vr = s.rank? vr := by
  rw [State.rank?, h, State.rank?]

/-- A chunk in order for a rank here joins its landing area (10 R284). -/
theorem exec_collectiveChunk_lands {r : Rank} (slot : Nat) (bytes : List Byte) (hcrc : f.crcOk = true)
    (hseq : f.seq = (s.conn f.port f.dom f.pkg).recvNext) (hr : s.rank? f.dvr = some r) (hplace : r.place ≠ .transit)
    (hoff : f.offset = 0) (hcmds : ∀ y ∈ s.cmds, y.by'.vr ≠ f.dvr) :
    ∃ t, exec (.collectiveChunk f slot bytes) s = .next t ∧ t.rank? f.dvr = some (r.landed (frameChunk f slot bytes)) := by
  obtain ⟨s', hrecv, hkeep⟩ := State.recvFrame_next hcrc hseq (State.takePiece f slot bytes)
  have hr' : s'.rank? f.dvr = some r := (State.rank?_congr (congrArg (·.1) hkeep) _).trans hr
  have hno : f.dvr ∉ s'.cmds.map fun y => y.by'.vr := by
    have hvrs : (s'.cmds.map fun y => y.by'.vr) = s.cmds.map fun y => y.by'.vr := congrArg (·.2) hkeep
    rw [hvrs]
    exact State.vr_notMem_of_forall_ne hcmds
  refine ⟨_, exec_collectiveChunk_eq slot bytes, ?_⟩
  rw [hrecv, State.takePiece, if_pos (State.any_vr_of_rank? hr'), hoff, State.deposit_lands hr' hplace (State.chunkTaken_of_noCmds hno)]
  exact State.rank?_landed hr'

/-- A chunk for a rank that is not held here changes no rank. -/
theorem exec_collectiveChunk_onward (slot : Nat) (bytes : List Byte) (hr : s.rank? f.dvr = none) :
    ∃ t, exec (.collectiveChunk f slot bytes) s = .next t ∧ t.ranks = s.ranks := by
  refine ⟨_, exec_collectiveChunk_eq slot bytes, ?_⟩
  obtain ⟨s', hrecv, hkeep⟩ | hkeep := s.recvFrame_cases f (State.takePiece f slot bytes)
  · have hr' : s'.rank? f.dvr = none := (State.rank?_congr (congrArg (·.1) hkeep) _).trans hr
    rw [hrecv, State.takePiece, State.any_vr_of_none hr', if_neg Bool.false_ne_true]
    exact (congrArg (·.1) (s'.chunkFurrow_collState _ _ _ _ _)).trans (congrArg (·.1) hkeep)
  · exact congrArg (·.1) hkeep
end

/-! #### TREE_NODE_COMBINE (10 R280 to R282) -/

/-- The value that a tree holds at a place of a level. -/
def TreeSt.node? (t : TreeSt) (level i : Nat) : Option (List Byte) := (t.nodes.find? fun e => e.1 == level && e.2.1 == i).map fun e => e.2.2

theorem TreeSt.node?_some {t : TreeSt} {level i : Nat} {bs : List Byte}
    (h : t.nodes.find? (fun e => e.1 == level && e.2.1 == i) = some (level, i, bs)) : t.node? level i = some bs := by
  rw [TreeSt.node?, h]
  rfl

theorem TreeSt.node?_none {t : TreeSt} {level i : Nat} (h : t.nodes.find? (fun e => e.1 == level && e.2.1 == i) = none) :
    t.node? level i = none := by
  rw [TreeSt.node?, h]
  rfl

/-- A tree without the values at some places of a level. -/
def TreeSt.without (t : TreeSt) (level : Nat) (l : List Nat) : TreeSt :=
  { t with nodes := t.nodes.filter fun e => !(e.1 == level && l.contains e.2.1) }

/-- The value that a tree forms one level up. -/
def TreeSt.above (t : TreeSt) (key : TreeKey) (level k : Nat) (bs : List Byte) : NodeVal :=
  { key := key, level := level + 1, k := k, opf := t.opf, recw := t.recw, desc := t.desc, tag := t.tag, step := t.step,
    differs := t.differs, bytes := bs }

/-- The combination of operands takes their place, one level up (10 R280). -/
def State.raise (s : State) (t : TreeSt) (key : TreeKey) (level k : Nat) (gone : List Nat) (bs : List Byte) : State :=
  (({ s with trees := s.trees.map fun x => if x.key = key then x.without level gone else x } : State).putNode
    (t.above key level k bs) none).2

theorem find?_map_if {α β : Type} [BEq β] [LawfulBEq β] [DecidableEq β] {key : α → β} {f : α → α} (hf : ∀ x, key (f x) = key x) {k : β}
    {l : List α} {a : α} (h : l.find? (fun x => key x == k) = some a) :
    (l.map fun x => if key x = k then f x else x).find? (fun x => key x == k) = some (f a) := by
  have hkey : key a = k := by simpa using List.find?_some h
  have hpred : ((fun x => key x == k) ∘ fun x => if key x = k then f x else x) = fun x => key x == k := by
    funext x
    rw [Function.comp_apply]
    split
    · rw [hf]
    · rfl
  rw [List.find?_map, hpred, h, Option.map_some, if_pos hkey]

section
variable {s : State} {key : TreeKey} {level k : Nat} {t : TreeSt} (ht : s.trees.find? (fun t => t.key == key) = some t)
include ht

/-- A value of a tree that this package holds joins that tree. -/
theorem State.find?_landNode {v : NodeVal} (hv : v.key = key) :
    (s.landNode v).trees.find? (fun t => t.key == key) = some (t.put v) := by
  subst hv
  have hany : (s.trees.any fun t => t.key == v.key) = true :=
    List.any_eq_true.mpr ⟨t, List.mem_of_find?_eq_some ht, by simpa using List.find?_some ht⟩
  rw [State.landNode, if_pos hany]
  exact find?_map_if (key := TreeSt.key) (f := fun t => t.put v) (fun _ => rfl) ht

theorem State.raise_spec (gone : List Nat) (bs : List Byte) :
    ∃ t', (s.raise t key level k gone bs).trees.find? (fun t => t.key == key) = some t' ∧
      (∀ e ∈ t'.nodes, e.1 = level → e.2.1 ∉ gone) ∧ (s.raise t key level k gone bs).ranks = s.ranks ∧
      (s.holder? key (level + 1) k = none → (level + 1, k, bs) ∈ t'.nodes) ∧
      ∀ h, s.holder? key (level + 1) k = some h → ∃ o, (s.raise t key level k gone bs).fabric.outs = s.fabric.outs ++ [o] ∧
        o.fid = h.fid ∧ o.awaiting = [h.pkg] := by
  obtain ⟨s', hs'⟩ : ∃ s', s' = ({ s with trees := s.trees.map fun x => if x.key = key then x.without level gone else x } : State) :=
    ⟨_, rfl⟩
  have hfind : s'.trees.find? (fun t => t.key == key) = some (t.without level gone) := by
    rw [hs']
    exact find?_map_if (key := TreeSt.key) (f := fun t => t.without level gone) (fun _ => rfl) ht
  have hgone : ∀ e ∈ (t.without level gone).nodes, e.1 = level → e.2.1 ∉ gone := fun e he hlevel => by
    simpa [hlevel] using (List.mem_filter.mp he).2
  have hraise : s.raise t key level k gone bs = (s'.putNode (t.above key level k bs) none).2 := by
    rw [hs']
    rfl
  have hsame : s'.ranks = s.ranks ∧ s'.fabric = s.fabric := by
    rw [hs']
    exact ⟨rfl, rfl⟩
  have hholder : s'.holder? key (level + 1) k = s.holder? key (level + 1) k := by rw [State.holder?, hsame.2, State.holder?]
  rw [hraise]
  cases hh : s.holder? key (level + 1) k with
  | none =>
    rw [State.putNode_here (v := t.above key level k bs) (hholder.trans hh)]
    refine ⟨_, State.find?_landNode hfind rfl, fun e he hlevel => ?_, ?_, fun _ => List.mem_append_right _ (List.mem_singleton_self _),
      fun _ h => (nomatch h)⟩
    · obtain he | he := List.mem_append.mp he
      · exact hgone e he hlevel
      · rw [List.mem_singleton.mp he] at hlevel
        exact absurd hlevel (Nat.succ_ne_self level)
    · exact (s'.landNode_ranks _).trans hsame.1
  | some h =>
    obtain ⟨o, u, hput, hkeep, houts, hfid, hawait, -⟩ := State.putNode_away (v := t.above key level k bs) (hholder.trans hh) none
    rw [hput]
    refine ⟨_, (congrArg (·.2.2.find? fun t => t.key == key) hkeep).trans hfind, hgone, (congrArg (·.1) hkeep).trans hsame.1,
      fun h => (nomatch h), fun h' heq => ⟨o, houts.trans (by rw [hsame.2]), ?_, ?_⟩⟩
    · rw [hfid, Option.some.inj heq]
    · rw [hawait, Option.some.inj heq]

theorem exec_treeNodeCombine_eq : exec (.treeNodeCombine key level k) s = .next (
    if levelCount (key.hi + 1 - key.lo) level ≤ 1 then
      match t.node? level 0 with
      | some bs => ({ s with trees := s.trees.filter fun x => x.key != key } : State).deliverTree t bs
      | none => s
    else if 2 * k + 1 = levelCount (key.hi + 1 - key.lo) level then
      match t.node? level (2 * k) with
      | some bs => s.raise t key level k [2 * k] bs
      | none => s
    else match t.node? level (2 * k), t.node? level (2 * k + 1) with
      | some a, some b =>
        (s.fill (combine t.opf t.recw a b)).2.raise t key level k [2 * k, 2 * k + 1] (s.fill (combine t.opf t.recw a b)).1
      | _, _ => s) := by
  rw [exec_treeNodeCombine, execTreeNodeCombine, ht]
  rfl

/-- Two operands of a node give way to their combination, one level up (10 R280). -/
theorem exec_treeNodeCombine_pair {a b bs : List Byte} (hlt : 2 * k + 1 < levelCount (key.hi + 1 - key.lo) level)
    (ha : t.node? level (2 * k) = some a) (hb : t.node? level (2 * k + 1) = some b) (hcomb : combine t.opf t.recw a b = bs.map some) :
    ∃ n, exec (.treeNodeCombine key level k) s = .next ((s.freeAt n).raise t key level k [2 * k, 2 * k + 1] bs) := by
  rw [exec_treeNodeCombine_eq ht, if_neg (by omega), if_neg (by omega), ha, hb]
  dsimp only
  rw [hcomb, State.fill_map_some]
  exact ⟨_, rfl⟩

/-- The odd operand of a level is carried one level up. -/
theorem exec_treeNodeCombine_odd {bs : List Byte} (hodd : 2 * k + 1 = levelCount (key.hi + 1 - key.lo) level) (hk : 2 ≤ 2 * k + 1)
    (hbs : t.node? level (2 * k) = some bs) : exec (.treeNodeCombine key level k) s = .next (s.raise t key level k [2 * k] bs) := by
  rw [exec_treeNodeCombine_eq ht, if_neg (by omega), if_pos hodd, hbs]

/-- Without an operand a node waits. -/
theorem exec_treeNodeCombine_waits {i : Nat} (hcnt : 2 ≤ levelCount (key.hi + 1 - key.lo) level)
    (hi : i = 2 * k ∨ (i = 2 * k + 1 ∧ 2 * k + 1 ≠ levelCount (key.hi + 1 - key.lo) level)) (hnone : t.node? level i = none) :
    exec (.treeNodeCombine key level k) s = .next s := by
  rw [exec_treeNodeCombine_eq ht, if_neg (by omega)]
  obtain rfl | ⟨rfl, hne⟩ := hi
  · rw [hnone]
    split <;> rfl
  · rw [if_neg hne, hnone]
    cases t.node? level (2 * k) <;> rfl

/-- At the top a tree ends and its value is delivered. -/
theorem exec_treeNodeCombine_top {bs : List Byte} (hcnt : levelCount (key.hi + 1 - key.lo) level ≤ 1) (hbs : t.node? level 0 = some bs) :
    exec (.treeNodeCombine key level k) s =
      .next (({ s with trees := s.trees.filter fun x => x.key != key } : State).deliverTree t bs) := by
  rw [exec_treeNodeCombine_eq ht, if_pos hcnt, hbs]
end

/-! #### The value of a tree (10 R275, R277; 16 R384) -/

/-- The chunk that carries the value of a tree. -/
def TreeSt.result (t : TreeSt) (bs : List Byte) : Chunk :=
  { slot := t.key.slot, replay := t.key.replay, endpoint := treeDep t.desc, src := t.key.lo, tag := t.tag, bytes := bs, whole := true }

section
variable {s : State} {t : TreeSt} (hsame : t.differs = false) (bs : List Byte)
include hsame

theorem State.deliverTree_one (h : treeDkind t.desc = 0) :
    s.deliverTree t bs = [treeDvr t.desc].foldl (fun (s : State) w => (s.sendChunk w (t.result bs) none).2) s := by
  unfold State.deliverTree
  rw [hsame]
  dsimp only
  rw [h]
  rfl

theorem State.deliverTree_all (h : treeDkind t.desc = 1) : s.deliverTree t bs =
    ((List.range (t.key.hi + 1 - t.key.lo)).map fun i => t.key.lo + i).foldl
      (fun (s : State) w => (s.sendChunk w (t.result bs) none).2) s := by
  rw [List.foldl_map]
  unfold State.deliverTree
  rw [hsame]
  dsimp only
  rw [h]
  rfl

theorem State.deliverTree_shard (h : 2 ≤ treeDkind t.desc) : s.deliverTree t bs =
    s.buildBlocks t.key.job (treeDvr t.desc) t.step t.key.pos ((chunksOf 4 bs.length bs).map fun v => BitVec.ofNat 32 v) := by
  unfold State.deliverTree
  rw [hsame]
  dsimp only
  split
  · next h0 => omega
  · next h1 => omega
  · rfl

theorem State.trees_deliverTree : (s.deliverTree t bs).trees = s.trees := by
  have hchunks : ∀ l : List Nat, (l.foldl (fun (s : State) w => (s.sendChunk w (t.result bs) none).2) s).trees = s.trees := fun l =>
    foldl_keeps State.trees (fun s w => s.sendChunk_trees w _ none) l s
  by_cases h0 : treeDkind t.desc = 0
  · rw [State.deliverTree_one hsame bs h0, hchunks]
  · by_cases h1 : treeDkind t.desc = 1
    · rw [State.deliverTree_all hsame bs h1, hchunks]
    · rw [State.deliverTree_shard hsame bs (by omega)]
      exact congrArg (·.2.2) (s.buildBlocks_collState _ _ _ _ _)

/-- The value lands at the rank of DVR, or at every rank of the range (10 R275). -/
theorem State.rank?_deliverTree {v : Nat} {r : Rank}
    (hv : (treeDkind t.desc = 0 ∧ v = treeDvr t.desc) ∨ (treeDkind t.desc = 1 ∧ t.key.lo ≤ v ∧ v ≤ t.key.hi)) (hr : s.rank? v = some r)
    (hplace : r.place ≠ .transit) (hcmds : v ∉ s.cmds.map fun y => y.by'.vr) :
    (s.deliverTree t bs).rank? v = some (r.landed (t.result bs)) := by
  obtain ⟨hkind, rfl⟩ | ⟨hkind, hlo, hhi⟩ := hv
  · rw [State.deliverTree_one hsame bs hkind]
    exact State.rank?_sendChunks (List.nodup_singleton _) (List.mem_singleton_self _) hr hplace hcmds
  · rw [State.deliverTree_all hsame bs hkind]
    refine State.rank?_sendChunks (List.nodup_range.map fun i j h => Nat.add_left_cancel h) ?_ hr hplace hcmds
    exact List.mem_map.mpr ⟨v - t.key.lo, List.mem_range.mpr (by omega), by omega⟩
end

/-! #### Sums of INT32 (10 R281) -/

/-- The sum of two INT32 elements is taken modulo 2^32. -/
theorem combElem_int32_sum {a b : Nat} (ha : a < 2 ^ 32) (hb : b < 2 ^ 32) : combElem 0 10 a b = (a + b) % 2 ^ 32 := by
  have hsum : combElem 0 10 a b = wrapInt 32 (signedOf 32 a + signedOf 32 b) := rfl
  have hsigned : ∀ n, n < 2 ^ 32 → signedOf 32 n % (2 ^ 32 : Nat) = n := fun n hn => by
    unfold signedOf
    split <;> omega
  have hmod : (signedOf 32 a + signedOf 32 b) % (2 ^ 32 : Nat) = ((a + b) % 2 ^ 32 : Nat) := by
    have hsa := hsigned a ha
    have hsb := hsigned b hb
    omega
  rw [hsum, wrapInt, hmod, Int.toNat_natCast]

/-- Settles O42: by the rules above, one for each act on a graph, an op, a chunk or a tree. -/
theorem collectiveEngines : Obligations.CollectiveEngines := by
  intro s
  refine ⟨fun vr slot r h trees ops hslot hr => exec_graphLoad_spec hslot hr, fun c x hc hx => ⟨fun hst hlive hfirst => ?_, fun h => ?_,
    fun op => exec_collOpStart_idle hc hx, fun op hst hlive hstart hfetch => ⟨fun hkind => ?_, fun huniq hkind => ?_⟩,
    fun op => exec_collOpComplete_idle hc hx, fun op hst hlive hending haway => ?_, fun op hst hlive hending hop hrun => ⟨fun hmore => ?_,
    fun hlast got hgot => ⟨fun hend => ⟨fun hothers => ?_, fun hmore => ?_⟩, fun hwait => ?_, fun hkind hrec hstaged hhas hsent => ?_⟩⟩⟩,
    fun f slot bytes r c hcrc hseq hr hplace hoff hcmds hchunk => ?_, fun f slot bytes hcrc => ?_,
    fun f slot bytes hr => exec_collectiveChunk_onward slot bytes hr, fun key level k t ht => ⟨fun bs gone hready => ?_,
    fun i hcnt hi hnone => exec_treeNodeCombine_waits ht hcnt hi (TreeSt.node?_none hnone), fun bs hcnt hbs hsame => ?_⟩,
    fun a b => combElem_int32_sum⟩
  · exact exec_collectiveCommand_first hx hc hst hlive hfirst
  · rw [exec_collectiveCommand_eq hx hc, State.startAndFetch_idle h]
  · rw [exec_collOpStart_ready hc hx hst hlive hstart hfetch, State.startOp_local hkind]
    rfl
  · by_cases hreduce : opKind (x.op op) = 2
    · obtain ⟨t, c', y, bs, m, hexec, hc', hy, hrun, hsends, hleaf⟩ := exec_collOpStart_leaf hc hx hst hlive hstart hfetch hreduce
      exact ⟨t, c', y, bs, m, hexec, hc', hy, hrun, hsends.length, hsends.le, hsends.all, hsends.reads, fun hne => absurd hreduce hne,
        fun _ r hr => ⟨x.treeDesc op, x.leafKey r.job op m, rfl, rfl, hleaf r hr⟩⟩
    · have hchunk : opKind (x.op op) = 0 ∨ opKind (x.op op) = 5 := by simpa [hreduce] using hkind
      obtain ⟨t, c', y, bs, m, hexec, hc', hy, hrun, hsends, hhere, haway⟩ :=
        exec_collOpStart_chunk hc hx hst hlive hstart hfetch huniq hchunk
      exact ⟨t, c', y, bs, m, hexec, hc', hy, hrun, hsends.length, hsends.le, hsends.all, hsends.reads,
        fun _ => ⟨x.chunk c.by'.vr op bs, rfl, hhere, haway⟩, fun h => absurd h hreduce⟩
  · exact ⟨exec_collOpComplete_finish hc hx hst hlive hending haway, State.cmd?_retireCmd s c c.wrote⟩
  · exact exec_collOpComplete_moves hc hx hst hlive hending hrun hop hmore
  · rw [hgot] at hend
    exact exec_collOpComplete_last hc hx hst hlive hending hrun hop hlast hend hothers
  · rw [hgot] at hend
    exact exec_collOpComplete_next hc hx hst hlive hending hrun hop hlast hend hmore
  · have hno : got = false ↔ ¬ s.HasChunk c x op := by
      rw [← Bool.not_eq_true, hgot]
      exact Iff.rfl
    rw [hno] at hwait
    rw [exec_collOpComplete_run hc hx hst hlive hending hrun hlast, State.runOp_waits hwait]
  · obtain ⟨c', y, hc', hy, hreceived, hruns⟩ := State.runOp_receives hc hop hkind hrec hstaged (hgot.mp hhas) hsent
    exact ⟨_, c', y, exec_collOpComplete_run hc hx hst hlive hending hrun hlast, hc', hy, hreceived, hruns.trans hrun⟩
  · obtain ⟨t, hexec, hland⟩ := exec_collectiveChunk_lands slot bytes hcrc hseq hr hplace hoff hcmds
    exact ⟨t, _, hexec, hland, hchunk ▸ rfl⟩
  · rw [exec_collectiveChunk_eq, State.recvFrame_bad hcrc]
  · obtain ⟨a, b, hlt, rfl, ha, hb, hcomb⟩ | ⟨hodd, hk, rfl, hbs⟩ := hready
    · obtain ⟨n, hexec⟩ := exec_treeNodeCombine_pair ht hlt (TreeSt.node?_some ha) (TreeSt.node?_some hb) hcomb
      obtain ⟨t', hraise⟩ := State.raise_spec (s := s.freeAt n) (level := level) (k := k) ht [2 * k, 2 * k + 1] bs
      exact ⟨_, t', hexec, hraise⟩
    · obtain ⟨t', hraise⟩ := State.raise_spec (level := level) (k := k) ht [2 * k] bs
      exact ⟨_, t', exec_treeNodeCombine_odd ht hodd hk (TreeSt.node?_some hbs), hraise⟩
  · have hkey : t.key = key := by simpa using List.find?_some ht
    refine ⟨_, exec_treeNodeCombine_top ht hcnt (TreeSt.node?_some hbs), fun x hx => ?_, fun v r hv hr hplace hcmds => ?_, fun hkind => ?_⟩
    · rw [State.trees_deliverTree hsame] at hx
      simpa using (List.mem_filter.mp hx).2
    · subst hkey
      exact ⟨_, State.rank?_deliverTree (s := { s with trees := s.trees.filter fun x => x.key != t.key }) hsame bs hv hr hplace
        (State.vr_notMem_of_forall_ne hcmds), rfl⟩
    · rw [State.deliverTree_shard hsame bs hkind, hkey]

end Sys2Proof.Machine

/-! ### A gang that a trap ends (12 R301, 14 R351) -/

namespace Sys2Proof.Machine

theorem Rank.retireGang_keeps (r : Rank) (l : LaunchRec) (abandoned : Bool) :
    (r.retireGang l abandoned).vr = r.vr ∧ (r.retireGang l abandoned).gangs = r.gangs := by
  unfold Rank.retireGang Rank.retireRecord
  split
  · split
    · exact ⟨rfl, rfl⟩
    · split <;> exact ⟨rfl, rfl⟩
  · exact ⟨rfl, rfl⟩

theorem Rank.gang?_retireGang (r : Rank) (l : LaunchRec) (abandoned : Bool) (g : Nat) :
    (r.retireGang l abandoned).gang? g = r.gang? g := by
  rw [Rank.gang?, (r.retireGang_keeps l abandoned).2, Rank.gang?]

theorem Rank.gang?_dropGang_self (r : Rank) (g : Nat) : (r.dropGang g).gang? g = none := by
  simp [Rank.gang?, Rank.dropGang]

theorem Rank.gang?_dropGang_none {r : Rank} {g : Nat} (h : r.gang? g = none) (k : Nat) : (r.dropGang k).gang? g = none := by
  rw [Rank.gang?, List.find?_eq_none] at h ⊢
  exact fun x hx => h x (List.mem_filter.mp hx).1

/-- A change of gangs that keeps their numbers makes none of a number that there was not. -/
theorem find?_mapGangs_none {l : List Gang} {f : Gang → Gang} {g : Nat} (hid : ∀ x, (f x).id = x.id)
    (h : l.find? (fun x => x.id == g) = none) : (l.map f).find? (fun x => x.id == g) = none := by
  rw [List.find?_eq_none] at h ⊢
  intro x hx
  obtain ⟨y, hy, rfl⟩ := List.mem_map.mp hx
  rw [hid]
  exact h y hy

theorem Rank.gang?_markReady_none {r : Rank} {g : Nat} (h : r.gang? g = none) : r.markReady.gang? g = none :=
  find?_mapGangs_none (fun x => by split <;> rfl) h

/-- Resolving dependences only discards gangs (14 R341). -/
theorem Rank.gang?_settle_none {g : Nat} (n : Nat) {r : Rank} (h : r.gang? g = none) : (r.settle n).gang? g = none := by
  induction n generalizing r with
  | zero => exact Rank.gang?_markReady_none h
  | succ n ih =>
    have hready := Rank.gang?_markReady_none h
    simp only [Rank.settle]
    split
    · exact hready
    · exact ih ((Rank.gang?_retireGang _ _ _ g).trans (Rank.gang?_dropGang_none hready _))

@[simp] theorem Rank.settle_vr (n : Nat) (r : Rank) : (r.settle n).vr = r.vr := by
  induction n generalizing r with
  | zero => rfl
  | succ n ih =>
    simp only [Rank.settle]
    split
    · rfl
    · rw [ih, (Rank.retireGang_keeps _ _ _).1]
      rfl

@[simp] theorem State.notify_ranks (s : State) (n : BitVec 1024) : (s.notify n).ranks = s.ranks := by
  unfold State.notify
  split <;> rfl

theorem State.gang?_congr {s t : State} (h : t.ranks = s.ranks) (vr g : Nat) : t.gang? vr g = s.gang? vr g := by
  rw [State.gang?, State.rank?_congr h, State.gang?]

/-- A change of a rank that leaves it without a gang. -/
theorem State.gang?_modRank_none (s : State) {vr g : Nat} {f : Rank → Rank} (hvr : ∀ r, (f r).vr = r.vr)
    (hgone : ∀ r, s.rank? vr = some r → (f r).gang? g = none) : (s.modRank vr f).gang? vr g = none := by
  rw [State.gang?, State.rank?_modRank s vr vr f hvr]
  cases hr : s.rank? vr with
  | none => rfl
  | some r => simpa using hgone r hr

theorem State.gang?_schedFault_none {s : State} {vr g : Nat} (h : s.gang? vr g = none) (why : Nat) :
    (s.schedFault vr why).gang? vr g = none := by
  unfold State.schedFault
  split
  · exact h
  next r hr =>
    rw [State.gang?_congr (State.notify_ranks _ _)]
    refine State.gang?_modRank_none s (fun r => Rank.settle_vr _ _) fun r' hr' => Rank.gang?_settle_none _ ?_
    rw [State.gang?, hr', Option.bind_some] at h
    exact find?_mapGangs_none (fun x => by split <;> rfl) h

/-- A gang that has ended is no longer in its rank (14 R351). -/
theorem State.gang?_endGang (s : State) (vr g : Nat) : (s.endGang vr g).gang? vr g = none := by
  unfold State.endGang
  split
  next h => exact h
  next x h =>
    have hgone : ∀ t : State, (t.modRank vr fun r => ((r.dropGang g).retireGang x.launch true).settleAll).gang? vr g = none := fun t =>
      t.gang?_modRank_none (fun r => (Rank.settle_vr _ _).trans (Rank.retireGang_keeps _ _ _).1) fun r _ =>
        Rank.gang?_settle_none _ ((Rank.gang?_retireGang _ _ _ g).trans (r.gang?_dropGang_self g))
    dsimp only
    split
    · exact State.gang?_schedFault_none (hgone _) 5
    · exact hgone _

theorem State.gang?_killNotice (s : State) (r : SRef) (kind : Nat) (b : TrapBank) :
    (s.killNotice r kind b).gang? r.vr r.gang = none := by
  unfold State.killNotice
  split
  next h => exact h
  next g h => exact (State.gang?_congr (State.notify_ranks _ _) _ _).trans (State.gang?_endGang _ _ _)

/-- Trap entry at level 2, or with no vector base, ends the gang (12 R301). -/
theorem State.gang?_trapEntry {s : State} {r : SRef} {st : Strand} (h : s.strand? r = some st) (hend : st.tlevel = 2 ∨ st.tvec = 0)
    (cause : Nat) (val : Word) (detail src z : Nat) (ret : Word) :
    (s.trapEntry r cause val detail src z ret).gang? r.vr r.gang = none := by
  unfold State.trapEntry
  rw [h]
  dsimp only
  split
  · exact State.gang?_killNotice _ r 1 _
  · rw [if_pos (hend.resolve_left ‹_›)]
    exact State.gang?_killNotice _ r 2 _

/-! ### TRAP and TRET (12 R301, R305) -/

/-- The bank that a synchronous trap writes (12 R300). -/
def Strand.trapBank (st : Strand) (cause : Nat) (val ret : Word) (detail : Nat) : TrapBank :=
  { tpc := ret, tcause := BitVec.ofNat 64 cause, tval := val,
    tstat := BitVec.ofNat 64 (detail * 256 + (if st.chain.isSome then 32 else 0)) }

/-- A strand that has entered a handler with a bank (12 R301). -/
def Strand.entered (cause : Nat) (b : TrapBank) (q : Strand) : Strand :=
  { q with bank1 := (if q.tlevel = 0 then b else q.bank1), bank2 := (if q.tlevel = 0 then q.bank2 else b),
           tlevel := q.tlevel + 1, pc := q.tvec + BitVec.ofNat 64 (64 * cause), wait := none, waited := 0, waitiLeft := 0,
           ext := none }

section
variable {s : State} {st : Strand} (hs : s.strand? s.cur = some st)
include hs

theorem State.trapEntry_enters (hl : st.tlevel ≠ 2) (hv : st.tvec ≠ 0) (cause : Nat) (val ret : Word) (detail : Nat) :
    s.trapEntry s.cur cause val detail 0 0 ret =
      ({ s with trapped := true } : State).modStrand s.cur (Strand.entered cause (st.trapBank cause val ret detail)) := by
  rw [State.trapEntry_eq hs hl hv]
  congr 1
  funext q
  have hstat : tstatOf detail 0 0 st.chain.isSome = BitVec.ofNat 64 (detail * 256 + (if st.chain.isSome then 32 else 0)) := by
    simp [tstatOf]
  by_cases h0 : q.tlevel = 0 <;> simp [Strand.entered, Strand.trapBank, h0, hstat]

theorem exec_trap_eq (n : BitVec 12) : exec (.trap n) s = .next (s.trapEntry s.cur 0xE (BitVec.ofNat 64 n.toNat) 0 0 0 (st.pc + 4)) := by
  rw [exec_trap, execTrap, State.acting_eq hs, BitVec.ofNat_toNat]

theorem exec_tret_eq : exec .tret s =
    .next (if st.tlevel = 0 then s.trap st 1 (s.wordVal .tret) else s.modStrand s.cur fun _ => st.trapReturn) := State.acting_eq hs _

end

/-- Settles O12: trap entry below level 2 with a vector base, the end of the gang without, and TRET at each level. -/
theorem trapEntryAndReturn : Obligations.TrapEntryAndReturn := by
  intro s st hs enter
  refine ⟨fun hl hv => ⟨fun n => ?_, fun cause val detail => State.trapEntry_enters hs hl hv cause val st.pc detail⟩,
    fun hend n => ⟨_, exec_trap_eq hs n, State.gang?_trapEntry hs hend _ _ _ _ _ _⟩, fun h => ?_, fun h => ?_, fun h => ?_⟩
  · rw [exec_trap_eq hs, State.trapEntry_enters hs hl hv]
    rfl
  · rw [exec_tret_eq hs, if_pos h]
  · rw [exec_tret_eq hs, if_neg (by omega), Strand.trapReturn, if_pos h, h]
  · rw [exec_tret_eq hs, if_neg (by omega), Strand.trapReturn, if_neg (by omega), h]

end Sys2Proof.Machine

/-! ### ASYNC_TRAP (12 R307) -/

namespace Sys2Proof.Machine

theorem Strand.atBoundary_iff (st : Strand) : st.atBoundary = true ↔
    st.wait = none ∨ st.wait = some .waiti ∨ (∃ n, st.wait = some (.queue n)) ∨ (∃ n b, st.wait = some (.ring n b)) ∨
      (∃ n, st.wait = some (.rendezvous n)) ∨ (∃ n, st.wait = some (.join n)) ∨ ∃ n, st.wait = some (.allowance n) := by
  unfold Strand.atBoundary
  cases st.wait with
  | none => simp
  | some w => cases w <;> simp

/-- What the release does for a CSAVE that holds, by the condition of its gang, where there is one (12 R297). -/
def State.csaveRelease (s : State) (r : SRef) (st : Strand) (d : XReg) (q : Rank) : Option GCond → State
  | some (.halting _ _) => s
  | some (.saved slot _ _) => ({ s with cur := r } : State).retire (st.wx d (BitVec.ofNat 64 (q.slotAddr slot)))
  | _ => ({ s with cur := r } : State).retire (st.wx d 2)

section
variable {s : State} {r : SRef} {st : Strand} (hs : s.strand? r = some st)
include hs

theorem exec_asyncTrap_takes (hl : st.tlevel = 0) (hend : st.ended = false) (hb : st.atBoundary = true) {a : AsyncTrap}
    (ha : st.nextAsync = some a) : exec (.asyncTrap r) s =
      .next ((s.modStrand r fun q => { q with asyncs := q.asyncs.erase a }).trapEntry r a.cause a.tval a.detail a.src a.zidx st.pc) := by
  simp [exec_asyncTrap, execAsyncTrap, hs, hl, hend, hb, ha]

theorem exec_asyncTrap_idle (h : st.tlevel ≠ 0 ∨ st.ended = true ∨ st.atBoundary = false ∨ st.nextAsync = none) :
    exec (.asyncTrap r) s = .next s := by
  rw [exec_asyncTrap, execAsyncTrap, hs]
  dsimp only
  split
  · rfl
  next hgo =>
    simp only [not_or, not_not, Bool.not_eq_true'] at hgo
    obtain ⟨hl, hend, hb⟩ := hgo
    have hnone : st.nextAsync = none := by simpa [hl, hend, hb] using h
    rw [hnone]

/-! ### STRAND_WAIT_RELEASE (07 R197) -/

theorem exec_strandWaitRelease_none (h : st.wait = none) : exec (.strandWaitRelease r) s = .next s := by
  rw [exec_strandWaitRelease, execStrandWaitRelease, hs]
  cases hk : s.core? r <;> simp [h]

variable {k : Core} (hk : s.core? r = some k)
include hk

theorem exec_strandWaitRelease_flush {v : Word} (h : st.wait = some (.flush v)) :
    exec (.strandWaitRelease r) s = .next (({ s with cur := r, l2ctl := v } : State).retire st) := by
  simp [exec_strandWaitRelease, execStrandWaitRelease, hs, hk, h]

theorem exec_strandWaitRelease_drain {d : XReg} {v : Word} {ids : List Nat} (h : st.wait = some (.drain d v ids)) :
    exec (.strandWaitRelease r) s = .next (if ids.any fun id => (s.access? id).isSome then s
      else ({ s with cur := r } : State).retire (st.wx d v)) := by
  simp [exec_strandWaitRelease, execStrandWaitRelease, hs, hk, h]

theorem exec_strandWaitRelease_object {w : Wait} (h : st.wait = some w) (hcsave : ∀ d g, w ≠ .csave d g)
    (hdrain : ∀ d v ids, w ≠ .drain d v ids) (hflush : ∀ v, w ≠ .flush v) : exec (.strandWaitRelease r) s =
      .next (if s.waitReady r st k w then s.modStrand r fun q => { q with wait := none } else s) := by
  rw [exec_strandWaitRelease, execStrandWaitRelease, hs, hk]
  cases w with
  | csave d g => exact absurd rfl (hcsave d g)
  | drain d v ids => exact absurd rfl (hdrain d v ids)
  | flush v => exact absurd rfl (hflush v)
  | _ => simp [h]

theorem exec_strandWaitRelease_csave {d : XReg} {g : Nat} (h : st.wait = some (.csave d g)) {q : Rank}
    (hq : s.rank? st.selvr.toNat = some q) :
    exec (.strandWaitRelease r) s = .next (s.csaveRelease r st d q ((q.gang? g).map Gang.cond)) := by
  simp only [exec_strandWaitRelease, execStrandWaitRelease, hs, hk, h, Strand.selected, hq, Option.bind_some]
  cases q.gang? g with
  | none => rfl
  | some x => cases hx : x.cond <;> simp [hx, State.csaveRelease]

end

/-- Settles O26: ASYNC_TRAP by the boundary and the next pending trap, STRAND_WAIT_RELEASE by the kind of the wait. -/
theorem asyncTrapsAndWaitRelease : Obligations.AsyncTrapsAndWaitRelease := by
  intro s r st k hs hk between
  have hbetween : st.atBoundary = true ↔ between := st.atBoundary_iff
  refine ⟨fun hl hend hb a ha => exec_asyncTrap_takes hs hl hend (hbetween.mpr hb) ha,
    fun h => exec_asyncTrap_idle hs (by rwa [← hbetween, Bool.not_eq_true] at h), exec_strandWaitRelease_none hs,
    fun v => exec_strandWaitRelease_flush hs hk, fun d g hwait q hq => ?_, fun w => exec_strandWaitRelease_object hs hk, fun d v ids hwait => ?_⟩
  · rw [exec_strandWaitRelease_csave hs hk hwait hq]
    refine ⟨fun x frame why hx hc => ?_, fun x n why b hx hc => ?_, fun hno => ?_⟩
    · simp [hx, hc, State.csaveRelease]
    · simp [hx, hc, State.csaveRelease]
    · cases hx : q.gang? g with
      | none => rfl
      | some x => obtain hc | hc | hc | hc := hno x hx <;> simp [hc, State.csaveRelease]
  · rw [exec_strandWaitRelease_drain hs hk hwait]
    refine ⟨fun hdone => ?_, fun hleft => ?_⟩
    · rw [if_neg (by simpa [Option.isNone_iff_eq_none] using hdone)]
    · rw [if_pos (by simpa using hleft)]

end Sys2Proof.Machine

/-! ### SYS instructions at supervisor privilege, and the selected rank (12 R289, R295; 15 R378) -/

namespace Sys2Proof.Machine

/-- Whether the acting strand reaches a rank: it is fallow, or resident in the strand's partition (12 R295). -/
def State.InReach (s : State) (r : Rank) : Prop := r.place = .fallow ∨ ∃ k, r.place = .resident k ∧ s.partOf k = s.partOfRank s.cur.vr

section
variable {s : State} {st : Strand}

theorem State.asSup_of_sup (hs : s.strand? s.cur = some st) (hsup : st.sup = true) (i : Instr) (f : Strand → State) :
    s.asSup i f = .next (f st) := by
  rw [State.asSup, State.acting_eq hs, if_pos hsup]

theorem State.asSysReg_of_sup (hs : s.strand? s.cur = some st) (hsup : st.sup = true) {n : Nat} (h : sysListed n = true) (i : Instr)
    (f : Strand → State) : s.asSysReg i n f = .next (f st) := by
  rw [State.asSysReg, if_pos h, State.asSup_of_sup hs hsup]

theorem State.onSelected_none (hr : s.rank? st.selvr.toNat = none) (hgone : s.inTransit st.selvr.toNat = false) (i : Instr)
    (f : Rank → State) : s.onSelected st i f = s.trap st 1 (s.wordVal i) := by
  simp [State.onSelected, Strand.selected, hr, hgone, State.illop]

variable {r : Rank} (hr : s.rank? st.selvr.toNat = some r)
include hr

theorem State.onSelected_transit (h : s.inTransit r.vr = true) (i : Instr) (f : Rank → State) :
    s.onSelected st i f = s.hold (.transit r.vr) := by
  simp [State.onSelected, Strand.selected, hr, h]

theorem State.onSelected_inReach (h : s.inTransit r.vr = false) (hreach : s.InReach r) (i : Instr) (f : Rank → State) :
    s.onSelected st i f = f r := by
  obtain hp | ⟨k, hp, hk⟩ := hreach
  · simp [State.onSelected, Strand.selected, hr, h, hp]
  · simp [State.onSelected, Strand.selected, hr, h, hp, hk]

theorem State.onSelected_elsewhere (h : s.inTransit r.vr = false) {k : Nat} (hp : r.place = .resident k)
    (hk : s.partOf k ≠ s.partOfRank s.cur.vr) (i : Instr) (f : Rank → State) : s.onSelected st i f = s.trap st 2 (s.wordVal i) := by
  simp [State.onSelected, Strand.selected, hr, h, hp, hk, State.priv]

end

/-! ### RDSYS (12 R295) -/

/-- The indices of the registers of scope Rank (12 R295). -/
def rankScope (n : Nat) : Prop := (0x041 ≤ n ∧ n < 0x048) ∨ (0x050 ≤ n ∧ n < 0x060)

theorem rankScope.low {n : Nat} (h : rankScope n) : 0x013 ≤ n := by
  unfold rankScope at h
  omega

theorem sysListed_of_rankScope {n : Nat} (h : rankScope n) : sysListed n = true := by
  unfold rankScope at h
  rw [sysListed_iff]
  omega

/-- From 0x013 on no register is of scope package, strand or partition (12 R295). -/
theorem State.sysReg_eq_none (s : State) (st : Strand) {n : Nat} (h : 0x013 ≤ n) : s.sysReg st n = none := by
  unfold State.sysReg State.pkgReg
  split
  iterate 3 · omega
  · split
    iterate 7 · omega
    · rfl

theorem Rank.sysReg_wtbl (r : Rank) {n : Nat} (h : n < 16) : r.sysReg (0x050 + n) = some (r.wtbl[n]?.getD 0) := by
  unfold Rank.sysReg
  split
  iterate 7 · omega
  · rw [if_pos (by omega), Nat.add_sub_cancel_left]

section
variable {s : State} {st : Strand} (hs : s.strand? s.cur = some st) (hsup : st.sup = true) (d : XReg)
include hs hsup

theorem exec_rdsys_of_some {i : BitVec 11} {v : Word} (hl : sysListed i.toNat = true) (h : s.sysReg st i.toNat = some v) :
    exec (.rdsys d i) s = .next (s.retire (st.wx d v)) := by
  rw [exec_rdsys, execRdsys, State.asSysReg_of_sup hs hsup hl, h]

theorem exec_rdsys_slotvr : exec (.rdsys d 0x020) s = .next (
    if s.partOf st.selslot.toNat = s.partOfRank s.cur.vr then s.retire (st.wx d (s.slotvr st.selslot.toNat))
    else s.trap st 2 (s.wordVal (.rdsys d 0x020))) := by
  rw [exec_rdsys, execRdsys, State.asSysReg_of_sup hs hsup (by decide), State.sysReg_eq_none s st (by decide)]
  exact congrArg _ (if_pos rfl)

theorem exec_rdsys_rank {i : BitVec 11} (h : rankScope i.toNat) : exec (.rdsys d i) s =
    .next (s.onSelected st (.rdsys d i) fun r => s.retire (st.wx d ((r.sysReg i.toNat).getD 0))) := by
  have hno : i ≠ 0x020 := by
    rintro rfl
    exact absurd h (by unfold rankScope; decide)
  rw [exec_rdsys, execRdsys, State.asSysReg_of_sup hs hsup (sysListed_of_rankScope h), State.sysReg_eq_none s st h.low]
  dsimp only
  rw [if_neg hno]
  exact congrArg _ (if_pos h)

end

/-- Settles O30: the registers of package, strand and partition, SLOTVR, and those of the selected rank by where it is. -/
theorem systemRegisterReads : Obligations.SystemRegisterReads := by
  intro s st d hs hsup
  refine ⟨fun i v hv => ?_, fun h => ?_, fun h => ?_, fun r hr i v hv => ?_, fun hr hgone i hi => ?_⟩
  · simp only [List.mem_cons, Prod.mk.injEq, List.not_mem_nil, or_false] at hv
    have hreg : sysListed i.toNat = true ∧ s.sysReg st i.toNat = some v := by
      obtain ⟨hi, rfl⟩ | ⟨hi, rfl⟩ | ⟨hi, rfl⟩ | ⟨hi, rfl⟩ | ⟨hi, rfl⟩ | ⟨hi, rfl⟩ | ⟨hi, rfl⟩ | ⟨hi, rfl⟩ |
          ⟨hi, rfl⟩ | ⟨hi, rfl⟩ := hv <;>
        exact hi ▸ ⟨by decide, rfl⟩
    exact exec_rdsys_of_some hs hsup d hreg.1 hreg.2
  · rw [exec_rdsys_slotvr hs hsup, if_pos h]
    rfl
  · rw [exec_rdsys_slotvr hs hsup, if_neg h]
  · have hreg : rankScope i.toNat ∧ r.sysReg i.toNat = some v := by
      obtain hv | ⟨n, hn, hi, rfl⟩ := hv
      · simp only [List.mem_cons, Prod.mk.injEq, List.not_mem_nil, or_false] at hv
        obtain ⟨hi, rfl⟩ | ⟨hi, rfl⟩ | ⟨hi, rfl⟩ | ⟨hi, rfl⟩ | ⟨hi, rfl⟩ | ⟨hi, rfl⟩ | ⟨hi, rfl⟩ := hv <;>
          exact hi ▸ ⟨by unfold rankScope; decide, rfl⟩
      · exact hi ▸ ⟨.inr (by omega), r.sysReg_wtbl hn⟩
    obtain ⟨hscope, hval⟩ := hreg
    rw [exec_rdsys_rank hs hsup d hscope]
    refine ⟨fun hhere hreach => ?_, fun hhere k hp hk => ?_, fun haway => ?_⟩
    · rw [State.onSelected_inReach hr hhere hreach, hval, Option.getD_some]
    · rw [State.onSelected_elsewhere hr hhere hp hk]
    · rw [State.onSelected_transit hr haway, State.hold]
  · rw [exec_rdsys_rank hs hsup d hi, State.onSelected_none hr hgone]

end Sys2Proof.Machine

/-! ### WRSYS (12 R295) -/

namespace Sys2Proof.Machine

/-- The registers that WRSYS writes and that have no row of their own (12 R295). -/
def plainSys : List Nat := [0x001, 0x002, 0x011, 0x043, 0x044]

/-- Which values NRING takes: no reserved bit, and LOGN 0 or 4 to 15 (12 R299). -/
theorem nringBad_eq_false_iff (v : Word) : nringBad v = false ↔
    v.toNat / 32 % 128 = 0 ∧ (v.toNat % 32 = 0 ∨ (4 ≤ v.toNat % 32 ∧ v.toNat % 32 < 16)) := by
  simp only [nringBad, bitsAt_eq, Bool.or_eq_false_iff, bne_eq_false_iff_eq, Bool.and_eq_false_iff, decide_eq_false_iff_not]
  omega

theorem bitAt_zero_eq_false_iff (v : Word) : bitAt v 0 = false ↔ v.toNat % 2 = 0 := by
  simp [bitAt, BitVec.getLsbD, Nat.testBit_zero]

/-- Which values L2CTL takes: no reserved bit, and OPEN only in a package of one partition (12 R291, R293). -/
theorem State.l2ctlBad_eq_false {s : State} {v : Word} (hlow : v.toNat < 4) (hmode : v.toNat % 2 = 0 ∨ s.onePartition = true) :
    s.l2ctlBad v = false := by
  have hhigh : bitsAt v 2 62 = 0 := (bitsAt_high_eq_zero_iff v (by decide)).mpr hlow
  rw [State.l2ctlBad, hhigh, Bool.or_eq_false_iff, Bool.and_eq_false_iff, bitAt_zero_eq_false_iff, Bool.not_eq_false']
  exact ⟨rfl, hmode⟩

section
variable {s : State} {st : Strand} (hs : s.strand? s.cur = some st) (hsup : st.sup = true) (a : XReg)
include hs hsup

theorem exec_wrsys_selvr : exec (.wrsys a 0x001) s = .next (if (st.rx a).toNat < 2 ^ 24 then
    s.retire { st with selvr := (st.rx a).setWidth 24 } else s.trap st 1 (s.wordVal (.wrsys a 0x001))) := by
  rw [exec_wrsys, execWrsys, State.asSysReg_of_sup hs hsup (by decide)]
  simp only [← bitsAt_high_eq_zero_iff (st.rx a) (show 24 + 40 = 64 from rfl)]
  rfl

theorem exec_wrsys_selslot : exec (.wrsys a 0x002) s = .next (if (st.rx a).toNat < 16 then
    s.retire { st with selslot := (st.rx a).setWidth 4 } else s.trap st 1 (s.wordVal (.wrsys a 0x002))) := by
  rw [exec_wrsys, execWrsys, State.asSysReg_of_sup hs hsup (by decide)]
  simp only [show (16 : Nat) = 2 ^ 4 from rfl, ← bitsAt_high_eq_zero_iff (st.rx a) (show 4 + 60 = 64 from rfl)]
  rfl

theorem exec_wrsys_nhead : exec (.wrsys a 0x011) s = .next (if (st.rx a).toNat < 2 ^ 16 then
    ({ s with nhead := (st.rx a).setWidth 16 } : State).retire st else s.trap st 1 (s.wordVal (.wrsys a 0x011))) := by
  rw [exec_wrsys, execWrsys, State.asSysReg_of_sup hs hsup (by decide)]
  simp only [← bitsAt_high_eq_zero_iff (st.rx a) (show 16 + 48 = 64 from rfl)]
  rfl

theorem exec_wrsys_engways : exec (.wrsys a 0x043) s = .next (s.onSelected st (.wrsys a 0x043) fun r =>
    if bitsAt (st.rx a) 16 48 = 0 then (s.modRank r.vr fun r => { r with engways := st.rx a }).retire st
    else s.trap st 1 (s.wordVal (.wrsys a 0x043))) := by
  rw [exec_wrsys, execWrsys, State.asSysReg_of_sup hs hsup (by decide)]
  rfl

theorem exec_wrsys_jobseed : exec (.wrsys a 0x044) s = .next (s.onSelected st (.wrsys a 0x044) fun r =>
    (s.modRank r.vr fun r => { r with jobseed := st.rx a }).retire st) := by
  rw [exec_wrsys, execWrsys, State.asSysReg_of_sup hs hsup (by decide)]
  rfl

/-- A register that is read-only, has a row of its own, or is not of the table. -/
theorem exec_wrsys_other {i : BitVec 11} (h : i.toNat ∉ plainSys) :
    exec (.wrsys a i) s = .next (s.trap st 1 (s.wordVal (.wrsys a i))) := by
  rw [exec_wrsys, execWrsys]
  cases hl : sysListed i.toNat with
  | false => exact State.asSysReg_of_unlisted hs hl _ _
  | true =>
    rw [State.asSysReg_of_sup hs hsup hl]
    dsimp only
    split
    iterate 5 next hi => exact absurd (hi ▸ by decide) h
    · rfl

theorem exec_nringWrite_eq : exec (.nringWrite a) s = .next (if nringBad (st.rx a) then s.trap st 1 (s.wordVal (.nringWrite a))
    else ({ s with nring := st.rx a } : State).retire st) := State.asSup_of_sup hs hsup _ _

theorem exec_l2ctlWrite_legal (h : s.l2ctlBad (st.rx a) = false) : exec (.l2ctlWrite a) s = .next (
    if st.rx a = s.l2ctl then s.retire st
    else if s.busyPackage (some (s.cur.vr, s.cur.gang)) then s.trap st 1 (s.wordVal (.l2ctlWrite a))
    else s.hold (.flush (st.rx a))) := by
  rw [exec_l2ctlWrite, execL2ctlWrite, State.asSup_of_sup hs hsup]
  simp only [h]
  rfl

variable {r : Rank} (hr : s.rank? st.selvr.toNat = some r) (hhere : s.inTransit r.vr = false) (hreach : s.InReach r)
include hr hhere hreach

theorem exec_frpoolWrite_eq : exec (.frpoolWrite a) s = .next (if r.frpoolBad (st.rx a) then s.trap st 1 (s.wordVal (.frpoolWrite a))
    else (s.modRank r.vr fun r => { r with frpool := st.rx a }).retire st) := by
  rw [exec_frpoolWrite, execFrpoolWrite, State.asSup_of_sup hs hsup, State.onSelected_inReach hr hhere hreach]
  rfl

theorem exec_stepholdWrite_legal (h : (st.rx a).toNat < 2) :
    exec (.stepholdWrite a) s = .next ((s.setHold r ((st.rx a).getLsbD 0)).retire st) := by
  rw [exec_stepholdWrite, execStepholdWrite, State.asSup_of_sup hs hsup, State.onSelected_inReach hr hhere hreach]
  dsimp only
  rw [if_neg (by simpa using (bitsAt_high_eq_zero_iff (st.rx a) (show 1 + 63 = 64 from rfl)).mpr h)]
  rfl

theorem exec_wtblWrite_bad {n : BitVec 4} (h : s.wtblBad r (st.rx a) = true) :
    exec (.wtblWrite a n) s = .next (s.trap st 1 (s.wordVal (.wtblWrite a n))) := by
  rw [exec_wtblWrite, execWtblWrite, State.asSup_of_sup hs hsup, State.onSelected_inReach hr hhere hreach]
  dsimp only
  rw [if_pos h]
  rfl

theorem exec_wtblWrite_idle {n : BitVec 4} (h : s.wtblBad r (st.rx a) = false) (hidle : r.walOut[n.toNat]?.getD 0 = 0) :
    exec (.wtblWrite a n) s = .next ((s.modRank r.vr fun r => r.setWtbl n.toNat (st.rx a)).retire st) := by
  rw [exec_wtblWrite, execWtblWrite, State.asSup_of_sup hs hsup, State.onSelected_inReach hr hhere hreach]
  dsimp only
  rw [if_neg (by simp [h]), if_neg (not_not.mpr hidle)]

end

/-- FRPOOL takes a value without reserved bits while no frame slot is occupied (12 R296). -/
theorem Rank.frpoolBad_eq_false_iff (r : Rank) (v : Word) : r.frpoolBad v = false ↔ v.toNat / 2 ^ 8 % 2 ^ 20 = 0 ∧ r.frames = [] := by
  simp [Rank.frpoolBad, bitsAt_eq]

/-- Setting HOLD of a rank that has not arrived tells nobody; of one that has, held here, it tells HOLD (15 R372, log entry 2). -/
theorem State.setHold_eq {s : State} {r : Rank} {vr : Nat} (hr : s.rank? vr = some r) (v : Bool) : s.setHold r v =
    if r.stepSt = .arrived then
      { s.modRank r.vr (fun r => { r with stephold := v }) with
        out := s.out ++ [.stepArrival r.job r.vr (v || r.place == .transit)] }
    else s.modRank r.vr fun r => { r with stephold := v } := by
  have hvr := State.vr_of_rank? hr
  subst hvr
  have hrank : (s.modRank r.vr fun r => { r with stephold := v }).rank? r.vr = some { r with stephold := v } :=
    State.rank?_modRank_self hr _
  rw [State.setHold, State.tell, hrank]
  rfl

/-- Settles O31: each register that WRSYS writes, by the checks of its row. -/
theorem systemRegisterWrites : Obligations.SystemRegisterWrites := by
  intro s st a hs hsup v
  refine ⟨exec_wrsys_selvr hs hsup a, exec_wrsys_selslot hs hsup a, exec_wrsys_nhead hs hsup a, fun i hi => exec_wrsys_other hs hsup a hi,
    ?_, fun hlow hmode => ?_, fun r hr hhere hreach => ?_, fun w hwait hcore => ?_⟩
  · rw [exec_nringWrite_eq hs hsup]
    simp only [← nringBad_eq_false_iff]
    cases nringBad v <;> rfl
  · rw [exec_l2ctlWrite_legal hs hsup a (State.l2ctlBad_eq_false hlow hmode)]
    refine ⟨fun h => ?_, fun h hbusy => ?_, fun h hbusy => ?_⟩
    · rw [if_pos h]
    · rw [if_neg h, if_pos hbusy]
    · rw [if_neg h, hbusy]
      rfl
  · intro put
    have hplace : (r.place == RPlace.transit) = false := by
      obtain hp | ⟨k, hp, -⟩ := hreach <;> rw [hp] <;> rfl
    refine ⟨fun hlow => ?_, ?_, fun hlow hfree => ?_, fun hused => ?_, fun hlow hrun => ?_, fun hlow harr => ?_,
      fun n hok hidle => exec_wtblWrite_idle hs hsup a hr hhere hreach hok hidle,
      fun n hbad => exec_wtblWrite_bad hs hsup a hr hhere hreach hbad⟩
    · rw [exec_wrsys_engways hs hsup, State.onSelected_inReach hr hhere hreach,
        if_pos ((bitsAt_high_eq_zero_iff _ (by decide)).mpr hlow)]
    · rw [exec_wrsys_jobseed hs hsup, State.onSelected_inReach hr hhere hreach]
    · rw [exec_frpoolWrite_eq hs hsup a hr hhere hreach, (r.frpoolBad_eq_false_iff _).mpr ⟨hlow, hfree⟩]
      rfl
    · have hbad : r.frpoolBad v = true := by
        rw [← Bool.not_eq_false, r.frpoolBad_eq_false_iff]
        exact fun h => hused h.2
      rw [exec_frpoolWrite_eq hs hsup a hr hhere hreach, if_pos hbad]
    · rw [exec_stepholdWrite_legal hs hsup a hr hhere hreach hlow, State.setHold_eq hr, if_neg (by simp [hrun])]
    · rw [exec_stepholdWrite_legal hs hsup a hr hhere hreach hlow, State.setHold_eq hr, if_pos harr, hplace, Bool.or_false]
  · obtain ⟨k, hk⟩ := Option.isSome_iff_exists.mp hcore
    exact exec_strandWaitRelease_flush hs hk hwait

end Sys2Proof.Machine

/-! ### LDOVF where two ranks bear one VR

LDOVF puts a table in force at once in a rank of which no gang is placed or saved (12 R298). The model changes every rank of the selected
VR and asks this of each of them; the statement asks it once, of the rank that a search finds. In a state with a second rank of the VR
whose gangs do not stand as those of the first, the two differ. No load or migration makes such a state (log entry 7), and a statement
about states whose VRs are distinct would exclude it. -/

namespace Sys2Proof.Machine.SharedVr

/-- A core at the start of its gang whose L is a supervisor's, with the table 1 in x1. -/
def supervisorCore : Core :=
  let core := Core.start firstLaunch 0 0
  { core with l := { core.l.wx 1 1 with sup := true } }

/-- A rank with that core's gang placed, and a rank of the same VR without gangs. -/
def busyRank : Rank := { firstRank with gangs := [{ firstGang with cores := [supervisorCore] }] }
def idleRank : Rank := { firstRank with gangs := [] }

/-- The two ranks in one package, L of the first acting with its own rank selected. -/
def sharedState : State := { State.reset with ranks := [busyRank, idleRank], cur := firstStrand }

/-- The overflow table in force in the second rank of the next state, where there is one. -/
def secondForce : Host.Outcome State Fault Refusal → Option Word
  | .next t => t.ranks[1]?.map Rank.ovfForce
  | _ => none

/-- LDOVF puts the table in force in the rank without gangs. -/
theorem secondForce_ldovf : secondForce (exec (.ldovf 1) sharedState) = some 1 := by decide +kernel

end Sys2Proof.Machine.SharedVr

namespace Sys2Proof.Machine
open SharedVr

/-- Refutes O32: LDOVF need not leave the table in force of every rank of the selected VR as it is where the first of them has a gang
placed. In `sharedState` the first rank has one and the second has none, and LDOVF puts its table in force in the second. -/
theorem not_supervisorInstructions : ¬ Obligations.SupervisorInstructions := by
  intro h
  obtain ⟨hldovf, -⟩ := h sharedState supervisorCore.l 0 1 busyRank (by decide +kernel) rfl (by decide +kernel) (by decide +kernel)
    (.inr ⟨0, rfl, by decide +kernel⟩)
  have hforce := secondForce_ldovf
  rw [hldovf (by decide +kernel)] at hforce
  exact absurd hforce (by decide +kernel)

end Sys2Proof.Machine

/-! ### Shoot-downs of a supervisor's space (12 R290; 13 R323, R325) -/

namespace Sys2Proof.Machine

theorem pageSize_pos (large : Bool) : 0 < pageSize large := by cases large <;> decide

/-- After a shoot-down no valid handle of the space overlaps the range (13 R323). -/
theorem Core.apart_of_shootHandles {k : Core} {sup : Bool} {lo size : Nat} {h : Handle}
    (hmem : h ∈ (k.shootHandles sup lo size).handles.toList) (hsup : h.sup = sup) (hvalid : h.valid = true) :
    h.va + pageSize h.large ≤ lo ∨ lo + size ≤ h.va := by
  simp only [Core.shootHandles, Vector.toList_map, List.mem_map] at hmem
  obtain ⟨x, -, rfl⟩ := hmem
  by_cases hin : x.sup = sup ∧ x.va < lo + size ∧ lo < x.va + pageSize x.large
  · rw [if_pos hin] at hvalid
    exact absurd hvalid Bool.false_ne_true
  · rw [if_neg hin] at hsup ⊢
    have hout : ¬ (x.va < lo + size ∧ lo < x.va + pageSize x.large) := fun h => hin ⟨hsup, h⟩
    omega

theorem Rank.exists_of_mem_modCores {r : Rank} {f : Core → Core} {g : Gang} (hg : g ∈ (r.modCores f).gangs) {k : Core}
    (hk : k ∈ g.cores) : ∃ c, k = f c := by
  obtain ⟨x, -, rfl⟩ := List.mem_map.mp hg
  obtain ⟨c, -, rfl⟩ := List.mem_map.mp hk
  exact ⟨c, rfl⟩

section
variable (s : State) {part : Nat} (lo size : Nat) (v : Word)

theorem State.supgen_shootSup (hp : part < 16) : (s.shootSup part lo size v).supgen[part]? = (s.supgen[part]?).map (· + 1) := by
  simp [State.shootSup, hp]

theorem State.sameMemory_shootSup : s.SameMemory (s.shootSup part lo size v) := State.sameMemory_of_memories rfl

theorem State.handles_shootSup : ∀ r ∈ (s.shootSup part lo size v).ranks, r.slot?.isSome = true → s.partOfRank r.vr = part →
    ∀ g ∈ r.gangs, ∀ k ∈ g.cores, ∀ h ∈ k.handles.toList, h.sup = true → h.valid = true →
      h.va + pageSize h.large ≤ lo ∨ lo + size ≤ h.va := by
  intro r hr hslot hpart g hg k hk h hmem
  obtain ⟨x, -, rfl⟩ := List.mem_map.mp hr
  by_cases hout : (s.partOfRank x.vr != part || x.slot?.isNone) = true
  · rw [if_pos hout] at hslot hpart
    rw [Bool.or_eq_true, bne_iff_ne, Option.isNone_iff_eq_none] at hout
    obtain hout | hout := hout
    · exact absurd hpart hout
    · simp [hout] at hslot
  · rw [if_neg hout] at hg
    obtain ⟨c, rfl⟩ := Rank.exists_of_mem_modCores hg hk
    exact Core.apart_of_shootHandles hmem

end

/-! ### The control port (12 R288, R290, R295) -/

section
variable {s : State} {rest : List PcpAct}

theorem State.pcpTurn_read {vr slot part i : Nat} (h : s.pcp = .read vr slot part i :: rest) (hi : i < 0x041) :
    s.pcpTurn = { s with pcp := rest, out := s.out ++ [.pcp (({ s with pcp := rest } : State).pcpRead vr slot part i)] } := by
  have hgo : s.pcpWaits (.read vr slot part i) = false := by
    rw [State.pcpWaits, decide_eq_false (by omega), Bool.false_and]
  simp [State.pcpTurn, h, hgo]

theorem State.pcpTurn_write {vr part i : Nat} {v : Word} (h : s.pcp = .write vr part i v :: rest) (hi : i < 0x041) :
    s.pcpTurn = ({ s with pcp := rest } : State).pcpWrite vr part i v := by
  have hgo : s.pcpWaits (.write vr part i v) = false := by
    rw [State.pcpWaits, decide_eq_false (by omega), decide_eq_false (by omega)]
    rfl
  simp [State.pcpTurn, h, hgo]

theorem State.pcpTurn_drained {v : Word} {ids : List Nat} (h : s.pcp = .drained v ids :: rest) : s.pcpTurn =
    if ids.any (fun id => (s.access? id).isSome) then s else { s with pcp := rest, out := s.out ++ [.pcp v] } := by
  rw [State.pcpTurn, h]
  rfl

/-- A register of the package, read with a rank that the package does not hold. -/
theorem State.pcpRead_pkg {vr i : Nat} (hr : s.rank? vr = none) (hi : i = 0 ∨ 0x008 ≤ i ∧ i ≠ 0x020) (slot part : Nat) :
    s.pcpRead vr slot part i = (s.pkgReg i).getD 0 := by
  rw [State.pcpRead, if_neg (by omega), if_neg (by omega), if_neg (by omega), hr]

end

/-- Settles O33: the two shoot-downs of a supervisor's space, the notice ring, and the turns of the control port. -/
theorem pcpActsOnSupervisorSpace : Obligations.PcpActsOnSupervisorSpace := by
  intro s
  refine ⟨fun p v hp => ⟨_, rfl, ?_, fun q hq => ?_, State.supgen_shootSup _ _ _ _ hp, State.sameMemory_of_memories rfl, rfl, ?_⟩,
    fun p va big hp => ⟨_, rfl, State.supgen_shootSup _ _ _ _ hp, State.sameMemory_shootSup _ _ _ _, rfl, rfl,
      State.handles_shootSup _ _ _ _⟩,
    fun n rest hn hroom => ?_, fun h => ?_, fun vr slot part i v rest hact hreg hr => ?_, fun vr part v rest hact hok hidle => ?_,
    fun v ids rest => State.pcpTurn_drained⟩
  · have hroot : putBits v 1 11 0 = v &&& ~~~ 0xFFE#64 := BitVec.or_zero
    simp [State.shootSup, hp, hroot]
  · simp [State.shootSup, Ne.symm hq]
  · intro r hr hslot hpart g hg k hk h hmem hsup hvalid
    have hapart := State.handles_shootSup _ 0 (2 ^ 48) _ r hr hslot hpart g hg k hk h hmem hsup hvalid
    have := pageSize_pos h.large
    omega
  · rw [exec_noticeWrite, execNoticeWrite, hn]
    dsimp only
    rw [if_pos hroom]
    rfl
  · rw [exec_noticeWrite, execNoticeWrite]
    obtain h | h := h
    · rw [h]
    · cases hn : s.notices with
      | nil => rfl
      | cons n rest => simp [h]
  · simp only [List.mem_cons, Prod.mk.injEq, List.not_mem_nil, or_false] at hreg
    have hval : i < 0x041 ∧ (i = 0 ∨ 0x008 ≤ i ∧ i ≠ 0x020) ∧ s.pkgReg i = some v := by
      obtain ⟨rfl, rfl⟩ | ⟨rfl, rfl⟩ | ⟨rfl, rfl⟩ | ⟨rfl, rfl⟩ | ⟨rfl, rfl⟩ := hreg <;> exact ⟨by decide, by decide, rfl⟩
    obtain ⟨hlow, hi, hval⟩ := hval
    have hread : ({ s with pcp := rest } : State).pcpRead vr slot part i = v :=
      (State.pcpRead_pkg (s := { s with pcp := rest }) hr hi slot part).trans (congrArg (Option.getD · 0) hval)
    rw [State.pcpTurn_read hact hlow, hread]
  · have hbusy : (s.l2ctlBad v || s.busyPackage none) = false := by rw [hok, hidle]; rfl
    rw [State.pcpTurn_write hact (by decide)]
    exact if_neg (by exact hbusy ▸ Bool.false_ne_true)

end Sys2Proof.Machine

/-! ### SCHED_HEAD_ISSUE and BUBBLE_CYCLE (14 R358, R361) -/

namespace Sys2Proof.Machine

/-- The record that the table posts for an entry: the entry's record block with its argument and priority (14 R356). -/
def Sched.headRecord (t : Sched) (e : BitVec 256) : LaunchRec :=
  let b := blockRec ((t.recs[entRec e]?).getD 0)
  { b with raw := putBits (putBits b.raw 192 64 (entArg e)) 36 3 (entPri e) }

/-- The table that has issued an entry: it has taken the credit and the stash slot (14 R358). -/
def Sched.issued (e : BitVec 256) (t : Sched) : Sched :=
  { t with st := .busy, outst := true, acr := (if entOut e = 1 then t.acr - 1 else t.acr),
           gcr := (if entOut e = 2 then t.gcr - 1 else t.gcr), stash := (if entKind e = 1 then t.stash + 1 else t.stash) }

/-- The table with one more bubble of a cause: 0 input, 1 output target, 2 stash (14 R361). -/
def Sched.bubbled (cause : Nat) (t : Sched) : Sched := match cause with
  | 0 => { t with bubin := t.bubin + 1 }
  | 1 => { t with bubdn := t.bubdn + 1 }
  | _ => { t with bubst := t.bubst + 1 }

section
variable {s : State} {vr : Nat} {r : Rank} (hr : s.rank? vr = some r) {e : BitVec 256} (he : r.sched.headEntry = some e)
include hr he

theorem exec_schedHeadIssue_issues (hready : r.sched.st = .ready) (hslot : r.slot?.isSome = true) (hgo : r.sched.waitCause e = none)
    (hroom : r.pendingGangs < 256) : exec (.schedHeadIssue vr) s = .next
      (match r.refusal (r.sched.headRecord e) r.sched.supLoaded none with
      | some _ => (s.modSched vr (Sched.issued e)).schedFault vr 5
      | none => (s.modSched vr (Sched.issued e)).post vr (r.sched.headRecord e) (.sched r.sched.pos)) := by
  have hopen : (r.sched.st != .ready || r.slot?.isNone || (r.sched.waitCause e).isSome || 256 ≤ r.pendingGangs) = false := by
    simp [hready, hslot, hgo, hroom]
  rw [exec_schedHeadIssue, execSchedHeadIssue, hr]
  dsimp only
  rw [he]
  dsimp only
  rw [hopen]
  rfl

theorem exec_schedHeadIssue_waits {c : Nat} (hc : r.sched.waitCause e = some c) : exec (.schedHeadIssue vr) s = .next s := by
  simp [exec_schedHeadIssue, execSchedHeadIssue, hr, he, hc]

theorem exec_bubbleCycle_counts (hready : r.sched.st = .ready) {c : Nat} (hc : r.sched.waitCause e = some c) :
    exec (.bubbleCycle vr) s = .next (s.modSched vr (Sched.bubbled c)) := by
  simp only [exec_bubbleCycle, execBubbleCycle, hr, he, hready, hc]
  match c with
  | 0 => rfl
  | 1 => rfl
  | n + 2 => rfl

end

/-! ### SCHEDULE_ARRIVAL and SLOT_POST (14 R359, R360; 15 R377) -/

/-- Whether a VR is the neighbour from which gradients, or else activations, arrive: downstream, or else upstream (14 R355, R359). -/
def Sched.sends (t : Sched) (grad : Bool) (vr : Nat) : Bool := if grad then t.dnv && vr == t.dnvr else t.upv && vr == t.upvr

theorem Sched.sends_upstream {t : Sched} (hv : t.upv = true) {vr : Nat} (h : vr = t.upvr) : t.sends false vr = true := by
  simp [Sched.sends, hv, h]

theorem Sched.sends_downstream {t : Sched} (hv : t.dnv = true) {vr : Nat} (h : vr = t.dnvr) : t.sends true vr = true := by
  simp [Sched.sends, hv, h]

/-- What an arrival does at the table of a rank held here (14 R359, R360). -/
def State.takeArrival (s : State) (r : Rank) (svr : Nat) (grad : Bool) (mb : Nat) (step : BitVec 64) : State :=
  if r.sched.st = .idle ∨ step ≠ r.stepno ∨ !(r.sched.sends grad svr) then s
  else if (if grad then r.sched.arrg else r.sched.arra).contains mb then s.tableFault r 1
  else if grad then
    (if r.sched.ng < r.sched.ginu + 1 then s.tableFault r 2
     else s.modSched r.vr fun t => { t with arrg := setBitIn t.arrg mb, ginu := t.ginu + 1 })
  else if r.sched.na < r.sched.ainu + 1 then s.tableFault r 2
  else s.modSched r.vr fun t => { t with arra := setBitIn t.arra mb, ainu := t.ainu + 1 }

/-- What a post does at the table of a rank held here: slots are posted by the neighbour that arrivals of the kind go to
(14 R359, R360). -/
def State.takePost (s : State) (r : Rank) (svr : Nat) (grad : Bool) (count : Nat) (step : BitVec 64) : State :=
  if r.sched.st = .idle ∨ step ≠ r.stepno ∨ !(r.sched.sends (!grad) svr) then s
  else if 255 < (if grad then r.sched.gcr else r.sched.acr) + count then s.tableFault r 3
  else s.modSched r.vr fun t => if grad then { t with gcr := t.gcr + count } else { t with acr := t.acr + count }

theorem State.tableFor_inTransit {s : State} {vr : Nat} (h : s.inTransit vr = true) : s.tableFor vr = none := if_pos h

theorem State.tableFor_settled {s : State} {vr : Nat} (h : s.inTransit vr = false) : s.tableFor vr = s.rank? vr := if_neg (by simp [h])

theorem State.tableFault_of_ne {s : State} {r : Rank} (h : r.sched.st ≠ .fault) (case : Nat) :
    s.tableFault r case = s.schedFault r.vr case := if_neg h

section
variable {s : State} {q : DHdr} (grad : Bool) (n : Nat) (step : BitVec 64)

theorem exec_tableMessage_other (h : q.dpkg ≠ s.ownPkg) :
    exec (.scheduleArrival q grad n step) s = .next (s.forward 32 (.schedArrival q grad n step)) ∧
      exec (.slotPost q grad n step) s = .next (s.forward 32 (.slotPost q grad n step)) :=
  ⟨congrArg _ (State.mine_other h _ _), congrArg _ (State.mine_other h _ _)⟩

theorem exec_tableMessage_inTransit (h : q.dpkg = s.ownPkg) (hgone : s.inTransit q.dvr = true) :
    exec (.scheduleArrival q grad n step) s = .next { s with dropped := s.dropped + 1 } ∧
      exec (.slotPost q grad n step) s = .next { s with dropped := s.dropped + 1 } := by
  rw [exec_scheduleArrival, execScheduleArrival, exec_slotPost, execSlotPost, State.mine_own h, State.mine_own h,
    State.tableFor_inTransit hgone]
  exact ⟨rfl, rfl⟩

variable (hown : q.dpkg = s.ownPkg) (hhere : s.inTransit q.dvr = false) {r : Rank} (hr : s.rank? q.dvr = some r)
include hown hhere hr

theorem exec_scheduleArrival_here : exec (.scheduleArrival q grad n step) s = .next (s.takeArrival r q.svr grad n step) := by
  rw [exec_scheduleArrival, execScheduleArrival, State.mine_own hown, State.tableFor_settled hhere, hr]
  rfl

theorem exec_slotPost_here : exec (.slotPost q grad n step) s = .next (s.takePost r q.svr grad n step) := by
  rw [exec_slotPost, execSlotPost, State.mine_own hown, State.tableFor_settled hhere, hr]
  cases grad <;> rfl

end

section
variable {s : State} {r : Rank} {svr : Nat}

theorem State.takeArrival_ignored {step : BitVec 64} (h : r.sched.st = .idle ∨ step ≠ r.stepno) (grad : Bool) (mb : Nat) :
    s.takeArrival r svr grad mb step = s := if_pos (h.imp_right .inl)

theorem State.takePost_ignored {step : BitVec 64} (h : r.sched.st = .idle ∨ step ≠ r.stepno) (grad : Bool) (n : Nat) :
    s.takePost r svr grad n step = s := if_pos (h.imp_right .inl)

variable (hloaded : r.sched.st ≠ .idle)
include hloaded

theorem State.takeArrival_again {grad : Bool} (hfrom : r.sched.sends grad svr = true) {mb : Nat}
    (h : mb ∈ if grad then r.sched.arrg else r.sched.arra) : s.takeArrival r svr grad mb r.stepno = s.tableFault r 1 := by
  simp [State.takeArrival, hloaded, hfrom, h]

theorem State.takeArrival_activation (hfrom : r.sched.sends false svr = true) {mb : Nat} (hnew : mb ∉ r.sched.arra) :
    s.takeArrival r svr false mb r.stepno = if r.sched.na ≤ r.sched.ainu then s.tableFault r 2
      else s.modSched r.vr fun t => { t with arra := setBitIn t.arra mb, ainu := t.ainu + 1 } := by
  simp [State.takeArrival, hloaded, hfrom, hnew]

theorem State.takeArrival_gradient (hfrom : r.sched.sends true svr = true) {mb : Nat} (hnew : mb ∉ r.sched.arrg) :
    s.takeArrival r svr true mb r.stepno = if r.sched.ng ≤ r.sched.ginu then s.tableFault r 2
      else s.modSched r.vr fun t => { t with arrg := setBitIn t.arrg mb, ginu := t.ginu + 1 } := by
  simp [State.takeArrival, hloaded, hfrom, hnew]

theorem State.takePost_activation (hfrom : r.sched.sends true svr = true) (n : Nat) :
    s.takePost r svr false n r.stepno = if 255 < r.sched.acr + n then s.tableFault r 3
      else s.modSched r.vr fun t => { t with acr := t.acr + n } := by
  simp [State.takePost, hloaded, hfrom]

theorem State.takePost_gradient (hfrom : r.sched.sends false svr = true) (n : Nat) :
    s.takePost r svr true n r.stepno = if 255 < r.sched.gcr + n then s.tableFault r 3
      else s.modSched r.vr fun t => { t with gcr := t.gcr + n } := by
  simp [State.takePost, hloaded, hfrom]

end

/-- Settles O38: the head entry by its first failing condition, and each message by where its rank is and what its table holds. -/
theorem scheduleTableEvents : Obligations.ScheduleTableEvents := by
  intro s vr r hr hvr
  subst hvr
  refine ⟨fun e he hready hslot hgo hroom => ?_, fun e c he hready hc => ?_, fun h grad n step => ?_,
    fun h mb step hdvr hown hhere hloaded => ?_, fun h n step hdvr hown hhere hloaded hstep => ?_⟩
  · simp only [exec_schedHeadIssue_issues hr he hready hslot hgo hroom]
    exact ⟨fun n (hn : r.refusal (r.sched.headRecord e) _ _ = some n) => by rw [hn]; rfl,
      fun (hn : r.refusal (r.sched.headRecord e) _ _ = none) => by rw [hn]; rfl⟩
  · exact ⟨exec_schedHeadIssue_waits hr he hc, exec_bubbleCycle_counts hr he hready hc⟩
  · refine ⟨fun hother => exec_tableMessage_other grad n step hother, fun hown hgone => exec_tableMessage_inTransit grad n step hown hgone,
      fun hown hhere hdvr hno => ?_⟩
    rw [← hdvr] at hr hhere
    rw [exec_scheduleArrival_here grad n step hown hhere hr, exec_slotPost_here grad n step hown hhere hr,
      State.takeArrival_ignored hno, State.takePost_ignored hno]
    exact ⟨rfl, rfl⟩
  · rw [← hdvr] at hr hhere
    simp only [exec_scheduleArrival_here _ _ _ hown hhere hr]
    refine ⟨fun hstep hv hfrom hfault => ⟨fun hmem => ?_, fun hnew hfull => ?_⟩, fun hstep hv hfrom hnew hroom => ?_,
      fun hstep hv hfrom hnew hroom => ?_⟩ <;> subst hstep
    · rw [State.takeArrival_again hloaded (Sched.sends_upstream hv hfrom) hmem, State.tableFault_of_ne hfault]
    · rw [State.takeArrival_activation hloaded (Sched.sends_upstream hv hfrom) hnew, if_pos hfull, State.tableFault_of_ne hfault]
    · rw [State.takeArrival_activation hloaded (Sched.sends_upstream hv hfrom) hnew, if_neg (by omega)]
    · rw [State.takeArrival_gradient hloaded (Sched.sends_downstream hv hfrom) hnew, if_neg (by omega)]
  · subst hstep
    rw [← hdvr] at hr hhere
    simp only [exec_slotPost_here _ _ _ hown hhere hr]
    refine ⟨fun hv hfrom hfault hover => ?_, fun hv hfrom hfits => ?_, fun hv hfrom hfits => ?_⟩
    · rw [State.takePost_activation hloaded (Sched.sends_downstream hv hfrom), if_pos hover, State.tableFault_of_ne hfault]
    · rw [State.takePost_activation hloaded (Sched.sends_downstream hv hfrom), if_neg (Nat.not_lt.mpr hfits)]
    · rw [State.takePost_gradient hloaded (Sched.sends_upstream hv hfrom), if_neg (Nat.not_lt.mpr hfits)]

end Sys2Proof.Machine

/-! ### Fields of a register after one of them is written (00 R7) -/

namespace Sys2Proof.Machine

theorem getLsbD_putBits {k : Nat} (v : BitVec k) (lo n x i : Nat) : (putBits v lo n x).getLsbD i =
    if lo ≤ i ∧ i < lo + n then decide (i < k) && x.testBit (i - lo) else v.getLsbD i := by
  simp only [putBits, BitVec.getLsbD_or, BitVec.getLsbD_and, BitVec.getLsbD_not, BitVec.getLsbD_ofNat, Nat.testBit_mul_two_pow,
    Nat.testBit_two_pow_sub_one, Nat.testBit_mod_two_pow]
  by_cases hin : lo ≤ i ∧ i < lo + n
  · have hoff : i - lo < n := by omega
    by_cases hi : i < k <;> simp [hin, hoff, hi]
  · have hout : ¬ (lo ≤ i ∧ i - lo < n) := by omega
    rw [if_neg hin]
    by_cases hi : i < k
    · by_cases hlo : lo ≤ i
      · simp [hi, hlo, show ¬ i - lo < n from fun h => hout ⟨hlo, h⟩]
      · simp [hi, hlo]
    · simp [hi, BitVec.getLsbD_of_ge v i (Nat.le_of_not_lt hi)]

theorem extractLsb'_putBits_self {k : Nat} (v : BitVec k) {lo n : Nat} (h : lo + n ≤ k) (x : Nat) :
    (putBits v lo n x).extractLsb' lo n = BitVec.ofNat n x := by
  refine BitVec.eq_of_getLsbD_eq fun i hi => ?_
  rw [BitVec.getLsbD_extractLsb', getLsbD_putBits, if_pos (by omega), BitVec.getLsbD_ofNat, Nat.add_sub_cancel_left]
  simp [hi, show lo + i < k by omega]

theorem extractLsb'_putBits_apart {k : Nat} (v : BitVec k) {lo n at' m : Nat} (h : at' + m ≤ lo ∨ lo + n ≤ at') (x : Nat) :
    (putBits v lo n x).extractLsb' at' m = v.extractLsb' at' m := by
  refine BitVec.eq_of_getLsbD_eq fun i hi => ?_
  rw [BitVec.getLsbD_extractLsb', BitVec.getLsbD_extractLsb', getLsbD_putBits, if_neg (by omega)]

/-! ### The registers of a host queue (14 R352, R353) -/

/-- The slot whose host queue has been read at HEAD, which advances (14 R353). -/
def Slot.popped (k : Slot) : Slot := { k with hqptr := putBits k.hqptr 0 16 (k.hqHead + 1).toNat }

@[simp] theorem Slot.hqHead_popped (k : Slot) : k.popped.hqHead = k.hqHead + 1 := by
  rw [Slot.popped, Slot.hqHead, extractLsb'_putBits_self _ (by decide), BitVec.ofNat_toNat, BitVec.setWidth_eq]

@[simp] theorem Slot.hqTail_popped (k : Slot) : k.popped.hqTail = k.hqTail := extractLsb'_putBits_apart _ (.inr (by decide)) _

/-- The slot whose TAIL the host has written (14 R352). -/
def Slot.withTail (v : BitVec 16) (k : Slot) : Slot := { k with hqptr := putBits k.hqptr 16 16 v.toNat }

theorem Slot.hqTail_withTail (v : BitVec 16) (k : Slot) : (k.withTail v).hqTail = v := by
  rw [Slot.withTail, Slot.hqTail, extractLsb'_putBits_self _ (by decide), BitVec.ofNat_toNat, BitVec.setWidth_eq]

theorem Slot.hqHead_withTail (v : BitVec 16) (k : Slot) : (k.withTail v).hqHead = k.hqHead := extractLsb'_putBits_apart _ (.inl (by decide)) _

/-- The slot whose EN and KILL the host has written (14 R352). -/
def Slot.enabled (v : Word) (k : Slot) : Slot := { k with hqctl := putBits (putBits k.hqctl 0 1 (bitsAt v 0 1)) 2 1 (bitsAt v 2 1) }

/-- The slot whose host queue has been torn down: EN and TD are 0 (14 R354). -/
def Slot.tornDown (kill : Bool) (k : Slot) : Slot := { k with hqctl := putBits (putBits k.hqctl 0 2 0) 2 1 (if kill then 1 else 0) }

theorem testBit_zero_bitsAt_one (v : Word) (i : Nat) : (bitsAt v i 1).testBit 0 = v.getLsbD i := by
  rw [bitsAt, BitVec.testBit_toNat, BitVec.getLsbD_extractLsb']
  simp

theorem Slot.hqctl_enabled (v : Word) (k : Slot) (i : Nat) :
    (k.enabled v).hqctl.getLsbD i = if i = 0 ∨ i = 2 then v.getLsbD i else k.hqctl.getLsbD i := by
  rw [Slot.enabled, getLsbD_putBits, getLsbD_putBits]
  by_cases h2 : i = 2
  · subst h2
    simpa using testBit_zero_bitsAt_one v 2
  · rw [if_neg (by omega)]
    by_cases h0 : i = 0
    · subst h0
      simpa using testBit_zero_bitsAt_one v 0
    · rw [if_neg (by omega), if_neg (by omega)]

theorem Slot.hqctl_tornDown (kill : Bool) (k : Slot) : (k.tornDown kill).hqctl.getLsbD 0 = false ∧
    (k.tornDown kill).hqctl.getLsbD 1 = false ∧ (k.tornDown kill).hqctl.getLsbD 2 = kill := by
  have hlow : ∀ i < 2, (k.tornDown kill).hqctl.getLsbD i = false := fun i hi => by
    rw [Slot.tornDown, getLsbD_putBits, if_neg (by omega), getLsbD_putBits, if_pos (by omega), Nat.zero_testBit, Bool.and_false]
  refine ⟨hlow 0 (by decide), hlow 1 (by decide), ?_⟩
  rw [Slot.tornDown, getLsbD_putBits, if_pos (by decide)]
  cases kill <;> rfl

theorem State.sameMemory_modSlot (s : State) {slot : Nat} (hlt : slot < 16) {f : Slot → Slot}
    (h : ∀ k, (f k).pads = k.pads ∧ (f k).shadow = k.shadow) : s.SameMemory (s.modSlot slot f) := by
  refine ⟨fun _ => rfl, fun _ => rfl, fun k a => ?_⟩
  rw [State.slot_modSlot s slot k f hlt]
  split
  · next heq => rw [(h _).1, (h _).2, heq]; exact ⟨rfl, rfl⟩
  · exact ⟨rfl, rfl⟩

theorem State.slot_modSlot_self (s : State) {slot : Nat} (hlt : slot < 16) (f : Slot → Slot) :
    (s.modSlot slot f).slot slot = f (s.slot slot) := by
  rw [State.slot_modSlot s slot slot f hlt, if_pos rfl]

theorem exec_hqbaseWrite_eq (s : State) (slot : Nat) (v : Word) : exec (.hqbaseWrite slot v) s = .next (s.modSlot slot fun k =>
    if 13 ≤ v.toNat % 16 then k.hqRefuse 0xFF else { k with hqbase := putBits v 4 5 0 }) := by
  rw [exec_hqbaseWrite, execHqbaseWrite, bitsAt_zero_eq]
  rfl

/-! ### HOST_QUEUE_POST (14 R353) -/

section
variable {s : State} {slot : Nat}

theorem exec_hostQueuePost_idle (h : (s.slot slot).hqEn = false ∨ (s.slot slot).hqHead = (s.slot slot).hqTail ∨
    ∀ vr r, (s.slot slot).occupant = some vr → s.rank? vr = some r → r.slot? ≠ some slot) :
    exec (.hostQueuePost slot) s = .next s := by
  rw [exec_hostQueuePost, execHostQueuePost]
  dsimp only
  split
  · rfl
  next r hocc =>
    obtain ⟨vr, hvr, hr⟩ := Option.bind_eq_some_iff.mp hocc
    refine congrArg _ (if_pos ?_)
    obtain hen | hempty | haway := h
    · simp [hen]
    · simp [hempty]
    · simp [haway vr r hvr hr]

theorem exec_hostQueuePost_reads {vr : Nat} {r : Rank} (hocc : (s.slot slot).occupant = some vr) (hr : s.rank? vr = some r)
    (hslot : r.slot? = some slot) (hen : (s.slot slot).hqEn = true) (htd : bitAt (s.slot slot).hqctl 1 = false)
    (hne : (s.slot slot).hqHead ≠ (s.slot slot).hqTail) (hlog : (s.slot slot).hqLogn ≠ 0) (hroom : r.pendingGangs < 256) :
    exec (.hostQueuePost slot) s = .next (match r.refusal (s.hostEntry slot (s.slot slot).hqHead) true none with
      | some n => (s.modSlot slot Slot.popped).modSlot slot fun k => k.hqRefuse n
      | none => (s.modSlot slot Slot.popped).post r.vr (s.hostEntry slot (s.slot slot).hqHead) (.hostQueue slot)) := by
  rw [exec_hostQueuePost, execHostQueuePost]
  dsimp only
  rw [hocc, Option.bind_some, hr]
  dsimp only
  rw [if_neg (by simp [hslot, hen, htd, hne, hlog, hroom])]
  rfl

end

/-! ### What the end of a gang leaves of the host queues (14 R351) -/

/-- The pointers and the control register of the host queue of each slot. -/
def State.hqRegs (s : State) (k : Nat) : Word × Word := ((s.slot k).hqptr, (s.slot k).hqctl)

theorem State.hqRegs_congr {s t : State} (h : t.slots = s.slots) : t.hqRegs = s.hqRegs := by
  funext k
  rw [State.hqRegs, State.slot, h, State.hqRegs, State.slot]

theorem State.hqRegs_modSlot (s : State) (slot : Nat) {f : Slot → Slot} (hf : ∀ k, (f k).hqptr = k.hqptr ∧ (f k).hqctl = k.hqctl) :
    (s.modSlot slot f).hqRegs = s.hqRegs := by
  by_cases hlt : slot < 16
  · funext k
    rw [State.hqRegs, State.slot_modSlot s slot k f hlt, State.hqRegs]
    split
    · next heq => rw [(hf _).1, (hf _).2, heq]
    · rfl
  · exact State.hqRegs_congr (Vector.setIfInBounds_eq_of_size_le (Nat.le_of_not_lt hlt))

theorem State.hqRegs_storeScratch (s : State) (r : SRef) (slot addr : Nat) (bs : List Byte) :
    (s.storeScratch r slot addr bs).hqRegs = s.hqRegs := by
  unfold State.storeScratch
  split
  · exact s.hqRegs_modSlot _ fun _ => ⟨rfl, rfl⟩
  · rfl
  · rfl

theorem State.hqRegs_writeElems (s : State) (r : SRef) (slot sz : Nat) (data : Buf) (elems : List (Int × Nat)) :
    (s.writeElems r slot sz data elems).hqRegs = s.hqRegs := by
  induction elems generalizing s with
  | nil => rfl
  | cons e rest ih => exact (ih _).trans (s.hqRegs_storeScratch _ _ _ _)

theorem State.hqRegs_finishEntry (s : State) (r : SRef) (z slot : Nat) (cores : List Nat) (x : Stream) (rows : List RowSrc) :
    (s.finishEntry r z slot cores x rows).hqRegs = s.hqRegs := by
  unfold State.finishEntry
  split
  · unfold State.deliverEntry
    dsimp only
    split <;> rfl
  · split
    · unfold State.drainEntry
      dsimp only
      split
      · rfl
      · split
        · rfl
        · exact s.hqRegs_writeElems _ _ _ _ _
    · rfl

theorem State.hqRegs_stopStreams (s : State) (r : SRef) (i : StrandId) : (s.stopStreams r i).hqRegs = s.hqRegs := by
  rw [State.stopStreams_eq]
  refine foldl_keeps State.hqRegs (fun s z => ?_) _ _
  unfold State.stopStream
  split
  · dsimp only
    split
    · exact s.hqRegs_finishEntry _ _ _ _ _ _
    · rfl
  · rfl

theorem State.hqRegs_undefine (s : State) (slot : Nat) (r : SRef) (l : List (Space × Nat)) : (s.undefine slot r l).hqRegs = s.hqRegs := by
  have hput : ∀ (s : State) (d : StoreTo) (bs : List Byte), (s.putCommitted slot d bs).hqRegs = s.hqRegs := fun s d bs => by
    cases d with
    | scratch a => exact s.hqRegs_modSlot _ fun _ => ⟨rfl, rfl⟩
    | _ => rfl
  induction l generalizing s with
  | nil => rfl
  | cons p t ih =>
    unfold State.undefine
    dsimp only
    rw [ih]
    split
    · exact hput _ _ _
    · exact foldl_keeps State.hqRegs (fun _ _ => hput _ _ _) _ _

theorem State.hqRegs_freeSource (s : State) (t : BitVec 512) : (s.freeSource t).hqRegs = s.hqRegs := by
  have hfree : ∀ k, (s.modSlot k fun sl => if sl.occupant = some (bitsAt t 32 24) then { sl with occupant := none } else sl).hqRegs =
      s.hqRegs := fun k => s.hqRegs_modSlot k fun sl => by split <;> exact ⟨rfl, rfl⟩
  unfold State.freeSource
  dsimp only
  split <;> split
  · exact hfree _
  · split
    · exact hfree _
    · exact hfree _
  · rfl
  · split <;> rfl

theorem State.hqRegs_abandonMigr (s : State) (c : Cmd) : (s.abandonMigr c).hqRegs = s.hqRegs := by
  have htell : ∀ (s : State) (vr : Nat), (s.tell vr).hqRegs = s.hqRegs := fun s vr => by
    unfold State.tell
    split
    · split <;> rfl
    · rfl
  unfold State.abandonMigr
  split
  · dsimp only
    split
    · exact htell _ _
    · split
      · exact s.hqRegs_freeSource _
      · rfl
  · rfl

theorem State.hqRegs_discardCmds (s : State) (p : Cmd → Bool) : (s.discardCmds p).hqRegs = s.hqRegs := by
  unfold State.discardCmds
  refine (foldl_keeps State.hqRegs (fun s c => ?_) _ _).trans rfl
  rw [State.hqRegs_abandonMigr]
  exact s.hqRegs_undefine _ _ _

theorem State.hqRegs_notify (s : State) (n : BitVec 1024) : (s.notify n).hqRegs = s.hqRegs := by
  unfold State.notify
  split <;> rfl

theorem State.hqRegs_schedFault (s : State) (vr why : Nat) : (s.schedFault vr why).hqRegs = s.hqRegs := by
  unfold State.schedFault
  split
  · rfl
  · exact State.hqRegs_notify _ _

theorem State.hqRegs_endGang (s : State) (vr g : Nat) : (s.endGang vr g).hqRegs = s.hqRegs := by
  unfold State.endGang
  split
  · rfl
  next x _ =>
    have hstop : (if x.holdsCores then x.cores.foldl (fun (s : State) c =>
        (s.stopStreams { vr := vr, gang := g, core := c.coreno, strand := .l } .l).stopStreams
          { vr := vr, gang := g, core := c.coreno, strand := .l } .s) s else s).hqRegs = s.hqRegs := by
      split
      · exact foldl_keeps State.hqRegs (fun s c => (State.hqRegs_stopStreams _ _ _).trans (s.hqRegs_stopStreams _ _)) _ _
      · rfl
    dsimp only
    split
    · exact (State.hqRegs_schedFault _ _ _).trans ((State.hqRegs_discardCmds _ _).trans hstop)
    · exact (State.hqRegs_discardCmds _ _).trans hstop

/-! ### HQ_TEARDOWN (14 R354) -/

/-- Reading `n` entries moves HEAD by `n` and leaves TAIL. -/
theorem State.hostQueue_drainHostQueue {slot : Nat} (hlt : slot < 16) (n : Nat) (s : State) :
    ((s.drainHostQueue slot n).slot slot).hqHead = (s.slot slot).hqHead + BitVec.ofNat 16 n ∧
      ((s.drainHostQueue slot n).slot slot).hqTail = (s.slot slot).hqTail := by
  induction n generalizing s with
  | zero => exact ⟨(BitVec.add_zero _).symm, rfl⟩
  | succ n ih =>
    obtain ⟨u, hread, hu⟩ : ∃ u : State, s.drainHostQueue slot (n + 1) = (u.modSlot slot Slot.popped).drainHostQueue slot n ∧
        u.slot slot = s.slot slot := ⟨_, rfl, by split <;> rfl⟩
    obtain ⟨hhead, htail⟩ := ih (u.modSlot slot Slot.popped)
    rw [hread, hhead, htail, State.slot_modSlot_self u hlt, hu, Slot.hqHead_popped, Slot.hqTail_popped]
    exact ⟨by rw [BitVec.add_assoc, BitVec.ofNat_add, BitVec.add_comm 1]; rfl, rfl⟩

/-- Steps 1 to 3 of a teardown: the entries are read, the gangs of the queue that have not started are discarded, and with KILL
those that have are killed (14 R354). -/
def State.endHostQueue (s : State) (slot : Nat) (kill : Bool) : State :=
  let s := s.drainHostQueue slot ((s.slot slot).hqTail - (s.slot slot).hqHead).toNat
  let s := (s.queueGangs slot fun g => !g.running).foldl (fun s p => s.endGang p.1 p.2) s
  if kill then (s.queueGangs slot Gang.running).foldl (fun s p => s.endGang p.1 p.2) s else s

theorem exec_hqTeardown_eq (s : State) (slot : Nat) (kill : Bool) :
    exec (.hqTeardown slot kill) s = .next ((s.endHostQueue slot kill).modSlot slot (Slot.tornDown kill)) := rfl

theorem State.hostQueue_endHostQueue (s : State) {slot : Nat} (hlt : slot < 16) (kill : Bool) :
    ((s.endHostQueue slot kill).slot slot).hqHead = (s.slot slot).hqTail ∧
      ((s.endHostQueue slot kill).slot slot).hqTail = (s.slot slot).hqTail := by
  have hgangs : ∀ (l : List (Nat × Nat)) (s : State), (l.foldl (fun s p => s.endGang p.1 p.2) s).hqRegs = s.hqRegs :=
    foldl_keeps State.hqRegs fun s p => s.hqRegs_endGang _ _
  have hregs : (s.endHostQueue slot kill).hqRegs =
      (s.drainHostQueue slot ((s.slot slot).hqTail - (s.slot slot).hqHead).toNat).hqRegs := by
    unfold State.endHostQueue
    dsimp only
    split
    · exact (hgangs _ _).trans (hgangs _ _)
    · exact hgangs _ _
  have hptr := congrArg Prod.fst (congrFun hregs slot)
  obtain ⟨hhead, htail⟩ := State.hostQueue_drainHostQueue hlt ((s.slot slot).hqTail - (s.slot slot).hqHead).toNat s
  rw [BitVec.ofNat_toNat, BitVec.setWidth_eq, BitVec.add_comm, BitVec.sub_add_cancel] at hhead
  exact ⟨(congrArg (BitVec.extractLsb' 0 16) hptr).trans hhead, (congrArg (BitVec.extractLsb' 16 16) hptr).trans htail⟩

theorem State.queueGangs_of_none {s : State} {slot : Nat} (h : ∀ r ∈ s.ranks, ∀ g ∈ r.gangs, g.source ≠ .hostQueue slot)
    (p : Gang → Bool) : s.queueGangs slot p = [] := by
  have hnone : (s.ranks.flatMap fun r =>
      (r.gangs.filter fun g => g.source == .hostQueue slot && p g).map fun g => (g.age, r.vr, g.id)) = [] := by
    refine List.flatMap_eq_nil_iff.mpr fun r hr => List.map_eq_nil_iff.mpr (List.filter_eq_nil_iff.mpr fun g hg => ?_)
    simp [h r hr g hg]
  rw [State.queueGangs]
  rw [hnone]
  rfl

theorem State.endHostQueue_empty {s : State} {slot : Nat} (hempty : (s.slot slot).hqHead = (s.slot slot).hqTail)
    (hnone : ∀ r ∈ s.ranks, ∀ g ∈ r.gangs, g.source ≠ .hostQueue slot) (kill : Bool) : s.endHostQueue slot kill = s := by
  have hdrain : s.drainHostQueue slot ((s.slot slot).hqTail - (s.slot slot).hqHead).toNat = s := by
    rw [hempty, BitVec.sub_self]
    rfl
  unfold State.endHostQueue
  dsimp only
  rw [hdrain, State.queueGangs_of_none hnone]
  dsimp only [List.foldl_nil]
  rw [State.queueGangs_of_none hnone]
  exact ite_self _

/-- Settles O37: each register write by the field it sets, the posting by its refusal, the teardown by what it leaves of the queue. -/
theorem hostQueueRegistersAndPosting : Obligations.HostQueueRegistersAndPosting := by
  intro s slot hlt q
  have hself := fun (s : State) => State.slot_modSlot_self s hlt
  refine ⟨fun v hv => ?_, fun v hv => ?_, fun v => ?_, fun v => ?_, ?_, fun vr r hocc hr hslot hen htd hne hlog hroom => ?_,
    exec_hostQueuePost_idle, fun kill => ?_, fun kill hempty hnone => ?_⟩
  · simp only [exec_hqbaseWrite_eq, if_neg (Nat.not_le.mpr hv)]
  · simp only [exec_hqbaseWrite_eq, if_pos hv]
    rfl
  · refine ⟨_, rfl, ?_, ?_, rfl, s.sameMemory_modSlot hlt fun _ => ⟨rfl, rfl⟩⟩ <;> rw [hself]
    · exact Slot.hqTail_withTail v _
    · exact Slot.hqHead_withTail v _
  · refine ⟨s.modSlot slot (Slot.enabled v), rfl, ?_, ?_, fun i h0 h2 => ?_, rfl,
      s.sameMemory_modSlot hlt fun _ => ⟨rfl, rfl⟩⟩ <;> rw [hself]
    · exact (Slot.hqctl_enabled v _ 0).trans (if_pos (.inl rfl))
    · exact (Slot.hqctl_enabled v _ 2).trans (if_pos (.inr rfl))
    · exact (Slot.hqctl_enabled v _ i).trans (if_neg (by simp [h0, h2]))
  · refine ⟨_, rfl, ?_, fun i hi => ?_, rfl, s.sameMemory_modSlot hlt fun _ => ⟨rfl, rfl⟩⟩ <;> rw [hself, getLsbD_putBits]
    · rfl
    · exact if_neg (by omega)
  · simp only [exec_hostQueuePost_reads hocc hr hslot hen htd hne hlog hroom]
    exact ⟨fun n (hn : r.refusal (s.hostEntry slot (s.slot slot).hqHead) true none = some n) => by rw [hn]; rfl,
      fun (hn : r.refusal (s.hostEntry slot (s.slot slot).hqHead) true none = none) => by rw [hn]; rfl⟩
  · obtain ⟨hhead, htail⟩ := s.hostQueue_endHostQueue hlt kill
    obtain ⟨hen, htd, hkill⟩ := Slot.hqctl_tornDown kill ((s.endHostQueue slot kill).slot slot)
    refine ⟨_, exec_hqTeardown_eq s slot kill, ?_⟩
    rw [hself]
    exact ⟨hen, htd, hkill, hhead, htail⟩
  · obtain ⟨hen, -, hkill⟩ := Slot.hqctl_tornDown kill (s.slot slot)
    refine ⟨_, exec_hqTeardown_eq s slot kill, ?_⟩
    rw [State.endHostQueue_empty hempty hnone, hself]
    exact ⟨hen, hkill, rfl⟩

end Sys2Proof.Machine

/-! ### Gangs and the schedule table through the settling of dependences (14 R341) -/

namespace Sys2Proof.Machine

/-- A change of gangs keeps their numbers, so a search by number finds the changed gang. -/
theorem find?_mapGangs {l : List Gang} {f : Gang → Gang} (hid : ∀ x, (f x).id = x.id) (g : Nat) :
    (l.map f).find? (fun x => x.id == g) = (l.find? fun x => x.id == g).map f := by
  have hpred : ((fun x : Gang => x.id == g) ∘ f) = fun x => x.id == g := by
    funext x
    simp [hid]
  rw [List.find?_map, hpred]

theorem State.id_of_gang? {s : State} {vr g : Nat} {x : Gang} (h : s.gang? vr g = some x) : x.id = g := by
  obtain ⟨r, -, hx⟩ := Option.bind_eq_some_iff.mp h
  simpa using List.find?_some hx

theorem Rank.gang?_dropGang_ne (r : Rank) {g k : Nat} (h : k ≠ g) : (r.dropGang g).gang? k = r.gang? k := by
  simp only [Rank.gang?, Rank.dropGang, List.find?_filter]
  congr 1
  funext x
  by_cases hx : x.id = k <;> simp [hx, h]

/-- Where no gang waits, the settling of dependences leaves the gangs as they are. -/
theorem Rank.gangs_settleAll_of_none_waiting {r : Rank} (h : ∀ y ∈ r.gangs, y.cond ≠ .waiting) : r.settleAll.gangs = r.gangs := by
  have hready : r.markReady.gangs = r.gangs := by
    refine (List.map_congr_left fun g hg => ?_).trans (List.map_id _)
    simp [Rank.canReady, h g hg]
  have hdiscard : r.markReady.nextDiscard = none := by
    have hnone : (r.markReady.gangs.filter fun g => g.cond == .waiting && r.markReady.depResolved g == some true && !g.launch.tol) = [] := by
      rw [hready]
      exact List.filter_eq_nil_iff.mpr fun g hg => by simp [h g hg]
    rw [Rank.nextDiscard, hnone]
    rfl
  unfold Rank.settleAll
  cases r.gangs.length with
  | zero => exact hready
  | succ n =>
    rw [Rank.settle, hdiscard]
    exact hready

@[simp] theorem Rank.retireGang_sched (r : Rank) (l : LaunchRec) (abandoned : Bool) : (r.retireGang l abandoned).sched = r.sched := by
  unfold Rank.retireGang Rank.retireRecord
  split
  · split
    · rfl
    · split <;> rfl
  · rfl

/-- The settling of dependences leaves the schedule table (14 R341). -/
@[simp] theorem Rank.settle_sched (n : Nat) (r : Rank) : (r.settle n).sched = r.sched := by
  induction n generalizing r with
  | zero => rfl
  | succ n ih =>
    rw [Rank.settle]
    split
    · rfl
    · rw [ih, Rank.retireGang_sched]
      rfl

/-! ### GLAUNCH (14 R347) -/

theorem recordViolation_outside {a : Word} {n : Nat} (h : 0x80000 < a.toNat + n) (al : Nat) : recordViolation a n al = some (0xB, a) :=
  if_pos h

theorem recordViolation_misaligned {a : Word} {n al : Nat} (hin : a.toNat + n ≤ 0x80000) (hal : a.toNat % al ≠ 0) :
    recordViolation a n al = some (0xA, a) := by
  rw [recordViolation, if_neg (by omega), if_neg hal]

section
variable {s : State} {st : Strand} (hs : s.strand? s.cur = some st) (d a : XReg)
include hs

theorem exec_glaunch_violation {c : Nat} {v : Word} (h : recordViolation (st.rx a) 128 128 = some (c, v)) :
    exec (.glaunch d a) s = .next (s.trap st c v) := by
  rw [exec_glaunch, execGlaunch, State.acting_eq hs]
  dsimp only
  rw [h]

section
variable {r : Rank} (hr : s.rank? s.cur.vr = some r) (h : recordViolation (st.rx a) 128 128 = none)
include hr h

theorem exec_glaunch_full (hfull : 256 ≤ r.pendingGangs) : exec (.glaunch d a) s = .next (s.hold .unitRoom) := by
  rw [exec_glaunch, execGlaunch, State.acting_eq hs]
  dsimp only
  rw [h, hr]
  exact congrArg _ (if_pos hfull)

variable (hroom : ¬ 256 ≤ r.pendingGangs)
include hroom

theorem exec_glaunch_refused {n : Nat} (hn : r.refusal (s.launchAt s.cur (st.rx a).toNat) st.sup (some s.cur.core) = some n) :
    exec (.glaunch d a) s = .next (s.retire (st.wx d (BitVec.ofNat 64 (2 ^ 63 + n)))) := by
  rw [exec_glaunch, execGlaunch, State.acting_eq hs]
  dsimp only
  rw [h, hr]
  dsimp only
  rw [if_neg hroom, hn]

theorem exec_glaunch_posted (hn : r.refusal (s.launchAt s.cur (st.rx a).toNat) st.sup (some s.cur.core) = none) :
    exec (.glaunch d a) s = .next ((s.post r.vr (s.launchAt s.cur (st.rx a).toNat) .launch).retire
      (st.wx d (BitVec.ofNat 64 (s.launchAt s.cur (st.rx a).toNat).gangid))) := by
  rw [exec_glaunch, execGlaunch, State.acting_eq hs]
  dsimp only
  rw [h, hr]
  dsimp only
  rw [if_neg hroom, hn]

end

/-! ### GKILL and KILL (14 R348; 12 R297) -/

theorem exec_gkill_none (h : s.gang? s.cur.vr (bitsAt (st.rx a) 0 32) = none) :
    exec (.gkill d a) s = .next (s.retire (st.wx d 2)) := by
  rw [exec_gkill, execGkill, State.acting_eq hs]
  dsimp only
  rw [h]

theorem exec_gkill_some {x : Gang} (h : s.gang? s.cur.vr (bitsAt (st.rx a) 0 32) = some x) :
    exec (.gkill d a) s = .next (if x.launch.sup = true ∧ (!st.sup) = true then s.retire (st.wx d 3)
      else s.killFor st d s.cur.vr (bitsAt (st.rx a) 0 32)) := by
  rw [exec_gkill, execGkill, State.acting_eq hs]
  dsimp only
  rw [h]

theorem exec_kill_inReach (hsup : st.sup = true) {q : Rank} (hq : s.rank? st.selvr.toNat = some q) (hhere : s.inTransit q.vr = false)
    (hreach : s.InReach q) : exec (.kill d a) s = .next (s.killFor st d q.vr (bitsAt (st.rx a) 0 32)) := by
  rw [exec_kill, execKill, State.asSup_of_sup hs hsup, State.onSelected_inReach hq hhere hreach]

/-! ### GSTAT (14 R349) -/

/-- A completion record as GSTAT answers it (14 R349). -/
def Completion.status (c : Completion) : Nat := c.value.toNat + (if c.abandoned then 65536 else 0)

theorem exec_gstat_record (h : bitAt (st.rx a) 63 = true) : exec (.gstat d a) s = .next (s.retire (st.wx d (BitVec.ofNat 64
    ((((s.rank? s.cur.vr).bind fun r => r.completions[bitsAt (st.rx a) 0 6]?).map Completion.status).getD 0)))) := by
  rw [exec_gstat, execGstat, State.acting_eq hs]
  dsimp only
  rw [if_pos h]
  cases (s.rank? s.cur.vr).bind fun r => r.completions[bitsAt (st.rx a) 0 6]? <;> rfl

theorem exec_gstat_gang (h : bitAt (st.rx a) 63 = false) : exec (.gstat d a) s = .next (s.retire (st.wx d (BitVec.ofNat 64
    (((s.gang? s.cur.vr (bitsAt (st.rx a) 0 32)).map fun g => g.cond.code).getD 0)))) := by
  rw [exec_gstat, execGstat, State.acting_eq hs]
  dsimp only
  rw [if_neg (by simp [h])]
  cases s.gang? s.cur.vr (bitsAt (st.rx a) 0 32) <;> rfl

end

/-! ### A gang that is killed for a strand (14 R348, R351) -/

theorem State.killFor_none {s : State} {vr g : Nat} (h : s.gang? vr g = none) (st : Strand) (d : XReg) :
    s.killFor st d vr g = s.retire (st.wx d 2) := by
  rw [State.killFor, h]

theorem State.gang?_retire_none {s : State} {vr g : Nat} (h : s.gang? vr g = none) (st : Strand) : (s.retire st).gang? vr g = none := by
  rw [State.retire_eq]
  exact (State.gang?_modGang s _ _ vr g _ fun x => Gang.modCore_id x _ _).trans (by rw [h]; rfl)

theorem State.gang?_killFor {s : State} {vr g : Nat} {x : Gang} (h : s.gang? vr g = some x) (st : Strand) (d : XReg) :
    (s.killFor st d vr g).gang? vr g = none := by
  rw [State.killFor, h]
  dsimp only
  split
  · exact State.gang?_retire_none (s.gang?_endGang vr g) _
  · exact s.gang?_endGang vr g

/-- The rank that has dropped a gang for which no marker retires. -/
def Rank.without (g : Nat) (r : Rank) : Rank := (r.dropGang g).settleAll

@[simp] theorem Rank.without_vr (g : Nat) (r : Rank) : (r.without g).vr = r.vr := Rank.settle_vr _ _

section
variable {s : State} {vr g : Nat} {x : Gang} (hx : s.gang? vr g = some x) (hcond : x.cond = .waiting) (hsrc : x.source = .launch)
  (hcen : x.launch.cen = false) (hcmds : s.cmds = [])
include hx hcond hsrc hcen hcmds

/-- A waiting gang without marker, command or table leaves nothing but its rank. -/
theorem State.endGang_waiting : s.endGang vr g = s.modRank vr (Rank.without g) := by
  have hdiscard : ∀ p : Cmd → Bool, s.discardCmds p = s := fun p => by
    obtain ⟨⟩ := s
    simp only at hcmds
    subst hcmds
    rfl
  have hheld : x.holdsCores = false := by rw [Gang.holdsCores, hcond]
  have hmarker : ∀ r : Rank, r.retireGang x.launch true = r := fun r => by simp [Rank.retireGang, hcen]
  rw [State.endGang, hx]
  dsimp only
  rw [hheld, hsrc]
  simp only [Bool.false_eq_true, if_false, hdiscard, hmarker]
  rfl

/-- Where no other gang waits, the strands of the others stand. -/
theorem State.strand?_endGang_waiting {r : Rank} (hr : s.rank? vr = some r)
    (hno : ∀ y ∈ r.gangs, y.id ≠ g → y.cond ≠ .waiting) {q : SRef} (hvr : q.vr = vr) (hne : q.gang ≠ g) :
    (s.endGang vr g).strand? q = s.strand? q := by
  have hgangs : (Rank.without g r).gangs = (r.dropGang g).gangs := Rank.gangs_settleAll_of_none_waiting fun y hy => by
    obtain ⟨hy, hid⟩ := List.mem_filter.mp hy
    exact hno y hy (by simpa using hid)
  have hgang : (s.modRank vr (Rank.without g)).gang? q.vr q.gang = s.gang? q.vr q.gang := by
    rw [hvr, State.gang?, State.rank?_modRank_self hr _ fun r => r.without_vr g, Option.bind_some, Rank.gang?, hgangs, State.gang?, hr]
    exact r.gang?_dropGang_ne hne
  rw [State.endGang_waiting hx hcond hsrc hcen hcmds, State.strand?, State.core?, hgang]
  rfl

/-- What remains of killing such a gang for a strand: it is gone, and the strand reads 0 (14 R348). -/
theorem State.killFor_waiting {r : Rank} (hr : s.rank? vr = some r)
    (hno : ∀ y ∈ r.gangs, y.id ≠ g → y.cond ≠ .waiting) {st : Strand} (hs : s.strand? s.cur = some st)
    (hvr : s.cur.vr = vr) (hne : s.cur.gang ≠ g) (st' : Strand) (d : XReg) :
    s.killFor st' d vr g = (s.endGang vr g).retire (st.wx d 0) := by
  have hcur : (s.endGang vr g).cur = s.cur := by
    rw [State.endGang_waiting hx hcond hsrc hcen hcmds]
    rfl
  have hstrand : (s.endGang vr g).strand? (s.endGang vr g).cur = some st := by
    rw [hcur, State.strand?_endGang_waiting hx hcond hsrc hcen hcmds hr hno hvr hne, hs]
  rw [State.killFor, hx]
  dsimp only
  rw [hstrand]

end

theorem State.inTransit_eq_false {s : State} {vr : Nat} {r : Rank} (hr : s.rank? vr = some r) (hplace : r.place ≠ .transit)
    (hcmds : s.cmds = []) : s.inTransit vr = false := by
  simp [State.inTransit, hr, hplace, hcmds]

theorem State.inReach_own {s : State} {r : Rank} (hr : s.rank? s.cur.vr = some r) (hplace : r.place ≠ .transit) : s.InReach r := by
  cases hp : r.place with
  | resident k => exact .inr ⟨k, hp, by simp [State.partOfRank, State.slotOf, hr, Rank.slot?, hp]⟩
  | fallow => exact .inl hp
  | transit => exact absurd hp hplace

/-- Settles O34: a record by its place, its refusal and the room in the unit; a kill by the gang that it finds. -/
theorem gangInstructions : Obligations.GangInstructions := by
  intro s st d a r hs hr v g
  have hbits : bitsAt (st.rx a) 0 32 = g := bitsAt_zero_eq _ _
  refine ⟨fun hin hal hroom => ?_, fun hin hal hfull => ?_, fun hout => ?_, fun hin hal => ?_, fun hg => ?_, fun x hx hsup hrank => ?_,
    fun x hx hmay => ?_, fun hsup q hq hhere hreach => ?_, fun x hx hne hcond hsrc hcen hrank hcmds hno => ?_, fun h => ?_, fun h => ?_⟩
  · have hroom : ¬ 256 ≤ r.pendingGangs := by omega
    exact ⟨fun n => exec_glaunch_refused hs d a hr (recordViolation_none hin hal) hroom,
      exec_glaunch_posted hs d a hr (recordViolation_none hin hal) hroom⟩
  · exact exec_glaunch_full hs d a hr (recordViolation_none hin hal) hfull
  · exact exec_glaunch_violation hs d a (recordViolation_outside hout 128)
  · exact exec_glaunch_violation hs d a (recordViolation_misaligned hin hal)
  · exact exec_gkill_none hs d a (hbits ▸ hg)
  · rw [exec_gkill_some hs d a (hbits ▸ hx), if_pos ⟨hsup, by rw [hrank]; rfl⟩]
  · refine ⟨_, (exec_gkill_some hs d a (hbits ▸ hx)).trans (congrArg _ (if_neg fun h => ?_)),
      hbits ▸ State.gang?_killFor (hbits ▸ hx) st d⟩
    simp [hmay h.1] at h
  · rw [exec_kill_inReach hs d a hsup hq hhere hreach, hbits]
    exact ⟨fun hg => by rw [State.killFor_none hg], fun x hx => ⟨_, rfl, State.gang?_killFor hx st d⟩⟩
  · have hid := State.id_of_gang? hx
    have hne : s.cur.gang ≠ g := fun h => hne (hid.trans h.symm)
    have hkill := State.killFor_waiting hx hcond hsrc hcen hcmds hr (fun y hy hy' => hno y hy (hid ▸ hy')) hs rfl hne st d
    have hend := State.endGang_waiting hx hcond hsrc hcen hcmds
    have hstrand := State.strand?_endGang_waiting hx hcond hsrc hcen hcmds hr (fun y hy hy' => hno y hy (hid ▸ hy')) rfl hne
    refine ⟨s.killFor st d s.cur.vr g, (st.wx d 0).finish s.cur.strand 4, ?_, State.gang?_killFor hx st d, ?_, fun hd => ?_, ?_,
      fun hsup hsel hplace => ?_⟩
    · rw [exec_gkill_some hs d a (hbits ▸ hx), if_neg (by simp [hrank]), hbits]
    · rw [hkill, hend]
      exact State.strand?_retire (hend ▸ hstrand.trans hs) _
    · rw [Strand.rx_finish, Strand.rx_wx _ _ _ _ hd, if_pos rfl]
    · rw [hkill, hend]
      exact State.sameMemory_of_memories rfl
    · have hvr := State.vr_of_rank? hr
      rw [exec_kill_inReach hs d a hsup (hsel ▸ hr) (hvr ▸ State.inTransit_eq_false hr hplace hcmds) (State.inReach_own hr hplace),
        hvr, hbits]
  · rw [exec_gstat_record hs d a h, hr, Option.bind_some, show bitsAt (st.rx a) 0 6 = v.toNat % 64 from bitsAt_zero_eq _ _]
    cases r.completions[v.toNat % 64]? <;> rfl
  · rw [exec_gstat_gang hs d a h, hbits]
    cases s.gang? s.cur.vr g with
    | none => rfl
    | some x => cases hc : x.cond <;> simp [hc, GCond.code]

end Sys2Proof.Machine

/-! ### Changes of one rank or gang by a value read before -/

namespace Sys2Proof.Machine

theorem State.modRank_congr (s : State) {vr : Nat} {f f' : Rank → Rank} (h : ∀ q, q.vr = vr → f q = f' q) :
    s.modRank vr f = s.modRank vr f' := by
  unfold State.modRank
  congr 1
  refine List.map_congr_left fun q _ => ?_
  split
  · next hq => exact h q hq
  · rfl

theorem State.modGang_congr (s : State) {vr gang : Nat} {f f' : Gang → Gang} (h : ∀ x, x.id = gang → f x = f' x) :
    s.modGang vr gang f = s.modGang vr gang f' := by
  refine State.modRank_congr s fun q _ => ?_
  unfold Rank.modGang
  congr 1
  refine List.map_congr_left fun x _ => ?_
  split
  · next hx => exact h x hx
  · rfl

/-- Putting a rank in the place of the one of its VR. -/
theorem State.rank?_modRank_const {s : State} {vr : Nat} {r w : Rank} (hr : s.rank? vr = some r) (hw : w.vr = vr) :
    (s.modRank vr fun _ => w).rank? vr = some w := by
  rw [State.modRank_congr s (f' := fun q => { w with vr := q.vr }) fun q hq => by rw [hq, ← hw],
    State.rank?_modRank_self hr fun q => { w with vr := q.vr }, State.vr_of_rank? hr, ← hw]

theorem State.gang?_modGang_self {s : State} {vr gang : Nat} {g : Gang} (hg : s.gang? vr gang = some g) {f : Gang → Gang}
    (hf : ∀ x, (f x).id = x.id) : (s.modGang vr gang f).gang? vr gang = some (f g) := by
  rw [State.gang?_modGang s vr gang vr gang f hf, hg, Option.map_some, if_pos ⟨rfl, rfl⟩]

/-- Putting a gang in the place of the one of its number. -/
theorem State.gang?_modGang_const {s : State} {vr gang : Nat} {g w : Gang} (hg : s.gang? vr gang = some g) (hw : w.id = gang) :
    (s.modGang vr gang fun _ => w).gang? vr gang = some w := by
  rw [State.modGang_congr s (f' := fun x => { w with id := x.id }) fun x hx => by rw [hx, ← hw],
    State.gang?_modGang_self hg (f := fun x => { w with id := x.id }) fun _ => rfl, State.id_of_gang? hg, ← hw]

/-- A change of a rank that changes one of its gangs. -/
theorem State.gang?_modRank_gangs {s : State} {vr gang : Nat} {g : Gang} (hg : s.gang? vr gang = some g) {f : Rank → Rank}
    {h : Gang → Gang} (hid : ∀ x, (h x).id = x.id) (hvr : ∀ r, (f r).vr = r.vr)
    (hgangs : ∀ r, (f r).gangs = (r.modGang gang h).gangs) :
    (s.modRank vr f).gang? vr gang = some (h g) := by
  obtain ⟨r, hr, hgr⟩ := Option.bind_eq_some_iff.mp hg
  rw [State.gang?, State.rank?_modRank_self hr f hvr, Option.bind_some, Rank.gang?, hgangs]
  exact (r.gang?_modGang gang gang h hid).trans (by rw [hgr, Option.map_some, if_pos rfl])

/-! ### GANG_PLACE (14 R343, R344) -/

/-- The rank after the pre-emptions that the first gang of its walk asks for (14 R344). -/
def Rank.preempted (r : Rank) : Rank := match r.walkOrder.head? with
  | some g => r.preempt g
  | none => r

/-- The gangs that the walk of a rank places (14 R343). -/
def Rank.placedIds (r : Rank) : List Nat := walkPlace r.walkOrder r.preempted.heldCores []

/-- A gang of a rank after its walk: starting if the walk has placed it, a saved one as its frame gives it (12 R314). -/
def State.walkedGang (s : State) (r : Rank) (g : Gang) : Gang :=
  if r.placedIds.contains g.id then
    { (if r.placedIds.contains g.id then s.unframe r g else g) with cond := .starting, pads := [], rings := [] }
  else g

/-- A rank after its walk. -/
def State.walked (s : State) (r : Rank) : Rank :=
  { r.preempted with
    gangs := r.preempted.gangs.map (s.walkedGang r)
    frames := r.preempted.frames.filter fun f => !r.placedIds.contains f.gang
    walk := false }

/-- The scratchpads, rings and commands of the gangs that the walk places are read back from their frames (12 R314). -/
def State.readFrames (s : State) (slot : Nat) (r : Rank) : State :=
  (r.walkOrder.filter fun g => r.placedIds.contains g.id).foldl
    (fun u g => (u.restorePads slot (if r.placedIds.contains g.id then s.unframe r g else g)).readCmds r g) s

theorem State.readFrames_ranks (s : State) (slot : Nat) (r : Rank) : (s.readFrames slot r).ranks = s.ranks := by
  have hpads : ∀ (u : State) (g : Gang), (u.restorePads slot g).ranks = u.ranks := fun u g => by
    unfold State.restorePads
    split <;> rfl
  have hcmds : ∀ (u : State) (g : Gang), (u.readCmds r g).ranks = u.ranks := fun u g => by
    unfold State.readCmds
    split <;> rfl
  exact foldl_keeps State.ranks (fun u g => (hcmds _ g).trans (hpads u _)) _ _

theorem State.unframe_keeps (s : State) (r : Rank) (g : Gang) : (s.unframe r g).id = g.id ∧ (s.unframe r g).launch = g.launch := by
  unfold State.unframe
  split <;> exact ⟨rfl, rfl⟩

theorem State.walkedGang_placed (s : State) {r : Rank} {g : Gang} (h : g.id ∈ r.placedIds) :
    (s.walkedGang r g).cond = .starting ∧ (s.walkedGang r g).launch = g.launch := by
  have hmem : r.placedIds.contains g.id = true := by simpa using h
  rw [State.walkedGang, if_pos hmem, if_pos hmem]
  exact ⟨rfl, (s.unframe_keeps r g).2⟩

theorem State.walkedGang_other (s : State) {r : Rank} {g : Gang} (h : g.id ∉ r.placedIds) : s.walkedGang r g = g :=
  if_neg (by simpa using h)

theorem State.walkedGang_id (s : State) (r : Rank) (g : Gang) : (s.walkedGang r g).id = g.id := by
  unfold State.walkedGang
  split
  · exact (s.unframe_keeps r g).1
  · rfl

/-- The VR of a rank, and the launch record of each gang number of it. -/
def Rank.records (r : Rank) : Nat × (Nat → Option LaunchRec) := (r.vr, fun i => (r.gang? i).map Gang.launch)

theorem Rank.requestHalt_records (r : Rank) (g slot why : Nat) : (r.requestHalt g slot why).records = r.records := by
  refine Prod.ext rfl (funext fun i => ?_)
  refine (congrArg (Option.map Gang.launch) (r.gang?_modGang g i (fun x => { x with cond := .halting slot why }) fun _ => rfl)).trans ?_
  rw [Option.map_map]
  congr 1
  funext x
  dsimp only [Function.comp_apply]
  split <;> rfl

/-- Pre-emption changes the condition of gangs, not the gangs there are. -/
theorem Rank.preempted_records (r : Rank) : r.preempted.records = r.records := by
  unfold Rank.preempted
  split
  · unfold Rank.preempt
    dsimp only
    split
    · rfl
    · exact foldl_keeps Rank.records (fun r p => r.requestHalt_records _ _ _) _ _
  · rfl

section
variable {s : State} {slot vr : Nat} {r : Rank} (hocc : (s.slot slot).occupant = some vr) (hr : s.rank? vr = some r)
  (hslot : r.slot? = some slot) (hwalk : r.walk = true)
include hocc hr hslot hwalk

theorem exec_gangPlace_walks : exec (.gangPlace slot) s = .next ((s.readFrames slot r).modRank r.vr fun _ => s.walked r) := by
  rw [exec_gangPlace, execGangPlace]
  dsimp only
  rw [hocc, Option.bind_some, hr]
  dsimp only
  rw [if_neg (by simp [hwalk, hslot])]
  rfl

/-- The walk of the unit leaves its rank as `State.walked` says. -/
theorem exec_gangPlace_spec : ∃ t, exec (.gangPlace slot) s = .next t ∧ t.rank? vr = some (s.walked r) := by
  have hvr := State.vr_of_rank? hr
  refine ⟨_, exec_gangPlace_walks hocc hr hslot hwalk, ?_⟩
  rw [hvr]
  exact State.rank?_modRank_const ((State.rank?_congr (s.readFrames_ranks slot r) vr).trans hr)
    ((congrArg Prod.fst r.preempted_records).trans hvr)

end

theorem State.gang?_of_rank? {s : State} {vr : Nat} {r : Rank} (h : s.rank? vr = some r) (i : Nat) : s.gang? vr i = r.gang? i := by
  rw [State.gang?, h, Option.bind_some]

theorem State.gang?_walked (s : State) (r : Rank) (i : Nat) : (s.walked r).gang? i = (r.preempted.gang? i).map (s.walkedGang r) :=
  find?_mapGangs (s.walkedGang_id r) i

/-- A gang that the walk places is starting, with the record it was posted with. -/
theorem State.gang?_walked_placed (s : State) {r : Rank} {i : Nat} {g : Gang} (hg : r.gang? i = some g) (hi : i ∈ r.placedIds) :
    ∃ g', (s.walked r).gang? i = some g' ∧ g'.cond = .starting ∧ g'.launch = g.launch := by
  have hlaunch : (r.preempted.gang? i).map Gang.launch = (r.gang? i).map Gang.launch :=
    congrFun (congrArg Prod.snd r.preempted_records) i
  rw [hg, Option.map_some] at hlaunch
  obtain ⟨x, hx, hxl⟩ := Option.map_eq_some_iff.mp hlaunch
  have hid : x.id = i := by simpa using List.find?_some hx
  obtain ⟨hcond, hl⟩ := s.walkedGang_placed (hid ▸ hi : x.id ∈ r.placedIds)
  exact ⟨s.walkedGang r x, by rw [s.gang?_walked, hx, Option.map_some], hcond, hl.trans hxl⟩

/-- Every other gang stands as the pre-emptions left it. -/
theorem State.gang?_walked_other (s : State) {r : Rank} {i : Nat} {g : Gang} (hg : r.preempted.gang? i = some g) (hi : i ∉ r.placedIds) :
    (s.walked r).gang? i = some g := by
  have hid : g.id = i := by simpa using List.find?_some hg
  rw [s.gang?_walked, hg, Option.map_some, s.walkedGang_other (hid ▸ hi)]

/-- The walk of a rank with one ready gang places it. -/
theorem Rank.placedIds_single {r : Rank} {g : Gang} (hgangs : r.gangs = [g]) (hready : g.cond = .ready) : r.placedIds = [g.id] := by
  have horder : r.walkOrder = [g] := by simp [Rank.walkOrder, hgangs, Gang.candidate, hready, sortBy, insertBy]
  have hpre : r.preempted = r := by simp [Rank.preempted, horder, Rank.preempt, hgangs, hready]
  have hheld : r.heldCores = [] := by simp [Rank.heldCores, hgangs, Gang.holdsCores, hready]
  simp [Rank.placedIds, hpre, hheld, horder, walkPlace]

/-! ### GANG_START (14 R345; 02 R45) -/

/-- A gang that starts for the first time (14 R345). -/
def Gang.begun (g : Gang) : Gang := { g with cond := .placed, cores := g.launch.coreList.map fun e => Core.start g.launch e.1 e.2 }

/-- A restored gang that goes on (12 R314). -/
def Gang.resumed (g : Gang) : Gang := { g.mapCores Core.restored with cond := .placed }

/-- The rank of a gang that is restored: the unit walks, and a page that the gang awaited may be asked for again (13 R331; 14 R343). -/
def Rank.resumed (gang : Nat) (r : Rank) : Rank :=
  { r.modGang gang Gang.resumed with pagedOnce := r.pagedOnce.filter fun p => p.1 != gang, walk := true }

/-- The halted commands of a restored gang run on (12 R313). -/
def State.resumeCmds (s : State) (vr gang : Nat) : State :=
  { s with cmds := s.cmds.map fun (c : Cmd) =>
      if c.by'.vr = vr ∧ c.by'.gang = gang ∧ c.st = CmdSt.halted then { c with st := .running } else c }

theorem Strand.rx_start (arg pc : Word) (sup : Bool) (j : XReg) : (Strand.start arg pc sup).rx j = if j = 1 then arg else 0 := by
  rw [Strand.rx]
  by_cases h1 : j = 1
  · subst h1
    rfl
  · have hne : ¬ 1 = j.toNat := fun h => h1 (BitVec.eq_of_toNat_eq h.symm)
    rw [if_neg h1, Strand.start]
    simp [hne, j.isLt]

/-- The strands of a core at the start of its gang, by their place in the entry table. -/
theorem Core.strand_start {l : LaunchRec} {n m i : Nat} {st : Strand}
    (h : (st, i) ∈ [((Core.start l n m).l, 0), ((Core.start l n m).c, 1), ((Core.start l n m).s, 2)]) :
    st = Strand.start l.arg (l.entryPoint m i) l.sup := by
  simp only [List.mem_cons, Prod.mk.injEq, List.not_mem_nil, or_false] at h
  obtain ⟨rfl, rfl⟩ | ⟨rfl, rfl⟩ | ⟨rfl, rfl⟩ := h <;> rfl

section
variable {s : State} {vr gang : Nat} {g : Gang} (hg : s.gang? vr gang = some g)
include hg

theorem exec_gangStart_first (hcond : g.cond = .starting) (hnew : g.cores = []) (hfree : s.startHeldFor vr = false) :
    exec (.gangStart vr gang) s = .next (s.modGang vr gang Gang.begun) := by
  rw [exec_gangStart, execGangStart, hg]
  dsimp only
  rw [if_neg (by simp [hcond]), if_pos (by simp [hnew]), if_neg (by simp [hfree])]
  rfl

theorem exec_gangStart_again (hcond : g.cond = .starting) (hcores : g.cores ≠ []) :
    exec (.gangStart vr gang) s = .next ((s.resumeCmds vr gang).modRank vr (Rank.resumed gang)) := by
  rw [exec_gangStart, execGangStart, hg]
  dsimp only
  rw [if_neg (by simp [hcond]), if_neg (by simpa using hcores)]
  rfl

theorem exec_gangStart_idle (h : g.cond ≠ .starting ∨ (g.cores = [] ∧ s.startHeldFor vr = true)) :
    exec (.gangStart vr gang) s = .next s := by
  rw [exec_gangStart, execGangStart, hg]
  dsimp only
  obtain hcond | ⟨hnew, hheld⟩ := h
  · rw [if_pos (by simpa using hcond)]
  · simp only [hnew, List.isEmpty_nil, hheld, if_true, ite_self]

end

/-! ### GANG_HALT (12 R308 to R313) -/

/-- A gang at its entry points, if it had not started issuing (12 R308). -/
def Gang.atEntry (g : Gang) : Gang :=
  if g.cores.isEmpty then { g with cores := g.launch.coreList.map fun e => Core.start g.launch e.1 e.2 } else g

theorem Gang.atEntry_keeps (g : Gang) : g.atEntry.id = g.id ∧ g.atEntry.launch = g.launch := by
  unfold Gang.atEntry
  split <;> exact ⟨rfl, rfl⟩

/-- A gang whose frame is written (12 R310). -/
def Gang.saved (frame why : Nat) (g : Gang) : Gang :=
  { g.mapCores Core.halted with cond := .saved frame why false, levels := 0, readyCycles := 0 }

theorem State.gang?_saveGang {s : State} {vr : Nat} {x : Gang} (hx : s.gang? vr x.id = some x) (slot frame why : Nat) :
    (s.saveGang vr x slot frame why).gang? vr x.id = some (x.saved frame why) := by
  obtain ⟨r, hr, -⟩ := Option.bind_eq_some_iff.mp hx
  rw [State.saveGang, hr]
  refine State.gang?_modRank_gangs (g := x) ?_ (h := Gang.saved frame why) (fun _ => rfl) (fun _ => rfl) fun _ => rfl
  exact (State.gang?_congr rfl vr x.id).trans hx

theorem exec_gangHalt_halting {s : State} {vr gang : Nat} {g : Gang} (hg : s.gang? vr gang = some g)
    {slot frame why : Nat} (hslot : s.slotOf vr = some slot) (hcond : g.cond = .halting frame why) :
    exec (.gangHalt vr gang) s = .next ((s.modGang vr gang fun _ => g.atEntry).saveGang vr g.atEntry slot frame why) := by
  rw [exec_gangHalt, execGangHalt, hg, hslot]
  dsimp only
  split
  · next f w h =>
    obtain ⟨rfl, rfl⟩ := GCond.halting.inj (h.symm.trans hcond)
    rfl
  · next h => exact absurd hcond (h frame why)

/-! ### GANG_COMPLETE (01 R28; 14 R340, R359) -/

/-- The rank whose gang has completed: its marker has retired, its dependants have resolved (14 R340, R341). -/
def Rank.completed (gang : Nat) (l : LaunchRec) (r : Rank) : Rank := ((r.dropGang gang).retireGang l false).settleAll

theorem Rank.completed_vr (gang : Nat) (l : LaunchRec) (r : Rank) : (r.completed gang l).vr = r.vr :=
  (Rank.settle_vr _ _).trans (Rank.retireGang_keeps _ _ _).1

theorem Rank.completed_sched (gang : Nat) (l : LaunchRec) (r : Rank) : (r.completed gang l).sched = r.sched :=
  (Rank.settle_sched _ _).trans (Rank.retireGang_sched _ _ _)

section
variable {s : State} {vr gang : Nat} {g : Gang} (hg : s.gang? vr gang = some g)
include hg

theorem exec_gangComplete_running (h : s.gangDone vr g = false) : exec (.gangComplete vr gang) s = .next s := by
  rw [exec_gangComplete, execGangComplete, hg]
  dsimp only
  rw [h]
  rfl

variable (hdone : s.gangDone vr g = true)
include hdone

theorem exec_gangComplete_posted (hsrc : ∀ k, g.source ≠ .sched k) :
    exec (.gangComplete vr gang) s = .next (s.modRank vr (Rank.completed gang g.launch)) := by
  rw [exec_gangComplete, execGangComplete, hg]
  dsimp only
  rw [hdone]
  cases hs : g.source with
  | sched k => exact absurd hs (hsrc k)
  | _ => rfl

theorem exec_gangComplete_sched {k : Nat} (hsrc : g.source = .sched k) :
    exec (.gangComplete vr gang) s = .next ((s.modRank vr (Rank.completed gang g.launch)).entryComplete vr) := by
  rw [exec_gangComplete, execGangComplete, hg]
  dsimp only
  rw [hdone, hsrc]
  rfl

end

/-- The place, the state and the entries of the table of a rank. -/
def State.tableAt (s : State) (vr : Nat) : Option (Nat × SchedSt × List (BitVec 256)) :=
  (s.rank? vr).map fun r => (r.sched.pos, r.sched.st, r.sched.entries)

theorem State.tableAt_congr {s t : State} (h : t.ranks = s.ranks) (vr : Nat) : t.tableAt vr = s.tableAt vr := by
  rw [State.tableAt, State.rank?_congr h, State.tableAt]

theorem State.tableAt_modSched (s : State) (v vr : Nat) {f : Sched → Sched}
    (hf : ∀ t, (f t).pos = t.pos ∧ (f t).st = t.st ∧ (f t).entries = t.entries) : (s.modSched v f).tableAt vr = s.tableAt vr := by
  rw [State.tableAt, State.modSched, State.rank?_modRank s v vr (fun r => { r with sched := f r.sched }) fun _ => rfl, Option.map_map,
    State.tableAt]
  congr 1
  funext r
  obtain ⟨hpos, hst, hents⟩ := hf r.sched
  dsimp only [Function.comp_apply]
  split
  · rw [hpos, hst, hents]
  · rfl

theorem State.sendVr_ranks (s : State) (m : Demand) : (s.sendVr m).ranks = s.ranks := by
  unfold State.sendVr
  dsimp only
  split
  · exact State.send_keeps State.ranks (fun _ _ => rfl) (fun _ _ => rfl) s m
  · exact congrArg (·.1) (s.sendFrame_collState _ _ _ _)

/-- The arrival at the neighbour that the completion of an entry sends (14 R359). -/
def State.sendOutput (s : State) (r : Rank) (e : BitVec 256) : State :=
  if entOut e = 1 then s.sendArrival r r.sched.dnvr false (entMb e)
  else if entOut e = 2 then s.sendArrival r r.sched.upvr true (entMb e) else s

/-- A backward entry gives its stash slot back (14 R359). -/
def State.freeStash (s : State) (vr : Nat) (e : BitVec 256) : State :=
  if entKind e = 2 then s.modSched vr fun t => { t with stash := t.stash - 1 } else s

/-- With AUTO the slot of the entry's input is freed and posted (14 R359). -/
def State.freeInput (s : State) (vr : Nat) (r : Rank) (e : BitVec 256) : State :=
  if !r.sched.auto then s
  else if entIn e = 1 ∧ r.sched.arra.contains (entMb e) then
    (s.modSched vr fun t => { t with arra := t.arra.erase (entMb e), ainu := t.ainu - 1 }).sendSlots r false 1
  else if entIn e = 2 ∧ r.sched.arrg.contains (entMb e) then
    (s.modSched vr fun t => { t with arrg := t.arrg.erase (entMb e), ginu := t.ginu - 1 }).sendSlots r true 1
  else s

/-- The rank whose table goes on to its next entry (14 R359). -/
def Rank.nextEntry (r : Rank) : Rank :=
  { r with sched := { r.sched with
      outst := false, pos := r.sched.pos + 1, entryDone := r.sched.entryDone ++ [(r.sched.pos, false)],
      st := if r.sched.st = SchedSt.halting then SchedSt.halted
        else if r.sched.pos + 1 = r.sched.entries.length then .done else .ready } }.settleAll

theorem State.tableAt_sendOutput (s : State) (r : Rank) (e : BitVec 256) (vr : Nat) : (s.sendOutput r e).tableAt vr = s.tableAt vr := by
  unfold State.sendOutput
  split
  · exact State.tableAt_congr (s.sendVr_ranks _) vr
  · split
    · exact State.tableAt_congr (s.sendVr_ranks _) vr
    · rfl

theorem State.tableAt_freeStash (s : State) (v : Nat) (e : BitVec 256) (vr : Nat) : (s.freeStash v e).tableAt vr = s.tableAt vr := by
  unfold State.freeStash
  split
  · exact s.tableAt_modSched v vr fun _ => ⟨rfl, rfl, rfl⟩
  · rfl

theorem State.tableAt_freeInput (s : State) (v : Nat) (r : Rank) (e : BitVec 256) (vr : Nat) :
    (s.freeInput v r e).tableAt vr = s.tableAt vr := by
  have hslots : ∀ (u : State) (grad : Bool) (n : Nat), (u.sendSlots r grad n).tableAt vr = u.tableAt vr := fun u grad n =>
    State.tableAt_congr (u.sendVr_ranks _) vr
  unfold State.freeInput
  split
  · rfl
  · split
    · exact (hslots _ _ _).trans (s.tableAt_modSched v vr fun _ => ⟨rfl, rfl, rfl⟩)
    · split
      · exact (hslots _ _ _).trans (s.tableAt_modSched v vr fun _ => ⟨rfl, rfl, rfl⟩)
      · rfl

section
variable {s : State} {vr : Nat} {r : Rank} (hr : s.rank? vr = some r) {e : BitVec 256} (he : r.sched.headEntry = some e)
  (hstash : ¬ (entKind e = 2 ∧ r.sched.stash = 0))
include hr he hstash

theorem State.entryComplete_eq :
    s.entryComplete vr = (((s.sendOutput r e).freeStash vr e).freeInput vr r e).modRank vr Rank.nextEntry := by
  rw [State.entryComplete, hr]
  dsimp only
  rw [he]
  dsimp only
  rw [if_neg hstash]
  rfl

/-- The completion of an entry takes the table to the next one. -/
theorem State.entryComplete_spec : ∃ r', (s.entryComplete vr).rank? vr = some r' ∧ r'.sched.pos = r.sched.pos + 1 ∧
    r'.sched.outst = false ∧ r'.sched.st = if r.sched.st = SchedSt.halting then SchedSt.halted
      else if r.sched.pos + 1 = r.sched.entries.length then .done else .ready := by
  have htable : (((s.sendOutput r e).freeStash vr e).freeInput vr r e).tableAt vr = some (r.sched.pos, r.sched.st, r.sched.entries) := by
    rw [State.tableAt_freeInput, State.tableAt_freeStash, State.tableAt_sendOutput, State.tableAt, hr, Option.map_some]
  obtain ⟨q, hq, hqt⟩ := Option.map_eq_some_iff.mp htable
  simp only [Prod.mk.injEq] at hqt
  obtain ⟨hpos, hst, hents⟩ := hqt
  refine ⟨q.nextEntry, ?_, ?_⟩
  · rw [State.entryComplete_eq hr he hstash]
    exact State.rank?_modRank_self hq Rank.nextEntry fun _ => Rank.settle_vr _ _
  · rw [← hpos, ← hst, ← hents, Rank.nextEntry, Rank.settleAll, Rank.settle_sched]
    exact ⟨rfl, rfl, rfl⟩

end

/-- Settles O36: the walk by what it leaves of its rank; a start, a halt and a completion by the condition of the gang. -/
theorem gangLifeCycle : Obligations.GangLifeCycle := by
  intro s
  refine ⟨fun slot vr r hocc hr hslot hwalk => ?_, fun slot vr r g hocc hr hslot hwalk hgangs hready => ?_, fun vr gang => rfl,
    fun vr gang g hg hcond hnew hfree => ?_, fun vr gang g hg hcond hcores => ?_, fun vr gang g hg => exec_gangStart_idle hg,
    fun vr gang slot frame why g hg hslot hcond => ?_, fun vr gang g r hg hr => ?_⟩
  · obtain ⟨t, ht, hrank⟩ := exec_gangPlace_spec hocc hr hslot hwalk
    refine ⟨t, ht, by rw [hrank]; rfl, fun i g hi hmem => ?_, fun i g hi hno => ?_⟩
    · rw [State.gang?_of_rank? hrank]
      exact s.gang?_walked_placed hi hmem
    · rw [State.gang?_of_rank? hrank]
      exact s.gang?_walked_other hi hno
  · obtain ⟨t, ht, hrank⟩ := exec_gangPlace_spec hocc hr hslot hwalk
    obtain ⟨g', hg', hplaced⟩ := s.gang?_walked_placed (r := r) (i := g.id) (g := g) (by simp [Rank.gang?, hgangs])
      (by rw [Rank.placedIds_single hgangs hready]; exact List.mem_singleton_self _)
    exact ⟨t, g', ht, (State.gang?_of_rank? hrank _).trans hg', hplaced⟩
  · refine ⟨_, g.begun, exec_gangStart_first hg hcond hnew hfree, State.gang?_modGang_self hg (fun _ => rfl), rfl, rfl,
      State.sameMemory_of_memories rfl, List.map_map.trans (List.map_id _), fun k hk st i hst => ?_⟩
    obtain ⟨⟨n, m⟩, -, rfl⟩ := List.mem_map.mp hk
    rw [Core.strand_start hst]
    refine ⟨rfl, Strand.rx_start _ _ _ 1, fun j hj => (Strand.rx_start _ _ _ j).trans (if_neg hj), rfl, rfl, rfl, rfl, rfl, rfl⟩
  · exact ⟨_, g.resumed, exec_gangStart_again hg hcond hcores,
      State.gang?_modRank_gangs ((State.gang?_congr rfl vr gang).trans hg) (fun _ => rfl) (fun _ => rfl) fun _ => rfl, rfl, rfl, rfl,
      State.sameMemory_of_memories rfl⟩
  · obtain ⟨hid, hlaunch⟩ := g.atEntry_keeps
    have hid := hid.trans (State.id_of_gang? hg)
    have hentry := State.gang?_modGang_const hg hid
    have hsaved := State.gang?_saveGang (hid ▸ hentry) slot frame why
    exact ⟨_, g.atEntry.saved frame why, exec_gangHalt_halting hg hslot hcond, hid ▸ hsaved, rfl, hlaunch⟩
  · refine ⟨exec_gangComplete_running hg, exec_gangComplete_posted hg, fun hdone hsrc _ => ?_, fun k e hdone hsrc he hstash => ?_⟩
    · refine ⟨_, exec_gangComplete_posted hg hdone hsrc, ?_, State.sameMemory_of_memories rfl⟩
      exact s.gang?_modRank_none (Rank.completed_vr gang g.launch) fun r _ =>
        Rank.gang?_settle_none _ ((Rank.gang?_retireGang _ _ _ gang).trans (r.gang?_dropGang_self gang))
    · have hdropped := State.rank?_modRank_self hr (Rank.completed gang g.launch) (Rank.completed_vr gang g.launch)
      have hsched := r.completed_sched gang g.launch
      obtain ⟨r', hr', hnext⟩ := State.entryComplete_spec hdropped (hsched ▸ he) (hsched ▸ hstash)
      exact ⟨_, r', exec_gangComplete_sched hg hdone hsrc, hr', hsched ▸ hnext⟩

end Sys2Proof.Machine

/-! ### Migration: what sending, publishing and telling leave (15 R376; 17 R413, R425, R426) -/

namespace Sys2Proof.Machine

/-- What neither a message nor the copying of pages touches: host memory, slots, ranks, commands, placement entries, the slots
offered, the package's number, the ranks that come in. -/
structure Settled where
  hostMem : Memory
  slots : Vector Slot 16
  ranks : List Rank
  cmds : List Cmd
  place : List (Nat × Word)
  clavail : BitVec 16
  pkgid : Word
  incoming : List Rank

def State.settled (s : State) : Settled :=
  { hostMem := s.hostMem, slots := s.slots, ranks := s.ranks, cmds := s.cmds, place := s.place, clavail := s.clavail,
    pkgid := s.pkgid, incoming := s.incoming }

/-- What no message touches: what is settled, and memory. -/
def State.standing (s : State) : Memory × Settled := (s.mem, s.settled)

theorem State.settled_of_standing {s t : State} (h : t.standing = s.standing) : t.settled = s.settled := congrArg Prod.snd h

theorem State.rank?_of_settled {s t : State} (h : t.settled = s.settled) (v : Nat) : t.rank? v = s.rank? v :=
  State.rank?_congr (congrArg Settled.ranks h) v

theorem State.sameMemory_of_standing {s t : State} (h : t.standing = s.standing) : s.SameMemory t :=
  State.sameMemory_of_memories (congrArg (fun p : Memory × Settled => (p.1, p.2.hostMem, p.2.slots)) h)

theorem State.standing_sendFrame (s : State) (kind : Nat) (h : FrameHdr) (body : FrameBody) (op : Option (Nat × Nat)) :
    (s.sendFrame kind h body op).standing = s.standing := by
  unfold State.sendFrame
  dsimp only
  split
  · rfl
  · split <;> rfl

theorem State.standing_sendTo (s : State) (dom : Nat) (m : Demand) : (s.sendTo dom m).standing = s.standing := by
  unfold State.sendTo
  split
  · exact State.send_keeps State.standing (fun _ _ => rfl) (fun _ _ => rfl) s m
  · exact s.standing_sendFrame _ _ _ _

theorem State.standing_publish (s : State) (dests : List (Nat × Nat)) (m : DHdr → Demand) (cmd gran : Option Nat) :
    (s.publish dests m cmd gran).standing = s.standing := by
  unfold State.publish
  dsimp only
  split <;> exact foldl_keeps (fun r : List Nat × State => r.2.standing) (fun r d => State.standing_sendTo _ _ _) dests ([], s)

theorem State.standing_publishPlace (s : State) (vr : Nat) (cmd : Option Nat) : (s.publishPlace vr cmd).standing = s.standing := by
  unfold State.publishPlace
  exact s.standing_publish _ _ _ _

theorem State.standing_tell (s : State) (vr : Nat) : (s.tell vr).standing = s.standing := by
  unfold State.tell
  split
  · split <;> rfl
  · rfl

theorem State.standing_sendPart (s : State) (t : BitVec 512) (p : MigPart) : (s.sendPart t p).standing = s.standing := by
  unfold State.sendPart
  split
  · rfl
  · exact s.standing_sendFrame _ _ _ _

/-! ### Placement entries (15 R367) -/

theorem State.placeEntry_of_settled {s t : State} (h : t.settled = s.settled) (v : Nat) : t.placeEntry v = s.placeEntry v := by
  rw [State.placeEntry, show t.place = s.place from congrArg Settled.place h, State.placeEntry]

theorem State.placeEntry_setPlace_self (s : State) (vr : Nat) (e : Word) : (s.setPlace vr e).placeEntry vr = e := by
  have hnone : (s.place.filter fun p => p.1 != vr).find? (fun p => p.1 == vr) = none := by simp
  simp [State.placeEntry, State.setPlace, List.find?_append, hnone]

theorem State.placeEntry_setPlace_ne (s : State) {vr w : Nat} (h : w ≠ vr) (e : Word) :
    (s.setPlace vr e).placeEntry w = s.placeEntry w := by
  have hfilter : (s.place.filter fun p => p.1 != vr).find? (fun p => p.1 == w) = s.place.find? fun p => p.1 == w := by
    rw [List.find?_filter]
    congr 1
    funext p
    by_cases hp : p.1 = w <;> simp [hp, h]
  simp [State.placeEntry, State.setPlace, List.find?_append, hfilter, Ne.symm h]

/-- An entry that is written again has the STATE given. -/
theorem State.placeState_restate (s : State) (vr : Nat) {st slot : Nat} (hst : st < 4) (hslot : slot < 16) :
    placeState (s.restate vr st slot) = st := by
  unfold State.restate placeState
  split
  · rw [bitsAt, extractLsb'_putBits_apart _ (.inr (by decide)), extractLsb'_putBits_self _ (by decide), BitVec.toNat_ofNat]
    omega
  · rw [bitsAt_eq, BitVec.toNat_ofNat]
    split <;> omega

theorem bitsAt_lt {k : Nat} (v : BitVec k) (lo n : Nat) : bitsAt v lo n < 2 ^ n := BitVec.isLt _

/-! ### The result record and the end of a migration command (15 R373, R374; 05 R453) -/

/-- The writes of a result record. -/
def migRecord (t : BitVec 512) (status pages frames gangs : Nat) : List EByte :=
  (leBytes 8 (status + 2 ^ 16 * (pages % 2 ^ 32)) ++ leBytes 8 (frames % 2 ^ 32 + 2 ^ 32 * gangs)).zipIdx.map fun p =>
    { dst := .phys (migResult t + p.2), val := p.1 }

theorem migRecord_ne_nil (t : BitVec 512) (status pages frames gangs : Nat) : migRecord t status pages frames gangs ≠ [] := by
  simp [migRecord, leBytes]

theorem migRecord_phys {t : BitVec 512} {status pages frames gangs : Nat} {e : EByte} (h : e ∈ migRecord t status pages frames gangs) :
    ∃ a, e.dst = .phys a := by
  obtain ⟨p, -, rfl⟩ := List.mem_map.mp h
  exact ⟨_, rfl⟩

/-- What the end of a command leaves: the command is gone, its rank's view has grown, the rest stands. -/
structure State.Retired (s : State) (c : Cmd) (ws : List EByte) (u : State) : Prop where
  gone : u.cmd? c.id = none
  memories : u.memories = s.memories
  place : u.place = s.place
  clavail : u.clavail = s.clavail
  rank : ∀ v, u.rank? v = (s.rank? v).map fun r => if v = c.by'.vr then c.viewed ws r else r

theorem State.retired_retireCmd (s : State) {c : Cmd} {ws : List EByte} (hphys : ∀ e ∈ ws, ∃ a, e.dst = .phys a) :
    s.Retired c ws (s.retireCmd c ws) := by
  have hforeign : ∀ w ∈ ws, ownPad c.by'.core w.dst = false := fun w hw => by
    obtain ⟨a, ha⟩ := hphys w hw
    rw [ha]
    rfl
  refine ⟨State.cmd?_retireCmd s c ws, State.retireCmd_memories hforeign, ?_, ?_, fun v => ?_⟩
  · rw [State.retireCmd_foreign hforeign]; rfl
  · rw [State.retireCmd_foreign hforeign]; rfl
  · rw [State.retireCmd_foreign hforeign]
    exact State.rank?_modRank { s with cmds := s.cmds.filter fun x => x.id != c.id } _ v (c.viewed ws) fun _ => rfl

/-- A migration command ends with its result record, whose bytes are open where its strand has written them meanwhile (05 R131). -/
theorem State.retired_endMigr (s : State) (c : Cmd) (t : BitVec 512) (status pages frames gangs : Nat) :
    ∃ ws, s.Retired c ws (s.endMigr c t status pages frames gangs) ∧ (c.spoiled = [] → ws = migRecord t status pages frames gangs) := by
  have hphys : ∀ e ∈ (s.openSpoiled c (migRecord t status pages frames gangs)).1, ∃ a, e.dst = .phys a := fun e he => by
    obtain ⟨w, hw, hdst⟩ := s.dst_openSpoiled c he
    rw [← hdst]
    exact migRecord_phys hw
  have hopen : ∃ n, (s.openSpoiled c (migRecord t status pages frames gangs)).2 = s.freeAt n := by
    unfold State.openSpoiled
    split
    · exact ⟨s.free, rfl⟩
    · exact ⟨_, rfl⟩
  have hend : s.endMigr c t status pages frames gangs = (s.openSpoiled c (migRecord t status pages frames gangs)).2.retireCmd c
      (s.openSpoiled c (migRecord t status pages frames gangs)).1 := by
    unfold State.endMigr State.endCmd
    dsimp only
    rw [runWrites_phys]
    exact if_pos (by rw [← migRecord, peerRuns_of_phys hphys]; rfl)
  obtain ⟨n, hn⟩ := hopen
  obtain ⟨hgone, hmem, hplace, hclavail, hrank⟩ := (s.freeAt n).retired_retireCmd hphys
  rw [hend, hn]
  exact ⟨_, ⟨hgone, hmem, hplace, hclavail, hrank⟩, fun h => by rw [State.openSpoiled, h]; rfl⟩

section
variable {s u : State} {c : Cmd} {ws : List EByte} (h : s.Retired c ws u)
include h

theorem State.Retired.rank_place {v : Nat} {r : Rank} (hr : s.rank? v = some r) : ∃ q, u.rank? v = some q ∧ q.place = r.place := by
  refine ⟨_, (h.rank v).trans (congrArg _ hr), ?_⟩
  dsimp only
  split <;> rfl

theorem State.Retired.slot (k : Nat) : u.slot k = s.slot k := by
  rw [State.slot, show u.slots = s.slots from congrArg (·.2.2) h.memories, State.slot]

/-- The record joins the view of the core that has issued the command. -/
theorem State.Retired.report (hne : ws ≠ []) {k : Rank} (hk : s.rank? c.by'.vr = some k) : ∃ q w, u.rank? c.by'.vr = some q ∧
    q.place = k.place ∧ q.engView = k.engView ++ [w] ∧ w.core = c.by'.core ∧ w.bytes = ws := by
  have hq : u.rank? c.by'.vr = some (c.viewed ws k) := (h.rank _).trans ((congrArg _ hk).trans (congrArg some (if_pos rfl)))
  refine ⟨_, { core := c.by'.core, strand := c.by'.strand, order := c.order, bytes := ws }, hq, rfl, ?_, rfl, rfl⟩
  rw [Cmd.viewed, if_neg hne]
end

/-! ### A migration that fails (15 R368, R374) -/

/-- The rank is back where the template has it come from, and its placement entry says so. -/
def State.putBack (s : State) (t : BitVec 512) : State :=
  (s.modRank (migVr t) fun r => { r with place := migrSource t }).setPlace (migVr t)
    (s.restate (migVr t) (if bitsAt t 30 2 = 0 then 0 else 1) (bitsAt t 20 4))

theorem State.rank?_putBack (s : State) (t : BitVec 512) (v : Nat) : (s.putBack t).rank? v =
    (s.rank? v).map fun r => if v = migVr t then { r with place := migrSource t } else r :=
  s.rank?_modRank (migVr t) v (fun r => { r with place := migrSource t }) fun _ => rfl

theorem State.placeState_putBack (s : State) (t : BitVec 512) : placeState ((s.putBack t).placeEntry (migVr t)) < 2 := by
  rw [State.putBack, State.placeEntry_setPlace_self, s.placeState_restate _ (by split <;> decide) (bitsAt_lt t 20 4)]
  split <;> decide

theorem State.abandonMigr_moving (s : State) {c : Cmd} {t : BitVec 512} {stage pages gangs root : Nat} {taken : List Nat}
    (hbody : c.body = .migr t stage taken pages gangs root) (hstage : stage = 1 ∨ stage = 2) :
    s.abandonMigr c = (s.putBack t).tell (migVr t) := by
  unfold State.abandonMigr
  rw [hbody]
  exact if_pos hstage

/-- A migration that fails puts the rank back, and ends with a record; of memory only the frames taken change. -/
theorem State.failMigr_eq (s : State) {c : Cmd} {t : BitVec 512} {stage pages gangs root : Nat} {read : List Nat}
    (hbody : c.body = .migr t stage read pages gangs root) (hstage : stage = 1 ∨ stage = 2) (status : Nat) (taken : List Nat) :
    ∃ v : State, s.failMigr c t status taken = v.endMigr c t status 0 taken.length 0 ∧ v.settled = (s.putBack t).settled ∧
      (taken = [] → v.standing = (s.putBack t).standing) := by
  have hback : ((s.abandonMigr c).publishPlace (migVr t) none).standing = (s.putBack t).standing := by
    rw [State.standing_publishPlace, s.abandonMigr_moving hbody hstage, State.standing_tell]
  refine ⟨_, rfl, ?_, fun hnil => ?_⟩
  · refine Eq.trans ?_ (State.settled_of_standing hback)
    split
    · refine foldl_keeps State.settled (fun s a => ?_) _ _
      rfl
    · rfl
  · subst hnil
    refine Eq.trans ?_ hback
    split <;> rfl

section
variable {s : State} {c : Cmd} {t : BitVec 512} {stage pages gangs root : Nat} {read : List Nat}
  (hbody : c.body = .migr t stage read pages gangs root) (hstage : stage = 1 ∨ stage = 2) (status : Nat) (taken : List Nat)
include hbody hstage

theorem State.failMigr_rank {r : Rank} (hr : s.rank? (migVr t) = some r) :
    ∃ q, (s.failMigr c t status taken).rank? (migVr t) = some q ∧ q.place = migrSource t := by
  obtain ⟨v, hv, hset, -⟩ := s.failMigr_eq hbody hstage status taken
  obtain ⟨ws, hret, -⟩ := v.retired_endMigr c t status 0 taken.length 0
  have hback : v.rank? (migVr t) = some { r with place := migrSource t } := by
    rw [State.rank?_of_settled hset, State.rank?_putBack, hr, Option.map_some, if_pos rfl]
  rw [hv]
  exact hret.rank_place hback

theorem State.failMigr_reports (hspoiled : c.spoiled = []) : (s.failMigr c t status taken).cmd? c.id = none ∧
    ∀ k, s.rank? c.by'.vr = some k → ∃ q w, (s.failMigr c t status taken).rank? c.by'.vr = some q ∧ q.engView = k.engView ++ [w] ∧
      w.bytes = migRecord t status 0 taken.length 0 := by
  obtain ⟨v, hv, hset, -⟩ := s.failMigr_eq hbody hstage status taken
  obtain ⟨ws, hret, hws⟩ := v.retired_endMigr c t status 0 taken.length 0
  obtain rfl := hws hspoiled
  rw [hv]
  refine ⟨hret.gone, fun k hk => ?_⟩
  obtain ⟨q, hq, hview⟩ : ∃ q, v.rank? c.by'.vr = some q ∧ q.engView = k.engView := by
    rw [State.rank?_of_settled hset, State.rank?_putBack, hk]
    refine ⟨_, rfl, ?_⟩
    split <;> rfl
  obtain ⟨q', w, hq', -, hview', -, hbytes⟩ := hret.report (migRecord_ne_nil _ _ _ _ _) hq
  exact ⟨q', w, hq', hview ▸ hview', hbytes⟩

theorem State.failMigr_untaken : placeState ((s.failMigr c t status []).placeEntry (migVr t)) < 2 ∧ s.SameMemory (s.failMigr c t status []) := by
  obtain ⟨v, hv, hset, hstand⟩ := s.failMigr_eq hbody hstage status []
  obtain ⟨ws, hret, -⟩ := v.retired_endMigr c t status 0 0 0
  rw [hv, List.length_nil]
  constructor
  · rw [State.placeEntry, hret.place, ← State.placeEntry, State.placeEntry_of_settled hset]
    exact s.placeState_putBack t
  · exact State.sameMemory_of_memories (hret.memories.trans
      (congrArg (fun p : Memory × Settled => (p.1, p.2.hostMem, p.2.slots)) (hstand rfl)))
end

/-! ### MIGRATION_COMMAND: the checks (15 R369, R374) -/

section
variable {s : State} {t : BitVec 512} (c : Cmd)

theorem State.checkMigr_unheld (h : s.rank? (migVr t) = none) : s.checkMigr c t = (1, s) := by
  rw [State.checkMigr, h]

variable {r : Rank} (hr : s.rank? (migVr t) = some r)
include hr

theorem State.checkMigr_transit (h : r.place = .transit) : s.checkMigr c t = (6, s) := by
  rw [State.checkMigr, hr]
  exact if_pos h

theorem State.checkMigr_unready (hplace : r.place ≠ .transit) (h : r.place ≠ migrSource t ∨ s.holdsAtStep r = false) :
    s.checkMigr c t = (1, s) := by
  rw [State.checkMigr, hr]
  exact (if_neg hplace).trans (if_pos (h.imp_right fun hh => by rw [hh]; rfl))

variable (hplace : r.place = migrSource t) (hhold : s.holdsAtStep r = true)
include hplace hhold

/-- A rank at its step boundary, in the state that the template names: what is left to check is the destination. -/
theorem State.checkMigr_ready : s.checkMigr c t =
    if s.migrHere t then
      if migToSlot t then
        (if !bitAt s.clavail (migDstSlot t) || (s.slot (migDstSlot t)).occupant.isSome || s.slotAwaited (migDstSlot t) c.id then 2 else 0, s)
      else (if 48 ≤ s.rankCount (migVr t) then 2 else 0, s)
    else if migDom t = s.ownDom ∧ !s.linked then (7, s)
    else if migDom t ≠ s.ownDom ∧ (s.conn (migPkg t % 16) (migDom t) s.ownPkg).failed then (7, s)
    else if s.elapse.1 then (2, s.elapse.2)
    else (if s.elapse.2.elapse.1 then 7 else 0, s.elapse.2.elapse.2) := by
  have hsettled : r.place ≠ .transit := by
    rw [hplace, migrSource]
    split <;> simp
  rw [State.checkMigr, hr, ← State.vr_of_rank? hr]
  exact (if_neg hsettled).trans (if_neg (by simp [hplace, hhold]))

theorem State.checkMigr_slot (hhere : s.migrHere t = true) (hslot : migToSlot t = true) : s.checkMigr c t =
    (if bitAt s.clavail (migDstSlot t) = true ∧ (s.slot (migDstSlot t)).occupant = none ∧ s.slotAwaited (migDstSlot t) c.id = false
      then 0 else 2, s) := by
  rw [State.checkMigr_ready c hr hplace hhold, if_pos hhere, if_pos hslot]
  congr 1
  cases bitAt s.clavail (migDstSlot t) <;> cases (s.slot (migDstSlot t)).occupant <;> cases s.slotAwaited (migDstSlot t) c.id <;> rfl

theorem State.checkMigr_fallow (hhere : s.migrHere t = true) (hslot : migToSlot t = false) : s.checkMigr c t =
    (if 48 ≤ s.rankCount (migVr t) then 2 else 0, s) := by
  rw [State.checkMigr_ready c hr hplace hhold, if_pos hhere, if_neg (by simp [hslot])]

theorem State.checkMigr_unlinked (hhere : s.migrHere t = false) (hdom : migDom t = s.ownDom) (hlink : s.linked = false) :
    s.checkMigr c t = (7, s) := by
  rw [State.checkMigr_ready c hr hplace hhold, if_neg (by simp [hhere]), if_pos ⟨hdom, by rw [hlink]; rfl⟩]

/-- What another package answers is open, and changes nothing here (log entry 2). -/
theorem State.checkMigr_elsewhere (hhere : s.migrHere t = false) (hlink : migDom t = s.ownDom → s.linked = true) :
    ∃ st n, s.checkMigr c t = (st, s.freeAt n) := by
  rw [State.checkMigr_ready c hr hplace hhold, if_neg (by simp [hhere]), if_neg fun h => by simp [hlink h.1] at h]
  split
  · exact ⟨7, s.free, rfl⟩
  · split <;> exact ⟨_, _, rfl⟩
end

/-- Step 1 refuses with a status, the state as it was (15 R374). -/
theorem State.checkMigr_refused {s : State} {t : BitVec 512} {c : Cmd} {st : Nat}
    (h : (s.rank? (migVr t) = none ∧ st = 1) ∨
      (∃ r, s.rank? (migVr t) = some r ∧ r.place = .transit ∧ st = 6) ∨
      (∃ r, s.rank? (migVr t) = some r ∧ r.place ≠ .transit ∧ (r.place ≠ migrSource t ∨ s.holdsAtStep r = false) ∧ st = 1) ∨
      (∃ r, s.rank? (migVr t) = some r ∧ r.place = migrSource t ∧ s.holdsAtStep r = true ∧
        ((s.migrHere t = true ∧ migToSlot t = true ∧ (bitAt s.clavail (migDstSlot t) = false ∨
            (s.slot (migDstSlot t)).occupant ≠ none ∨ s.slotAwaited (migDstSlot t) c.id = true) ∧ st = 2) ∨
          (s.migrHere t = true ∧ migToSlot t = false ∧ 48 ≤ s.rankCount (migVr t) ∧ st = 2) ∨
          (s.migrHere t = false ∧ migDom t = s.ownDom ∧ s.linked = false ∧ st = 7)))) :
    s.checkMigr c t = (st, s) ∧ st ≠ 0 := by
  rcases h with ⟨hr, rfl⟩ | ⟨r, hr, hp, rfl⟩ | ⟨r, hr, hp, hn, rfl⟩ | ⟨r, hr, hp, hh, hdest⟩
  · exact ⟨State.checkMigr_unheld c hr, by decide⟩
  · exact ⟨State.checkMigr_transit c hr hp, by decide⟩
  · exact ⟨State.checkMigr_unready c hr hp hn, by decide⟩
  · rcases hdest with ⟨hhere, hslot, htaken, rfl⟩ | ⟨hhere, hslot, hfull, rfl⟩ | ⟨hhere, hdom, hlink, rfl⟩
    · refine ⟨(State.checkMigr_slot c hr hp hh hhere hslot).trans (congrArg (·, s) (if_neg fun ⟨hav, hocc, hrival⟩ => ?_)), by decide⟩
      simp [hav, hocc, hrival] at htaken
    · exact ⟨(State.checkMigr_fallow c hr hp hh hhere hslot).trans (congrArg (·, s) (if_pos hfull)), by decide⟩
    · exact ⟨State.checkMigr_unlinked c hr hp hh hhere hdom hlink, by decide⟩

/-! ### MIGRATION_COMMAND: the rank is put in transit (15 R374) -/

/-- The rank and its entry once step 1 has passed, before the other packages are told. -/
def State.putInTransit (s : State) (id : Nat) (t : BitVec 512) (read : List Nat) : State :=
  ((s.modCmd id fun c => { c with st := .running, body := .migr t 1 read 0 0 0 }).modRank (migVr t) fun r =>
    { r with place := .transit }).setPlace (migVr t) (s.restate (migVr t) 2 0)

/-- A command that has passed step 1. -/
def State.beginMigr (s : State) (id : Nat) (t : BitVec 512) (read : List Nat) : State :=
  ((s.putInTransit id t read).tell (migVr t)).publishPlace (migVr t) none

theorem State.standing_beginMigr (s : State) (id : Nat) (t : BitVec 512) (read : List Nat) :
    (s.beginMigr id t read).standing = (s.putInTransit id t read).standing := by
  rw [State.beginMigr, State.standing_publishPlace, State.standing_tell]

theorem State.sameMemory_beginMigr (s : State) (id : Nat) (t : BitVec 512) (read : List Nat) : s.SameMemory (s.beginMigr id t read) :=
  State.sameMemory_of_standing (t := s.beginMigr id t read) (s := s.putInTransit id t read) (s.standing_beginMigr id t read)

theorem State.cmd?_beginMigr {s : State} {c : Cmd} (hc : s.cmd? c.id = some c) (t : BitVec 512) (read : List Nat) :
    (s.beginMigr c.id t read).cmd? c.id = some { c with st := .running, body := .migr t 1 read 0 0 0 } := by
  rw [State.cmd?_congr (congrArg (·.2.cmds) (s.standing_beginMigr c.id t read))]
  exact State.cmd?_modCmd_self hc _

theorem State.rank?_beginMigr {s : State} {t : BitVec 512} {r : Rank} (hr : s.rank? (migVr t) = some r) (id : Nat) (read : List Nat) :
    (s.beginMigr id t read).rank? (migVr t) = some { r with place := .transit } := by
  rw [State.rank?_of_settled (State.settled_of_standing (s.standing_beginMigr id t read))]
  exact State.rank?_modRank_self (s := s.modCmd id fun c => { c with st := .running, body := .migr t 1 read 0 0 0 }) hr
    (fun r => { r with place := .transit }) fun _ => rfl

theorem State.placeState_beginMigr (s : State) (id : Nat) (t : BitVec 512) (read : List Nat) :
    placeState ((s.beginMigr id t read).placeEntry (migVr t)) = 2 := by
  rw [State.placeEntry_of_settled (State.settled_of_standing (s.standing_beginMigr id t read)), State.putInTransit,
    State.placeEntry_setPlace_self, State.placeState_restate _ _ (by decide) (by decide)]

section
variable {s : State} {c : Cmd} {t : BitVec 512} {read : List Nat} {pages gangs root : Nat} (hc : s.cmd? c.id = some c)
  (hbody : c.body = .migr t 0 read pages gangs root) (hending : c.ending = false)
include hc hbody hending

theorem exec_migrationCommand_queued : exec (.migrationCommand c.id) s = .next (if !s.cmdLive c || !s.cmdFirst c then s else
    if (s.checkMigr c t).1 ≠ 0 then (s.checkMigr c t).2.endMigr c t (s.checkMigr c t).1 0 0 0
    else (s.checkMigr c t).2.beginMigr c.id t read) := by
  rw [exec_migrationCommand, execMigrationCommand, hc]
  simp only [hbody, hending]
  rfl

theorem exec_migrationCommand_idle (h : s.cmdLive c = false ∨ s.cmdFirst c = false) : exec (.migrationCommand c.id) s = .next s := by
  rw [exec_migrationCommand_queued hc hbody hending, if_pos (by simpa using h)]

variable (hlive : s.cmdLive c = true) (hfirst : s.cmdFirst c = true)
include hlive hfirst

theorem exec_migrationCommand_refused {st : Nat} {s' : State} (hcheck : s.checkMigr c t = (st, s')) (hst : st ≠ 0) :
    exec (.migrationCommand c.id) s = .next (s'.endMigr c t st 0 0 0) := by
  rw [exec_migrationCommand_queued hc hbody hending, if_neg (by simp [hlive, hfirst]), hcheck, if_pos hst]

theorem exec_migrationCommand_passed {s' : State} (hcheck : s.checkMigr c t = (0, s')) :
    exec (.migrationCommand c.id) s = .next (s'.beginMigr c.id t read) := by
  rw [exec_migrationCommand_queued hc hbody hending, if_neg (by simp [hlive, hfirst]), hcheck, if_neg (by simp)]

/-- Step 1 refuses: the command ends with the status, and nothing but its result record comes of it. -/
theorem exec_migrationCommand_refused_spec (hspoiled : c.spoiled = []) {st : Nat} (hcheck : s.checkMigr c t = (st, s)) (hst : st ≠ 0) :
    ∃ u, exec (.migrationCommand c.id) s = .next u ∧ u.cmd? c.id = none ∧ s.SameMemory u ∧ u.place = s.place ∧
      ∀ k, s.rank? c.by'.vr = some k → ∃ q w, u.rank? c.by'.vr = some q ∧ q.place = k.place ∧ q.engView = k.engView ++ [w] ∧
        w.core = c.by'.core ∧ w.bytes = migRecord t st 0 0 0 := by
  obtain ⟨ws, hret, hws⟩ := s.retired_endMigr c t st 0 0 0
  obtain rfl := hws hspoiled
  exact ⟨_, exec_migrationCommand_refused hc hbody hending hlive hfirst hcheck hst, hret.gone,
    State.sameMemory_of_memories hret.memories, hret.place, fun k hk => hret.report (migRecord_ne_nil _ _ _ _ _) hk⟩

theorem exec_migrationCommand_passed_spec {r : Rank} (hr : s.rank? (migVr t) = some r) (hcheck : s.checkMigr c t = (0, s)) :
    ∃ u q c', exec (.migrationCommand c.id) s = .next u ∧ u.rank? (migVr t) = some q ∧ q = { r with place := .transit } ∧
      placeState (u.placeEntry (migVr t)) = 2 ∧ u.cmd? c.id = some c' ∧ c'.st = .running ∧ c'.body = .migr t 1 read 0 0 0 ∧
      s.SameMemory u :=
  ⟨_, _, _, exec_migrationCommand_passed hc hbody hending hlive hfirst hcheck, State.rank?_beginMigr hr _ _, rfl,
    s.placeState_beginMigr _ _ _, State.cmd?_beginMigr hc t read, rfl, rfl, s.sameMemory_beginMigr _ _ _⟩

theorem exec_migrationCommand_elsewhere {st n : Nat} (hcheck : s.checkMigr c t = (st, s.freeAt n)) :
    ∃ u, exec (.migrationCommand c.id) s = .next u ∧ s.SameMemory u ∧
      (u.cmd? c.id = none ∨ ∃ c', u.cmd? c.id = some c' ∧ c'.body = .migr t 1 read 0 0 0) := by
  by_cases hst : st = 0
  · subst hst
    exact ⟨_, exec_migrationCommand_passed hc hbody hending hlive hfirst hcheck, (s.freeAt n).sameMemory_beginMigr _ _ _,
      .inr ⟨_, State.cmd?_beginMigr (s := s.freeAt n) hc t read, rfl⟩⟩
  · obtain ⟨ws, hret, -⟩ := (s.freeAt n).retired_endMigr c t st 0 0 0
    exact ⟨_, exec_migrationCommand_refused hc hbody hending hlive hfirst hcheck hst, State.sameMemory_of_memories hret.memories,
      .inl hret.gone⟩
end

/-! ### MIGRATION_COMMAND: the copy (15 R374, R375) -/

theorem State.freeList_state (s : State) (t : BitVec 512) (read : List Nat) : ∃ n, (s.freeList t read).2 = s.freeAt n := by
  unfold State.freeList
  dsimp only
  split
  · exact ⟨s.free, rfl⟩
  · exact ⟨_, rfl⟩

theorem State.settled_movePage (s : State) (t : BitVec 512) (src : Memory) (p : Nat × Nat × Bool) :
    (s.movePage t src p).settled = s.settled := by
  unfold State.movePage
  dsimp only
  split
  · rfl
  · exact foldl_keeps State.settled (fun s _ => State.settled_of_standing (s.standing_sendPart _ _)) _ _

theorem State.settled_moveTable (s : State) (t : BitVec 512) (p : Nat × List Byte) : (s.moveTable t p).settled = s.settled := by
  unfold State.moveTable
  split
  · rfl
  · exact foldl_keeps State.settled (fun s _ => State.settled_of_standing (s.standing_sendPart _ _)) _ _

/-- The pages of a rebuilt tree and its tables go to the destination. -/
def State.moveTree (s : State) (t : BitVec 512) (src : Memory) (x : Rebuild) : State :=
  x.tables.foldl (fun s q => s.moveTable t q) (x.copies.foldl (fun s q => s.movePage t src q) s)

theorem State.settled_moveTree (s : State) (t : BitVec 512) (src : Memory) (x : Rebuild) : (s.moveTree t src x).settled = s.settled :=
  (foldl_keeps State.settled (fun s q => s.settled_moveTable t q) _ _).trans
    (foldl_keeps State.settled (fun s q => s.settled_movePage t src q) _ _)

/-- The rank goes to a destination in another package, with its job and the job's placement entries (15 R367, R376). -/
def State.sendRank (s : State) (t : BitVec 512) (r : Rank) (root : Nat) : State :=
  if s.migrHere t then s
  else s.sendPart t (.rank ((s.unframed r).migrated (s.sourceSlot t) t root) (s.jobFor r)
    (s.place.filter fun e => s.jobSize r.vr != 0 && e.1 < s.jobSize r.vr))

theorem State.settled_sendRank (s : State) (t : BitVec 512) (r : Rank) (root : Nat) : (s.sendRank t r root).settled = s.settled := by
  unfold State.sendRank
  split
  · rfl
  · exact State.settled_of_standing (s.standing_sendPart _ _)

theorem State.mem_out_sendRank {s : State} {t : BitVec 512} (hhere : s.migrHere t = false) (hdom : migDom t = s.ownDom) (r : Rank)
    (root : Nat) : ∃ k job entries, .migration (migPkg t) (.rank k job entries) ∈ (s.sendRank t r root).out ∧ k.vr = r.vr ∧
      k.gen = r.gen + 1 := by
  refine ⟨(s.unframed r).migrated (s.sourceSlot t) t root, s.jobFor r,
    s.place.filter fun e => s.jobSize r.vr != 0 && e.1 < s.jobSize r.vr, ?_, rfl, rfl⟩
  rw [State.sendRank, if_neg (by simp [hhere]), State.sendPart, if_pos hdom]
  exact List.mem_append_right _ (List.mem_singleton_self _)

/-- What comes of rebuilding the tree of a rank: a failure with status 3, or the copy (15 R374, R375). -/
def State.copyBy (s : State) (c : Cmd) (t : BitVec 512) (src : Memory) (r : Rank) : Except Rebuild (Nat × Rebuild) → State
  | .error x => s.failMigr c t 3 x.frames
  | .ok (new, x) => ((s.moveTree t src x).sendRank t r new).modCmd c.id fun c =>
      { c with body := .migr t 2 x.frames x.pages (r.gangs.filter Gang.isPlaced).length new }

/-- How many context frames the destination needs: one for each gang that has started (15 R374). -/
def Rank.framesNeeded (r : Rank) : Nat := (r.gangs.filter fun g => g.isPlaced || !g.cores.isEmpty).length

section
variable {s : State} {c : Cmd} {t : BitVec 512} {read : List Nat} {pages gangs root : Nat} (hc : s.cmd? c.id = some c)
  (hbody : c.body = .migr t 1 read pages gangs root) {r : Rank} (hr : s.rank? (migVr t) = some r)
include hc hbody

theorem exec_migrationCommand_copies : exec (.migrationCommand c.id) s = .next (s.copyRank c t read) := by
  rw [exec_migrationCommand, execMigrationCommand, hc]
  simp only [hbody]

include hr

/-- While a page of the rank is pinned, the command waits. -/
theorem exec_migrationCommand_pinned (h : ∃ l ∈ s.locks, l.vr = r.vr) : exec (.migrationCommand c.id) s = .next s := by
  obtain ⟨l, hl, hvr⟩ := h
  have hany : (s.locks.any fun l => l.vr == r.vr) = true := List.any_eq_true.mpr ⟨l, hl, beq_iff_eq.mpr hvr⟩
  rw [exec_migrationCommand_copies hc hbody, State.copyRank, hr]
  exact congrArg _ (if_pos hany)

variable (hfree : ∀ l ∈ s.locks, l.vr ≠ r.vr)
include hfree

theorem exec_migrationCommand_unpinned : exec (.migrationCommand c.id) s = .next (
    if bitsAt (migFrBase t) 0 8 < r.framesNeeded then s.failMigr c t 4 []
    else (s.freeList t read).2.copyBy c t (s.viewMem c.by') r
      (({ (s.freeList t read).2 with mem := s.viewMem c.by' } : State).rebuildTree (if migToSlot t then 0 else 1) r.ptroot
        { list := (s.freeList t read).1, taken := [], pages := 0, tables := [], copies := [] })) := by
  have hnone : ¬ (s.locks.any fun l => l.vr == r.vr) = true := by simpa using hfree
  rw [exec_migrationCommand_copies hc hbody, State.copyRank, hr]
  exact congrArg _ (if_neg hnone)

/-- With fewer frames than gangs to save the command ends with status 4, the rank back where it was (15 R374). -/
theorem exec_migrationCommand_frames_short (hspoiled : c.spoiled = []) (h : bitsAt (migFrBase t) 0 8 < r.framesNeeded) :
    ∃ u q, exec (.migrationCommand c.id) s = .next u ∧ u.cmd? c.id = none ∧ u.rank? (migVr t) = some q ∧ q.place = migrSource t ∧
      placeState (u.placeEntry (migVr t)) < 2 ∧ s.SameMemory u ∧
      ∀ k, s.rank? c.by'.vr = some k → ∃ q w, u.rank? c.by'.vr = some q ∧ q.engView = k.engView ++ [w] ∧
        w.bytes = migRecord t 4 0 0 0 := by
  obtain ⟨q, hq, hplace⟩ := State.failMigr_rank hbody (.inl rfl) 4 [] hr
  obtain ⟨hgone, hreport⟩ := State.failMigr_reports (s := s) hbody (.inl rfl) 4 [] hspoiled
  obtain ⟨hentry, hmem⟩ := State.failMigr_untaken (s := s) hbody (.inl rfl) 4
  refine ⟨_, q, exec_migrationCommand_unpinned hc hbody hr hfree, ?_⟩
  rw [if_pos h]
  exact ⟨hgone, hq, hplace, hentry, hmem, hreport⟩

variable (henough : r.framesNeeded ≤ bitsAt (migFrBase t) 0 8) {list : List (BitVec 64)} {s' : State} (hlist : s.freeList t read = (list, s'))
include henough hlist

theorem exec_migrationCommand_copyBy {x : Except Rebuild (Nat × Rebuild)} (hx : ({ s' with mem := s.viewMem c.by' } : State).rebuildTree
    (if migToSlot t then 0 else 1) r.ptroot { list := list, taken := [], pages := 0, tables := [], copies := [] } = x) :
    exec (.migrationCommand c.id) s = .next (s'.copyBy c t (s.viewMem c.by') r x) := by
  rw [exec_migrationCommand_unpinned hc hbody hr hfree, if_neg (Nat.not_lt.mpr henough), hlist, hx]

/-- A tree that has been rebuilt: the command goes on to its commit. -/
theorem exec_migrationCommand_rebuilt {new : Nat} {x : Rebuild} (hx : ({ s' with mem := s.viewMem c.by' } : State).rebuildTree
    (if migToSlot t then 0 else 1) r.ptroot { list := list, taken := [], pages := 0, tables := [], copies := [] } = .ok (new, x)) :
    ∃ u c', exec (.migrationCommand c.id) s = .next u ∧ u.cmd? c.id = some c' ∧
      c'.body = .migr t 2 x.frames x.pages (r.gangs.filter Gang.isPlaced).length new ∧ u.ranks = s.ranks ∧
      (s.migrHere t = false → migDom t = s.ownDom → ∃ k job entries, .migration (migPkg t) (.rank k job entries) ∈ u.out ∧
        k.vr = r.vr ∧ k.gen = r.gen + 1) := by
  have hexec := exec_migrationCommand_copyBy hc hbody hr hfree henough hlist hx
  obtain ⟨n, hn⟩ := s.freeList_state t read
  rw [hlist] at hn
  obtain rfl : s' = s.freeAt n := hn
  have hmoved := (s.freeAt n).settled_moveTree t (s.viewMem c.by') x
  have hsent := (((s.freeAt n).moveTree t (s.viewMem c.by') x).settled_sendRank t r new).trans hmoved
  have hpkg : ((s.freeAt n).moveTree t (s.viewMem c.by') x).pkgid = s.pkgid := congrArg Settled.pkgid hmoved
  have hcmd : (((s.freeAt n).moveTree t (s.viewMem c.by') x).sendRank t r new).cmd? c.id = some c :=
    (State.cmd?_congr (congrArg Settled.cmds hsent) _).trans hc
  refine ⟨_, _, hexec, State.cmd?_modCmd_self hcmd _, rfl, congrArg Settled.ranks hsent, fun hhere hdom => ?_⟩
  refine State.mem_out_sendRank (s := (s.freeAt n).moveTree t (s.viewMem c.by') x) ?_ ?_ r new
  · rw [State.migrHere, hpkg, ← State.migrHere, hhere]
  · rw [State.ownDom, hpkg, ← State.ownDom, hdom]

/-- With too few entries of the list the command ends with status 3, the rank back where it was (15 R374, R375). -/
theorem exec_migrationCommand_list_short (hspoiled : c.spoiled = []) {x : Rebuild}
    (hx : ({ s' with mem := s.viewMem c.by' } : State).rebuildTree (if migToSlot t then 0 else 1) r.ptroot
      { list := list, taken := [], pages := 0, tables := [], copies := [] } = .error x) :
    ∃ u q, exec (.migrationCommand c.id) s = .next u ∧ u.cmd? c.id = none ∧ u.rank? (migVr t) = some q ∧ q.place = migrSource t ∧
      ∀ k, s.rank? c.by'.vr = some k → ∃ q w, u.rank? c.by'.vr = some q ∧ q.engView = k.engView ++ [w] ∧
        w.bytes = migRecord t 3 0 x.taken.length 0 := by
  have hexec := exec_migrationCommand_copyBy hc hbody hr hfree henough hlist hx
  obtain ⟨n, hn⟩ := s.freeList_state t read
  rw [hlist] at hn
  obtain rfl : s' = s.freeAt n := hn
  have hlen : x.frames.length = x.taken.length := List.length_map ..
  obtain ⟨q, hq, hplace⟩ := State.failMigr_rank (s := s.freeAt n) hbody (.inl rfl) 3 x.frames hr
  obtain ⟨hgone, hreport⟩ := State.failMigr_reports (s := s.freeAt n) hbody (.inl rfl) 3 x.frames hspoiled
  rw [hlen] at hreport
  exact ⟨_, q, hexec, hgone, hq, hplace, hreport⟩
end

/-! ### A rank is installed (15 R376) -/

theorem State.settled_writeFrames (s : State) (r : Rank) : (s.writeFrames r).settled = s.settled := by
  unfold State.writeFrames
  refine foldl_keeps State.settled (fun s g => ?_) _ _
  split <;> rfl

/-- A rank as it stands once its gangs have given their scratchpads and rings to their frames. -/
def Rank.unpacked (r : Rank) : Rank := { r with gangs := r.gangs.map fun (g : Gang) => { g with pads := [], rings := [] } }

/-- What the installing of a rank does but for memory and the slot. -/
theorem State.install_keeps (s : State) (r : Rank) :
    (s.install r).ranks = (s.ranks.filter fun x => x.vr != r.vr) ++ [r.unpacked] ∧ (s.install r).cmds = s.cmds ∧
      (s.install r).place = s.place := by
  have hframes := s.settled_writeFrames r
  have hranks : (s.writeFrames r).ranks = s.ranks := congrArg Settled.ranks hframes
  unfold State.install
  dsimp only
  rw [← hranks]
  refine ⟨(congrArg (·.2.ranks) (State.standing_tell _ _)).trans ?_, (congrArg (·.2.cmds) (State.standing_tell _ _)).trans ?_,
    (congrArg (·.2.place) (State.standing_tell _ _)).trans ?_⟩
  · show (State.ranks _).filter _ ++ _ = _
    split <;> rfl
  · refine Eq.trans ?_ (congrArg Settled.cmds hframes)
    show State.cmds _ = _
    split <;> rfl
  · refine Eq.trans ?_ (congrArg Settled.place hframes)
    show State.place _ = _
    split <;> rfl

theorem State.rank?_install (s : State) (r : Rank) : (s.install r).rank? r.vr = some r.unpacked := by
  have hnone : (s.ranks.filter fun x => x.vr != r.vr).find? (fun x => x.vr == r.vr) = none := by simp
  have hvr : r.unpacked.vr = r.vr := rfl
  rw [State.rank?, (s.install_keeps r).1, List.find?_append, hnone]
  simp [hvr]

theorem Rank.handles_migrated (r : Rank) (sl : Slot) (t : BitVec 512) (root : Nat) :
    ∀ g ∈ (r.migrated sl t root).unpacked.gangs, ∀ k ∈ g.cores, ∀ h ∈ k.handles.toList, h.valid = false := by
  intro g hg k hk h hh
  obtain ⟨g1, hg1, rfl⟩ := List.mem_map.mp hg
  obtain ⟨g2, -, rfl⟩ := List.mem_map.mp (show g1 ∈ List.map _ _ from hg1)
  obtain ⟨k2, -, rfl⟩ := List.mem_map.mp hk
  rw [Vector.toList_map] at hh
  obtain ⟨h2, -, rfl⟩ := List.mem_map.mp hh
  rfl

/-! ### MIGRATION_COMMIT (15 R374, R376) -/

/-- The rank as the destination installs it (15 R376). -/
def State.moved (s : State) (t : BitVec 512) (r : Rank) (root : Nat) : Rank := (s.unframed r).migrated (s.sourceSlot t) t root

/-- The rank is installed where the destination is in this package. -/
def State.installHere (s : State) (t : BitVec 512) (r : Rank) (root : Nat) : State :=
  if s.migrHere t then s.install (s.moved t r root) else s

/-- The rank is installed at a destination here and its entry set, before the entry is published. -/
def State.setCommitted (s : State) (id : Nat) (t : BitVec 512) (r : Rank) (taken : List Nat) (pages gangs root : Nat) : State :=
  ((s.installHere t r root).setPlace r.vr (commitEntry t r.stepno)).modCmd id fun c =>
    { c with body := .migr t 3 taken pages gangs root }

/-- The commit of a migration: the entry is published for the command (15 R376). -/
def State.commitMigr (s : State) (id : Nat) (t : BitVec 512) (r : Rank) (taken : List Nat) (pages gangs root : Nat) : State :=
  (s.setCommitted id t r taken pages gangs root).publishPlace r.vr (some id)

section
variable (s : State) (id : Nat) (t : BitVec 512) (r : Rank) (taken : List Nat) (pages gangs root : Nat)

theorem State.cmds_installHere : (s.installHere t r root).cmds = s.cmds := by
  unfold State.installHere
  split
  · exact (s.install_keeps _).2.1
  · rfl

theorem State.ranks_setCommitted : (s.setCommitted id t r taken pages gangs root).ranks = (s.installHere t r root).ranks := by
  unfold State.setCommitted
  generalize s.installHere t r root = u
  rfl

theorem State.settled_commitMigr : (s.commitMigr id t r taken pages gangs root).settled =
    (s.setCommitted id t r taken pages gangs root).settled :=
  State.settled_of_standing ((s.setCommitted id t r taken pages gangs root).standing_publishPlace r.vr (some id))

theorem State.placeEntry_commitMigr : (s.commitMigr id t r taken pages gangs root).placeEntry r.vr = commitEntry t r.stepno := by
  rw [State.placeEntry_of_settled (s.settled_commitMigr id t r taken pages gangs root)]
  exact (s.installHere t r root).placeEntry_setPlace_self r.vr (commitEntry t r.stepno)

theorem State.cmd?_commitMigr {s : State} {c : Cmd} (hc : s.cmd? c.id = some c) :
    (s.commitMigr c.id t r taken pages gangs root).cmd? c.id = some { c with body := .migr t 3 taken pages gangs root } := by
  have hc' : ((s.installHere t r root).setPlace r.vr (commitEntry t r.stepno)).cmd? c.id = some c :=
    (State.cmd?_congr (s.cmds_installHere t r root) c.id).trans hc
  refine (State.cmd?_congr (congrArg Settled.cmds (s.settled_commitMigr c.id t r taken pages gangs root)) c.id).trans ?_
  rw [State.setCommitted]
  exact State.cmd?_modCmd_self hc' fun c => { c with body := .migr t 3 taken pages gangs root }

theorem State.rank?_commitMigr_here (hhere : s.migrHere t = true) : (s.commitMigr id t r taken pages gangs root).rank? r.vr =
    some (s.moved t r root).unpacked := by
  have hinstall : s.installHere t r root = s.install (s.moved t r root) := if_pos hhere
  have hvr : (s.moved t r root).vr = r.vr := rfl
  rw [State.rank?_of_settled (s.settled_commitMigr id t r taken pages gangs root),
    State.rank?_congr (s.ranks_setCommitted id t r taken pages gangs root), hinstall, ← hvr]
  exact s.rank?_install (s.moved t r root)

theorem State.ranks_commitMigr_away (hhere : s.migrHere t = false) : (s.commitMigr id t r taken pages gangs root).ranks = s.ranks := by
  have hinstall : s.installHere t r root = s := if_neg (by simp [hhere])
  exact (congrArg Settled.ranks (s.settled_commitMigr id t r taken pages gangs root)).trans
    ((s.ranks_setCommitted id t r taken pages gangs root).trans (congrArg State.ranks hinstall))
end

theorem State.partsAway_here {s : State} {t : BitVec 512} (h : s.migrHere t = true) : s.partsAway t = false := by
  have hdom : migDom t = s.ownDom := beq_iff_eq.mp (Bool.and_eq_true_iff.mp h).2
  simp [State.partsAway, hdom]

section
variable {s : State} {c : Cmd} {t : BitVec 512} {taken : List Nat} {pages gangs root : Nat} (hc : s.cmd? c.id = some c)
  (hbody : c.body = .migr t 2 taken pages gangs root) (hending : c.ending = false)
include hc hbody hending

theorem exec_migrationCommit_gone (hr : s.rank? (migVr t) = none) :
    exec (.migrationCommit c.id) s = .next (s.endMigr c t 5 pages taken.length gangs) := by
  rw [exec_migrationCommit, execMigrationCommit, hc]
  simp only [hbody, hending, hr]
  rfl

/-- A rank that is gone ends the command with status 5 (15 R374). -/
theorem exec_migrationCommit_gone_spec (hspoiled : c.spoiled = []) (hr : s.rank? (migVr t) = none) :
    ∃ u, exec (.migrationCommit c.id) s = .next u ∧ u.cmd? c.id = none ∧
      ∀ k, s.rank? c.by'.vr = some k → ∃ q w, u.rank? c.by'.vr = some q ∧ q.engView = k.engView ++ [w] ∧
        w.bytes = migRecord t 5 pages taken.length gangs := by
  obtain ⟨ws, hret, hws⟩ := s.retired_endMigr c t 5 pages taken.length gangs
  obtain rfl := hws hspoiled
  refine ⟨_, exec_migrationCommit_gone hc hbody hending hr, hret.gone, fun k hk => ?_⟩
  obtain ⟨q, w, hq, -, hview, -, hbytes⟩ := hret.report (migRecord_ne_nil _ _ _ _ _) hk
  exact ⟨q, w, hq, hview, hbytes⟩

variable {r : Rank} (hr : s.rank? (migVr t) = some r)
include hr

theorem exec_migrationCommit_held : exec (.migrationCommit c.id) s = .next (
    if s.migrHere t ∧ migToSlot t ∧ !bitAt s.clavail (migDstSlot t) then s.failMigr c t 2 taken
    else if !s.migrHere t ∧ migDom t = s.ownDom ∧ !s.linked then s.failMigr c t 7 taken
    else if s.partsAway t then s else s.commitMigr c.id t r taken pages gangs root) := by
  rw [exec_migrationCommit, execMigrationCommit, hc]
  simp only [hbody, hending, hr]
  rfl

/-- A destination slot withdrawn meanwhile, or no path in the domain: the rank is back where it was (15 R374). -/
theorem exec_migrationCommit_fails (hspoiled : c.spoiled = []) {st : Nat}
    (h : (s.migrHere t = true ∧ migToSlot t = true ∧ bitAt s.clavail (migDstSlot t) = false ∧ st = 2) ∨
      (s.migrHere t = false ∧ migDom t = s.ownDom ∧ s.linked = false ∧ st = 7)) :
    ∃ u q, exec (.migrationCommit c.id) s = .next u ∧ u.cmd? c.id = none ∧ u.rank? (migVr t) = some q ∧ q.place = migrSource t ∧
      ∀ k, s.rank? c.by'.vr = some k → ∃ q w, u.rank? c.by'.vr = some q ∧ q.engView = k.engView ++ [w] ∧
        w.bytes = migRecord t st 0 taken.length 0 := by
  have hfail : exec (.migrationCommit c.id) s = .next (s.failMigr c t st taken) := by
    rw [exec_migrationCommit_held hc hbody hending hr]
    rcases h with ⟨hhere, hslot, hav, rfl⟩ | ⟨hhere, hdom, hlink, rfl⟩
    · rw [if_pos (by simp [hhere, hslot, hav])]
    · rw [if_neg (by simp [hhere]), if_pos (by simp [hhere, hdom, hlink])]
  obtain ⟨q, hq, hplace⟩ := State.failMigr_rank hbody (.inr rfl) st taken hr
  obtain ⟨hgone, hreport⟩ := State.failMigr_reports (s := s) hbody (.inr rfl) st taken hspoiled
  exact ⟨_, q, hfail, hgone, hq, hplace, hreport⟩

/-- The rank is installed at a destination in this package (15 R376). -/
theorem exec_migrationCommit_here (hhere : s.migrHere t = true) (hslot : migToSlot t = true → bitAt s.clavail (migDstSlot t) = true) :
    ∃ u q c', exec (.migrationCommit c.id) s = .next u ∧ u.rank? (migVr t) = some q ∧
      q.place = (if migToSlot t then .resident (migDstSlot t) else .fallow) ∧ q.gen = r.gen + 1 ∧
      q.frpool = migFrBase t &&& ~~~(0xFFFFF00 : Word) ∧ q.ptroot = BitVec.ofNat 64 (root + 1) ∧ q.stepno = r.stepno ∧
      (∀ g ∈ q.gangs, ∀ k ∈ g.cores, ∀ h ∈ k.handles.toList, h.valid = false) ∧
      u.placeEntry (migVr t) = commitEntry t r.stepno ∧ u.cmd? c.id = some c' ∧ c'.body = .migr t 3 taken pages gangs root := by
  have hcommit : exec (.migrationCommit c.id) s = .next (s.commitMigr c.id t r taken pages gangs root) := by
    rw [exec_migrationCommit_held hc hbody hending hr, if_neg fun ⟨_, h, hav⟩ => by simp [hslot h] at hav, if_neg (by simp [hhere]),
      State.partsAway_here hhere]
    rfl
  have hvr := State.vr_of_rank? hr
  exact ⟨_, (s.moved t r root).unpacked, _, hcommit,
    hvr ▸ s.rank?_commitMigr_here c.id t r taken pages gangs root hhere, rfl, rfl, rfl, rfl, rfl, Rank.handles_migrated _ _ _ _,
    hvr ▸ s.placeEntry_commitMigr c.id t r taken pages gangs root, State.cmd?_commitMigr t r taken pages gangs root hc, rfl⟩

/-- The entry of a rank that goes to another package is set once all its parts have been acknowledged (15 R376, 17 R425). -/
theorem exec_migrationCommit_away (hhere : s.migrHere t = false) (hlink : migDom t = s.ownDom → s.linked = true) :
    (s.partsAway t = true → exec (.migrationCommit c.id) s = .next s) ∧
    (s.partsAway t = false → ∃ u c', exec (.migrationCommit c.id) s = .next u ∧ u.ranks = s.ranks ∧
      u.placeEntry (migVr t) = commitEntry t r.stepno ∧ u.cmd? c.id = some c' ∧ c'.body = .migr t 3 taken pages gangs root) := by
  have hexec : exec (.migrationCommit c.id) s =
      .next (if s.partsAway t then s else s.commitMigr c.id t r taken pages gangs root) := by
    rw [exec_migrationCommit_held hc hbody hending hr, if_neg (by simp [hhere]), if_neg fun ⟨_, hdom, h⟩ => by simp [hlink hdom] at h]
  refine ⟨fun h => hexec.trans (congrArg _ (if_pos h)), fun h => ?_⟩
  have hvr := State.vr_of_rank? hr
  exact ⟨_, _, hexec.trans (congrArg _ (if_neg (by simp [h]))), s.ranks_commitMigr_away c.id t r taken pages gangs root hhere,
    hvr ▸ s.placeEntry_commitMigr c.id t r taken pages gangs root, State.cmd?_commitMigr t r taken pages gangs root hc, rfl⟩
end

/-! ### The source is freed (15 R374) -/

section
variable {s : State} {t : BitVec 512}

/-- The source slot without the rank that has moved. -/
def Slot.vacatedBy (vr : Nat) (sl : Slot) : Slot := if sl.occupant = some vr then { sl with occupant := none } else sl

theorem Slot.occupant_vacatedBy (vr : Nat) (sl : Slot) : (sl.vacatedBy vr).occupant ≠ some vr := by
  unfold Slot.vacatedBy
  split
  · simp
  · assumption

/-- The source slot is free. -/
def State.vacate (s : State) (t : BitVec 512) : State := match migrSource t with
  | .resident k => s.modSlot k (Slot.vacatedBy (migVr t))
  | _ => s

theorem State.vacate_ranks (s : State) (t : BitVec 512) : (s.vacate t).ranks = s.ranks := by
  unfold State.vacate
  split <;> rfl

theorem State.freeSource_here (h : s.migrHere t = true) : s.freeSource t = s.vacate t := by
  unfold State.freeSource State.vacate
  cases migrSource t <;> exact if_pos h

theorem State.freeSource_absent (h : s.migrHere t = false) (hr : s.rank? (migVr t) = none) : s.freeSource t = s.vacate t := by
  unfold State.freeSource State.vacate
  have hno : ¬ s.migrHere t = true := by simp [h]
  cases migrSource t <;> refine (if_neg hno).trans ?_
  all_goals
    dsimp only
    split
    · next r hq => exact absurd (hq.symm.trans hr) (by simp)
    · rfl

theorem State.freeSource_leaves {r : Rank} (h : s.migrHere t = false) (hr : s.rank? (migVr t) = some r) :
    s.freeSource t = (s.vacate t).leaveRank r := by
  unfold State.freeSource State.vacate
  have hno : ¬ s.migrHere t = true := by simp [h]
  cases migrSource t <;> refine (if_neg hno).trans ?_
  all_goals
    dsimp only
    split
    · next q hq =>
      obtain rfl : q = r := Option.some.inj (hq.symm.trans hr)
      rfl
    · next hq => exact absurd (hq.symm.trans hr) (by simp)

/-- Freeing the source vacates its slot, and takes a rank that has gone to another package out of this one. -/
theorem State.freeSource_spec (s : State) (t : BitVec 512) : (s.freeSource t).slots = (s.vacate t).slots ∧
    (s.migrHere t = false → (s.freeSource t).rank? (migVr t) = none) ∧
    ∀ v, v ≠ migVr t → (s.freeSource t).rank? v = s.rank? v := by
  have hvacate := State.rank?_congr (s.vacate_ranks t)
  cases hhere : s.migrHere t with
  | true =>
    rw [State.freeSource_here hhere]
    exact ⟨rfl, by simp, fun v _ => hvacate v⟩
  | false =>
    cases hr : s.rank? (migVr t) with
    | none =>
      rw [State.freeSource_absent hhere hr]
      exact ⟨rfl, fun _ => (hvacate _).trans hr, fun v _ => hvacate v⟩
    | some r =>
      have hranks : ((s.vacate t).leaveRank r).ranks = s.ranks.filter fun x => x.vr != migVr t := by
        rw [State.leaveRank, s.vacate_ranks, State.vr_of_rank? hr]
      rw [State.freeSource_leaves hhere hr]
      refine ⟨rfl, fun _ => ?_, fun v hv => ?_⟩
      · rw [State.rank?, hranks]
        simp
      · rw [State.rank?, hranks, List.find?_filter, State.rank?]
        congr 1
        funext x
        by_cases hx : x.vr = v <;> simp [hx, hv]

theorem State.freeSource_occupant {k : Nat} (hk : k < 16) (hsource : migrSource t = .resident k) :
    ((s.freeSource t).slot k).occupant ≠ some (migVr t) := by
  rw [State.slot, (s.freeSource_spec t).1, ← State.slot, State.vacate, hsource, State.slot_modSlot_self s hk]
  exact Slot.occupant_vacatedBy _ _

variable {c : Cmd} {taken : List Nat} {pages gangs root : Nat} (hc : s.cmd? c.id = some c)
  (hbody : c.body = .migr t 3 taken pages gangs root) (hending : c.ending = false)
include hc hbody hending

theorem exec_migrationCommit_published : exec (.migrationCommit c.id) s = .next (
    if s.pubs.any fun p => p.cmd == some c.id then s else (s.freeSource t).endMigr c t 0 pages taken.length gangs) := by
  rw [exec_migrationCommit, execMigrationCommit, hc]
  simp only [hbody, hending]
  rfl

theorem exec_migrationCommit_awaits (h : ∃ p ∈ s.pubs, p.cmd = some c.id) : exec (.migrationCommit c.id) s = .next s := by
  obtain ⟨p, hp, hcmd⟩ := h
  have hany : (s.pubs.any fun p => p.cmd == some c.id) = true := List.any_eq_true.mpr ⟨p, hp, beq_iff_eq.mpr hcmd⟩
  rw [exec_migrationCommit_published hc hbody hending, if_pos hany]

/-- Once every package has acknowledged the entry, the source is freed and the command ends with status 0 (15 R374). -/
theorem exec_migrationCommit_acknowledged (hspoiled : c.spoiled = []) (h : ∀ p ∈ s.pubs, p.cmd ≠ some c.id) :
    ∃ u, exec (.migrationCommit c.id) s = .next u ∧ u.cmd? c.id = none ∧
      (∀ k, migrSource t = .resident k → k < 16 → (u.slot k).occupant ≠ some (migVr t)) ∧
      (s.migrHere t = false → u.rank? (migVr t) = none) ∧
      ∀ k, c.by'.vr ≠ migVr t → s.rank? c.by'.vr = some k → ∃ q w, u.rank? c.by'.vr = some q ∧ q.engView = k.engView ++ [w] ∧
        w.bytes = migRecord t 0 pages taken.length gangs := by
  obtain ⟨-, hgone, hother⟩ := s.freeSource_spec t
  obtain ⟨ws, hret, hws⟩ := (s.freeSource t).retired_endMigr c t 0 pages taken.length gangs
  obtain rfl := hws hspoiled
  have hnone : ¬ (s.pubs.any fun p => p.cmd == some c.id) = true := by simpa using h
  refine ⟨_, (exec_migrationCommit_published hc hbody hending).trans (congrArg _ (if_neg hnone)), hret.gone, fun k hsource hk => ?_,
    fun hhere => ?_, fun k hne hk => ?_⟩
  · rw [hret.slot]
    exact State.freeSource_occupant hk hsource
  · rw [hret.rank, hgone hhere]
    rfl
  · obtain ⟨q, w, hq, -, hview, -, hbytes⟩ := hret.report (migRecord_ne_nil _ _ _ _ _) ((hother _ hne).trans hk)
    exact ⟨q, w, hq, hview, hbytes⟩
end

/-! ### A rank comes in (15 R366, R376, R379) -/

theorem State.takeJob_eq (s : State) (job : Option Job) (entries : List (Nat × Word)) :
    ∃ j p, s.takeJob job entries = { s with jobs := j, place := p } := by
  unfold State.takeJob
  split
  · split <;> exact ⟨_, _, rfl⟩
  · exact ⟨_, _, rfl⟩

theorem State.joinRank_lost {s : State} {r : Rank} (h : s.canTake r = false) : s.joinRank r = s.loseRank r.vr := by
  rw [State.joinRank, h]
  rfl

/-- A rank that can be taken is installed with its gangs' ages and sources made this package's; its entries stand. -/
theorem State.joinRank_taken {s : State} {r : Rank} (h : s.canTake r = true) : (s.joinRank r).place = s.place ∧
    ∃ q, (s.joinRank r).rank? r.vr = some q ∧ q.place = r.place ∧ q.gen = r.gen ∧ q.phaseno = r.phaseno ∧ q.stepno = r.stepno := by
  obtain ⟨v, gs, hjoin, hv⟩ : ∃ (v : State) (gs : List Gang), s.joinRank r = v.install { r with gangs := gs } ∧ v.place = s.place := by
    rw [State.joinRank, h]
    exact ⟨_, _, if_neg (by decide), rfl⟩
  rw [hjoin]
  exact ⟨(v.install_keeps _).2.2.trans hv, _, v.rank?_install { r with gangs := gs }, rfl, rfl, rfl, rfl⟩

theorem State.standing_loseRank (s : State) (vr : Nat) : (s.loseRank vr).standing = (s.setPlace vr (s.restate vr 3 0)).standing :=
  (s.setPlace vr (s.restate vr 3 0)).standing_publishPlace vr none

theorem State.placeState_loseRank (s : State) (vr : Nat) : placeState ((s.loseRank vr).placeEntry vr) = 3 := by
  rw [State.placeEntry_of_settled (State.settled_of_standing (s.standing_loseRank vr)), State.placeEntry_setPlace_self,
    s.placeState_restate _ (by decide) (by decide)]

theorem State.ranks_loseRank (s : State) (vr : Nat) : (s.loseRank vr).ranks = s.ranks :=
  congrArg (·.2.ranks) (s.standing_loseRank vr)

/-! ### MIGRATION_DATA (17 R425, R426) -/

/-- Memories, ranks and the package's number: what the acknowledgement of frames leaves alone. -/
def State.ackView (s : State) : (Memory × Memory × Vector Slot 16) × List Rank × Word := (s.memories, s.ranks, s.pkgid)

theorem State.recvFrame_next_keeps {s : State} {f : FrameHdr} (hcrc : f.crcOk = true)
    (hseq : f.seq = (s.conn f.port f.dom f.pkg).recvNext) (act : State → State) :
    ∃ s', s.recvFrame f act = act s' ∧ s'.ackView = s.ackView := by
  obtain ⟨hport, hdom, hpkg⟩ := s.conn_key f.port f.dom f.pkg
  have hnext := s.conn_ackFrames (s.conn f.port f.dom f.pkg) f.ackseq
  rw [hport, hdom, hpkg, ← hseq] at hnext
  have hack : (s.ackFrames (s.conn f.port f.dom f.pkg) f.ackseq).ackView = s.ackView := by
    unfold State.ackFrames
    refine foldl_keeps State.ackView (fun s f => ?_) _ _
    obtain ⟨l, hl⟩ := s.markSent_eq f.op
    rw [hl]
    rfl
  unfold State.recvFrame
  dsimp only
  rw [hcrc, if_neg (by simp), if_pos hnext.symm]
  exact ⟨_, rfl, hack⟩

/-- What a part of a migration does where the header of its frame has it come. -/
def State.takeMigration (f : FrameHdr) (p : MigPart) (s : State) : State :=
  if f.svr = s.ownPkg then s.takePart p else { s with out := s.out ++ [Out.migration f.svr p] }

section
variable {s : State} {f : FrameHdr} (p : MigPart)

theorem exec_migrationData_near (h : f.dom = s.ownDom) : exec (.migrationData f p) s = .next (s.takePart p) := by
  rw [exec_migrationData, execMigrationData, if_pos h]

theorem exec_migrationData_far (h : f.dom ≠ s.ownDom) :
    exec (.migrationData f p) s = .next (s.recvFrame f (State.takeMigration f p)) := by
  rw [exec_migrationData, execMigrationData, if_neg h]
  rfl

theorem exec_migrationData_bad (h : f.dom ≠ s.ownDom) (hcrc : f.crcOk = false) : exec (.migrationData f p) s = .next s := by
  rw [exec_migrationData_far p h, State.recvFrame_bad hcrc]

/-- A frame in order is delivered: here into memory, or passed on to the package that it names. -/
theorem exec_migrationData_next (h : f.dom ≠ s.ownDom) (hcrc : f.crcOk = true) (hseq : f.seq = (s.conn f.port f.dom f.pkg).recvNext) :
    ∃ u, exec (.migrationData f p) s = .next u ∧
      (∀ a bs, p = .page a bs → f.svr = s.ownPkg → u.mem = physPut s.mem a bs ∧ u.ranks = s.ranks) ∧
      (f.svr ≠ s.ownPkg → .migration f.svr p ∈ u.out ∧ s.SameMemory u ∧ u.ranks = s.ranks) := by
  obtain ⟨s', hrecv, hkeep⟩ := State.recvFrame_next_keeps hcrc hseq (State.takeMigration f p)
  simp only [State.ackView, Prod.mk.injEq] at hkeep
  obtain ⟨hmem, hranks, hpkg⟩ := hkeep
  have hown : s'.ownPkg = s.ownPkg := by rw [State.ownPkg, hpkg, State.ownPkg]
  refine ⟨_, (exec_migrationData_far p h).trans (congrArg _ hrecv), fun a bs hp hsvr => ?_, fun hsvr => ?_⟩
  · rw [State.takeMigration, if_pos (hown ▸ hsvr), hp]
    exact ⟨congrArg (physPut · a bs) (congrArg Prod.fst hmem), hranks⟩
  · rw [State.takeMigration, if_neg (hown ▸ hsvr)]
    exact ⟨List.mem_append_right _ (List.mem_singleton_self _), State.sameMemory_of_memories hmem, hranks⟩
end

section
variable {s : State} (r : Rank) (job : Option Job) (entries : List (Nat × Word))

/-- A rank whose entry has not come is kept (15 R376). -/
theorem State.takePart_waits (h : (s.takeJob job entries).placedHere ((s.takeJob job entries).placeEntry r.vr) = false) :
    (s.takePart (.rank r job entries)).incoming.find? (fun x => x.vr == r.vr) = some r.received ∧
      (s.takePart (.rank r job entries)).ranks = s.ranks ∧ s.SameMemory (s.takePart (.rank r job entries)) := by
  obtain ⟨j, p, hjob⟩ := s.takeJob_eq job entries
  have hvr : r.received.vr = r.vr := rfl
  have hno : ¬ (s.takeJob job entries).placedHere ((s.takeJob job entries).placeEntry r.received.vr) = true := by
    rw [hvr, h]
    decide
  have htake : s.takePart (.rank r job entries) = { s.takeJob job entries with
      incoming := ((s.takeJob job entries).incoming.filter fun x => x.vr != r.vr) ++ [r.received] } := if_neg hno
  have hnone : (s.incoming.filter fun x => x.vr != r.vr).find? (fun x => x.vr == r.vr) = none := by simp
  rw [htake, hjob]
  refine ⟨?_, rfl, State.sameMemory_of_memories rfl⟩
  dsimp only
  rw [List.find?_append, hnone]
  simp [hvr]

/-- A rank whose entry has come before it is installed (15 R376). -/
theorem State.takePart_joins (h : (s.takeJob job entries).placedHere ((s.takeJob job entries).placeEntry r.vr) = true)
    (hroom : s.canTake r = true) : ∃ q, (s.takePart (.rank r job entries)).rank? r.vr = some q ∧ q.place = r.place ∧ q.gen = r.gen ∧
      q.phaseno = r.phaseno ∧ q.stepno = r.stepno := by
  obtain ⟨j, p, hjob⟩ := s.takeJob_eq job entries
  have htake : s.takePart (.rank r job entries) = (s.takeJob job entries).joinRank r.received := if_pos h
  have hroom' : (s.takeJob job entries).canTake r.received = true := by
    rw [hjob]
    exact hroom
  rw [htake]
  exact (State.joinRank_taken hroom').2
end

/-! ### PLACEMENT_UPDATE (15 R376; 17 R414) -/

section
variable {s : State} {vr : Nat} {e : Word}

theorem State.applyPlace_settles (h : s.placedHere e = false ∨ s.incoming.find? (fun r => r.vr == vr) = none) :
    s.applyPlace vr e = s.setPlace vr e := by
  unfold State.applyPlace
  dsimp only
  split
  · next hhere =>
    have hnone := h.resolve_left fun hno => by simp [show s.placedHere e = true from hhere] at hno
    split
    · next r hr => exact absurd (hr.symm.trans hnone) (by simp)
    · rfl
  · rfl

/-- The state in which a rank that waits for its entry joins. -/
def State.settleEntry (s : State) (vr : Nat) (e : Word) : State :=
  { s.setPlace vr e with incoming := s.incoming.filter fun r => r.vr != vr }

theorem State.applyPlace_joins {r : Rank} (hhere : s.placedHere e = true) (hr : s.incoming.find? (fun r => r.vr == vr) = some r) :
    s.applyPlace vr e = (s.settleEntry vr e).joinRank r := by
  unfold State.applyPlace
  refine (if_pos hhere).trans ?_
  split
  · next q hq =>
    obtain rfl : q = r := Option.some.inj (hq.symm.trans hr)
    rfl
  · next hq => exact absurd (hq.symm.trans hr) (by simp)

theorem State.applyPlace_entry_ne (s : State) {vr w : Nat} (hw : w ≠ vr) (e : Word) :
    (s.applyPlace vr e).placeEntry w = s.placeEntry w := by
  by_cases h : s.placedHere e = false ∨ s.incoming.find? (fun r => r.vr == vr) = none
  · rw [State.applyPlace_settles h, s.placeEntry_setPlace_ne hw]
  · rw [not_or, Bool.not_eq_false] at h
    obtain ⟨r, hr⟩ := Option.ne_none_iff_exists'.mp h.2
    have hvr : r.vr = vr := by simpa using List.find?_some hr
    have hentry : (s.settleEntry vr e).placeEntry w = s.placeEntry w := s.placeEntry_setPlace_ne hw e
    rw [State.applyPlace_joins h.1 hr, ← hentry]
    cases hroom : (s.settleEntry vr e).canTake r with
    | true => rw [State.placeEntry, (State.joinRank_taken hroom).1, State.placeEntry]
    | false =>
      rw [State.joinRank_lost hroom, State.placeEntry_of_settled (State.settled_of_standing (State.standing_loseRank _ _)),
        State.placeEntry_setPlace_ne _ (hvr ▸ hw)]

/-- The acknowledgement of a change. -/
def State.ackChange (s : State) (q : DHdr) : State := s.sendTo q.svr (.writeAck { replyHdr q with dvr := 0, svr := s.ownDom })

theorem exec_placementUpdate_own {q : DHdr} (h : q.dpkg = s.ownPkg) (vr : Nat) (e : Word) :
    exec (.placementUpdate (.placement q vr e)) s = .next ((s.applyPlace vr e).ackChange q) := by
  rw [exec_placementUpdate, execPlacementUpdate, show demandHdr (.placement q vr e) = q from rfl, State.mine_own h]
  rfl

theorem exec_placementUpdate_other {q : DHdr} (h : q.dpkg ≠ s.ownPkg) (vr : Nat) (e : Word) :
    exec (.placementUpdate (.placement q vr e)) s = .next (s.forward 32 (.placement q vr e)) := by
  rw [exec_placementUpdate, execPlacementUpdate, show demandHdr (.placement q vr e) = q from rfl, State.mine_other h]

/-- A placement update for this package sets the entry of the VR, and installs a rank that has come. -/
theorem exec_placementUpdate_spec {q : DHdr} (h : q.dpkg = s.ownPkg) (vr : Nat) (e : Word) :
    ∃ u, exec (.placementUpdate (.placement q vr e)) s = .next u ∧ (∀ w, w ≠ vr → u.placeEntry w = s.placeEntry w) ∧
      (s.placedHere e = false ∨ s.incoming.find? (fun r => r.vr == vr) = none →
        u.placeEntry vr = e ∧ u.ranks = s.ranks ∧ s.SameMemory u) ∧
      (∀ r, s.placedHere e = true → s.incoming.find? (fun r => r.vr == vr) = some r →
        (s.canTake r = true → u.placeEntry vr = e ∧ ∃ k, u.rank? vr = some k ∧ k.place = r.place ∧ k.gen = r.gen) ∧
        (s.canTake r = false → placeState (u.placeEntry vr) = 3 ∧ u.ranks = s.ranks)) := by
  have hack : ((s.applyPlace vr e).ackChange q).standing = (s.applyPlace vr e).standing := State.standing_sendTo _ _ _
  have hset := State.settled_of_standing hack
  have hranks : ((s.applyPlace vr e).ackChange q).ranks = (s.applyPlace vr e).ranks := congrArg Settled.ranks hset
  refine ⟨_, exec_placementUpdate_own h vr e, fun w hw => ?_, fun hwait => ?_, fun r hhere hr => ?_⟩
  · rw [State.placeEntry_of_settled hset, s.applyPlace_entry_ne hw]
  · rw [State.placeEntry_of_settled hset, hranks]
    rw [State.applyPlace_settles hwait] at hack ⊢
    exact ⟨s.placeEntry_setPlace_self vr e, rfl, State.sameMemory_of_standing (s := s.setPlace vr e) hack⟩
  · have hvr : r.vr = vr := by simpa using List.find?_some hr
    have hentry : (s.settleEntry vr e).placeEntry vr = e := s.placeEntry_setPlace_self vr e
    rw [State.placeEntry_of_settled hset, hranks, State.rank?_congr hranks, State.applyPlace_joins hhere hr]
    refine ⟨fun hroom => ?_, fun hroom => ?_⟩
    · obtain ⟨hplace, k, hk, hkplace, hkgen, -⟩ := State.joinRank_taken (s := s.settleEntry vr e) hroom
      refine ⟨?_, k, hvr ▸ hk, hkplace, hkgen⟩
      rw [State.placeEntry, hplace, ← State.placeEntry, hentry]
    · rw [State.joinRank_lost (s := s.settleEntry vr e) hroom, hvr]
      exact ⟨State.placeState_loseRank _ _, State.ranks_loseRank _ _⟩
end

/-! ### What the end of a gang leaves of a slot that has been vacated (14 R351) -/

/-- The slots offered are `av`, and nothing is resident in one slot. -/
def State.Vacant (slot : Nat) (av : BitVec 16) (s : State) : Prop := s.clavail = av ∧ (s.slot slot).occupant = none

section
variable {s t : State} {slot : Nat} {av : BitVec 16} (h : s.Vacant slot av)
include h

theorem State.Vacant.congr (hslots : t.slots = s.slots) (hav : t.clavail = s.clavail) : t.Vacant slot av := by
  rw [State.Vacant, State.slot, hslots, hav]
  exact h

theorem State.Vacant.modSlot (k : Nat) {f : Slot → Slot} (hf : ∀ x, x.occupant = none → (f x).occupant = none) :
    (s.modSlot k f).Vacant slot av := by
  refine ⟨h.1, ?_⟩
  by_cases hk : k < 16
  · rw [State.slot_modSlot s k slot f hk]
    split
    · next heq => exact hf _ (heq ▸ h.2)
    · exact h.2
  · rw [State.slot, show (s.modSlot k f).slots = s.slots from Vector.setIfInBounds_eq_of_size_le (Nat.le_of_not_lt hk)]
    exact h.2

theorem State.Vacant.storeScratch (r : SRef) (k addr : Nat) (bs : List Byte) : (s.storeScratch r k addr bs).Vacant slot av := by
  unfold State.storeScratch
  split
  · exact h.modSlot _ fun _ hx => hx
  · exact h.congr rfl rfl
  · exact h

theorem State.Vacant.putCommitted (k : Nat) (d : StoreTo) (bs : List Byte) : (s.putCommitted k d bs).Vacant slot av := by
  cases d with
  | scratch a => exact h.modSlot _ fun _ hx => hx
  | phys a => exact h.congr rfl rfl
  | host a => exact h.congr rfl rfl
  | peer p a => exact h

theorem State.Vacant.notify (n : BitVec 1024) : (s.notify n).Vacant slot av := by
  unfold State.notify
  split <;> exact h.congr rfl rfl

theorem State.Vacant.vacate (t : BitVec 512) : (s.vacate t).Vacant slot av := by
  unfold State.vacate
  split
  · refine h.modSlot _ fun x hx => ?_
    unfold Slot.vacatedBy
    split
    · rfl
    · exact hx
  · exact h
end

section
variable {slot : Nat} {av : BitVec 16}

theorem State.Vacant.writeElems {s : State} (h : s.Vacant slot av) (r : SRef) (k sz : Nat) (data : Buf) (elems : List (Int × Nat)) :
    (s.writeElems r k sz data elems).Vacant slot av := by
  induction elems generalizing s with
  | nil => exact h
  | cons e rest ih => exact ih (h.storeScratch _ _ _ _)

theorem State.Vacant.finishEntry {s : State} (h : s.Vacant slot av) (r : SRef) (z k : Nat) (cores : List Nat) (x : Stream)
    (rows : List RowSrc) : (s.finishEntry r z k cores x rows).Vacant slot av := by
  unfold State.finishEntry
  split
  · unfold State.deliverEntry
    dsimp only
    split <;> exact h.congr rfl rfl
  · split
    · unfold State.drainEntry
      dsimp only
      split
      · exact h.congr rfl rfl
      · split
        · exact h.congr rfl rfl
        · exact (h.writeElems _ _ _ _ _).congr rfl rfl
    · exact h

theorem State.Vacant.stopStreams {s : State} (h : s.Vacant slot av) (r : SRef) (i : StrandId) : (s.stopStreams r i).Vacant slot av := by
  rw [State.stopStreams_eq]
  refine List.foldlRecOn _ _ h fun s h z _ => ?_
  unfold State.stopStream
  split
  · dsimp only
    split
    · exact (h.finishEntry _ _ _ _ _ _).congr rfl rfl
    · exact h.congr rfl rfl
  · exact h

theorem State.Vacant.undefine {s : State} (h : s.Vacant slot av) (k : Nat) (r : SRef) (l : List (Space × Nat)) :
    (s.undefine k r l).Vacant slot av := by
  induction l generalizing s with
  | nil => exact h
  | cons p t ih =>
    unfold State.undefine
    dsimp only
    refine ih ?_
    have hfree : (s.freeBytes p.2).2.Vacant slot av := h.congr rfl rfl
    split
    · exact hfree.putCommitted _ _ _
    · exact List.foldlRecOn _ _ hfree fun s h q _ => h.putCommitted _ _ _

theorem State.Vacant.freeSource {s : State} (h : s.Vacant slot av) (t : BitVec 512) : (s.freeSource t).Vacant slot av := by
  have hav : (s.freeSource t).clavail = (s.vacate t).clavail := by
    cases hhere : s.migrHere t with
    | true => rw [State.freeSource_here hhere]
    | false =>
      cases hr : s.rank? (migVr t) with
      | none => rw [State.freeSource_absent hhere hr]
      | some r =>
        rw [State.freeSource_leaves hhere hr]
        rfl
  exact (h.vacate t).congr (s.freeSource_spec t).1 hav

theorem State.Vacant.tell {s : State} (h : s.Vacant slot av) (vr : Nat) : (s.tell vr).Vacant slot av :=
  h.congr (congrArg (·.2.slots) (s.standing_tell vr)) (congrArg (·.2.clavail) (s.standing_tell vr))

theorem State.Vacant.abandonMigr {s : State} (h : s.Vacant slot av) (c : Cmd) : (s.abandonMigr c).Vacant slot av := by
  unfold State.abandonMigr
  split
  · dsimp only
    split
    · refine State.Vacant.tell ?_ _
      exact h.congr rfl rfl
    · split
      · exact h.freeSource _
      · exact h
  · exact h

theorem State.Vacant.discardCmds {s : State} (h : s.Vacant slot av) (p : Cmd → Bool) : (s.discardCmds p).Vacant slot av := by
  unfold State.discardCmds
  refine List.foldlRecOn _ _ (h.congr rfl rfl) fun s h c _ => ?_
  refine State.Vacant.abandonMigr ?_ c
  exact (h.undefine _ _ _).congr rfl rfl

theorem State.Vacant.schedFault {s : State} (h : s.Vacant slot av) (vr why : Nat) : (s.schedFault vr why).Vacant slot av := by
  unfold State.schedFault
  split
  · exact h
  · refine State.Vacant.notify ?_ _
    exact h.congr rfl rfl

theorem State.Vacant.endGang {s : State} (h : s.Vacant slot av) (vr g : Nat) : (s.endGang vr g).Vacant slot av := by
  unfold State.endGang
  split
  · exact h
  next x _ =>
    have hstop : (if x.holdsCores then x.cores.foldl (fun (s : State) c =>
        (s.stopStreams { vr := vr, gang := g, core := c.coreno, strand := .l } .l).stopStreams
          { vr := vr, gang := g, core := c.coreno, strand := .l } .s) s else s).Vacant slot av := by
      split
      · exact List.foldlRecOn _ _ h fun s h c _ => (h.stopStreams _ _).stopStreams _ _
      · exact h
    have hdrop := (hstop.discardCmds fun c => c.by'.vr == vr && c.by'.gang == g).congr
      (t := State.modRank _ vr fun r => ((r.dropGang g).retireGang x.launch true).settleAll) rfl rfl
    dsimp only
    split
    · exact hdrop.schedFault _ _
    · exact hdrop

theorem State.Vacant.stopGangs {s : State} (h : s.Vacant slot av) (r : Rank) : (s.stopGangs r).Vacant slot av := by
  unfold State.stopGangs
  refine List.foldlRecOn _ _ h fun s h g _ => ?_
  unfold State.killNotice
  split
  · exact h
  · exact (h.endGang _ _).notify _
end

/-! ### STACK_FAILURE (15 R368, R379) -/

/-- The slot is no longer offered. -/
def State.withdraw (s : State) (slot : Nat) : State := { s with clavail := s.clavail &&& ~~~(BitVec.ofNat 16 (2 ^ slot)) }

theorem State.bitAt_withdraw (s : State) {slot k : Nat} (hk : k < 16) :
    bitAt (s.withdraw slot).clavail k = (bitAt s.clavail k && k != slot) := by
  simp only [State.withdraw, bitAt, BitVec.getLsbD_and, BitVec.getLsbD_not, BitVec.getLsbD_ofNat, Nat.testBit_two_pow, hk, decide_true,
    Bool.true_and]
  by_cases h : k = slot
  · simp [h]
  · simp [h, Ne.symm h]

/-- A migration that moves the resident rank from the slot fails (15 R368). -/
def State.failMoving (s : State) (slot : Nat) : State := match (s.slot slot).occupant.bind fun vr => s.movingFrom slot vr with
  | some m => s.failMigr m.1 m.2.1 5 m.2.2
  | none => s

/-- A rank in the slot leaves it, and is lost if it is resident there. -/
def State.loseResident (s : State) (slot : Nat) (r : Rank) : State :=
  let s := s.modSlot slot fun k => { k with occupant := none }
  if r.place ≠ .resident slot then s
  else
    let s := s.stopGangs r
    { s with ranks := s.ranks.filter fun x => x.vr != r.vr }.loseRank r.vr

theorem State.movingFrom_spec {s : State} {slot vr : Nat} {m : Cmd × BitVec 512 × List Nat} (h : s.movingFrom slot vr = some m) :
    migVr m.2.1 = vr ∧ migrSource m.2.1 = .resident slot ∧
      ∃ stage taken pages gangs root, m.1.body = .migr m.2.1 stage taken pages gangs root ∧ (stage = 1 ∨ stage = 2) := by
  obtain ⟨c, -, hc⟩ := List.exists_of_findSome?_eq_some h
  split at hc
  · next t stage taken pages gangs root hbody =>
    split at hc
    · next hmoves =>
      obtain ⟨hvr, hsource, hstage⟩ := hmoves
      obtain rfl := Option.some.inj hc
      exact ⟨hvr, hsource, stage, taken, pages, gangs, root, hbody, hstage⟩
    · cases hc
  · cases hc

section
variable {s : State} {slot vr : Nat} (hocc : (s.slot slot).occupant = some vr)
include hocc

theorem State.failMoving_none (h : s.movingFrom slot vr = none) : s.failMoving slot = s := by
  rw [State.failMoving, hocc, Option.bind_some, h]

theorem State.failMoving_some {m : Cmd × BitVec 512 × List Nat} (h : s.movingFrom slot vr = some m) :
    s.failMoving slot = s.failMigr m.1 m.2.1 5 m.2.2 := by
  rw [State.failMoving, hocc, Option.bind_some, h]

/-- The failing of a migration leaves the slots as they are, and the rank resident where it was. -/
theorem State.failMoving_spec {m : Cmd × BitVec 512 × List Nat} (h : s.movingFrom slot vr = some m) :
    (s.failMoving slot).clavail = s.clavail ∧ (s.failMoving slot).slots = s.slots ∧
      ∀ r, s.rank? vr = some r → ∃ q, (s.failMoving slot).rank? vr = some q ∧ q.place = .resident slot := by
  obtain ⟨hvr, hsource, stage, taken, pages, gangs, root, hbody, hstage⟩ := State.movingFrom_spec h
  rw [State.failMoving_some hocc h]
  obtain ⟨v, hv, hset, -⟩ := s.failMigr_eq hbody hstage 5 m.2.2
  obtain ⟨ws, hret, -⟩ := v.retired_endMigr m.1 m.2.1 5 0 m.2.2.length 0
  refine ⟨?_, ?_, fun r hr => ?_⟩
  · rw [hv]
    exact hret.clavail.trans (congrArg Settled.clavail hset)
  · rw [hv]
    exact (congrArg (·.2.2) hret.memories).trans (congrArg Settled.slots hset)
  · rw [← hsource]
    exact hvr ▸ State.failMigr_rank hbody hstage 5 m.2.2 (hvr ▸ hr)
end

theorem State.failMoving_keeps (s : State) (slot : Nat) :
    (s.failMoving slot).clavail = s.clavail ∧ (s.failMoving slot).slots = s.slots := by
  cases hocc : (s.slot slot).occupant with
  | none =>
    rw [State.failMoving, hocc]
    exact ⟨rfl, rfl⟩
  | some vr =>
    cases hm : s.movingFrom slot vr with
    | none =>
      rw [State.failMoving_none hocc hm]
      exact ⟨rfl, rfl⟩
    | some m => exact ⟨(State.failMoving_spec hocc hm).1, (State.failMoving_spec hocc hm).2.1⟩

theorem State.vacant_loseResident (s : State) {slot : Nat} (hslot : slot < 16) (r : Rank) :
    (s.loseResident slot r).Vacant slot s.clavail := by
  have hvacant : (s.modSlot slot fun k => { k with occupant := none }).Vacant slot s.clavail :=
    ⟨rfl, by rw [State.slot_modSlot_self s hslot]⟩
  unfold State.loseResident
  dsimp only
  split
  · exact hvacant
  · exact (hvacant.stopGangs r).congr (congrArg (·.2.slots) (State.standing_loseRank _ _))
      (congrArg (·.2.clavail) (State.standing_loseRank _ _))

theorem State.loseResident_resident (s : State) {slot : Nat} {r : Rank} (h : r.place = .resident slot) :
    (s.loseResident slot r).rank? r.vr = none ∧ placeState ((s.loseResident slot r).placeEntry r.vr) = 3 := by
  have hlose : s.loseResident slot r = _ := if_neg (not_not_intro h)
  rw [hlose]
  refine ⟨?_, State.placeState_loseRank _ _⟩
  rw [State.rank?_congr (State.ranks_loseRank _ _), State.rank?]
  simp

section
variable {s : State} {slot : Nat}

theorem exec_stackFailure_unheld (h : (((s.withdraw slot).failMoving slot).slot slot).occupant.bind
    ((s.withdraw slot).failMoving slot).rank? = none) :
    exec (.stackFailure slot) s = .next ((s.withdraw slot).failMoving slot) := by
  rw [exec_stackFailure, execStackFailure]
  refine congrArg _ ?_
  dsimp only
  split
  · rfl
  · next r hr => exact absurd (hr.symm.trans h) (by simp)

theorem exec_stackFailure_held {r : Rank} (h : (((s.withdraw slot).failMoving slot).slot slot).occupant.bind
    ((s.withdraw slot).failMoving slot).rank? = some r) :
    exec (.stackFailure slot) s = .next (((s.withdraw slot).failMoving slot).loseResident slot r) := by
  rw [exec_stackFailure, execStackFailure]
  refine congrArg _ ?_
  dsimp only
  split
  · next hr => exact absurd (hr.symm.trans h) (by simp)
  · next q hq =>
    obtain rfl : q = r := Option.some.inj (hq.symm.trans h)
    rfl

/-- The stack's slot is withdrawn, whatever it holds. -/
theorem exec_stackFailure_withdraws (hslot : slot < 16) : ∃ u, exec (.stackFailure slot) s = .next u ∧
    u.clavail = (s.withdraw slot).clavail := by
  cases h : (((s.withdraw slot).failMoving slot).slot slot).occupant.bind ((s.withdraw slot).failMoving slot).rank? with
  | none => exact ⟨_, exec_stackFailure_unheld h, (State.failMoving_keeps _ _).1⟩
  | some r => exact ⟨_, exec_stackFailure_held h, (State.vacant_loseResident _ hslot r).1.trans (State.failMoving_keeps _ _).1⟩

theorem exec_stackFailure_empty (h : (s.slot slot).occupant = none) : exec (.stackFailure slot) s = .next (s.withdraw slot) := by
  have hocc : ((s.withdraw slot).slot slot).occupant = none := h
  have hnone : (s.withdraw slot).failMoving slot = s.withdraw slot := by rw [State.failMoving, hocc]; rfl
  have hexec := exec_stackFailure_unheld (s := s) (slot := slot) (by rw [hnone, hocc]; rfl)
  rwa [hnone] at hexec

/-- A rank resident in the slot, or moving from it, is lost; another is left alone. -/
theorem exec_stackFailure_occupied (hslot : slot < 16) {r : Rank} (h : (s.slot slot).occupant.bind s.rank? = some r) :
    ∃ u, exec (.stackFailure slot) s = .next u ∧ (u.slot slot).occupant = none ∧
      (r.place = .resident slot ∨ (s.movingFrom slot r.vr).isSome = true → u.rank? r.vr = none ∧ placeState (u.placeEntry r.vr) = 3) ∧
      (r.place ≠ .resident slot → s.movingFrom slot r.vr = none → u.ranks = s.ranks ∧ u.place = s.place) := by
  obtain ⟨vr, hocc, hr⟩ := Option.bind_eq_some_iff.mp h
  obtain rfl := State.vr_of_rank? hr
  have hocc' : ((s.withdraw slot).slot slot).occupant = some r.vr := hocc
  have hslots := ((s.withdraw slot).failMoving_keeps slot).2
  have hfound : ∀ q, ((s.withdraw slot).failMoving slot).rank? r.vr = some q →
      exec (.stackFailure slot) s = .next (((s.withdraw slot).failMoving slot).loseResident slot q) := fun q hq => by
    refine exec_stackFailure_held ?_
    rw [State.slot, hslots, ← State.slot, hocc']
    exact hq
  cases hm : s.movingFrom slot r.vr with
  | none =>
    have hsame := State.failMoving_none hocc' hm
    rw [hsame] at hfound
    refine ⟨_, hfound r hr, (State.vacant_loseResident _ hslot r).2, fun hres => ?_, fun hne _ => ?_⟩
    · exact State.loseResident_resident _ (hres.resolve_right (by simp))
    · have hlose : (s.withdraw slot).loseResident slot r = _ := if_pos hne
      rw [hlose]
      exact ⟨rfl, rfl⟩
  | some m =>
    obtain ⟨q, hq, hplace⟩ := (State.failMoving_spec hocc' hm).2.2 r hr
    have hvr := State.vr_of_rank? hq
    refine ⟨_, hfound q hq, (State.vacant_loseResident _ hslot q).2, fun _ => ?_, fun _ hnone => by simp at hnone⟩
    exact hvr ▸ State.loseResident_resident _ hplace
end

/-- Settles O43: the stages of a migration command one by one, each by the lemma about its `exec`; a result record joins the view of the
issuing core by what the end of a command leaves. -/
theorem migration : Obligations.Migration := by
  intro s
  refine ⟨fun c t rec' hc hending hspoiled hrec => ?_, fun f p => ?_, fun q vr e => ?_, fun slot hslot => ?_⟩
  · obtain rfl : rec' = migRecord t := hrec
    refine ⟨fun stage read pages gangs root hbody hstage => ?_, fun read pages gangs root hbody r hr => ?_,
      fun taken pages gangs root hbody => ?_, fun taken pages gangs root hbody => ?_⟩
    · subst hstage
      refine ⟨exec_migrationCommand_idle hc hbody hending, fun hlive hfirst => ⟨fun st hrefused => ?_,
        fun r hr hplace hhold hhere hslot hroom => ?_, fun r hr hplace hhold hhere hlink => ?_⟩⟩
      · obtain ⟨hcheck, hst⟩ := State.checkMigr_refused hrefused
        exact exec_migrationCommand_refused_spec hc hbody hending hlive hfirst hspoiled hcheck hst
      · refine exec_migrationCommand_passed_spec hc hbody hending hlive hfirst hr ?_
        cases hto : migToSlot t with
        | true => rw [State.checkMigr_slot c hr hplace hhold hhere hto, if_pos (hslot hto)]
        | false => rw [State.checkMigr_fallow c hr hplace hhold hhere hto, if_neg (Nat.not_le.mpr (hroom hto))]
      · obtain ⟨st, n, hcheck⟩ := State.checkMigr_elsewhere c hr hplace hhold hhere hlink
        exact exec_migrationCommand_elsewhere hc hbody hending hlive hfirst hcheck
    · exact ⟨exec_migrationCommand_pinned hc hbody hr, fun hfree =>
        ⟨fun list s' hlist henough => ⟨fun new x hx => exec_migrationCommand_rebuilt hc hbody hr hfree henough hlist hx,
          fun x hx => exec_migrationCommand_list_short hc hbody hr hfree henough hlist hspoiled hx⟩,
        exec_migrationCommand_frames_short hc hbody hr hfree hspoiled⟩⟩
    · exact ⟨exec_migrationCommit_gone_spec hc hbody hending hspoiled, fun r hr => ⟨exec_migrationCommit_here hc hbody hending hr,
        exec_migrationCommit_away hc hbody hending hr, fun st => exec_migrationCommit_fails hc hbody hending hr hspoiled⟩⟩
    · exact ⟨exec_migrationCommit_awaits hc hbody hending, exec_migrationCommit_acknowledged hc hbody hending hspoiled⟩
  · refine ⟨exec_migrationData_near p, exec_migrationData_bad p, exec_migrationData_next p, fun a bs hp => hp ▸ rfl,
      fun r job entries hp => ?_⟩
    subst hp
    exact ⟨State.takePart_waits r job entries, State.takePart_joins r job entries⟩
  · exact ⟨fun h => exec_placementUpdate_other h vr e, fun h => exec_placementUpdate_spec h vr e⟩
  · obtain ⟨u, hu, hav⟩ := exec_stackFailure_withdraws (s := s) hslot
    refine ⟨u, hu, by simp [hav, s.bitAt_withdraw hslot], fun k hk hne => by simp [hav, s.bitAt_withdraw hk, hne], fun hempty => ?_,
      fun r hr => ?_⟩
    · obtain rfl : u = s.withdraw slot := Host.Outcome.next.inj (hu.symm.trans (exec_stackFailure_empty hempty))
      rfl
    · obtain ⟨v, hv, hspec⟩ := exec_stackFailure_occupied hslot hr
      obtain rfl : u = v := Host.Outcome.next.inj (hu.symm.trans hv)
      exact hspec

end Sys2Proof.Machine

/-! ### The granary: what sending, telling and completing leave (16 R385, R396, R398 to R400) -/

namespace Sys2Proof.Machine

/-- The shard records and the rule slots of the granary. -/
def State.records (s : State) : List Shard × List (Nat × Nat × List (BitVec 32)) := (s.granary.shards, s.granary.rules)

theorem State.records_of_granary {s t : State} (h : t.granary = s.granary) : t.records = s.records := by
  rw [State.records, h, State.records]

theorem State.shard?_of_records {s t : State} (h : t.records = s.records) (job shard : Nat) : t.shard? job shard = s.shard? job shard := by
  rw [State.shard?, show t.granary.shards = s.granary.shards from congrArg Prod.fst h, State.shard?]

theorem State.shard?_of_granary {s t : State} (h : t.granary = s.granary) (job shard : Nat) : t.shard? job shard = s.shard? job shard :=
  State.shard?_of_records (State.records_of_granary h) job shard

theorem State.ruleProgram_of_records {s t : State} (h : t.records = s.records) (job slot : Nat) :
    t.ruleProgram job slot = s.ruleProgram job slot := by
  rw [State.ruleProgram, show t.granary.rules = s.granary.rules from congrArg Prod.snd h, State.ruleProgram]

/-! #### Messages and notices -/

/-- A frame joins its connection, and what has been sent stays sent. -/
theorem State.sendFrame_cases (s : State) (kind : Nat) (h : FrameHdr) (body : FrameBody) (op : Option (Nat × Nat)) :
    ∃ conns new, s.sendFrame kind h body op = { s with conns := conns, out := s.out ++ new } := by
  unfold State.sendFrame
  dsimp only
  split
  · exact ⟨s.conns, [], by rw [List.append_nil]⟩
  · split
    · exact ⟨_, _, rfl⟩
    · exact ⟨_, [], by rw [List.append_nil]; rfl⟩

/-- A message to a package of a domain goes into the net, into a headland queue, or into a frame. -/
theorem State.sendTo_cases (s : State) (dom : Nat) (m : Demand) : (∃ l, s.sendTo dom m = { s with net := l }) ∨
    (∃ f, s.sendTo dom m = { s with fabric := f }) ∨ ∃ conns new, s.sendTo dom m = { s with conns := conns, out := s.out ++ new } := by
  unfold State.sendTo
  split
  · obtain h | h := s.send_cases m
    · exact .inl h
    · exact .inr (.inl h)
  · exact .inr (.inr (s.sendFrame_cases _ _ _ _))

@[simp] theorem State.sendTo_granary (s : State) (dom : Nat) (m : Demand) : (s.sendTo dom m).granary = s.granary := by
  obtain ⟨_, h⟩ | ⟨_, h⟩ | ⟨_, _, h⟩ := s.sendTo_cases dom m <;> rw [h]

theorem State.sendTo_cmds (s : State) (dom : Nat) (m : Demand) : (s.sendTo dom m).cmds = s.cmds :=
  congrArg (·.2.cmds) (s.standing_sendTo dom m)

theorem State.mem_out_sendTo {s : State} {o : Out} (h : o ∈ s.out) (dom : Nat) (m : Demand) : o ∈ (s.sendTo dom m).out := by
  obtain ⟨_, hs⟩ | ⟨_, hs⟩ | ⟨_, _, hs⟩ := s.sendTo_cases dom m
  · rwa [hs]
  · rwa [hs]
  · rw [hs]
    exact List.mem_append_left _ h

/-- What a notice and the completion of granary commands leave: the records and rule slots, what has been sent, the engine commands. -/
def State.enduring (s : State) : (List Shard × List (Nat × Nat × List (BitVec 32))) × List Out × List Cmd := (s.records, s.out, s.cmds)

section
variable {s t : State} (h : t.enduring = s.enduring)
include h

theorem State.records_of_enduring : t.records = s.records := congrArg Prod.fst h
theorem State.out_of_enduring : t.out = s.out := congrArg (·.2.1) h
theorem State.cmds_of_enduring : t.cmds = s.cmds := congrArg (·.2.2) h
end

theorem State.notify_granary (s : State) (n : BitVec 1024) : (s.notify n).granary = s.granary := by
  unfold State.notify
  split <;> rfl

theorem State.granNotice_granary (s : State) (job shard event rest : Nat) : (s.granNotice job shard event rest).granary = s.granary :=
  s.notify_granary _

@[simp] theorem State.enduring_granNotice (s : State) (job shard event rest : Nat) :
    (s.granNotice job shard event rest).enduring = s.enduring := by
  unfold State.granNotice State.notify
  dsimp only
  split <;> rfl

/-! #### Granary commands that complete (16 R399) -/

@[simp] theorem State.enduring_flushGran (n : Nat) (s : State) : (s.flushGran n).enduring = s.enduring := by
  induction n generalizing s with
  | zero => rfl
  | succ n ih =>
    unfold State.flushGran
    split
    · split
      · rw [ih, State.enduring_granNotice]
        rfl
      · rfl
    · rfl

@[simp] theorem State.enduring_postGran (s : State) (code job shard : Nat) (status : Option Nat) :
    (s.postGran code job shard status).2.enduring = s.enduring := State.enduring_flushGran _ _

@[simp] theorem State.enduring_endGran (s : State) (p : GranCmd → Bool) (status : Nat) : (s.endGran p status).enduring = s.enduring :=
  State.enduring_flushGran _ _

theorem State.shard?_postGran (s : State) (code job shard : Nat) (status : Option Nat) (j k : Nat) :
    (s.postGran code job shard status).2.shard? j k = s.shard? j k :=
  State.shard?_of_records (State.records_of_enduring (s.enduring_postGran _ _ _ _)) j k

theorem State.shard?_endGran (s : State) (p : GranCmd → Bool) (status j k : Nat) : (s.endGran p status).shard? j k = s.shard? j k :=
  State.shard?_of_records (State.records_of_enduring (s.enduring_endGran p status)) j k

/-- A command whose status is not known waits in the list, whatever completes before it. -/
theorem State.mem_flushGran {c : GranCmd} (hc : c.status = none) (n : Nat) {s : State} (h : c ∈ s.granary.cmds) :
    c ∈ (s.flushGran n).granary.cmds := by
  induction n generalizing s with
  | zero => exact h
  | succ n ih =>
    unfold State.flushGran
    split
    next d t hcmds =>
      split
      next st hst =>
        refine ih ?_
        rw [State.granNotice_granary]
        rw [hcmds] at h
        obtain rfl | h := List.mem_cons.mp h
        · simp [hc] at hst
        · exact h
      · exact h
    · exact h

/-- A command posted without its status waits. -/
theorem State.postGran_waits (s : State) (code job shard : Nat) :
    ∃ k ∈ (s.postGran code job shard none).2.granary.cmds, k.code = code ∧ k.status = none := by
  refine ⟨{ id := s.nextId, code := code, job := job, shard := shard, status := none }, State.mem_flushGran rfl _ ?_, rfl, rfl⟩
  exact List.mem_append_right _ (List.mem_singleton.mpr rfl)

/-- A command posted with its status when none is pending completes at once. -/
theorem State.postGran_completes {s : State} (h : s.granary.cmds = []) (code job shard st : Nat) :
    (s.postGran code job shard (some st)).2.granary = s.granary := by
  have hgran : { s.granary with cmds := [] } = s.granary := h ▸ rfl
  simp only [State.postGran, State.fresh, State.modGranary, h, List.nil_append, List.length_singleton, State.flushGran,
    State.granNotice_granary]
  exact hgran

/-! #### Changes of the directory sent out (16 R398) -/

theorem State.publish_granary (s : State) (dests : List (Nat × Nat)) (m : DHdr → Demand) (cmd gran : Option Nat) :
    (s.publish dests m cmd gran).granary = s.granary := by
  unfold State.publish
  dsimp only
  split <;> exact foldl_keeps (fun r : List Nat × State => r.2.granary) (fun r d => State.sendTo_granary _ _ _) dests ([], s)

theorem State.records_releaseKept (s : State) (r : Sys2Proof.ShardRec) : (s.releaseKept r).records = s.records := rfl

theorem State.records_publishShard (s : State) (job shard : Nat) (target : Option Sys2Proof.ShardRec) (gran : Option Nat) :
    (s.publishShard job shard target gran).records = s.records := by
  unfold State.publishShard
  split
  · rfl
  · rw [State.records_releaseKept]
    exact State.records_of_granary (s.publish_granary _ _ _ _)

/-! #### Gathers answered (16 R396) -/

theorem State.answerGather_granary (s : State) (g : GatherMsg) (answer : List Byte) : (s.answerGather g answer).granary = s.granary := by
  unfold State.answerGather
  dsimp only
  split
  · rfl
  · exact State.sendTo_granary _ _ _

theorem State.endDeferred_granary (s : State) (l : List GatherMsg) (status : Nat) : (s.endDeferred l status).granary = s.granary :=
  foldl_keeps State.granary (fun s g => s.answerGather_granary g _) l s

theorem State.openSpoiled_granary (s : State) (c : Cmd) (ws : List EByte) : (s.openSpoiled c ws).2.granary = s.granary := by
  unfold State.openSpoiled
  split <;> rfl

theorem State.putOwnWrites_granary (s : State) (c : Cmd) (ws : List EByte) : (s.putOwnWrites c ws).granary = s.granary := by
  unfold State.putOwnWrites
  split <;> rfl

theorem State.retireCmd_granary (s : State) (c : Cmd) (ws : List EByte) : (s.retireCmd c ws).granary = s.granary := by
  unfold State.retireCmd
  dsimp only
  split <;> exact State.putOwnWrites_granary _ c ws

theorem State.endCmd_granary (s : State) (c : Cmd) (ws : List EByte) : (s.endCmd c ws).granary = s.granary := by
  unfold State.endCmd
  dsimp only
  split
  · rw [State.retireCmd_granary, State.openSpoiled_granary]
  · exact (foldl_keeps State.granary (f := fun s (q : Nat × Nat × List Byte) =>
      s.cmdAccess c (.cmdStore c.id q.2.2) q.1 q.2.1 (peerOrder c.order 1))
      (fun _ _ => rfl) _ _).trans (s.openSpoiled_granary c ws)

theorem State.finishGather_granary (s : State) (c : Cmd) (answer : List Byte) : (s.finishGather c answer).granary = s.granary := by
  unfold State.finishGather
  split
  · rfl
  · split
    · exact s.endCmd_granary c _
    · rfl

theorem State.endOwnGathers_granary (s : State) (job shard status : Nat) : (s.endOwnGathers job shard status).granary = s.granary :=
  foldl_keeps State.granary (fun s c => s.finishGather_granary c _) _ s

/-! #### Gradient blocks sent on (16 R384, R385) -/

/-- What the sending of a block leaves: the granary, memory, and what names the packages of the job. -/
def State.ledger (s : State) : (Granary × Memory × Memory × Vector Slot 16) × List Rank × List (Nat × Word) × List NodeHold × Word :=
  ((s.granary, s.memories), s.ranks, s.place, s.fabric.holders, s.pkgid)

theorem State.ledger_sendBlockNear (s : State) (b : GBlock) (pkgs : List Nat) : (s.sendBlockNear b pkgs).ledger = s.ledger := by
  unfold State.sendBlockNear
  dsimp only
  repeat' split
  all_goals rfl

theorem State.ledger_sendBlock (s : State) (b : GBlock) (dests : List (Nat × Nat)) : (s.sendBlock b dests).ledger = s.ledger := by
  have hframe : ∀ (s : State) kind h body op, (s.sendFrame kind h body op).ledger = s.ledger := fun s kind h body op => by
    obtain ⟨_, _, hs⟩ := s.sendFrame_cases kind h body op
    rw [hs]
    rfl
  have hfar : ∀ (s : State) (d : Nat × Nat), (s.sendBlockFar b d).ledger = s.ledger := fun s d =>
    foldl_keeps State.ledger (fun _ _ => hframe _ _ _ _ _) _ s
  exact (foldl_keeps State.ledger hfar _ _).trans (State.ledger_sendBlockNear _ _ _)

theorem State.memberPkgs_of_ledger {s t : State} (h : t.ledger = s.ledger) : t.memberPkgs = s.memberPkgs := by
  simp only [State.ledger, Prod.mk.injEq] at h
  obtain ⟨-, hranks, hplace, hholders, hpkgid⟩ := h
  unfold State.memberPkgs State.rootPkgs State.ownDom State.ownPkg
  rw [hranks, hplace, hholders, hpkgid]

/-- The acknowledgement of a block leaves the records, and memory. -/
theorem State.sendBlockAck_keeps (s : State) (b : GBlock) :
    (s.sendBlockAck b).records = s.records ∧ (s.sendBlockAck b).memories = s.memories := by
  unfold State.sendBlockAck
  split
  · exact ⟨rfl, rfl⟩
  · exact ⟨State.records_of_granary (s.sendTo_granary _ _),
      congrArg (fun p : Memory × Settled => (p.1, p.2.hostMem, p.2.slots)) (s.standing_sendTo _ _)⟩

/-! ### The record of a shard after a change (16 R381) -/

/-- The record of a shard after a change of the records under one key, which keep it. -/
theorem State.shard?_modShard (s : State) {job shard : Nat} {f : Shard → Shard}
    (hf : ∀ x, x.rec'.job = job → x.rec'.shard = shard → (f x).rec'.job = job ∧ (f x).rec'.shard = shard) (j k : Nat) :
    (s.modShard job shard f).shard? j k = (s.shard? j k).map fun x => if j = job ∧ k = shard then f x else x := by
  have hkey : ((fun x : Shard => x.rec'.job == j && x.rec'.shard == k) ∘ fun x =>
      if x.rec'.job = job ∧ x.rec'.shard = shard then f x else x) =
      fun x => x.rec'.job == j && x.rec'.shard == k := by
    funext x
    rw [Function.comp_apply]
    split
    next h =>
      obtain ⟨hjob, hshard⟩ := hf x h.1 h.2
      rw [hjob, hshard, h.1, h.2]
    · rfl
  rw [State.shard?, State.modShard, State.modGranary, List.find?_map, hkey, State.shard?]
  refine Option.map_congr fun x hx => ?_
  obtain ⟨hjob, hshard⟩ : x.rec'.job = j ∧ x.rec'.shard = k := by simpa using List.find?_some hx
  rw [hjob, hshard]

theorem State.shard?_modShard_self {s : State} {job shard : Nat} {x : Shard} (hx : s.shard? job shard = some x) (f : Shard → Shard)
    (hf : ∀ x, x.rec'.job = job → x.rec'.shard = shard → (f x).rec'.job = job ∧ (f x).rec'.shard = shard := by
      exact fun _ hjob hshard => ⟨hjob, hshard⟩) :
    (s.modShard job shard f).shard? job shard = some (f x) := by
  rw [State.shard?_modShard s hf, hx, Option.map_some, if_pos ⟨rfl, rfl⟩]

theorem State.key_of_shard? {s : State} {job shard : Nat} {x : Shard} (hx : s.shard? job shard = some x) :
    x.rec'.job = job ∧ x.rec'.shard = shard := by
  simpa using List.find?_some hx

/-- No record is left under a key once those under it are gone. -/
theorem find?_filter_shard (l : List Shard) (job shard : Nat) :
    (l.filter fun y => !(y.rec'.job == job && y.rec'.shard == shard)).find? (fun x => x.rec'.job == job && x.rec'.shard == shard) = none := by
  simp only [List.find?_eq_none, List.mem_filter]
  grind

/-! ### A gather judged (16 R396) -/

/-- The record with one more gather deferred. -/
def Shard.deferring (g : GatherMsg) (x : Shard) : Shard := { x with deferred := x.deferred ++ [g] }

theorem State.shard?_deferring (s : State) (g : GatherMsg) (job shard : Nat) :
    (s.modShard g.job g.shard (Shard.deferring g)).shard? job shard =
      (s.shard? job shard).map fun x => if job = g.job ∧ shard = g.shard then x.deferring g else x :=
  s.shard?_modShard (f := Shard.deferring g) (fun _ hjob hshard => ⟨hjob, hshard⟩) job shard

/-- What is judged of a gather shows in the net, in what is sent, or in the gathers that the home defers: what holds after each of these
holds after the judging. -/
theorem State.judgeGather_holds {P : State → Prop} {s : State} {g : GatherMsg} (h : P s) (hnet : ∀ l, P { s with net := l })
    (hsend : ∀ dom m, P (s.sendTo dom m))
    (hdefer : ∀ x, s.shard? g.job g.shard = some x → x.rec'.role = 1 → x.rec'.c + 1 < g.step →
      P (s.modShard g.job g.shard (Shard.deferring g))) : P (s.judgeGather g) := by
  have hanswer : ∀ bs, P (s.answerGather g bs) := fun bs => by
    unfold State.answerGather
    dsimp only
    split
    · exact hnet _
    · exact hsend _ _
  unfold State.judgeGather
  split
  · exact hanswer _
  next x hx =>
    dsimp only
    split
    · split
      · exact hanswer _
      · split
        · split
          · exact h
          · exact hanswer _
        · exact hsend _ _
    next hrole =>
      rw [ne_eq, Decidable.not_not] at hrole
      split
      · exact hanswer _
      · split
        · exact hanswer _
        · split
          · exact hanswer _
          · split
            next hlater =>
              split
              · exact hdefer x hx hrole hlater
              · exact hnet _
            · exact hanswer _

theorem State.judgeGather_cmds (s : State) (g : GatherMsg) : (s.judgeGather g).cmds = s.cmds :=
  State.judgeGather_holds (P := fun t => t.cmds = s.cmds) rfl (fun _ => rfl) (fun dom m => s.sendTo_cmds dom m) fun _ _ _ _ => rfl

theorem State.mem_out_judgeGather {s : State} {o : Out} (h : o ∈ s.out) (g : GatherMsg) : o ∈ (s.judgeGather g).out :=
  State.judgeGather_holds (P := fun t => o ∈ t.out) h (fun _ => h) (fun dom m => State.mem_out_sendTo h dom m) fun _ _ _ _ => h

theorem State.mem_out_judgeGathers {s : State} {o : Out} (h : o ∈ s.out) (l : List GatherMsg) :
    o ∈ (l.foldl State.judgeGather s).out := by
  induction l generalizing s with
  | nil => exact h
  | cons g l ih => exact ih (State.mem_out_judgeGather h g)

/-- Gathers that are judged change of a record the gathers deferred, to which they alone are added. -/
theorem State.shard?_judgeGathers {s : State} {job shard : Nat} {x : Shard} (hx : s.shard? job shard = some x) (l : List GatherMsg) :
    ∃ d, (l.foldl State.judgeGather s).shard? job shard = some { x with deferred := d } ∧ ∀ g ∈ d, g ∈ x.deferred ∨ g ∈ l := by
  induction l generalizing s x with
  | nil => exact ⟨x.deferred, hx, fun g hg => .inl hg⟩
  | cons g l ih =>
    obtain ⟨d, hd, hfrom⟩ : ∃ d, (s.judgeGather g).shard? job shard = some { x with deferred := d } ∧
        ∀ g' ∈ d, g' ∈ x.deferred ∨ g' = g := by
      refine State.judgeGather_holds (P := fun t => ∃ d, t.shard? job shard = some { x with deferred := d } ∧
          ∀ g' ∈ d, g' ∈ x.deferred ∨ g' = g)
        ⟨x.deferred, hx, fun _ h => .inl h⟩ (fun _ => ⟨x.deferred, hx, fun _ h => .inl h⟩)
        (fun dom m => ⟨x.deferred, (State.shard?_of_granary (s.sendTo_granary dom m) _ _).trans hx, fun _ h => .inl h⟩) fun y hy _ _ => ?_
      rw [State.shard?_deferring, hx, Option.map_some]
      split
      · exact ⟨_, rfl, fun g' hg' => by simpa using hg'⟩
      · exact ⟨x.deferred, rfl, fun _ h => .inl h⟩
    obtain ⟨d', hd', hfrom'⟩ := ih hd
    refine ⟨d', hd', fun g' hg' => ?_⟩
    have := hfrom' g' hg'
    grind

/-- Gathers of steps that a record has reached are not deferred there. -/
theorem State.shard?_judgeGathers_reached {s : State} {job shard : Nat} {x : Shard} (hx : s.shard? job shard = some x) {l : List GatherMsg}
    (hl : ∀ g ∈ l, g.step ≤ x.rec'.c + 1) : (l.foldl State.judgeGather s).shard? job shard = some x := by
  induction l generalizing s with
  | nil => exact hx
  | cons g l ih =>
    obtain ⟨hg, hl⟩ := List.forall_mem_cons.mp hl
    refine ih (State.judgeGather_holds (P := fun t => t.shard? job shard = some x) hx (fun _ => hx)
      (fun dom m => (State.shard?_of_granary (s.sendTo_granary dom m) _ _).trans hx) fun y hy _ hlater => ?_) hl
    rw [State.shard?_deferring, hx, Option.map_some, if_neg]
    rintro ⟨rfl, rfl⟩
    obtain rfl : x = y := Option.some.inj (hx.symm.trans hy)
    omega

end Sys2Proof.Machine

/-! ### Gradient blocks that arrive (16 R385, R392) -/

namespace Sys2Proof.Machine

/-- What is taken first is of the same shard, its number no higher. -/
theorem lowestBlock_key (b : GBlock) (l : List Instr) : (lowestBlock b l).1.job = b.job ∧ (lowestBlock b l).1.shard = b.shard ∧
    (lowestBlock b l).1.block ≤ b.block := by
  induction b, l using lowestBlock.induct with
  | case1 b => exact ⟨rfl, rfl, Nat.le_refl _⟩
  | case2 b c t h ih =>
    rw [lowestBlock, if_pos h]
    exact ⟨ih.1.trans h.1, ih.2.1.trans h.2.1, ih.2.2.trans (Nat.le_of_lt h.2.2)⟩
  | case3 b c t h ih =>
    rw [lowestBlock, if_neg h]
    exact ih
  | case4 b i t h ih =>
    rw [lowestBlock]
    · exact ih
    · exact h

/-- No block of the shard that is left has a lower number than the one taken. -/
theorem lowestBlock_least (b : GBlock) (l : List Instr) : ∀ c, .gradientBlockArrive c ∈ (lowestBlock b l).2 → c.job = b.job →
    c.shard = b.shard → (lowestBlock b l).1.block ≤ c.block := by
  induction b, l using lowestBlock.induct with
  | case1 b => intro c hc; cases hc
  | case2 b c t h ih =>
    rw [lowestBlock, if_pos h]
    intro d hd hjob hshard
    obtain hd | hd := List.mem_cons.mp hd
    · obtain rfl : d = b := Instr.gradientBlockArrive.inj hd
      exact (lowestBlock_key c t).2.2.trans (Nat.le_of_lt h.2.2)
    · exact ih d hd (hjob.trans h.1.symm) (hshard.trans h.2.1.symm)
  | case3 b c t h ih =>
    rw [lowestBlock, if_neg h]
    intro d hd hjob hshard
    obtain hd | hd := List.mem_cons.mp hd
    · obtain rfl : d = c := Instr.gradientBlockArrive.inj hd
      exact (lowestBlock_key b t).2.2.trans (Nat.le_of_not_lt fun hlt => h ⟨hjob, hshard, hlt⟩)
    · exact ih d hd hjob hshard
  | case4 b i t h ih =>
    rw [lowestBlock]
    · intro d hd
      obtain hd | hd := List.mem_cons.mp hd
      · exact absurd hd.symm (h d)
      · exact ih d hd
    · exact h

/-- A block that has the lowest number of its shard is taken first, and the others stay. -/
theorem lowestBlock_of_least {b : GBlock} {l : List Instr} (h : ∀ c, .gradientBlockArrive c ∈ l → c.job = b.job →
    c.shard = b.shard → b.block ≤ c.block) : lowestBlock b l = (b, l) := by
  induction l with
  | nil => rfl
  | cons i t ih =>
    have ht := ih fun c hc => h c (List.mem_cons_of_mem _ hc)
    unfold lowestBlock
    split
    · rename_i heq
      cases heq
    next c t' heq =>
      obtain ⟨rfl, rfl⟩ := List.cons.inj heq
      rw [if_neg, ht]
      rintro ⟨hjob, hshard, hlt⟩
      exact absurd hlt (Nat.not_lt.mpr (h c List.mem_cons_self hjob hshard))
    next heq =>
      obtain ⟨rfl, rfl⟩ := List.cons.inj heq
      rw [ht]

theorem lowestBlock_again (b : GBlock) (l : List Instr) : lowestBlock (lowestBlock b l).1 (lowestBlock b l).2 = lowestBlock b l :=
  lowestBlock_of_least fun c hc hjob hshard =>
    lowestBlock_least b l c hc (hjob.trans (lowestBlock_key b l).1) (hshard.trans (lowestBlock_key b l).2.1)

/-- Of the blocks of a shard that arrive in one cycle the one of the lowest number comes first (16 R392). -/
theorem exec_gradientBlockArrive_lowest (s : State) (b : GBlock) : exec (.gradientBlockArrive b) s =
    exec (.gradientBlockArrive (lowestBlock b s.inputs).1) { s with inputs := (lowestBlock b s.inputs).2 } := by
  simp only [exec_gradientBlockArrive, execGradientBlockArrive, lowestBlock_again]

/-- A block of 16,384 elements that fits its shard, whose CRC holds and for which a rule program is loaded (16 R392). -/
def State.Formed (s : State) (x : Shard) (b : GBlock) : Prop :=
  gblockCrc b = b.crc ∧ b.payload.length = 16384 ∧ b.block < (x.rec'.elems + 16383) / 16384 ∧
    b.ecnt = min 16384 (x.rec'.elems - 16384 * b.block) ∧ b.fmt = 1 ∧ (s.ruleProgram x.rec'.job x.rec'.rule).isSome = true

theorem State.malformed_iff (s : State) (x : Shard) (b : GBlock) : (gblockCrc b ≠ b.crc ∨ b.payload.length ≠ 16384 ∨
    ShardRec.blocks x.rec' ≤ b.block ∨ b.ecnt ≠ liveCount x.rec'.elems b.block ∨ b.fmt ≠ 1 ∨
      (s.ruleProgram x.rec'.job x.rec'.rule).isNone = true) ↔ ¬ s.Formed x b := by
  simp only [State.Formed, not_and_or, Nat.not_lt, Bool.not_eq_true, Option.isSome_eq_false_iff]
  rfl

theorem State.judge_malformed {s : State} {x : Shard} {b : GBlock} (h : ¬ s.Formed x b) : s.judge x b = .malformed :=
  if_pos ((s.malformed_iff x b).mpr h)

theorem State.judge_formed {s : State} {x : Shard} {b : GBlock} (h : s.Formed x b) : s.judge x b =
    if b.step ≤ x.rec'.c then .stale else if x.rec'.c + 2 ≤ b.step then .early else if x.received.contains b.block then .duplicate
    else .applied :=
  if_neg fun hbad => (s.malformed_iff x b).mp hbad h

theorem State.judge_next {s : State} {x : Shard} {b : GBlock} (h : s.Formed x b) (hstep : b.step = x.rec'.c + 1) :
    s.judge x b = if x.received.contains b.block then .duplicate else .applied := by
  rw [State.judge_formed h, if_neg (by omega), if_neg (by omega)]

/-- The record once a block of the step in course has been taken. -/
def Shard.taking (b : GBlock) (x : Shard) : Shard :=
  { x with
    received := x.received ++ [b.block]
    applying := x.applying ++ [b]
    timer := if x.timer.isNone then some 0 else x.timer
    kept := match x.seeding with
      | some (_, _, true) => x.kept ++ [b]
      | _ => x.kept }

theorem Shard.taking_eq (b : GBlock) (x : Shard) : x.taking b =
    { x with received := x.received ++ [b.block], applying := x.applying ++ [b], timer := some (x.timer.getD 0),
             kept := if x.seeding.any fun d => d.2.2 then x.kept ++ [b] else x.kept } := by
  have htimer : (if x.timer.isNone then some 0 else x.timer) = some (x.timer.getD 0) := by cases x.timer <;> rfl
  rw [Shard.taking, htimer]
  rcases x.seeding with _ | ⟨dom, pkg, _ | _⟩ <;> rfl

/-- A block that is taken while a target is seeded goes to that target as well (16 R401). -/
def State.passToTarget (s : State) (b : GBlock) (x : Shard) : State := match x.seeding with
  | some (dom, pkg, true) => s.sendBlock { b with sdom := s.ownDom, spkg := s.ownPkg } [(dom, pkg)]
  | _ => s

theorem State.passToTarget_keeps (s : State) (b : GBlock) (x : Shard) :
    (s.passToTarget b x).records = s.records ∧ (s.passToTarget b x).memories = s.memories := by
  unfold State.passToTarget
  split
  next dom pkg _ =>
    have hsent := s.ledger_sendBlock { b with sdom := s.ownDom, spkg := s.ownPkg } [(dom, pkg)]
    exact ⟨State.records_of_granary (congrArg (·.1.1) hsent), congrArg (·.1.2) hsent⟩
  · exact ⟨rfl, rfl⟩

/-- What a home or mirror does with a block that it has judged (16 R392). -/
def State.judged (s : State) (b : GBlock) (x : Shard) : Verdict → State
  | .malformed => s.modShard b.job b.shard fun x => { x with malf := x.malf + 1 }
  | .stale => (s.modShard b.job b.shard fun x => { x with stale := x.stale + 1 }).sendBlockAck b
  | .early => ((s.modShard b.job b.shard fun x => { x with early := x.early + 1 }).granNotice b.job b.shard 2
      (b.block + 2 ^ 32 * (b.step % 2 ^ 32))).sendBlockAck b
  | .duplicate => (s.modShard b.job b.shard fun x => { x with dup := x.dup + 1 }).sendBlockAck b
  | .applied => ((s.modShard b.job b.shard (Shard.taking b)).passToTarget b x).sendBlockAck b

section
variable {s : State} {b : GBlock} (hlow : lowestBlock b s.inputs = (b, s.inputs))
include hlow

theorem exec_gradientBlockArrive_dropped (h : s.shard? b.job b.shard = none ∨
    ∃ x, s.shard? b.job b.shard = some x ∧ (x.rec'.role = 0 ∨ x.lost = true)) :
    exec (.gradientBlockArrive b) s = .next { s with dropped := s.dropped + 1 } := by
  obtain hnone | ⟨x, hx, hgone⟩ := h
  · simp only [exec_gradientBlockArrive, execGradientBlockArrive, hlow, hnone]
  · simp only [exec_gradientBlockArrive, execGradientBlockArrive, hlow, hx, if_pos hgone]

section
variable {x : Shard} (hx : s.shard? b.job b.shard = some x)
include hx

theorem exec_gradientBlockArrive_held (hrole : x.rec'.role = 3) (hlost : x.lost = false) :
    exec (.gradientBlockArrive b) s = .next (s.modShard b.job b.shard fun x => { x with held := x.held ++ [b] }) := by
  simp [exec_gradientBlockArrive, execGradientBlockArrive, hlow, hx, hrole, hlost]

variable (hrole : x.rec'.role = 1 ∨ x.rec'.role = 2) (hlost : x.lost = false)
include hrole hlost

/-- A home or mirror does with a block what its judgement says. -/
theorem exec_gradientBlockArrive_judged : exec (.gradientBlockArrive b) s = .next (s.judged b x (s.judge x b)) := by
  have hgone : ¬ (x.rec'.role = 0 ∨ x.lost = true) := by
    rw [hlost]
    simp only [Bool.false_eq_true, or_false]
    omega
  have htarget : ¬ x.rec'.role = 3 := by omega
  simp only [exec_gradientBlockArrive, execGradientBlockArrive, hlow, hx, if_neg hgone, if_neg htarget]
  cases s.judge x b <;> rfl

theorem exec_gradientBlockArrive_malformed (hbad : ¬ s.Formed x b) : exec (.gradientBlockArrive b) s =
    .next (s.modShard b.job b.shard fun x => { x with malf := x.malf + 1 }) := by
  rw [exec_gradientBlockArrive_judged hlow hx hrole hlost, State.judge_malformed hbad, State.judged]

variable (hformed : s.Formed x b)
include hformed

theorem exec_gradientBlockArrive_stale (hstep : b.step ≤ x.rec'.c) : ∃ t, exec (.gradientBlockArrive b) s = .next t ∧
    t.shard? b.job b.shard = some { x with stale := x.stale + 1 } ∧ s.SameMemory t := by
  obtain ⟨hrec, hmem⟩ := (s.modShard b.job b.shard fun x => { x with stale := x.stale + 1 }).sendBlockAck_keeps b
  rw [exec_gradientBlockArrive_judged hlow hx hrole hlost, State.judge_formed hformed, if_pos hstep]
  exact ⟨_, rfl, (State.shard?_of_records hrec _ _).trans (State.shard?_modShard_self hx _), State.sameMemory_of_memories hmem⟩

theorem exec_gradientBlockArrive_early (hstep : x.rec'.c + 2 ≤ b.step) : ∃ t, exec (.gradientBlockArrive b) s = .next t ∧
    t.shard? b.job b.shard = some { x with early := x.early + 1 } := by
  rw [exec_gradientBlockArrive_judged hlow hx hrole hlost, State.judge_formed hformed, if_neg (by omega), if_pos hstep]
  refine ⟨_, rfl, (State.shard?_of_records (State.sendBlockAck_keeps _ b).1 _ _).trans ?_⟩
  rw [State.shard?_of_granary (State.granNotice_granary _ _ _ _ _)]
  exact State.shard?_modShard_self hx _

variable (hstep : b.step = x.rec'.c + 1)
include hstep

theorem exec_gradientBlockArrive_duplicate (hold : b.block ∈ x.received) : ∃ t, exec (.gradientBlockArrive b) s = .next t ∧
    t.shard? b.job b.shard = some { x with dup := x.dup + 1 } ∧ s.SameMemory t := by
  obtain ⟨hrec, hmem⟩ := (s.modShard b.job b.shard fun x => { x with dup := x.dup + 1 }).sendBlockAck_keeps b
  rw [exec_gradientBlockArrive_judged hlow hx hrole hlost, State.judge_next hformed hstep, if_pos (by simpa using hold)]
  exact ⟨_, rfl, (State.shard?_of_records hrec _ _).trans (State.shard?_modShard_self hx _), State.sameMemory_of_memories hmem⟩

/-- A block that is taken is received and waits to be applied; what goes out to a seed target and to the root holder leaves the record
and memory. -/
theorem exec_gradientBlockArrive_applied (hnew : b.block ∉ x.received) : ∃ t, exec (.gradientBlockArrive b) s = .next t ∧
    t.shard? b.job b.shard = some (x.taking b) ∧ s.SameMemory t := by
  obtain ⟨hpassrec, hpassmem⟩ := (s.modShard b.job b.shard (Shard.taking b)).passToTarget_keeps b x
  obtain ⟨hrec, hmem⟩ := ((s.modShard b.job b.shard (Shard.taking b)).passToTarget b x).sendBlockAck_keeps b
  rw [exec_gradientBlockArrive_judged hlow hx hrole hlost, State.judge_next hformed hstep, if_neg (by simpa using hnew)]
  exact ⟨_, rfl, (State.shard?_of_records (hrec.trans hpassrec) _ _).trans (State.shard?_modShard_self hx _),
    State.sameMemory_of_memories (hmem.trans hpassmem)⟩
end
end

end Sys2Proof.Machine

/-! ### A block applied to the master state (16 R382, R389 to R391) -/

namespace Sys2Proof.Machine

/-! #### Bytes of physical memory after a write -/

theorem physRead_physPut_of_outside {m : Memory} (h : m.wf = true) {a x : Nat} {bs : List Byte} (hx : ¬ (a ≤ x ∧ x < a + bs.length)) :
    physRead (physPut m a bs) x = physRead m x := by
  rw [physRead, memRead_physPut_of_outside h a x bs hx, physRead]

theorem physRead_physPut {m : Memory} (h : m.wf = true) {a : Nat} {bs : List Byte} (he : ∀ i, i < bs.length → physExists (a + i) = true)
    {i : Nat} (hi : i < bs.length) : physRead (physPut m a bs) (a + i) = bs[i] := by
  rw [physRead, if_pos (he i hi), memRead_physPut h a (a + i) bs he, if_pos ⟨by omega, by omega⟩, Nat.add_sub_cancel_left,
    List.getElem?_eq_getElem hi, Option.getD_some]

theorem physBytes_congr {m m' : Memory} {a n : Nat} (h : ∀ i, i < n → physRead m' (a + i) = physRead m (a + i)) :
    physBytes m' a n = physBytes m a n := by
  induction n generalizing a with
  | zero => rfl
  | succ n ih =>
    rw [physBytes, physBytes, show physRead m' a = physRead m a from h 0 (Nat.succ_pos n), ih fun i hi => ?_]
    rw [Nat.add_assoc, Nat.add_comm 1 i]
    exact h (i + 1) (by omega)

theorem physBytes_of_getElem {m : Memory} {a n : Nat} {bs : List Byte} (hn : bs.length = n)
    (h : ∀ i (hi : i < bs.length), physRead m (a + i) = bs[i]) : physBytes m a n = bs := by
  subst hn
  induction bs generalizing a with
  | nil => rfl
  | cons b bs ih =>
    rw [List.length_cons, physBytes, show physRead m a = b from h 0 (Nat.succ_pos _), ih fun i hi => ?_]
    rw [Nat.add_assoc, Nat.add_comm 1 i]
    exact h (i + 1) (Nat.succ_lt_succ hi)

/-- An element of a list of pieces of one length. -/
theorem getElem_flatMap_piece {α β : Type} {f : α → List β} {n : Nat} (hf : ∀ x, (f x).length = n) {l : List α} {e i : Nat}
    (he : e < l.length) (hi : i < n) : (l.flatMap f)[n * e + i]? = (f l[e])[i]? := by
  induction l generalizing e with
  | nil => cases he
  | cons x l ih =>
    rw [List.flatMap_cons]
    cases e with
    | zero => rw [Nat.mul_zero, Nat.zero_add, List.getElem?_append_left (by rw [hf]; exact hi)]; rfl
    | succ e =>
      have hle : (f x).length ≤ n * (e + 1) + i := by rw [hf, Nat.mul_succ]; omega
      rw [List.getElem?_append_right hle, hf, Nat.mul_succ, Nat.add_right_comm, Nat.add_sub_cancel]
      exact ih (Nat.lt_of_succ_lt_succ he)

theorem length_flatMap_pieces {α β : Type} {f : α → List β} {n : Nat} (hf : ∀ x, (f x).length = n) (l : List α) :
    (l.flatMap f).length = n * l.length := by
  simp [List.length_flatMap, hf, Nat.mul_comm]

/-! #### What GRANARY_BLOCK_APPLY writes -/

/-- What the rule program makes of the live elements of a block (16 R386, R389). -/
def State.ruleOuts (s : State) (x : Shard) (prog : List (BitVec 32)) (b : GBlock) : List (List Nat × Nat) :=
  let base := stateAddr x.rec' b.block
  let plane := fun (k e : Nat) => leNat (physBytes s.mem (base + 65536 * k + 4 * e) 4)
  (List.range (liveCount x.rec'.elems b.block)).map fun e =>
    prog.foldl ruleStep (ruleStart x.rec' (b.payload[e]?.getD 0).toNat (plane 0 e) (plane 1 e) (plane 2 e), 0)

/-- The bytes of a plane of the master state: a rule register of every element. -/
def rulePlane (outs : List (List Nat × Nat)) (i : Nat) : List Byte := outs.flatMap fun o => leBytes 4 (o.1[i]?.getD 0)

theorem length_rulePlane (outs : List (List Nat × Nat)) (i : Nat) : (rulePlane outs i).length = 4 * outs.length :=
  length_flatMap_pieces (fun _ => length_leBytes 4 _) outs

theorem length_ruleOuts_le (s : State) (x : Shard) (prog : List (BitVec 32)) (b : GBlock) : (s.ruleOuts x prog b).length ≤ 16384 := by
  rw [State.ruleOuts, List.length_map, List.length_range]
  exact Nat.min_le_left _ _

/-- The emission of a block fits its copy (16 R390, R391). -/
theorem length_emission_le (efmt : Nat) {xs : List Nat} (h : xs.length ≤ 16384) : (emission efmt xs).length ≤ 32768 := by
  unfold emission
  dsimp only
  split
  · simp only [List.length_append, List.length_map, List.length_replicate, length_leBytes]
    omega
  · rw [List.length_append, length_flatMap_pieces (fun _ => length_leBytes 2 _), List.length_replicate]
    omega

/-- The three planes of the master state after a block. -/
def planesPut (m : Memory) (base : Nat) (outs : List (List Nat × Nat)) : Memory :=
  physPut (physPut (physPut m (base + 65536 * 0) (rulePlane outs 1)) (base + 65536 * 1) (rulePlane outs 2)) (base + 65536 * 2)
    (rulePlane outs 3)

theorem State.applyBlock_eq (s : State) (x : Shard) (prog : List (BitVec 32)) (b : GBlock) : s.applyBlock x prog b =
    { s with
      mem := physPut (planesPut s.mem (stateAddr x.rec' b.block) (s.ruleOuts x prog b)) (copyAddr x.rec' b.block (1 - x.served))
        (emission x.rec'.efmt ((s.ruleOuts x prog b).map fun o => o.2)) } := rfl

section
variable {m : Memory} (h : m.wf = true) {base : Nat} {outs : List (List Nat × Nat)} (hlen : outs.length ≤ 16384)
include h

theorem wf_planesPut : (planesPut m base outs).wf = true := wf_physPut (wf_physPut (wf_physPut h _ _) _ _) _ _

include hlen

/-- The planes lie in the master state of the block. -/
theorem physRead_planesPut_of_outside {a : Nat} (ha : ¬ (base ≤ a ∧ a < base + 196608)) :
    physRead (planesPut m base outs) a = physRead m a := by
  have h1 := wf_physPut h (base + 65536 * 0) (rulePlane outs 1)
  rw [planesPut, physRead_physPut_of_outside (wf_physPut h1 _ _), physRead_physPut_of_outside h1, physRead_physPut_of_outside h] <;>
    (rw [length_rulePlane]; omega)

/-- The first plane of the master state after a block holds the weights that the rule program has given. -/
theorem weight_planesPut (hex : ∀ a, base ≤ a → a < base + 196608 → physExists a = true) {e : Nat} (he : e < outs.length) :
    physBytes (planesPut m base outs) (base + 4 * e) 4 = leBytes 4 (outs[e].1[1]?.getD 0) := by
  have h1 := wf_physPut h (base + 65536 * 0) (rulePlane outs 1)
  have hplane := length_rulePlane outs 1
  refine physBytes_of_getElem (length_leBytes 4 _) fun i hi => ?_
  have hi4 : i < 4 := by rwa [length_leBytes] at hi
  rw [planesPut, physRead_physPut_of_outside (wf_physPut h1 _ _) (by rw [length_rulePlane]; omega),
    physRead_physPut_of_outside h1 (by rw [length_rulePlane]; omega), show base + 4 * e + i = base + 65536 * 0 + (4 * e + i) by omega,
    physRead_physPut h (fun j hj => hex _ (by omega) (by omega)) (show 4 * e + i < (rulePlane outs 1).length by omega)]
  refine Option.some.inj ((List.getElem?_eq_getElem _).symm.trans (Eq.trans ?_ (List.getElem?_eq_getElem hi)))
  exact getElem_flatMap_piece (fun _ => length_leBytes 4 _) he hi4
end

section
variable {s : State} (h : Memory.wf s.mem = true) (x : Shard) (prog : List (BitVec 32)) (b : GBlock)
include h

/-- A block that is applied writes its master state and its staging copy only. -/
theorem State.physRead_applyBlock_of_outside {a : Nat}
    (hstate : ¬ (stateAddr x.rec' b.block ≤ a ∧ a < stateAddr x.rec' b.block + 196608))
    (hcopy : ¬ (copyAddr x.rec' b.block (1 - x.served) ≤ a ∧ a < copyAddr x.rec' b.block (1 - x.served) + 32768)) :
    physRead (s.applyBlock x prog b).mem a = physRead s.mem a := by
  have hlen := length_ruleOuts_le s x prog b
  have hemit := length_emission_le x.rec'.efmt (xs := (s.ruleOuts x prog b).map fun o => o.2) (by rwa [List.length_map])
  rw [State.applyBlock_eq, physRead_physPut_of_outside (wf_planesPut h) (by omega), physRead_planesPut_of_outside h hlen hstate]

theorem State.weight_applyBlock
    (hex : ∀ a, stateAddr x.rec' b.block ≤ a → a < stateAddr x.rec' b.block + 196608 → physExists a = true)
    (hapart : stateAddr x.rec' b.block + 196608 ≤ copyAddr x.rec' b.block (1 - x.served) ∨
      copyAddr x.rec' b.block (1 - x.served) + 32768 ≤ stateAddr x.rec' b.block) {e : Nat} (he : e < (s.ruleOuts x prog b).length) :
    leNat (physBytes (s.applyBlock x prog b).mem (stateAddr x.rec' b.block + 4 * e) 4) =
      ((s.ruleOuts x prog b)[e].1[1]?.getD 0) % 2 ^ 32 := by
  have hlen := length_ruleOuts_le s x prog b
  have hemit := length_emission_le x.rec'.efmt (xs := (s.ruleOuts x prog b).map fun o => o.2) (by rwa [List.length_map])
  rw [State.applyBlock_eq, physBytes_congr (m := planesPut s.mem (stateAddr x.rec' b.block) (s.ruleOuts x prog b)) fun i hi =>
      physRead_physPut_of_outside (wf_planesPut h) (by omega),
    weight_planesPut h hlen hex he, leNat_leBytes, show (256 : Nat) ^ 4 = 2 ^ 32 from rfl]
end

/-- GRANARY_BLOCK_APPLY of a block that waits. -/
theorem exec_granaryBlockApply_waiting {s : State} {job shard block : Nat} {x : Shard} {b : GBlock} (hx : s.shard? job shard = some x)
    (hb : x.applying.find? (fun y => y.block == block) = some b) : exec (.granaryBlockApply job shard block) s =
      .next ((s.applyBlock x ((s.ruleProgram job x.rec'.rule).getD []) b).modShard job shard fun x =>
        { x with applying := x.applying.filter fun y => y.block != block }) := by
  simp only [exec_granaryBlockApply, execGranaryBlockApply, hx, hb]

theorem exec_granaryBlockApply_none {s : State} {job shard block : Nat}
    (h : ∀ x, s.shard? job shard = some x → ∀ y ∈ x.applying, y.block ≠ block) :
    exec (.granaryBlockApply job shard block) s = .next s := by
  rw [exec_granaryBlockApply, execGranaryBlockApply]
  cases hx : s.shard? job shard with
  | none => rfl
  | some x =>
    have hnone : x.applying.find? (fun y => y.block == block) = none := by
      rw [List.find?_eq_none]
      intro y hy
      simpa using h x hx y hy
    simp only [hnone]

end Sys2Proof.Machine

/-! ### The close of a step, its timeout, the acknowledgement of a block (16 R385, R393, R394, R399) -/

namespace Sys2Proof.Machine

/-! #### The close -/

/-- Whether nothing of a step is left to do at this keeper: it may not close, or a block is missing or not applied (16 R393). -/
def Shard.Open (x : Shard) : Prop :=
  x.rec'.role ∉ [1, 2] ∨ x.lost ∨ !x.applying.isEmpty ∨ x.received.length < ShardRec.blocks x.rec'

/-- The step of a record has closed: its SNAP buffers are written, and the SNAPs complete (16 R393, R399). -/
def State.closeRecord (s : State) (job shard : Nat) (x : Shard) : State :=
  (x.snaps.foldl (fun s a => s.writeSnap x.close a) (s.modShard job shard fun _ => x.close)).endGran
    (fun c => c.code == 7 && c.job == job && c.shard == shard) 0

/-- A seed target that waits for this close gets its snapshot (16 R401). -/
def State.seedAtClose (s : State) (job shard : Nat) (x : Shard) : State := match x.seeding with
  | some (dom, pkg, false) => { s with out := s.out ++ [s.snapshotOf x.close dom pkg] }.modShard job shard fun x =>
      { x with seeding := some (dom, pkg, true) }
  | _ => s

/-- The record after a close and its snapshot, the gathers of the steps that are reached taken out. -/
def Shard.closed (x : Shard) : Shard :=
  { x.close with
    deferred := x.deferred.filter fun g => x.close.rec'.c + 1 < g.step
    seeding := match x.seeding with
      | some (dom, pkg, false) => some (dom, pkg, true)
      | _ => x.seeding }

/-- The state of a close before its gathers are judged. -/
def State.closing (s : State) (job shard : Nat) (x : Shard) : State :=
  ((s.closeRecord job shard x).seedAtClose job shard x).modShard job shard fun y =>
    { y with deferred := y.deferred.filter fun g => x.close.rec'.c + 1 < g.step }

theorem Shard.open_iff (x : Shard) : x.Open ↔ (x.rec'.role ≠ 1 ∧ x.rec'.role ≠ 2) ∨ x.lost = true ∨ x.applying ≠ [] ∨
    x.received.length < ShardRec.blocks x.rec' := by
  simp [Shard.Open]

section
variable {s : State} {job shard : Nat} {x : Shard} (hx : s.shard? job shard = some x)
include hx

theorem State.closeShard_open (h : x.Open) : s.closeShard job shard = s := by
  rw [State.closeShard, hx]
  exact if_pos h

/-- A step that is due closes, and the gathers that waited for it are judged. -/
theorem State.closeShard_due (h : ¬ x.Open) : s.closeShard job shard =
    (x.deferred.filter fun g => g.step ≤ x.close.rec'.c + 1).foldl State.judgeGather (s.closing job shard x) := by
  rw [State.closeShard, hx]
  exact if_neg h

theorem State.shard?_closeRecord : (s.closeRecord job shard x).shard? job shard = some x.close := by
  have hsnaps : (x.snaps.foldl (fun s a => s.writeSnap x.close a) (s.modShard job shard fun _ => x.close)).records =
      (s.modShard job shard fun _ => x.close).records :=
    foldl_keeps State.records (f := fun s a => s.writeSnap x.close a) (fun _ _ => rfl) _ _
  obtain ⟨hjob, hshard⟩ := State.key_of_shard? hx
  rw [State.closeRecord, State.shard?_endGran, State.shard?_of_records hsnaps]
  exact State.shard?_modShard_self hx (fun _ => x.close) fun _ _ _ => ⟨hjob, hshard⟩

theorem State.shard?_closing : (s.closing job shard x).shard? job shard = some x.closed := by
  have hclose := State.shard?_closeRecord hx
  unfold State.closing State.seedAtClose Shard.closed
  split
  · exact State.shard?_modShard_self (State.shard?_modShard_self (s := { s.closeRecord job shard x with out := _ }) hclose _) _
  · exact State.shard?_modShard_self hclose _

theorem State.shard?_closeShard_due (h : ¬ x.Open) : (s.closeShard job shard).shard? job shard = some x.closed := by
  rw [State.closeShard_due hx h]
  refine State.shard?_judgeGathers_reached (State.shard?_closing hx) fun g hg => ?_
  have hstep : g.step ≤ x.close.rec'.c + 1 := by simpa using (List.mem_filter.mp hg).2
  exact hstep

/-- The snapshot for a seed target is sent at the close. -/
theorem State.snapshot_closeShard (h : ¬ x.Open) {d p : Nat} (hseed : x.seeding = some (d, p, false)) :
    ∃ state served, Out.snapshot d p x.close.rec' state served ∈ (s.closeShard job shard).out := by
  have hsent : ∃ state served, Out.snapshot d p x.close.rec' state served ∈ (s.closing job shard x).out := by
    unfold State.closing State.seedAtClose
    rw [hseed]
    exact ⟨_, _, List.mem_append_right _ (List.mem_singleton.mpr rfl)⟩
  obtain ⟨state, served, hmem⟩ := hsent
  rw [State.closeShard_due hx h]
  exact ⟨state, served, State.mem_out_judgeGathers hmem _⟩
end

/-- No command of an engine is touched by a close. -/
theorem State.closeShard_cmds (s : State) (job shard : Nat) : (s.closeShard job shard).cmds = s.cmds := by
  cases hx : s.shard? job shard with
  | none => rw [State.closeShard, hx]
  | some x =>
    by_cases h : x.Open
    · rw [State.closeShard_open hx h]
    · have hrecord : (s.closeRecord job shard x).cmds = s.cmds :=
        (State.cmds_of_enduring (State.enduring_endGran _ _ _)).trans
          (foldl_keeps State.cmds (f := fun s a => s.writeSnap x.close a) (fun _ _ => rfl) _ _)
      have hclosing : (s.closing job shard x).cmds = s.cmds := by
        unfold State.closing State.seedAtClose
        split <;> exact hrecord
      rw [State.closeShard_due hx h, foldl_keeps State.cmds (fun s g => s.judgeGather_cmds g), hclosing]

/-! #### The timeout -/

/-- A notice that finds no room is held. -/
theorem State.notify_held {s : State} (h : s.noticeRoom = false) (n : BitVec 1024) : s.notify n = { s with notices := s.notices ++ [n] } := by
  rw [State.notify, if_neg (by simp [h])]

/-- The bitmap of the missing blocks is written, and the timeout counts for the step (16 R394). -/
def State.timeOut (s : State) (job shard : Nat) (x : Shard) : State :=
  { s with mem := physPut s.mem x.rec'.bmap (leBytes ((ShardRec.blocks x.rec' + 7) / 8) (x.missing.foldl (fun v b => v + 2 ^ b) 0)) }.modShard
    job shard fun x => { x with timedOut := true }

/-- Whether the close timer of a record has nothing to tell (16 R394). -/
def Shard.InTime (x : Shard) (n : Nat) : Prop := x.rec'.role ∉ [1, 2] ∨ x.rec'.tclose = 0 ∨ n < x.rec'.tclose * 1024 ∨ x.timedOut

theorem Shard.inTime_iff (x : Shard) (n : Nat) : x.InTime n ↔ (x.rec'.role ≠ 1 ∧ x.rec'.role ≠ 2) ∨ x.rec'.tclose = 0 ∨
    n < x.rec'.tclose * 1024 ∨ x.timedOut = true := by
  simp [Shard.InTime]

section
variable {s : State} {job shard : Nat} {x : Shard} (hx : s.shard? job shard = some x)
include hx

theorem exec_stepCloseTimeout_stopped (h : x.timer = none) : exec (.stepCloseTimeout job shard) s = .next s := by
  simp only [exec_stepCloseTimeout, execStepCloseTimeout, hx, h]

theorem exec_stepCloseTimeout_inTime {n : Nat} (hn : x.timer = some n) (h : x.InTime n) :
    exec (.stepCloseTimeout job shard) s = .next s := by
  rw [exec_stepCloseTimeout, execStepCloseTimeout, hx]
  dsimp only
  rw [hn]
  exact congrArg _ (if_pos h)

theorem exec_stepCloseTimeout_expired {n : Nat} (hn : x.timer = some n) (h : ¬ x.InTime n) :
    ∃ t, exec (.stepCloseTimeout job shard) s = .next t ∧ t.shard? job shard = some { x with timedOut := true } ∧
      (s.noticeRoom = false → t.mem = physPut s.mem x.rec'.bmap (leBytes (((x.rec'.elems + 16383) / 16384 + 7) / 8)
        (x.missing.foldl (fun v b => v + 2 ^ b) 0))) := by
  have hexec : exec (.stepCloseTimeout job shard) s = .next ((s.timeOut job shard x).granNotice job shard 1 x.missing.length) := by
    rw [exec_stepCloseTimeout, execStepCloseTimeout, hx]
    dsimp only
    rw [hn]
    exact congrArg _ (if_neg h)
  refine ⟨_, hexec, ?_, fun hroom => ?_⟩
  · rw [State.shard?_of_granary (State.granNotice_granary _ _ _ _ _)]
    exact State.shard?_modShard_self (s := { s with mem := _ }) hx _
  · rw [State.granNotice, State.notify_held (s := s.timeOut job shard x) hroom]
    rfl
end

/-! #### The acknowledgement -/

/-- The acknowledgement of a block takes its granary from the blocks kept; a block that no granary is waited for is released. -/
theorem State.ackBlock_kept (s : State) (who : Nat × Nat) (job shard block step : Nat) :
    (∀ k ∈ (s.ackBlock who job shard block step).granary.kept, k.waiting ≠ [] ∧ (k.block.job = job → k.block.shard = shard →
      k.block.block = block → k.block.step = step → who ∉ k.waiting)) ∧
    ∀ k ∈ s.granary.kept, k.waiting ≠ [] →
      ¬ (k.block.job = job ∧ k.block.shard = shard ∧ k.block.block = block ∧ k.block.step = step) →
      k ∈ (s.ackBlock who job shard block step).granary.kept := by
  refine ⟨fun k hk => ?_, fun k hk hwaits hother => ?_⟩
  · obtain ⟨hmem, hwaits⟩ := List.mem_filter.mp hk
    refine ⟨by simpa using hwaits, fun hjob hshard hblock hstep => ?_⟩
    obtain ⟨k', -, rfl⟩ := List.mem_map.mp hmem
    split at hjob
    next h => simp [h]
    next h =>
      rw [if_neg h] at hshard hblock hstep
      exact absurd ⟨hjob, hshard, hblock, hstep⟩ h
  · exact List.mem_filter.mpr ⟨List.mem_map.mpr ⟨k, hk, if_neg hother⟩, by simpa using hwaits⟩

theorem exec_blockAcknowledgement_other {s : State} {q : DHdr} (h : q.dpkg ≠ s.ownPkg) (job shard block step : Nat) :
    exec (.blockAcknowledgement q job shard block step) s = .next (s.forward 32 (.blockAck q job shard block step)) := by
  rw [exec_blockAcknowledgement, execBlockAcknowledgement, State.mine_other h]

theorem exec_blockAcknowledgement_own {s : State} {q : DHdr} (h : q.dpkg = s.ownPkg) (job shard block step : Nat) :
    exec (.blockAcknowledgement q job shard block step) s = .next (s.ackBlock (q.svr, q.spkg) job shard block step) := by
  rw [exec_blockAcknowledgement, execBlockAcknowledgement, State.mine_own h]

/-- Settles O44: a block by the lowest number and then by the verdict; what an application writes by the planes and the copy; a close by
the record it leaves, which the gathers judged after it do not change. -/
theorem granaryBlocksAndSteps : Obligations.GranaryBlocksAndSteps := by
  intro s
  refine ⟨exec_gradientBlockArrive_lowest s, fun b hlow => ⟨exec_gradientBlockArrive_dropped hlow, fun x hx hrole hlost =>
      exec_gradientBlockArrive_held hlow hx hrole hlost⟩, fun b x hlow hx hrole hlost => ?_, fun job shard x b hx hb hwf => ?_,
    fun job shard block => exec_granaryBlockApply_none, fun job shard hnone => ?_, fun job shard x hx => ?_,
    fun q job shard block step hq => exec_blockAcknowledgement_other hq job shard block step, fun q job shard block step hq => ?_⟩
  · refine ⟨fun hbad => exec_gradientBlockArrive_malformed hlow hx hrole hlost hbad,
      fun hf => exec_gradientBlockArrive_stale hlow hx hrole hlost hf,
      fun hf => exec_gradientBlockArrive_early hlow hx hrole hlost hf,
      fun hf => exec_gradientBlockArrive_duplicate hlow hx hrole hlost hf, fun hf hstep hnew => ?_⟩
    rw [← Shard.taking_eq]
    exact exec_gradientBlockArrive_applied hlow hx hrole hlost hf hstep hnew
  · refine ⟨_, exec_granaryBlockApply_waiting hx hb, State.shard?_modShard_self (s := s.applyBlock x _ b) hx _,
      fun a => State.physRead_applyBlock_of_outside hwf x _ b, fun hex hapart e he => ?_⟩
    have hlive : e < (s.ruleOuts x ((s.ruleProgram job x.rec'.rule).getD []) b).length := by
      rwa [State.ruleOuts, List.length_map, List.length_range]
    refine (State.weight_applyBlock hwf x _ b hex hapart hlive).trans ?_
    simp only [State.ruleOuts, List.getElem_map, List.getElem_range]
    rfl
  · rw [exec_granaryStepClose, execGranaryStepClose, State.closeShard, exec_stepCloseTimeout, execStepCloseTimeout, hnone]
    exact ⟨rfl, rfl⟩
  · refine ⟨fun hrole hlost happ hall => ?_, fun hopen => ?_, fun n hrole hn hclose hlate hfirst => ?_, fun hquiet => ?_⟩
    · have hdue : ¬ x.Open := by
        rw [Shard.open_iff, hlost, ShardRec.blocks]
        rintro (h | h | h | h)
        · omega
        · cases h
        · exact h happ
        · omega
      refine ⟨_, x.closed, rfl, State.shard?_closeShard_due hx hdue, rfl, rfl, rfl, rfl, rfl, rfl, rfl, rfl, rfl, rfl, rfl, rfl, rfl, rfl,
        rfl, fun d p hseed => ⟨?_, State.snapshot_closeShard hx hdue hseed⟩⟩
      rw [Shard.closed, hseed]
    · refine congrArg _ (State.closeShard_open hx ?_)
      rw [Shard.open_iff]
      obtain h | h | h | h | h := hopen
      · exact .inl (by omega)
      · exact .inl (by omega)
      · exact .inr (.inr (.inl h))
      · exact .inr (.inr (.inr h))
      · exact .inr (.inl h)
    · refine exec_stepCloseTimeout_expired hx hn ?_
      rw [Shard.inTime_iff, hfirst]
      rintro (h | h | h | h)
      · omega
      · omega
      · omega
      · cases h
    · cases hn : x.timer with
      | none => exact exec_stepCloseTimeout_stopped hx hn
      | some n =>
        refine exec_stepCloseTimeout_inTime hx hn ?_
        rw [Shard.inTime_iff]
        obtain h | h | h | h | h | ⟨n', hn', h⟩ := hquiet
        · cases hn.symm.trans h
        · exact .inr (.inl h)
        · exact .inr (.inr (.inr h))
        · exact .inl (by omega)
        · exact .inl (by omega)
        · obtain rfl : n = n' := Option.some.inj (hn.symm.trans hn')
          exact .inr (.inr (.inl h))
  · obtain ⟨hleft, hstay⟩ := s.ackBlock_kept (q.svr, q.spkg) job shard block step
    exact ⟨_, exec_blockAcknowledgement_own hq job shard block step, rfl, State.sameMemory_of_memories rfl, hleft, hstay⟩

end Sys2Proof.Machine

/-! ### The commands of the supervisor to the granary (16 R385, R388, R399, R401) -/

namespace Sys2Proof.Machine

/-! #### Records installed and removed -/

theorem State.shard?_install {s : State} {x : Shard} (h : s.shard? x.rec'.job x.rec'.shard = none) :
    (s.modGranary fun g => { g with shards := g.shards ++ [x] }).shard? x.rec'.job x.rec'.shard = some x := by
  rw [State.shard?] at h
  simp [State.shard?, State.modGranary, List.find?_append, h]

theorem State.shard?_remove (s : State) (job shard : Nat) : (s.modGranary fun g =>
    { g with shards := g.shards.filter fun y => !(y.rec'.job == job && y.rec'.shard == shard) }).shard? job shard = none :=
  find?_filter_shard s.granary.shards job shard

/-! #### REG and DROP -/

/-- The record that stands in memory at an address (16 R381, R399). -/
def State.recordAt (s : State) (a : Nat) : BitVec 1024 := BitVec.ofNat 1024 (leNat (physBytes s.mem a 128))

section
variable {s : State} {a : BitVec 64} (job shard : Nat) (b : BitVec 64)

theorem exec_reg_illegal (h : recLegal (s.recordAt a.toNat) = false) :
    exec (.reg job shard a b) s = .next (s.postGran 1 job shard (some 2)).2 := by
  rw [exec_reg, execReg, ← State.recordAt]
  dsimp only
  rw [h]
  rfl

variable (hlegal : recLegal (s.recordAt a.toNat) = true) {r : Sys2Proof.ShardRec} (hr : recOfBits (s.recordAt a.toNat) = r)
include hlegal hr

theorem exec_reg_absent (hnone : s.shard? r.job r.shard = none) : exec (.reg job shard a b) s =
    .next (if 65536 ≤ s.granary.shards.length then (s.postGran 1 job shard (some 1)).2
      else ((s.modGranary fun g => { g with shards := g.shards ++ [Shard.fresh r] }).postGran 1 job shard (some 0)).2) := by
  subst hr
  rw [exec_reg, execReg, ← State.recordAt]
  dsimp only
  rw [hlegal, hnone]
  rfl

theorem exec_reg_full (hnone : s.shard? r.job r.shard = none) (hfull : 65536 ≤ s.granary.shards.length) :
    exec (.reg job shard a b) s = .next (s.postGran 1 job shard (some 1)).2 := by
  rw [exec_reg_absent job shard b hlegal hr hnone, if_pos hfull]

theorem exec_reg_installs (hnone : s.shard? r.job r.shard = none) (hroom : s.granary.shards.length < 65536) :
    ∃ t, exec (.reg job shard a b) s = .next t ∧ t.shard? r.job r.shard = some (Shard.fresh r) := by
  rw [exec_reg_absent job shard b hlegal hr hnone, if_neg (Nat.not_le.mpr hroom)]
  refine ⟨_, rfl, ?_⟩
  rw [State.shard?_postGran]
  exact State.shard?_install (x := Shard.fresh r) hnone

theorem exec_reg_present {x : Shard} (hx : s.shard? r.job r.shard = some x) : exec (.reg job shard a b) s =
    .next ((x.deferred.foldl State.judgeGather ((s.modShard r.job r.shard fun _ => { Shard.fresh r with snaps := x.snaps }).releaseKept
      r)).postGran 1 job shard (some 0)).2 := by
  subst hr
  rw [exec_reg, execReg, ← State.recordAt]
  dsimp only
  rw [hlegal, hx]
  rfl

/-- A record that is replaced is fresh but for the snapshots asked for, and for those of its gathers that it defers again. -/
theorem exec_reg_replaces {x : Shard} (hx : s.shard? r.job r.shard = some x) : ∃ t y, exec (.reg job shard a b) s = .next t ∧
    t.shard? r.job r.shard = some y ∧ y = { Shard.fresh r with snaps := x.snaps, deferred := y.deferred } ∧
      ∀ g ∈ y.deferred, g ∈ x.deferred := by
  have hfresh : ((s.modShard r.job r.shard fun _ => { Shard.fresh r with snaps := x.snaps }).releaseKept r).shard? r.job r.shard =
      some { Shard.fresh r with snaps := x.snaps } :=
    (State.shard?_of_records (State.records_releaseKept _ r) _ _).trans
      (State.shard?_modShard_self hx (fun _ => { Shard.fresh r with snaps := x.snaps }) fun _ _ _ => ⟨rfl, rfl⟩)
  obtain ⟨d, hd, hfrom⟩ := State.shard?_judgeGathers hfresh x.deferred
  rw [exec_reg_present job shard b hlegal hr hx]
  refine ⟨_, _, rfl, (State.shard?_postGran _ _ _ _ _ _ _).trans hd, rfl, fun g hg => ?_⟩
  exact (hfrom g hg).resolve_left List.not_mem_nil
end

/-! #### RULE -/

theorem State.ruleProgram_load (s : State) (job slot : Nat) (words : List (BitVec 32)) (j k : Nat) :
    (s.modGranary fun g => { g with rules := (g.rules.filter fun r => !(r.1 == job && r.2.1 == slot)) ++ [(job, slot, words)] }).ruleProgram
      j k = if j = job ∧ k = slot then some words else s.ruleProgram j k := by
  simp only [State.ruleProgram, State.modGranary, List.find?_append]
  split
  next h =>
    obtain ⟨rfl, rfl⟩ := h
    have hnone : (s.granary.rules.filter fun r => !(r.1 == j && r.2.1 == k)).find? (fun r => r.1 == j && r.2.1 == k) = none := by
      simp only [List.find?_eq_none, List.mem_filter]
      grind
    rw [hnone, Option.none_or]
    simp
  next h =>
    have hkept : (s.granary.rules.filter fun r => !(r.1 == job && r.2.1 == slot)).find? (fun r => r.1 == j && r.2.1 == k) =
        s.granary.rules.find? fun r => r.1 == j && r.2.1 == k := by
      rw [List.find?_filter]
      congr 1
      funext r
      grind
    have hnew : ([(job, slot, words)] : List (Nat × Nat × List (BitVec 32))).find? (fun r => r.1 == j && r.2.1 == k) = none := by
      simp only [List.find?_eq_none, List.mem_singleton]
      grind
    rw [hkept, hnew, Option.or_none]

/-- The words of a rule program in memory (16 R388). -/
def State.ruleWords (s : State) (a n : Nat) : List (BitVec 32) :=
  (List.range n).map fun i => BitVec.ofNat 32 (leNat (physBytes s.mem (a + 4 * i) 4))

section
variable (s : State) (job shard : Nat) (a b : BitVec 64)

theorem exec_rule_eq : exec (.rule job shard a b) s =
    .next (if b.toNat / 256 % 64 = 0 ∨ 32 < b.toNat / 256 % 64 ∨ !(s.ruleWords a.toNat (b.toNat / 256 % 64)).all ruleLegal then
        (s.postGran 3 job shard (some 2)).2
      else ((s.modGranary fun g => { g with rules := (g.rules.filter fun r => !(r.1 == job && r.2.1 == b.toNat % 16)) ++
        [(job, b.toNat % 16, s.ruleWords a.toNat (b.toNat / 256 % 64))] }).postGran 3 job shard (some 0)).2) := by
  rw [exec_rule, execRule, bitsAt_zero_eq, bitsAt_eq]
  rfl

variable {s job shard a b}

theorem exec_rule_loads (hpos : 0 < b.toNat / 256 % 64) (hle : b.toNat / 256 % 64 ≤ 32)
    (hlegal : ∀ w ∈ s.ruleWords a.toNat (b.toNat / 256 % 64), ruleLegal w = true) : ∃ t, exec (.rule job shard a b) s = .next t ∧
      t.ruleProgram job (b.toNat % 16) = some (s.ruleWords a.toNat (b.toNat / 256 % 64)) ∧
      ∀ j k, ¬ (j = job ∧ k = b.toNat % 16) → t.ruleProgram j k = s.ruleProgram j k := by
  have hfits : ¬ (b.toNat / 256 % 64 = 0 ∨ 32 < b.toNat / 256 % 64 ∨
      !(s.ruleWords a.toNat (b.toNat / 256 % 64)).all ruleLegal) := by
    rw [List.all_eq_true.mpr hlegal]
    simp only [Bool.not_true, Bool.false_eq_true, or_false]
    omega
  have hpost : ∀ (u : State) j k, (u.postGran 3 job shard (some 0)).2.ruleProgram j k = u.ruleProgram j k := fun u =>
    State.ruleProgram_of_records (State.records_of_enduring (u.enduring_postGran _ _ _ _))
  rw [exec_rule_eq, if_neg hfits]
  refine ⟨_, rfl, ?_, fun j k hother => ?_⟩
  · rw [hpost, State.ruleProgram_load, if_pos ⟨rfl, rfl⟩]
  · rw [hpost, State.ruleProgram_load, if_neg hother]

theorem exec_rule_refused (h : b.toNat / 256 % 64 = 0 ∨ 32 < b.toNat / 256 % 64 ∨
    ∃ w ∈ s.ruleWords a.toNat (b.toNat / 256 % 64), ruleLegal w = false) :
    exec (.rule job shard a b) s = .next (s.postGran 3 job shard (some 2)).2 := by
  rw [exec_rule_eq, if_pos]
  refine h.imp_right fun h => h.imp_right fun ⟨w, hw, hbad⟩ => ?_
  simp only [Bool.not_eq_true', List.all_eq_false]
  exact ⟨w, hw, by simp [hbad]⟩
end

/-! #### Commands on a shard without a record -/

section
variable {s : State} {job shard : Nat} (hnone : s.shard? job shard = none) (a b : BitVec 64)
include hnone

theorem exec_drop_absent : exec (.drop job shard a b) s = .next (s.postGran 2 job shard (some 3)).2 := by
  simp only [exec_drop, execDrop, hnone]

theorem exec_hyper_absent : exec (.hyper job shard a b) s = .next (s.postGran 4 job shard (some 3)).2 := by
  simp only [exec_hyper, execHyper, hnone]

theorem exec_promote_absent : exec (.promote job shard a b) s = .next (s.postGran 5 job shard (some 3)).2 := by
  simp only [exec_promote, execPromote, hnone]

theorem exec_seed_absent : exec (.seed job shard a b) s = .next (s.postGran 6 job shard (some 3)).2 := by
  simp only [exec_seed, execSeed, hnone]

theorem exec_snap_absent : exec (.snap job shard a b) s = .next (s.postGran 7 job shard (some 3)).2 := by
  simp only [exec_snap, execSnap, hnone]

theorem exec_replay_absent : exec (.replay job shard a b) s = .next (s.postGran 8 job shard (some 4)).2 := by
  simp only [exec_replay, execReplay, hnone]
end

/-! #### Commands on a shard that this package keeps -/

/-- The directory is published for a command, which completes at once where no package has to acknowledge it (16 R398). -/
def State.announce (s : State) (job shard id : Nat) : State :=
  let s := s.publishShard job shard none (some id)
  if s.pubs.any fun p => p.gran == some id then s else s.endGran (fun c => c.id == id) 0

theorem State.records_announce (s : State) (job shard id : Nat) : (s.announce job shard id).records = s.records := by
  unfold State.announce
  dsimp only
  split
  · exact s.records_publishShard _ _ _ _
  · exact (State.records_of_enduring (State.enduring_endGran _ _ _)).trans (s.records_publishShard _ _ _ _)

section
variable {s : State} {job shard : Nat} {x : Shard} (hx : s.shard? job shard = some x) (a b : BitVec 64)
include hx

theorem exec_drop_removes : ∃ t, exec (.drop job shard a b) s = .next t ∧ t.shard? job shard = none := by
  simp only [exec_drop, execDrop, hx]
  refine ⟨_, rfl, ?_⟩
  rw [State.shard?_postGran]
  exact State.shard?_remove _ job shard

theorem exec_hyper_keeps (hrole : x.rec'.role ≠ 0) : ∃ t, exec (.hyper job shard a b) s = .next t ∧ t.shard? job shard = some { x with
    hyper := some ((List.range 12).map fun i => BitVec.ofNat 32 (leNat (physBytes s.mem (a.toNat + 4 * i) 4))) } := by
  simp only [exec_hyper, execHyper, hx, if_neg hrole]
  refine ⟨_, rfl, ?_⟩
  rw [State.shard?_postGran]
  exact State.shard?_modShard_self hx _

theorem exec_hyper_refused (hrole : x.rec'.role = 0) : exec (.hyper job shard a b) s = .next (s.postGran 4 job shard (some 3)).2 := by
  simp only [exec_hyper, execHyper, hx, if_pos hrole]

theorem exec_snap_keeps (hrole : x.rec'.role ≠ 0) : ∃ t, exec (.snap job shard a b) s = .next t ∧
    t.shard? job shard = some { x with snaps := x.snaps ++ [a.toNat] } := by
  simp only [exec_snap, execSnap, hx, if_neg hrole]
  refine ⟨_, rfl, ?_⟩
  rw [State.shard?_postGran]
  exact State.shard?_modShard_self hx _

theorem exec_snap_refused (hrole : x.rec'.role = 0) : exec (.snap job shard a b) s = .next (s.postGran 7 job shard (some 3)).2 := by
  simp only [exec_snap, execSnap, hx, if_pos hrole]

/-- A mirror that is promoted is the home of the directory; what is published and sent afresh leaves its record. -/
theorem exec_promote_promotes (hrole : x.rec'.role = 2) : ∃ t, exec (.promote job shard a b) s = .next t ∧
    t.shard? job shard = some { x with rec' := { x.rec' with role := 1, hdom := s.ownDom, hpkg := s.ownPkg, mv := false } } := by
  have hhome := State.shard?_modShard_self hx fun x =>
    { x with rec' := { x.rec' with role := 1, hdom := s.ownDom, hpkg := s.ownPkg, mv := false } }
  have hexec : ∃ u : State, u.shard? job shard = some { x with
      rec' := { x.rec' with role := 1, hdom := s.ownDom, hpkg := s.ownPkg, mv := false } } ∧
      exec (.promote job shard a b) s = .next ((u.postGran 5 job shard none).2.announce job shard (u.postGran 5 job shard none).1) := by
    rw [exec_promote, execPromote, hx]
    dsimp only
    rw [if_neg (not_not.mpr hrole)]
    refine ⟨_, ?_, rfl⟩
    split <;> exact hhome
  obtain ⟨u, hu, hexec⟩ := hexec
  refine ⟨_, hexec, ?_⟩
  rw [State.shard?_of_records (State.records_announce _ _ _ _), State.shard?_postGran, hu]

theorem exec_promote_refused (hrole : x.rec'.role ≠ 2) : exec (.promote job shard a b) s = .next (s.postGran 5 job shard (some 3)).2 := by
  simp only [exec_promote, execPromote, hx, if_pos hrole]

/-- A home whose mirror is not valid names the target. -/
theorem exec_seed_names (hrole : x.rec'.role = 1) (hmirror : x.rec'.mv = false ∨ (x.rec'.mdom, x.rec'.mpkg) ∈ x.failed) :
    ∃ t, exec (.seed job shard a b) s = .next t ∧ t.shard? job shard = some { x with
      rec' := { x.rec' with mv := true, mdom := a.toNat / 2 ^ 12 % 2 ^ 10, mpkg := a.toNat % 2 ^ 12 },
      seeding := some (a.toNat / 2 ^ 12 % 2 ^ 10, a.toNat % 2 ^ 12, false), unconfirmed := true,
      failed := x.failed.filter fun d => d != (a.toNat / 2 ^ 12 % 2 ^ 10, a.toNat % 2 ^ 12) } := by
  have hinvalid : ¬ (x.rec'.mv = true ∧ (!x.failed.contains (x.rec'.mdom, x.rec'.mpkg)) = true) := by
    rintro ⟨hmv, hsound⟩
    obtain h | h := hmirror
    · cases hmv.symm.trans h
    · simp [h] at hsound
  obtain ⟨hjob, hshard⟩ := State.key_of_shard? hx
  simp only [exec_seed, execSeed, hx, if_neg (not_not.mpr hrole), if_neg hinvalid, bitsAt_zero_eq a 12, bitsAt_eq a 12 10]
  refine ⟨_, rfl, ?_⟩
  rw [State.shard?_of_records (State.records_publishShard _ _ _ _ _), State.shard?_postGran]
  refine State.shard?_modShard_self hx (fun y => { y with rec' := _, seeding := _, unconfirmed := _, failed := _ }) fun _ _ _ => ?_
  exact ⟨hjob, hshard⟩

theorem exec_seed_seeded (hrole : x.rec'.role = 1) (hmv : x.rec'.mv = true) (hsound : (x.rec'.mdom, x.rec'.mpkg) ∉ x.failed) :
    exec (.seed job shard a b) s = .next (s.postGran 6 job shard (some 5)).2 := by
  have hvalid : x.rec'.mv = true ∧ (!x.failed.contains (x.rec'.mdom, x.rec'.mpkg)) = true := ⟨hmv, by simpa using hsound⟩
  simp only [exec_seed, execSeed, hx, if_neg (not_not.mpr hrole), if_pos hvalid]

theorem exec_seed_refused (hrole : x.rec'.role ≠ 1) : exec (.seed job shard a b) s = .next (s.postGran 6 job shard (some 3)).2 := by
  simp only [exec_seed, execSeed, hx, if_pos hrole]
end

/-! #### REPLAY -/

/-- The blocks of a shard that a REPLAY names and that this package does not keep (16 R385). -/
def State.replayAway (s : State) (job shard step map : Nat) (x : Shard) : List Nat :=
  ((List.range ((x.rec'.elems + 16383) / 16384)).filter fun i =>
    (leNat (physBytes s.mem map (((x.rec'.elems + 16383) / 16384 + 7) / 8))).testBit i).filter fun i =>
      (s.granary.kept.find? fun k => k.block.job == job && k.block.shard == shard && k.block.step == step && k.block.block == i).isNone

section
variable {s : State} {job shard : Nat} {x : Shard} (hx : s.shard? job shard = some x) (a b : BitVec 64)
include hx

/-- A REPLAY resends what is kept here, and then completes or asks the other packages. -/
theorem exec_replay_eq : ∃ u : State, u.ledger = s.ledger ∧ exec (.replay job shard a b) s =
    .next (if (s.replayAway job shard a.toNat b.toNat x).isEmpty then (u.postGran 8 job shard (some 0)).2
      else if u.memberPkgs.isEmpty then (u.postGran 8 job shard (some 4)).2
      else ({ u with out := u.out ++ [Out.replay job shard a.toNat (s.replayAway job shard a.toNat b.toNat x)] }.postGran 8 job shard
        none).2) := by
  rw [exec_replay, execReplay, hx]
  exact ⟨_, foldl_keeps State.ledger (f := fun s (k : KeptBlock) => s.sendBlock k.block (keepersOf x.rec'))
    (fun s k => s.ledger_sendBlock _ _) _ s, rfl⟩

theorem exec_replay_spec : ∃ u : State, u.granary = s.granary ∧ u.ranks = s.ranks ∧ u.mem = s.mem ∧
    (s.replayAway job shard a.toNat b.toNat x = [] → exec (.replay job shard a b) s = .next (u.postGran 8 job shard (some 0)).2) ∧
    (s.replayAway job shard a.toNat b.toNat x ≠ [] → s.memberPkgs = [] →
      exec (.replay job shard a b) s = .next (u.postGran 8 job shard (some 4)).2) ∧
    (s.replayAway job shard a.toNat b.toNat x ≠ [] → s.memberPkgs ≠ [] → ∃ t, exec (.replay job shard a b) s = .next t ∧
      Out.replay job shard a.toNat (s.replayAway job shard a.toNat b.toNat x) ∈ t.out ∧
        ∃ k ∈ t.granary.cmds, k.code = 8 ∧ k.status = none) := by
  obtain ⟨u, hledger, hexec⟩ := exec_replay_eq hx a b
  rw [State.memberPkgs_of_ledger hledger] at hexec
  refine ⟨u, congrArg (·.1.1) hledger, congrArg (·.2.1) hledger, congrArg (·.1.2.1) hledger, fun hall => ?_, fun haway hno => ?_,
    fun haway hsome => ?_⟩
  · rw [hexec, hall]
    rfl
  · rw [hexec, if_neg (by simpa using haway), hno]
    rfl
  · rw [hexec, if_neg (by simpa using haway), if_neg (by simpa using hsome)]
    refine ⟨_, rfl, ?_, State.postGran_waits _ _ _ _⟩
    rw [State.out_of_enduring (State.enduring_postGran _ _ _ _ _)]
    exact List.mem_append_right _ (List.mem_singleton.mpr rfl)
end

/-- Settles O45: every command by the record it leaves or the status it is posted with; what is sent, published and completed leaves the
records. -/
theorem granaryCommands : Obligations.GranaryCommands := by
  intro s job shard a b
  refine ⟨?_, fun hnone => ⟨exec_drop_absent hnone a b, exec_hyper_absent hnone a b, exec_promote_absent hnone a b,
    exec_seed_absent hnone a b, exec_snap_absent hnone a b, exec_replay_absent hnone a b⟩, ?_, fun x hx => ?_, fun code => rfl,
    fun code st hidle => State.postGran_completes hidle code job shard st⟩
  · exact ⟨exec_reg_illegal job shard b, fun hlegal => exec_reg_installs job shard b hlegal rfl,
      fun hlegal => exec_reg_full job shard b hlegal rfl, fun hlegal x => exec_reg_replaces job shard b hlegal rfl⟩
  · exact ⟨exec_rule_loads, exec_rule_refused⟩
  · exact ⟨exec_drop_removes hx a b, exec_hyper_keeps hx a b,
      fun hrole => ⟨exec_hyper_refused hx a b hrole, exec_snap_refused hx a b hrole⟩,
      exec_promote_promotes hx a b, exec_promote_refused hx a b, exec_seed_names hx a b, exec_seed_seeded hx a b,
      exec_seed_refused hx a b, exec_snap_keeps hx a b, fun away haway => haway ▸ exec_replay_spec hx a b⟩

end Sys2Proof.Machine

/-! ### Gathers, the directory, seeding, the failure of a keeper (16 R396 to R398, R401 to R403) -/

namespace Sys2Proof.Machine

/-! #### How a gather is judged -/

section
variable {s : State} {g : GatherMsg}

theorem State.judgeGather_absent (h : s.shard? g.job g.shard = none) : s.judgeGather g = s.answerGather g [2] := by
  rw [State.judgeGather, h]
  rfl

variable {x : Shard} (hx : s.shard? g.job g.shard = some x)
include hx

section
variable (hrole : x.rec'.role ≠ 1)
include hrole

theorem State.judgeGather_elsewhere_lost (hlost : x.lost = true) : s.judgeGather g = s.answerGather g [3] := by
  simp only [State.judgeGather, hx, if_pos hrole, if_pos hlost]
  rfl

theorem State.judgeGather_named (hlost : x.lost = false) (hhome : (x.rec'.hdom, x.rec'.hpkg) = (s.ownDom, s.ownPkg)) :
    s.judgeGather g = if x.failed.contains (s.ownDom, s.ownPkg) then s else s.answerGather g [2] := by
  simp only [State.judgeGather, hx, if_pos hrole, if_neg (ne_true_of_eq_false hlost), if_pos (Prod.mk.inj hhome)]
  rfl

theorem State.judgeGather_goesOn (hlost : x.lost = false) (hhome : (x.rec'.hdom, x.rec'.hpkg) ≠ (s.ownDom, s.ownPkg)) :
    s.judgeGather g = s.sendTo x.rec'.hdom
      (.gather { dpkg := x.rec'.hpkg, spkg := s.ownPkg, dvr := 0, svr := 0, seq := g.cmd % 2 ^ 32 } g) := by
  have hfar : ¬ (x.rec'.hdom = s.ownDom ∧ x.rec'.hpkg = s.ownPkg) := fun h => hhome (Prod.ext h.1 h.2)
  simp only [State.judgeGather, hx, if_pos hrole, if_neg (ne_true_of_eq_false hlost), if_neg hfar]
end

variable (hrole : x.rec'.role = 1)
include hrole

theorem State.judgeGather_outside (hnone : g.nblk ≠ 0) (hout : (x.rec'.elems + 16383) / 16384 < g.block + g.nblk) :
    s.judgeGather g = s.answerGather g [2] := by
  have hbeyond : g.nblk ≠ 0 ∧ ShardRec.blocks x.rec' < g.block + g.nblk := ⟨hnone, hout⟩
  simp only [State.judgeGather, hx, if_neg (not_not.mpr hrole), if_pos hbeyond]
  rfl

variable (hinside : g.nblk = 0 ∨ g.block + g.nblk ≤ (x.rec'.elems + 16383) / 16384)
include hinside

/-- What the home does with a gather of blocks of the shard. -/
theorem State.judgeGather_home : s.judgeGather g = if x.lost then s.answerGather g [3] else if g.step ≤ x.rec'.c then s.answerGather g [1]
    else if x.rec'.c + 1 < g.step then
      if x.deferred.length < 4096 then s.modShard g.job g.shard (Shard.deferring g)
      else { s with net := s.net ++ [.gather { dpkg := s.ownPkg, spkg := s.ownPkg, dvr := 0, svr := 0, seq := g.cmd % 2 ^ 32 } g] }
    else s.answerGather g (0 :: s.servedBytes x g) := by
  have hfits : ¬ (g.nblk ≠ 0 ∧ ShardRec.blocks x.rec' < g.block + g.nblk) := by
    rw [ShardRec.blocks]
    omega
  simp only [State.judgeGather, hx, if_neg (not_not.mpr hrole), if_neg hfits]
  rfl

theorem State.judgeGather_home_lost (hlost : x.lost = true) : s.judgeGather g = s.answerGather g [3] := by
  rw [State.judgeGather_home hx hrole hinside, if_pos hlost]

variable (hlost : x.lost = false)
include hlost

theorem State.judgeGather_stale (hstep : g.step ≤ x.rec'.c) : s.judgeGather g = s.answerGather g [1] := by
  rw [State.judgeGather_home hx hrole hinside, if_neg (ne_true_of_eq_false hlost), if_pos hstep]

theorem State.judgeGather_served (hstep : g.step = x.rec'.c + 1) : s.judgeGather g = s.answerGather g (0 :: s.servedBytes x g) := by
  rw [State.judgeGather_home hx hrole hinside, if_neg (ne_true_of_eq_false hlost), if_neg (by omega), if_neg (by omega)]

theorem State.judgeGather_deferred (hstep : x.rec'.c + 1 < g.step) (hroom : x.deferred.length < 4096) :
    s.judgeGather g = s.modShard g.job g.shard (Shard.deferring g) := by
  rw [State.judgeGather_home hx hrole hinside, if_neg (ne_true_of_eq_false hlost), if_neg (by omega), if_pos hstep, if_pos hroom]

theorem State.judgeGather_waits (hstep : x.rec'.c + 1 < g.step) (hfull : 4096 ≤ x.deferred.length) : s.judgeGather g =
    { s with net := s.net ++ [.gather { dpkg := s.ownPkg, spkg := s.ownPkg, dvr := 0, svr := 0, seq := g.cmd % 2 ^ 32 } g] } := by
  rw [State.judgeGather_home hx hrole hinside, if_neg (ne_true_of_eq_false hlost), if_neg (by omega), if_pos hstep,
    if_neg (Nat.not_lt.mpr hfull)]
end

/-! #### GATHER and GRANARY_GATHER -/

theorem exec_gather_other {s : State} {q : DHdr} (h : q.dpkg ≠ s.ownPkg) (g : GatherMsg) :
    exec (.gather q g) s = .next (s.forward 32 (.gather q g)) := by
  rw [exec_gather, execGather, if_neg h]

/-- A gather that arrives is judged after a close of its shard that is due (16 R397). -/
theorem exec_judges {s u : State} {i : Instr} {q : DHdr} {g : GatherMsg} (hclose : exec (.granaryStepClose g.job g.shard) s = .next u)
    (hi : (i = .gather q g ∧ q.dpkg = s.ownPkg) ∨ (i = .granaryGather g ∧ (g.dom, g.pkg) ≠ (s.ownDom, s.ownPkg))) :
    exec i s = .next (u.judgeGather g) := by
  obtain rfl : s.closeShard g.job g.shard = u := Host.Outcome.next.inj hclose
  obtain ⟨rfl, hown⟩ | ⟨rfl, haway⟩ := hi
  · rw [exec_gather, execGather, if_pos hown, State.arriveGather]
  · rw [exec_granaryGather, execGranaryGather, if_neg fun h => haway (Prod.ext h.1 h.2), State.arriveGather]

section
variable {s : State} {c : Cmd} {g : GatherMsg} {dst scales status : Space} {dstr : Int} {sent : Bool} (hc : s.cmd? c.id = some c)
  (hbody : c.body = .gran g dst dstr scales status sent) (hcmd : g.cmd = c.id) (hown : g.dom = s.ownDom ∧ g.pkg = s.ownPkg)
include hc hbody hcmd hown

/-- What a gather command of this package does. -/
theorem exec_granaryGather_own : exec (.granaryGather g) s = .next (if c.ending then s.finishCmd c
    else if sent || !s.cmdLive c || !s.cmdFirst c then s
    else (s.modCmd c.id fun c => { c with st := .running, body := .gran g dst dstr scales status true }).arriveGather g) := by
  simp only [exec_granaryGather, execGranaryGather, if_pos hown, hcmd, hc, hbody]

/-- One that is first in its queue starts; judging it leaves the commands. -/
theorem exec_granaryGather_starts (hending : c.ending = false) (hsent : sent = false) (hlive : s.cmdLive c = true)
    (hfirst : s.cmdFirst c = true) : ∃ t c', exec (.granaryGather g) s = .next t ∧ t.cmd? c.id = some c' ∧ c'.st = .running ∧
      c'.body = .gran g dst dstr scales status true := by
  rw [exec_granaryGather_own hc hbody hcmd hown, if_neg (ne_true_of_eq_false hending), if_neg (by simp [hsent, hlive, hfirst])]
  refine ⟨_, { c with st := .running, body := .gran g dst dstr scales status true }, rfl, ?_, rfl, rfl⟩
  rw [State.arriveGather, State.cmd?_congr (State.judgeGather_cmds _ g), State.cmd?_congr (State.closeShard_cmds _ _ _)]
  exact State.cmd?_modCmd_self hc fun c => { c with st := .running, body := .gran g dst dstr scales status true }

theorem exec_granaryGather_stays (hending : c.ending = false) (h : sent = true ∨ s.cmdLive c = false ∨ s.cmdFirst c = false) :
    exec (.granaryGather g) s = .next s := by
  rw [exec_granaryGather_own hc hbody hcmd hown, if_neg (ne_true_of_eq_false hending), if_pos]
  obtain h | h | h := h <;> simp [h]

theorem exec_granaryGather_ending (hending : c.ending = true) : (s.cmdAway c = true → exec (.granaryGather g) s = .next s) ∧
    (s.cmdAway c = false → exec (.granaryGather g) s = .next (s.retireCmd c c.wrote)) := by
  rw [exec_granaryGather_own hc hbody hcmd hown, if_pos hending, State.finishCmd]
  exact ⟨fun h => by rw [if_pos h], fun h => by rw [if_neg (ne_true_of_eq_false h)]⟩
end

/-! #### A change of the directory (16 R398, R402) -/

/-- The record under a directory that has changed, without a new seed target. -/
def Shard.directed (x : Shard) (own : Nat × Nat) (mv : Bool) (mdom mpkg hdom hpkg : Nat) : Shard :=
  let named := (hdom, hpkg) == own || (mv && (mdom, mpkg) == own)
  { x with
    rec' := { setDirectory x.rec' mv mdom mpkg hdom hpkg with role := if named then x.rec'.role else 0 }
    deferred := if (hdom, hpkg) == own then x.deferred else []
    timer := if named then x.timer else none
    failed := if mv then x.failed.filter fun d => d != (mdom, mpkg) else x.failed
    unconfirmed := false }

theorem Shard.directed_rec (x : Shard) (own : Nat × Nat) (mv : Bool) (mdom mpkg hdom hpkg : Nat) :
    (x.directed own mv mdom mpkg hdom hpkg).rec' = { x.rec' with
      mv := mv, mdom := mdom, mpkg := mpkg, hdom := hdom, hpkg := hpkg,
      role := if (hdom, hpkg) = own ∨ (mv = true ∧ (mdom, mpkg) = own) then x.rec'.role else 0 } := by
  simp only [Shard.directed, setDirectory, Bool.or_eq_true, Bool.and_eq_true, beq_iff_eq]

/-- The state with the fields of a record set, and the blocks released whose granaries the directory no longer names. -/
def State.direct (s : State) (job shard : Nat) (x : Shard) (mv : Bool) (mdom mpkg hdom hpkg : Nat) : State :=
  (s.modShard job shard fun _ => x.directed (s.ownDom, s.ownPkg) mv mdom mpkg hdom hpkg).releaseKept
    (setDirectory x.rec' mv mdom mpkg hdom hpkg)

section
variable {s : State} {job shard : Nat} {x : Shard} (hx : s.shard? job shard = some x) (mv : Bool) (mdom mpkg hdom hpkg : Nat)
include hx

/-- A change of the directory sets the fields of the record; the gathers that go on and those sent afresh leave them. -/
theorem State.shard?_applyDirectory : ∃ y, (s.applyDirectory job shard mv mdom mpkg hdom hpkg none).shard? job shard = some y ∧
    y.rec' = (x.directed (s.ownDom, s.ownPkg) mv mdom mpkg hdom hpkg).rec' := by
  obtain ⟨hjob, hshard⟩ := State.key_of_shard? hx
  have hset := State.shard?_modShard_self hx (fun _ => x.directed (s.ownDom, s.ownPkg) mv mdom mpkg hdom hpkg)
    fun _ _ _ => ⟨hjob, hshard⟩
  have hgathers : ∃ y, (if (hdom, hpkg) == (s.ownDom, s.ownPkg) then s.direct job shard x mv mdom mpkg hdom hpkg
      else x.deferred.foldl State.judgeGather (s.direct job shard x mv mdom mpkg hdom hpkg)).shard? job shard = some y ∧
        y.rec' = (x.directed (s.ownDom, s.ownPkg) mv mdom mpkg hdom hpkg).rec' := by
    split
    · exact ⟨_, hset, rfl⟩
    · obtain ⟨d, hd, -⟩ := State.shard?_judgeGathers (s := s.direct job shard x mv mdom mpkg hdom hpkg) hset x.deferred
      exact ⟨_, hd, rfl⟩
  obtain ⟨y, hy, hrec⟩ := hgathers
  refine ⟨y, ?_, hrec⟩
  rw [State.applyDirectory, hx]
  dsimp only
  split <;> exact hy
end

theorem exec_directory_own {s : State} {q : DHdr} (h : q.dpkg = s.ownPkg) (job shard : Nat) (mv : Bool) (mdom mpkg hdom hpkg : Nat)
    (target : Option Sys2Proof.ShardRec) : exec (.placementUpdate (.directory q job shard mv mdom mpkg hdom hpkg target)) s =
      .next ((s.applyDirectory job shard mv mdom mpkg hdom hpkg target).ackChange q) := by
  rw [exec_placementUpdate, execPlacementUpdate, show demandHdr (.directory q job shard mv mdom mpkg hdom hpkg target) = q from rfl,
    State.mine_own h]
  rfl

theorem exec_directory_spec {s : State} {q : DHdr} (h : q.dpkg = s.ownPkg) {job shard : Nat} {x : Shard}
    (hx : s.shard? job shard = some x) (mv : Bool) (mdom mpkg hdom hpkg : Nat) : ∃ t y,
      exec (.placementUpdate (.directory q job shard mv mdom mpkg hdom hpkg none)) s = .next t ∧ t.shard? job shard = some y ∧
      y.rec' = { x.rec' with
        mv := mv, mdom := mdom, mpkg := mpkg, hdom := hdom, hpkg := hpkg,
        role := if (hdom, hpkg) = (s.ownDom, s.ownPkg) ∨ (mv = true ∧ (mdom, mpkg) = (s.ownDom, s.ownPkg)) then x.rec'.role else 0 } := by
  obtain ⟨y, hy, hrec⟩ := State.shard?_applyDirectory hx mv mdom mpkg hdom hpkg
  exact ⟨_, y, exec_directory_own h job shard mv mdom mpkg hdom hpkg none,
    (State.shard?_of_granary (State.sendTo_granary _ _ _) _ _).trans hy, hrec.trans (Shard.directed_rec _ _ _ _ _ _ _)⟩

/-! #### SEED_SNAPSHOT_INSTALL and SEED_CONFIRM (16 R401) -/

section
variable {s : State} {rec : Sys2Proof.ShardRec} (state served : List Byte)

theorem exec_seedSnapshotInstall_target {x : Shard} (hx : s.shard? rec.job rec.shard = some x) (hrole : x.rec'.role = 3) :
    ∃ (t : State) (held : List GBlock), exec (.seedSnapshotInstall rec state served) s = .next t ∧
      t.shard? rec.job rec.shard = some { Shard.fresh { rec with role := 2 } with
        hyper := x.hyper, snaps := x.snaps, failed := x.failed } ∧ held.Perm x.held ∧
      t.inputs = held.map Instr.gradientBlockArrive ++ s.inputs ∧ Out.confirm rec.hdom rec.hpkg rec.job rec.shard ∈ t.out := by
  rw [exec_seedSnapshotInstall, execSeedSnapshotInstall, hx]
  dsimp only
  rw [if_neg (not_not.mpr hrole)]
  refine ⟨_, _, rfl, ?_, List.perm_append_comm.trans (List.filter_append_perm _ _), rfl,
    List.mem_append_right _ (List.mem_singleton.mpr rfl)⟩
  exact State.shard?_modShard_self (s := { s with mem := _ }) hx
    (fun _ => { Shard.fresh { rec with role := 2 } with hyper := x.hyper, snaps := x.snaps, failed := x.failed }) fun _ _ _ => ⟨rfl, rfl⟩

theorem exec_seedSnapshotInstall_elsewhere (h : ∀ x, s.shard? rec.job rec.shard = some x → x.rec'.role ≠ 3) :
    exec (.seedSnapshotInstall rec state served) s = .next s := by
  rw [exec_seedSnapshotInstall, execSeedSnapshotInstall]
  cases hx : s.shard? rec.job rec.shard with
  | none => rfl
  | some x => exact congrArg _ (if_pos (h x hx))
end

section
variable {s : State} {job shard : Nat}

theorem exec_seedConfirm_none (h : ∀ x, s.shard? job shard = some x → x.seeding = none) : exec (.seedConfirm job shard) s = .next s := by
  rw [exec_seedConfirm, execSeedConfirm]
  cases hx : s.shard? job shard with
  | none => rfl
  | some x => simp only [h x hx]

theorem exec_seedConfirm_ends {x : Shard} (hx : s.shard? job shard = some x) (h : x.seeding ≠ none) :
    ∃ t, exec (.seedConfirm job shard) s = .next t ∧
      t.shard? job shard = some { x with seeding := none, kept := [], unconfirmed := false } := by
  obtain ⟨d, hd⟩ := Option.ne_none_iff_exists'.mp h
  simp only [exec_seedConfirm, execSeedConfirm, hx, hd]
  refine ⟨_, rfl, ?_⟩
  rw [State.shard?_of_records (State.records_publishShard _ _ _ _ _), State.shard?_endGran]
  exact State.shard?_modShard_self hx _
end

/-! #### The failure of a keeper (16 R401 to R403) -/

/-- The record with one more package whose copy has failed; this package's own copy ends its role. -/
def Shard.failing (x : Shard) (own d : Nat × Nat) : Shard :=
  if d = own then { x with failed := x.failed ++ [d], rec' := { x.rec' with role := 0 }, deferred := [], applying := [], timer := none }
  else { x with failed := x.failed ++ [d] }

/-- Whether the shard is being seeded at a package. -/
def Shard.seedsTo (x : Shard) (d : Nat × Nat) : Bool := match x.seeding with
  | some (dom, pkg, _) => dom == d.1 && pkg == d.2
  | none => false

theorem Shard.failing_key (x : Shard) (own d : Nat × Nat) :
    (x.failing own d).rec'.job = x.rec'.job ∧ (x.failing own d).rec'.shard = x.rec'.shard := by
  unfold Shard.failing
  split <;> exact ⟨rfl, rfl⟩

theorem Shard.copyLeft_failing (x : Shard) (own d : Nat × Nat) : (x.failing own d).copyLeft = true ↔
    (x.rec'.hdom, x.rec'.hpkg) ∉ (x.failing own d).failed ∨
      (x.rec'.mv = true ∧ x.unconfirmed = false ∧ (x.rec'.mdom, x.rec'.mpkg) ∉ (x.failing own d).failed) := by
  unfold Shard.failing Shard.copyLeft
  split <;> simp [and_assoc]

theorem Shard.seedsTo_iff (x : Shard) (dom pkg : Nat) : x.seedsTo (dom, pkg) = true ↔ ∃ b, x.seeding = some (dom, pkg, b) := by
  unfold Shard.seedsTo
  rcases x.seeding with _ | ⟨d, p, b⟩ <;> simp

/-- The seeding of a shard ends without a mirror, its SEED with status 6, and the directory says so (16 R401). -/
def State.endSeeding (s : State) (job shard : Nat) : State :=
  ((s.modShard job shard fun x =>
    { x with rec' := { x.rec' with mv := false }, seeding := none, kept := [], unconfirmed := false }).endGran
      (fun c => c.code == 6 && c.job == job && c.shard == shard) 6).publishShard job shard none none

/-- A shard of which no valid copy remains is lost, with its gathers (16 R403). -/
def State.loseShard (s : State) (job shard : Nat) (gathers : List GatherMsg) : State :=
  (((s.modShard job shard fun x => { x with lost := true, deferred := [] }).granNotice job shard 4 0).endDeferred gathers 3).endOwnGathers
    job shard 3

section
variable {s : State} {job shard : Nat} {x : Shard} (hx : s.shard? job shard = some x)
include hx

theorem State.shard?_endSeeding : (s.endSeeding job shard).shard? job shard =
    some { x with rec' := { x.rec' with mv := false }, seeding := none, kept := [], unconfirmed := false } := by
  rw [State.endSeeding, State.shard?_of_records (State.records_publishShard _ _ _ _ _), State.shard?_endGran]
  exact State.shard?_modShard_self hx _

theorem State.shard?_loseShard (gathers : List GatherMsg) :
    (s.loseShard job shard gathers).shard? job shard = some { x with lost := true, deferred := [] } := by
  rw [State.loseShard, State.shard?_of_granary (State.endOwnGathers_granary _ _ _ _),
    State.shard?_of_granary (State.endDeferred_granary _ _ _), State.shard?_of_granary (State.granNotice_granary _ _ _ _ _)]
  exact State.shard?_modShard_self hx _

variable (dom pkg : Nat)

/-- The failure is noted in the record; then the seed target goes, the seeding ends, the shard is lost, or nothing more happens. -/
theorem State.keeperFail_eq : ∃ u : State, u.shard? job shard = some (x.failing (s.ownDom, s.ownPkg) (dom, pkg)) ∧
    s.keeperFail dom pkg job shard =
      if x.rec'.role = 3 ∧ (dom, pkg) = (x.rec'.hdom, x.rec'.hpkg) then
        u.modGranary fun g => { g with shards := g.shards.filter fun z => !(z.rec'.job == job && z.rec'.shard == shard) }
      else if x.seedsTo (dom, pkg) then u.endSeeding job shard
      else if !x.lost && !(x.failing (s.ownDom, s.ownPkg) (dom, pkg)).copyLeft then u.loseShard job shard x.deferred
      else u := by
  obtain ⟨hjob, hshard⟩ := State.key_of_shard? hx
  obtain ⟨hfjob, hfshard⟩ := x.failing_key (s.ownDom, s.ownPkg) (dom, pkg)
  have hnoted := State.shard?_modShard_self hx (fun _ => x.failing (s.ownDom, s.ownPkg) (dom, pkg))
    fun _ _ _ => ⟨hfjob.trans hjob, hfshard.trans hshard⟩
  refine ⟨if x.rec'.role ≠ 1 ∧ (dom, pkg) ≠ (x.rec'.hdom, x.rec'.hpkg) then
    (s.modShard job shard fun _ => x.failing (s.ownDom, s.ownPkg) (dom, pkg)).resendGathers job shard
    else s.modShard job shard fun _ => x.failing (s.ownDom, s.ownPkg) (dom, pkg), ?_, ?_⟩
  · split <;> exact hnoted
  · simp only [State.keeperFail, hx, beq_iff_eq]
    rfl

theorem State.keeperFail_homeOfTarget (h : x.rec'.role = 3 ∧ (dom, pkg) = (x.rec'.hdom, x.rec'.hpkg)) :
    (s.keeperFail dom pkg job shard).shard? job shard = none := by
  obtain ⟨u, -, hfail⟩ := State.keeperFail_eq hx dom pkg
  rw [hfail, if_pos h]
  exact State.shard?_remove u job shard

variable (h : ¬ (x.rec'.role = 3 ∧ (dom, pkg) = (x.rec'.hdom, x.rec'.hpkg)))
include h

theorem State.keeperFail_seedTarget (hseeds : x.seedsTo (dom, pkg) = true) : (s.keeperFail dom pkg job shard).shard? job shard =
    some { x.failing (s.ownDom, s.ownPkg) (dom, pkg) with
      rec' := { (x.failing (s.ownDom, s.ownPkg) (dom, pkg)).rec' with mv := false }, seeding := none, kept := [], unconfirmed := false } := by
  obtain ⟨u, hu, hfail⟩ := State.keeperFail_eq hx dom pkg
  rw [hfail, if_neg h, if_pos hseeds, State.shard?_endSeeding hu]

variable (hseeds : ¬ x.seedsTo (dom, pkg) = true)
include hseeds

theorem State.keeperFail_last (hlost : x.lost = false) (hleft : ¬ (x.failing (s.ownDom, s.ownPkg) (dom, pkg)).copyLeft = true) :
    (s.keeperFail dom pkg job shard).shard? job shard =
      some { x.failing (s.ownDom, s.ownPkg) (dom, pkg) with lost := true, deferred := [] } := by
  obtain ⟨u, hu, hfail⟩ := State.keeperFail_eq hx dom pkg
  rw [hfail, if_neg h, if_neg hseeds, if_pos (by simp [hlost, hleft]), State.shard?_loseShard hu]

theorem State.keeperFail_noted (hkept : x.lost = true ∨ (x.failing (s.ownDom, s.ownPkg) (dom, pkg)).copyLeft = true) :
    (s.keeperFail dom pkg job shard).shard? job shard = some (x.failing (s.ownDom, s.ownPkg) (dom, pkg)) := by
  obtain ⟨u, hu, hfail⟩ := State.keeperFail_eq hx dom pkg
  rw [hfail, if_neg h, if_neg hseeds, if_neg, hu]
  obtain hkept | hkept := hkept <;> simp [hkept]
end

theorem exec_granaryKeeperFail_absent {s : State} {job shard : Nat} (h : s.shard? job shard = none) (dom pkg : Nat) :
    exec (.granaryKeeperFail dom pkg job shard) s = .next s := by
  rw [exec_granaryKeeperFail, execGranaryKeeperFail, State.keeperFail, h]

/-- Settles O46: a gather by the case of its judging after the close; a command, a change of the directory, the steps of seeding and a
failure by the record that each leaves, which messages, notices and completions do not change. -/
theorem granaryGathersAndSeeding : Obligations.GranaryGathersAndSeeding := by
  intro s
  refine ⟨fun q g hq => exec_gather_other hq g, fun i q g u hclose hi => ?_,
    fun c g dst dstr scales status sent hc hbody hcmd hdom hpkg => ⟨exec_granaryGather_starts hc hbody hcmd ⟨hdom, hpkg⟩,
      exec_granaryGather_stays hc hbody hcmd ⟨hdom, hpkg⟩, exec_granaryGather_ending hc hbody hcmd ⟨hdom, hpkg⟩⟩,
    fun q job shard mv mdom mpkg hdom hpkg x hq hx => exec_directory_spec hq hx mv mdom mpkg hdom hpkg,
    fun rec state served => ⟨fun x => exec_seedSnapshotInstall_target state served, exec_seedSnapshotInstall_elsewhere state served⟩,
    fun job shard => exec_seedConfirm_none, fun job shard x hx => exec_seedConfirm_ends hx,
    fun dom pkg job shard hnone => exec_granaryKeeperFail_absent hnone dom pkg, fun dom pkg job shard x y hx hy => ?_⟩
  · rw [exec_judges hclose hi]
    refine ⟨fun hnone => congrArg _ (State.judgeGather_absent hnone), fun x hx hrole => ⟨fun hlost =>
        congrArg _ (State.judgeGather_elsewhere_lost hx hrole hlost), fun hlost hhome =>
        congrArg _ (State.judgeGather_named hx hrole hlost hhome), fun hlost hhome =>
        congrArg _ (State.judgeGather_goesOn hx hrole hlost hhome)⟩,
      fun x hx hrole => ⟨fun hsome hout => congrArg _ (State.judgeGather_outside hx hrole hsome hout), fun hinside => ?_⟩⟩
    refine ⟨fun hlost => congrArg _ (State.judgeGather_home_lost hx hrole hinside hlost),
      fun hlost hstep => congrArg _ (State.judgeGather_stale hx hrole hinside hlost hstep),
      fun hlost hstep => congrArg _ (State.judgeGather_served hx hrole hinside hlost hstep),
      fun hlost hstep hroom => congrArg _ (State.judgeGather_deferred hx hrole hinside hlost hstep hroom),
      fun hlost hstep hfull => ⟨_, congrArg _ (State.judgeGather_waits hx hrole hinside hlost hstep hfull), rfl, _, rfl, rfl⟩⟩
  · obtain rfl : y = x.failing (s.ownDom, s.ownPkg) (dom, pkg) := hy
    have hleft := x.copyLeft_failing (s.ownDom, s.ownPkg) (dom, pkg)
    have hseeds := x.seedsTo_iff dom pkg
    refine ⟨_, rfl, fun hrole hhome => State.keeperFail_homeOfTarget hx dom pkg ⟨hrole, hhome⟩, fun hnot => ?_⟩
    have hstays : ¬ (x.rec'.role = 3 ∧ (dom, pkg) = (x.rec'.hdom, x.rec'.hpkg)) := fun h => hnot.elim (· h.1) (· h.2)
    refine ⟨fun b hb => State.keeperFail_seedTarget hx dom pkg hstays (hseeds.mpr ⟨b, hb⟩), fun hno hlost hgone => ?_,
      fun hno hkept => ?_⟩
    · exact State.keeperFail_last hx dom pkg hstays (fun h => (hseeds.mp h).elim hno) hlost (hleft.not.mpr hgone)
    · exact State.keeperFail_noted hx dom pkg hstays (fun h => (hseeds.mp h).elim hno) (hkept.imp_right hleft.mpr)

end Sys2Proof.Machine

/-! ### What every step keeps: HSTAT legal, every VR held once, every memory in canonical form

`State.Keeps s t` says that a part of a step that leads from `s` to `t` keeps the two invariants and HSTAT itself. One lemma for each
named update of the state says that the update does; each is made from those of the updates that it is made of. -/

namespace Sys2Proof.Machine

/-- What a change of a rank keeps: its VR, and the canonical form of the scratchpads that its saved gangs keep. -/
structure Rank.Keeps (r q : Rank) : Prop where
  vr : q.vr = r.vr
  pads : (∀ g ∈ r.gangs, Memory.wf g.pads = true) → ∀ g ∈ q.gangs, Memory.wf g.pads = true

structure Slot.Keeps (k l : Slot) : Prop where
  pads : Memory.wf k.pads = true → Memory.wf k.shadow = true → Memory.wf l.pads = true
  shadow : Memory.wf k.pads = true → Memory.wf k.shadow = true → Memory.wf l.shadow = true

structure State.Keeps (s t : State) : Prop where
  boot : t.boot = s.boot
  vrs : (s.ranks.map Rank.vr).Nodup → (t.ranks.map Rank.vr).Nodup
  forms : s.MemWf → s.FramesWf → t.MemWf ∧ t.FramesWf

def State.KeepsNext (s : State) (o : Host.Outcome State Fault Refusal) : Prop := ∀ t, o = .next t → s.Keeps t

theorem Rank.Keeps.refl (r : Rank) : r.Keeps r := ⟨rfl, id⟩

theorem Slot.Keeps.refl (k : Slot) : k.Keeps k := ⟨fun hp _ => hp, fun _ hs => hs⟩

theorem State.Keeps.refl (s : State) : s.Keeps s := ⟨rfl, id, And.intro⟩

theorem Rank.Keeps.trans {r q p : Rank} (h : r.Keeps q) (h' : q.Keeps p) : r.Keeps p := ⟨h'.vr.trans h.vr, h'.pads ∘ h.pads⟩

theorem State.Keeps.trans {s t u : State} (h : s.Keeps t) (h' : t.Keeps u) : s.Keeps u :=
  ⟨h'.boot.trans h.boot, h'.vrs ∘ h.vrs, fun hm hf => (h.forms hm hf).elim h'.forms⟩

variable {s t : State}

theorem State.KeepsNext.next (h : s.Keeps t) : s.KeepsNext (.next t) := by
  rintro u ⟨⟩
  exact h

theorem State.KeepsNext.fault (f : Fault) : s.KeepsNext (.fault f) := by rintro u ⟨⟩

theorem State.Keeps.ite {c : Prop} [Decidable c] {u : State} (h : s.Keeps t) (h' : s.Keeps u) : s.Keeps (if c then t else u) := by
  split; exacts [h, h']

theorem State.KeepsNext.ite {c : Prop} [Decidable c] {a b : Host.Outcome State Fault Refusal} (h : s.KeepsNext a) (h' : s.KeepsNext b) :
    s.KeepsNext (if c then a else b) := by
  split; exacts [h, h']

theorem Rank.Keeps.ite {c : Prop} [Decidable c] {r q p : Rank} (h : r.Keeps q) (h' : r.Keeps p) : r.Keeps (if c then q else p) := by
  split; exacts [h, h']

theorem Slot.Keeps.ite {c : Prop} [Decidable c] {k l m : Slot} (h : k.Keeps l) (h' : k.Keeps m) : k.Keeps (if c then l else m) := by
  split; exacts [h, h']

theorem State.KeepsNext.acting {f : Strand → State} (h : ∀ st, s.Keeps (f st)) : s.KeepsNext (t.acting f) := by
  obtain ⟨st, -, hst⟩ | ⟨-, hst⟩ := t.acting_cases f <;> rw [hst]
  · exact .next (h st)
  · exact .fault _


/-! Any values of the fields that `Keeps` does not read, beside those that it reads: as they were, or one of them changed. -/

section
variable {cur : SRef} {trapped : Bool} {agenda : List Turn} {pcp : List PcpAct} {inputs : List Instr}
    {net : List Demand} {out : List Out} {free nextId nextAge : Nat} {pkgid : Word} {clavail : BitVec 16} {partcfg : Word}
    {sptroot supgen : Vector Word 16} {l2ctl nring : Word} {nhead ntail : BitVec 16} {notices : List (BitVec 1024)}
    {frameStates : List (Nat × BitVec 8)} {fstBase : Word} {locks : List Lock} {faultq : List Parked} {home : List HomeByte}
    {held : List HeldW} {place : List (Nat × Word)} {jobs : List Job} {cmds : List Cmd} {trees : List TreeSt} {migPlanes : Planes}
    {granary : Granary} {fabric : Fabric} {conns : List Conn} {host : HostIf} {services : List Service} {pubs : List Publication}
    {corrected dropped : Nat}

theorem State.Keeps.rest (h : s.Keeps t) :
    s.Keeps { cur, trapped, agenda, pcp, inputs, net, out, free, nextId, nextAge, pkgid, clavail, partcfg, sptroot, supgen, l2ctl, nring,
              nhead, ntail, notices, frameStates, fstBase, locks, faultq, home, held, place, jobs, cmds, trees, migPlanes, granary,
              fabric, conns, host, services, pubs, corrected, dropped, boot := t.boot, mem := t.mem, hostMem := t.hostMem,
              ranks := t.ranks, slots := t.slots, incoming := t.incoming } :=
  ⟨h.boot, h.vrs, h.forms⟩

theorem State.Keeps.withRanks (h : s.Keeps t) {l : List Rank} (hv : (l.map Rank.vr).Sublist (t.ranks.map Rank.vr))
    (hr : ∀ r ∈ l, ∃ q ∈ t.ranks, q.Keeps r) :
    s.Keeps { cur, trapped, agenda, pcp, inputs, net, out, free, nextId, nextAge, pkgid, clavail, partcfg, sptroot, supgen, l2ctl, nring,
              nhead, ntail, notices, frameStates, fstBase, locks, faultq, home, held, place, jobs, cmds, trees, migPlanes, granary,
              fabric, conns, host, services, pubs, corrected, dropped, boot := t.boot, mem := t.mem, hostMem := t.hostMem,
              ranks := l, slots := t.slots, incoming := t.incoming } :=
  h.trans ⟨rfl, hv.nodup, fun hm hf => ⟨hm, fun r hin => by
    obtain hin | hin := hin
    · obtain ⟨q, hq, hqr⟩ := hr r hin
      exact hqr.pads (hf q (.inl hq))
    · exact hf r (.inr hin)⟩⟩

theorem State.Keeps.mapRanks (h : s.Keeps t) {f : Rank → Rank} (hf : ∀ r : Rank, r.Keeps (f r)) :
    s.Keeps { cur, trapped, agenda, pcp, inputs, net, out, free, nextId, nextAge, pkgid, clavail, partcfg, sptroot, supgen, l2ctl, nring,
              nhead, ntail, notices, frameStates, fstBase, locks, faultq, home, held, place, jobs, cmds, trees, migPlanes, granary,
              fabric, conns, host, services, pubs, corrected, dropped, boot := t.boot, mem := t.mem, hostMem := t.hostMem,
              ranks := t.ranks.map f, slots := t.slots, incoming := t.incoming } :=
  h.withRanks (by rw [List.map_map, show Rank.vr ∘ f = Rank.vr from funext fun r => (hf r).vr]) fun r hr => by
    obtain ⟨q, hq, rfl⟩ := List.mem_map.mp hr
    exact ⟨q, hq, hf q⟩

theorem State.Keeps.filterRanks (h : s.Keeps t) {p : Rank → Bool} :
    s.Keeps { cur, trapped, agenda, pcp, inputs, net, out, free, nextId, nextAge, pkgid, clavail, partcfg, sptroot, supgen, l2ctl, nring,
              nhead, ntail, notices, frameStates, fstBase, locks, faultq, home, held, place, jobs, cmds, trees, migPlanes, granary,
              fabric, conns, host, services, pubs, corrected, dropped, boot := t.boot, mem := t.mem, hostMem := t.hostMem,
              ranks := t.ranks.filter p, slots := t.slots, incoming := t.incoming } :=
  h.withRanks (List.filter_sublist.map _) fun r hr => ⟨r, (List.mem_filter.mp hr).1, .refl r⟩

theorem State.Keeps.withIncoming (h : s.Keeps t) {l : List Rank} (hl : ∀ r ∈ l, ∃ q ∈ t.incoming, q.Keeps r) :
    s.Keeps { cur, trapped, agenda, pcp, inputs, net, out, free, nextId, nextAge, pkgid, clavail, partcfg, sptroot, supgen, l2ctl, nring,
              nhead, ntail, notices, frameStates, fstBase, locks, faultq, home, held, place, jobs, cmds, trees, migPlanes, granary,
              fabric, conns, host, services, pubs, corrected, dropped, boot := t.boot, mem := t.mem, hostMem := t.hostMem,
              ranks := t.ranks, slots := t.slots, incoming := l } :=
  h.trans ⟨rfl, id, fun hm hf => ⟨hm, fun r hin => by
    obtain hin | hin := hin
    · exact hf r (.inl hin)
    · obtain ⟨q, hq, hqr⟩ := hl r hin
      exact hqr.pads (hf q (.inr hq))⟩⟩

theorem State.Keeps.filterIncoming (h : s.Keeps t) {p : Rank → Bool} :
    s.Keeps { cur, trapped, agenda, pcp, inputs, net, out, free, nextId, nextAge, pkgid, clavail, partcfg, sptroot, supgen, l2ctl, nring,
              nhead, ntail, notices, frameStates, fstBase, locks, faultq, home, held, place, jobs, cmds, trees, migPlanes, granary,
              fabric, conns, host, services, pubs, corrected, dropped, boot := t.boot, mem := t.mem, hostMem := t.hostMem,
              ranks := t.ranks, slots := t.slots, incoming := t.incoming.filter p } :=
  h.withIncoming fun r hr => ⟨r, (List.mem_filter.mp hr).1, .refl r⟩

theorem State.Keeps.mapSlots (h : s.Keeps t) {f : Slot → Slot} (hf : ∀ l, Slot.Keeps l (f l)) :
    s.Keeps { cur, trapped, agenda, pcp, inputs, net, out, free, nextId, nextAge, pkgid, clavail, partcfg, sptroot, supgen, l2ctl, nring,
              nhead, ntail, notices, frameStates, fstBase, locks, faultq, home, held, place, jobs, cmds, trees, migPlanes, granary,
              fabric, conns, host, services, pubs, corrected, dropped, boot := t.boot, mem := t.mem, hostMem := t.hostMem,
              ranks := t.ranks, slots := t.slots.map f, incoming := t.incoming } :=
  h.trans ⟨rfl, id, fun ⟨hm, hh, hs⟩ hfr => ⟨⟨hm, hh, fun j => by
    have hj := hs j
    simp only [State.slot, Vector.getElem?_map] at hj ⊢
    cases hx : t.slots[j]? with
    | none => exact ⟨rfl, rfl⟩
    | some l => rw [hx] at hj; exact ⟨(hf l).pads hj.1 hj.2, (hf l).shadow hj.1 hj.2⟩⟩, hfr⟩⟩

theorem State.Keeps.withMem (h : s.Keeps t) {m : Memory} (hm : Memory.wf t.mem = true → Memory.wf m = true) :
    s.Keeps { cur, trapped, agenda, pcp, inputs, net, out, free, nextId, nextAge, pkgid, clavail, partcfg, sptroot, supgen, l2ctl, nring,
              nhead, ntail, notices, frameStates, fstBase, locks, faultq, home, held, place, jobs, cmds, trees, migPlanes, granary,
              fabric, conns, host, services, pubs, corrected, dropped, boot := t.boot, mem := m, hostMem := t.hostMem,
              ranks := t.ranks, slots := t.slots, incoming := t.incoming } :=
  h.trans ⟨rfl, id, fun ⟨hw, hh, hs⟩ hf => ⟨⟨hm hw, hh, hs⟩, hf⟩⟩

theorem State.Keeps.withHostMem (h : s.Keeps t) {m : Memory} (hm : Memory.wf t.hostMem = true → Memory.wf m = true) :
    s.Keeps { cur, trapped, agenda, pcp, inputs, net, out, free, nextId, nextAge, pkgid, clavail, partcfg, sptroot, supgen, l2ctl, nring,
              nhead, ntail, notices, frameStates, fstBase, locks, faultq, home, held, place, jobs, cmds, trees, migPlanes, granary,
              fabric, conns, host, services, pubs, corrected, dropped, boot := t.boot, mem := t.mem, hostMem := m,
              ranks := t.ranks, slots := t.slots, incoming := t.incoming } :=
  h.trans ⟨rfl, id, fun ⟨hw, hh, hs⟩ hf => ⟨⟨hw, hm hh, hs⟩, hf⟩⟩

end

theorem State.Keeps.modRank (h : s.Keeps t) {vr : Nat} {f : Rank → Rank} (hf : ∀ r : Rank, r.Keeps (f r)) : s.Keeps (t.modRank vr f) :=
  h.mapRanks fun r => by split; exacts [hf r, .refl r]

section
variable {r q : Rank} {job : Nat} {place : RPlace} {phaseno stepno : Word} {stepSt : StepSt}
    {ptroot ovf ovfForce engways jobseed frpool : Word} {frames : List FrameSlot} {gen : Word} {stephold : Bool} {wtbl : Vector Word 16}
    {walLimit walOut : Vector (BitVec 16) 16} {sched : Sched} {completions : Vector Completion 64} {graphs : List (Nat × Graph)}
    {replays : List (Nat × BitVec 32)} {migSwap : Bool} {copyPlanes collPlanes granPlanes : Planes} {landing : List Chunk}
    {sbuf : List BStore} {engView : List EWrites} {posted : List PostedW} {accesses : List Access} {coupling : Option Nat}
    {pagedOnce : List (Nat × Nat)} {walk closing abroad : Bool}

theorem Rank.Keeps.rest (h : r.Keeps q) :
    r.Keeps { job, place, phaseno, stepno, stepSt, ptroot, ovf, ovfForce, engways, jobseed, frpool, frames, gen, stephold, wtbl, walLimit,
              walOut, sched, completions, graphs, replays, migSwap, copyPlanes, collPlanes, granPlanes, landing, sbuf, engView, posted,
              accesses, coupling, pagedOnce, walk, closing, abroad, vr := q.vr, gangs := q.gangs } :=
  ⟨h.vr, h.pads⟩

theorem Rank.Keeps.withGangs (h : r.Keeps q) {l : List Gang} (hl : ∀ g ∈ l, (∃ x ∈ q.gangs, g.pads = x.pads) ∨ g.pads = []) :
    r.Keeps { job, place, phaseno, stepno, stepSt, ptroot, ovf, ovfForce, engways, jobseed, frpool, frames, gen, stephold, wtbl, walLimit,
              walOut, sched, completions, graphs, replays, migSwap, copyPlanes, collPlanes, granPlanes, landing, sbuf, engView, posted,
              accesses, coupling, pagedOnce, walk, closing, abroad, vr := q.vr, gangs := l } :=
  h.trans ⟨rfl, fun hq g hg => by
    obtain ⟨x, hx, hgx⟩ | hg := hl g hg
    · rw [hgx]; exact hq x hx
    · rw [hg]; rfl⟩

theorem Rank.Keeps.mapGangs (h : r.Keeps q) {f : Gang → Gang} (hf : ∀ g, (f g).pads = g.pads) :
    r.Keeps { job, place, phaseno, stepno, stepSt, ptroot, ovf, ovfForce, engways, jobseed, frpool, frames, gen, stephold, wtbl, walLimit,
              walOut, sched, completions, graphs, replays, migSwap, copyPlanes, collPlanes, granPlanes, landing, sbuf, engView, posted,
              accesses, coupling, pagedOnce, walk, closing, abroad, vr := q.vr, gangs := q.gangs.map f } :=
  h.withGangs fun g hg => by
    obtain ⟨x, hx, rfl⟩ := List.mem_map.mp hg
    exact .inl ⟨x, hx, hf x⟩

theorem Rank.Keeps.filterGangs (h : r.Keeps q) {p : Gang → Bool} :
    r.Keeps { job, place, phaseno, stepno, stepSt, ptroot, ovf, ovfForce, engways, jobseed, frpool, frames, gen, stephold, wtbl, walLimit,
              walOut, sched, completions, graphs, replays, migSwap, copyPlanes, collPlanes, granPlanes, landing, sbuf, engView, posted,
              accesses, coupling, pagedOnce, walk, closing, abroad, vr := q.vr, gangs := q.gangs.filter p } :=
  h.withGangs fun g hg => .inl ⟨g, (List.mem_filter.mp hg).1, rfl⟩

end

theorem Rank.Keeps.modGang {r q : Rank} (h : r.Keeps q) {g : Nat} {f : Gang → Gang} (hf : ∀ x, (f x).pads = x.pads) :
    r.Keeps (q.modGang g f) :=
  h.mapGangs fun x => by split; exacts [hf x, rfl]

theorem State.Keeps.modGang (h : s.Keeps t) {vr g : Nat} {f : Gang → Gang} (hf : ∀ x, (f x).pads = x.pads) :
    s.Keeps (t.modGang vr g f) := h.modRank fun r => (Rank.Keeps.refl r).modGang hf

theorem State.Keeps.modCore (h : s.Keeps t) {r : SRef} {f : Core → Core} : s.Keeps (t.modCore r f) := h.modGang fun _ => rfl

theorem State.Keeps.modStrand (h : s.Keeps t) {r : SRef} {f : Strand → Strand} : s.Keeps (t.modStrand r f) := h.modCore

theorem State.Keeps.foldl {α : Type} (h : s.Keeps t) {f : State → α → State} (hf : ∀ u x, s.Keeps u → s.Keeps (f u x)) {l : List α} :
    s.Keeps (l.foldl f t) := by
  induction l generalizing t with
  | nil => exact h
  | cons x l ih => exact ih (hf t x h)

theorem State.slot_modSlot_out (s : State) {k : Nat} (j : Nat) (f : Slot → Slot) (hk : ¬ k < 16) : (s.modSlot k f).slot j = s.slot j := by
  simp only [State.slot, State.modSlot, Vector.getElem?_setIfInBounds]
  obtain rfl | hj := eq_or_ne k j
  · simp [hk]
  · rw [if_neg hj]

theorem State.Keeps.modSlot (h : s.Keeps t) {k : Nat} {f : Slot → Slot} (hf : ∀ l, Slot.Keeps l (f l)) : s.Keeps (t.modSlot k f) := by
  refine h.trans ⟨rfl, id, fun ⟨hm, hh, hs⟩ hfr => ⟨⟨hm, hh, fun j => ?_⟩, hfr⟩⟩
  by_cases hk : k < 16
  · rw [State.slot_modSlot _ _ _ _ hk]
    split
    · exact ⟨(hf _).pads (hs k).1 (hs k).2, (hf _).shadow (hs k).1 (hs k).2⟩
    · exact hs j
  · rw [State.slot_modSlot_out _ _ _ hk]
    exact hs j

theorem Slot.Keeps.rest {k l : Slot} (h : k.Keeps l) {occupant : Option Nat} {hqbase hqptr hqctl : Word} {rings : List (Nat × Word)}
    {gated : Bool} : k.Keeps { occupant, hqbase, hqptr, hqctl, rings, gated, pads := l.pads, shadow := l.shadow } := ⟨h.pads, h.shadow⟩

/-! ### The canonical form of memories put together from parts -/

/-- The bytes of a memory are in rising order of address, none of them 0. -/
def Memory.Rising (m : Memory) : Prop := (∀ c ∈ m, c.2 ≠ 0) ∧ m.Pairwise fun c d => c.1 < d.1

theorem memWfFrom_iff {lo : Nat} {m : Memory} : memWfFrom lo m = true ↔ (∀ c ∈ m, lo ≤ c.1) ∧ Memory.Rising m := by
  unfold Memory.Rising
  induction m generalizing lo with
  | nil => simp [memWfFrom]
  | cons c m ih =>
    simp only [memWfFrom, Bool.and_eq_true, decide_eq_true_eq, bne_iff_ne, ih, List.forall_mem_cons, List.pairwise_cons]
    constructor
    · rintro ⟨⟨hlo, hc⟩, hm, hne, hp⟩
      exact ⟨⟨hlo, fun d hd => by have := hm d hd; omega⟩, ⟨hc, hne⟩, hm, hp⟩
    · rintro ⟨⟨hlo, -⟩, ⟨hc, hne⟩, hm, hp⟩
      exact ⟨⟨hlo, hc⟩, hm, hne, hp⟩

theorem wf_iff_rising {m : Memory} : m.wf = true ↔ Memory.Rising m := by
  simp [Memory.wf, memWfFrom_iff]

theorem wf_filter {m : Memory} (h : m.wf = true) (p : Nat × Byte → Bool) : Memory.wf (m.filter p) = true := memWfFrom_filter p m 0 h

theorem wf_append {m n : Memory} (hm : m.wf = true) (hn : n.wf = true) (h : ∀ c ∈ m, ∀ d ∈ n, c.1 < d.1) :
    Memory.wf (m ++ n) = true := by
  rw [wf_iff_rising] at *
  obtain ⟨hm0, hmr⟩ := hm
  obtain ⟨hn0, hnr⟩ := hn
  exact ⟨fun c hc => (List.mem_append.mp hc).elim (hm0 c) (hn0 c), List.pairwise_append.mpr ⟨hmr, hnr, h⟩⟩

theorem wf_mapAddr {m : Memory} (h : m.wf = true) {f : Nat → Nat} (hf : ∀ c ∈ m, ∀ d ∈ m, c.1 < d.1 → f c.1 < f d.1) :
    Memory.wf (m.map fun c => (f c.1, c.2)) = true := by
  rw [wf_iff_rising] at *
  obtain ⟨h0, hr⟩ := h
  refine ⟨?_, List.pairwise_map.mpr (hr.imp_of_mem fun hc hd => hf _ hc _ hd)⟩
  intro d hd
  obtain ⟨c, hc, rfl⟩ := List.mem_map.mp hd
  exact h0 c hc

theorem mem_memPart {m : Memory} {a n : Nat} {c : Nat × Byte} : c ∈ memPart m a n ↔ c ∈ m ∧ a ≤ c.1 ∧ c.1 < a + n := by
  simp [memPart]

/-- A part of a memory moved to address 0. -/
theorem wf_memPart_sub {m : Memory} (h : m.wf = true) (a n : Nat) :
    Memory.wf ((memPart m a n).map fun c => (c.1 - a, c.2)) = true :=
  wf_mapAddr (wf_memPart h a n) (f := fun x => x - a) fun c hc d _ hlt => by
    have hca := (mem_memPart.mp hc).2.1
    omega

theorem addr_memPart_sub {m : Memory} {a n : Nat} {c : Nat × Byte} (h : c ∈ (memPart m a n).map fun c => (c.1 - a, c.2)) : c.1 < n := by
  obtain ⟨d, hd, rfl⟩ := List.mem_map.mp h
  obtain ⟨-, hge, hlt⟩ := mem_memPart.mp hd
  dsimp only
  omega

theorem memWfFrom_bytesMem (a : Nat) (l : List Byte) : memWfFrom a (bytesMem a l) = true := by
  induction l generalizing a with
  | nil => rfl
  | cons b l ih =>
    unfold bytesMem
    split
    · exact memWfFrom_mono (ih (a + 1)) (by omega)
    · next hb => simpa [memWfFrom, ih (a + 1)] using hb

theorem wf_bytesMem (a : Nat) (l : List Byte) : Memory.wf (bytesMem a l) = true := memWfFrom_mono (memWfFrom_bytesMem a l) (by omega)

theorem wf_physPaste {m part : Memory} (h : m.wf = true) (hp : part.wf = true) (a n : Nat) : (physPaste m a n part).wf = true := by
  unfold physPaste
  refine wf_append (wf_append (wf_filter h _) (wf_filter (wf_mapAddr (wf_memPart hp 0 n) (f := (a + ·)) ?_) _) ?_) (wf_filter h _) ?_
  · intro c _ d _ hlt
    omega
  · intro c hc d hd
    obtain ⟨e, -, rfl⟩ := List.mem_map.mp (List.mem_filter.mp hd).1
    have hca := of_decide_eq_true (List.mem_filter.mp hc).2
    dsimp only
    omega
  · intro c hc d hd
    have hda := of_decide_eq_true (List.mem_filter.mp hd).2
    obtain hc | hc := List.mem_append.mp hc
    · have hca := of_decide_eq_true (List.mem_filter.mp hc).2
      omega
    · obtain ⟨e, he, rfl⟩ := List.mem_map.mp (List.mem_filter.mp hc).1
      have hlt := (mem_memPart.mp he).2.2
      dsimp only
      omega

theorem wf_putCores {m pads : Memory} (h : m.wf = true) (hp : pads.wf = true) (rings : List (Nat × Word)) (a : Nat) (l : List Core) :
    (putCores m pads rings a l).wf = true := by
  induction l generalizing m a with
  | nil => exact h
  | cons k l ih =>
    refine ih (wf_physPaste h (wf_append (wf_memPart_sub hp _ _) (wf_bytesMem _ _) fun c hc d hd => ?_) _ _) _
    have hc0 := addr_memPart_sub hc
    have hd0 := (memWfFrom_iff.mp (memWfFrom_bytesMem _ _)).1 d hd
    omega

theorem wf_padsFrom {m src : Memory} (h : m.wf = true) (hs : src.wf = true) (l : List Nat) : (padsFrom m src l).wf = true := by
  induction l generalizing m with
  | nil => exact h
  | cons n l ih =>
    refine ih (wf_append (wf_append (wf_filter h _) (wf_memPart hs _ _) fun c hc d hd => ?_) (wf_filter h _) fun c hc d hd => ?_)
    · have hca := of_decide_eq_true (List.mem_filter.mp hc).2
      have hda := (mem_memPart.mp hd).2.1
      omega
    · have hda := of_decide_eq_true (List.mem_filter.mp hd).2
      obtain hc | hc := List.mem_append.mp hc
      · have hca := of_decide_eq_true (List.mem_filter.mp hc).2
        omega
      · have hca := (mem_memPart.mp hc).2.2
        omega

/-- A fold whose every step keeps the canonical form keeps it. -/
theorem wf_foldl {α : Type} {m : Memory} (h : m.wf = true) {f : Memory → α → Memory} (hf : ∀ n x, Memory.wf n = true → (f n x).wf = true)
    (l : List α) : (l.foldl f m).wf = true := by
  induction l generalizing m with
  | nil => exact h
  | cons x l ih => exact ih (hf m x h)

theorem wf_memCanon (l : Memory) : (memCanon l).wf = true := wf_foldl wf_nil (fun _ c hn => wf_memWrite hn c.1 c.2) l

theorem wf_viewMem {s : State} (h : s.mem.wf = true) (r : SRef) : (s.viewMem r).wf = true := by
  unfold State.viewMem
  split
  · exact h
  · refine wf_foldl (wf_foldl h (fun m b hm => ?_) _) (fun m w hm => wf_foldl hm (fun m e hm => ?_) _) _
    · split
      exacts [wf_physPut hm _ _, hm]
    · split
      exacts [wf_physWrite hm _ _, hm]

theorem wf_putOwn {m : Memory} (h : m.wf = true) (w : EByte) : (putOwn m w).wf = true := by
  unfold putOwn
  split
  exacts [wf_memWrite h _ _, h]

/-! ### Lists without repetition -/

theorem length_eraseDups_le {α : Type} [BEq α] (l : List α) : l.eraseDups.length ≤ l.length := by
  induction hn : l.length using Nat.strong_induction_on generalizing l with
  | _ n ih =>
    cases l with
    | nil => simp
    | cons a l =>
      subst hn
      rw [List.eraseDups_cons]
      have hfilter := List.length_filter_le (fun b => !b == a) l
      have hrest := ih _ (by simpa using Nat.lt_succ_of_le hfilter) (l.filter fun b => !b == a) rfl
      simp only [List.length_cons]
      omega

/-- A list is without repetition when nothing is lost with the repetitions. -/
theorem nodup_of_length_eraseDups {α : Type} [BEq α] [LawfulBEq α] {l : List α} (h : l.eraseDups.length = l.length) : l.Nodup := by
  induction l with
  | nil => exact List.nodup_nil
  | cons a l ih =>
    rw [List.eraseDups_cons] at h
    have hle := length_eraseDups_le (l.filter fun b => !b == a)
    have hfilter := List.length_filter_le (fun b => !b == a) l
    simp only [List.length_cons] at h
    have hall := List.filter_eq_self.mpr (List.length_filter_eq_length_iff.mp (show (l.filter fun b => !b == a).length = l.length by omega))
    have hmem := List.length_filter_eq_length_iff.mp (show (l.filter fun b => !b == a).length = l.length by omega)
    rw [hall] at h
    exact List.nodup_cons.mpr ⟨fun ha => by simpa using hmem a ha, ih (by omega)⟩

/-! ### Further rules of what is kept -/

section
variable {r q : Rank}

theorem Rank.Keeps.foldl {α : Type} (h : r.Keeps q) {f : Rank → α → Rank} (hf : ∀ p x, r.Keeps p → r.Keeps (f p x)) {l : List α} :
    r.Keeps (l.foldl f q) := by
  induction l generalizing q with
  | nil => exact h
  | cons x l ih => exact ih (hf q x h)

/-- Saved scratchpads of the gangs of a rank, each in canonical form. -/
def Rank.PadsWf (r : Rank) : Prop := ∀ g ∈ r.gangs, Memory.wf g.pads = true

theorem Rank.PadsWf.mapGangs (h : r.PadsWf) {f : Gang → Gang} (hf : ∀ g, Memory.wf g.pads = true → Memory.wf (f g).pads = true) {q : Rank}
    (hq : q.gangs = r.gangs.map f) : q.PadsWf := by
  intro g hg
  rw [hq] at hg
  obtain ⟨x, hx, rfl⟩ := List.mem_map.mp hg
  exact hf x (h x hx)

theorem Rank.Keeps.padsWf (h : r.Keeps q) (hr : r.PadsWf) : q.PadsWf := h.pads hr

theorem State.rank?_mem {vr : Nat} (h : s.rank? vr = some r) : r ∈ s.ranks := List.mem_of_find?_eq_some h

theorem State.FramesWf.rank (h : s.FramesWf) {vr : Nat} (hr : s.rank? vr = some r) : r.PadsWf := h r (.inl (State.rank?_mem hr))

theorem State.FramesWf.gang (h : s.FramesWf) {vr g : Nat} {x : Gang} (hx : s.gang? vr g = some x) : Memory.wf x.pads = true := by
  unfold State.gang? at hx
  obtain ⟨r, hr, hg⟩ := Option.bind_eq_some_iff.mp hx
  exact h.rank hr x (List.mem_of_find?_eq_some hg)

/-- A change of a slot that keeps the canonical form where the state it is made from has it. -/
theorem State.Keeps.modSlotPads (h : s.Keeps t) {k : Nat} {f : Slot → Slot} (hf : s.MemWf → s.FramesWf → ∀ l, Slot.Keeps l (f l)) :
    s.Keeps (t.modSlot k f) :=
  ⟨h.boot, h.vrs, fun hm hfr => ((State.Keeps.refl t).modSlot (hf hm hfr)).forms (h.forms hm hfr).1 (h.forms hm hfr).2⟩

theorem State.Keeps.foldlMem {α : Type} (h : s.Keeps t) {f : State → α → State} {l : List α} (hf : ∀ x ∈ l, ∀ u, s.Keeps u →
    s.Keeps (f u x)) :
    s.Keeps (l.foldl f t) := by
  induction l generalizing t with
  | nil => exact h
  | cons x l ih =>
    rw [List.forall_mem_cons] at hf
    exact ih (hf.1 t h) hf.2

theorem State.vrs_modRank {vr : Nat} {f : Rank → Rank} (hf : ∀ r : Rank, r.vr = vr → (f r).vr = r.vr) :
    (t.modRank vr f).ranks.map Rank.vr = t.ranks.map Rank.vr := by
  simp only [State.modRank, List.map_map]
  refine List.map_congr_left fun r _ => ?_
  simp only [Function.comp_apply]
  split
  · next hr => exact hf r hr
  · rfl

/-- A change of ranks that keeps the canonical form where the state it is made from has it. -/
theorem State.Keeps.modRankPads (h : s.Keeps t) {vr : Nat} {f : Rank → Rank} (hv : ∀ r : Rank, r.vr = vr → (f r).vr = r.vr)
    (hp : s.MemWf → s.FramesWf → ∀ r : Rank, r.PadsWf → (f r).PadsWf) : s.Keeps (t.modRank vr f) := by
  refine ⟨h.boot, fun hn => (State.vrs_modRank hv).symm ▸ h.vrs hn, fun hm hf => ⟨(h.forms hm hf).1, ?_⟩⟩
  have hfr := (h.forms hm hf).2
  rintro r (hr | hr)
  · obtain ⟨x, hx, rfl⟩ := List.mem_map.mp hr
    split
    exacts [hp hm hf x (hfr x (.inl hx)), hfr x (.inl hx)]
  · exact hfr r (.inr hr)

theorem State.Keeps.setGang (h : s.Keeps t) {vr g : Nat} {x : Gang} (hx : s.MemWf → s.FramesWf → Memory.wf x.pads = true) :
    s.Keeps (t.modGang vr g fun _ => x) :=
  h.modRankPads (fun _ _ => rfl) fun hm hf r hr y hy => by
    obtain ⟨z, hz, rfl⟩ := List.mem_map.mp hy
    split
    exacts [hx hm hf, hr z hz]

/-- A rank that is held no longer, here or on its way. -/
theorem State.Keeps.dropRank (h : s.Keeps t) {vr place locks cmds services} :
    s.Keeps { t with ranks := t.ranks.filter fun x => x.vr != vr, incoming := t.incoming.filter fun x => x.vr != vr,
                     place := place, locks := locks, cmds := cmds, services := services } :=
  ⟨h.boot, (List.filter_sublist.map _).nodup ∘ h.vrs, fun hm hf => ⟨(h.forms hm hf).1, fun q hq =>
    (h.forms hm hf).2 q (hq.imp (fun hq => (List.mem_filter.mp hq).1) fun hq => (List.mem_filter.mp hq).1)⟩⟩

/-- A rank of a VR that is not held is added. -/
theorem State.Keeps.appendRank (h : s.Keeps t) {r : Rank} (hnew : (s.ranks.map Rank.vr).Nodup → r.vr ∉ t.ranks.map Rank.vr)
    (hr : r.PadsWf) : s.Keeps { t with ranks := t.ranks ++ [r] } := by
  refine ⟨h.boot, fun hv => ?_, fun hm hf => ⟨(h.forms hm hf).1, ?_⟩⟩
  · rw [List.map_append, List.nodup_append]
    refine ⟨h.vrs hv, List.nodup_singleton _, fun a ha b hb hab => hnew hv ?_⟩
    exact List.mem_singleton.mp hb ▸ hab ▸ ha
  · rintro q (hq | hq)
    · obtain hq | hq := List.mem_append.mp hq
      · exact (h.forms hm hf).2 q (.inl hq)
      · exact List.mem_singleton.mp hq ▸ hr
    · exact (h.forms hm hf).2 q (.inr hq)

/-- The next state that a decision about a bundle names, if it names one, keeps what `s` has. -/
def State.KeepsAct (s : State) : BundleAct → Prop
  | .trap u => s.Keeps u
  | .issue u => s.Keeps u
  | _ => True

theorem State.KeepsAct.ite {c : Prop} [Decidable c] {a b : BundleAct} (ha : s.KeepsAct a) (hb : s.KeepsAct b) :
    s.KeepsAct (if c then a else b) := by
  split; exacts [ha, hb]

theorem State.KeepsAct.act (f : ColFail) (word : Nat) (bits : BitVec 32) : s.KeepsAct (f.act word bits) := by
  cases f <;> trivial

end

/-! ### The named updates of the state and the instructions made of them -/

theorem State.Keeps.freeBytes (h : s.Keeps t) {n} : s.Keeps (t.freeBytes n).2 := by
  unfold State.freeBytes
  exact h.rest

theorem State.Keeps.elapse (h : s.Keeps t) : s.Keeps (t.elapse).2 := by
  unfold State.elapse
  exact h.rest

theorem State.Keeps.padPut (h : s.Keeps t) {slot core off bs} : s.Keeps (t.padPut slot core off bs) := by
  unfold State.padPut
  exact .modSlot h (fun _ => ⟨fun hp _ => wf_memPut hp _ _, fun _ hs => hs⟩)

theorem State.Keeps.setRing (h : s.Keeps t) {vr core n v} : s.Keeps (t.setRing vr core n v) := by
  unfold State.setRing
  split
  exacts [.modSlot h (fun _ => .rest (.refl _)), h]

theorem State.Keeps.bufferStore (h : s.Keeps t) {vr b} : s.Keeps (t.bufferStore vr b) := by
  unfold State.bufferStore
  exact .mapRanks h (fun _ => .ite (.rest (.refl _)) (.refl _))

theorem State.Keeps.storeScratch (h : s.Keeps t) {r slot addr bs} : s.Keeps (t.storeScratch r slot addr bs) := by
  unfold State.storeScratch
  split
  exacts [h.padPut, h.bufferStore, h]

theorem State.Keeps.streamFault (h : s.Keeps t) {r z f} : s.Keeps (t.streamFault r z f) := by
  unfold State.streamFault
  exact h.modCore

theorem State.Keeps.deliverEntry (h : s.Keeps t) {r z slot cores st rows} : s.Keeps (t.deliverEntry r z slot cores st rows) := by
  unfold State.deliverEntry
  dsimp only
  split
  exacts [h.streamFault, h.streamFault, h.modCore]

theorem State.Keeps.writeElems (h : s.Keeps t) {r slot sz data l} : s.Keeps (t.writeElems r slot sz data l) := by
  induction l generalizing t with
  | nil => exact h
  | cons _ _ ih => exact ih h.storeScratch

theorem State.Keeps.drainEntry (h : s.Keeps t) {r z slot cores st e rows} : s.Keeps (t.drainEntry r z slot cores st e rows) := by
  unfold State.drainEntry
  dsimp only
  split
  · exact h.streamFault
  · split
    exacts [h.streamFault, h.writeElems.modCore]

theorem State.Keeps.finishEntry (h : s.Keeps t) {r z slot cores st rows} : s.Keeps (t.finishEntry r z slot cores st rows) := by
  unfold State.finishEntry
  split
  · exact h.deliverEntry
  · split
    exacts [h.drainEntry, h]

theorem State.Keeps.takeIndices (h : s.Keeps t) {r z qi rows n} : s.Keeps (t.takeIndices r z qi rows n) := by
  induction n generalizing t with
  | zero => exact h
  | succ n ih =>
    unfold State.takeIndices
    dsimp only
    split
    · exact h
    · refine .ite h ?_
      split
      · exact h
      · refine .ite h ?_
        split
        exacts [h.modCore.streamFault, ih h.modCore]

theorem State.Keeps.streamDone (h : s.Keeps t) {r z} : s.Keeps (t.streamDone r z) := by
  unfold State.streamDone
  exact h.modCore

theorem State.Keeps.streamEndDone (h : s.Keeps t) {r z} : s.Keeps (t.streamEndDone r z) := by
  unfold State.streamEndDone
  exact h.modCore

theorem State.Keeps.streamAct (h : s.Keeps t) {r z slot cores st} : s.Keeps (t.streamAct r z slot cores st) := by
  have hu : ∀ qi n m, s.Keeps (t.takeIndices r z qi n m) := fun _ _ _ => h.takeIndices
  rw [State.streamAct]
  split
  · refine .ite h.streamDone ?_
    dsimp only
    split
    · exact hu _ _ _
    · exact .ite (hu _ _ _) (.ite (hu _ _ _).finishEntry (.ite (hu _ _ _).streamDone (.ite (hu _ _ _).finishEntry.streamEndDone (hu _ _ _))))
  · refine .ite h.streamDone (.ite ?_ ?_)
    · simp only
      split
      · exact h.streamFault
      · exact h.modCore
    · split
      · exact h.streamFault
      · exact h.finishEntry
  · exact .ite h.streamDone h.finishEntry
  · exact h.finishEntry

theorem State.Keeps.stopStream (h : s.Keeps t) {r z} : s.Keeps (t.stopStream r z) := by
  unfold State.stopStream
  dsimp only
  split
  exacts [.modCore (.ite h.finishEntry h), h]

theorem State.Keeps.stopStreams (h : s.Keeps t) {r i} : s.Keeps (t.stopStreams r i) := by
  unfold State.stopStreams
  split
  exacts [.foldl h (fun _ _ h2 => h2.stopStream), .foldl h (fun _ _ h2 => h2.stopStream), h]

theorem State.Keeps.complete (h : s.Keeps t) {size st} : s.Keeps (t.complete size st) := by
  unfold State.complete
  exact h.modStrand

theorem State.Keeps.retire (h : s.Keeps t) {st} : s.Keeps (t.retire st) := by
  unfold State.retire
  exact h.complete

theorem State.Keeps.writeReg (h : s.Keeps t) {d v} : s.KeepsNext (t.writeReg d v) := by
  unfold State.writeReg
  exact .acting (fun _ => h.retire)

theorem State.Keeps.transfer (h : s.Keeps t) {st t'} : s.Keeps (t.transfer st t') := by
  unfold State.transfer
  exact h.modStrand

theorem State.Keeps.hold (h : s.Keeps t) {w} : s.Keeps (t.hold w) := by
  unfold State.hold
  exact h.modStrand

theorem State.Keeps.holdFor (h : s.Keeps t) {w limit} : s.Keeps (t.holdFor w limit) := by
  unfold State.holdFor
  exact h.modStrand

theorem State.Keeps.fresh (h : s.Keeps t) : s.Keeps (t.fresh).2 := by
  unfold State.fresh
  exact h.rest

theorem State.Keeps.putNotice (h : s.Keeps t) {n} : s.Keeps (t.putNotice n) := by
  unfold State.putNotice
  dsimp only
  refine .withMem h fun hm => ?_
  exact wf_physPut hm _ _

theorem State.Keeps.notify (h : s.Keeps t) {n} : s.Keeps (t.notify n) := by
  unfold State.notify
  exact .ite h.putNotice h.rest

theorem Rank.Keeps.retireRecord {r q : Rank} (h : r.Keeps q) {slot num abandoned} : r.Keeps (q.retireRecord slot num abandoned) := by
  unfold Rank.retireRecord
  split
  exacts [h, .ite h h.rest]

theorem Rank.Keeps.retireGang {r q : Rank} (h : r.Keeps q) {l abandoned} : r.Keeps (q.retireGang l abandoned) := by
  unfold Rank.retireGang
  exact .ite h.retireRecord h

theorem Rank.Keeps.markReady {r q : Rank} (h : r.Keeps q) : r.Keeps (q.markReady) := by
  unfold Rank.markReady
  refine .mapGangs h fun _ => ?_
  split <;> exact by rfl

theorem Rank.Keeps.dropGang {r q : Rank} (h : r.Keeps q) {g} : r.Keeps (q.dropGang g) := by
  unfold Rank.dropGang
  exact h.filterGangs

theorem Rank.Keeps.settle {r q : Rank} (h : r.Keeps q) {n} : r.Keeps (q.settle n) := by
  induction n generalizing q with
  | zero => exact h.markReady
  | succ n ih =>
    unfold Rank.settle
    dsimp only
    split
    exacts [h.markReady, ih h.markReady.dropGang.retireGang]

theorem Rank.Keeps.settleAll {r q : Rank} (h : r.Keeps q) : r.Keeps (q.settleAll) := by
  unfold Rank.settleAll
  exact h.settle

theorem State.Keeps.schedFault (h : s.Keeps t) {vr case} : s.Keeps (t.schedFault vr case) := by
  unfold State.schedFault
  dsimp only
  split
  · exact h
  · refine .notify (.modRank h (fun _ => .settleAll (.mapGangs (.refl _) fun _ => ?_)))
    split <;> exact by rfl

theorem State.Keeps.putCommitted (h : s.Keeps t) {slot d bs} : s.Keeps (t.putCommitted slot d bs) := by
  unfold State.putCommitted
  split
  · exact h.modSlot fun _ => ⟨fun hp _ => wf_memPut hp _ _, fun _ hs => wf_memPut hs _ _⟩
  · exact h.withMem fun hm => wf_physPut hm _ _
  · exact h.withHostMem fun hm => wf_memPut hm _ _
  · exact h

theorem State.Keeps.undefine (h : s.Keeps t) {slot r l} : s.Keeps (t.undefine slot r l) := by
  induction l generalizing t with
  | nil => exact h
  | cons _ _ ih => exact ih (.ite h.freeBytes.putCommitted (h.freeBytes.foldl fun _ _ hu => hu.putCommitted))

theorem State.Keeps.releasePins (h : s.Keeps t) {ps} : s.Keeps (t.releasePins ps) := by
  unfold State.releasePins
  exact h.rest

theorem State.Keeps.setPlace (h : s.Keeps t) {vr e} : s.Keeps (t.setPlace vr e) := by
  unfold State.setPlace
  exact h.rest

theorem State.Keeps.tell (h : s.Keeps t) {vr} : s.Keeps (t.tell vr) := by
  unfold State.tell
  split
  exacts [.ite h.rest h, h]

theorem State.Keeps.leaveRank (h : s.Keeps t) {r} : s.Keeps (t.leaveRank r) := by
  unfold State.leaveRank
  exact h.filterRanks

theorem State.Keeps.freeSource (h : s.Keeps t) {t'} : s.Keeps (t.freeSource t') := by
  unfold State.freeSource
  dsimp only
  split
  · split
    · exact .modSlot h (fun _ => .ite (.rest (.refl _)) (.refl _))
    · split
      exacts [.leaveRank (.modSlot h (fun _ => .ite (.rest (.refl _)) (.refl _))), .modSlot h (fun _ => .ite (.rest (.refl _)) (.refl _))]
  · split
    · exact h
    · split
      exacts [h.leaveRank, h]

theorem State.Keeps.abandonMigr (h : s.Keeps t) {c} : s.Keeps (t.abandonMigr c) := by
  unfold State.abandonMigr
  dsimp only
  split
  exacts [.ite (.tell (.setPlace (.modRank h (fun _ => .rest (.refl _))))) (.ite h.freeSource h), h]

theorem State.Keeps.discardCmds (h : s.Keeps t) {p} : s.Keeps (t.discardCmds p) := by
  unfold State.discardCmds
  dsimp only
  exact .foldl h.rest (fun _ _ h1 => h1.undefine.releasePins.abandonMigr)

theorem State.Keeps.endGang (h : s.Keeps t) {vr g} : s.Keeps (t.endGang vr g) := by
  unfold State.endGang
  dsimp only
  split
  · exact h
  · split
    exacts [.schedFault (.modRank (.discardCmds (.ite (.foldl h (fun _ _ h7 => h7.stopStreams.stopStreams)) h)) (fun _ =>
        .settleAll (.retireGang (.dropGang (.refl _))))), .modRank (.discardCmds (.ite (.foldl h (fun _ _ h6 =>
        h6.stopStreams.stopStreams)) h)) (fun _ => .settleAll (.retireGang (.dropGang (.refl _))))]

theorem State.Keeps.killNotice (h : s.Keeps t) {r kind t'} : s.Keeps (t.killNotice r kind t') := by
  unfold State.killNotice
  dsimp only
  split
  exacts [h, h.endGang.notify]

theorem State.Keeps.trapEntry (h : s.Keeps t) {r cause val detail src zidx ret} : s.Keeps (t.trapEntry r cause val detail src zidx ret) := by
  unfold State.trapEntry
  dsimp only
  split
  exacts [h, .ite h.rest.killNotice (.ite h.rest.killNotice h.rest.modStrand)]

theorem State.Keeps.trap (h : s.Keeps t) {st cause val detail} : s.Keeps (t.trap st cause val detail) := by
  unfold State.trap
  exact h.trapEntry

theorem State.Keeps.illop (h : s.Keeps t) {st i} : s.Keeps (t.illop st i) := by
  unfold State.illop
  exact h.trap

theorem State.Keeps.priv (h : s.Keeps t) {st i} : s.Keeps (t.priv st i) := by
  unfold State.priv
  exact h.trap

theorem State.Keeps.postRefusal (h : s.Keeps t) {r va detail} : s.Keeps (t.postRefusal r va detail) := by
  unfold State.postRefusal
  exact h.modStrand

theorem State.Keeps.orByte (h : s.Keeps t) {a bits} : s.Keeps (t.orByte a bits) := by
  unfold State.orByte
  refine .withMem h fun hm => ?_
  exact wf_physWrite hm _ _

theorem State.Keeps.markLeaf (h : s.Keeps t) {a dirty} : s.Keeps (t.markLeaf a dirty) := by
  unfold State.markLeaf
  exact h.orByte

theorem State.Keeps.markDirty (h : s.Keeps t) {a} : s.Keeps (t.markDirty a) := by
  unfold State.markDirty
  exact h.orByte

theorem Rank.Keeps.requestHalt {r q : Rank} (h : r.Keeps q) {g slot why} : r.Keeps (q.requestHalt g slot why) := by
  unfold Rank.requestHalt
  dsimp only
  exact .rest (.modGang h (fun _ => by rfl))

theorem State.Keeps.pageGang (h : s.Keeps t) {r va detail pc} : s.Keeps (t.pageGang r va detail pc) := by
  unfold State.pageGang
  dsimp only
  split
  · split
    exacts [.ite (.modRank h (fun _ => .requestHalt (.refl _))) (.notify (.modRank (.modRank h (fun _ => .requestHalt (.refl
        _))) (fun _ => .rest (.refl _)))), .ite h (.notify (.modRank h (fun _ => .rest (.refl _))))]
  · exact h

theorem State.Keeps.fetchFail (h : s.Keeps t) {r st f} : s.Keeps (t.fetchFail r st f) := by
  unfold State.fetchFail
  split
  exacts [h.trapEntry, h.pageGang.modStrand, h]

theorem State.Keeps.ringWrite (h : s.Keeps t) {vr coreno a v} : s.Keeps (t.ringWrite vr coreno a v) := by
  unfold State.ringWrite
  split
  exacts [.modSlot h (fun _ => ⟨fun hp _ => wf_memPut hp _ _, fun _ hs => hs⟩), h]

theorem State.Keeps.aluOp (h : s.Keeps t) {d a b w f} : s.KeepsNext (t.aluOp d a b w f) := by
  unfold State.aluOp
  exact h.writeReg

theorem State.Keeps.divOp (h : s.Keeps t) {d a b w f} : s.KeepsNext (t.divOp d a b w f) := by
  unfold State.divOp
  exact .acting (fun _ => .ite h.trap h.retire)

theorem execAdd_keeps (h : s.Keeps t) {d a b w} : s.KeepsNext (execAdd d a b w t) := by
  unfold execAdd
  exact h.aluOp

theorem execSub_keeps (h : s.Keeps t) {d a b w} : s.KeepsNext (execSub d a b w t) := by
  unfold execSub
  exact h.aluOp

theorem execAnd_keeps (h : s.Keeps t) {d a b w} : s.KeepsNext (execAnd d a b w t) := by
  unfold execAnd
  exact h.aluOp

theorem execOr_keeps (h : s.Keeps t) {d a b w} : s.KeepsNext (execOr d a b w t) := by
  unfold execOr
  exact h.aluOp

theorem execXor_keeps (h : s.Keeps t) {d a b w} : s.KeepsNext (execXor d a b w t) := by
  unfold execXor
  exact h.aluOp

theorem execAndn_keeps (h : s.Keeps t) {d a b w} : s.KeepsNext (execAndn d a b w t) := by
  unfold execAndn
  exact h.aluOp

theorem execShl_keeps (h : s.Keeps t) {d a b w} : s.KeepsNext (execShl d a b w t) := by
  unfold execShl
  exact h.aluOp

theorem execShr_keeps (h : s.Keeps t) {d a b w} : s.KeepsNext (execShr d a b w t) := by
  unfold execShr
  exact h.aluOp

theorem execSar_keeps (h : s.Keeps t) {d a b w} : s.KeepsNext (execSar d a b w t) := by
  unfold execSar
  exact h.aluOp

theorem execRot_keeps (h : s.Keeps t) {d a b w} : s.KeepsNext (execRot d a b w t) := by
  unfold execRot
  exact h.aluOp

theorem execMul_keeps (h : s.Keeps t) {d a b w} : s.KeepsNext (execMul d a b w t) := by
  unfold execMul
  exact h.aluOp

theorem execMulh_keeps (h : s.Keeps t) {d a b w} : s.KeepsNext (execMulh d a b w t) := by
  unfold execMulh
  exact h.aluOp

theorem execMulhu_keeps (h : s.Keeps t) {d a b w} : s.KeepsNext (execMulhu d a b w t) := by
  unfold execMulhu
  exact h.aluOp

theorem execDiv_keeps (h : s.Keeps t) {d a b w} : s.KeepsNext (execDiv d a b w t) := by
  unfold execDiv
  exact h.divOp

theorem execDivu_keeps (h : s.Keeps t) {d a b w} : s.KeepsNext (execDivu d a b w t) := by
  unfold execDivu
  exact h.divOp

theorem execRem_keeps (h : s.Keeps t) {d a b w} : s.KeepsNext (execRem d a b w t) := by
  unfold execRem
  exact h.divOp

theorem execRemu_keeps (h : s.Keeps t) {d a b w} : s.KeepsNext (execRemu d a b w t) := by
  unfold execRemu
  exact h.divOp

theorem execMin_keeps (h : s.Keeps t) {d a b w} : s.KeepsNext (execMin d a b w t) := by
  unfold execMin
  exact h.aluOp

theorem execMax_keeps (h : s.Keeps t) {d a b w} : s.KeepsNext (execMax d a b w t) := by
  unfold execMax
  exact h.aluOp

theorem execMinu_keeps (h : s.Keeps t) {d a b w} : s.KeepsNext (execMinu d a b w t) := by
  unfold execMinu
  exact h.aluOp

theorem execMaxu_keeps (h : s.Keeps t) {d a b w} : s.KeepsNext (execMaxu d a b w t) := by
  unfold execMaxu
  exact h.aluOp

theorem execAdds_keeps (h : s.Keeps t) {d a b w} : s.KeepsNext (execAdds d a b w t) := by
  unfold execAdds
  exact h.aluOp

theorem execSubs_keeps (h : s.Keeps t) {d a b w} : s.KeepsNext (execSubs d a b w t) := by
  unfold execSubs
  exact h.aluOp

theorem execClz_keeps (h : s.Keeps t) {d a w} : s.KeepsNext (execClz d a w t) := by
  unfold execClz
  exact h.writeReg

theorem execPopc_keeps (h : s.Keeps t) {d a w} : s.KeepsNext (execPopc d a w t) := by
  unfold execPopc
  exact h.writeReg

theorem execSext_keeps (h : s.Keeps t) {d a k} : s.KeepsNext (execSext d a k t) := by
  unfold execSext
  exact h.writeReg

theorem execZext_keeps (h : s.Keeps t) {d a k} : s.KeepsNext (execZext d a k t) := by
  unfold execZext
  exact h.writeReg

theorem execAddi_keeps (h : s.Keeps t) {d a i} : s.KeepsNext (execAddi d a i t) := by
  unfold execAddi
  exact h.writeReg

theorem execAndi_keeps (h : s.Keeps t) {d a i} : s.KeepsNext (execAndi d a i t) := by
  unfold execAndi
  exact h.writeReg

theorem execOri_keeps (h : s.Keeps t) {d a i} : s.KeepsNext (execOri d a i t) := by
  unfold execOri
  exact h.writeReg

theorem execXori_keeps (h : s.Keeps t) {d a i} : s.KeepsNext (execXori d a i t) := by
  unfold execXori
  exact h.writeReg

theorem execLi_keeps (h : s.Keeps t) {d i} : s.KeepsNext (execLi d i t) := by
  unfold execLi
  exact h.writeReg

theorem execLis_keeps (h : s.Keeps t) {d i} : s.KeepsNext (execLis d i t) := by
  unfold execLis
  exact h.writeReg

theorem State.Keeps.shiftImm (h : s.Keeps t) {d a w n f} : s.KeepsNext (t.shiftImm d a w n f) := by
  unfold State.shiftImm
  exact h.writeReg

theorem execShli_keeps (h : s.Keeps t) {d a w n} : s.KeepsNext (execShli d a w n t) := by
  unfold execShli
  exact h.shiftImm

theorem execShri_keeps (h : s.Keeps t) {d a w n} : s.KeepsNext (execShri d a w n t) := by
  unfold execShri
  exact h.shiftImm

theorem execSari_keeps (h : s.Keeps t) {d a w n} : s.KeepsNext (execSari d a w n t) := by
  unfold execSari
  exact h.shiftImm

theorem execRoti_keeps (h : s.Keeps t) {d a w n} : s.KeepsNext (execRoti d a w n t) := by
  unfold execRoti
  exact h.shiftImm

theorem State.Keeps.writePred (h : s.Keeps t) {p v} : s.KeepsNext (t.writePred p v) := by
  unfold State.writePred
  exact .acting (fun _ => h.retire)

theorem execCmp_keeps (h : s.Keeps t) {p a b c w} : s.KeepsNext (execCmp p a b c w t) := by
  unfold execCmp
  exact h.writePred

theorem execCmpi_keeps (h : s.Keeps t) {p a c i} : s.KeepsNext (execCmpi p a c i t) := by
  unfold execCmpi
  exact h.writePred

theorem execPand_keeps (h : s.Keeps t) {d a b} : s.KeepsNext (execPand d a b t) := by
  unfold execPand
  exact h.writePred

theorem execPor_keeps (h : s.Keeps t) {d a b} : s.KeepsNext (execPor d a b t) := by
  unfold execPor
  exact h.writePred

theorem execPxor_keeps (h : s.Keeps t) {d a b} : s.KeepsNext (execPxor d a b t) := by
  unfold execPxor
  exact h.writePred

theorem execPandn_keeps (h : s.Keeps t) {d a b} : s.KeepsNext (execPandn d a b t) := by
  unfold execPandn
  exact h.writePred

theorem execPnot_keeps (h : s.Keeps t) {d a} : s.KeepsNext (execPnot d a t) := by
  unfold execPnot
  exact h.writePred

theorem execPmov_keeps (h : s.Keeps t) {d a} : s.KeepsNext (execPmov d a t) := by
  unfold execPmov
  exact h.writePred

theorem execPset_keeps (h : s.Keeps t) {d} : s.KeepsNext (execPset d t) := by
  unfold execPset
  exact h.writePred

theorem execPclr_keeps (h : s.Keeps t) {d} : s.KeepsNext (execPclr d t) := by
  unfold execPclr
  exact h.writePred

theorem execSel_keeps (h : s.Keeps t) {d a b p} : s.KeepsNext (execSel d a b p t) := by
  unfold execSel
  exact h.writeReg

theorem State.Keeps.branchTo (h : s.Keeps t) {st t'} : s.Keeps (t.branchTo st t') := by
  unfold State.branchTo
  exact h.transfer

theorem execBr_keeps (h : s.Keeps t) {o} : s.KeepsNext (execBr o t) := by
  unfold execBr
  exact .acting (fun _ => h.branchTo)

theorem execBrp_keeps (h : s.Keeps t) {p n o} : s.KeepsNext (execBrp p n o t) := by
  unfold execBrp
  exact .acting (fun _ => .ite h.branchTo h.retire)

theorem execCall_keeps (h : s.Keeps t) {o} : s.KeepsNext (execCall o t) := by
  unfold execCall
  exact .acting (fun _ => h.transfer)

theorem execJr_keeps (h : s.Keeps t) {d a} : s.KeepsNext (execJr d a t) := by
  unfold execJr
  dsimp only
  exact .acting (fun _ => .ite h.transfer h.trap)

theorem State.Keeps.startLoop (h : s.Keeps t) {i l count e} : s.KeepsNext (t.startLoop i l count e) := by
  unfold State.startLoop
  dsimp only
  exact .acting (fun _ => .ite h.illop (.ite h.transfer h.retire))

theorem execLpset_keeps (h : s.Keeps t) {l c e} : s.KeepsNext (execLpset l c e t) := by
  unfold execLpset
  exact h.startLoop

theorem execLpseti_keeps (h : s.Keeps t) {l c e} : s.KeepsNext (execLpseti l c e t) := by
  unfold execLpseti
  exact h.startLoop

theorem execNop_keeps (h : s.Keeps t) : s.KeepsNext (execNop t) := by
  unfold execNop
  exact .acting (fun _ => h.retire)

theorem execFeat_keeps (h : s.Keeps t) {d sel} : s.KeepsNext (execFeat d sel t) := by
  unfold execFeat
  exact h.writeReg

theorem execRdctl_keeps (h : s.Keeps t) {d c} : s.KeepsNext (execRdctl d c t) := by
  unfold execRdctl
  refine .acting (fun _ => ?_)
  split
  exacts [h.retire, h.illop]

theorem execShapeWrite_keeps (h : s.Keeps t) {a} : s.KeepsNext (execShapeWrite a t) := by
  unfold execShapeWrite
  dsimp only
  exact .acting (fun _ => .ite h.illop h.modCore.retire)

theorem execFpflagsClear_keeps (h : s.Keeps t) {a} : s.KeepsNext (execFpflagsClear a t) := by
  unfold execFpflagsClear
  dsimp only
  exact .acting (fun _ => .ite h.illop h.retire)

theorem execLoopRegisterWrite_keeps (h : s.Keeps t) {a k} : s.KeepsNext (execLoopRegisterWrite a k t) := by
  unfold execLoopRegisterWrite
  dsimp only
  exact .acting (fun _ => h.retire)

theorem execRingRegisterWrite_keeps (h : s.Keeps t) {a g} : s.KeepsNext (execRingRegisterWrite a g t) := by
  unfold execRingRegisterWrite
  dsimp only
  exact .acting (fun _ => .ite h.illop h.setRing.retire)

theorem execWalWrite_keeps (h : s.Keeps t) {a n} : s.KeepsNext (execWalWrite a n t) := by
  unfold execWalWrite
  dsimp only
  exact .acting (fun _ => .ite h.illop (.retire (.modRank h (fun _ => .rest (.refl _)))))

theorem execWrctl_keeps (h : s.Keeps t) {a c} : s.KeepsNext (execWrctl a c t) := by
  unfold execWrctl
  refine .acting (fun _ => ?_)
  split
  exacts [h.retire, h.illop]

theorem execRand_keeps (h : s.Keeps t) {d a n} : s.KeepsNext (execRand d a n t) := by
  unfold execRand
  dsimp only
  exact .acting (fun _ => h.retire)

theorem execExit_keeps (h : s.Keeps t) : s.KeepsNext (execExit t) := by
  unfold execExit
  dsimp only
  exact .acting (fun _ => .modStrand (.ite h.stopStreams.modCore h.stopStreams))

theorem execTrap_keeps (h : s.Keeps t) {n} : s.KeepsNext (execTrap n t) := by
  unfold execTrap
  exact .acting (fun _ => h.trapEntry)

theorem execWaiti_keeps (h : s.Keeps t) {n} : s.KeepsNext (execWaiti n t) := by
  unfold execWaiti
  exact .acting (fun _ => .ite h.retire h.holdFor)

theorem execWaitiExpiry_keeps (h : s.Keeps t) {r} : s.KeepsNext (execWaitiExpiry r t) := by
  unfold execWaitiExpiry
  refine .next ?_
  split
  exacts [.ite h.rest.retire h, h]

theorem execTret_keeps (h : s.Keeps t) : s.KeepsNext (execTret t) := by
  unfold execTret
  exact .acting (fun _ => .ite h.illop h.modStrand)

theorem State.Keeps.putFrame (h : s.Keeps t) {r g slot why pads rings} (hp : s.MemWf → s.FramesWf → Memory.wf pads = true) :
    s.Keeps (t.putFrame r g slot why pads rings) := by
  refine ⟨h.boot, h.vrs, fun hm hf => ?_⟩
  obtain ⟨⟨hw, hh, hs⟩, hfr⟩ := h.forms hm hf
  exact ⟨⟨wf_physPut (wf_putCores (wf_physPaste hw (wf_bytesMem _ _) _ _) (hp hm hf) _ _ _) _ _, hh, hs⟩, hfr⟩

theorem State.Keeps.reframe (h : s.Keeps t) {r} : s.Keeps (t.reframe r) := by
  unfold State.reframe
  split
  · split
    · refine .modRank (.withMem h fun hm => ?_) (fun _ => .rest (.refl _))
      exact wf_physPut hm _ _
    · exact h
  · exact h

theorem State.Keeps.forward (h : s.Keeps t) {input m} : s.Keeps (t.forward input m) := by
  unfold State.forward
  dsimp only
  split <;> exact h.rest

theorem State.Keeps.mine (h : s.Keeps t) {q m f} (hf : ∀ u, s.Keeps u → s.Keeps (f u)) : s.Keeps (t.mine q m f) := by
  unfold State.mine
  exact .ite (hf _ h) h.forward

theorem State.Keeps.send (h : s.Keeps t) {m} : s.Keeps (t.send m) := by
  unfold State.send
  exact h.forward

theorem State.Keeps.fabricEvent (h : s.Keeps t) {event rest} : s.Keeps (t.fabricEvent event rest) := by
  unfold State.fabricEvent
  exact h.notify

theorem State.Keeps.openOwn (h : s.Keeps t) {r d bs} : s.Keeps (t.openOwn r d bs).2 := by
  unfold State.openOwn
  exact h.rest

theorem State.Keeps.pickRaced (h : s.Keeps t) {r d bs} : s.Keeps (t.pickRaced r d bs).2 := by
  unfold State.pickRaced
  dsimp only
  split
  exacts [h, h.elapse]

theorem State.Keeps.openRaced (h : s.Keeps t) {r d bs} : s.Keeps (t.openRaced r d bs).2 := by
  unfold State.openRaced
  split
  exacts [h, h.pickRaced.openOwn]

theorem State.Keeps.spoil (h : s.Keeps t) {r d bs} : s.Keeps (t.spoil r d bs).2 := by
  unfold State.spoil
  dsimp only
  split
  exacts [h, h.rest.rest]

theorem Rank.Keeps.addAccess {r q : Rank} (h : r.Keeps q) {a} : r.Keeps (q.addAccess a) := by
  unfold Rank.addAccess
  exact h.rest

theorem State.Keeps.issue (h : s.Keeps t) {st op dst va holds viaHandle} : s.Keeps (t.issue st op dst va holds viaHandle) := by
  unfold State.issue
  dsimp only
  exact .ite (.hold (.modRank h.fresh (fun _ => .addAccess (.refl _)))) (.retire (.modRank h.fresh (fun _ => .addAccess (.refl _))))

theorem execSld_keeps (h : s.Keeps t) {d a sz o} : s.KeepsNext (execSld d a sz o t) := by
  unfold execSld
  dsimp only
  refine .acting (fun _ => ?_)
  split
  · exact h.trap
  · split
    exacts [h.issue, h.openRaced.retire, h.openRaced.retire, h.retire]

theorem execSst_keeps (h : s.Keeps t) {d a sz o} : s.KeepsNext (execSst d a sz o t) := by
  unfold execSst
  dsimp only
  refine .acting (fun _ => ?_)
  split
  · exact h.trap
  · split
    · split
      exacts [h, .ite h.hold (.issue (.modRank h (fun _ => .rest (.refl _))))]
    · exact h.spoil.storeScratch.retire

theorem State.Keeps.withHandle (h : s.Keeps t) {st i n f} (hf : ∀ hd, s.Keeps (f hd)) : s.Keeps (t.withHandle st i n f) := by
  unfold State.withHandle
  exact .ite h.illop (.ite h.hold (hf _))

theorem State.Keeps.handleAccess (h : s.Keeps t) {st i n need po k al f} (hf : ∀ hd, s.Keeps (f hd)) :
    s.Keeps (t.handleAccess st i n need po k al f) :=
  h.withHandle fun hd => by
    split
    exacts [h.trap, hf hd]

theorem execLd_keeps (h : s.Keeps t) {d h' x sz o} : s.KeepsNext (execLd d h' x sz o t) := by
  unfold execLd
  dsimp only
  exact .acting (fun _ => .handleAccess h (fun _ => h.issue))

theorem execSt_keeps (h : s.Keeps t) {d h' x sz o} : s.KeepsNext (execSt d h' x sz o t) := by
  unfold execSt
  dsimp only
  exact .acting (fun _ => .handleAccess h (fun _ => h.spoil.bufferStore.retire))

theorem execAtom_keeps (h : s.Keeps t) {d h' x v op w} : s.KeepsNext (execAtom d h' x v op w t) := by
  unfold execAtom
  dsimp only
  exact .acting (fun _ => .handleAccess h (fun _ => h.issue))

theorem execAcas_keeps (h : s.Keeps t) {d h' x n' w} : s.KeepsNext (execAcas d h' x n' w t) := by
  unfold execAcas
  dsimp only
  exact .acting (fun _ => .handleAccess h (fun _ => h.issue))

theorem execFxadd_keeps (h : s.Keeps t) {v h' x g} : s.KeepsNext (execFxadd v h' x g t) := by
  unfold execFxadd
  dsimp only
  exact .acting (fun _ => .handleAccess h (fun _ => h.issue))

theorem execFxrd_keeps (h : s.Keeps t) {v h' x g} : s.KeepsNext (execFxrd v h' x g t) := by
  unfold execFxrd
  dsimp only
  exact .acting (fun _ => .handleAccess h (fun _ => h.issue))

theorem State.Keeps.homePut (h : s.Keeps t) {vr a fixed l} : s.Keeps (t.homePut vr a fixed l) := by
  induction l generalizing t a with
  | nil => exact h
  | cons _ _ ih => exact ih h.rest

theorem State.Keeps.atomAt (h : s.Keeps t) {vr a op} : s.Keeps (t.atomAt vr a op).2 := by
  cases op <;> exact h.homePut

theorem State.Keeps.dropAccess (h : s.Keeps t) {id} : s.Keeps (t.dropAccess id) := by
  unfold State.dropAccess
  exact .mapRanks h (fun _ => .rest (.refl _))

theorem State.Keeps.modAccess (h : s.Keeps t) {id f} : s.Keeps (t.modAccess id f) := by
  unfold State.modAccess
  exact .mapRanks h (fun _ => .rest (.refl _))

theorem State.Keeps.endAccess (h : s.Keeps t) {a v} : s.Keeps (t.endAccess a v) := by
  unfold State.endAccess
  dsimp only
  split
  exacts [.ite h.dropAccess.rest.retire.reframe h.dropAccess, h.dropAccess]

theorem State.Keeps.loadAt (h : s.Keeps t) {k a d} : s.Keeps (t.loadAt k a d) := by
  unfold State.loadAt
  dsimp only
  split
  exacts [h.endAccess, h.openRaced.endAccess, h.endAccess]

theorem State.Keeps.cmdData (h : s.Keeps t) {id pos bs used} : s.Keeps (t.cmdData id pos bs used) := by
  unfold State.cmdData
  exact h.rest

theorem State.Keeps.refuseAccess (h : s.Keeps t) {a detail} : s.Keeps (t.refuseAccess a detail) := by
  unfold State.refuseAccess
  dsimp only
  split
  · split
    exacts [.modRank h.dropAccess (fun _ => .rest (.refl _)), h.dropAccess.cmdData, h.dropAccess]
  · split
    · refine .reframe (.trapEntry ?_)
      split
      exacts [.modRank h.dropAccess (fun _ => .rest (.refl _)), h.dropAccess.cmdData, h.dropAccess]
    · refine .postRefusal ?_
      split
      exacts [.modRank h.dropAccess (fun _ => .rest (.refl _)), h.dropAccess.cmdData, h.dropAccess]

theorem State.Keeps.sendPeer (h : s.Keeps t) {r va pkg addr order bs} : s.Keeps (t.sendPeer r va pkg addr order bs) := by
  unfold State.sendPeer
  dsimp only
  split
  exacts [.ite (.refuseAccess (.modRank h.fresh (fun _ => .addAccess (.refl _)))) (.send (.modRank h.fresh (fun _ => .addAccess
      (.refl _)))), .modRank h.fresh (fun _ => .addAccess (.refl _))]

theorem execMemoryAccessComplete_keeps (h : s.Keeps t) {id} : s.KeepsNext (execMemoryAccessComplete id t) := by
  unfold execMemoryAccessComplete
  refine .next ?_
  split
  · exact h
  · split
    · exact h
    · split
      · split
        · exact h
        · split
          exacts [h.atomAt.endAccess, h.loadAt]
      · exact h.loadAt
      · split
        · exact h
        · split
          exacts [.ite h.refuseAccess h.modAccess.send, h]

theorem execFaultQueueResend_keeps (h : s.Keeps t) {id} : s.KeepsNext (execFaultQueueResend id t) := by
  unfold execFaultQueueResend
  refine .next ?_
  split
  · exact h
  · split
    exacts [h.modAccess.send, h]

theorem execRemoteTimeout_keeps (h : s.Keeps t) {id} : s.KeepsNext (execRemoteTimeout id t) := by
  unfold execRemoteTimeout
  refine .next ?_
  split
  exacts [h, .ite h.refuseAccess h]

theorem execXlate_keeps (h : s.Keeps t) {h' a p} : s.KeepsNext (execXlate h' a p t) := by
  unfold execXlate
  dsimp only
  refine .acting (fun _ => .withHandle h (fun _ => ?_))
  split
  · exact h.trap
  · split
    · exact h.trap
    · exact h.trap
    · exact h.trap
    · exact h.pageGang.hold
    · split
      exacts [h.trap, h.markLeaf.retire]

theorem execXlateDeliver_keeps (h : s.Keeps t) {r h'} : s.KeepsNext (execXlateDeliver r h' t) := by
  unfold execXlateDeliver
  dsimp only
  refine .next ?_
  split
  · exact h
  · split
    · exact h
    · split
      · exact h
      · split
        · exact .ite h.modStrand.modCore h
        · split
          · split
            exacts [h.modStrand.trapEntry, h.modStrand.markLeaf.modCore]
          · exact h.pageGang.modStrand
          · exact h.modStrand.trapEntry
          · exact h.modStrand.trapEntry
          · exact h.modStrand.trapEntry

theorem execHrel_keeps (h : s.Keeps t) {h'} : s.KeepsNext (execHrel h' t) := by
  unfold execHrel
  exact .acting (fun _ => .withHandle h (fun _ => h.modCore.retire))

theorem execHchk_keeps (h : s.Keeps t) {h' p} : s.KeepsNext (execHchk h' p t) := by
  unfold execHchk
  exact .acting (fun _ => .withHandle h (fun _ => h.retire))

theorem execHmov_keeps (h : s.Keeps t) {h' hs} : s.KeepsNext (execHmov h' hs t) := by
  unfold execHmov
  exact .acting (fun _ => .withHandle h (fun _ => .withHandle h (fun _ => h.modCore.retire)))

theorem State.Keeps.withCore (h : s.Keeps t) {f} (hf : ∀ k, s.Keeps (f k)) : s.Keeps (t.withCore f) := by
  unfold State.withCore
  split
  exacts [hf _, h]

theorem State.Keeps.withRing (h : s.Keeps t) {st i g f} (hf : ∀ w, s.Keeps (f w)) : s.Keeps (t.withRing st i g f) := by
  unfold State.withRing
  exact .ite h.illop (hf _)

theorem State.Keeps.ringAccess (h : s.Keeps t) {st w i f} (hf : ∀ a, s.Keeps (f a)) : s.Keeps (t.ringAccess st w i f) := by
  unfold State.ringAccess
  exact .ite (hf _) h.trap

theorem execQpush_keeps (h : s.Keeps t) {d c i} : s.KeepsNext (execQpush d c i t) := by
  unfold execQpush
  dsimp only
  exact .acting (fun _ => .ite (.withRing h (fun _ => .ite h.hold (.ringAccess h (fun _ => h.ringWrite.setRing.retire)))) (.ite
      h.illop (.withCore h (fun _ => .ite h.hold (.ite h.trap h.modCore.retire)))))

theorem State.Keeps.takeEntry (h : s.Keeps t) {instr d c n pop} : s.KeepsNext (t.takeEntry instr d c n pop) := by
  unfold State.takeEntry
  dsimp only
  refine .acting (fun _ => ?_)
  split
  · exact .withRing h (fun _ => .ite h.hold (.ringAccess h (fun _ => .retire (.ite h.setRing h))))
  · split
    · exact h.illop
    · refine .withCore h (fun _ => ?_)
      split
      · exact h.illop
      · split
        exacts [.ite h.trap h.hold, .ite h.hold (.retire (.ite h.modCore h))]

theorem execQpop_keeps (h : s.Keeps t) {d c i} : s.KeepsNext (execQpop d c i t) := by
  unfold execQpop
  exact h.takeEntry

theorem execQpeek_keeps (h : s.Keeps t) {d c i} : s.KeepsNext (execQpeek d c i t) := by
  unfold execQpeek
  exact h.takeEntry

theorem execQclose_keeps (h : s.Keeps t) {i} : s.KeepsNext (execQclose i t) := by
  unfold execQclose
  dsimp only
  exact .acting (fun _ => .withCore h (fun _ => .ite h.illop (.ite (.ite h.illop h.modCore.retire) (.ite h.modCore.retire h.illop))))

theorem State.Keeps.queueWait (h : s.Keeps t) {instr c n limit room} : s.KeepsNext (t.queueWait instr c n limit room) := by
  unfold State.queueWait
  dsimp only
  exact .acting (fun _ => .ite (.withRing h (fun _ => .ite h.retire (.ite h.trap h.holdFor))) (.ite h.illop (.ite h.illop
      (.withCore h (fun _ => .ite h.retire (.ite h.trap (.ite h.trap h.holdFor)))))))

theorem execQwaitData_keeps (h : s.Keeps t) {c i l} : s.KeepsNext (execQwaitData c i l t) := by
  unfold execQwaitData
  exact h.queueWait

theorem execQwaitRoom_keeps (h : s.Keeps t) {c i l} : s.KeepsNext (execQwaitRoom c i l t) := by
  unfold execQwaitRoom
  exact h.queueWait

theorem execQtimeout_keeps (h : s.Keeps t) {r} : s.KeepsNext (execQtimeout r t) := by
  unfold execQtimeout
  dsimp only
  refine .next ?_
  split
  · split
    · exact h
    · split
      exacts [.ite h h.trapEntry, .ite h h.trapEntry, h]
  · exact h

theorem execPhase_keeps (h : s.Keeps t) : s.KeepsNext (execPhase t) := by
  unfold execPhase
  exact .acting (fun _ => h.hold)

theorem execStep_keeps (h : s.Keeps t) : s.KeepsNext (execStep t) := by
  unfold execStep
  exact .acting (fun _ => h.hold)

theorem execCfence_keeps (h : s.Keeps t) : s.KeepsNext (execCfence t) := by
  unfold execCfence
  exact .acting (fun _ => .ite h.hold h.retire)

theorem State.Keeps.withRv (h : s.Keeps t) {k f} (hf : ∀ p, s.Keeps (f p)) : s.Keeps (t.withRv k f) := by
  unfold State.withRv
  split
  exacts [hf _, h]

theorem State.Keeps.setRv (h : s.Keeps t) {k p} : s.Keeps (t.setRv k p) := by
  unfold State.setRv
  exact .modGang h (fun _ => by rfl)

theorem execRvinit_keeps (h : s.Keeps t) {a c} : s.KeepsNext (execRvinit a c t) := by
  unfold execRvinit
  exact .acting (fun _ => .withRv h (fun _ => .ite h.setRv.retire (.ite h.retire h.illop)))

theorem execRvarr_keeps (h : s.Keeps t) {a} : s.KeepsNext (execRvarr a t) := by
  unfold execRvarr
  exact .acting (fun _ => .withRv h (fun _ => .ite h.illop h.setRv.retire))

theorem execRvwait_keeps (h : s.Keeps t) {a} : s.KeepsNext (execRvwait a t) := by
  unfold execRvwait
  dsimp only
  exact .acting (fun _ => .withRv h (fun _ => .ite h.illop (.ite (.hold (.modStrand (.ite h h.setRv))) (.retire (.ite h h.setRv)))))

theorem execMark_keeps (h : s.Keeps t) {b e} : s.KeepsNext (execMark b e t) := by
  unfold execMark
  dsimp only
  exact .acting (fun _ => .withCore h (fun _ => .ite h.priv (.ite h.retire h.retire)))

theorem execMarkerRetire_keeps (h : s.Keeps t) {r e} : s.KeepsNext (execMarkerRetire r e t) := by
  unfold execMarkerRetire
  refine .next ?_
  split
  · split
    exacts [.ite h.modStrand h, h]
  · exact h

theorem execMjoin_keeps (h : s.Keeps t) {a b j} : s.KeepsNext (execMjoin a b j t) := by
  unfold execMjoin
  dsimp only
  exact .acting (fun _ => .ite h.illop (.ite h.priv h.retire))

theorem execMwait_keeps (h : s.Keeps t) {a b j} : s.KeepsNext (execMwait a b j t) := by
  unfold execMwait
  dsimp only
  refine .acting (fun _ => ?_)
  split
  exacts [h.retire, h.retire, .ite h.trap h.holdFor]

theorem execMjtimeout_keeps (h : s.Keeps t) {r} : s.KeepsNext (execMjtimeout r t) := by
  unfold execMjtimeout
  refine .next ?_
  split
  · split
    · split
      exacts [.ite h.trapEntry h, h]
    · exact h
  · exact h

theorem execAsyncTrap_keeps (h : s.Keeps t) {r} : s.KeepsNext (execAsyncTrap r t) := by
  unfold execAsyncTrap
  refine .next ?_
  split
  · split
    · exact h
    · split
      exacts [h, h.modStrand.trapEntry]
  · exact h

theorem execStrandWaitRelease_keeps (h : s.Keeps t) {r} : s.KeepsNext (execStrandWaitRelease r t) := by
  unfold execStrandWaitRelease
  refine .next ?_
  split
  · split
    · exact h
    · split
      · split
        · exact h
        · split
          exacts [h.rest.retire, h]
        · exact h.rest.retire
      · exact h.rest.retire
    · exact .ite h h.rest.retire
    · exact h.rest.retire
    · exact .ite h.modStrand h
  · exact h

theorem State.KeepsNext.asSup (h : s.Keeps t) {i f} (hf : ∀ st, s.Keeps (f st)) : s.KeepsNext (t.asSup i f) :=
  .acting fun st => .ite (hf st) h.priv

theorem State.Keeps.onSelected (h : s.Keeps t) {st i f} (hf : ∀ r, s.Keeps (f r)) : s.Keeps (t.onSelected st i f) := by
  unfold State.onSelected
  split
  · exact .ite h.hold h.illop
  · refine .ite h.hold ?_
    split
    exacts [.ite (hf _) h.priv, hf _]

theorem State.KeepsNext.asSysReg (h : s.Keeps t) {i n f} (hf : ∀ st, s.Keeps (f st)) : s.KeepsNext (t.asSysReg i n f) := by
  unfold State.asSysReg
  exact .ite (.asSup h hf) (.acting fun _ => h.illop)

theorem execRdsys_keeps (h : s.Keeps t) {d i} : s.KeepsNext (execRdsys d i t) := by
  unfold execRdsys
  refine .asSysReg h (fun _ => ?_)
  split
  exacts [h.retire, .ite (.ite h.retire h.priv) (.ite (.onSelected h (fun _ => h.retire)) h.illop)]

theorem execWrsys_keeps (h : s.Keeps t) {a i} : s.KeepsNext (execWrsys a i t) := by
  unfold execWrsys
  dsimp only
  refine .asSysReg h (fun _ => ?_)
  split
  exacts [.ite h.retire h.illop, .ite h.retire h.illop, .ite h.rest.retire h.illop, .onSelected h (fun _ => .ite (.retire
      (.modRank h (fun _ => .rest (.refl _)))) h.illop), .onSelected h (fun _ => .retire (.modRank h (fun _ => .rest (.refl
      _)))), h.illop]

theorem execL2ctlWrite_keeps (h : s.Keeps t) {a} : s.KeepsNext (execL2ctlWrite a t) := by
  unfold execL2ctlWrite
  dsimp only
  exact .asSup h (fun _ => .ite h.illop (.ite h.retire (.ite h.illop h.hold)))

theorem execNringWrite_keeps (h : s.Keeps t) {a} : s.KeepsNext (execNringWrite a t) := by
  unfold execNringWrite
  exact .asSup h (fun _ => .ite h.illop h.rest.retire)

theorem execFrpoolWrite_keeps (h : s.Keeps t) {a} : s.KeepsNext (execFrpoolWrite a t) := by
  unfold execFrpoolWrite
  exact .asSup h (fun _ => .onSelected h (fun _ => .ite h.illop (.retire (.modRank h (fun _ => .rest (.refl _))))))

theorem State.Keeps.setHold (h : s.Keeps t) {r v} : s.Keeps (t.setHold r v) := by
  unfold State.setHold
  exact .tell (.modRank h (fun _ => .rest (.refl _)))

theorem execStepholdWrite_keeps (h : s.Keeps t) {a} : s.KeepsNext (execStepholdWrite a t) := by
  unfold execStepholdWrite
  dsimp only
  exact .asSup h (fun _ => .onSelected h (fun _ => .ite h.illop h.setHold.retire))

theorem Rank.Keeps.setWtbl {r q : Rank} (h : r.Keeps q) {n v} : r.Keeps (q.setWtbl n v) := by
  unfold Rank.setWtbl
  exact h.rest

theorem execWtblWrite_keeps (h : s.Keeps t) {a n} : s.KeepsNext (execWtblWrite a n t) := by
  unfold execWtblWrite
  dsimp only
  exact .asSup h (fun _ => .onSelected h (fun _ => .ite h.illop (.ite h.hold (.retire (.modRank h (fun _ => .setWtbl (.refl _)))))))

theorem execLdovf_keeps (h : s.Keeps t) {a} : s.KeepsNext (execLdovf a t) := by
  unfold execLdovf
  dsimp only
  refine .asSup h (fun _ => ?_)
  split
  · exact h.illop
  · split
    exacts [h.illop, .ite h.priv (.retire (.modRank h (fun _ => .rest (.refl _))))]

theorem execCsave_keeps (h : s.Keeps t) {d a} : s.KeepsNext (execCsave d a t) := by
  unfold execCsave
  dsimp only
  refine .asSup h (fun _ => .onSelected h (fun _ => ?_))
  split
  · split
    · split
      exacts [.hold (.modRank h (fun _ => .requestHalt (.refl _))), h.retire]
    · exact h.retire
  · exact h.retire

theorem execCrest_keeps (h : s.Keeps t) {d a} : s.KeepsNext (execCrest d a t) := by
  unfold execCrest
  dsimp only
  refine .asSup h (fun _ => .onSelected h (fun _ => ?_))
  split
  · split
    exacts [.ite h.retire (.ite h.retire (.retire (.modRank h (fun _ => .rest (.modGang (.refl _) (fun _ => by rfl)))))), h.retire]
  · exact h.retire

theorem State.Keeps.killFor (h : s.Keeps t) {st d vr g} : s.Keeps (t.killFor st d vr g) := by
  unfold State.killFor
  dsimp only
  split
  · exact h.retire
  · split
    exacts [h.endGang.retire, h.endGang]

theorem execKill_keeps (h : s.Keeps t) {d a} : s.KeepsNext (execKill d a t) := by
  unfold execKill
  exact .asSup h (fun _ => .onSelected h (fun _ => h.killFor))

theorem execIdle_keeps (h : s.Keeps t) {d a} : s.KeepsNext (execIdle d a t) := by
  unfold execIdle
  dsimp only
  exact .asSup h (fun _ => .ite h.retire (.ite h.retire h.holdFor))

theorem execIdleExpiry_keeps (h : s.Keeps t) {r} : s.KeepsNext (execIdleExpiry r t) := by
  unfold execIdleExpiry
  refine .next ?_
  split
  · split
    exacts [.ite h.rest.retire h, h]
  · exact h

theorem State.Keeps.flushStrand (h : s.Keeps t) {r} : s.Keeps (t.flushStrand r) := by
  unfold State.flushStrand
  dsimp only
  split
  · exact h
  · refine .foldl (.modRank h (fun _ => .rest (.refl _))) (fun _ _ h2 => ?_)
    split
    exacts [h2.sendPeer, h2.putCommitted]

theorem Rank.Keeps.modCores {r q : Rank} (h : r.Keeps q) {f} : r.Keeps (q.modCores f) := by
  unfold Rank.modCores
  exact .mapGangs h (fun _ => by rfl)

theorem Rank.Keeps.shoot {r q : Rank} (h : r.Keeps q) {lo size} : r.Keeps (q.shoot lo size) := by
  unfold Rank.shoot
  exact h.modCores.rest

theorem State.Keeps.drain (h : s.Keeps t) {d v ids} : s.Keeps (t.drain d v ids) := by
  unfold State.drain
  split
  exacts [.ite h.retire h.hold, h]

theorem execShoot_keeps (h : s.Keeps t) {d a large} : s.KeepsNext (execShoot d a large t) := by
  unfold execShoot
  dsimp only
  exact .asSup h (fun _ => .onSelected h (fun _ => .ite h.trap (.drain (.modRank h.flushStrand (fun _ => .shoot (.refl _))))))

theorem execVmap_keeps (h : s.Keeps t) {d a} : s.KeepsNext (execVmap d a t) := by
  unfold execVmap
  dsimp only
  exact .asSup h (fun _ => .onSelected h (fun _ => .ite h.illop (.drain (.modRank h.flushStrand (fun _ => .shoot (.rest (.refl _)))))))

theorem State.Keeps.shootSup (h : s.Keeps t) {part lo size v} : s.Keeps (t.shootSup part lo size v) := by
  unfold State.shootSup
  exact .mapRanks h (fun _ => .ite (.refl _) (.modCores (.refl _)))

theorem execSupervisorShoot_keeps (h : s.Keeps t) {part va large} : s.KeepsNext (execSupervisorShoot part va large t) := by
  unfold execSupervisorShoot
  exact .next h.shootSup

theorem execSptrootWrite_keeps (h : s.Keeps t) {part v} : s.KeepsNext (execSptrootWrite part v t) := by
  unfold execSptrootWrite
  exact .next h.rest.shootSup

theorem State.Keeps.pcpWriteRank (h : s.Keeps t) {r i v} : s.Keeps (t.pcpWriteRank r i v) := by
  unfold State.pcpWriteRank
  exact .ite (.modRank h (fun _ => .rest (.refl _))) (.ite (.modRank h (fun _ => .rest (.refl _))) (.ite (.modRank h (fun _ =>
      .rest (.refl _))) (.ite h.setHold (.ite (.modRank h (fun _ => .setWtbl (.refl _))) h))))

theorem State.Keeps.pcpWrite (h : s.Keeps t) {vr part i v} : s.Keeps (t.pcpWrite vr part i v) := by
  unfold State.pcpWrite
  split
  · exact h.rest.shootSup
  · split
    · exact .ite h h.rest
    · split
      · exact .ite h h.rest
      · split
        · exact .ite h.rest h
        · split
          exacts [h.pcpWriteRank, h]

theorem State.Keeps.pcpTurn (h : s.Keeps t) : s.Keeps t.pcpTurn := by
  unfold State.pcpTurn
  dsimp only
  split
  · exact h
  · split
    · exact h
    · split
      exacts [h.rest.rest, h.rest.rest, h.rest.rest, h.rest.rest, h.rest.pcpWrite, h.rest, h.rest]

theorem execPlock_keeps (h : s.Keeps t) {d a} : s.KeepsNext (execPlock d a t) := by
  unfold execPlock
  dsimp only
  refine .asSup h (fun _ => .onSelected h (fun _ => ?_))
  split
  · exact h.trap
  · split
    exacts [h.trap, h.trap, h.trap, .ite h.retire h.rest.retire]

theorem execPunlock_keeps (h : s.Keeps t) {d a} : s.KeepsNext (execPunlock d a t) := by
  unfold execPunlock
  refine .asSup h (fun _ => .onSelected h (fun _ => ?_))
  split
  exacts [h.illop, h.rest.retire]

theorem execPinq_keeps (h : s.Keeps t) {d a} : s.KeepsNext (execPinq d a t) := by
  unfold execPinq
  dsimp only
  exact .asSup h (fun _ => h.retire)

theorem execNoticeWrite_keeps (h : s.Keeps t) : s.KeepsNext (execNoticeWrite t) := by
  unfold execNoticeWrite
  refine .next ?_
  split
  exacts [.ite h.rest.putNotice h, h]

theorem State.Keeps.withStream (h : s.Keeps t) {st i z f} (hf : ∀ x, s.Keeps (f x)) : s.Keeps (t.withStream st i z f) := by
  unfold State.withStream
  refine .ite h.illop ?_
  split
  exacts [hf _, h]

theorem execSdesc_keeps (h : s.Keeps t) {z x} : s.KeepsNext (execSdesc z x t) := by
  unfold execSdesc
  dsimp only
  refine .acting (fun _ => .withStream h (fun _ => ?_))
  split
  · exact h.illop
  · split
    exacts [h.trap, h.modCore.retire]

theorem execSset_keeps (h : s.Keeps t) {z f x} : s.KeepsNext (execSset z f x t) := by
  unfold execSset
  exact .acting (fun _ => .withStream h (fun _ => .ite h.illop h.padPut.retire))

theorem execSbind_keeps (h : s.Keeps t) {z q} : s.KeepsNext (execSbind z q t) := by
  unfold execSbind
  refine .acting (fun _ => .withStream h (fun _ => .withCore h (fun _ => ?_)))
  split
  exacts [h.modCore.retire, h.illop, h.trap]

theorem execSunbind_keeps (h : s.Keeps t) {z} : s.KeepsNext (execSunbind z t) := by
  unfold execSunbind
  dsimp only
  refine .acting (fun _ => .withStream h (fun _ => ?_))
  split
  · exact h.illop
  · split
    exacts [h.stopStream.retire, h.stopStream]

theorem execSstat_keeps (h : s.Keeps t) {z d} : s.KeepsNext (execSstat z d t) := by
  unfold execSstat
  exact .acting (fun _ => .withStream h (fun _ => h.retire))

theorem State.Keeps.streamTurn (h : s.Keeps t) {r z} : s.Keeps (t.streamTurn r z) := by
  unfold State.streamTurn
  dsimp only
  split
  exacts [.ite h.streamAct h, h]

theorem execLoadStreamEntry_keeps (h : s.Keeps t) {r z} : s.KeepsNext (execLoadStreamEntry r z t) := by
  unfold execLoadStreamEntry
  exact .next (.ite h.streamTurn h)

theorem execStoreStreamDrain_keeps (h : s.Keeps t) {r z} : s.KeepsNext (execStoreStreamDrain r z t) := by
  unfold execStoreStreamDrain
  exact .next (.ite h.streamTurn h)

theorem State.Keeps.buildBody (h : s.Keeps t) {u : State} {r rk k slot cls tpl} {b : Build} (hb : u.buildCmd r rk k slot cls tpl = some b) :
    s.Keeps (b.body t).2 := by
  unfold State.buildCmd at hb
  split at hb
  · unfold buildCopy at hb
    obtain ⟨-, hb⟩ := Option.ite_none_left_eq_some.mp hb
    obtain rfl := Option.some.inj hb
    exact h
  · unfold buildColl at hb
    obtain ⟨-, hb⟩ := Option.ite_none_left_eq_some.mp hb
    split at hb
    · cases hb
    · obtain ⟨-, hb⟩ := Option.ite_none_left_eq_some.mp hb
      obtain rfl := Option.some.inj hb
      exact .modRank h fun _ => .rest (.refl _)
  · unfold buildMigr at hb
    obtain ⟨-, hb⟩ := Option.ite_none_left_eq_some.mp hb
    obtain rfl := Option.some.inj hb
    exact h
  · unfold buildGather at hb
    obtain ⟨-, hb⟩ := Option.ite_none_left_eq_some.mp hb
    obtain rfl := Option.some.inj hb
    exact h

theorem State.Keeps.dirtyLeaves (h : s.Keeps t) {vr k l} : s.Keeps (t.dirtyLeaves vr k l) := by
  induction l generalizing t with
  | nil => exact h
  | cons g l ih =>
    unfold State.dirtyLeaves
    dsimp only
    split
    · refine ih (.ite h ?_)
      split
      exacts [h.markDirty, h]
    · exact ih h

theorem State.Keeps.submitFail (h : s.Keeps t) {st p f} : s.Keeps (t.submitFail st p f) := by
  unfold State.submitFail
  dsimp only
  split <;> exact h.modStrand.trapEntry

theorem State.Keeps.submit (h : s.Keeps t) {st size cls idx p amends} : s.Keeps (t.submit st size cls idx p amends) := by
  unfold State.submit
  dsimp only
  split
  · split
    · exact h.submitFail
    · next hb =>
      split
      · exact h.hold
      · split
        · exact h.submitFail
        · refine .ite h.hold ?_
          split
          · exact h.hold
          · exact .complete (.dirtyLeaves (.rest (.fresh (.buildBody h.rest hb))))
  · exact h

theorem State.Keeps.patch (h : s.Keeps t) {st size cls idx p bad} : s.Keeps (t.patch st size cls idx p bad) := by
  unfold State.patch
  dsimp only
  exact .ite h.trap (.ite h.complete h.submit)

theorem execEc_keeps (h : s.Keeps t) {c i p} : s.KeepsNext (execEc c i p t) := by
  unfold execEc
  exact .acting (fun _ => .ite h.trap (.ite h.priv h.patch))

theorem execEcr_keeps (h : s.Keeps t) {c i x} : s.KeepsNext (execEcr c i x t) := by
  unfold execEcr
  dsimp only
  exact .acting (fun _ => .ite h.priv h.patch)

theorem State.Keeps.modCmd (h : s.Keeps t) {id f} : s.Keeps (t.modCmd id f) := by
  unfold State.modCmd
  exact h.rest

theorem State.Keeps.startCmd (h : s.Keeps t) {id} : s.Keeps (t.startCmd id) := by
  unfold State.startCmd
  split
  exacts [.ite h.modCmd h, h]

theorem State.Keeps.putOwnWrites (h : s.Keeps t) {c writes} : s.Keeps (t.putOwnWrites c writes) := by
  unfold State.putOwnWrites
  dsimp only
  split
  · exact h.modSlot fun l => ⟨fun hp _ => wf_foldl hp (fun _ w hm => wf_putOwn hm w) _, fun _ hs => hs⟩
  · exact h

theorem State.Keeps.retireCmd (h : s.Keeps t) {c writes} : s.Keeps (t.retireCmd c writes) := by
  unfold State.retireCmd
  dsimp only
  exact .releasePins (.ite h.rest.putOwnWrites (.modRank h.rest.putOwnWrites (fun _ => .rest (.refl _))))

theorem State.Keeps.cmdAccess (h : s.Keeps t) {c op pkg addr order} : s.Keeps (t.cmdAccess c op pkg addr order) := by
  unfold State.cmdAccess
  exact .modRank h.fresh (fun _ => .addAccess (.refl _))

theorem State.Keeps.fetchRun (h : s.Keeps t) {c p pos l} : s.Keeps (t.fetchRun c p pos l) := by
  unfold State.fetchRun
  refine .foldl h (fun _ _ h1 => ?_)
  split
  exacts [h1.cmdAccess, h1]

theorem State.Keeps.fetchSources (h : s.Keeps t) {c} : s.Keeps (t.fetchSources c) := by
  unfold State.fetchSources
  split
  exacts [.foldl h (fun _ _ h2 => h2.fetchRun), .foldl h (fun _ _ h2 => h2.fetchRun), h]

theorem State.Keeps.openSpoiled (h : s.Keeps t) {c writes} : s.Keeps (t.openSpoiled c writes).2 := by
  unfold State.openSpoiled
  dsimp only
  split
  exacts [h, h.rest]

theorem State.Keeps.endCmd (h : s.Keeps t) {c writes} : s.Keeps (t.endCmd c writes) := by
  unfold State.endCmd
  dsimp only
  exact .ite h.openSpoiled.retireCmd (.modCmd (.foldl h.openSpoiled (fun _ _ h3 => h3.cmdAccess)))

theorem State.Keeps.finishCmd (h : s.Keeps t) {c} : s.Keeps (t.finishCmd c) := by
  unfold State.finishCmd
  exact .ite h h.retireCmd

theorem State.Keeps.startAndFetch (h : s.Keeps t) {c} : s.Keeps (t.startAndFetch c) := by
  unfold State.startAndFetch
  exact .ite h.startCmd.fetchSources h

theorem execCopyCommand_keeps (h : s.Keeps t) {id} : s.KeepsNext (execCopyCommand id t) := by
  unfold execCopyCommand
  refine .next ?_
  split
  · split
    exacts [h.startAndFetch, h]
  · exact h

theorem State.Keeps.followOn (h : s.Keeps t) {c dst z q writes} : s.Keeps (t.followOn c dst z q writes) := by
  unfold State.followOn
  dsimp only
  split
  · split
    exacts [h.modCore, h.streamFault]
  · exact h

theorem State.Keeps.copyBytes (h : s.Keeps t) {c src sstr row byte bs} : s.Keeps (t.copyBytes c src sstr row byte bs).2 := by
  unfold State.copyBytes
  exact h.rest

theorem State.Keeps.retireCopy (h : s.Keeps t) {c dst follow} : s.Keeps (t.retireCopy c dst follow) := by
  unfold State.retireCopy
  dsimp only
  split
  · exact h
  · split
    exacts [h.retireCmd.followOn, h.retireCmd]

theorem State.Keeps.copyStep (h : s.Keeps t) {c} : s.Keeps (t.copyStep c) := by
  unfold State.copyStep
  dsimp only
  split
  exacts [.ite (.ite h.retireCopy (.foldl h.modCmd (fun _ _ h4 => h4.cmdAccess))) (.ite h h.copyBytes.openSpoiled.putOwnWrites.modCmd), h]

theorem execCopyRetire_keeps (h : s.Keeps t) {id} : s.KeepsNext (execCopyRetire id t) := by
  unfold execCopyRetire
  refine .next ?_
  split
  · split
    exacts [.ite (.ite h.retireCopy h.copyStep) h, h]
  · exact h

theorem State.Keeps.resetEngine (h : s.Keeps t) {e slot} : s.Keeps (t.resetEngine e slot) := by
  unfold State.resetEngine
  dsimp only
  exact .mapRanks h.discardCmds (fun _ => .ite (.refl _) (.mapGangs (.refl _) (fun _ => by rfl)))

theorem execEngineReset_keeps (h : s.Keeps t) {e slot} : s.KeepsNext (execEngineReset e slot t) := by
  unfold execEngineReset
  exact .next h.resetEngine

theorem State.Keeps.modPlanes (h : s.Keeps t) {vr cls f} : s.Keeps (t.modPlanes vr cls f) := by
  unfold State.modPlanes
  split
  · exact h.rest
  · refine .modRank h (fun _ => ?_)
    split <;> exact .rest (.refl _)

theorem State.Keeps.rollBack (h : s.Keeps t) {st cls cause v} : s.Keeps (t.rollBack st cls cause v) := by
  unfold State.rollBack
  exact h.modPlanes.trapEntry

theorem State.Keeps.stage (h : s.Keeps t) {st cls expected new} : s.Keeps (t.stage st cls expected new) := by
  unfold State.stage
  dsimp only
  exact .ite h.modPlanes.retire h.rollBack

theorem State.Keeps.withClass (h : s.Keeps t) {st i cls u} (hu : s.Keeps u) : s.Keeps (t.withClass st i cls u) := by
  unfold State.withClass
  exact .ite h.priv hu

theorem execTload_keeps (h : s.Keeps t) {c a} : s.KeepsNext (execTload c a t) := by
  unfold execTload
  dsimp only
  refine .acting (fun _ => .withClass h ?_)
  split
  exacts [h.trap, .ite h.rollBack h.stage]

theorem execTdiff_keeps (h : s.Keeps t) {c a} : s.KeepsNext (execTdiff c a t) := by
  unfold execTdiff
  dsimp only
  refine .acting (fun _ => .withClass h ?_)
  split
  · exact h.trap
  · split
    · exact h.rollBack
    · split
      · exact h.trap
      · split
        exacts [h.rollBack, h.stage]

theorem execTswap_keeps (h : s.Keeps t) {c} : s.KeepsNext (execTswap c t) := by
  unfold execTswap
  exact .acting (fun _ => .withClass h (.retire (.ite (.modRank h (fun _ => .rest (.refl _))) h.modPlanes)))

theorem execTcrc_keeps (h : s.Keeps t) {c a} : s.KeepsNext (execTcrc c a t) := by
  unfold execTcrc
  exact .acting (fun _ => h.withClass h.retire)

theorem Rank.Keeps.post (r : Rank) (l : LaunchRec) (src : GSource) (age : Nat) :
    r.Keeps { r with gangs := r.gangs ++ [Gang.posted l src age], walk := true } := by
  refine .withGangs (.refl r) fun x hx => ?_
  obtain hx | hx := List.mem_append.mp hx
  · exact .inl ⟨x, hx, rfl⟩
  · obtain rfl := List.mem_singleton.mp hx
    exact .inr rfl

theorem State.Keeps.post (h : s.Keeps t) {vr l src} : s.Keeps (t.post vr l src) := by
  unfold State.post
  exact .rest (.modRank h fun r => .settleAll (.post r l src _))

theorem execGlaunch_keeps (h : s.Keeps t) {d a} : s.KeepsNext (execGlaunch d a t) := by
  unfold execGlaunch
  dsimp only
  refine .acting (fun _ => ?_)
  split
  · exact h.trap
  · split
    · exact h
    · split
      · exact h.hold
      · split
        exacts [h.retire, h.post.retire]

theorem execGkill_keeps (h : s.Keeps t) {d a} : s.KeepsNext (execGkill d a t) := by
  unfold execGkill
  dsimp only
  refine .acting (fun _ => ?_)
  split
  exacts [.ite h.retire h.killFor, h.retire]

theorem execGstat_keeps (h : s.Keeps t) {d a} : s.KeepsNext (execGstat d a t) := by
  unfold execGstat
  dsimp only
  exact .acting (fun _ => h.retire)

theorem Rank.Keeps.preempt {r q : Rank} (h : r.Keeps q) {first} : r.Keeps (q.preempt first) := by
  unfold Rank.preempt
  exact .ite h (.foldl h fun _ _ h1 => h1.requestHalt)

theorem State.Keeps.restorePads (h : s.Keeps t) {slot g} (hg : s.MemWf → s.FramesWf → Memory.wf g.pads = true) :
    s.Keeps (t.restorePads slot g) := by
  unfold State.restorePads
  refine .ite h (.modSlotPads h ?_)
  exact fun hm hf k => ⟨fun hp _ => wf_padsFrom hp (hg hm hf) _, fun _ hs => hs⟩

theorem State.Keeps.readCmds (h : s.Keeps t) {r g} : s.Keeps (t.readCmds r g) := by
  unfold State.readCmds
  dsimp only
  split
  exacts [h.rest, h]

theorem State.wf_unframe {r : Rank} {g : Gang} (hg : Memory.wf g.pads = true) : Memory.wf (t.unframe r g).pads = true := by
  unfold State.unframe
  split
  exacts [wf_memCanon _, hg]

theorem Rank.PadsWf.unframed {r : Rank} (hr : r.PadsWf) : (t.unframed r).PadsWf := hr.mapGangs (fun _ hg => State.wf_unframe hg) rfl

theorem execGangPlace_keeps (h : s.Keeps t) {slot} : s.KeepsNext (execGangPlace slot t) := by
  unfold execGangPlace
  refine .next ?_
  split
  · exact h
  · next r hr =>
    obtain ⟨vr, -, hr⟩ := Option.bind_eq_some_iff.mp hr
    have hpads : s.MemWf → s.FramesWf → r.PadsWf := fun hm hf => (h.forms hm hf).2.rank hr
    have hread : ∀ b : Bool, s.MemWf → s.FramesWf → ∀ g ∈ r.gangs, Memory.wf (if b then t.unframe r g else g).pads = true :=
      fun b hm hf g hg => by
        split
        exacts [State.wf_unframe (hpads hm hf g hg), hpads hm hf g hg]
    refine .ite h ?_
    lift_lets
    intro order r1 ids read u
    have hfirst : r.Keeps r1 := by
      simp only [r1]
      split
      exacts [.preempt (.refl r), .refl r]
    have hu : s.Keeps u := .foldlMem h fun g hg v hv => .readCmds (.restorePads hv fun hm hf =>
      hread _ hm hf g (List.mem_filter.mp (mem_of_mem_sortBy (List.mem_filter.mp hg).1)).1)
    refine hu.modRankPads (fun q hq => hfirst.vr.trans hq.symm) fun hm hf _ _ g hg => ?_
    obtain ⟨x, hx, rfl⟩ := List.mem_map.mp hg
    split
    exacts [rfl, hfirst.padsWf (hpads hm hf) x hx]

theorem execPriorityAging_keeps (h : s.Keeps t) {vr gang} : s.KeepsNext (execPriorityAging vr gang t) := by
  unfold execPriorityAging
  refine .next (.modGang h (fun _ => ?_))
  split <;> exact by rfl

theorem execGangStart_keeps (h : s.Keeps t) {vr gang} : s.KeepsNext (execGangStart vr gang t) := by
  unfold execGangStart
  dsimp only
  refine .next ?_
  split
  exacts [.ite h (.ite (.ite h (.modGang h (fun _ => by rfl))) (.modRank h.rest (fun _ => .rest (.modGang (.refl _) (fun _ => by rfl))))), h]

theorem State.Keeps.saveGang (h : s.Keeps t) {vr g slot frame why} : s.Keeps (t.saveGang vr g slot frame why) := by
  unfold State.saveGang
  dsimp only
  split
  · exact h
  · refine .modRank (.putFrame h.rest fun hm hf => ((h.forms hm hf).1.2.2 slot).1) fun r => .rest (.modGang (.refl r) fun _ => by rfl)

theorem execGangHalt_keeps (h : s.Keeps t) {vr gang} : s.KeepsNext (execGangHalt vr gang t) := by
  unfold execGangHalt
  refine .next ?_
  split
  · next hg _ =>
    split
    · refine (h.setGang fun hm hf => ?_).saveGang
      have hpads := (h.forms hm hf).2.gang hg
      split
      exacts [hpads, hpads]
    · exact h
  · exact h

theorem Slot.Keeps.hqRefuse {k l : Slot} (h : k.Keeps l) {reason} : k.Keeps (l.hqRefuse reason) := by
  unfold Slot.hqRefuse
  exact h.rest

theorem execHostQueuePost_keeps (h : s.Keeps t) {slot} : s.KeepsNext (execHostQueuePost slot t) := by
  unfold execHostQueuePost
  dsimp only
  refine .next ?_
  split
  · exact h
  · split
    · exact h
    · split
      exacts [.modSlot (.modSlot h (fun _ => .rest (.refl _))) (fun _ => .hqRefuse (.refl _)), .post (.modSlot h (fun _ => .rest (.refl _)))]

theorem execHqbaseWrite_keeps (h : s.Keeps t) {slot v} : s.KeepsNext (execHqbaseWrite slot v t) := by
  unfold execHqbaseWrite
  exact .next (.modSlot h (fun _ => .ite (.hqRefuse (.refl _)) (.rest (.refl _))))

theorem execHqTailWrite_keeps (h : s.Keeps t) {slot v} : s.KeepsNext (execHqTailWrite slot v t) := by
  unfold execHqTailWrite
  exact .next (.modSlot h (fun _ => .rest (.refl _)))

theorem execHqEnable_keeps (h : s.Keeps t) {slot v} : s.KeepsNext (execHqEnable slot v t) := by
  unfold execHqEnable
  exact .next (.modSlot h (fun _ => .rest (.refl _)))

theorem execHqErrClear_keeps (h : s.Keeps t) {slot} : s.KeepsNext (execHqErrClear slot t) := by
  unfold execHqErrClear
  exact .next (.modSlot h (fun _ => .rest (.refl _)))

theorem State.Keeps.drainHostQueue (h : s.Keeps t) {slot n} : s.Keeps (t.drainHostQueue slot n) := by
  induction n generalizing t with
  | zero => exact h
  | succ n ih =>
    unfold State.drainHostQueue
    dsimp only
    refine ih (.modSlot ?_ fun _ => .rest (.refl _))
    split
    exacts [h.modRank fun _ => .settleAll (.retireGang (.refl _)), h]

theorem execHqTeardown_keeps (h : s.Keeps t) {slot kill} : s.KeepsNext (execHqTeardown slot kill t) := by
  unfold execHqTeardown
  dsimp only
  exact .next (.modSlot (.ite (.foldl (.foldl h.drainHostQueue (fun _ _ h5 => h5.endGang)) (fun _ _ h4 => h4.endGang)) (.foldl
      h.drainHostQueue (fun _ _ h4 => h4.endGang))) (fun _ => .rest (.refl _)))

theorem State.Keeps.modFabric (h : s.Keeps t) {f} : s.Keeps (t.modFabric f) := by
  unfold State.modFabric
  exact h.rest

theorem State.Keeps.startXfer (h : s.Keeps t) {fid bs dests op} : s.Keeps (t.startXfer fid bs dests op) := by
  unfold State.startXfer
  exact h.modFabric

theorem State.Keeps.setConn (h : s.Keeps t) {c} : s.Keeps (t.setConn c) := by
  unfold State.setConn
  exact h.rest

theorem State.Keeps.sendFrame (h : s.Keeps t) {kind h' body op} : s.Keeps (t.sendFrame kind h' body op) := by
  unfold State.sendFrame
  dsimp only
  exact .ite h (.ite h.setConn.rest h.setConn)

theorem State.Keeps.sendFar (h : s.Keeps t) {dom m} : s.Keeps (t.sendFar dom m) := by
  unfold State.sendFar
  exact h.sendFrame

theorem State.Keeps.sendVr (h : s.Keeps t) {m} : s.Keeps (t.sendVr m) := by
  unfold State.sendVr
  dsimp only
  exact .ite h.send h.sendFar

theorem State.Keeps.sendTo (h : s.Keeps t) {dom m} : s.Keeps (t.sendTo dom m) := by
  unfold State.sendTo
  exact .ite h.send h.sendFar

theorem Rank.Keeps.landPiece {r q : Rank} (h : r.Keeps q) {c offset} : r.Keeps (q.landPiece c offset) := by
  unfold Rank.landPiece
  dsimp only
  exact .ite h.rest h.rest

theorem State.Keeps.deposit (h : s.Keeps t) {vr c offset} : s.Keeps (t.deposit vr c offset) := by
  unfold State.deposit
  split
  exacts [h.rest, .ite h.rest (.ite h.rest (.modRank h (fun _ => .landPiece (.refl _))))]

theorem State.Keeps.chunkFurrow (h : s.Keeps t) {vr c offset pkg op} : s.Keeps (t.chunkFurrow vr c offset pkg op) := by
  unfold State.chunkFurrow
  split
  exacts [h.startXfer, h.rest]

theorem State.Keeps.sendChunk (h : s.Keeps t) {vr c op} : s.Keeps (t.sendChunk vr c op).2 := by
  unfold State.sendChunk
  dsimp only
  split
  · exact h.deposit
  · split
    · exact h.rest
    · split
      exacts [h.chunkFurrow, .foldl h (fun _ _ h4 => h4.sendFrame)]

theorem State.Keeps.markSent (h : s.Keeps t) {op} : s.Keeps (t.markSent op) := by
  unfold State.markSent
  split
  exacts [h, h.rest]

theorem State.Keeps.ackFrames (h : s.Keeps t) {c ackseq} : s.Keeps (t.ackFrames c ackseq) := by
  unfold State.ackFrames
  dsimp only
  exact .foldl h.setConn.rest (fun _ _ h1 => h1.markSent)

theorem State.Keeps.answerFrame (h : s.Keeps t) {c kind} : s.Keeps (t.answerFrame c kind) := by
  unfold State.answerFrame
  exact h.rest

theorem State.Keeps.recvFrame (h : s.Keeps t) {f act} (ha : ∀ u, s.Keeps u → s.Keeps (act u)) : s.Keeps (t.recvFrame f act) := by
  unfold State.recvFrame
  exact .ite h (.ite (ha _ h.ackFrames.setConn.answerFrame) (.ite h.ackFrames.answerFrame h.ackFrames.answerFrame))

theorem State.Keeps.modSched (h : s.Keeps t) {vr f} : s.Keeps (t.modSched vr f) := by
  unfold State.modSched
  exact .modRank h (fun _ => .rest (.refl _))

theorem State.Keeps.withSched (h : s.Keeps t) {f} (hf : ∀ r q, s.Keeps (f r q)) : s.Keeps (t.withSched f) := by
  unfold State.withSched
  split
  exacts [hf _ _, h]

theorem State.Keeps.sendArrival (h : s.Keeps t) {r dvr grad mb} : s.Keeps (t.sendArrival r dvr grad mb) := by
  unfold State.sendArrival
  exact h.sendVr

theorem State.Keeps.sendSlots (h : s.Keeps t) {r grad n} : s.Keeps (t.sendSlots r grad n) := by
  unfold State.sendSlots
  exact h.sendVr

theorem State.Keeps.postCredits (h : s.Keeps t) {vr} : s.Keeps (t.postCredits vr) := by
  unfold State.postCredits
  dsimp only
  split
  exacts [h, .ite h (.modSched (.ite (.sendSlots (.ite h.sendSlots h)) (.ite h.sendSlots h)))]

theorem execSchld_keeps (h : s.Keeps t) {d a} : s.KeepsNext (execSchld d a t) := by
  unfold execSchld
  dsimp only
  refine .acting (fun _ => .withSched h (fun _ _ => ?_))
  split
  · exact h.trap
  · split
    exacts [h.trap, .ite h.retire (.ite h.retire h.modSched.retire)]

theorem execSchgo_keeps (h : s.Keeps t) {d a} : s.KeepsNext (execSchgo d a t) := by
  unfold execSchgo
  exact .acting (fun _ => .withSched h (fun _ _ => .ite h.postCredits.modSched.retire h.retire))

theorem execSchhalt_keeps (h : s.Keeps t) {d} : s.KeepsNext (execSchhalt d t) := by
  unfold execSchhalt
  refine .acting (fun _ => .withSched h (fun _ _ => ?_))
  split
  exacts [h.modSched.retire, h.modSched.retire, h.retire, h.retire]

theorem execSchstat_keeps (h : s.Keeps t) {d} : s.KeepsNext (execSchstat d t) := by
  unfold execSchstat
  exact .acting (fun _ => .withSched h (fun _ _ => h.retire))

theorem execSlotpost_keeps (h : s.Keeps t) {a b} : s.KeepsNext (execSlotpost a b t) := by
  unfold execSlotpost
  dsimp only
  exact .acting (fun _ => .withSched h (fun _ _ => .ite h.illop h.modSched.sendSlots.retire))

theorem execSchedHeadIssue_keeps (h : s.Keeps t) {vr} : s.KeepsNext (execSchedHeadIssue vr t) := by
  unfold execSchedHeadIssue
  dsimp only
  refine .next ?_
  split
  · exact h
  · split
    · exact h
    · split
      · exact h
      · split
        exacts [h.modSched.schedFault, h.modSched.post]

theorem execBubbleCycle_keeps (h : s.Keeps t) {vr} : s.KeepsNext (execBubbleCycle vr t) := by
  unfold execBubbleCycle
  refine .next ?_
  split
  · exact h
  · split
    · exact h
    · split
      · exact h
      · split
        exacts [h.modSched, h.modSched, h.modSched, h]

theorem State.Keeps.tableFault (h : s.Keeps t) {r case} : s.Keeps (t.tableFault r case) := by
  unfold State.tableFault
  exact .ite h h.schedFault

theorem execScheduleArrival_keeps (h : s.Keeps t) {q grad mb step} : s.KeepsNext (execScheduleArrival q grad mb step t) := by
  unfold execScheduleArrival
  dsimp only
  refine .next (.mine h (fun _ h2 => ?_))
  split
  exacts [h2.rest, .ite h2 (.ite h2.tableFault (.ite (.ite h2.tableFault h2.modSched) (.ite h2.tableFault h2.modSched)))]

theorem execSlotPost_keeps (h : s.Keeps t) {q grad count step} : s.KeepsNext (execSlotPost q grad count step t) := by
  unfold execSlotPost
  dsimp only
  refine .next (.mine h (fun _ h2 => ?_))
  split
  exacts [h2.rest, .ite h2 (.ite h2.tableFault h2.modSched)]

theorem State.Keeps.entryComplete (h : s.Keeps t) {vr} : s.Keeps (t.entryComplete vr) := by
  unfold State.entryComplete
  dsimp only
  split
  · exact h
  · split
    exacts [h, .ite (.schedFault (.ite h.sendArrival (.ite h.sendArrival h))) (.modRank (.ite (.ite (.modSched (.ite
        h.sendArrival (.ite h.sendArrival h))) (.ite h.sendArrival (.ite h.sendArrival h))) (.ite (.sendSlots (.modSched (.ite
        (.modSched (.ite h.sendArrival (.ite h.sendArrival h))) (.ite h.sendArrival (.ite h.sendArrival h))))) (.ite (.sendSlots
        (.modSched (.ite (.modSched (.ite h.sendArrival (.ite h.sendArrival h))) (.ite h.sendArrival (.ite h.sendArrival h)))))
        (.ite (.modSched (.ite h.sendArrival (.ite h.sendArrival h))) (.ite h.sendArrival (.ite h.sendArrival h)))))) (fun _ =>
        .settleAll (.rest (.refl _))))]

theorem execGangComplete_keeps (h : s.Keeps t) {vr gang} : s.KeepsNext (execGangComplete vr gang t) := by
  unfold execGangComplete
  dsimp only
  refine .next ?_
  split
  · exact h
  · split
    · exact h
    · split
      exacts [.entryComplete (.modRank h (fun _ => .settleAll (.retireGang (.dropGang (.refl _))))), .modRank h (fun _ =>
          .settleAll (.retireGang (.dropGang (.refl _))))]

theorem State.Keeps.schedResume (h : s.Keeps t) {vr} : s.Keeps (t.schedResume vr) := by
  unfold State.schedResume
  split
  · exact h
  · split
    exacts [h.modSched, h.modSched, h.modSched.postCredits.modSched, h.modSched]

theorem execX_keeps (h : s.Keeps t) {i} : s.KeepsNext (execX i t) := by
  cases i with
  | add => exact execAdd_keeps h
  | sub => exact execSub_keeps h
  | and => exact execAnd_keeps h
  | or => exact execOr_keeps h
  | xor => exact execXor_keeps h
  | andn => exact execAndn_keeps h
  | shl => exact execShl_keeps h
  | shr => exact execShr_keeps h
  | sar => exact execSar_keeps h
  | rot => exact execRot_keeps h
  | mul => exact execMul_keeps h
  | mulh => exact execMulh_keeps h
  | mulhu => exact execMulhu_keeps h
  | div => exact execDiv_keeps h
  | divu => exact execDivu_keeps h
  | rem => exact execRem_keeps h
  | remu => exact execRemu_keeps h
  | min => exact execMin_keeps h
  | max => exact execMax_keeps h
  | minu => exact execMinu_keeps h
  | maxu => exact execMaxu_keeps h
  | adds => exact execAdds_keeps h
  | subs => exact execSubs_keeps h
  | clz => exact execClz_keeps h
  | popc => exact execPopc_keeps h
  | sext => exact execSext_keeps h
  | zext => exact execZext_keeps h
  | addi => exact execAddi_keeps h
  | andi => exact execAndi_keeps h
  | ori => exact execOri_keeps h
  | xori => exact execXori_keeps h
  | shli => exact execShli_keeps h
  | shri => exact execShri_keeps h
  | sari => exact execSari_keeps h
  | roti => exact execRoti_keeps h
  | li => exact execLi_keeps h
  | lis => exact execLis_keeps h
  | cmp => exact execCmp_keeps h
  | cmpi => exact execCmpi_keeps h
  | pand => exact execPand_keeps h
  | por => exact execPor_keeps h
  | pxor => exact execPxor_keeps h
  | pandn => exact execPandn_keeps h
  | pnot => exact execPnot_keeps h
  | pmov => exact execPmov_keeps h
  | pset => exact execPset_keeps h
  | pclr => exact execPclr_keeps h
  | sel => exact execSel_keeps h
  | lpset => exact execLpset_keeps h
  | lpseti => exact execLpseti_keeps h
  | rdctl => exact execRdctl_keeps h
  | shapeWrite => exact execShapeWrite_keeps h
  | fpflagsClear => exact execFpflagsClear_keeps h
  | loopRegisterWrite => exact execLoopRegisterWrite_keeps h
  | walWrite => exact execWalWrite_keeps h
  | wrctl => exact execWrctl_keeps h
  | exit => exact execExit_keeps h
  | phase => exact execPhase_keeps h
  | step => exact execStep_keeps h
  | _ => exact .next h

theorem State.Keeps.afterX (h : s.Keeps t) {st h' x} : s.Keeps (t.afterX st h' x) := by
  unfold State.afterX
  split
  · exact h
  · refine .ite ?_ h
    split
    · next hu => exact execX_keeps h _ hu
    · exact h

theorem State.Keeps.bundlePlan (h : s.Keeps t) {st k h' m v x} : s.KeepsAct (t.bundlePlan st k h' m v x) := by
  unfold State.bundlePlan
  dsimp only
  refine .ite trivial ?_
  split
  · trivial
  · refine .ite trivial ?_
    split
    · exact .act _ _ _
    · split
      · exact .act _ _ _
      · split
        · trivial
        · refine .ite trivial (.ite trivial (.ite trivial ?_))
          have hx : s.Keeps ({ t with trapped := false }.afterX st h' x) := .afterX h.rest
          exact .ite hx hx

theorem execBundleIssue_keeps (h : s.Keeps t) {h' m v x} : s.KeepsNext (execBundleIssue h' m v x t) := by
  unfold execBundleIssue
  dsimp only
  split
  · exact .fault _
  · next k _ =>
    refine .next ?_
    have hact := State.Keeps.bundlePlan (st := k.c) (k := k) (h' := h') (m := m) (v := v) (x := x)
      (h.rest : s.Keeps { t with cur := { t.cur with strand := .c } })
    split
    · exact h.rest
    · exact .trap h.rest
    · exact .trap h.rest
    · exact .trap h.rest
    · exact .modCore h.rest
    · next hu => exact (hu ▸ hact : s.KeepsAct (.trap _))
    · next hu => exact .modCore (hu ▸ hact : s.KeepsAct (.issue _))

theorem execPendingWriteLand_keeps (h : s.Keeps t) {r} : s.KeepsNext (execPendingWriteLand r t) := by
  unfold execPendingWriteLand
  exact .next h.modCore

theorem State.Keeps.flushPeers (h : s.Keeps t) {r} : s.Keeps (t.flushPeers r) := by
  unfold State.flushPeers
  exact .modRank (.foldl h (fun _ _ h2 => h2.sendPeer)) (fun _ => .rest (.refl _))

theorem State.Keeps.commitAtomics (h : s.Keeps t) {vrs} : s.Keeps (t.commitAtomics vrs) := by
  unfold State.commitAtomics
  exact .withMem h.freeBytes fun hm => wf_foldl hm (fun _ e hn => wf_physWrite hn e.1 e.2) _

theorem State.Keeps.commitBytes (h : s.Keeps t) {slot d bs} : s.Keeps (t.commitBytes slot d bs) := by
  unfold State.commitBytes
  split
  · exact .modSlot h (fun _ => ⟨fun hp _ => wf_memPut hp _ _, fun _ hs => hs⟩)
  · refine .withMem h fun hm => ?_
    exact wf_physPut hm _ _
  · refine .withHostMem h fun hm => ?_
    exact wf_memPut hm _ _
  · exact h

theorem State.Keeps.commitWrites (h : s.Keeps t) {ws} : s.Keeps (t.commitWrites ws) := by
  unfold State.commitWrites
  exact .foldl h (fun _ _ h1 => h1.commitBytes)

theorem State.Keeps.commitPosted (h : s.Keeps t) {r slot} : s.Keeps (t.commitPosted r slot) := by
  unfold State.commitPosted
  exact .foldl h (fun _ _ h1 => h1.padPut)

theorem Rank.Keeps.afterCommit {r q : Rank} (h : r.Keeps q) {scheduled} : r.Keeps (q.afterCommit scheduled) := by
  unfold Rank.afterCommit
  dsimp only
  exact .ite (.mapGangs h.rest (fun _ => by rfl)) h.rest

theorem State.Keeps.commitRanks (h : s.Keeps t) {vrs scheduled} : s.Keeps (t.commitRanks vrs scheduled) := by
  have hshadow : ∀ k : Slot, k.Keeps { k with shadow := k.pads } := fun k => ⟨fun hp _ => hp, fun hp _ => hp⟩
  unfold State.commitRanks
  dsimp only
  refine .foldl (.rest (.ite (.rest (.foldl ?_ fun _ _ h5 => h5.commitPosted)) (.foldl ?_ fun _ _ h4 => h4.commitPosted))) fun _ _ h1 =>
    .modRank (.modSlot h1 hshadow) fun _ => .afterCommit (.refl _)
  all_goals exact h.commitAtomics.commitWrites.commitWrites.rest

theorem execPhaseBoundary_keeps (h : s.Keeps t) {vr} : s.KeepsNext (execPhaseBoundary vr t) := by
  unfold execPhaseBoundary
  refine .next ?_
  split
  exacts [h.commitRanks, .ite h (.ite h.commitRanks h.flushPeers)]

theorem execQuiescentCommit_keeps (h : s.Keeps t) {vr} : s.KeepsNext (execQuiescentCommit vr t) := by
  unfold execQuiescentCommit
  refine .next ?_
  split
  exacts [h.commitRanks, .ite h (.ite h.commitRanks h.flushPeers)]

theorem State.Keeps.flushArrived (h : s.Keeps t) {r} : s.Keeps (t.flushArrived r) := by
  unfold State.flushArrived
  exact .ite h.flushPeers h

theorem State.Keeps.closeArrived (h : s.Keeps t) {r} : s.Keeps (t.closeArrived r) := by
  unfold State.closeArrived
  exact .ite h (.modRank h (fun _ => .rest (.refl _)))

theorem State.Keeps.reopen (h : s.Keeps t) {group} : s.Keeps (t.reopen group) := by
  unfold State.reopen
  exact .mapRanks h (fun _ => .ite (.rest (.refl _)) (.refl _))

theorem execBoundaryFlitSend_keeps (h : s.Keeps t) {group} : s.KeepsNext (execBoundaryFlitSend group t) := by
  unfold execBoundaryFlitSend
  dsimp only
  refine .next ?_
  split
  · exact h
  · split
    exacts [.rest (.foldl (.foldl h (fun _ _ h6 => h6.closeArrived)) (fun _ _ h5 => h5.flushArrived)), .ite (.rest (.foldl
        (.foldl h (fun _ _ h7 => h7.closeArrived)) (fun _ _ h6 => h6.flushArrived))) (.rest (.rest (.foldl (.foldl h (fun _ _ h8
        => h8.closeArrived)) (fun _ _ h7 => h7.flushArrived))))]

theorem State.Keeps.groupResult (h : s.Keeps t) {group v} : s.Keeps (t.groupResult group v) := by
  unfold State.groupResult
  dsimp only
  split
  exacts [h, .ite h.rest.reopen (.ite h.rest.reopen.commitRanks (.ite h.rest.reopen.commitRanks h.rest.reopen))]

theorem execBoundaryResult_keeps (h : s.Keeps t) {group v} : s.KeepsNext (execBoundaryResult group v t) := by
  unfold execBoundaryResult
  exact .next h.groupResult

theorem execStepArrival_keeps (h : s.Keeps t) {rank held} : s.KeepsNext (execStepArrival rank held t) := by
  unfold execStepArrival
  refine .next ?_
  split
  exacts [.ite (.tell (.modRank h (fun _ => .rest (.refl _)))) (.ite (.modRank h (fun _ => .rest (.refl _))) h), h.rest]

theorem Rank.Keeps.passStep {r q : Rank} (h : r.Keeps q) : r.Keeps (q.passStep) := by
  unfold Rank.passStep
  exact .mapGangs h (fun _ => by rfl)

theorem execStepCollectiveComplete_keeps (h : s.Keeps t) {job} : s.KeepsNext (execStepCollectiveComplete job t) := by
  unfold execStepCollectiveComplete
  dsimp only
  refine .next ?_
  split
  exacts [h, .ite h (.foldl (.mapRanks (.ite h.commitRanks h) (fun _ => .ite (.passStep (.refl _)) (.refl _))) (fun _ _ h4 =>
      h4.schedResume))]

theorem State.Keeps.fill (h : s.Keeps t) {bs} : s.Keeps (t.fill bs).2 := by
  unfold State.fill
  exact h.rest

theorem State.Keeps.collRead (h : s.Keeps t) {x r i b off n} : s.Keeps (t.collRead x r i b off n).2 := by
  unfold State.collRead
  exact h.fill

theorem State.Keeps.collWrite (h : s.Keeps t) {x core i b off bs} : s.Keeps (t.collWrite x core i b off bs).2 := by
  unfold State.collWrite
  exact h.fill

theorem State.Keeps.landNode (h : s.Keeps t) {v} : s.Keeps (t.landNode v) := by
  unfold State.landNode
  exact .ite h.rest h.rest

theorem State.Keeps.putNode (h : s.Keeps t) {v op} : s.Keeps (t.putNode v op).2 := by
  unfold State.putNode
  split
  exacts [h.startXfer, h.landNode]

theorem State.Keeps.sendBlockNear (h : s.Keeps t) {b pkgs} : s.Keeps (t.sendBlockNear b pkgs) := by
  unfold State.sendBlockNear
  dsimp only
  split
  · split
    · exact h.rest
    · split
      exacts [h.rest.startXfer, h.rest.rest]
  · split
    · exact h
    · split
      exacts [h.startXfer, h.rest]

theorem State.Keeps.sendBlockFar (h : s.Keeps t) {b d} : s.Keeps (t.sendBlockFar b d) := by
  unfold State.sendBlockFar
  dsimp only
  exact .foldl h (fun _ _ h1 => h1.sendFrame)

theorem State.Keeps.sendBlock (h : s.Keeps t) {b dests} : s.Keeps (t.sendBlock b dests) := by
  unfold State.sendBlock
  exact .foldl h.sendBlockNear (fun _ _ h1 => h1.sendBlockFar)

theorem State.Keeps.buildBlocks (h : s.Keeps t) {job shard step pos vals} : s.Keeps (t.buildBlocks job shard step pos vals) := by
  unfold State.buildBlocks
  dsimp only
  split
  exacts [h.rest, .foldl h.rest (fun _ _ h2 => h2.sendBlock)]

theorem State.Keeps.deliverTree (h : s.Keeps t) {t' bs} : s.Keeps (t.deliverTree t' bs) := by
  unfold State.deliverTree
  dsimp only
  split
  · refine .sendChunk ?_
    split
    exacts [h.freeBytes, h]
  · refine .foldl ?_ (fun _ _ h2 => h2.sendChunk)
    split
    exacts [h.freeBytes, h]
  · refine .buildBlocks ?_
    split
    exacts [h.freeBytes, h]

theorem execTreeNodeCombine_keeps (h : s.Keeps t) {key level k} : s.KeepsNext (execTreeNodeCombine key level k t) := by
  unfold execTreeNodeCombine
  dsimp only
  refine .next ?_
  split
  · exact h
  · split
    · split
      exacts [h.rest.deliverTree, h]
    · split
      · split
        exacts [h.rest.putNode, h]
      · split
        exacts [h.fill.rest.putNode, h]

theorem execCollectiveCommand_keeps (h : s.Keeps t) {id} : s.KeepsNext (execCollectiveCommand id t) := by
  unfold execCollectiveCommand
  refine .next ?_
  split
  · split
    exacts [h.startAndFetch, h]
  · exact h

theorem State.Keeps.sendLen (h : s.Keeps t) {x r i} : s.Keeps (t.sendLen x r i).2 := by
  unfold State.sendLen
  dsimp only
  split
  exacts [h.collRead, h]

theorem State.Keeps.startOp (h : s.Keeps t) {c x i} : s.Keeps (t.startOp c x i) := by
  unfold State.startOp
  dsimp only
  split
  · exact h.modCmd
  · split
    exacts [.ite h.modCmd.sendLen.collRead.putNode.markSent h.modCmd.sendLen.collRead.putNode, .ite
        h.modCmd.sendLen.collRead.sendChunk.markSent h.modCmd.sendLen.collRead.sendChunk]

theorem execCollOpStart_keeps (h : s.Keeps t) {id op} : s.KeepsNext (execCollOpStart id op t) := by
  unfold execCollOpStart
  refine .next ?_
  split
  · split
    exacts [.ite h.startOp h, h]
  · exact h

theorem State.Keeps.receiveOp (h : s.Keeps t) {r x i c} : s.Keeps (t.receiveOp r x i c).2 := by
  unfold State.receiveOp
  dsimp only
  split
  · refine .collWrite (.collWrite ?_)
    split
    exacts [h.collRead.fill, h]
  · refine .collWrite ?_
    split
    exacts [h.collRead.fill, h]

theorem State.Keeps.endOp (h : s.Keeps t) {c x i} : s.Keeps (t.endOp c x i) := by
  unfold State.endOp
  dsimp only
  exact .ite h.modCmd.endCmd h.modCmd

theorem State.Keeps.takeChunk (h : s.Keeps t) {vr o replay} {c : Chunk} {u : State} (hc : t.takeChunk vr o replay = some (c, u))
    : s.Keeps u := by
  unfold State.takeChunk at hc
  split at hc
  · obtain ⟨-, rfl⟩ := Prod.mk.inj (Option.some.inj hc)
    have hpicked : ∀ l : List Chunk, s.Keeps (if l.isEmpty then (false, t) else t.elapse).2 := fun l => by
      split
      exacts [h, h.elapse]
    exact .rest (.modRank (hpicked _) fun _ => .rest (.refl _))
  · cases hc

theorem State.Keeps.runOp (h : s.Keeps t) {c x i} : s.Keeps (t.runOp c x i) := by
  unfold State.runOp
  dsimp only
  split
  · exact .ite h.endOp h
  · exact .ite h.endOp h
  · exact h.collRead.collWrite.endOp
  · refine .ite (.ite h.endOp h) (.ite h ?_)
    split
    · exact h
    · next hc => exact .ite (h.takeChunk hc).receiveOp.endOp (h.takeChunk hc).receiveOp.modCmd
  · split
    · exact h
    · next hc => exact (h.takeChunk hc).receiveOp.endOp

theorem execCollOpComplete_keeps (h : s.Keeps t) {id op} : s.KeepsNext (execCollOpComplete id op t) := by
  unfold execCollOpComplete
  refine .next ?_
  split
  · split
    exacts [.ite h (.ite h.finishCmd (.ite h (.ite h.modCmd h.runOp))), h]
  · exact h

theorem execCollectiveChunk_keeps (h : s.Keeps t) {f slot bytes} : s.KeepsNext (execCollectiveChunk f slot bytes t) := by
  unfold execCollectiveChunk
  dsimp only
  exact .next (.recvFrame h (fun _ h2 => .ite h2.deposit h2.chunkFurrow))

theorem execGraphLoad_keeps (h : s.Keeps t) {vr slot header trees ops} : s.KeepsNext (execGraphLoad vr slot header trees ops t) := by
  unfold execGraphLoad
  dsimp only
  exact .next (.ite h (.modRank (.ite h h.rest) (fun _ => .rest (.refl _))))

theorem State.Keeps.modGranary (h : s.Keeps t) {f} : s.Keeps (t.modGranary f) := by
  unfold State.modGranary
  exact h.rest

theorem State.Keeps.modShard (h : s.Keeps t) {job shard f} : s.Keeps (t.modShard job shard f) := by
  unfold State.modShard
  exact h.modGranary

theorem State.Keeps.granNotice (h : s.Keeps t) {job shard event rest} : s.Keeps (t.granNotice job shard event rest) := by
  unfold State.granNotice
  exact h.notify

theorem State.Keeps.flushGran (h : s.Keeps t) {n} : s.Keeps (State.flushGran n t) := by
  induction n generalizing t with
  | zero => exact h
  | succ n ih =>
    unfold State.flushGran
    split
    · split
      exacts [ih h.modGranary.granNotice, h]
    · exact h

theorem State.Keeps.postGran (h : s.Keeps t) {code job shard status} : s.Keeps (t.postGran code job shard status).2 := by
  unfold State.postGran
  exact h.fresh.modGranary.flushGran

theorem State.Keeps.endGran (h : s.Keeps t) {p status} : s.Keeps (t.endGran p status) := by
  unfold State.endGran
  exact h.modGranary.flushGran

theorem State.Keeps.publish (h : s.Keeps t) {dests m cmd gran} : s.Keeps (t.publish dests m cmd gran) := by
  have hsent : ∀ (l : List (Nat × Nat)) (r : List Nat × State), s.Keeps r.2 → s.Keeps (l.foldl (fun (r : List Nat × State) d =>
      let (id, s) := r.2.fresh
      (r.1 ++ [id], s.sendTo d.1 (m { dpkg := d.2, spkg := s.ownPkg, dvr := 0, svr := s.ownDom, seq := id % 2 ^ 32 }))) r).2 := by
    intro l
    induction l with
    | nil => exact fun _ hr => hr
    | cons _ _ ih => exact fun _ hr => ih _ hr.fresh.sendTo
  unfold State.publish
  exact .ite (hsent dests ([], t) h) (hsent dests ([], t) h).rest

theorem State.Keeps.pubAck (h : s.Keeps t) {seq} : s.Keeps (t.pubAck seq) := by
  unfold State.pubAck
  dsimp only
  refine .foldl h.rest (fun _ _ h1 => ?_)
  split
  exacts [h1.endGran, h1]

theorem State.Keeps.applyBlock (h : s.Keeps t) {x prog b} : s.Keeps (t.applyBlock x prog b) := by
  unfold State.applyBlock
  dsimp only
  refine .withMem h fun hm => ?_
  exact wf_physPut (wf_physPut (wf_physPut (wf_physPut hm _ _) _ _) _ _) _ _

theorem State.Keeps.ackBlock (h : s.Keeps t) {who job shard block step} : s.Keeps (t.ackBlock who job shard block step) := by
  unfold State.ackBlock
  exact h.modGranary

theorem State.Keeps.sendBlockAck (h : s.Keeps t) {b} : s.Keeps (t.sendBlockAck b) := by
  unfold State.sendBlockAck
  exact .ite h.ackBlock h.sendTo

theorem execGradientBlockArrive_keeps (h : s.Keeps t) {b} : s.KeepsNext (execGradientBlockArrive b t) := by
  unfold execGradientBlockArrive
  dsimp only
  refine .next ?_
  split
  · exact h.rest.rest
  · split
    · exact h.rest.rest
    · split
      · exact h.rest.modShard
      · split
        · exact h.rest.modShard
        · exact h.rest.modShard.sendBlockAck
        · exact h.rest.modShard.granNotice.sendBlockAck
        · exact h.rest.modShard.sendBlockAck
        · refine .sendBlockAck ?_
          split
          exacts [h.rest.modShard.sendBlock, h.rest.modShard]

theorem execGranaryBlockApply_keeps (h : s.Keeps t) {job shard block} : s.KeepsNext (execGranaryBlockApply job shard block t) := by
  unfold execGranaryBlockApply
  refine .next ?_
  split
  · exact h
  · split
    exacts [h, h.applyBlock.modShard]

theorem State.Keeps.finishGather (h : s.Keeps t) {c answer} : s.Keeps (t.finishGather c answer) := by
  unfold State.finishGather
  dsimp only
  split
  · exact h
  · split
    exacts [h.endCmd, h]

theorem State.Keeps.answerGather (h : s.Keeps t) {g answer} : s.Keeps (t.answerGather g answer) := by
  unfold State.answerGather
  dsimp only
  exact .ite h.rest h.sendTo

theorem State.Keeps.judgeGather (h : s.Keeps t) {g} : s.Keeps (t.judgeGather g) := by
  unfold State.judgeGather
  dsimp only
  split
  exacts [h.answerGather, .ite (.ite h.answerGather (.ite (.ite h h.answerGather) h.sendTo)) (.ite h.answerGather (.ite
      h.answerGather (.ite h.answerGather (.ite (.ite h.modShard h.rest) h.answerGather))))]

theorem State.Keeps.resendGathers (h : s.Keeps t) {job shard} : s.Keeps (t.resendGathers job shard) := by
  unfold State.resendGathers
  exact h.rest

theorem State.Keeps.endDeferred (h : s.Keeps t) {l status} : s.Keeps (t.endDeferred l status) := by
  unfold State.endDeferred
  exact .foldl h (fun _ _ h1 => h1.answerGather)

theorem State.Keeps.writeSnap (h : s.Keeps t) {x a} : s.Keeps (t.writeSnap x a) := by
  unfold State.writeSnap
  dsimp only
  refine .withMem h fun hm => ?_
  exact wf_physPut (wf_physPut hm _ _) _ _

theorem State.Keeps.closeShard (h : s.Keeps t) {job shard} : s.Keeps (t.closeShard job shard) := by
  unfold State.closeShard
  dsimp only
  split
  · exact h
  · split
    · exact h
    · refine .foldl (.modShard ?_) (fun _ _ h3 => h3.judgeGather)
      split
      exacts [.modShard (.rest (.endGran (.foldl h.modShard (fun _ _ h9 => h9.writeSnap)))), .endGran (.foldl h.modShard (fun _
          _ h7 => h7.writeSnap))]

theorem execGranaryStepClose_keeps (h : s.Keeps t) {job shard} : s.KeepsNext (execGranaryStepClose job shard t) := by
  unfold execGranaryStepClose
  exact .next h.closeShard

theorem State.Keeps.arriveGather (h : s.Keeps t) {g} : s.Keeps (t.arriveGather g) := by
  unfold State.arriveGather
  exact h.closeShard.judgeGather

theorem execGranaryGather_keeps (h : s.Keeps t) {g} : s.KeepsNext (execGranaryGather g t) := by
  unfold execGranaryGather
  dsimp only
  refine .next ?_
  split
  · split
    · exact h
    · split
      exacts [.ite h.finishCmd (.ite h h.modCmd.arriveGather), h]
  · exact h.arriveGather

theorem execGather_keeps (h : s.Keeps t) {q g} : s.KeepsNext (execGather q g t) := by
  unfold execGather
  exact .next (.ite h.arriveGather h.forward)

theorem execStepCloseTimeout_keeps (h : s.Keeps t) {job shard} : s.KeepsNext (execStepCloseTimeout job shard t) := by
  unfold execStepCloseTimeout
  dsimp only
  refine .next ?_
  split
  · exact h
  · split
    · exact h
    · split
      · exact h
      · refine .granNotice (.modShard (.withMem h fun hm => ?_))
        exact wf_physPut hm _ _

theorem State.Keeps.releaseKept (h : s.Keeps t) {r} : s.Keeps (t.releaseKept r) := by
  unfold State.releaseKept
  exact h.modGranary

theorem State.Keeps.applyDirectory (h : s.Keeps t) {job shard mv mdom mpkg hdom hpkg target} : s.Keeps (t.applyDirectory job
    shard mv mdom mpkg hdom hpkg target) := by
  unfold State.applyDirectory
  dsimp only
  split
  · split
    exacts [.ite h.modGranary h, h]
  · exact .ite (.resendGathers (.ite h.modShard.releaseKept (.foldl h.modShard.releaseKept (fun _ _ h5 => h5.judgeGather))))
        (.ite h.modShard.releaseKept (.foldl h.modShard.releaseKept (fun _ _ h4 => h4.judgeGather)))

theorem State.Keeps.publishShard (h : s.Keeps t) {job shard target gran} : s.Keeps (t.publishShard job shard target gran) := by
  unfold State.publishShard
  dsimp only
  split
  exacts [h, h.publish.releaseKept]

theorem execReg_keeps (h : s.Keeps t) {job shard a _b} : s.KeepsNext (execReg job shard a _b t) := by
  unfold execReg
  dsimp only
  refine .next ?_
  split
  · exact h.postGran
  · split
    exacts [.postGran (.foldl h.modShard.releaseKept (fun _ _ h5 => h5.judgeGather)), .ite h.postGran h.modGranary.postGran]

theorem execDrop_keeps (h : s.Keeps t) {job shard _a _b} : s.KeepsNext (execDrop job shard _a _b t) := by
  unfold execDrop
  dsimp only
  refine .next ?_
  split
  exacts [h.postGran, h.endDeferred.modGranary.postGran]

theorem execRule_keeps (h : s.Keeps t) {job shard a b} : s.KeepsNext (execRule job shard a b t) := by
  unfold execRule
  dsimp only
  exact .next (.ite h.postGran h.modGranary.postGran)

theorem execHyper_keeps (h : s.Keeps t) {job shard a _b} : s.KeepsNext (execHyper job shard a _b t) := by
  unfold execHyper
  dsimp only
  refine .next ?_
  split
  exacts [h.postGran, .ite h.postGran h.modShard.postGran]

theorem execPromote_keeps (h : s.Keeps t) {job shard _a _b} : s.KeepsNext (execPromote job shard _a _b t) := by
  unfold execPromote
  dsimp only
  refine .next ?_
  split
  exacts [h.postGran, .ite h.postGran (.ite (.publishShard (.postGran (.ite h.modShard.resendGathers h.modShard))) (.endGran
      (.publishShard (.postGran (.ite h.modShard.resendGathers h.modShard)))))]

theorem execSeed_keeps (h : s.Keeps t) {job shard a _b} : s.KeepsNext (execSeed job shard a _b t) := by
  unfold execSeed
  dsimp only
  refine .next ?_
  split
  exacts [h.postGran, .ite h.postGran (.ite h.postGran h.modShard.postGran.publishShard)]

theorem execSnap_keeps (h : s.Keeps t) {job shard a _b} : s.KeepsNext (execSnap job shard a _b t) := by
  unfold execSnap
  refine .next ?_
  split
  exacts [h.postGran, .ite h.postGran h.modShard.postGran]

theorem execReplay_keeps (h : s.Keeps t) {job shard a b} : s.KeepsNext (execReplay job shard a b t) := by
  unfold execReplay
  dsimp only
  refine .next ?_
  split
  exacts [h.postGran, .ite (.postGran (.foldl h (fun _ _ h5 => h5.sendBlock))) (.ite (.postGran (.foldl h (fun _ _ h6 =>
      h6.sendBlock))) (.postGran (.rest (.foldl h (fun _ _ h7 => h7.sendBlock)))))]

theorem State.Keeps.replayAct (h : s.Keeps t) {a} : s.Keeps (t.replayAct a) := by
  unfold State.replayAct
  split
  · split
    exacts [h, .foldl h (fun _ _ h3 => h3.sendBlock)]
  · exact h.endGran
  · exact h

theorem execGranaryUnknownCode_keeps (h : s.Keeps t) {code job shard} : s.KeepsNext (execGranaryUnknownCode code job shard t) := by
  unfold execGranaryUnknownCode
  exact .next h.postGran

theorem execSeedSnapshotInstall_keeps (h : s.Keeps t) {rec state served} : s.KeepsNext (execSeedSnapshotInstall rec state served t) := by
  unfold execSeedSnapshotInstall
  dsimp only
  refine .next ?_
  split
  · exact h
  · exact .ite h (.rest (.modShard (.withMem h fun hm => wf_foldl (wf_physPut hm _ _) (fun _ p hn => wf_physPut hn p.1 p.2) _)))

theorem execSeedConfirm_keeps (h : s.Keeps t) {job shard} : s.KeepsNext (execSeedConfirm job shard t) := by
  unfold execSeedConfirm
  dsimp only
  refine .next ?_
  split
  · exact h
  · split
    exacts [h, h.modShard.endGran.publishShard]

theorem State.Keeps.endOwnGathers (h : s.Keeps t) {job shard status} : s.Keeps (t.endOwnGathers job shard status) := by
  unfold State.endOwnGathers
  exact .foldl h (fun _ _ h1 => h1.finishGather)

theorem State.Keeps.keeperFail (h : s.Keeps t) {dom pkg job shard} : s.Keeps (t.keeperFail dom pkg job shard) := by
  unfold State.keeperFail
  dsimp only
  split
  exacts [h, .ite (.modGranary (.ite h.modShard.resendGathers h.modShard)) (.ite (.publishShard (.endGran (.modShard (.ite
      h.modShard.resendGathers h.modShard)))) (.ite (.endOwnGathers (.endDeferred (.granNotice (.modShard (.ite
      h.modShard.resendGathers h.modShard))))) (.ite h.modShard.resendGathers h.modShard)))]

theorem execGranaryKeeperFail_keeps (h : s.Keeps t) {dom pkg job shard} : s.KeepsNext (execGranaryKeeperFail dom pkg job shard t) := by
  unfold execGranaryKeeperFail
  exact .next h.keeperFail

theorem execBlockAcknowledgement_keeps (h : s.Keeps t) {q job shard block step} : s.KeepsNext (execBlockAcknowledgement q job
    shard block step t) := by
  unfold execBlockAcknowledgement
  exact .next (.mine h (fun _ h2 => h2.ackBlock))

theorem State.Keeps.sendPart (h : s.Keeps t) {t' p} : s.Keeps (t.sendPart t' p) := by
  unfold State.sendPart
  dsimp only
  exact .ite h.rest h.sendFrame

theorem State.Keeps.movePage (h : s.Keeps t) {d src c} (hw : s.MemWf → s.FramesWf → Memory.wf src = true) : s.Keeps (t.movePage d src c) := by
  unfold State.movePage
  dsimp only
  refine .ite ⟨h.boot, h.vrs, fun hm hf => ?_⟩ (h.foldl fun _ _ h1 => h1.sendPart)
  obtain ⟨⟨ht, hh, hs⟩, hfr⟩ := h.forms hm hf
  exact ⟨⟨wf_physPaste ht (wf_memPart_sub (hw hm hf) _ _) _ _, hh, hs⟩, hfr⟩

theorem State.Keeps.moveTable (h : s.Keeps t) {t' p} : s.Keeps (t.moveTable t' p) := by
  unfold State.moveTable
  split
  · refine .withMem h fun hm => ?_
    exact wf_physPut hm _ _
  · exact .foldl h (fun _ _ h2 => h2.sendPart)

theorem State.Keeps.freeList (h : s.Keeps t) {t' read} : s.Keeps (t.freeList t' read).2 := by
  unfold State.freeList
  dsimp only
  split
  exacts [h, h.freeBytes]

theorem State.Keeps.endMigr (h : s.Keeps t) {c t' status pages frames gangs} : s.Keeps (t.endMigr c t' status pages frames gangs) := by
  unfold State.endMigr
  exact h.endCmd

theorem State.Keeps.publishPlace (h : s.Keeps t) {vr cmd} : s.Keeps (t.publishPlace vr cmd) := by
  unfold State.publishPlace
  exact h.publish

theorem State.Keeps.failMigr (h : s.Keeps t) {c t' status taken} : s.Keeps (t.failMigr c t' status taken) := by
  unfold State.failMigr
  dsimp only
  refine .endMigr ?_
  split
  · refine .foldl h.abandonMigr.publishPlace (fun _ _ h3 => .withMem h3.freeBytes fun hm => ?_)
    exact wf_physPut hm _ _
  · exact h.abandonMigr.publishPlace

theorem State.Keeps.checkMigr (h : s.Keeps t) {c t'} : s.Keeps (t.checkMigr c t').2 := by
  unfold State.checkMigr
  dsimp only
  split
  · exact h
  · split
    · exact h
    · split
      · exact h
      · split
        · split <;> exact h
        · split
          · exact h
          · split
            · exact h
            · split
              exacts [h.elapse, h.elapse.elapse]

theorem wf_packGangs (sl : Slot) (n : Nat) {l : List Gang} (hl : ∀ g ∈ l, Memory.wf g.pads = true) :
    ∀ g ∈ (packGangs sl n l).1, Memory.wf g.pads = true := by
  induction l generalizing n with
  | nil => simp [packGangs]
  | cons g l ih =>
    rw [List.forall_mem_cons] at hl
    unfold packGangs
    split
    · exact List.forall_mem_cons.mpr ⟨wf_memCanon _, ih _ hl.2⟩
    · split
      · refine List.forall_mem_cons.mpr ⟨?_, ih _ hl.2⟩
        unfold Gang.reframed
        split
        exacts [hl.1, hl.1]
      · refine List.forall_mem_cons.mpr ⟨?_, ih _ hl.2⟩
        split
        exacts [hl.1, hl.1]

theorem Rank.Keeps.migrated {r q : Rank} (h : r.Keeps q) {sl t root} : r.Keeps (q.migrated sl t root) := by
  refine h.trans ⟨rfl, fun hq g hg => ?_⟩
  obtain ⟨x, hx, rfl⟩ := List.mem_map.mp hg
  exact wf_packGangs sl 0 hq x hx

theorem State.Keeps.copyRank (h : s.Keeps t) {c d read} : s.Keeps (t.copyRank c d read) := by
  unfold State.copyRank
  dsimp only
  split
  · exact h
  · refine .ite h (.ite h.failMigr ?_)
    split
    · exact h.freeList.failMigr
    · refine .modCmd ?_
      have hmoved := fun (l : List (Nat × Nat × Bool)) u (hu : s.Keeps u) =>
        State.Keeps.foldl (l := l) hu fun v q (hv : s.Keeps v) => hv.movePage (d := d) (src := t.viewMem c.by') (c := q) fun hm
            hf => wf_viewMem (h.forms hm hf).1.1 _
      have htabled := fun (l : List (Nat × List Byte)) u (hu : s.Keeps u) => State.Keeps.foldl (l := l) hu fun v q (hv : s.Keeps
          v) => hv.moveTable (t' := d) (p := q)
      exact .ite (htabled _ _ (hmoved _ _ h.freeList)) (htabled _ _ (hmoved _ _ h.freeList)).sendPart

theorem execMigrationCommand_keeps (h : s.Keeps t) {id} : s.KeepsNext (execMigrationCommand id t) := by
  unfold execMigrationCommand
  dsimp only
  refine .next ?_
  split
  · exact h
  · split
    exacts [.ite h.finishCmd (.ite h (.ite h.checkMigr.endMigr (.publishPlace (.tell (.setPlace (.modRank h.checkMigr.modCmd
        (fun _ => .rest (.refl _)))))))), h.copyRank, h]

theorem State.Keeps.writeFrames (h : s.Keeps t) {r} (hr : s.MemWf → s.FramesWf → r.PadsWf) : s.Keeps (t.writeFrames r) := by
  unfold State.writeFrames
  have hl : ∀ g ∈ r.gangs, s.MemWf → s.FramesWf → Memory.wf g.pads = true := fun g hg hm hf => hr hm hf g hg
  generalize r.gangs = l at hl
  induction l generalizing t with
  | nil => exact h
  | cons g l ih =>
    rw [List.forall_mem_cons] at hl
    refine ih ?_ hl.2
    dsimp only
    split
    exacts [h.putFrame hl.1, h]

theorem wf_restored {m : Memory} (h : m.wf = true) {l : List Gang} (hl : ∀ g ∈ l, Memory.wf g.pads = true) :
    Memory.wf (l.foldl (fun (m : Memory) (g : Gang) => if g.cores.isEmpty then m else padsFrom m g.pads g.coreNos) m) = true := by
  induction l generalizing m with
  | nil => exact h
  | cons g l ih =>
    rw [List.forall_mem_cons] at hl
    refine ih ?_ hl.2
    dsimp only
    split
    exacts [h, wf_padsFrom h hl.1 _]

theorem nodup_replaced {l : List Rank} (h : (l.map Rank.vr).Nodup) (q : Rank) :
    (((l.filter fun x => x.vr != q.vr) ++ [q]).map Rank.vr).Nodup := by
  rw [List.map_append, List.nodup_append]
  refine ⟨(List.filter_sublist.map _).nodup h, by simp, fun a ha b hb => ?_⟩
  obtain ⟨x, hx, rfl⟩ := List.mem_map.mp ha
  obtain rfl : b = q.vr := by simpa using hb
  simpa using (List.mem_filter.mp hx).2

theorem State.Keeps.install (h : s.Keeps t) {r} (hr : s.MemWf → s.FramesWf → r.PadsWf) : s.Keeps (t.install r) := by
  unfold State.install
  refine .tell ?_
  have hslot : s.Keeps (match r.place with
    | .resident k => (t.writeFrames r).modSlot k fun sl =>
        { sl with
          occupant := some r.vr
          shadow := r.gangs.foldl (fun (m : Memory) (g : Gang) => if g.cores.isEmpty then m else padsFrom m g.pads g.coreNos) sl.pads }
    | _ => t.writeFrames r) := by
    have hw := h.writeFrames hr
    split
    · refine .modSlotPads hw ?_
      exact fun hm hf k => ⟨fun hp _ => hp, fun hp _ => wf_restored hp (hr hm hf)⟩
    · exact hw
  refine ⟨hslot.boot, fun hv => nodup_replaced (hslot.vrs hv) _, fun hm hf => ⟨(hslot.forms hm hf).1, ?_⟩⟩
  have hfr := (hslot.forms hm hf).2
  rintro q (hq | hq)
  · obtain hq | hq := List.mem_append.mp hq
    · exact hfr q (.inl (List.mem_filter.mp hq).1)
    · obtain rfl := List.mem_singleton.mp hq
      intro g hg
      obtain ⟨x, -, rfl⟩ := List.mem_map.mp hg
      rfl
  · exact hfr q (.inr hq)

theorem State.Keeps.loseRank (h : s.Keeps t) {vr} : s.Keeps (t.loseRank vr) := by
  unfold State.loseRank
  exact h.setPlace.publishPlace

theorem State.Keeps.joinRank (h : s.Keeps t) {r} (hr : s.MemWf → s.FramesWf → r.PadsWf) : s.Keeps (t.joinRank r) := by
  unfold State.joinRank
  refine .ite h.loseRank (.install h.rest fun hm hf g hg => ?_)
  obtain ⟨x, hx, rfl⟩ := List.mem_map.mp hg
  exact hr hm hf x hx

theorem execMigrationCommit_keeps (h : s.Keeps t) {id} : s.KeepsNext (execMigrationCommit id t) := by
  unfold execMigrationCommit
  dsimp only
  refine .next ?_
  split
  · exact h
  · split
    · refine .ite h.finishCmd ?_
      split
      · exact h.endMigr
      · next r hr =>
        refine .ite h.failMigr (.ite h.failMigr (.ite h (.publishPlace (.modCmd (.setPlace (.ite (.install h ?_) h))))))
        exact fun hm hf => (Rank.Keeps.migrated (.refl _)).padsWf ((h.forms hm hf).2.rank hr).unframed
    · exact .ite h.finishCmd (.ite h h.freeSource.endMigr)
    · exact h

theorem Rank.received_padsWf (r : Rank) : r.received.PadsWf := by
  intro g hg
  obtain ⟨x, -, rfl⟩ := List.mem_map.mp hg
  exact wf_memCanon x.pads

theorem State.Keeps.takeJob (h : s.Keeps t) {job entries} : s.Keeps (t.takeJob job entries) := by
  unfold State.takeJob
  split
  exacts [.ite h h.rest, h]

theorem State.Keeps.takePart (h : s.Keeps t) {p} : s.Keeps (t.takePart p) := by
  unfold State.takePart
  split
  · exact .withMem h fun hm => wf_physPut hm _ _
  · dsimp only
    refine .ite (h.takeJob.joinRank fun _ _ => Rank.received_padsWf _) ?_
    have hj := State.Keeps.takeJob (job := ‹_›) (entries := ‹_›) h
    refine ⟨hj.boot, hj.vrs, fun hm hf => ⟨(hj.forms hm hf).1, ?_⟩⟩
    rintro q (hq | hq)
    · exact (hj.forms hm hf).2 q (.inl hq)
    · obtain hq | hq := List.mem_append.mp hq
      · exact (hj.forms hm hf).2 q (.inr (List.mem_filter.mp hq).1)
      · exact List.mem_singleton.mp hq ▸ Rank.received_padsWf _

theorem execMigrationData_keeps (h : s.Keeps t) {f part} : s.KeepsNext (execMigrationData f part t) := by
  unfold execMigrationData
  exact .next (.ite h.takePart (.recvFrame h (fun _ h3 => .ite h3.takePart h3.rest)))

theorem State.Keeps.applyPlace (h : s.Keeps t) {vr e} : s.Keeps (t.applyPlace vr e) := by
  unfold State.applyPlace
  dsimp only
  refine .ite ?_ h.setPlace
  split
  · next hr => exact h.setPlace.filterIncoming.joinRank fun hm hf => (h.setPlace.forms hm hf).2 _ (.inr (List.mem_of_find?_eq_some hr))
  · exact h.setPlace

theorem State.Keeps.applyChange (h : s.Keeps t) {d} : s.Keeps (t.applyChange d) := by
  unfold State.applyChange
  dsimp only
  split
  exacts [h.applyPlace.sendTo, h.applyDirectory.sendTo, h]

theorem execPlacementUpdate_keeps (h : s.Keeps t) {d} : s.KeepsNext (execPlacementUpdate d t) := by
  unfold execPlacementUpdate
  exact .next (.mine h (fun _ h2 => h2.applyChange))

theorem State.Keeps.stopGangs (h : s.Keeps t) {r} : s.Keeps (t.stopGangs r) := by
  unfold State.stopGangs
  exact .foldl h (fun _ _ h1 => h1.killNotice)

theorem execStackFailure_keeps (h : s.Keeps t) {slot} : s.KeepsNext (execStackFailure slot t) := by
  unfold execStackFailure
  dsimp only
  refine .next ?_
  split
  · split
    exacts [h.rest.failMigr, h.rest]
  · split
    · refine .modSlot ?_ (fun _ => .rest (.refl _))
      split
      exacts [h.rest.failMigr, h.rest]
    · refine .loseRank (.filterRanks (.stopGangs (.modSlot ?_ (fun _ => .rest (.refl _)))))
      split
      exacts [h.rest.failMigr, h.rest]

theorem State.Keeps.performRemote (h : s.Keeps t) {m} : s.Keeps (t.performRemote m) := by
  unfold State.performRemote
  split
  · exact h.send
  · refine .send ?_
    split
    · refine .withMem h fun hm => ?_
      exact wf_physPut hm _ _
    · exact h.rest
  · exact h.atomAt.send
  · exact h

theorem State.Keeps.arriveRemote (h : s.Keeps t) {m a} : s.Keeps (t.arriveRemote m a) := by
  unfold State.arriveRemote
  dsimp only
  split
  exacts [h.performRemote, h.send, .ite h.rest h.send]

theorem State.Keeps.notHeld (h : s.Keeps t) {q} : s.Keeps (t.notHeld q) := by
  unfold State.notHeld
  exact .ite h.rest h.send

theorem execRemoteLoad_keeps (h : s.Keeps t) {q tgt n} : s.KeepsNext (execRemoteLoad q tgt n t) := by
  unfold execRemoteLoad
  refine .next (.mine h (fun _ h2 => ?_))
  split
  · exact h2.arriveRemote
  · split
    exacts [.ite h2.send h2.send, h2.notHeld]

theorem execPostedWrite_keeps (h : s.Keeps t) {q tgt core strand order bytes} : s.KeepsNext (execPostedWrite q tgt core strand
    order bytes t) := by
  unfold execPostedWrite
  refine .next (.mine h (fun _ h2 => ?_))
  split
  · exact h2.arriveRemote
  · split
    exacts [.ite h2.send (.send (.modRank h2 (fun _ => .rest (.refl _)))), h2.notHeld]

theorem execAtomic_keeps (h : s.Keeps t) {q addr op} : s.KeepsNext (execAtomic q addr op t) := by
  unfold execAtomic
  exact .next (.mine h (fun _ h2 => h2.arriveRemote))

theorem State.Keeps.takeLoad (h : s.Keeps t) {k a bytes} : s.Keeps (t.takeLoad k a bytes) := by
  unfold State.takeLoad
  have hraced : s.Keeps (match a.dst with
    | .peer p x => t.openRaced a.by' (.peer p x) (k.overlay a.by'.core (.peer p x) bytes)
    | _ => (bytes, t)).2 := by
    split
    exacts [h.openRaced, h]
  dsimp only
  split
  exacts [hraced.dropAccess.cmdData, hraced.endAccess, hraced.endAccess]

theorem execLoadData_keeps (h : s.Keeps t) {q bytes} : s.KeepsNext (execLoadData q bytes t) := by
  unfold execLoadData
  refine .next (.mine h (fun _ h2 => ?_))
  split
  · exact h2.takeLoad
  · split
    exacts [.ite h2.finishGather h2.rest, h2]

theorem execWriteAcknowledgement_keeps (h : s.Keeps t) {q} : s.KeepsNext (execWriteAcknowledgement q t) := by
  unfold execWriteAcknowledgement
  dsimp only
  refine .next (.mine h (fun _ h2 => ?_))
  split
  · split
    exacts [.modRank h2.dropAccess (fun _ => .rest (.refl _)), h2.dropAccess]
  · exact h2.pubAck

theorem execAtomicResult_keeps (h : s.Keeps t) {q old} : s.KeepsNext (execAtomicResult q old t) := by
  unfold execAtomicResult
  refine .next (.mine h (fun _ h2 => ?_))
  split
  exacts [h2.endAccess, h2]

theorem execKeepWaitingNotice_keeps (h : s.Keeps t) {q} : s.KeepsNext (execKeepWaitingNotice q t) := by
  unfold execKeepWaitingNotice
  refine .next (.mine h (fun _ h2 => ?_))
  split
  exacts [h2.modAccess, h2]

theorem execRefusal_keeps (h : s.Keeps t) {q detail} : s.KeepsNext (execRefusal q detail t) := by
  unfold execRefusal
  refine .next (.mine h (fun _ h2 => ?_))
  split
  exacts [h2.refuseAccess, h2]

theorem execFrameStateSet_keeps (h : s.Keeps t) {index st} : s.KeepsNext (execFrameStateSet index st t) := by
  unfold execFrameStateSet
  dsimp only
  exact .next (.ite h.rest (.ite (.foldl h.rest.rest (fun _ _ h4 => h4.performRemote)) (.foldl h.rest.rest (fun _ _ h4 => h4.send))))

theorem execKeepWaitingTimer_keeps (h : s.Keeps t) {q} : s.KeepsNext (execKeepWaitingTimer q t) := by
  unfold execKeepWaitingTimer
  dsimp only
  refine .next ?_
  split
  exacts [h, h.rest.send]

theorem execFurrowTableLoad_keeps (h : s.Keeps t) {t'} : s.KeepsNext (execFurrowTableLoad t' t) := by
  unfold execFurrowTableLoad
  dsimp only
  exact .next (.ite h h.modFabric)

theorem State.Keeps.depart (h : s.Keeps t) {outs slot input f} : s.Keeps (t.depart outs slot input f) := by
  unfold State.depart
  exact h.modFabric

theorem execFlitForward_keeps (h : s.Keeps t) {link} : s.KeepsNext (execFlitForward link t) := by
  unfold execFlitForward
  dsimp only
  refine .next ?_
  split
  · exact h
  · split
    · exact h
    · split
      exacts [.ite (.rest (.foldl h.modFabric (fun _ _ h7 => h7.fabricEvent))) (.foldl h.modFabric (fun _ _ h6 =>
          h6.fabricEvent)), .foldl h.modFabric (fun _ _ h5 => h5.fabricEvent)]

theorem State.Keeps.consume (h : s.Keeps t) {c bs} : s.Keeps (t.consume c bs) := by
  unfold State.consume
  dsimp only
  split
  exacts [h.deposit, h.landNode, h.rest, h.groupResult]

theorem State.Keeps.answerXfer (h : s.Keeps t) {fid xfer ok} : s.Keeps (t.answerXfer fid xfer ok) := by
  unfold State.answerXfer
  dsimp only
  split
  exacts [h, .foldl h (fun _ _ h2 => h2.send)]

theorem State.Keeps.dropIn (h : s.Keeps t) {fid xfer} : s.Keeps (t.dropIn fid xfer) := by
  unfold State.dropIn
  exact h.modFabric

theorem State.Keeps.noteDelivered (h : s.Keeps t) {fid xfer} : s.Keeps (t.noteDelivered fid xfer) := by
  unfold State.noteDelivered
  exact h.modFabric

theorem State.Keeps.takeFlit (h : s.Keeps t) {e f} : s.Keeps (t.takeFlit e f) := by
  unfold State.takeFlit
  dsimp only
  split
  · exact .ite h.answerXfer h
  · split
    · exact h.modFabric
    · split
      · split
        exacts [h.modFabric.dropIn.noteDelivered.answerXfer.consume, h.modFabric.dropIn.noteDelivered.answerXfer]
      · exact h.modFabric.dropIn.answerXfer

theorem execTransferFail_keeps (h : s.Keeps t) {fid xfer} : s.KeepsNext (execTransferFail fid xfer t) := by
  unfold execTransferFail
  refine .next ?_
  split
  · exact h.answerXfer
  · split
    exacts [.ite h.dropIn.answerXfer h, h.answerXfer]

theorem State.Keeps.refreshCombined (h : s.Keeps t) {e c} : s.Keeps (t.refreshCombined e c) := by
  unfold State.refreshCombined
  exact h.modFabric

theorem State.Keeps.combineFlit (h : s.Keeps t) {e slot input f} : s.Keeps (t.combineFlit e slot input f) := by
  unfold State.combineFlit
  dsimp only
  exact .refreshCombined (.ite h.modFabric.depart h.modFabric)

theorem execScheduledFlitArrive_keeps (h : s.Keeps t) {input f} : s.KeepsNext (execScheduledFlitArrive input f t) := by
  unfold execScheduledFlitArrive
  refine .next ?_
  split
  · exact h.fabricEvent
  · split
    exacts [h.depart, h.depart, h.takeFlit, h.depart.takeFlit, h.combineFlit]

theorem execFurrowDepart_keeps (h : s.Keeps t) {fid} : s.KeepsNext (execFurrowDepart fid t) := by
  unfold execFurrowDepart
  dsimp only
  refine .next ?_
  split
  exacts [.ite h (.foldl h.modFabric (fun _ _ h4 => .ite h4.depart h4.combineFlit)), h]

theorem execTransferAck_keeps (h : s.Keeps t) {q fid xfer} : s.KeepsNext (execTransferAck q fid xfer t) := by
  unfold execTransferAck
  dsimp only
  refine .next (.mine h (fun _ h2 => ?_))
  split
  exacts [h2, .ite h2.modFabric.markSent h2.modFabric]

theorem execTransferNack_keeps (h : s.Keeps t) {q fid xfer} : s.KeepsNext (execTransferNack q fid xfer t) := by
  unfold execTransferNack
  refine .next (.mine h (fun _ h2 => ?_))
  split
  exacts [h2, .ite h2.modFabric.fabricEvent h2.modFabric]

theorem execHeadlandSlot_keeps (h : s.Keeps t) {link} : s.KeepsNext (execHeadlandSlot link t) := by
  unfold execHeadlandSlot
  dsimp only
  refine .next ?_
  split
  · exact h
  · split
    exacts [.ite h.modFabric.rest h, h]

theorem State.Keeps.modLink (h : s.Keeps t) {i f} : s.Keeps (t.modLink i f) := by
  unfold State.modLink
  exact h.modFabric

theorem State.Keeps.sendOffer (h : s.Keeps t) {link round} : s.Keeps (t.sendOffer link round) := by
  unfold State.sendOffer
  exact h.modLink.rest

theorem State.Keeps.fence (h : s.Keeps t) {link} : s.Keeps (t.fence link) := by
  unfold State.fence
  exact h.modLink.fabricEvent

theorem State.Keeps.retrain (h : s.Keeps t) {link l} : s.Keeps (t.retrain link l) := by
  unfold State.retrain
  exact .ite h.sendOffer h.fence

theorem State.Keeps.joinTime (h : s.Keeps t) {rec} : s.Keeps (t.joinTime rec) := by
  unfold State.joinTime
  exact .ite h.modFabric h

theorem execTrainingRecord_keeps (h : s.Keeps t) {link rec} : s.KeepsNext (execTrainingRecord link rec t) := by
  unfold execTrainingRecord
  dsimp only
  refine .next ?_
  split
  · exact h
  · split
    · exact h
    · split
      · exact h.retrain
      · split
        · split
          exacts [h.fence, h.modLink.rest]
        · exact .ite (.ite (.ite h.joinTime.modLink.fabricEvent h.joinTime.modLink) h.retrain) h

theorem execLinkLossOfLock_keeps (h : s.Keeps t) {link} : s.KeepsNext (execLinkLossOfLock link t) := by
  unfold execLinkLossOfLock
  dsimp only
  refine .next ?_
  split
  exacts [h, .ite h (.sendOffer (.ite h.fence.modFabric.fabricEvent h.fence.modFabric))]

theorem State.Keeps.failConn (h : s.Keeps t) {c} : s.Keeps (t.failConn c) := by
  unfold State.failConn
  dsimp only
  exact .foldl h.setConn.fabricEvent (fun _ _ h1 => h1.failMigr)

theorem State.Keeps.resend (h : s.Keeps t) {c named} : s.Keeps (t.resend c named) := by
  unfold State.resend
  dsimp only
  exact .ite h.failConn h.setConn.rest

theorem execFrameAck_keeps (h : s.Keeps t) {f} : s.KeepsNext (execFrameAck f t) := by
  unfold execFrameAck
  exact .next (.ite h.ackFrames h)

theorem execFrameNack_keeps (h : s.Keeps t) {f gap} : s.KeepsNext (execFrameNack f gap t) := by
  unfold execFrameNack
  dsimp only
  exact .next (.ite h.ackFrames.resend h)

theorem execTransportResend_keeps (h : s.Keeps t) {port dom pkg} : s.KeepsNext (execTransportResend port dom pkg t) := by
  unfold execTransportResend
  exact .next h.resend

theorem execGranaryBlock_keeps (h : s.Keeps t) {f b} : s.KeepsNext (execGranaryBlock f b t) := by
  unfold execGranaryBlock
  exact .next (.recvFrame h (fun _ h2 => .ite h2.sendBlockNear h2))

theorem execDemandTrafficFrame_keeps (h : s.Keeps t) {f d} : s.KeepsNext (execDemandTrafficFrame f d t) := by
  unfold execDemandTrafficFrame
  exact .next (.recvFrame h (fun _ h2 => h2.forward))

theorem State.ranks_placeLoaded (r : Rank) : (t.placeLoaded r).ranks = t.ranks ++ [r] := by
  unfold State.placeLoaded
  dsimp only
  split <;> rfl

theorem State.Keeps.placeLoaded (h : s.Keeps t) {r : Rank} (hnew : (s.ranks.map Rank.vr).Nodup → r.vr ∉ t.ranks.map Rank.vr)
    (hr : r.PadsWf) : s.Keeps (t.placeLoaded r) := by
  unfold State.placeLoaded
  dsimp only
  split
  exacts [.appendRank (h.modSlot fun _ => .rest (.refl _)) hnew hr, h.appendRank hnew hr]

theorem State.Keeps.placeLoadeds (h : s.Keeps t) {f : Sys2Proof.RankPlan → Rank} (hvr : ∀ p, (f p).vr = p.vr) (hf : ∀ p, (f p).PadsWf)
    {l : List Sys2Proof.RankPlan} (hl : (l.map fun p => p.vr).Nodup) (hnew : ∀ p ∈ l, p.vr ∉ t.ranks.map Rank.vr) :
    s.Keeps (l.foldl (fun u p => u.placeLoaded (f p)) t) := by
  induction l generalizing t with
  | nil => exact h
  | cons p l ih =>
    rw [List.map_cons, List.nodup_cons] at hl
    rw [List.forall_mem_cons] at hnew
    refine ih (h.placeLoaded (fun _ => hvr p ▸ hnew.1) (hf p)) hl.2 fun q hq hin => ?_
    rw [State.ranks_placeLoaded, List.map_append, List.mem_append] at hin
    obtain hin | hin := hin
    · exact hnew.2 q hq hin
    · refine hl.1 (List.mem_map.mpr ⟨q, hq, ?_⟩)
      rw [← hvr p]
      exact List.mem_singleton.mp hin

theorem State.ranks_foldl {α : Type} {f : State → α → State} (hf : ∀ u x, (f u x).ranks = u.ranks) {l : List α} {u : State} :
    (l.foldl f u).ranks = u.ranks := by
  induction l generalizing u with
  | nil => rfl
  | cons x l ih => exact (ih (u := f u x)).trans (hf u x)

theorem State.Keeps.loadPlan (h : s.Keeps t) {p n seed portable} (hp : t.planOk p n = true) : s.Keeps (t.loadPlan p n seed portable) := by
  simp only [State.planOk, Bool.and_eq_true, beq_iff_eq, Bool.not_eq_true', List.any_eq_false] at hp
  obtain ⟨⟨⟨⟨⟨⟨-, hnd⟩, -⟩, hnew⟩, -⟩, -⟩, -⟩ := hp
  unfold State.loadPlan
  dsimp only
  refine .foldl (.modGranary (.placeLoadeds (.foldl (.foldl (.withMem h ?_) fun _ _ h1 => h1.setPlace) fun _ _ h1 =>
    h1.modSlot fun k => ⟨fun hp _ => wf_memWrite hp _ _, fun _ hs => wf_memWrite hs _ _⟩) (fun _ => rfl) (fun _ _ hg => absurd
        hg List.not_mem_nil)
    (nodup_of_length_eraseDups hnd) fun q hq => ?_)) fun u g hu => ?_
  · intro hm
    have hbytes := wf_foldl hm (fun _ b hn => wf_physWrite hn b.1 b.2) p.bytes
    split
    exacts [wf_foldl hbytes (fun _ q hn => wf_physPut hn _ _) _, hbytes]
  · intro hin
    obtain ⟨r, hr, hrq⟩ := List.mem_map.mp hin
    have hheld : r ∈ t.ranks := by
      rw [State.ranks_foldl, State.ranks_foldl] at hr
      · exact hr
      · exact fun _ _ => rfl
      · exact fun _ _ => rfl
    refine hnew q.vr (List.mem_map.mpr ⟨q, hq, rfl⟩) (List.any_eq_true.mpr ⟨r, List.mem_append_left _ hheld, ?_⟩)
    rw [hrq, beq_self_eq_true]
  · split
    exacts [.ite hu hu.post, hu]

theorem State.Keeps.modHost (h : s.Keeps t) {f} : s.Keeps (t.modHost f) := by
  unfold State.modHost
  exact h.rest

theorem State.Keeps.takeMessage (h : s.Keeps t) : s.Keeps t.takeMessage := by
  unfold State.takeMessage
  exact h.modHost

theorem State.Keeps.answer (h : s.Keeps t) {m status} : s.Keeps (t.answer m status) := by
  unfold State.answer
  exact h.takeMessage.modHost

theorem State.Keeps.serve (h : s.Keeps t) {code f} (hf : ∀ u m, s.Keeps u → s.Keeps (f u m)) : s.Keeps (t.serve code f) := by
  unfold State.serve
  split
  exacts [.ite (hf _ _ h) h, h]

theorem execPartition_keeps (h : s.Keeps t) : s.KeepsNext (execPartition t) := by
  unfold execPartition
  dsimp only
  exact .next (.serve h (fun _ _ h2 => .ite h2.rest.answer h2))

theorem execLoadjob_keeps (h : s.Keeps t) {plan} : s.KeepsNext (execLoadjob plan t) := by
  unfold execLoadjob
  refine .next (.serve h fun u m hu => ?_)
  dsimp only
  refine .ite hu.answer ?_
  split
  · next hp => exact (hu.loadPlan hp).answer
  · exact hu

theorem State.Keeps.removeRank (h : s.Keeps t) {r} : s.Keeps (t.removeRank r) := by
  unfold State.removeRank
  exact .dropRank (.mapSlots (h.foldl fun _ _ h1 => h1.endGang) fun _ => .ite (.rest (.refl _)) (.refl _))

theorem execEndjob_keeps (h : s.Keeps t) {job} : s.KeepsNext (execEndjob job t) := by
  unfold execEndjob
  dsimp only
  exact .next (.serve h (fun _ _ h2 => .answer (.rest (.foldl h2 (fun _ _ h6 => h6.removeRank)))))

theorem execSupervisorMessage_keeps (h : s.Keeps t) : s.KeepsNext (execSupervisorMessage t) := by
  unfold execSupervisorMessage
  refine .next ?_
  split
  exacts [.ite h.takeMessage.modHost h, h]

theorem execMailboxUnknownCode_keeps (h : s.Keeps t) : s.KeepsNext (execMailboxUnknownCode t) := by
  unfold execMailboxUnknownCode
  refine .next ?_
  split
  exacts [.ite h (.ite h.answer (.ite h.answer h)), h]

theorem execHostBarWrite_keeps (h : s.Keeps t) {off v} : s.KeepsNext (execHostBarWrite off v t) := by
  unfold execHostBarWrite
  dsimp only
  exact .next (.ite h.modHost (.ite h.modHost (.ite h.modHost h)))

theorem State.Keeps.openAnswer (h : s.Keeps t) : s.Keeps (t.openAnswer).2 := by
  unfold State.openAnswer
  exact h.rest.freeBytes

theorem execSpdmRequest_keeps (h : s.Keeps t) {_bytes} : s.KeepsNext (execSpdmRequest _bytes t) := by
  unfold execSpdmRequest
  exact .next h.openAnswer.rest

theorem execManagementRequest_keeps (h : s.Keeps t) {_bytes} : s.KeepsNext (execManagementRequest _bytes t) := by
  unfold execManagementRequest
  exact .next h.openAnswer.rest

theorem execPowerLimit_keeps (h : s.Keeps t) {slots} : s.KeepsNext (execPowerLimit slots t) := by
  unfold execPowerLimit
  refine .next ⟨h.boot, h.vrs, fun hm hf => ?_⟩
  obtain ⟨⟨hw, hh, hs⟩, hfr⟩ := h.forms hm hf
  refine ⟨⟨hw, hh, fun k => ?_⟩, hfr⟩
  have hk := hs k
  simp only [State.slot, Vector.getElem?_ofFn] at hk ⊢
  split
  · next hlt => rwa [Vector.getElem?_eq_getElem hlt] at hk
  · exact ⟨rfl, rfl⟩

theorem execEccCorrected_keeps (h : s.Keeps t) : s.KeepsNext (execEccCorrected t) := by
  unfold execEccCorrected
  exact .next h.rest

theorem execEccUncorrectable_keeps (h : s.Keeps t) {w} : s.KeepsNext (execEccUncorrectable w t) := by
  unfold execEccUncorrectable
  refine .next ?_
  split
  · exact h.killNotice
  · exact h.killNotice
  · exact h.resetEngine
  · exact h.keeperFail
  · exact h.modFabric
  · split
    · split
      exacts [.ite h.failMigr h.killNotice, h.killNotice]
    · exact h

theorem execServiceRequest_keeps (h : s.Keeps t) {r} : s.KeepsNext (execServiceRequest r t) := by
  unfold execServiceRequest
  dsimp only
  exact .next (.ite h h.setRing.rest)

theorem State.Keeps.decide (h : s.Keeps t) {x how status ids} : s.Keeps (t.decide x how status ids) := by
  unfold State.decide
  exact h.rest

theorem State.Keeps.shootFor (h : s.Keeps t) {x how} : s.Keeps (t.shootFor x how) := by
  unfold State.shootFor
  dsimp only
  exact .decide (.modRank h (fun _ => .shoot (.refl _)))

theorem State.Keeps.putPte (h : s.Keeps t) {a e} : s.Keeps (t.putPte a e) := by
  unfold State.putPte
  refine .withMem h fun hm => ?_
  exact wf_physPut hm _ _

theorem State.Keeps.copyPeerPage (h : s.Keeps t) {e large frame} : s.Keeps (t.copyPeerPage e large frame) := by
  unfold State.copyPeerPage
  dsimp only
  exact .ite (.withMem h fun hm => wf_physPaste hm (wf_memPart_sub hm _ _) _ _) (.withMem h.freeBytes fun hm => wf_physPut hm _ _)

theorem execAtomicPermit_keeps (h : s.Keeps t) {r p} : s.KeepsNext (execAtomicPermit r p t) := by
  unfold execAtomicPermit
  dsimp only
  refine .next ?_
  split
  · exact h
  · split
    · split
      · exact h.decide
      · split
        · exact h.decide
        · split
          exacts [h.putPte.shootFor, .ite h h.copyPeerPage.putPte.shootFor]
    · exact h.decide

theorem State.Keeps.tableUnder (h : s.Keeps t) {entry frames} {a : Nat} {fs : List Nat} {u : State}
    (hu : t.tableUnder entry frames = some (a, fs, u)) : s.Keeps u := by
  unfold State.tableUnder at hu
  split at hu
  · cases hu
    exact h
  · split at hu <;> cases hu
    exact .putPte (.withMem h fun hm => wf_physPut hm _ _)

theorem State.Keeps.rootUnder (h : s.Keeps t) {vr frames} {a : Nat} {fs : List Nat} {u : State}
    (hu : t.rootUnder vr frames = some (a, fs, u)) : s.Keeps u := by
  unfold State.rootUnder at hu
  dsimp only at hu
  split at hu
  · cases hu
    exact h
  · split at hu <;> cases hu
    exact .modRank (.withMem h fun hm => wf_physPut hm _ _) fun _ => .rest (.refl _)

theorem State.Keeps.commitPage (h : s.Keeps t) {vr va page frames} {u : State} (hu : t.commitPage vr va page frames = some u) :
    s.Keeps u := by
  unfold State.commitPage at hu
  split at hu
  · cases hu
  · next h3 =>
    split at hu
    · cases hu
    · next h2 =>
      split at hu
      · cases hu
      · next h1 =>
        cases hu
        exact .putPte (.withMem (((h.rootUnder h3).tableUnder h2).tableUnder h1) fun hm => wf_physPut hm _ _)

theorem execCommit_keeps (h : s.Keeps t) {r frames} : s.KeepsNext (execCommit r frames t) := by
  unfold execCommit
  refine .next ?_
  split
  · exact h
  · split
    · split
      · split
        · next hu => exact (h.commitPage hu).shootFor
        · exact h
      · exact h
    · exact h
    · exact h.decide
    · exact h.decide

theorem execServiceReply_keeps (h : s.Keeps t) {r} : s.KeepsNext (execServiceReply r t) := by
  unfold execServiceReply
  dsimp only
  refine .next ?_
  split
  exacts [h, .ite h h.ringWrite.setRing.rest]

theorem State.Keeps.fetched (h : s.Keeps t) {a used} : s.Keeps (t.fetched a used) := by
  unfold State.fetched
  exact h.rest.markLeaf

theorem State.pads_tickGang (vr : Nat) (g : Gang) : (t.tickGang vr g).pads = g.pads := by
  unfold State.tickGang
  split <;> rfl

theorem State.Keeps.count (h : s.Keeps t) : s.Keeps t.count := by
  unfold State.count
  exact .mapRanks h fun r => .ite (.mapGangs (.refl r) fun g => t.pads_tickGang r.vr g) (.refl r)

theorem State.Keeps.cycleEdge (h : s.Keeps t) : s.Keeps t.cycleEdge := by
  unfold State.cycleEdge
  dsimp only
  exact .mapSlots h.count (fun _ => .rest (.refl _))

theorem State.Keeps.pcpAct (h : s.Keeps t) : s.Keeps t.pcpAct := by
  unfold State.pcpAct
  split
  exacts [h.rest.replayAct, h.rest.replayAct, h.pcpTurn]

theorem State.Keeps.slotCount (h : s.Keeps t) : s.Keeps t.slotCount := by
  unfold State.slotCount
  dsimp only
  exact .mapRanks h (fun _ => .rest (.refl _))

theorem State.Keeps.slotEdge (h : s.Keeps t) : s.Keeps t.slotEdge := by
  unfold State.slotEdge
  exact h.slotCount.rest

theorem State.Keeps.tick (h : s.Keeps t) : s.Keeps t.tick := by
  unfold State.tick
  exact .ite h (.ite h.slotEdge h.cycleEdge)

/-! ### Every instruction but the four that set HSTAT -/

/-- The instructions that set HSTAT (R428, R436, R438). -/
def setsBoot : Instr → Prop
  | .powerGood => True
  | .bringupStage _ => True
  | .reset => True
  | .moduleFault => True
  | _ => False

theorem exec_keeps (h : s.Keeps t) {i : Instr} (hi : ¬ setsBoot i) : s.KeepsNext (exec i t) := by
  cases i with
  | nop => exact execNop_keeps h
  | feat => exact execFeat_keeps h
  | rdctl => exact execRdctl_keeps h
  | shapeWrite => exact execShapeWrite_keeps h
  | fpflagsClear => exact execFpflagsClear_keeps h
  | loopRegisterWrite => exact execLoopRegisterWrite_keeps h
  | ringRegisterWrite => exact execRingRegisterWrite_keeps h
  | walWrite => exact execWalWrite_keeps h
  | wrctl => exact execWrctl_keeps h
  | rand => exact execRand_keeps h
  | exit => exact execExit_keeps h
  | trap => exact execTrap_keeps h
  | waiti => exact execWaiti_keeps h
  | add => exact execAdd_keeps h
  | sub => exact execSub_keeps h
  | and => exact execAnd_keeps h
  | or => exact execOr_keeps h
  | xor => exact execXor_keeps h
  | andn => exact execAndn_keeps h
  | shl => exact execShl_keeps h
  | shr => exact execShr_keeps h
  | sar => exact execSar_keeps h
  | rot => exact execRot_keeps h
  | mul => exact execMul_keeps h
  | mulh => exact execMulh_keeps h
  | mulhu => exact execMulhu_keeps h
  | div => exact execDiv_keeps h
  | divu => exact execDivu_keeps h
  | rem => exact execRem_keeps h
  | remu => exact execRemu_keeps h
  | min => exact execMin_keeps h
  | max => exact execMax_keeps h
  | minu => exact execMinu_keeps h
  | maxu => exact execMaxu_keeps h
  | adds => exact execAdds_keeps h
  | subs => exact execSubs_keeps h
  | clz => exact execClz_keeps h
  | popc => exact execPopc_keeps h
  | sext => exact execSext_keeps h
  | zext => exact execZext_keeps h
  | addi => exact execAddi_keeps h
  | andi => exact execAndi_keeps h
  | ori => exact execOri_keeps h
  | xori => exact execXori_keeps h
  | shli => exact execShli_keeps h
  | shri => exact execShri_keeps h
  | sari => exact execSari_keeps h
  | roti => exact execRoti_keeps h
  | li => exact execLi_keeps h
  | lis => exact execLis_keeps h
  | cmp => exact execCmp_keeps h
  | cmpi => exact execCmpi_keeps h
  | pand => exact execPand_keeps h
  | por => exact execPor_keeps h
  | pxor => exact execPxor_keeps h
  | pandn => exact execPandn_keeps h
  | pnot => exact execPnot_keeps h
  | pmov => exact execPmov_keeps h
  | pset => exact execPset_keeps h
  | pclr => exact execPclr_keeps h
  | sel => exact execSel_keeps h
  | br => exact execBr_keeps h
  | brp => exact execBrp_keeps h
  | call => exact execCall_keeps h
  | jr => exact execJr_keeps h
  | lpset => exact execLpset_keeps h
  | lpseti => exact execLpseti_keeps h
  | ld => exact execLd_keeps h
  | st => exact execSt_keeps h
  | sld => exact execSld_keeps h
  | sst => exact execSst_keeps h
  | atom => exact execAtom_keeps h
  | acas => exact execAcas_keeps h
  | fxadd => exact execFxadd_keeps h
  | fxrd => exact execFxrd_keeps h
  | xlate => exact execXlate_keeps h
  | hrel => exact execHrel_keeps h
  | hchk => exact execHchk_keeps h
  | hmov => exact execHmov_keeps h
  | qpush => exact execQpush_keeps h
  | qpop => exact execQpop_keeps h
  | qpeek => exact execQpeek_keeps h
  | qclose => exact execQclose_keeps h
  | qwaitData => exact execQwaitData_keeps h
  | qwaitRoom => exact execQwaitRoom_keeps h
  | sdesc => exact execSdesc_keeps h
  | sset => exact execSset_keeps h
  | sbind => exact execSbind_keeps h
  | sunbind => exact execSunbind_keeps h
  | sstat => exact execSstat_keeps h
  | phase => exact execPhase_keeps h
  | rvinit => exact execRvinit_keeps h
  | rvarr => exact execRvarr_keeps h
  | rvwait => exact execRvwait_keeps h
  | cfence => exact execCfence_keeps h
  | mark => exact execMark_keeps h
  | mjoin => exact execMjoin_keeps h
  | mwait => exact execMwait_keeps h
  | step => exact execStep_keeps h
  | ec => exact execEc_keeps h
  | ecr => exact execEcr_keeps h
  | tload => exact execTload_keeps h
  | tdiff => exact execTdiff_keeps h
  | tswap => exact execTswap_keeps h
  | tcrc => exact execTcrc_keeps h
  | tret => exact execTret_keeps h
  | rdsys => exact execRdsys_keeps h
  | l2ctlWrite => exact execL2ctlWrite_keeps h
  | nringWrite => exact execNringWrite_keeps h
  | frpoolWrite => exact execFrpoolWrite_keeps h
  | stepholdWrite => exact execStepholdWrite_keeps h
  | wtblWrite => exact execWtblWrite_keeps h
  | wrsys => exact execWrsys_keeps h
  | ldovf => exact execLdovf_keeps h
  | csave => exact execCsave_keeps h
  | crest => exact execCrest_keeps h
  | shoot => exact execShoot_keeps h
  | plock => exact execPlock_keeps h
  | pinq => exact execPinq_keeps h
  | punlock => exact execPunlock_keeps h
  | vmap => exact execVmap_keeps h
  | kill => exact execKill_keeps h
  | idle => exact execIdle_keeps h
  | glaunch => exact execGlaunch_keeps h
  | gkill => exact execGkill_keeps h
  | gstat => exact execGstat_keeps h
  | schld => exact execSchld_keeps h
  | schgo => exact execSchgo_keeps h
  | schhalt => exact execSchhalt_keeps h
  | schstat => exact execSchstat_keeps h
  | slotpost => exact execSlotpost_keeps h
  | waitiExpiry => exact execWaitiExpiry_keeps h
  | xlateDeliver => exact execXlateDeliver_keeps h
  | qtimeout => exact execQtimeout_keeps h
  | loadStreamEntry => exact execLoadStreamEntry_keeps h
  | storeStreamDrain => exact execStoreStreamDrain_keeps h
  | mjtimeout => exact execMjtimeout_keeps h
  | markerRetire => exact execMarkerRetire_keeps h
  | idleExpiry => exact execIdleExpiry_keeps h
  | bundleIssue => exact execBundleIssue_keeps h
  | pendingWriteLand => exact execPendingWriteLand_keeps h
  | asyncTrap => exact execAsyncTrap_keeps h
  | strandWaitRelease => exact execStrandWaitRelease_keeps h
  | memoryAccessComplete => exact execMemoryAccessComplete_keeps h
  | phaseBoundary => exact execPhaseBoundary_keeps h
  | quiescentCommit => exact execQuiescentCommit_keeps h
  | stepArrival => exact execStepArrival_keeps h
  | stepCollectiveComplete => exact execStepCollectiveComplete_keeps h
  | boundaryFlitSend => exact execBoundaryFlitSend_keeps h
  | boundaryResult => exact execBoundaryResult_keeps h
  | gangPlace => exact execGangPlace_keeps h
  | gangStart => exact execGangStart_keeps h
  | gangComplete => exact execGangComplete_keeps h
  | priorityAging => exact execPriorityAging_keeps h
  | gangHalt => exact execGangHalt_keeps h
  | hostQueuePost => exact execHostQueuePost_keeps h
  | hqbaseWrite => exact execHqbaseWrite_keeps h
  | hqTailWrite => exact execHqTailWrite_keeps h
  | hqEnable => exact execHqEnable_keeps h
  | hqTeardown => exact execHqTeardown_keeps h
  | hqErrClear => exact execHqErrClear_keeps h
  | schedHeadIssue => exact execSchedHeadIssue_keeps h
  | copyCommand => exact execCopyCommand_keeps h
  | copyRetire => exact execCopyRetire_keeps h
  | collectiveCommand => exact execCollectiveCommand_keeps h
  | collOpStart => exact execCollOpStart_keeps h
  | collOpComplete => exact execCollOpComplete_keeps h
  | treeNodeCombine => exact execTreeNodeCombine_keeps h
  | migrationCommand => exact execMigrationCommand_keeps h
  | migrationCommit => exact execMigrationCommit_keeps h
  | granaryGather => exact execGranaryGather_keeps h
  | engineReset => exact execEngineReset_keeps h
  | gradientBlockArrive => exact execGradientBlockArrive_keeps h
  | granaryBlockApply => exact execGranaryBlockApply_keeps h
  | granaryStepClose => exact execGranaryStepClose_keeps h
  | stepCloseTimeout => exact execStepCloseTimeout_keeps h
  | reg =>
    rw [exec_reg]
    exact execReg_keeps h
  | drop =>
    rw [exec_drop]
    exact execDrop_keeps h
  | rule => exact execRule_keeps h
  | hyper =>
    rw [exec_hyper]
    exact execHyper_keeps h
  | promote =>
    rw [exec_promote]
    exact execPromote_keeps h
  | seed =>
    rw [exec_seed]
    exact execSeed_keeps h
  | snap =>
    rw [exec_snap]
    exact execSnap_keeps h
  | replay => exact execReplay_keeps h
  | granaryUnknownCode => exact execGranaryUnknownCode_keeps h
  | seedSnapshotInstall => exact execSeedSnapshotInstall_keeps h
  | seedConfirm => exact execSeedConfirm_keeps h
  | granaryKeeperFail => exact execGranaryKeeperFail_keeps h
  | remoteLoad => exact execRemoteLoad_keeps h
  | loadData => exact execLoadData_keeps h
  | postedWrite => exact execPostedWrite_keeps h
  | writeAcknowledgement => exact execWriteAcknowledgement_keeps h
  | atomic => exact execAtomic_keeps h
  | atomicResult => exact execAtomicResult_keeps h
  | keepWaitingNotice => exact execKeepWaitingNotice_keeps h
  | refusal => exact execRefusal_keeps h
  | scheduleArrival => exact execScheduleArrival_keeps h
  | slotPost => exact execSlotPost_keeps h
  | transferAck => exact execTransferAck_keeps h
  | transferNack => exact execTransferNack_keeps h
  | placementUpdate => exact execPlacementUpdate_keeps h
  | gather => exact execGather_keeps h
  | blockAcknowledgement => exact execBlockAcknowledgement_keeps h
  | frameStateSet => exact execFrameStateSet_keeps h
  | faultQueueResend => exact execFaultQueueResend_keeps h
  | keepWaitingTimer => exact execKeepWaitingTimer_keeps h
  | remoteTimeout => exact execRemoteTimeout_keeps h
  | furrowDepart => exact execFurrowDepart_keeps h
  | scheduledFlitArrive => exact execScheduledFlitArrive_keeps h
  | flitForward => exact execFlitForward_keeps h
  | transferFail => exact execTransferFail_keeps h
  | headlandSlot => exact execHeadlandSlot_keeps h
  | trainingRecord => exact execTrainingRecord_keeps h
  | linkLossOfLock => exact execLinkLossOfLock_keeps h
  | collectiveChunk => exact execCollectiveChunk_keeps h
  | frameAck => exact execFrameAck_keeps h
  | frameNack => exact execFrameNack_keeps h
  | migrationData => exact execMigrationData_keeps h
  | granaryBlock => exact execGranaryBlock_keeps h
  | demandTrafficFrame => exact execDemandTrafficFrame_keeps h
  | transportResend => exact execTransportResend_keeps h
  | partition => exact execPartition_keeps h
  | loadjob => exact execLoadjob_keeps h
  | endjob => exact execEndjob_keeps h
  | reset => exact absurd trivial hi
  | supervisorMessage => exact execSupervisorMessage_keeps h
  | mailboxUnknownCode => exact execMailboxUnknownCode_keeps h
  | hostBarWrite => exact execHostBarWrite_keeps h
  | spdmRequest =>
    rw [exec_spdmRequest]
    exact execSpdmRequest_keeps h
  | managementRequest =>
    rw [exec_managementRequest]
    exact execManagementRequest_keeps h
  | powerGood => exact absurd trivial hi
  | bringupStage => exact absurd trivial hi
  | powerLimit => exact execPowerLimit_keeps h
  | eccUncorrectable => exact execEccUncorrectable_keeps h
  | stackFailure => exact execStackFailure_keeps h
  | sptrootWrite => exact execSptrootWrite_keeps h
  | supervisorShoot => exact execSupervisorShoot_keeps h
  | furrowTableLoad => exact execFurrowTableLoad_keeps h
  | graphLoad => exact execGraphLoad_keeps h
  | serviceRequest => exact execServiceRequest_keeps h
  | atomicPermit => exact execAtomicPermit_keeps h
  | commit => exact execCommit_keeps h
  | serviceReply => exact execServiceReply_keeps h
  | bubbleCycle => exact execBubbleCycle_keeps h
  | noticeWrite => exact execNoticeWrite_keeps h
  | eccCorrected => exact execEccCorrected_keeps h
  | moduleFault => exact absurd trivial hi

/-! ### The four instructions that set HSTAT -/

/-- What every step keeps: HSTAT legal, every VR held once, and every memory in canonical form. -/
structure State.KeepsGood (s t : State) : Prop where
  legal : s.boot.Legal → t.boot.Legal
  vrs : (s.ranks.map Rank.vr).Nodup → (t.ranks.map Rank.vr).Nodup
  forms : s.MemWf → s.FramesWf → t.MemWf ∧ t.FramesWf

theorem State.Keeps.good (h : s.Keeps t) : s.KeepsGood t := ⟨fun hl => h.boot ▸ hl, h.vrs, h.forms⟩

theorem State.Keeps.transGood {u : State} (h : s.Keeps t) (h' : t.KeepsGood u) : s.KeepsGood u :=
  ⟨fun hl => h'.legal (h.boot ▸ hl), h'.vrs ∘ h.vrs, fun hm hf => (h.forms hm hf).elim h'.forms⟩

theorem Boot.Legal.running {b : Boot} (h : b.Legal) {n : BitVec 4} (hs : b.stage ≠ 15) (hn : n.toNat ≤ 4) (hr : b.ready = false) :
    Boot.Legal { b with stage := n } := by
  obtain ⟨-, -, hfail⟩ := h
  exact ⟨.inl hn, fun hr' => absurd hr' (by simp [hr]), fun hf => absurd (hfail hf) hs⟩

theorem Boot.Legal.not_ready {b : Boot} (h : b.Legal) (hs : b.stage ≠ 4) : b.ready = false := by
  obtain ⟨-, hready, -⟩ := h
  by_contra hr
  exact hs (hready (by simpa using hr))

theorem execPowerGood_good {u : State} (h : execPowerGood s = .next u) : s.KeepsGood u := by
  obtain rfl := Host.Outcome.next.inj h
  split
  · next h0 => exact ⟨fun hl => hl.running (by simp [h0]) (by decide) (hl.not_ready (by simp [h0])), id, And.intro⟩
  · exact (State.Keeps.refl s).good

theorem State.Keeps.zeroMemory (s : State) : s.Keeps s.zeroMemory := by
  refine ⟨rfl, id, fun hm hf => ⟨⟨wf_nil, hm.2.1, fun k => ?_⟩, hf⟩⟩
  simp only [State.slot, State.zeroMemory, Vector.getElem?_map]
  cases s.slots[k]? <;> exact ⟨rfl, rfl⟩

theorem State.Keeps.offers (s : State) : s.Keeps ((List.range 32).foldl (fun (s : State) l => s.sendOffer l 0) s) :=
  (State.Keeps.refl s).foldl fun _ _ hu => hu.sendOffer

theorem State.Keeps.stopRanks (s : State) : s.Keeps (s.ranks.foldl (fun (s : State) r => s.stopGangs r) s) :=
  (State.Keeps.refl s).foldl fun _ _ hu => hu.stopGangs

theorem State.stageDone_good {n : Nat} (e : StageEnd) (hn : s.boot.stage.toNat = n) (hr : s.boot.ready = false) (hn4 : n ≤ 4) (hn0 : n ≠ 0) :
    s.KeepsGood (s.stageDone n e) := by
  have hs : s.boot.stage ≠ 15 := fun h => by simp [h] at hn; omega
  have hnext : ∀ k : BitVec 4, k.toNat ≤ 4 → s.boot.Legal → Boot.Legal { s.boot with stage := k } := fun k hk hl => hl.running hs hk hr
  unfold State.stageDone
  split
  · exact ⟨hnext 2 (by decide), id, And.intro⟩
  · exact ⟨hnext 3 (by decide), id, fun hm hf => (State.Keeps.zeroMemory s).forms hm hf⟩
  · have hoffers := State.Keeps.offers { s with boot := { s.boot with stage := 4, fwver := e.fwver } }
    refine ⟨fun hl => ?_, hoffers.vrs, hoffers.forms⟩
    rw [hoffers.boot]
    exact hnext 4 (by decide) hl
  · refine ⟨fun ⟨_, _, hfail⟩ => ⟨.inl hn.le, fun _ => BitVec.eq_of_toNat_eq hn, fun hf => hfail hf⟩, id, And.intro⟩
  · exact (State.Keeps.refl s).good

theorem execBringupStage_good {e : StageEnd} {u : State} (h : execBringupStage e s = .next u) : s.KeepsGood u := by
  obtain rfl := Host.Outcome.next.inj h
  dsimp only
  split
  · exact (State.Keeps.refl s).good
  · next hn =>
    simp only [not_or, Bool.not_eq_true] at hn
    obtain ⟨h0, h4, hr⟩ := hn
    split
    · exact State.stageDone_good e rfl hr (by omega) h0
    · exact ⟨fun _ => ⟨.inr rfl, fun hr' => absurd hr' (by simp [hr]), fun _ => rfl⟩, id, And.intro⟩

theorem State.restart_good (s : State) : s.KeepsGood s.restart := by
  refine ⟨fun _ => ⟨.inl (by simp [State.restart]), fun hr => absurd hr Bool.false_ne_true, fun hf => absurd rfl hf⟩, fun _ =>
      List.nodup_nil, ?_⟩
  rintro ⟨hm, hh, hs⟩ -
  refine ⟨⟨hm, hh, fun k => ?_⟩, fun r hr => ?_⟩
  · have hk := hs k
    simp only [State.slot, State.restart, Vector.getElem?_map] at hk ⊢
    cases hx : s.slots[k]? with
    | none => exact ⟨rfl, rfl⟩
    | some l => simpa [hx] using hk
  · obtain hr | hr := hr <;> exact absurd hr List.not_mem_nil

theorem execReset_good {u : State} (h : execReset s = .next u) : s.KeepsGood u := by
  obtain rfl := Host.Outcome.next.inj h
  split
  · split
    · exact (State.Keeps.refl s).answer.transGood (State.restart_good _)
    · exact (State.Keeps.refl s).good
  · exact (State.Keeps.refl s).good

theorem execModuleFault_good {u : State} (h : execModuleFault s = .next u) : s.KeepsGood u := by
  obtain rfl := Host.Outcome.next.inj h
  have hstop := State.Keeps.stopRanks s
  refine ⟨fun hl => ?_, hstop.vrs, hstop.forms⟩
  dsimp only
  rw [hstop.boot]
  exact hl

theorem exec_good {i : Instr} {u : State} (h : exec i s = .next u) : s.KeepsGood u := by
  by_cases hi : setsBoot i
  · cases i with
    | powerGood => exact execPowerGood_good h
    | bringupStage e => exact execBringupStage_good h
    | reset => exact execReset_good h
    | moduleFault => exact execModuleFault_good h
    | _ => exact hi.elim
  · exact (exec_keeps (.refl s) hi u h).good

/-! ### A step -/

theorem State.Keeps.runWord_good (h : s.Keeps t) {st : Strand} {w w1 : Nat} {u : State} (hu : t.runWord st w w1 = .next u) :
    s.KeepsGood u := by
  unfold State.runWord at hu
  split at hu
  · exact h.transGood (exec_good hu)
  · exact Host.Outcome.next.inj hu ▸ h.trap.good

theorem State.Keeps.runLong_good (h : s.Keeps t) {r : SRef} {st : Strand} {w : Nat} {u : State} (hu : t.runLong r st w = .next u) :
    s.KeepsGood u := by
  unfold State.runLong at hu
  split at hu
  · exact h.fetched.runWord_good hu
  · exact Host.Outcome.next.inj hu ▸ h.fetchFail.good

theorem State.Keeps.issueAt_good (h : s.Keeps t) {r : SRef} {st : Strand} {u : State} (hu : t.issueAt r st = .next u) : s.KeepsGood u := by
  unfold State.issueAt at hu
  split at hu
  · split at hu
    · exact h.fetched.transGood (exec_good hu)
    · exact Host.Outcome.next.inj hu ▸ h.fetchFail.good
  · split at hu
    · exact h.runLong_good hu
    · split at hu
      · split at hu
        · exact Host.Outcome.next.inj hu ▸ h.fetched.modStrand.good
        · exact h.fetched.runWord_good hu
      · exact Host.Outcome.next.inj hu ▸ h.fetchFail.good

theorem State.Keeps.strandTurn_good (h : s.Keeps t) {r : SRef} {u : State} (hu : t.strandTurn r = .next u) : s.KeepsGood u := by
  unfold State.strandTurn at hu
  split at hu
  · exact Host.Outcome.next.inj hu ▸ h.good
  · split at hu
    · exact h.rest.issueAt_good hu
    · exact Host.Outcome.next.inj hu ▸ h.good

theorem step_good {u : State} (hu : step s = .next u) : s.KeepsGood u := by
  unfold step at hu
  split at hu
  · exact (State.Keeps.refl s).rest.transGood (exec_good hu)
  · split at hu
    · exact (State.Keeps.refl s).rest.transGood (exec_good hu)
    · exact (State.Keeps.refl s).rest.strandTurn_good hu
    · exact Host.Outcome.next.inj hu ▸ (State.Keeps.refl s).rest.pcpAct.good
    · exact Host.Outcome.next.inj hu ▸ (State.Keeps.refl s).tick.good

/-! ### The obligations -/

/-- Only the four instructions change HSTAT. -/
theorem setsBoot_iff {i : Instr} : setsBoot i ↔ i = .powerGood ∨ (∃ e, i = .bringupStage e) ∨ i = .reset ∨ i = .moduleFault := by
  cases i <;> simp [setsBoot]

/-- From a failed stage no instruction but RESET leads on (R428, R436). -/
theorem stage_of_setsBoot {i : Instr} (hi : setsBoot i) (h15 : s.boot.stage = 15) {u : State} (hu : exec i s = .next u)
    (hr : i ≠ .reset) : u.boot.stage = 15 := by
  cases i with
  | powerGood =>
    obtain rfl := Host.Outcome.next.inj hu
    simp [h15]
  | bringupStage e =>
    obtain rfl := Host.Outcome.next.inj hu
    simp [h15]
  | reset => exact absurd rfl hr
  | moduleFault =>
    obtain rfl := Host.Outcome.next.inj hu
    dsimp only
    rw [(State.Keeps.stopRanks s).boot]
    exact h15
  | _ => exact hi.elim

/-- Settles O59: what a step keeps is carried through every named update of the state (`State.Keeps`), and the four instructions that
set HSTAT are taken one by one. -/
theorem stepKeepsHstatAndRanks : Obligations.StepKeepsHstatAndRanks := by
  refine ⟨fun s t hl hv h => ⟨(step_good h).legal hl, (step_good h).vrs hv⟩, fun i s t h hb => ?_, fun i s t h h15 ht => ?_⟩
  · by_contra hi
    exact hb (exec_keeps (.refl s) (setsBoot_iff.not.mpr hi) t h).boot
  · by_contra hr
    by_cases hi : setsBoot i
    · exact ht (stage_of_setsBoot hi h15 h hr)
    · exact ht ((exec_keeps (.refl s) hi t h).boot ▸ h15)

/-- Settles O60: by the same sweep, each write of memory by the lemma that it keeps the canonical form. -/
theorem stepKeepsMemoryForm : Obligations.StepKeepsMemoryForm := fun _ _ hm hf h => (step_good h).forms hm hf

end Sys2Proof.Machine

namespace Sys2Proof.Machine

/-! ### The machine at reset (17 R436) -/

theorem State.slot_reset (k : Nat) : State.reset.slot k = Slot.reset := by
  simp only [State.slot, State.reset, Vector.getElem?_replicate]
  split <;> rfl

/-- Settles O58: each value is read off the state at reset. -/
theorem resetValues : Obligations.ResetValues := by
  unfold Obligations.ResetValues
  refine ⟨rfl, rfl, Vector.toList_replicate, Vector.toList_replicate, rfl, rfl, rfl, rfl, rfl, rfl, rfl, rfl, rfl, rfl, rfl, rfl, rfl, rfl, rfl, rfl,
    rfl, rfl, rfl, rfl, rfl, fun l hl => ?_, List.length_replicate, fun k => ?_, ?_, List.nodup_nil, ?_, ?_⟩
  · obtain rfl := List.eq_of_mem_replicate hl
    exact ⟨rfl, rfl⟩
  · rw [State.slot_reset]
    exact ⟨rfl, rfl, rfl⟩
  · exact ⟨.inl (by decide), fun h => absurd h Bool.false_ne_true, fun h => absurd rfl h⟩
  · exact ⟨rfl, rfl, fun k => by rw [State.slot_reset]; exact ⟨rfl, rfl⟩⟩
  · rintro r (hr | hr) <;> exact absurd hr List.not_mem_nil
end Sys2Proof.Machine

namespace Sys2Proof.Machine

/-! ### Links, their training and headland slots (17 R405, R406, R413, R418 to R421) -/

section
variable {s : State} {link : Nat} {l : Link}

@[simp] theorem State.fabric_notify (s : State) (n : BitVec 1024) : (s.notify n).fabric = s.fabric := by
  unfold State.notify
  split <;> rfl

@[simp] theorem State.fabric_fabricEvent (s : State) (event rest : Nat) : (s.fabricEvent event rest).fabric = s.fabric :=
  s.fabric_notify _

@[simp] theorem State.out_notify (s : State) (n : BitVec 1024) : (s.notify n).out = s.out := by
  unfold State.notify
  split <;> rfl

@[simp] theorem State.out_fabricEvent (s : State) (event rest : Nat) : (s.fabricEvent event rest).out = s.out := s.out_notify _

theorem State.link?_modLink (hl : s.fabric.links[link]? = some l) (f : Link → Link) :
    (s.modLink link f).fabric.links[link]? = some (f l) := by
  simp [State.modLink, State.modFabric, hl]

/-! #### Headland slots -/

/-- The flit that a headland slot serves: that of the input to which the slot belongs, or of the next in ascending order that has one. -/
theorem exec_headlandSlot_serves {m : HeadFlit} {i : Nat} (hl : s.fabric.links[link]? = some l) (hi : i < 33) (h7 : s.fabric.dtb.toNat % 8 = 7)
    (hm : s.fabric.head.find? (fun x => x.link == link && x.input == (s.fabric.dtb.toNat / 8 + link + i) % 33) = some m)
    (hfirst : ∀ j, j < i → ∀ x ∈ s.fabric.head, x.link = link → x.input ≠ (s.fabric.dtb.toNat / 8 + link + j) % 33)
    (hup : l.up = true) (hfence : l.fenced = false) :
    exec (.headlandSlot link) s = .next { s with fabric := { s.fabric with head := s.fabric.head.erase m },
                                                 out := s.out ++ [.demand link m.msg] } := by
  have hh : (s.slotNow + 1) / 8 - 1 = s.fabric.dtb.toNat / 8 := by
    unfold State.slotNow
    omega
  have hrange : List.range 33 = List.range i ++ i :: (List.range (32 - i)).map (i + 1 + ·) := by
    rw [show 33 = i + (32 - i + 1) by omega, List.range_add, List.range_succ_eq_map]
    simp [Function.comp_def, Nat.add_comm 1, Nat.add_assoc]
  have hserved : (List.range 33).findSome? (fun i => s.fabric.head.find? fun m =>
      m.link == link && m.input == (s.fabric.dtb.toNat / 8 + link + i) % 33) = some m := by
    refine List.findSome?_eq_some_iff.mpr ⟨List.range i, i, _, hrange, hm, fun j hj => List.find?_eq_none.mpr fun x hx hsame => ?_⟩
    simp only [Bool.and_eq_true, beq_iff_eq] at hsame
    exact hfirst j (List.mem_range.mp hj) x hx hsame.1 hsame.2
  rw [exec_headlandSlot, execHeadlandSlot]
  simp only [hh, hserved, hl, hup, hfence]
  rw [if_neg (show ¬ s.slotNow % 8 ≠ 7 from not_not_intro h7), if_pos (by decide)]
  rfl

theorem exec_headlandSlot_idle (hl : s.fabric.links[link]? = some l)
    (h : s.fabric.dtb.toNat % 8 ≠ 7 ∨ l.up = false ∨ l.fenced = true ∨ ∀ x ∈ s.fabric.head, x.link ≠ link) :
    exec (.headlandSlot link) s = .next s := by
  rw [exec_headlandSlot, execHeadlandSlot]
  congr 1
  simp only [hl]
  split
  · rfl
  · next h7 =>
    split
    · next m hm =>
      obtain ⟨i, -, hi⟩ := List.exists_of_findSome?_eq_some hm
      have hlink : m.link = link := by
        have hsame := List.find?_some hi
        simp only [Bool.and_eq_true, beq_iff_eq] at hsame
        exact hsame.1
      obtain h | h | h | h := h
      · exact absurd h h7
      · simp [h]
      · simp [h]
      · exact absurd hlink (h m (List.mem_of_find?_eq_some hi))
    · rfl

/-! #### Training records -/

theorem bitsAt_putBits_self {k : Nat} (v : BitVec k) {lo n : Nat} (h : lo + n ≤ k) (x : Nat) : bitsAt (putBits v lo n x) lo n = x % 2 ^ n := by
  rw [bitsAt, extractLsb'_putBits_self v h, BitVec.toNat_ofNat]

theorem bitsAt_putBits_apart {k : Nat} (v : BitVec k) {lo n at' m : Nat} (h : at' + m ≤ lo ∨ lo + n ≤ at') (x : Nat) :
    bitsAt (putBits v lo n x) at' m = bitsAt v at' m := congrArg BitVec.toNat (extractLsb'_putBits_apart v h x)

/-- The fields of a record that a sender does not fill in itself (17 R419). -/
theorem State.bitsAt_sealRecord (s : State) (link pass : Nat) (r : BitVec 128) {lo n : Nat} (hlo : 62 ≤ lo) (hn : lo + n ≤ 96) :
    bitsAt (s.sealRecord link pass r) lo n = bitsAt r lo n := by
  unfold State.sealRecord
  rw [bitsAt_putBits_apart _ (.inl hn), bitsAt_putBits_apart _ (.inr (by omega)), bitsAt_putBits_apart _ (.inr (by omega)),
    bitsAt_putBits_apart _ (.inr (by omega)), bitsAt_putBits_apart _ (.inr (by omega)), bitsAt_putBits_apart _ (.inr (by omega))]

theorem State.trPass_sealRecord (s : State) (link pass : Nat) (r : BitVec 128) : trPass (s.sealRecord link pass r) = pass % 4 := by
  unfold State.sealRecord trPass
  rw [bitsAt_putBits_apart _ (.inl (by decide)), bitsAt_putBits_apart _ (.inl (by decide)), bitsAt_putBits_apart _ (.inl (by decide)),
    bitsAt_putBits_apart _ (.inl (by decide)), bitsAt_putBits_self _ (by decide)]
  rfl

/-- A sealed record carries its own CRC. -/
theorem State.trCrc_sealRecord (s : State) (link pass : Nat) (r : BitVec 128) :
    trCrc (s.sealRecord link pass r) = (s.sealRecord link pass r).extractLsb' 96 32 := by
  unfold State.sealRecord
  rw [extractLsb'_putBits_self _ (by decide), BitVec.ofNat_toNat, BitVec.setWidth_eq, trCrc, bitsAt_putBits_apart _ (.inl (by decide))]
  rfl

theorem goodLanes_le (a b : BitVec 128) : goodLanes a b ≤ 8 := List.length_filter_le _ (List.range 8)

/-- An agreement takes 8, 4, 2 or 1 of the lanes good at both ends, and the slower speed (17 R420). -/
theorem agreement_spec {own r : BitVec 128} {n v : Nat} (h : agreement own r = some (n, v)) :
    n ∈ [1, 2, 4, 8] ∧ n ≤ goodLanes own r ∧ v = max (trSpd own) (trSpd r) ∧ v < 3 := by
  unfold agreement at h
  obtain ⟨hok, hnv⟩ := Option.ite_none_left_eq_some.mp h
  obtain ⟨rfl, rfl⟩ := Prod.mk.inj (Option.some.inj hnv)
  obtain ⟨hn, hv⟩ := not_or.mp hok
  have hown : trSpd own < 4 := bitsAt_lt own 62 2
  have hr : trSpd r < 4 := bitsAt_lt r 62 2
  have hle := goodLanes_le own r
  refine ⟨?_, ?_, rfl, by omega⟩
  · simp only [List.mem_cons, List.not_mem_nil, or_false]
    unfold roundLanes at hn ⊢
    split_ifs at hn ⊢ <;> omega
  · unfold roundLanes
    split_ifs <;> omega

/-- A fenced link is down and trains no longer. -/
theorem State.link?_fence (hl : s.fabric.links[link]? = some l) :
    (s.fence link).fabric.links[link]? = some { l with up := false, fenced := true, offer := none } := by
  rw [State.fence, State.fabric_fabricEvent, State.link?_modLink hl]

/-- The offer that a link trains with, sealed with the time and the identity of its end. -/
theorem State.sendOffer_spec (hl : s.fabric.links[link]? = some l) (round : Nat) : ∃ rec,
    (s.sendOffer link round).fabric.links[link]? = some { l with up := false, offer := some rec, round := round, lanes := 0, spd := 0 } ∧
      (s.sendOffer link round).out = s.out ++ [.training link rec] ∧ trPass rec = 1 ∧ trCrc rec = rec.extractLsb' 96 32 :=
  ⟨_, State.link?_modLink hl _, rfl, s.trPass_sealRecord link 1 _, s.trCrc_sealRecord link 1 _⟩

section
variable {own r : BitVec 128} (hl : s.fabric.links[link]? = some l) (ho : l.offer = some own)
include hl ho

theorem exec_trainingRecord_badCrc (hc : trCrc r ≠ r.extractLsb' 96 32) : exec (.trainingRecord link r) s = .next (s.retrain link l) := by
  rw [exec_trainingRecord, execTrainingRecord]
  simp only [hl, ho]
  rw [if_pos hc]

theorem exec_trainingRecord_agreed (hc : trCrc r = r.extractLsb' 96 32) (hp : trPass r = 1) {n v : Nat} (ha : agreement own r = some (n, v)) :
    exec (.trainingRecord link r) s = .next { s.modLink link fun l => { l with lanes := n, spd := v } with
      out := s.out ++ [.training link (s.sealRecord link 2 (putBits (putBits 0 64 8 (2 ^ n - 1)) 62 2 v))] } := by
  rw [exec_trainingRecord, execTrainingRecord]
  simp only [hl, ho]
  rw [if_neg (not_not_intro hc), if_pos hp]
  simp only [ha]

theorem exec_trainingRecord_noLane (hc : trCrc r = r.extractLsb' 96 32) (hp : trPass r = 1) (ha : agreement own r = none) :
    exec (.trainingRecord link r) s = .next (s.fence link) := by
  rw [exec_trainingRecord, execTrainingRecord]
  simp only [hl, ho]
  rw [if_neg (not_not_intro hc), if_pos hp]
  simp only [ha]

/-- An agreement equal to that of this end brings the link up, and a package that joins takes the time in it. -/
theorem exec_trainingRecord_match (hc : trCrc r = r.extractLsb' 96 32) (hp : trPass r = 2) (h0 : l.lanes ≠ 0)
    (hlanes : bitsAt r 64 8 = 2 ^ l.lanes - 1) (hspd : trSpd r = l.spd) : ∃ t, exec (.trainingRecord link r) s = .next t ∧
      t.fabric = ((s.joinTime r).modLink link fun l => { l with up := true, fenced := false, offer := none, round := 0 }).fabric := by
  rw [exec_trainingRecord, execTrainingRecord]
  simp only [hl, ho]
  rw [if_neg (not_not_intro hc), if_neg (by rw [hp]; decide), if_pos hp, if_pos ⟨h0, hlanes, hspd⟩]
  refine ⟨_, rfl, ?_⟩
  split
  exacts [State.fabric_fabricEvent _ _ _, rfl]

theorem exec_trainingRecord_mismatch (hc : trCrc r = r.extractLsb' 96 32) (hp : trPass r = 2)
    (h : l.lanes = 0 ∨ bitsAt r 64 8 ≠ 2 ^ l.lanes - 1 ∨ trSpd r ≠ l.spd) :
    exec (.trainingRecord link r) s = .next (s.retrain link l) := by
  rw [exec_trainingRecord, execTrainingRecord]
  simp only [hl, ho]
  rw [if_neg (not_not_intro hc), if_neg (by rw [hp]; decide), if_pos hp, if_neg (by tauto)]

theorem exec_trainingRecord_otherPass (hc : trCrc r = r.extractLsb' 96 32) (hp : trPass r = 0 ∨ trPass r = 3) :
    exec (.trainingRecord link r) s = .next s := by
  rw [exec_trainingRecord, execTrainingRecord]
  simp only [hl, ho]
  rw [if_neg (not_not_intro hc), if_neg (by omega), if_neg (by omega)]
end

theorem exec_trainingRecord_idle (hl : s.fabric.links[link]? = some l) (ho : l.offer = none) (r : BitVec 128) :
    exec (.trainingRecord link r) s = .next s := by
  rw [exec_trainingRecord, execTrainingRecord]
  simp only [hl, ho]

theorem State.retrain_first (hr : l.round = 0) : s.retrain link l = s.sendOffer link 1 := if_pos hr

theorem State.retrain_again (hr : l.round ≠ 0) : s.retrain link l = s.fence link := if_neg hr

theorem State.joinTime_fabric (s : State) (rec : BitVec 128) : (s.joinTime rec).fabric.joining = false ∧
    (s.joinTime rec).fabric.dtb = (if s.fabric.joining then putBits s.fabric.dtb 0 32 (bitsAt rec 0 32) else s.fabric.dtb) ∧
    (s.joinTime rec).fabric.links = s.fabric.links := by
  unfold State.joinTime
  split
  · exact ⟨rfl, rfl, rfl⟩
  · next h => exact ⟨by simpa using h, rfl, rfl⟩

/-! #### Loss of lock -/

theorem exec_linkLossOfLock_down (hl : s.fabric.links[link]? = some l) (hup : l.up = false) : exec (.linkLossOfLock link) s = .next s := by
  rw [exec_linkLossOfLock, execLinkLossOfLock]
  simp only [hl, hup]
  rfl

/-- The link is fenced, gives up its flits and trains anew. -/
theorem exec_linkLossOfLock_up (hl : s.fabric.links[link]? = some l) (hup : l.up = true) : ∃ u : State,
    exec (.linkLossOfLock link) s = .next (u.sendOffer link 0) ∧ u.fabric.links[link]? = some { l with up := false, fenced := true, offer := none } ∧
      ∀ d ∈ u.fabric.departing, d.link ≠ link := by
  rw [exec_linkLossOfLock, execLinkLossOfLock]
  simp only [hl, hup]
  refine ⟨_, rfl, ?_⟩
  split
  all_goals
    refine ⟨by simpa [State.modFabric] using State.link?_fence hl, fun d hd => ?_⟩
    simp only [State.fabric_fabricEvent, State.modFabric, List.mem_filter] at hd
    simpa using hd.2
end

/-- Settles O50: by the arms of HEADLAND_SLOT, TRAINING_RECORD and LINK_LOSS_OF_LOCK, each named above. -/
theorem headlandSlotsAndLinks : Obligations.HeadlandSlotsAndLinks := by
  refine ⟨fun s link hl => ⟨?_, ?_, fun r => ?_⟩, fun s link l hl => ⟨fun m i hi h7 hm hfirst hup hf =>
    exec_headlandSlot_serves hl hi h7 hm hfirst hup hf, exec_headlandSlot_idle hl, fun ho r => exec_trainingRecord_idle hl ho r, ?_,
    fun own r n v => agreement_spec, exec_linkLossOfLock_down hl, fun hup => ?_⟩⟩
  · rw [exec_headlandSlot, execHeadlandSlot]
    congr 1
    simp only [hl]
    split
    · rfl
    · split <;> rfl
  · rw [exec_linkLossOfLock, execLinkLossOfLock]
    simp only [hl]
  · rw [exec_trainingRecord, execTrainingRecord]
    simp only [hl]
  · intro own r ho
    refine ⟨fun hc hr => ?_, fun hc hr => ?_, fun hc hp => ⟨fun n v ha => ?_, fun ha => ?_⟩, fun hc hp h0 hlanes hspd => ?_,
      fun hc hp h => ⟨fun hr => ?_, fun hr => ?_⟩, exec_trainingRecord_otherPass hl ho⟩
    · rw [exec_trainingRecord_badCrc hl ho hc, State.retrain_first hr]
    · rw [exec_trainingRecord_badCrc hl ho hc, State.retrain_again hr]
      exact ⟨_, _, rfl, State.link?_fence hl, rfl, rfl, rfl⟩
    · obtain ⟨hn, -, -, hv⟩ := agreement_spec ha
      refine ⟨_, _, exec_trainingRecord_agreed hl ho hc hp ha, State.link?_modLink hl _, rfl, s.trPass_sealRecord _ _ _, ?_, ?_,
        s.trCrc_sealRecord _ _ _⟩
      · rw [s.bitsAt_sealRecord _ _ _ (by decide) (by decide), bitsAt_putBits_apart _ (.inr (by decide)), bitsAt_putBits_self _ (by decide)]
        refine Nat.mod_eq_of_lt ?_
        have h8 : 2 ^ n ≤ 2 ^ 8 := Nat.pow_le_pow_right (by decide) (by simp at hn; omega)
        omega
      · rw [trSpd, s.bitsAt_sealRecord _ _ _ (by decide) (by decide), bitsAt_putBits_self _ (by decide)]
        omega
    · exact ⟨_, _, exec_trainingRecord_noLane hl ho hc hp ha, State.link?_fence hl, rfl, rfl⟩
    · obtain ⟨t, ht, hfab⟩ := exec_trainingRecord_match hl ho hc hp h0 hlanes hspd
      obtain ⟨hjoin, hdtb, hlinks⟩ := s.joinTime_fabric r
      refine ⟨t, ht, by rw [hfab]; exact hjoin, by rw [hfab]; exact hdtb, ?_⟩
      rw [hfab]
      exact State.link?_modLink (hlinks ▸ hl) _
    · rw [exec_trainingRecord_mismatch hl ho hc hp h, State.retrain_first hr]
    · rw [exec_trainingRecord_mismatch hl ho hc hp h, State.retrain_again hr]
      exact ⟨_, _, rfl, State.link?_fence hl, rfl, rfl, rfl⟩
  · obtain ⟨u, hu, hlink, hdep⟩ := exec_linkLossOfLock_up hl hup
    obtain ⟨rec, hnew, hout, hpass, hcrc⟩ := State.sendOffer_spec hlink 0
    exact ⟨_, _, rec, hu, hnew, rfl, rfl, rfl, hdep, by rw [hout]; simp, hpass, hcrc⟩

end Sys2Proof.Machine

namespace Sys2Proof.Machine

/-! ### Gangs that are gone stay gone where gangs end (14 R351, 17 R438) -/

/-- There is no gang of this number in the rank of this VR. -/
def State.Lacks (s : State) (v g : Nat) : Prop := s.gang? v g = none

section
variable {s t : State} {v g : Nat} (h : s.Lacks v g)
include h

theorem State.Lacks.congr (ht : t.ranks = s.ranks) : t.Lacks v g := (State.gang?_congr ht v g).trans h

theorem State.Lacks.modRank {vr : Nat} {f : Rank → Rank} (hvr : ∀ r, (f r).vr = r.vr)
    (hf : ∀ r, r.gang? g = none → (f r).gang? g = none) : (s.modRank vr f).Lacks v g := by
  rw [State.Lacks, State.gang?] at *
  rw [State.rank?_modRank s vr v f hvr]
  cases hr : s.rank? v with
  | none => rfl
  | some r =>
    rw [hr, Option.bind_some] at h
    rw [Option.map_some, Option.bind_some]
    split
    exacts [hf r h, h]

theorem State.Lacks.modCore (r : SRef) (f : Core → Core) : (s.modCore r f).Lacks v g :=
  h.modRank (fun _ => rfl) fun _ hr => find?_mapGangs_none (fun x => by split <;> rfl) hr

theorem State.Lacks.storeScratch (r : SRef) (slot addr : Nat) (bs : List Byte) : (s.storeScratch r slot addr bs).Lacks v g := by
  unfold State.storeScratch
  split
  · exact h.congr rfl
  · exact h.modRank (fun _ => rfl) fun _ hr => hr
  · exact h

theorem State.Lacks.writeElems (r : SRef) (slot sz : Nat) (data : Buf) (l : List (Int × Nat)) : (s.writeElems r slot sz data l).Lacks v g := by
  induction l generalizing s with
  | nil => exact h
  | cons _ _ ih => exact ih (h.storeScratch _ _ _ _)

theorem State.Lacks.finishEntry (r : SRef) (z slot : Nat) (cores : List Nat) (st : Stream) (rows : List RowSrc) :
    (s.finishEntry r z slot cores st rows).Lacks v g := by
  unfold State.finishEntry
  split
  · unfold State.deliverEntry
    dsimp only
    split <;> exact h.modCore _ _
  · split
    · unfold State.drainEntry
      dsimp only
      split
      · exact h.modCore _ _
      · split
        · exact h.modCore _ _
        · exact (h.writeElems _ _ _ _ _).modCore _ _
    · exact h

theorem State.Lacks.stopStreams (r : SRef) (i : StrandId) : (s.stopStreams r i).Lacks v g := by
  rw [State.stopStreams_eq]
  refine List.foldlRecOn (motive := fun u : State => u.Lacks v g) _ _ h fun s h z _ => ?_
  unfold State.stopStream
  split
  · dsimp only
    split
    · exact (h.finishEntry _ _ _ _ _ _).modCore _ _
    · exact h.modCore _ _
  · exact h

theorem State.Lacks.putCommitted (slot : Nat) (d : StoreTo) (bs : List Byte) : (s.putCommitted slot d bs).Lacks v g := by
  cases d <;> exact h.congr rfl

theorem State.Lacks.undefine (slot : Nat) (r : SRef) (l : List (Space × Nat)) : (s.undefine slot r l).Lacks v g := by
  induction l generalizing s with
  | nil => exact h
  | cons p l ih =>
    unfold State.undefine
    dsimp only
    refine ih ?_
    have hfree : (s.freeBytes p.2).2.Lacks v g := h.congr rfl
    split
    · exact hfree.putCommitted _ _ _
    · exact List.foldlRecOn (motive := fun u : State => u.Lacks v g) _ _ hfree fun s h q _ => h.putCommitted _ _ _

theorem State.Lacks.freeSource (c : BitVec 512) : (s.freeSource c).Lacks v g := by
  obtain ⟨-, hleft, hothers⟩ := s.freeSource_spec c
  rw [State.Lacks, State.gang?] at *
  by_cases hv : v = migVr c
  · subst hv
    cases hhere : s.migrHere c with
    | true => rw [State.freeSource_here hhere, State.rank?_congr (s.vacate_ranks c)]; exact h
    | false => rw [hleft hhere]; rfl
  · rw [hothers v hv]
    exact h

theorem State.Lacks.tell (vr : Nat) : (s.tell vr).Lacks v g := by
  unfold State.tell
  split
  · split <;> exact h.congr rfl
  · exact h

theorem State.Lacks.abandonMigr (c : Cmd) : (s.abandonMigr c).Lacks v g := by
  unfold State.abandonMigr
  split
  · next t _ _ _ _ _ _ =>
    have hmoved : (s.modRank (bitsAt t 32 24) fun r => { r with place := migrSource t }).Lacks v g := h.modRank (fun _ => rfl) fun _ hr => hr
    dsimp only
    split
    · exact State.Lacks.tell (State.Lacks.congr (t := State.setPlace _ _ _) hmoved rfl) _
    · split
      · exact h.freeSource _
      · exact h
  · exact h

theorem State.Lacks.discardCmds (p : Cmd → Bool) : (s.discardCmds p).Lacks v g := by
  unfold State.discardCmds
  refine List.foldlRecOn (motive := fun u : State => u.Lacks v g) _ _ (h.congr rfl) fun u hu c _ => ?_
  refine State.Lacks.abandonMigr ?_ c
  exact (hu.undefine _ _ _).congr rfl

theorem State.Lacks.schedFault (vr why : Nat) : (s.schedFault vr why).Lacks v g := by
  unfold State.schedFault
  split
  · exact h
  · refine State.Lacks.congr ?_ (State.notify_ranks _ _)
    refine h.modRank (fun r => Rank.settle_vr _ _) fun r hr => Rank.gang?_settle_none _ ?_
    exact find?_mapGangs_none (fun x => by split <;> rfl) hr

theorem State.Lacks.endGang (vr k : Nat) : (s.endGang vr k).Lacks v g := by
  unfold State.endGang
  split
  · exact h
  next x _ =>
    have hstop : (if x.holdsCores then x.cores.foldl (fun (s : State) c =>
        (s.stopStreams { vr := vr, gang := k, core := c.coreno, strand := .l } .l).stopStreams
          { vr := vr, gang := k, core := c.coreno, strand := .l } .s) s else s).Lacks v g := by
      split
      · exact List.foldlRecOn (motive := fun u : State => u.Lacks v g) _ _ h fun u hu c _ => (hu.stopStreams _ _).stopStreams _ _
      · exact h
    have hdrop := (hstop.discardCmds fun c => c.by'.vr == vr && c.by'.gang == k).modRank (vr := vr)
      (f := fun r => ((r.dropGang k).retireGang x.launch true).settleAll)
      (fun r => (Rank.settle_vr _ _).trans (Rank.retireGang_keeps _ _ _).1) fun r hr =>
        Rank.gang?_settle_none _ ((Rank.gang?_retireGang _ _ _ g).trans (Rank.gang?_dropGang_none hr k))
    dsimp only
    split
    · exact hdrop.schedFault _ _
    · exact hdrop

theorem State.Lacks.killNotice (r : SRef) (kind : Nat) (b : TrapBank) : (s.killNotice r kind b).Lacks v g := by
  unfold State.killNotice
  split
  · exact h
  · exact (h.endGang _ _).congr (State.notify_ranks _ _)

theorem State.Lacks.stopGangs (r : Rank) : (s.stopGangs r).Lacks v g := by
  unfold State.stopGangs
  exact List.foldlRecOn (motive := fun u : State => u.Lacks v g) _ _ h fun u hu _ _ => hu.killNotice _ _ _
end

/-- What one step of a fold brings about and every step keeps holds after it. -/
theorem foldl_reaches {α β : Type} {f : α → β → α} {p : α → Prop} (hkeep : ∀ a b, p a → p (f a b)) {l : List β} {b : β} (hb : b ∈ l)
    (hmake : ∀ a, p (f a b)) (a : α) : p (l.foldl f a) := by
  induction l generalizing a with
  | nil => exact absurd hb List.not_mem_nil
  | cons x l ih =>
    rw [List.foldl_cons]
    obtain rfl | hb := List.mem_cons.mp hb
    · exact List.foldlRecOn (motive := p) l f (hmake a) fun a ha x _ => hkeep a x ha
    · exact ih hb _

theorem State.lacks_stopGangs (s : State) {r : Rank} {x : Gang} (hx : x ∈ r.gangs) : (s.stopGangs r).Lacks r.vr x.id := by
  unfold State.stopGangs
  refine foldl_reaches (p := fun u : State => u.Lacks r.vr x.id) (fun u _ hu => hu.killNotice _ _ _) hx (fun u => ?_) s
  exact u.gang?_killNotice _ _ _

/-- Every gang of every rank is stopped (17 R438). -/
theorem State.lacks_stopRanks (s : State) (v g : Nat) : (s.ranks.foldl (fun (s : State) r => s.stopGangs r) s).Lacks v g := by
  by_cases hin : ∃ r ∈ s.ranks, r.vr = v ∧ ∃ x ∈ r.gangs, x.id = g
  · obtain ⟨r, hr, rfl, x, hx, rfl⟩ := hin
    refine foldl_reaches (p := fun u : State => u.Lacks r.vr x.id) (fun u _ hu => ?_) hr (fun u => u.lacks_stopGangs hx) s
    exact hu.stopGangs _
  · refine List.foldlRecOn (motive := fun u : State => u.Lacks v g) _ _ ?_ fun u hu _ _ => hu.stopGangs _
    refine Option.bind_eq_none_iff.mpr fun r hr => List.find?_eq_none.mpr fun x hx hxg => hin ?_
    exact ⟨r, State.rank?_mem hr, State.vr_of_rank? hr, x, hx, by simpa using hxg⟩

/-- Where no VR is held twice, a rank that is held is the one found under its VR. -/
theorem State.rank?_of_mem {s : State} (hv : (s.ranks.map Rank.vr).Nodup) {r : Rank} (hr : r ∈ s.ranks) : s.rank? r.vr = some r := by
  cases hq : s.rank? r.vr with
  | none => exact absurd (List.find?_eq_none.mp hq r hr) (by simp)
  | some q =>
    exact congrArg some (List.inj_on_of_nodup_map hv (State.rank?_mem hq) hr (State.vr_of_rank? hq))

theorem State.gangs_of_lacks {s : State} (hv : (s.ranks.map Rank.vr).Nodup) (h : ∀ v g, s.Lacks v g) {r : Rank} (hr : r ∈ s.ranks) :
    r.gangs = [] := by
  refine List.eq_nil_iff_forall_not_mem.mpr fun x hx => ?_
  have hlacks := h r.vr x.id
  rw [State.Lacks, State.gang?, State.rank?_of_mem hv hr, Option.bind_some, Rank.gang?, List.find?_eq_none] at hlacks
  exact hlacks x hx (beq_self_eq_true _)

/-! ### Bring-up (17 R428, R436) -/

section
variable {s : State} {e : StageEnd}

theorem exec_bringupStage_idle (h : s.boot.stage = 0 ∨ 4 < s.boot.stage.toNat ∨ s.boot.ready = true) : exec (.bringupStage e) s = .next s := by
  refine congrArg _ (if_pos ?_)
  obtain h | h | h := h
  · exact .inl (by rw [h]; rfl)
  · exact .inr (.inl h)
  · exact .inr (.inr h)

variable (h1 : 1 ≤ s.boot.stage.toNat) (h4 : s.boot.stage.toNat ≤ 4) (hr : s.boot.ready = false)
include h1 h4 hr

theorem exec_bringupStage_fails (he : e.ok = false) :
    exec (.bringupStage e) s = .next { s with boot := { s.boot with stage := 15, fail := s.boot.stage } } := by
  rw [exec_bringupStage, execBringupStage]
  dsimp only
  rw [if_neg (by simp [hr]; omega), he]
  rfl

theorem exec_bringupStage_completes (he : e.ok = true) : exec (.bringupStage e) s = .next (s.stageDone s.boot.stage.toNat e) := by
  rw [exec_bringupStage, execBringupStage]
  dsimp only
  rw [if_neg (by simp [hr]; omega), he]
  rfl
end

theorem toNat_pkgidOf (v : Word) : (pkgidOf v).toNat = v.toNat % 2 ^ 12 + 2 ^ 16 * (v.toNat / 2 ^ 16 % 2 ^ 10) := by
  rw [pkgidOf, bitsAt_eq, bitsAt_eq, BitVec.toNat_ofNat, Nat.pow_zero, Nat.div_one]
  exact Nat.mod_eq_of_lt (by omega)

theorem State.memories_sendOffer (s : State) (link round : Nat) : (s.sendOffer link round).memories = s.memories := by
  unfold State.sendOffer
  rfl

/-- The firmware runs (17 R436). -/
def State.withFirmware (s : State) (e : StageEnd) : State := { s with boot := { s.boot with stage := 4, fwver := e.fwver } }

/-- Stage 3 gives the version of the firmware, and the links begin to train. -/
theorem State.stageDone_three (s : State) (e : StageEnd) : (s.stageDone 3 e).boot = (s.withFirmware e).boot ∧
    (s.stageDone 3 e).memories = (s.withFirmware e).memories := by
  have heq : s.stageDone 3 e = (List.range 32).foldl (fun (s : State) l => s.sendOffer l 0) (s.withFirmware e) := rfl
  rw [heq]
  exact ⟨(State.Keeps.offers _).boot, foldl_keeps State.memories (fun s l => s.memories_sendOffer l 0) _ _⟩

/-- A completed stage leaves ERR and FAIL as they are. -/
theorem State.stageDone_spec (s : State) (e : StageEnd) :
    ∀ n, (s.stageDone n e).boot.err = s.boot.err ∧ (s.stageDone n e).boot.fail = s.boot.fail
  | 0 => ⟨rfl, rfl⟩
  | 1 => ⟨rfl, rfl⟩
  | 2 => ⟨rfl, rfl⟩
  | 3 => ⟨(congrArg Boot.err (s.stageDone_three e).1).trans rfl, (congrArg Boot.fail (s.stageDone_three e).1).trans rfl⟩
  | 4 => ⟨rfl, rfl⟩
  | _ + 5 => ⟨rfl, rfl⟩

theorem State.slot_zeroMemory (s : State) (k : Nat) : (s.zeroMemory.slot k).pads = [] ∧ (s.zeroMemory.slot k).shadow = [] := by
  simp only [State.slot, State.zeroMemory, Vector.getElem?_map]
  cases s.slots[k]? <;> exact ⟨rfl, rfl⟩

/-! ### Power and soft errors (17 R438, R439) -/

/-- A gang is under pre-emption. -/
def Gang.isHalting (g : Gang) : Bool := match g.cond with
  | .halting _ _ => true
  | _ => false

theorem Gang.isHalting_iff (g : Gang) : g.isHalting = true ↔ ∃ frame why, g.cond = .halting frame why := by
  unfold Gang.isHalting
  cases g.cond <;> simp

/-- A slot holds a gang under pre-emption. -/
def State.holdsHalting (s : State) (k : Nat) : Bool := s.ranks.any fun r => r.place == .resident k && r.gangs.any Gang.isHalting

theorem State.holdsHalting_iff (s : State) (k : Nat) : s.holdsHalting k = true ↔
    ∃ r ∈ s.ranks, r.place = .resident k ∧ ∃ g ∈ r.gangs, ∃ frame why, g.cond = .halting frame why := by
  simp only [State.holdsHalting, List.any_eq_true, Bool.and_eq_true, beq_iff_eq, Gang.isHalting_iff]

/-- The slots named are gated, but for those that hold a gang under pre-emption. -/
def State.limited (s : State) (v : BitVec 16) : State :=
  { s with slots := Vector.ofFn fun k => { s.slots[k] with gated := bitAt v k.val && !s.holdsHalting k.val } }

theorem exec_powerLimit_eq (s : State) (v : BitVec 16) : exec (.powerLimit v) s = .next (s.limited v) := rfl

theorem State.slot_limited (s : State) (v : BitVec 16) {k : Nat} (hk : k < 16) :
    (s.limited v).slot k = { s.slot k with gated := bitAt v k && !s.holdsHalting k } := by
  simp [State.slot, State.limited, hk]

theorem State.slot_limited_out (s : State) (v : BitVec 16) {k : Nat} (hk : ¬ k < 16) : (s.limited v).slot k = s.slot k := by
  simp [State.slot, State.limited, hk]

theorem State.sameMemory_limited (s : State) (v : BitVec 16) : s.SameMemory (s.limited v) := by
  refine ⟨fun _ => rfl, fun _ => rfl, fun k a => ?_⟩
  by_cases hk : k < 16
  · rw [s.slot_limited v hk]
    exact ⟨rfl, rfl⟩
  · rw [s.slot_limited_out v hk]
    exact ⟨rfl, rfl⟩

theorem State.gated_limited (s : State) (v : BitVec 16) {k : Nat} (hk : k < 16) : ((s.limited v).slot k).gated = true ↔
    v.getLsbD k = true ∧ ¬ ∃ r ∈ s.ranks, r.place = .resident k ∧ ∃ g ∈ r.gangs, ∃ frame why, g.cond = .halting frame why := by
  rw [s.slot_limited v hk, Bool.and_eq_true, Bool.not_eq_true', ← Bool.not_eq_true, s.holdsHalting_iff k]
  rfl

/-- Settles O53: stage by stage; a fault of the module stops every gang (`State.lacks_stopRanks`). -/
theorem bringUpPowerAndErrors : Obligations.BringUpPowerAndErrors := by
  intro s
  refine ⟨fun h0 => congrArg _ (if_pos h0), fun h0 => congrArg _ (if_neg h0), fun e => ⟨exec_bringupStage_idle, fun h1 h4 hr =>
    ⟨exec_bringupStage_fails h1 h4 hr, fun he => ?_⟩⟩, fun bs => ⟨⟨_, _, rfl, rfl, rfl, ?_⟩, _, _, rfl, rfl, rfl, ?_⟩,
    fun v => ⟨_, exec_powerLimit_eq s v, rfl, s.sameMemory_limited v, fun k hk => ⟨s.gated_limited v hk, by rw [s.slot_limited v hk]⟩⟩,
    ⟨_, rfl, ?_, fun hv r hr => ?_⟩, rfl, fun _ _ => rfl, fun _ _ => rfl, fun fid xfer => ⟨_, rfl, rfl, ?_⟩,
    fun r => ⟨_, rfl, s.gang?_killNotice r 3 _⟩, fun _ => rfl, fun id h => ?_, fun id c hc => ⟨?_, ?_⟩⟩
  · obtain ⟨herr, hfail⟩ := s.stageDone_spec e s.boot.stage.toNat
    refine ⟨_, exec_bringupStage_completes h1 h4 hr he, herr, hfail, fun hs => ?_, fun hs => ?_, fun hs => ?_, fun hs => ?_⟩
    · rw [show s.boot.stage.toNat = 1 by rw [hs]; rfl]
      exact ⟨rfl, rfl, rfl, State.sameMemory_of_memories rfl, toNat_pkgidOf e.pkgid⟩
    · rw [show s.boot.stage.toNat = 2 by rw [hs]; rfl]
      exact ⟨rfl, rfl, rfl, fun k _ => s.slot_zeroMemory k⟩
    · obtain ⟨hboot, hmem⟩ := s.stageDone_three e
      rw [show s.boot.stage.toNat = 3 by rw [hs]; rfl, hboot]
      exact ⟨rfl, rfl, hr, State.sameMemory_of_memories hmem⟩
    · rw [show s.boot.stage.toNat = 4 by rw [hs]; rfl]
      exact ⟨hs, rfl, State.sameMemory_of_memories rfl⟩
  · exact State.sameMemory_of_memories rfl
  · exact State.sameMemory_of_memories rfl
  · exact congrArg (fun b : Boot => { b with err := true }) (State.Keeps.stopRanks s).boot
  · exact State.gangs_of_lacks (s := s.ranks.foldl (fun (s : State) r => s.stopGangs r) s) ((State.Keeps.stopRanks s).vrs hv)
      s.lacks_stopRanks hr
  · intro x hx hfid hxfer
    obtain ⟨y, hy, rfl⟩ := List.mem_map.mp hx
    by_cases hit : y.fid = fid ∧ y.xfer = xfer
    · rw [if_pos hit]
    · rw [if_neg hit] at hfid hxfer
      exact absurd ⟨hfid, hxfer⟩ hit
  · rw [exec_eccUncorrectable, execEccUncorrectable]
    simp only [h]
  · intro t stage taken pages gangs root hbody hstage
    obtain rfl : c.id = id := by simpa using List.find?_some hc
    have hexec : exec (.eccUncorrectable (.command c.id)) s = .next (s.failMigr c t 5 (if stage = 2 then taken else [])) := by
      rw [exec_eccUncorrectable, execEccUncorrectable]
      simp only [hc, hbody]
      rw [if_pos hstage]
    refine ⟨_, hexec, ?_, fun hspoiled k hk => ?_⟩
    · obtain ⟨u, hu, -, -⟩ := s.failMigr_eq hbody hstage 5 (if stage = 2 then taken else [])
      obtain ⟨ws, hret, -⟩ := u.retired_endMigr c t 5 0 (if stage = 2 then taken else []).length 0
      exact hu ▸ hret.gone
    · obtain ⟨q, w, hq, hview, hbytes⟩ := (State.failMigr_reports hbody hstage 5 (if stage = 2 then taken else []) hspoiled).2 k hk
      refine ⟨q, w, hq, hview, hbytes.trans ?_⟩
      split <;> rfl
  · intro hno
    rw [exec_eccUncorrectable, exec_eccUncorrectable, execEccUncorrectable, execEccUncorrectable]
    simp only [hc]
    split
    · next hbody =>
      obtain ⟨hn1, hn2⟩ := hno _ _ _ _ _ _ hbody
      rw [if_neg (by simp [hn1, hn2])]
    · rfl
end Sys2Proof.Machine

namespace Sys2Proof.Machine

/-! ### Connections: their keys, their numbers, and what a failed one keeps (17 R425) -/

theorem State.conn_congr {s t : State} (h : t.conns = s.conns) (port dom pkg : Nat) : t.conn port dom pkg = s.conn port dom pkg := by
  rw [State.conn, h, State.conn]

/-- A connection that is set is the one of its key. -/
theorem State.conn_setConn_at {s : State} {c : Conn} {port dom pkg : Nat} (h : c.port = port ∧ c.dom = dom ∧ c.pkg = pkg) :
    (s.setConn c).conn port dom pkg = c := by
  obtain ⟨rfl, rfl, rfl⟩ := h
  exact State.conn_setConn

/-- A connection that is set leaves those of other keys. -/
theorem State.conn_setConn_ne {s : State} {c : Conn} {port dom pkg : Nat} (h : ¬ (c.port = port ∧ c.dom = dom ∧ c.pkg = pkg)) :
    (s.setConn c).conn port dom pkg = s.conn port dom pkg := by
  have hother : (c.port == port && c.dom == dom && c.pkg == pkg) = false := by
    simpa [and_assoc] using h
  have hfind : (s.conns.filter fun x => !(x.port == c.port && x.dom == c.dom && x.pkg == c.pkg)).find?
      (fun x => x.port == port && x.dom == dom && x.pkg == pkg) =
      s.conns.find? fun x => x.port == port && x.dom == dom && x.pkg == pkg := by
    rw [List.find?_filter]
    congr 1
    funext x
    by_cases hx : x.port = port ∧ x.dom = dom ∧ x.pkg = pkg
    · obtain ⟨rfl, rfl, rfl⟩ := hx
      have hne : (x.port == c.port && x.dom == c.dom && x.pkg == c.pkg) = false := by
        rw [Bool.eq_false_iff]
        intro heq
        simp only [Bool.and_eq_true, beq_iff_eq] at heq
        exact h ⟨heq.1.1.symm, heq.1.2.symm, heq.2.symm⟩
      rw [hne]
      simp
    · have hx' : (x.port == port && x.dom == dom && x.pkg == pkg) = false := by simpa [and_assoc] using hx
      rw [hx']
      simp
  simp only [State.conn, State.setConn, List.find?_append, hfind, List.find?_singleton, hother, Bool.false_eq_true, if_false,
    Option.or_none]

/-- What the rest of the machine leaves of the transport: no number of an incoming frame changes, a failed connection stays as it
is, and what has been sent stays sent. -/
structure State.Linked (s t : State) : Prop where
  numbers : ∀ port dom pkg, (t.conn port dom pkg).recvNext = (s.conn port dom pkg).recvNext
  failed : ∀ port dom pkg, (s.conn port dom pkg).failed = true → t.conn port dom pkg = s.conn port dom pkg
  out : ∀ o ∈ s.out, o ∈ t.out

theorem State.Linked.of_conns {s t : State} (hconns : t.conns = s.conns) (hout : ∀ o ∈ s.out, o ∈ t.out) : s.Linked t :=
  ⟨fun _ _ _ => congrArg Conn.recvNext (State.conn_congr hconns _ _ _), fun _ _ _ _ => State.conn_congr hconns _ _ _, hout⟩

/-- The connections and what has been sent. -/
def State.transport (s : State) : List Conn × List Out := (s.conns, s.out)

theorem State.Linked.of_eq {s t : State} (h : t.transport = s.transport) : s.Linked t :=
  .of_conns (congrArg Prod.fst h) fun o ho => by
    rw [show t.out = s.out from congrArg Prod.snd h]
    exact ho

theorem State.Linked.refl (s : State) : s.Linked s := .of_eq rfl

theorem State.Linked.trans {s t u : State} (h : s.Linked t) (h' : t.Linked u) : s.Linked u :=
  ⟨fun port dom pkg => (h'.numbers port dom pkg).trans (h.numbers port dom pkg),
    fun port dom pkg hf => (h'.failed port dom pkg ((h.failed port dom pkg hf).symm ▸ hf)).trans (h.failed port dom pkg hf),
    fun o ho => h'.out o (h.out o ho)⟩

/-- What is done from a state with the same connections. -/
theorem State.Linked.after {s t u : State} (h : t.Linked u) (heq : t.transport = s.transport) : s.Linked u :=
  (State.Linked.of_eq heq).trans h

theorem State.Linked.emit (s : State) (l : List Out) : s.Linked { s with out := s.out ++ l } :=
  .of_conns rfl fun _ ho => List.mem_append_left _ ho

theorem State.Linked.foldl {β : Type} {f : State → β → State} (h : ∀ s b, State.Linked s (f s b)) (l : List β) (s : State) :
    s.Linked (l.foldl f s) := by
  induction l generalizing s with
  | nil => exact .refl s
  | cons b l ih => exact (h s b).trans (ih _)

/-! #### What sends -/

/-- A connection that has not failed may be set with the number that it has. -/
theorem State.Linked.setConn {s : State} {c : Conn} (hnum : c.recvNext = (s.conn c.port c.dom c.pkg).recvNext)
    (hopen : (s.conn c.port c.dom c.pkg).failed ≠ true) : s.Linked (s.setConn c) := by
  refine ⟨fun port dom pkg => ?_, fun port dom pkg hf => State.conn_setConn_ne ?_, fun o ho => ho⟩
  · by_cases hk : c.port = port ∧ c.dom = dom ∧ c.pkg = pkg
    · rw [State.conn_setConn_at hk, hnum]
      obtain ⟨rfl, rfl, rfl⟩ := hk
      rfl
    · rw [State.conn_setConn_ne hk]
  · rintro ⟨rfl, rfl, rfl⟩
    exact hopen hf

/-- A frame joins a connection that has not failed, whose numbers of incoming frames stay. -/
theorem State.Linked.sendFrame (s : State) (kind : Nat) (h : FrameHdr) (body : FrameBody) (op : Option (Nat × Nat)) :
    s.Linked (s.sendFrame kind h body op) := by
  unfold State.sendFrame
  dsimp only
  split
  · exact .refl s
  · next hopen =>
    obtain ⟨hport, hdom, hpkg⟩ := s.conn_key h.port h.dom h.pkg
    split
    · refine (State.Linked.setConn ?_ ?_).trans (.emit _ _)
      · rw [hport, hdom, hpkg]
      · rwa [hport, hdom, hpkg]
    · refine State.Linked.setConn ?_ ?_
      · rw [hport, hdom, hpkg]
      · rwa [hport, hdom, hpkg]

theorem State.Linked.forward (s : State) (input : Nat) (m : Demand) : s.Linked (s.forward input m) := by
  unfold State.forward
  split <;> exact .of_eq rfl

theorem State.Linked.sendTo (s : State) (dom : Nat) (m : Demand) : s.Linked (s.sendTo dom m) := by
  unfold State.sendTo
  split
  · exact .forward s 32 m
  · exact .sendFrame s _ _ _ _

theorem State.Linked.publish (s : State) (dests : List (Nat × Nat)) (m : DHdr → Demand) (cmd gran : Option Nat) :
    s.Linked (s.publish dests m cmd gran) := by
  have hsent : ∀ (step : List Nat × State → Nat × Nat → List Nat × State), (∀ (r : List Nat × State) d, r.2.Linked (step r d).2) →
      s.Linked (dests.foldl step ([], s)).2 := fun step hstep =>
    List.foldlRecOn (motive := fun r : List Nat × State => s.Linked r.2) dests step (.refl s) fun r hr d _ => hr.trans (hstep r d)
  unfold State.publish
  dsimp only
  split
  · refine hsent _ fun r d => ?_
    exact (State.Linked.sendTo r.2.fresh.2 _ _).after rfl
  · refine (hsent _ fun r d => ?_).trans (.of_eq rfl)
    exact (State.Linked.sendTo r.2.fresh.2 _ _).after rfl

theorem State.Linked.publishPlace (s : State) (vr : Nat) (cmd : Option Nat) : s.Linked (s.publishPlace vr cmd) := by
  unfold State.publishPlace
  exact .publish s _ _ _ _

theorem State.Linked.tell (s : State) (vr : Nat) : s.Linked (s.tell vr) := by
  unfold State.tell
  split
  · split
    · exact .emit s _
    · exact .refl s
  · exact .refl s

theorem State.Linked.fabricEvent (s : State) (event rest : Nat) : s.Linked (s.fabricEvent event rest) := by
  unfold State.fabricEvent State.notify
  split <;> exact .of_eq rfl

/-! #### What takes a delivery -/

theorem State.Linked.startXfer (s : State) (fid : Nat) (bs : List Byte) (dests : List Nat) (op : Option (Nat × Nat)) :
    s.Linked (s.startXfer fid bs dests op) := .of_eq rfl

theorem State.Linked.deposit (s : State) (vr : Nat) (c : Chunk) (offset : Nat) : s.Linked (s.deposit vr c offset) := by
  unfold State.deposit
  split
  · exact .of_eq rfl
  · split
    · exact .of_eq rfl
    · split
      · exact .of_conns rfl fun _ ho => List.mem_append_left _ ho
      · exact .of_eq rfl

theorem State.Linked.chunkFurrow (s : State) (vr : Nat) (c : Chunk) (offset pkg : Nat) (op : Option (Nat × Nat)) :
    s.Linked (s.chunkFurrow vr c offset pkg op) := by
  unfold State.chunkFurrow
  split
  · exact .startXfer s _ _ _ _
  · exact .of_eq rfl

theorem State.Linked.takePiece (f : FrameHdr) (slot : Nat) (bs : List Byte) (s : State) : s.Linked (State.takePiece f slot bs s) := by
  unfold State.takePiece
  split
  · exact .deposit s _ _ _
  · exact .chunkFurrow s _ _ _ _ _

theorem State.Linked.sendBlockNear (s : State) (b : GBlock) (pkgs : List Nat) : s.Linked (s.sendBlockNear b pkgs) := by
  have hnear : ∀ u : State, u.transport = s.transport → s.Linked (if (pkgs.filter fun p => p != s.ownPkg).isEmpty then u else
      match s.route? (blockKey b.job b.shard) with
      | some fid => u.startXfer fid (xferBody b.sdom true b.spkg (gblockHeader b ++ leBytes 4 b.crc.toNat ++ gblockPayload b))
          (pkgs.filter fun p => p != s.ownPkg) none
      | none => { u with dropped := u.dropped + 1 }) := fun u hu => by
    split
    · exact .of_eq hu
    · split <;> exact .of_eq hu
  unfold State.sendBlockNear
  dsimp only
  split
  · exact hnear _ rfl
  · exact hnear s rfl

theorem State.Linked.writeFrames (s : State) (r : Rank) : s.Linked (s.writeFrames r) := by
  refine .of_eq (foldl_keeps State.transport (fun s g => ?_) _ _)
  split <;> rfl

theorem State.Linked.install (s : State) (r : Rank) : s.Linked (s.install r) := by
  unfold State.install
  refine (State.Linked.writeFrames s r).trans (State.Linked.trans (.of_eq ?_) (.tell _ _))
  cases r.place <;> rfl

theorem State.Linked.loseRank (s : State) (vr : Nat) : s.Linked (s.loseRank vr) :=
  (State.Linked.publishPlace (s.setPlace vr (s.restate vr 3 0)) vr none).after rfl

theorem State.Linked.joinRank (s : State) (r : Rank) : s.Linked (s.joinRank r) := by
  unfold State.joinRank
  split
  · exact .loseRank s _
  · refine State.Linked.trans ?_ (.install _ _)
    exact .of_eq rfl

theorem State.Linked.takePart (s : State) (p : MigPart) : s.Linked (s.takePart p) := by
  cases p with
  | page a bs => exact .of_eq rfl
  | rank r job entries =>
    have hjob : s.Linked (s.takeJob job entries) := by
      obtain ⟨j, q, hjob⟩ := s.takeJob_eq job entries
      rw [hjob]
      exact .of_eq rfl
    unfold State.takePart
    dsimp only
    split
    · exact hjob.trans (.joinRank _ _)
    · exact hjob.trans (.of_eq rfl)

theorem State.Linked.takeMigration (f : FrameHdr) (p : MigPart) (s : State) : s.Linked (State.takeMigration f p s) := by
  unfold State.takeMigration
  split
  · exact .takePart s p
  · exact .emit s _

/-! #### What ends a migration (15 R374) -/

theorem State.Linked.freeSource (s : State) (t : BitVec 512) : s.Linked (s.freeSource t) := by
  have hslot : ∀ u : State, u.transport = s.transport → s.Linked (if u.migrHere t then u else match u.rank? (bitsAt t 32 24) with
      | some r => u.leaveRank r
      | none => u) := fun u hu => by
    split
    · exact .of_eq hu
    · split <;> exact .of_eq hu
  unfold State.freeSource
  dsimp only
  split
  · exact hslot _ rfl
  · exact hslot s rfl

theorem State.Linked.abandonMigr (s : State) (c : Cmd) : s.Linked (s.abandonMigr c) := by
  unfold State.abandonMigr
  split
  · dsimp only
    split
    · exact (State.Linked.tell _ _).after rfl
    · split
      · exact .freeSource s _
      · exact .refl s
  · exact .refl s

theorem State.Linked.openSpoiled (s : State) (c : Cmd) (ws : List EByte) : s.Linked (s.openSpoiled c ws).2 := by
  unfold State.openSpoiled
  split <;> exact .of_eq rfl

theorem State.Linked.retireCmd (s : State) (c : Cmd) (ws : List EByte) : s.Linked (s.retireCmd c ws) := by
  have hown : ∀ u : State, (u.putOwnWrites c ws).transport = u.transport := fun u => by
    unfold State.putOwnWrites
    dsimp only
    split <;> rfl
  unfold State.retireCmd
  dsimp only
  split
  · exact .of_eq (hown { s with cmds := s.cmds.filter fun x => x.id != c.id })
  · exact .of_eq (hown { s with cmds := s.cmds.filter fun x => x.id != c.id })

theorem State.Linked.endCmd (s : State) (c : Cmd) (ws : List EByte) : s.Linked (s.endCmd c ws) := by
  unfold State.endCmd
  dsimp only
  refine (State.Linked.openSpoiled s c ws).trans ?_
  split
  · exact .retireCmd _ _ _
  · refine .of_eq (foldl_keeps State.transport (fun s q => ?_) _ _)
    rfl

theorem State.Linked.failMigr (s : State) (c : Cmd) (t : BitVec 512) (status : Nat) (taken : List Nat) :
    s.Linked (s.failMigr c t status taken) := by
  unfold State.failMigr
  refine ((State.Linked.abandonMigr s c).trans (.publishPlace _ (migVr t) none)).trans ?_
  refine State.Linked.trans ?_ (.endCmd _ _ _)
  split
  · refine .foldl (fun s a => ?_) _ _
    exact .of_eq rfl
  · exact .refl _

/-! ### Acknowledgements and deliveries (17 R425) -/

theorem State.ackFrames_eq (s : State) (c : Conn) (ackseq : Nat) : ∃ l fresh,
    s.ackFrames c ackseq = { s.setConn { c with unacked := c.unacked.filter fun f => !seqBefore f.seq ackseq } with
      cmds := l, out := s.out ++ fresh } := by
  have hmarks : ∀ (l : List OutFrame) (u : State), ∃ cmds, l.foldl (fun s f => s.markSent f.op) u = { u with cmds := cmds } := by
    intro l
    induction l with
    | nil => exact fun u => ⟨u.cmds, rfl⟩
    | cons f l ih =>
      intro u
      obtain ⟨cmds, hu⟩ := u.markSent_eq f.op
      rw [List.foldl_cons, hu]
      exact ih _
  obtain ⟨cmds, hcmds⟩ := hmarks (c.unacked.filter fun f => seqBefore f.seq ackseq) { s.setConn { c with
    unacked := c.unacked.filter fun f => !seqBefore f.seq ackseq } with
    out := s.out ++ ((c.unacked.drop connWindow).take (c.unacked.filter fun f => seqBefore f.seq ackseq).length).map
      fun f => Out.frame f.hdr.port f.kind f.hdr f.body }
  exact ⟨cmds, _, hcmds⟩

/-- The connection that an acknowledgement leaves. -/
theorem State.conn_ackFrames_at (s : State) (port dom pkg ackseq : Nat) :
    (s.ackFrames (s.conn port dom pkg) ackseq).conn port dom pkg =
      { s.conn port dom pkg with unacked := (s.conn port dom pkg).unacked.filter fun f => !seqBefore f.seq ackseq } := by
  obtain ⟨l, fresh, h⟩ := s.ackFrames_eq (s.conn port dom pkg) ackseq
  rw [h]
  exact (State.conn_congr rfl _ _ _).trans (State.conn_setConn_at (s.conn_key port dom pkg))

/-- The header of an answer of no payload. -/
def State.answerHdr (s : State) (c : Conn) : FrameHdr :=
  { frameHdr c.port c.dom s.ownPkg with seq := c.recvNext, ackseq := c.recvNext }

theorem State.mem_out_answerFrame (s : State) {c : Conn} {port : Nat} (h : c.port = port) (kind : Nat) :
    Out.frame port kind (s.answerHdr c) .none ∈ (s.answerFrame c kind).out := by
  subst h
  exact List.mem_append_right _ (List.mem_singleton_self _)

/-- The state in which the next frame in order is delivered: acknowledged, counted and answered. -/
def State.counted (s : State) (f : FrameHdr) : State :=
  let u := s.ackFrames (s.conn f.port f.dom f.pkg) f.ackseq
  let c := u.conn f.port f.dom f.pkg
  (u.setConn { c with recvNext := (c.recvNext + 1) % 2 ^ 32 }).answerFrame { c with recvNext := (c.recvNext + 1) % 2 ^ 32 } 2

section
variable {s : State} {f : FrameHdr}

theorem State.recvFrame_counted (hcrc : f.crcOk = true) (hseq : f.seq = (s.conn f.port f.dom f.pkg).recvNext) (act : State → State) :
    s.recvFrame f act = act (s.counted f) := by
  have hnext : f.seq = ((s.ackFrames (s.conn f.port f.dom f.pkg) f.ackseq).conn f.port f.dom f.pkg).recvNext := by
    rw [s.conn_ackFrames_at]
    exact hseq
  unfold State.recvFrame
  dsimp only
  rw [hcrc, if_neg (by simp), if_pos hnext]
  rfl

/-- A frame that is not the next one is answered and not delivered. -/
theorem State.recvFrame_outOfOrder (hcrc : f.crcOk = true) (hseq : f.seq ≠ (s.conn f.port f.dom f.pkg).recvNext)
    (act : State → State) :
    s.recvFrame f act = (s.ackFrames (s.conn f.port f.dom f.pkg) f.ackseq).answerFrame
      ((s.ackFrames (s.conn f.port f.dom f.pkg) f.ackseq).conn f.port f.dom f.pkg)
      (if seqBefore f.seq (s.conn f.port f.dom f.pkg).recvNext then 2 else 3) := by
  have hnext : ((s.ackFrames (s.conn f.port f.dom f.pkg) f.ackseq).conn f.port f.dom f.pkg).recvNext =
      (s.conn f.port f.dom f.pkg).recvNext := by
    rw [s.conn_ackFrames_at]
  unfold State.recvFrame
  dsimp only
  rw [hcrc, if_neg (by simp), hnext, if_neg hseq]
  split <;> rfl

theorem State.counted_recvNext :
    ((s.counted f).conn f.port f.dom f.pkg).recvNext = ((s.conn f.port f.dom f.pkg).recvNext + 1) % 2 ^ 32 := by
  have hnext : (s.counted f).conn f.port f.dom f.pkg = _ := (State.conn_congr rfl _ _ _).trans
    (State.conn_setConn_at ((s.ackFrames (s.conn f.port f.dom f.pkg) f.ackseq).conn_key f.port f.dom f.pkg))
  rw [hnext, s.conn_ackFrames_at]

theorem State.counted_answer : ∃ h, Out.frame f.port 2 h .none ∈ (s.counted f).out ∧
    h.ackseq = ((s.conn f.port f.dom f.pkg).recvNext + 1) % 2 ^ 32 := by
  have hconn := s.conn_ackFrames_at f.port f.dom f.pkg f.ackseq
  obtain ⟨hport, -, -⟩ := s.conn_key f.port f.dom f.pkg
  unfold State.counted
  dsimp only
  rw [hconn]
  refine ⟨_, State.mem_out_answerFrame _ ?_ 2, ?_⟩
  · exact hport
  · rfl

theorem State.counted_eq : ∃ conns out cmds, s.counted f = { s with conns := conns, out := out, cmds := cmds } := by
  obtain ⟨l, fresh, h⟩ := s.ackFrames_eq (s.conn f.port f.dom f.pkg) f.ackseq
  unfold State.counted
  rw [h]
  exact ⟨_, _, _, rfl⟩

theorem State.counted_cmdVrs : (s.counted f).cmdVrs = s.cmdVrs := s.ackFrames_cmdVrs _ _

end

/-! ### What each data frame delivers (17 R424; 10 R284) -/

section
variable {s : State} {f : FrameHdr}

/-- A chunk in order for a rank here joins its landing area (10 R284). -/
theorem State.takePiece_counted {r : Rank} (slot : Nat) (bs : List Byte) (hr : s.rank? f.dvr = some r) (hplace : r.place ≠ .transit)
    (hcmds : ∀ y ∈ s.cmds, y.by'.vr ≠ f.dvr) (hoff : f.offset = 0) :
    (State.takePiece f slot bs (s.counted f)).rank? f.dvr = some (r.landed (frameChunk f slot bs)) := by
  have hkeep : (s.counted f).cmdVrs = s.cmdVrs := State.counted_cmdVrs
  have hr' : (s.counted f).rank? f.dvr = some r := (State.rank?_congr (congrArg (·.1) hkeep) _).trans hr
  have hno : f.dvr ∉ (s.counted f).cmds.map fun y => y.by'.vr := by
    rw [show ((s.counted f).cmds.map fun y => y.by'.vr) = s.cmds.map fun y => y.by'.vr from congrArg (·.2) hkeep]
    exact State.vr_notMem_of_forall_ne hcmds
  rw [State.takePiece, if_pos (State.any_vr_of_rank? hr'), hoff, State.deposit_lands hr' hplace (State.chunkTaken_of_noCmds hno)]
  exact State.rank?_landed hr'

/-- What a GRANARY_BLOCK delivers. -/
def State.takeBlock (f : FrameHdr) (b : GBlock) (s : State) : State := if f.last then s.sendBlockNear b [f.dvr] else s

theorem State.Linked.takeBlock (f : FrameHdr) (b : GBlock) (s : State) : s.Linked (State.takeBlock f b s) := by
  unfold State.takeBlock
  split
  · exact .sendBlockNear s b _
  · exact .refl s

/-- A whole block for the granary here goes to it. -/
theorem State.takeBlock_here (b : GBlock) (hlast : f.last = true) (hhere : f.dvr = s.ownPkg) :
    (State.takeBlock f b s).inputs = s.inputs ++ [.gradientBlockArrive b] := by
  have hown : ({ s with inputs := s.inputs ++ [Instr.gradientBlockArrive b] } : State).ownPkg = s.ownPkg := rfl
  rw [State.takeBlock, if_pos hlast, hhere, State.sendBlockNear]
  simp [hown]

/-- Part of a block, or a block for another package, does not. -/
theorem State.takeBlock_elsewhere (b : GBlock) (h : f.last = false ∨ f.dvr ≠ s.ownPkg) : (State.takeBlock f b s).inputs = s.inputs := by
  unfold State.takeBlock
  split
  · next hlast =>
    have hother : [f.dvr].contains s.ownPkg = false := by
      have hne : f.dvr ≠ s.ownPkg := h.resolve_left (ne_false_of_eq_true hlast)
      simpa using hne.symm
    unfold State.sendBlockNear
    dsimp only
    rw [hother, if_neg Bool.false_ne_true]
    split
    · rfl
    · split <;> rfl
  · rfl

/-- No hop leads from a package to itself. -/
theorem hopDirection_self (pkg : Nat) : hopDirection pkg pkg = none := by
  simp [hopDirection]

/-- A message of this package goes to it. -/
theorem State.forward_here {d : Demand} (h : (demandHdr d).dpkg = s.ownPkg) (input : Nat) :
    s.forward input d = { s with net := s.net ++ [d] } := by
  rw [State.forward, State.linkFor, h, hopDirection_self]
  rfl

end

/-! ### Frames that are resent, and a connection that fails (17 R425) -/

/-- A frame that leaves once more. -/
def OutFrame.again (next : Nat) (x : OutFrame) : OutFrame :=
  { x with resends := x.resends + 1, age := 0, hdr := { x.hdr with ackseq := next } }

/-- What a resend makes of a frame: one that is named leaves once more. -/
def OutFrame.renewed (next : Nat) (named : OutFrame → Bool) (x : OutFrame) : OutFrame := if named x then x.again next else x

theorem OutFrame.renewed_seq (next : Nat) (named : OutFrame → Bool) (x : OutFrame) : (x.renewed next named).seq = x.seq := by
  unfold OutFrame.renewed
  split <;> rfl

/-- A frame that is named still has just left. -/
theorem OutFrame.renewed_age {next : Nat} {named : OutFrame → Bool} {x : OutFrame} (h : named (x.renewed next named) = true) :
    (x.renewed next named).age = 0 := by
  unfold OutFrame.renewed at *
  split at h
  · next hx => rw [if_pos hx]; rfl
  · next hx => exact absurd h hx

/-- What a resend makes of a connection. -/
def Conn.renewed (c : Conn) (named : OutFrame → Bool) : Conn :=
  { c with unacked := (c.unacked.take 4096).map (OutFrame.renewed c.recvNext named) ++ c.unacked.drop 4096 }

theorem Conn.renewed_seqs (c : Conn) (named : OutFrame → Bool) :
    (c.renewed named).unacked.map (fun x => x.seq) = c.unacked.map fun x => x.seq := by
  have hseqs : (c.unacked.take 4096).map (fun x => (x.renewed c.recvNext named).seq) = (c.unacked.take 4096).map fun x => x.seq :=
    List.map_congr_left fun x _ => x.renewed_seq _ _
  rw [Conn.renewed, List.map_append, List.map_map]
  refine (congrArg (· ++ _) hseqs).trans ?_
  rw [← List.map_append, List.take_append_drop]

theorem Conn.renewed_age {c : Conn} {named : OutFrame → Bool} {x : OutFrame} (hx : x ∈ (c.renewed named).unacked.take 4096)
    (h : named x = true) : x.age = 0 := by
  have hsent : x ∈ (c.unacked.take 4096).map (OutFrame.renewed c.recvNext named) := by
    rw [Conn.renewed] at hx
    rcases Nat.le_total c.unacked.length 4096 with hlen | hlen
    · rw [List.drop_eq_nil_of_le hlen, List.append_nil] at hx
      exact List.mem_of_mem_take hx
    · rwa [List.take_left' (by rw [List.length_map, List.length_take_of_le hlen])] at hx
  obtain ⟨y, -, rfl⟩ := List.mem_map.mp hsent
  exact OutFrame.renewed_age h

/-- What a resend sends. -/
def Conn.resent (c : Conn) (named : OutFrame → Bool) : List Out := ((c.unacked.take 4096).filter named).map fun f =>
  Out.frame f.hdr.port f.kind { f.hdr with ackseq := c.recvNext } f.body

theorem Conn.mem_resent {c : Conn} {named : OutFrame → Bool} {x : OutFrame} (hx : x ∈ c.unacked.take 4096) (h : named x = true) :
    ∃ h, h.seq = x.hdr.seq ∧ Out.frame x.hdr.port x.kind h x.body ∈ c.resent named :=
  ⟨{ x.hdr with ackseq := c.recvNext }, rfl, List.mem_map.mpr ⟨x, List.mem_filter.mpr ⟨hx, h⟩, rfl⟩⟩

/-- No frame that a resend names has been resent as often as a connection allows. -/
theorem State.resend_goesOn (s : State) {c : Conn} (h : ∀ x ∈ c.unacked, x.resends < 32) (named : OutFrame → Bool) :
    s.resend c named = { s.setConn (c.renewed named) with out := s.out ++ c.resent named } := by
  have hnone : (c.unacked.take connWindow).any (fun x => named x && maxResends ≤ x.resends) = false := by
    rw [List.any_eq_false]
    intro x hx
    have hlt := h x (List.mem_of_mem_take hx)
    have hle : ¬ maxResends ≤ x.resends := by
      rw [maxResends]
      omega
    simp [hle]
  unfold State.resend
  dsimp only
  rw [hnone, if_neg Bool.false_ne_true]
  rfl

theorem State.conn_resend {s : State} {c : Conn} {port dom pkg : Nat} (hkey : c.port = port ∧ c.dom = dom ∧ c.pkg = pkg)
    (h : ∀ x ∈ c.unacked, x.resends < 32) (named : OutFrame → Bool) :
    (s.resend c named).conn port dom pkg = c.renewed named := by
  rw [s.resend_goesOn h]
  exact (State.conn_congr rfl _ _ _).trans (State.conn_setConn_at hkey)

theorem State.mem_out_resend (s : State) {c : Conn} (h : ∀ x ∈ c.unacked, x.resends < 32) (named : OutFrame → Bool) {x : OutFrame}
    (hx : x ∈ c.unacked.take 4096) (hnamed : named x = true) :
    ∃ h, h.seq = x.hdr.seq ∧ Out.frame x.hdr.port x.kind h x.body ∈ (s.resend c named).out := by
  obtain ⟨g, hseq, hmem⟩ := Conn.mem_resent hx hnamed
  rw [s.resend_goesOn h]
  exact ⟨g, hseq, List.mem_append_right _ hmem⟩

/-- A connection that has failed holds nothing and stays failed while its migrations end. -/
theorem State.conn_failConn {s : State} {c : Conn} {port dom pkg : Nat} (hkey : c.port = port ∧ c.dom = dom ∧ c.pkg = pkg) :
    (s.failConn c).conn port dom pkg = { c with unacked := [], failed := true } := by
  have hset : (s.setConn { c with unacked := [], failed := true }).conn port dom pkg = { c with unacked := [], failed := true } :=
    State.conn_setConn_at hkey
  have hlink : (s.setConn { c with unacked := [], failed := true }).Linked (s.failConn c) :=
    (State.Linked.fabricEvent _ 7 _).trans (.foldl (fun u m => .failMigr u _ _ _ _) _ _)
  exact (hlink.failed port dom pkg (by rw [hset])).trans hset

theorem State.resend_fails (s : State) {c : Conn} {named : OutFrame → Bool}
    (h : ∃ x ∈ c.unacked.take 4096, named x = true ∧ 32 ≤ x.resends) : s.resend c named = s.failConn c := by
  obtain ⟨x, hx, hnamed, hle⟩ := h
  have hany : (c.unacked.take connWindow).any (fun x => named x && maxResends ≤ x.resends) = true :=
    List.any_eq_true.mpr ⟨x, hx, by rw [hnamed, Bool.true_and]; exact decide_eq_true hle⟩
  unfold State.resend
  dsimp only
  rw [if_pos hany]

/-! ### The acts of the transport -/

section
variable {s : State} {f : FrameHdr}

/-- Each data frame is received, and its delivery leaves the transport linked. -/
theorem exec_dataFrame {slot : Nat} {bs : List Byte} {b : GBlock} {d : Demand} {p : MigPart} {i : Instr}
    (hi : i ∈ [Instr.collectiveChunk f slot bs, .granaryBlock f b, .demandTrafficFrame f d] ∨ (f.dom ≠ s.ownDom ∧ i = .migrationData f p)) :
    ∃ act : State → State, exec i s = .next (s.recvFrame f act) ∧ ∀ u : State, u.Linked (act u) := by
  obtain hi | ⟨hdom, rfl⟩ := hi
  · simp only [List.mem_cons, List.not_mem_nil, or_false] at hi
    obtain rfl | rfl | rfl := hi
    · exact ⟨_, exec_collectiveChunk_eq slot bs, .takePiece f slot bs⟩
    · exact ⟨State.takeBlock f b, rfl, .takeBlock f b⟩
    · exact ⟨fun u => u.forward 32 d, rfl, fun u => .forward u 32 d⟩
  · exact ⟨_, exec_migrationData_far p hdom, .takeMigration f p⟩

/-- The next frame in order advances the number of its connection, is acknowledged, and is delivered (17 R424, R425). -/
theorem exec_dataFrame_next (slot : Nat) (bs : List Byte) (b : GBlock) (d : Demand) {p : MigPart} {i : Instr}
    (hi : i ∈ [Instr.collectiveChunk f slot bs, .granaryBlock f b, .demandTrafficFrame f d] ∨ (f.dom ≠ s.ownDom ∧ i = .migrationData f p))
    (hcrc : f.crcOk = true) (hseq : f.seq = (s.conn f.port f.dom f.pkg).recvNext) : ∃ act : State → State,
      exec i s = .next (act (s.counted f)) ∧ ∃ h,
      ((act (s.counted f)).conn f.port f.dom f.pkg).recvNext = ((s.conn f.port f.dom f.pkg).recvNext + 1) % 2 ^ 32 ∧
      Out.frame f.port 2 h .none ∈ (act (s.counted f)).out ∧ h.ackseq = ((s.conn f.port f.dom f.pkg).recvNext + 1) % 2 ^ 32 := by
  obtain ⟨act, hexec, hlink⟩ := exec_dataFrame hi
  obtain ⟨h, hmem, hack⟩ := State.counted_answer (s := s) (f := f)
  rw [State.recvFrame_counted hcrc hseq] at hexec
  exact ⟨act, hexec, h, ((hlink _).numbers _ _ _).trans State.counted_recvNext, (hlink _).out _ hmem, hack⟩

end

/-- Settles O51: a data frame by what its delivery leaves of the connections, the others by what becomes of their connection. -/
theorem scaleOutTransport : Obligations.ScaleOutTransport := by
  intro s f c now
  have hkey := s.conn_key f.port f.dom f.pkg
  refine ⟨fun slot bs b d p i hi => ⟨fun hcrc => ?_, fun hcrc hseq => ?_, fun hcrc hseq => ?_⟩, fun hcrc gap => ?_, fun hcrc => ?_,
    fun hcrc hold gap => ?_, fun hold => ?_, fun hspent => ?_⟩
  · obtain ⟨act, hexec, -⟩ := exec_dataFrame hi
    rw [hexec, State.recvFrame_bad hcrc]
  · obtain ⟨act, hexec, -⟩ := exec_dataFrame hi
    rw [hexec, State.recvFrame_outOfOrder hcrc hseq]
  · obtain ⟨act, hexec, h, hnext, hmem, hack⟩ := exec_dataFrame_next slot bs b d hi hcrc hseq
    obtain ⟨conns, out, cmds, hcounted⟩ := State.counted_eq (s := s) (f := f)
    have hdelivers : ∀ act' : State → State, exec i s = .next (s.recvFrame f act') → act (s.counted f) = act' (s.counted f) := by
      intro act' hact'
      rw [hexec, State.recvFrame_counted hcrc hseq] at hact'
      injection hact'
    refine ⟨_, h, hexec, hnext, hmem, hack, ?_, ?_, ?_, ?_⟩
    · rintro r rfl hr hplace hcmds hoff
      rw [hdelivers _ (exec_collectiveChunk_eq slot bs), State.takePiece_counted slot bs hr hplace hcmds hoff]
      rfl
    · rintro rfl hlast hhere
      rw [hdelivers (State.takeBlock f b) rfl, State.takeBlock_here b hlast (by rw [hcounted]; exact hhere), hcounted]
    · rintro rfl helse
      rw [hdelivers (State.takeBlock f b) rfl, State.takeBlock_elsewhere b (by rw [hcounted]; exact helse), hcounted]
    · rintro rfl hhere
      rw [hdelivers (fun u => u.forward 32 d) rfl, State.forward_here (by rw [hcounted]; exact hhere), hcounted]
  · constructor
    · rw [exec_frameAck, execFrameAck, hcrc]; rfl
    · rw [exec_frameNack, execFrameNack, hcrc]; rfl
  · obtain ⟨l, fresh, hack⟩ := s.ackFrames_eq c f.ackseq
    have hconn := s.conn_ackFrames_at f.port f.dom f.pkg f.ackseq
    refine ⟨s.ackFrames c f.ackseq, ?_, congrArg Conn.unacked hconn, (congrArg Conn.recvNext hconn).trans rfl, ?_, ?_⟩
    · rw [exec_frameAck, execFrameAck, hcrc]; rfl
    · rw [hack]; rfl
    · exact State.sameMemory_of_memories (by rw [hack]; rfl)
  · have hconn := s.conn_ackFrames_at f.port f.dom f.pkg f.ackseq
    have hall : (c.unacked.filter fun x => !seqBefore x.seq f.ackseq) = c.unacked :=
      List.filter_eq_self.mpr fun x hx => by rw [(hold x hx).2]; rfl
    have hsame : (s.ackFrames c f.ackseq).conn f.port f.dom f.pkg = c := hconn.trans (by rw [hall])
    have hfew : ∀ x ∈ c.unacked, x.resends < 32 := fun x hx => (hold x hx).1
    refine ⟨(s.ackFrames c f.ackseq).resend c fun x => x.seq == gap, ?_, ?_, fun x hx hgap => ?_⟩
    · rw [exec_frameNack, execFrameNack, hcrc, if_pos rfl]
      exact congrArg (fun c' => Host.Outcome.next (State.resend _ c' _)) hsame
    · exact (congrArg (fun c' => List.map OutFrame.seq (Conn.unacked c')) (State.conn_resend hkey hfew _)).trans (c.renewed_seqs _)
    · exact State.mem_out_resend _ hfew _ hx (beq_iff_eq.mpr hgap)
  · refine ⟨s.resend c fun x => resendSlots ≤ x.age, rfl, ?_, fun x hx hage => ?_, fun x hx => ?_⟩
    · exact (congrArg (fun c' => List.map OutFrame.seq (Conn.unacked c')) (State.conn_resend hkey hold _)).trans (c.renewed_seqs _)
    · exact State.mem_out_resend _ hold _ hx (decide_eq_true hage)
    · have hx' : x ∈ ((s.resend c fun x => resendSlots ≤ x.age).conn f.port f.dom f.pkg).unacked.take 4096 := hx
      rw [State.conn_resend hkey hold] at hx'
      by_contra hage
      have hzero := Conn.renewed_age hx' (decide_eq_true (Nat.le_of_not_lt hage))
      omega
  · obtain ⟨x, hx, hage, hle⟩ := hspent
    have hfails : s.resend c (fun x => resendSlots ≤ x.age) = s.failConn c :=
      s.resend_fails ⟨x, hx, decide_eq_true hage, hle⟩
    have hconn := State.conn_failConn (s := s) hkey
    exact ⟨s.failConn c, congrArg Host.Outcome.next hfails, congrArg Conn.failed hconn, congrArg Conn.unacked hconn⟩

end Sys2Proof.Machine

namespace Sys2Proof.Machine

/-! ### The furrow table and departures (17 R407 to R409) -/

/-- What a furrow transfer leaves alone: the memories and the ranks. -/
def State.settledRanks (s : State) : (Memory × Memory × Vector Slot 16) × List Rank := (s.memories, s.ranks)

section
variable {s : State}

theorem exec_furrowTableLoad_legal {t : FurrowLoad} (hper : ∃ k, k < 15 ∧ t.sper = 2 ^ (10 + k)) (hlen : t.entries.length ≤ 65536)
    (hall : ∀ e ∈ t.entries, furLegal t.sper e = true) : exec (.furrowTableLoad t) s = .next { s with fabric := { s.fabric with
      sper := t.sper, furrows := t.entries, consumers := t.consumers, holders := t.holders, routes := t.routes,
      boundary := t.boundary } } := by
  obtain ⟨k, hk, hsper⟩ := hper
  have hperiod : ((List.range 15).any fun k => t.sper == 2 ^ (10 + k)) = true :=
    List.any_eq_true.mpr ⟨k, List.mem_range.mpr hk, beq_iff_eq.mpr hsper⟩
  have hgood : ¬ (!((List.range 15).any fun k => t.sper == 2 ^ (10 + k)) || decide (65536 < t.entries.length) ||
      !(t.entries.all (furLegal t.sper))) = true := by
    rw [hperiod, List.all_eq_true.mpr hall, decide_eq_false (Nat.not_lt.mpr hlen)]
    decide
  rw [exec_furrowTableLoad, execFurrowTableLoad]
  dsimp only
  rw [if_neg hgood]
  rfl

theorem exec_furrowTableLoad_illegal {t : FurrowLoad} (h : ¬ ((∃ k, k < 15 ∧ t.sper = 2 ^ (10 + k)) ∧ t.entries.length ≤ 65536 ∧
    ∀ e ∈ t.entries, furLegal t.sper e = true)) : exec (.furrowTableLoad t) s = .next s := by
  rw [exec_furrowTableLoad, execFurrowTableLoad]
  dsimp only
  split
  · rfl
  · next hgood =>
    refine absurd ?_ h
    simp only [Bool.or_eq_true, Bool.not_eq_true', decide_eq_true_eq, not_or, Bool.not_eq_false, Nat.not_lt] at hgood
    obtain ⟨⟨hperiod, hlen⟩, hall⟩ := hgood
    obtain ⟨k, hk, hsper⟩ := List.any_eq_true.mp hperiod
    exact ⟨⟨k, List.mem_range.mp hk, beq_iff_eq.mp hsper⟩, hlen, List.all_eq_true.mp hall⟩

/-- The slots of a transfer's flits are scheduled ones, from the slot in which it leaves (17 R406, R409). -/
theorem flitSlot_scheduled (now i : Nat) : now ≤ flitSlot now i ∧ flitSlot now i % 8 ≠ 7 := by
  unfold flitSlot
  dsimp only
  omega

theorem flitCount_eq (b : Nat) : flitCount b = (b + 59) / 56 := by
  rw [flitCount, Nat.add_assoc]

theorem length_flitsOf (fid xfer : Nat) (bs : List Byte) : (flitsOf fid xfer bs).length = (bs.length + 59) / 56 := by
  rw [flitsOf, List.length_map, List.length_range, flitCount_eq]

theorem of_mem_flitsOf {fid xfer : Nat} {bs : List Byte} {f : Flit} (h : f ∈ flitsOf fid xfer bs) : f.fid = fid ∧ f.xfer = xfer := by
  obtain ⟨i, -, rfl⟩ := List.mem_map.mp h
  exact ⟨rfl, rfl⟩

/-- What flits that leave over links join. -/
theorem State.departing_foldl_depart (outs : List Nat) (now : Nat) (l : List Flit) (s : State) :
    (l.foldl (fun s f => s.depart outs (flitSlot now f.idx) 32 f) s).fabric.departing =
      s.fabric.departing ++ l.flatMap fun f => outs.map fun k => { link := k, slot := flitSlot now f.idx, input := 32, flit := f } := by
  induction l generalizing s with
  | nil => exact (List.append_nil _).symm
  | cons f l ih =>
    rw [List.foldl_cons, ih, List.flatMap_cons, ← List.append_assoc]
    rfl

/-! ### Combine nodes (17 R416) -/

/-- What has come of the operands of a flit's transfer. -/
def State.operands (s : State) (f : Flit) : Combining :=
  (s.fabric.combining.find? fun c => c.fid == f.fid && c.xfer == f.xfer).getD { fid := f.fid, xfer := f.xfer, left := [], right := [] }

/-- The operands once a flit has come on an input. -/
def Combining.took (c : Combining) (e : BitVec 128) (input : Nat) (f : Flit) : Combining :=
  let put := fun (l : List (Nat × BitVec 448)) => (if f.idx = 0 then [] else l.filter fun p => p.1 != f.idx) ++ [(f.idx, f.payload)]
  if input = furInl e then { c with left := put c.left } else { c with right := put c.right }

/-- Whether the other operand's flit has come. -/
def Combining.met (c : Combining) (e : BitVec 128) (input idx : Nat) : Bool :=
  (if input = furInl e then c.right else c.left).any fun p => p.1 == idx

/-- A node notes its operands. -/
def State.noteOperands (s : State) (f : Flit) (c : Combining) : State :=
  s.modFabric fun fb => { fb with combining := (fb.combining.filter fun c => c.fid != f.fid) ++ [c] }

theorem State.combineFlit_eq (s : State) (e : BitVec 128) (slot input : Nat) (f : Flit) : s.combineFlit e slot input f =
    (if ((s.operands f).took e input f).met e input f.idx then
      (s.noteOperands f ((s.operands f).took e input f)).depart (furOuts e) (slot + 40) input f
    else s.noteOperands f ((s.operands f).took e input f)).refreshCombined e ((s.operands f).took e input f) := rfl

theorem State.operands_key (s : State) (f : Flit) : (s.operands f).fid = f.fid ∧ (s.operands f).xfer = f.xfer := by
  unfold State.operands
  cases hfind : s.fabric.combining.find? fun c => c.fid == f.fid && c.xfer == f.xfer with
  | none => exact ⟨rfl, rfl⟩
  | some c => simpa using List.find?_some hfind

theorem Combining.took_key (c : Combining) (e : BitVec 128) (input : Nat) (f : Flit) :
    (c.took e input f).fid = c.fid ∧ (c.took e input f).xfer = c.xfer := by
  unfold Combining.took
  dsimp only
  split <;> exact ⟨rfl, rfl⟩

/-- A flit of one operand leaves what has come of the other. -/
theorem Combining.took_met (c : Combining) (e : BitVec 128) (input : Nat) (f : Flit) (idx : Nat) :
    (c.took e input f).met e input idx = c.met e input idx := by
  unfold Combining.took Combining.met
  dsimp only
  split <;> rfl

theorem State.settledRanks_modFabric (s : State) (f : Fabric → Fabric) : (s.modFabric f).settledRanks = s.settledRanks := rfl

theorem State.fabric_modFabric (s : State) (f : Fabric → Fabric) : (s.modFabric f).fabric = f s.fabric := rfl

/-- A flit of an operand changes the combine nodes and the flits that leave. -/
theorem State.combineFlit_keeps (s : State) (e : BitVec 128) (slot input : Nat) (f : Flit) :
    (s.combineFlit e slot input f).settledRanks = s.settledRanks ∧ (s.combineFlit e slot input f).fabric.outs = s.fabric.outs := by
  rw [State.combineFlit_eq, State.refreshCombined, State.settledRanks_modFabric, State.fabric_modFabric]
  split
  · rw [State.depart, State.settledRanks_modFabric, State.fabric_modFabric, State.noteOperands, State.settledRanks_modFabric,
      State.fabric_modFabric]
    exact ⟨rfl, rfl⟩
  · rw [State.noteOperands, State.settledRanks_modFabric, State.fabric_modFabric]
    exact ⟨rfl, rfl⟩

theorem State.combineFlit_combining (s : State) (e : BitVec 128) (slot input : Nat) (f : Flit) :
    ∃ c ∈ (s.combineFlit e slot input f).fabric.combining, c.fid = f.fid ∧ c.xfer = f.xfer := by
  obtain ⟨hfid, hxfer⟩ := (s.operands f).took_key e input f
  obtain ⟨hfid', hxfer'⟩ := s.operands_key f
  refine ⟨(s.operands f).took e input f, ?_, hfid.trans hfid', hxfer.trans hxfer'⟩
  rw [State.combineFlit_eq]
  split <;> exact List.mem_append_right _ (List.mem_singleton_self _)

/-- The flit of the result leaves once both operands' flits have come. -/
theorem State.combineFlit_departing (s : State) (e : BitVec 128) (slot input : Nat) (f : Flit) :
    (s.combineFlit e slot input f).fabric.departing.length = s.fabric.departing.length +
      if (s.operands f).met e input f.idx then (furOuts e).length else 0 := by
  have hlen : ∀ (u : State) (c : Combining), (u.refreshCombined e c).fabric.departing.length = u.fabric.departing.length :=
    fun u c => List.length_map _
  rw [State.combineFlit_eq, hlen, Combining.took_met]
  split
  · exact (List.length_append ..).trans (congrArg (_ + ·) (List.length_map _))
  · rfl

/-! ### FURROW_DEPART -/

theorem exec_furrowDepart_idle {fid : Nat} (h : s.fabric.furrows.find? (fun e => furFid e == fid && furInjects e) = none ∨
    s.fabric.outs.find? (fun x => x.fid == fid && x.departed.isNone) = none) : exec (.furrowDepart fid) s = .next s := by
  rw [exec_furrowDepart, execFurrowDepart]
  obtain h | h := h
  · rw [h]
  · rw [h]
    cases s.fabric.furrows.find? fun e => furFid e == fid && furInjects e <;> rfl

section
variable {fid : Nat} {e : BitVec 128} {x : XferOut}
  (he : s.fabric.furrows.find? (fun e => furFid e == fid && furInjects e) = some e)
  (hx : s.fabric.outs.find? (fun x => x.fid == fid && x.departed.isNone) = some x)
include he hx

theorem exec_furrowDepart_waits (h : s.fabric.dtb.toNat % s.fabric.sper ≠ furOff e ∨ s.fabric.dtb.toNat < x.ready ∨
    furNflit e < (x.bytes.length + 59) / 56) : exec (.furrowDepart fid) s = .next s := by
  rw [exec_furrowDepart, execFurrowDepart, he, hx]
  dsimp only
  rw [flitCount_eq, if_pos (show s.slotNow % s.fabric.sper ≠ furOff e ∨ s.slotNow < x.ready ∨
    furNflit e < (x.bytes.length + 59) / 56 from h)]

/-- The state in which the flits of a transfer leave. -/
def State.markDeparted (s : State) (fid xfer : Nat) : State := s.modFabric fun f => { f with
  outs := f.outs.map fun y => if y.fid = fid ∧ y.xfer = xfer then { y with departed := some s.slotNow } else y }

theorem exec_furrowDepart_leaves (hoff : s.fabric.dtb.toNat % s.fabric.sper = furOff e) (hready : x.ready ≤ s.fabric.dtb.toNat)
    (hfits : (x.bytes.length + 59) / 56 ≤ furNflit e) : exec (.furrowDepart fid) s = .next ((flitsOf fid x.xfer x.bytes).foldl (fun s' f =>
      if furRole e = 1 then s'.depart (furOuts e) (flitSlot s.slotNow f.idx) 32 f
      else s'.combineFlit e (flitSlot s.slotNow f.idx) 32 f) (s.markDeparted fid x.xfer)) := by
  have hgo : ¬ (s.slotNow % s.fabric.sper ≠ furOff e ∨ s.slotNow < x.ready ∨ furNflit e < flitCount x.bytes.length) := by
    rw [flitCount_eq, State.slotNow]
    omega
  rw [exec_furrowDepart, execFurrowDepart, he, hx]
  dsimp only
  rw [if_neg hgo]
  rfl

end

theorem State.departed_markDeparted {fid xfer : Nat} {y : XferOut} (hy : y ∈ (s.markDeparted fid xfer).fabric.outs) (hfid : y.fid = fid)
    (hxfer : y.xfer = xfer) : y.departed = some s.slotNow := by
  obtain ⟨z, -, rfl⟩ := List.mem_map.mp hy
  split at hfid
  · next h => rw [if_pos h]
  · next h =>
    rw [if_neg h] at hxfer
    exact absurd ⟨hfid, hxfer⟩ h

/-- What a transfer's flits leave where they leave over links or into the own combine node. -/
theorem State.foldl_depart_keeps (e : BitVec 128) (now : Nat) (l : List Flit) (s : State) :
    (l.foldl (fun s f => if furRole e = 1 then s.depart (furOuts e) (flitSlot now f.idx) 32 f
      else s.combineFlit e (flitSlot now f.idx) 32 f) s).settledRanks = s.settledRanks ∧
    (l.foldl (fun s f => if furRole e = 1 then s.depart (furOuts e) (flitSlot now f.idx) 32 f
      else s.combineFlit e (flitSlot now f.idx) 32 f) s).fabric.outs = s.fabric.outs := by
  refine ⟨foldl_keeps State.settledRanks (fun s f => ?_) _ _, foldl_keeps (fun s : State => s.fabric.outs) (fun s f => ?_) _ _⟩
  · split
    · rfl
    · exact (s.combineFlit_keeps _ _ _ _).1
  · split
    · rfl
    · exact (s.combineFlit_keeps _ _ _ _).2

theorem foldl_last {α β : Type} {P : α → Prop} {f : α → β → α} (l : List β) (hl : l ≠ []) (h : ∀ a, ∀ b ∈ l, P (f a b)) (a : α) :
    P (l.foldl f a) := by
  obtain ⟨t, b, rfl⟩ := List.eq_nil_or_concat' l |>.resolve_left hl
  rw [List.foldl_append]
  exact h _ _ (List.mem_append_right _ (List.mem_singleton_self _))

/-- FURROW_DEPART of a transfer whose slot has come (17 R407, R409, R416). -/
theorem exec_furrowDepart_spec {fid : Nat} {e : BitVec 128} {x : XferOut}
    (he : s.fabric.furrows.find? (fun e => furFid e == fid && furInjects e) = some e)
    (hx : s.fabric.outs.find? (fun x => x.fid == fid && x.departed.isNone) = some x)
    (hoff : s.fabric.dtb.toNat % s.fabric.sper = furOff e) (hready : x.ready ≤ s.fabric.dtb.toNat)
    (hfits : (x.bytes.length + 59) / 56 ≤ furNflit e) : ∃ t, exec (.furrowDepart fid) s = .next t ∧
      (furRole e = 1 → t.fabric.departing.length = s.fabric.departing.length + (x.bytes.length + 59) / 56 * (furOuts e).length ∧
        ∀ d ∈ t.fabric.departing, d ∈ s.fabric.departing ∨ (d.link ∈ furOuts e ∧ s.fabric.dtb.toNat ≤ d.slot ∧ d.slot % 8 ≠ 7 ∧
          d.flit.fid = fid ∧ d.flit.xfer = x.xfer)) ∧
      (furRole e ≠ 1 → ∃ c ∈ t.fabric.combining, c.fid = fid ∧ c.xfer = x.xfer) ∧
      (∀ y ∈ t.fabric.outs, y.fid = fid → y.xfer = x.xfer → y.departed = some s.fabric.dtb.toNat) ∧ t.ranks = s.ranks ∧
      s.SameMemory t := by
  obtain ⟨hkeeps, houts⟩ := State.foldl_depart_keeps e s.slotNow (flitsOf fid x.xfer x.bytes) (s.markDeparted fid x.xfer)
  refine ⟨_, exec_furrowDepart_leaves he hx hoff hready hfits, fun hrole => ?_, fun hrole => ?_, fun y hy hfid hxfer => ?_,
    congrArg Prod.snd hkeeps, State.sameMemory_of_memories (congrArg Prod.fst hkeeps)⟩
  · simp only [if_pos hrole]
    rw [State.departing_foldl_depart]
    refine ⟨?_, fun d hd => ?_⟩
    · rw [List.length_append, List.length_flatMap]
      simp only [List.length_map, List.map_const', List.sum_replicate_nat, length_flitsOf]
      rfl
    · obtain hd | hd := List.mem_append.mp hd
      · exact .inl hd
      · obtain ⟨f, hf, hd⟩ := List.mem_flatMap.mp hd
        obtain ⟨k, hk, rfl⟩ := List.mem_map.mp hd
        obtain ⟨hle, hsched⟩ := flitSlot_scheduled s.slotNow f.idx
        exact .inr ⟨hk, hle, hsched, of_mem_flitsOf hf⟩
  · simp only [if_neg hrole]
    have hsome : flitsOf fid x.xfer x.bytes ≠ [] := by
      rw [← List.length_pos_iff, length_flitsOf]
      omega
    refine foldl_last (P := fun t : State => ∃ c ∈ t.fabric.combining, c.fid = fid ∧ c.xfer = x.xfer) _ hsome (fun u f hf => ?_) _
    obtain ⟨c, hc, hcfid, hcxfer⟩ := u.combineFlit_combining e (flitSlot s.slotNow f.idx) 32 f
    obtain ⟨hfid, hxfer⟩ := of_mem_flitsOf hf
    exact ⟨c, hc, hcfid.trans hfid, hcxfer.trans hxfer⟩
  · exact State.departed_markDeparted (houts ▸ hy) hfid hxfer

/-! ### Answers to the origins (17 R411) -/

/-- What an answer leaves of the fabric: consumers, what has been delivered, what has come. -/
def Fabric.arrivals (f : Fabric) : List (Nat × List Nat × Consumer) × List (Nat × Nat) × List XferIn := (f.consumers, f.delivered, f.ins)

/-- What an answer leaves alone. -/
def State.answered (s : State) := (s.ranks, s.cmds, s.fabric.arrivals)

theorem State.answered_send (s : State) (m : Demand) : (s.send m).answered = s.answered := by
  unfold State.send State.forward
  split <;> rfl

theorem State.answered_answerXfer (s : State) (fid xfer : Nat) (ok : Bool) : (s.answerXfer fid xfer ok).answered = s.answered := by
  unfold State.answerXfer
  split
  · rfl
  · exact foldl_keeps State.answered (fun s p => s.answered_send _) _ _

/-! ### Transfers of one flit that end here -/

/-- The state in which a transfer of one flit has come, with the slot by which the others would have to come, and is dropped from
those that come in. -/
def State.came (s : State) (f : Flit) (lastSlot : Nat) : State :=
  let x : XferIn := { fid := f.fid, xfer := f.xfer, flits := [(f.idx, f.payload)], lastSlot := lastSlot, failed := false }
  (s.modFabric fun fb => { fb with ins := (fb.ins.filter fun y => !(y.fid == f.fid && y.xfer == f.xfer)) ++ [x] }).dropIn f.fid f.xfer

theorem key_ne_of_not {a b c d : Nat} (h : ¬ a = b ∨ ¬ c = d) : ¬ (a = b ∧ c = d) := not_and_or.mpr h

theorem State.came_ins (s : State) (f : Flit) (lastSlot : Nat) :
    ∀ x ∈ (s.came f lastSlot).fabric.ins, ¬ (x.fid = f.fid ∧ x.xfer = f.xfer) := by
  intro x hx
  exact key_ne_of_not (by simpa using (List.mem_filter.mp hx).2)

/-- The content of a transfer goes to the consumer of its furrow, if that has one. -/
def State.deliverXfer (s : State) (fid : Nat) (bs : List Byte) : State :=
  match s.fabric.consumers.find? fun c => c.1 == fid with
  | some c => s.consume c.2.2 bs
  | none => s

/-- What becomes of a transfer of one flit: its content is delivered and acknowledged; without one it is answered with a NACK. -/
def State.xferJudged (s : State) (f : Flit) (lastSlot : Nat) : Option (List Byte) → State
  | some bs => (((s.came f lastSlot).noteDelivered f.fid f.xfer).answerXfer f.fid f.xfer true).deliverXfer f.fid bs
  | none => (s.came f lastSlot).answerXfer f.fid f.xfer false

/-- The length that the first flit of a transfer gives (log entry 21). -/
def firstLen (p : BitVec 448) : Nat := 16 + leNat (((leBytes 56 p.toNat).drop 4).take 4) / 2

section
variable {e : BitVec 128} {f : Flit}

theorem xferFlits_one {p : BitVec 448} (h : furNflit e = 1 ∨ (1 ≤ furNflit e ∧ firstLen p ≤ 52)) :
    xferFlits false (furNflit e) (leBytes 56 p.toNat) = 1 := by
  have hstream : streamLen false (leBytes 56 p.toNat) = firstLen p := rfl
  have hge : 16 ≤ firstLen p := Nat.le_add_right _ _
  rw [xferFlits, hstream, flitCount_eq]
  obtain h | ⟨hpos, hlen⟩ := h <;> omega

theorem State.takeFlit_known (h : (f.fid, f.xfer) ∈ s.fabric.delivered) :
    s.takeFlit e f = if f.idx = 0 then s.answerXfer f.fid f.xfer true else s := by
  rw [State.takeFlit, if_pos (List.contains_iff_mem.mpr h)]

theorem streamOf_one (f : Flit) (hidx : f.idx = 0) : streamOf [(f.idx, f.payload)] 1 = some (leBytes 56 f.payload.toNat) := by
  simp [streamOf, hidx]

variable (hidx : f.idx = 0) (hnew : (f.fid, f.xfer) ∉ s.fabric.delivered)
  (hins : ∀ x ∈ s.fabric.ins, ¬ (x.fid = f.fid ∧ x.xfer = f.xfer)) (hplain : s.isBoundary f.fid = false)
  (hone : xferFlits false (furNflit e) (leBytes 56 f.payload.toNat) = 1)
include hidx hnew hins hplain hone

/-- A transfer of one flit is judged as it comes. -/
theorem State.takeFlit_judged : ∃ late, s.takeFlit e f = s.xferJudged f late (streamBytes false 1 (leBytes 56 f.payload.toNat)) := by
  have hfind : s.fabric.ins.find? (fun x => x.fid == f.fid && x.xfer == f.xfer) = none :=
    List.find?_eq_none.mpr fun x hx => by simpa using hins x hx
  have hcount : countIn (s.isBoundary f.fid) (furNflit e) [(f.idx, f.payload)] = 1 := by
    rw [hplain, countIn, hidx]
    exact hone
  have hlast : ¬ f.idx + 1 < countIn (s.isBoundary f.fid) (furNflit e) [(f.idx, f.payload)] := by
    rw [hcount, hidx]
    decide
  have hvalue : (streamOf [(f.idx, f.payload)] (countIn (s.isBoundary f.fid) (furNflit e) [(f.idx, f.payload)])).bind
      (streamBytes (s.isBoundary f.fid) (countIn (s.isBoundary f.fid) (furNflit e) [(f.idx, f.payload)])) =
      streamBytes false 1 (leBytes 56 f.payload.toNat) := by
    rw [hcount, hplain, streamOf_one f hidx, Option.bind_some]
  unfold State.takeFlit
  rw [if_neg (by simpa using hnew)]
  dsimp only
  rw [hfind]
  refine ⟨s.slotNow + (flitSlot (s.slotNow % 8) (furNflit e - 1 - f.idx) - s.slotNow % 8), (if_neg hlast).trans ?_⟩
  split
  · next bs hbs _ =>
    rw [← hvalue]
    exact (congrArg (s.xferJudged f _) hbs).symm
  · next hnone =>
    have hbad : streamBytes false 1 (leBytes 56 f.payload.toNat) = none :=
      Option.eq_none_iff_forall_ne_some.mpr fun bs hbs => hnone bs (hvalue.trans hbs) rfl
    rw [hbad]
    rfl

end

theorem streamBytes_one {p : BitVec 448} (h : firstLen p ≤ 52 ∧
    leBytes 4 (crc32c ((leBytes 56 p.toNat).take (firstLen p))).toNat = (leBytes 56 p.toNat).drop 52) :
    streamBytes false 1 (leBytes 56 p.toNat) = some ((leBytes 56 p.toNat).take (firstLen p)) := by
  have hstream : streamLen false (leBytes 56 p.toNat) = firstLen p := rfl
  obtain ⟨hlen, hcrc⟩ := h
  unfold streamBytes
  dsimp only
  rw [hstream, if_pos ⟨by omega, hcrc⟩]

theorem streamBytes_one_none {p : BitVec 448} (h : ¬ (firstLen p ≤ 52 ∧
    leBytes 4 (crc32c ((leBytes 56 p.toNat).take (firstLen p))).toNat = (leBytes 56 p.toNat).drop 52)) :
    streamBytes false 1 (leBytes 56 p.toNat) = none := by
  have hstream : streamLen false (leBytes 56 p.toNat) = firstLen p := rfl
  unfold streamBytes
  dsimp only
  rw [hstream]
  exact if_neg fun ⟨hlen, hcrc⟩ => h ⟨by omega, hcrc⟩

/-- A field that lies in the content is read from the content as from the flit. -/
theorem take_drop_take {α : Type} {l : List α} {o n len : Nat} (h : o + n ≤ len) : ((l.take len).drop o).take n = (l.drop o).take n := by
  rw [List.drop_take, List.take_take, min_eq_left (by omega)]

section
variable {e : BitVec 128} {f : Flit} (hidx : f.idx = 0) (hnew : (f.fid, f.xfer) ∉ s.fabric.delivered)
  (hins : ∀ x ∈ s.fabric.ins, ¬ (x.fid = f.fid ∧ x.xfer = f.xfer)) (hplain : s.isBoundary f.fid = false)
include hidx hnew hins hplain

/-- A transfer of one flit whose CRC holds is noted, and its content joins the landing area of its rank (17 R411). -/
theorem State.takeFlit_lands {dst : List Nat} {vr slot ep src tag : Nat} {r : Rank}
    (hcons : s.fabric.consumers.find? (fun c => c.1 == f.fid) = some (f.fid, dst, .landing vr slot ep src tag))
    (hr : s.rank? vr = some r) (hplace : r.place ≠ .transit) (hcmds : ∀ y ∈ s.cmds, y.by'.vr ≠ vr) (hflits : 1 ≤ furNflit e)
    (hlen : firstLen f.payload ≤ 52)
    (hcrc : leBytes 4 (crc32c ((leBytes 56 f.payload.toNat).take (firstLen f.payload))).toNat = (leBytes 56 f.payload.toNat).drop 52)
    (hoff : leNat (((leBytes 56 f.payload.toNat).drop 8).take 8) = 0) :
    (f.fid, f.xfer) ∈ (s.takeFlit e f).fabric.delivered ∧ (s.takeFlit e f).rank? vr = some (r.landed {
      slot := slot, replay := leNat ((leBytes 56 f.payload.toNat).take 4), endpoint := ep, src := src, tag := tag,
      bytes := ((leBytes 56 f.payload.toNat).take (firstLen f.payload)).drop 16,
      whole := leNat (((leBytes 56 f.payload.toNat).drop 4).take 4) % 2 == 1 }) := by
  obtain ⟨late, hjudged⟩ := State.takeFlit_judged hidx hnew hins hplain (xferFlits_one (.inr ⟨hflits, hlen⟩))
  have hge : 16 ≤ firstLen f.payload := Nat.le_add_right _ _
  obtain ⟨u, hu⟩ : ∃ u, u = ((s.came f late).noteDelivered f.fid f.xfer).answerXfer f.fid f.xfer true := ⟨_, rfl⟩
  have hans : u.answered = ((s.came f late).noteDelivered f.fid f.xfer).answered := hu ▸ State.answered_answerXfer _ _ _ _
  have hranks : u.ranks = s.ranks := congrArg (·.1) hans
  have hucmds : u.cmds = s.cmds := congrArg (·.2.1) hans
  have hucons : u.fabric.consumers = s.fabric.consumers := congrArg (·.2.2.1) hans
  have hudel : u.fabric.delivered = ((s.came f late).noteDelivered f.fid f.xfer).fabric.delivered := congrArg (·.2.2.2.1) hans
  have hur : u.rank? vr = some r := (State.rank?_congr hranks vr).trans hr
  have htaken : ∀ c, u.chunkTaken vr c = false := fun c =>
    State.chunkTaken_of_noCmds (State.vr_notMem_of_forall_ne (by rw [hucmds]; exact hcmds))
  have hdeposit : s.takeFlit e f = u.modRank vr (Rank.landed {
      slot := slot, replay := leNat ((leBytes 56 f.payload.toNat).take 4), endpoint := ep, src := src, tag := tag,
      bytes := ((leBytes 56 f.payload.toNat).take (firstLen f.payload)).drop 16,
      whole := leNat (((leBytes 56 f.payload.toNat).drop 4).take 4) % 2 == 1 }) := by
    rw [hjudged, streamBytes_one ⟨hlen, hcrc⟩, State.xferJudged, ← hu, State.deliverXfer, hucons, hcons]
    dsimp only [State.consume]
    rw [take_drop_take (by omega), take_drop_take (by omega), hoff, List.take_take, min_eq_left (by omega),
      State.deposit_lands hur hplace (htaken _)]
  rw [hdeposit]
  refine ⟨?_, State.rank?_landed hur⟩
  show _ ∈ u.fabric.delivered
  rw [hudel]
  exact List.mem_append_right _ (List.mem_singleton_self _)

/-- A transfer of one flit whose CRC does not hold is dropped (17 R411). -/
theorem State.takeFlit_drops (hone : furNflit e = 1) (hbad : ¬ (firstLen f.payload ≤ 52 ∧
    leBytes 4 (crc32c ((leBytes 56 f.payload.toNat).take (firstLen f.payload))).toNat = (leBytes 56 f.payload.toNat).drop 52)) :
    (s.takeFlit e f).ranks = s.ranks ∧ (s.takeFlit e f).fabric.delivered = s.fabric.delivered ∧
      ∀ x ∈ (s.takeFlit e f).fabric.ins, ¬ (x.fid = f.fid ∧ x.xfer = f.xfer) := by
  obtain ⟨late, hjudged⟩ := State.takeFlit_judged hidx hnew hins hplain (xferFlits_one (.inl hone))
  have hans := (s.came f late).answered_answerXfer f.fid f.xfer false
  rw [hjudged, streamBytes_one_none hbad, State.xferJudged]
  refine ⟨congrArg (·.1) hans, congrArg (·.2.2.2.1) hans, fun x hx => s.came_ins f late x ?_⟩
  rw [← show ((s.came f late).answerXfer f.fid f.xfer false).fabric.ins = (s.came f late).fabric.ins from congrArg (·.2.2.2.2) hans]
  exact hx

end

/-! ### SCHEDULED_FLIT_ARRIVE -/

section
variable {input : Nat} {f : Flit} {e : BitVec 128} (he : s.entryFor input f.fid = some e)
include he

theorem exec_scheduledFlitArrive_origin (hrole : furRole e = 1) :
    exec (.scheduledFlitArrive input f) s = .next (s.depart (furOuts e) s.fabric.dtb.toNat input f) := by
  rw [exec_scheduledFlitArrive, execScheduledFlitArrive, he]
  dsimp only
  rw [hrole]
  rfl

theorem exec_scheduledFlitArrive_router (hrole : furRole e = 2) :
    exec (.scheduledFlitArrive input f) s = .next (s.depart (furOuts e) (s.fabric.dtb.toNat + 40) input f) := by
  rw [exec_scheduledFlitArrive, execScheduledFlitArrive, he]
  dsimp only
  rw [hrole]
  rfl

theorem exec_scheduledFlitArrive_ends (hrole : furRole e = 3) : exec (.scheduledFlitArrive input f) s = .next (s.takeFlit e f) := by
  rw [exec_scheduledFlitArrive, execScheduledFlitArrive, he]
  dsimp only
  rw [hrole]
  rfl

theorem exec_scheduledFlitArrive_both (hrole : furRole e = 4) : exec (.scheduledFlitArrive input f) s =
    .next ((s.depart (furOuts e) (s.fabric.dtb.toNat + 40) input f).takeFlit e f) := by
  rw [exec_scheduledFlitArrive, execScheduledFlitArrive, he]
  dsimp only
  rw [hrole]
  rfl

theorem exec_scheduledFlitArrive_combines (hrole : furRole e = 5) :
    exec (.scheduledFlitArrive input f) s = .next (s.combineFlit e s.slotNow input f) := by
  rw [exec_scheduledFlitArrive, execScheduledFlitArrive, he]
  dsimp only
  rw [hrole]
  rfl

end

/-! ### FLIT_FORWARD -/

/-- A sort begins with the element that comes before all others. -/
theorem sortBy_first {α : Type} {lt : α → α → Bool} {d : α} {l : List α} (hd : d ∈ l)
    (hmin : ∀ x ∈ l, x ≠ d → lt d x = true ∧ lt x d = false) : ∃ t, sortBy lt l = d :: t := by
  have hput : ∀ (x : α) (t : List α), (x ≠ d → lt x d = false) → ∃ t', insertBy lt x (d :: t) = d :: t' := fun x t hx => by
    unfold insertBy
    split
    · next hlt =>
      by_cases hxd : x = d
      · exact ⟨d :: t, by rw [hxd]⟩
      · rw [hx hxd] at hlt
        exact absurd hlt Bool.false_ne_true
    · exact ⟨_, rfl⟩
  have hstay : ∀ (l : List α) (t : List α), (∀ x ∈ l, x ≠ d → lt x d = false) →
      ∃ t', l.foldl (fun r x => insertBy lt x r) (d :: t) = d :: t' := fun l => by
    induction l with
    | nil => exact fun t _ => ⟨t, rfl⟩
    | cons x l ih =>
      intro t hall
      obtain ⟨t', ht'⟩ := hput x t (hall x List.mem_cons_self)
      rw [List.foldl_cons, ht']
      exact ih t' fun y hy => hall y (List.mem_cons_of_mem _ hy)
  obtain ⟨l₁, l₂, rfl⟩ := List.append_of_mem hd
  have hbefore : ∃ t, insertBy lt d (l₁.foldl (fun r x => insertBy lt x r) []) = d :: t := by
    cases hfold : sortBy lt l₁ with
    | nil =>
      rw [show l₁.foldl (fun r x => insertBy lt x r) [] = [] from hfold]
      exact ⟨[], rfl⟩
    | cons y t =>
      rw [show l₁.foldl (fun r x => insertBy lt x r) [] = y :: t from hfold]
      by_cases hy : y = d
      · rw [hy]
        exact hput d t fun h => absurd rfl h
      · have hmem : y ∈ l₁ := mem_of_mem_sortBy (lt := lt) (hfold ▸ List.mem_cons_self)
        exact ⟨y :: t, if_pos (hmin y (List.mem_append_left _ hmem) hy).1⟩
  obtain ⟨t, ht⟩ := hbefore
  obtain ⟨t', ht'⟩ := hstay l₂ t fun x hx hne => (hmin x (List.mem_append_right _ (List.mem_cons_of_mem _ hx)) hne).2
  refine ⟨t', ?_⟩
  rw [sortBy, List.foldl_append, List.foldl_cons, ht, ht']

/-- The flits of a link whose slot has come. -/
def State.due (s : State) (link : Nat) : List Departing := s.fabric.departing.filter fun d => d.link == link && d.slot ≤ s.slotNow

theorem State.mem_due {link : Nat} {d : Departing} :
    d ∈ s.due link ↔ d ∈ s.fabric.departing ∧ d.link = link ∧ d.slot ≤ s.fabric.dtb.toNat := by
  rw [State.due, List.mem_filter, Bool.and_eq_true, beq_iff_eq, decide_eq_true_eq]
  rfl

theorem exec_flitForward_idle {link : Nat} (h : s.fabric.dtb.toNat % 8 = 7 ∨
    ∀ d ∈ s.fabric.departing, d.link = link → s.fabric.dtb.toNat < d.slot) : exec (.flitForward link) s = .next s := by
  rw [exec_flitForward, execFlitForward]
  congr 1
  dsimp only
  split
  · rfl
  · next d t hsort =>
    obtain h7 | hnone := h
    · exact if_pos h7
    · have hdue : d ∈ s.due link := mem_of_mem_sortBy (hsort ▸ List.mem_cons_self)
      obtain ⟨hd, hlink, hle⟩ := State.mem_due.mp hdue
      exact absurd (hnone d hd hlink) (Nat.not_lt.mpr hle)

/-- What FLIT_FORWARD makes of the first flit due, others of its slot being lost. -/
def State.forwarded (s : State) (link : Nat) (d : Departing) (lost : List Departing) : State :=
  let u := lost.foldl (fun s x => s.fabricEvent 1 (link + 2 ^ 8 * d.flit.fid + 2 ^ 24 * x.flit.fid))
    (s.modFabric fun f => { f with departing := f.departing.filter fun x => !(x.link == link && x.slot == d.slot) })
  if u.fabric.links[link]?.any fun l => l.up && !l.fenced then { u with out := u.out ++ [Out.flit link (flitWord d.flit)] } else u

theorem exec_flitForward_forwards {link : Nat} {d : Departing} {rest : List Departing} (h7 : s.fabric.dtb.toNat % 8 ≠ 7)
    (hsort : sortBy (fun (a b : Departing) => a.slot < b.slot || (a.slot == b.slot && a.input < b.input)) (s.due link) = d :: rest) :
    ∃ lost, exec (.flitForward link) s = .next (s.forwarded link d lost) := by
  refine ⟨((s.due link).filter fun x => x.link == link && x.slot == d.slot).filter fun x => x != d, ?_⟩
  rw [exec_flitForward, execFlitForward]
  congr 1
  dsimp only
  split
  · next hnil => exact absurd (hsort.symm.trans hnil) (List.cons_ne_nil _ _)
  · next d' rest' hcons =>
    obtain ⟨rfl, -⟩ := List.cons.inj (hsort.symm.trans hcons)
    refine (if_neg h7).trans ?_
    unfold State.forwarded
    dsimp only
    split
    · next l hl =>
      have hany : Option.any (fun l : Link => l.up && !l.fenced) (some l) = (l.up && !l.fenced) := rfl
      rw [← hany, ← hl]
      rfl
    · next hl => exact (if_neg fun hany => absurd ((congrArg (Option.any fun l : Link => l.up && !l.fenced) hl).symm.trans hany)
        (by decide)).symm

theorem State.forwarded_spec (s : State) (link : Nat) (d : Departing) (lost : List Departing) :
    (s.forwarded link d lost).fabric.departing = (s.fabric.departing.filter fun x => !(x.link == link && x.slot == d.slot)) ∧
    (s.forwarded link d lost).out = s.out ++
      (if s.fabric.links[link]?.any fun l => l.up && !l.fenced then [.flit link (flitWord d.flit)] else []) := by
  obtain ⟨u, hu⟩ : ∃ u, u = lost.foldl (fun s x => s.fabricEvent 1 (link + 2 ^ 8 * d.flit.fid + 2 ^ 24 * x.flit.fid))
    (s.modFabric fun f => { f with departing := f.departing.filter fun x => !(x.link == link && x.slot == d.slot) }) := ⟨_, rfl⟩
  have hfabric : u.fabric = _ := hu ▸ foldl_keeps State.fabric (fun s x => s.fabric_fabricEvent _ _) _ _
  have hout : u.out = _ := hu ▸ foldl_keeps State.out (fun s x => s.out_fabricEvent _ _) _ _
  have hlinks : u.fabric.links = s.fabric.links := (congrArg Fabric.links hfabric).trans rfl
  have hdeparting := congrArg Fabric.departing hfabric
  unfold State.forwarded
  dsimp only
  rw [← hu, hlinks]
  split
  · exact ⟨hdeparting, congrArg (· ++ _) hout⟩
  · exact ⟨hdeparting, hout.trans (List.append_nil _).symm⟩

theorem exec_flitForward_first {link : Nat} {d : Departing} (hd : d ∈ s.fabric.departing) (hlink : d.link = link)
    (hdue : d.slot ≤ s.fabric.dtb.toNat) (h7 : s.fabric.dtb.toNat % 8 ≠ 7)
    (hfirst : ∀ x ∈ s.fabric.departing, x.link = link → x.slot ≤ s.fabric.dtb.toNat → x ≠ d →
      d.slot < x.slot ∨ (d.slot = x.slot ∧ d.input < x.input)) : ∃ t, exec (.flitForward link) s = .next t ∧
      t.fabric.departing = (s.fabric.departing.filter fun x => !(x.link == link && x.slot == d.slot)) ∧
      t.out = s.out ++ (if s.fabric.links[link]?.any fun l => l.up && !l.fenced then [.flit link (flitWord d.flit)] else []) := by
  obtain ⟨rest, hsort⟩ : ∃ rest, sortBy (fun (a b : Departing) => a.slot < b.slot || (a.slot == b.slot && a.input < b.input))
      (s.due link) = d :: rest := by
    refine sortBy_first (State.mem_due.mpr ⟨hd, hlink, hdue⟩) fun x hx hne => ?_
    obtain ⟨hmem, hxlink, hxdue⟩ := State.mem_due.mp hx
    have hlt := hfirst x hmem hxlink hxdue hne
    simp only [Bool.or_eq_true, Bool.and_eq_true, decide_eq_true_eq, beq_iff_eq, Bool.or_eq_false_iff, Bool.and_eq_false_iff,
      decide_eq_false_iff_not, beq_eq_false_iff_ne]
    omega
  obtain ⟨lost, hexec⟩ := exec_flitForward_forwards h7 hsort
  exact ⟨_, hexec, s.forwarded_spec link d lost⟩

/-! ### TRANSFER_FAIL, TRANSFER_ACK and TRANSFER_NACK -/

theorem exec_transferFail_known {fid xfer : Nat} (h : (fid, xfer) ∈ s.fabric.delivered) :
    exec (.transferFail fid xfer) s = .next (s.answerXfer fid xfer true) := by
  rw [exec_transferFail, execTransferFail, if_pos (List.contains_iff_mem.mpr h)]

section
variable {fid xfer : Nat} (h : (fid, xfer) ∉ s.fabric.delivered)
include h

theorem exec_transferFail_missing (hnone : s.fabric.ins.find? (fun x => x.fid == fid && x.xfer == xfer) = none) :
    exec (.transferFail fid xfer) s = .next (s.answerXfer fid xfer false) := by
  rw [exec_transferFail, execTransferFail, if_neg (by simpa using h), hnone]

theorem exec_transferFail_partial {x : XferIn} (hx : s.fabric.ins.find? (fun x => x.fid == fid && x.xfer == xfer) = some x) :
    exec (.transferFail fid xfer) s =
      .next (if x.lastSlot < s.slotNow then (s.dropIn fid xfer).answerXfer fid xfer false else s) := by
  rw [exec_transferFail, execTransferFail, if_neg (by simpa using h), hx]

end

section
variable {q : DHdr} {fid xfer : Nat}

/-- The transfer of a number that an answer finds has left. -/
theorem State.findOut_departed {x : XferOut} (hx : s.fabric.outs.find? (fun x => x.fid == fid && x.xfer == xfer) = some x)
    (hdep : x.departed ≠ none) :
    s.fabric.outs.find? (fun x => x.fid == fid && x.xfer == xfer && x.departed.isSome) = some x := by
  obtain ⟨hkey, l₁, l₂, hsplit, hbefore⟩ := List.find?_eq_some_iff_append.mp hx
  refine List.find?_eq_some_iff_append.mpr ⟨?_, l₁, l₂, hsplit, fun y hy => ?_⟩
  · rw [hkey, Option.isSome_iff_ne_none.mpr hdep]
    rfl
  · have hnot := hbefore y hy
    rw [Bool.not_eq_true'] at hnot ⊢
    rw [hnot, Bool.false_and]

variable (hown : q.dpkg = s.ownPkg)
include hown

theorem exec_transferAck_unknown (h : ∀ y ∈ s.fabric.outs, ¬ (y.fid = fid ∧ y.xfer = xfer)) :
    exec (.transferAck q fid xfer) s = .next s := by
  have hnone : s.fabric.outs.find? (fun x => x.fid == fid && x.xfer == xfer) = none :=
    List.find?_eq_none.mpr fun y hy => by simpa using h y hy
  rw [exec_transferAck, execTransferAck, State.mine_own hown, hnone]

/-- No transfer of the number waits for an answer, so that a NACK does nothing. -/
theorem exec_transferNack_unknown (h : ∀ y ∈ s.fabric.outs, y.fid = fid → y.xfer = xfer → y.departed = none) :
    exec (.transferNack q fid xfer) s = .next s := by
  have hnone : s.fabric.outs.find? (fun x => x.fid == fid && x.xfer == xfer && x.departed.isSome) = none := by
    refine List.find?_eq_none.mpr fun y hy hkey => ?_
    simp only [Bool.and_eq_true, beq_iff_eq] at hkey
    obtain ⟨⟨hfid, hxfer⟩, hsome⟩ := hkey
    rw [h y hy hfid hxfer] at hsome
    exact absurd hsome (by decide)
  rw [exec_transferNack, execTransferNack, State.mine_own hown, hnone]

variable {x : XferOut} (hx : s.fabric.outs.find? (fun x => x.fid == fid && x.xfer == xfer) = some x)
include hx

/-- The acknowledgement of the last package ends a transfer. -/
theorem exec_transferAck_last (h : ∀ p ∈ x.awaiting, p = q.spkg) : ∃ t, exec (.transferAck q fid xfer) s = .next t ∧
    (∀ y ∈ t.fabric.outs, ¬ (y.fid = fid ∧ y.xfer = xfer)) ∧ t.ranks = s.ranks ∧ s.SameMemory t := by
  have hnone : (x.awaiting.filter fun p => p != q.spkg) = [] :=
    List.filter_eq_nil_iff.mpr fun p hp => by simp [h p hp]
  rw [exec_transferAck, execTransferAck, State.mine_own hown, hx]
  dsimp only
  rw [hnone, if_pos List.isEmpty_nil]
  obtain ⟨l, hl⟩ := State.markSent_eq (s.modFabric fun f => { f with
    outs := (f.outs.map fun y => if y.fid = fid ∧ y.xfer = xfer then { y with awaiting := [] } else y).filter fun y =>
      !(y.fid == fid && y.xfer == xfer && List.isEmpty ([] : List Nat)) }) x.op
  rw [hl]
  refine ⟨_, rfl, fun y hy => ?_, rfl, State.sameMemory_of_memories rfl⟩
  exact key_ne_of_not (by simpa using (List.mem_filter.mp hy).2)

/-- While another package has not acknowledged, the transfer goes on. -/
theorem exec_transferAck_more (h : ∃ p ∈ x.awaiting, p ≠ q.spkg) : exec (.transferAck q fid xfer) s = .next { s with fabric := {
    s.fabric with outs := s.fabric.outs.map fun y => if y.fid = fid ∧ y.xfer = xfer
      then { y with awaiting := x.awaiting.filter fun p => p != q.spkg } else y } } := by
  obtain ⟨p, hp, hne⟩ := h
  have hsome : (x.awaiting.filter fun p => p != q.spkg).isEmpty = false :=
    List.isEmpty_eq_false_iff_exists_mem.mpr ⟨p, List.mem_filter.mpr ⟨hp, bne_iff_ne.mpr hne⟩⟩
  have hall : ∀ l : List XferOut, l.filter (fun y => !(y.fid == fid && y.xfer == xfer && false)) = l := fun l =>
    List.filter_eq_self.mpr fun y _ => by rw [Bool.and_false]; rfl
  rw [exec_transferAck, execTransferAck, State.mine_own hown, hx]
  dsimp only
  rw [hsome, if_neg Bool.false_ne_true]
  unfold State.modFabric
  dsimp only
  rw [hall]

theorem exec_transferNack_again (hdep : x.departed ≠ none) (hfew : x.attempts < 7) : exec (.transferNack q fid xfer) s = .next { s with
    fabric := { s.fabric with outs := s.fabric.outs.map fun y => if y.fid = fid ∧ y.xfer = xfer
      then { y with attempts := y.attempts + 1, departed := none, ready := s.fabric.dtb.toNat } else y } } := by
  rw [exec_transferNack, execTransferNack, State.mine_own hown, State.findOut_departed hx hdep]
  dsimp only
  rw [if_neg (by omega)]
  rfl

theorem exec_transferNack_givenUp (hdep : x.departed ≠ none) (hmany : 7 ≤ x.attempts) : ∃ t,
    exec (.transferNack q fid xfer) s = .next t ∧ ∀ y ∈ t.fabric.outs, ¬ (y.fid = fid ∧ y.xfer = xfer) := by
  rw [exec_transferNack, execTransferNack, State.mine_own hown, State.findOut_departed hx hdep]
  dsimp only
  rw [if_pos (by omega)]
  refine ⟨_, rfl, fun y hy => ?_⟩
  rw [State.fabric_fabricEvent] at hy
  exact key_ne_of_not (by simpa using (List.mem_filter.mp hy).2)

end

end

/-- Settles O49: the table, departures, flits by the role of their entry, and the answers at the origin. -/
theorem furrowTransfers : Obligations.FurrowTransfers := by
  intro s
  refine ⟨fun t => ⟨fun ⟨hper, hlen, hall⟩ => exec_furrowTableLoad_legal hper hlen hall, exec_furrowTableLoad_illegal⟩,
    fun fid => exec_furrowDepart_idle, fun fid e x he hx => ⟨exec_furrowDepart_spec he hx, exec_furrowDepart_waits he hx⟩,
    fun input f => ⟨fun hnone => ?_, fun e he hrole => exec_scheduledFlitArrive_origin he hrole,
      fun e he hrole => exec_scheduledFlitArrive_router he hrole, fun e he hrole => exec_scheduledFlitArrive_both he hrole,
      fun e he hrole => ?_, fun e he hrole => ?_, fun e he hrole hidx hnew hins hplain => ⟨?_, fun hone hbad => ?_⟩⟩,
    fun link => ⟨exec_flitForward_idle, fun d hd hlink hdue h7 hfirst => exec_flitForward_first hd hlink hdue h7 hfirst⟩,
    fun fid xfer => ⟨exec_transferFail_known, fun hnew => ⟨exec_transferFail_missing hnew, fun x hx => ?_⟩⟩,
    fun q fid xfer hother => ?_, fun q fid xfer hown => exec_transferAck_unknown hown,
    fun q fid xfer x hown hx => ⟨exec_transferAck_last hown hx, exec_transferAck_more hown hx, exec_transferNack_again hown hx,
      exec_transferNack_givenUp hown hx⟩, fun q fid xfer hown => exec_transferNack_unknown hown⟩
  · rw [exec_scheduledFlitArrive, execScheduledFlitArrive, show s.entryFor input f.fid = none from hnone]
  · have hkeeps := s.combineFlit_keeps e s.slotNow input f
    refine ⟨_, exec_scheduledFlitArrive_combines he hrole, congrArg Prod.snd hkeeps.1, s.combineFlit_combining e s.slotNow input f,
      fun c hc => ?_⟩
    have hops : s.operands f = c := by rw [State.operands, hc, Option.getD_some]
    rw [s.combineFlit_departing e s.slotNow input f, hops]
    rfl
  · rw [exec_scheduledFlitArrive_ends he hrole]
    exact ⟨rfl, fun hknown => by rw [State.takeFlit_known hknown]⟩
  · intro dst vr slot ep src tag r hcons hr hplace hcmds hflits hlen hcrc hoff
    obtain ⟨hnoted, hlands⟩ := State.takeFlit_lands (e := e) hidx hnew hins hplain hcons hr hplace hcmds hflits hlen hcrc hoff
    exact ⟨_, _, exec_scheduledFlitArrive_ends he hrole, hnoted, hlands, rfl⟩
  · exact ⟨_, exec_scheduledFlitArrive_ends he hrole, State.takeFlit_drops hidx hnew hins hplain hone hbad⟩
  · rw [exec_transferFail_partial hnew hx]
    exact ⟨fun hlt => by rw [if_pos (show x.lastSlot < s.slotNow from hlt)],
      fun hle => by rw [if_neg (show ¬ x.lastSlot < s.slotNow from Nat.not_lt.mpr hle)]⟩
  · rw [exec_transferAck, execTransferAck, exec_transferNack, execTransferNack, State.mine_other hother, State.mine_other hother]
    exact ⟨rfl, rfl⟩

end Sys2Proof.Machine

namespace Sys2Proof.Machine

/-! ### The translator: bundles in record order (17 R434) -/

/-- The words of a column of native code. -/
def column (words : List (BitVec 32)) (col : Nat) : List (BitVec 32) :=
  (List.range (words.length / 4)).map fun i => words[4 * i + col]?.getD 0

/-- The words that are there. -/
def present (l : List (BitVec 32)) : List (BitVec 32) := l.filter (· != 0)

theorem present_append (l m : List (BitVec 32)) : present (l ++ m) = present l ++ present m := List.filter_append _ _

section
variable {ls : List (List (BitVec 32))} (h : ∀ b ∈ ls, b.length = 4)
include h

theorem length_flatten_blocks : ls.flatten.length = 4 * ls.length := by
  induction ls with
  | nil => rfl
  | cons b ls ih =>
    rw [List.flatten_cons, List.length_append, h b List.mem_cons_self, ih fun b hb => h b (List.mem_cons_of_mem _ hb), List.length_cons]
    omega

theorem getElem?_flatten_blocks {c : Nat} (hc : c < 4) (i : Nat) : ls.flatten[4 * i + c]? = ls[i]?.bind (·[c]?) := by
  induction ls generalizing i with
  | nil => rfl
  | cons b ls ih =>
    have hb := h b List.mem_cons_self
    rw [List.flatten_cons]
    cases i with
    | zero => rw [List.getElem?_append_left (by omega), Nat.mul_zero, Nat.zero_add]; rfl
    | succ i =>
      rw [List.getElem?_append_right (by omega), hb, show 4 * (i + 1) + c - 4 = 4 * i + c by omega,
        ih (fun b hb => h b (List.mem_cons_of_mem _ hb)) i, List.getElem?_cons_succ]

theorem column_flatten_blocks {c : Nat} (hc : c < 4) : column ls.flatten c = ls.map fun b => b[c]?.getD 0 := by
  have hlen : ls.flatten.length / 4 = ls.length := by
    rw [length_flatten_blocks h]
    omega
  rw [column, hlen]
  refine List.ext_getElem? fun i => ?_
  rw [List.getElem?_map, List.getElem?_map]
  rcases Nat.lt_or_ge i ls.length with hi | hi
  · have hb : ls[i].length = 4 := h _ (List.getElem_mem hi)
    rw [List.getElem?_range hi, Option.map_some, getElem?_flatten_blocks h hc, List.getElem?_eq_getElem hi, Option.map_some,
      Option.bind_some]
  · rw [List.getElem?_eq_none (by simpa using hi), List.getElem?_eq_none hi, Option.map_none, Option.map_none]

end

/-! #### Packing -/

/-- A bundle takes at most one record of a column. -/
def Packed (g : List (BitVec 128)) : Prop := g.Pairwise fun x y => recCol x ≠ recCol y

theorem Packed.append_of_canJoin {g : List (BitVec 128)} {r : BitVec 128} (hg : Packed g) (h : canJoin g r = true) : Packed (g ++ [r]) := by
  unfold canJoin at h
  simp only [Bool.and_eq_true, List.all_eq_true] at h
  obtain ⟨-, hall⟩ := h
  refine List.pairwise_append.mpr ⟨hg, List.pairwise_singleton _ _, fun x hx y hy => ?_⟩
  obtain rfl := List.mem_singleton.mp hy
  obtain ⟨⟨⟨-, hcol⟩, -⟩, -⟩ := hall x hx
  exact bne_iff_ne.mp hcol

theorem packRecords_flatten (pack : Bool) (rs : List (BitVec 128)) (i : Nat) (g l : List (BitVec 128)) :
    (packRecords pack rs i g l).flatten = g ++ l := by
  induction l generalizing i g with
  | nil =>
    unfold packRecords
    split
    · next hg => rw [List.isEmpty_iff.mp hg]; rfl
    · simp
  | cons r t ih =>
    unfold packRecords
    split
    · next hg => rw [ih, List.isEmpty_iff.mp hg]; rfl
    · split
      · rw [ih, List.append_assoc]; rfl
      · rw [List.flatten_cons, ih]; rfl

theorem packed_of_mem_packRecords {rs : List (BitVec 128)} {i : Nat} {g l b : List (BitVec 128)} (hg : Packed g)
    (hb : b ∈ packRecords true rs i g l) : Packed b := by
  induction l generalizing i g with
  | nil =>
    unfold packRecords at hb
    split at hb
    · exact absurd hb List.not_mem_nil
    · rw [List.mem_singleton.mp hb]; exact hg
  | cons r t ih =>
    unfold packRecords at hb
    split at hb
    · exact ih (List.pairwise_singleton _ _) hb
    · split at hb
      · next hjoin =>
        simp only [Bool.and_eq_true] at hjoin
        exact ih (hg.append_of_canJoin hjoin.2) hb
      · obtain rfl | hb := List.mem_cons.mp hb
        · exact hg
        · exact ih (List.pairwise_singleton _ _) hb

/-! #### Layout -/

theorem layBundles_recs (rs : List (BitVec 128)) (n wait : Nat) (bs : List (List (BitVec 128))) :
    (layBundles rs n wait bs).flatMap Laid.recs = bs.flatten := by
  induction bs generalizing n wait with
  | nil => rfl
  | cons g t ih =>
    unfold layBundles
    dsimp only
    split
    · split
      · rw [List.flatMap_cons, ih, List.flatten_cons]
      · rw [List.flatMap_cons, List.flatMap_cons, ih, List.flatten_cons]; rfl
    · rw [List.flatMap_cons, ih, List.flatten_cons]

theorem packed_of_mem_layBundles {rs : List (BitVec 128)} {n wait : Nat} {bs : List (List (BitVec 128))} {b : Laid}
    (hbs : ∀ g ∈ bs, Packed g) (hb : b ∈ layBundles rs n wait bs) : Packed b.recs := by
  induction bs generalizing n wait with
  | nil => exact absurd hb List.not_mem_nil
  | cons g t ih =>
    have hg := hbs g List.mem_cons_self
    have iht : ∀ {n wait}, b ∈ layBundles rs n wait t → Packed b.recs := ih fun g' hg' => hbs g' (List.mem_cons_of_mem _ hg')
    unfold layBundles at hb
    dsimp only at hb
    split at hb
    · split at hb
      · obtain rfl | hb := List.mem_cons.mp hb
        exacts [hg, iht hb]
      · obtain rfl | hb := List.mem_cons.mp hb
        · exact hg
        · obtain rfl | hb := List.mem_cons.mp hb
          exacts [List.Pairwise.nil, iht hb]
    · obtain rfl | hb := List.mem_cons.mp hb
      exacts [hg, iht hb]

/-- The bundles of a translation. -/
def laid (rs : List (BitVec 128)) : List Laid := layBundles rs 0 0 (packRecords true rs 0 [] rs)

theorem laid_recs (rs : List (BitVec 128)) : (laid rs).flatMap Laid.recs = rs := by
  rw [laid, layBundles_recs, packRecords_flatten, List.nil_append]

theorem packed_of_mem_laid {rs : List (BitVec 128)} {b : Laid} (hb : b ∈ laid rs) : Packed b.recs :=
  packed_of_mem_layBundles (fun _ hg => packed_of_mem_packRecords List.Pairwise.nil hg) hb

/-- The record of a column in a bundle is the only one there. -/
theorem Packed.filter_eq {g : List (BitVec 128)} (h : Packed g) (col : Nat) :
    (g.filter fun r => recCol r == col) = (g.find? fun r => recCol r == col).toList := by
  induction g with
  | nil => rfl
  | cons r t ih =>
    obtain ⟨hr, ht⟩ := List.pairwise_cons.mp h
    by_cases hcol : recCol r = col
    · have hnone : (t.filter fun x => recCol x == col) = [] :=
        List.filter_eq_nil_iff.mpr fun x hx => by
          have hne := hr x hx
          rw [hcol] at hne
          simpa using hne.symm
      simp [hcol, hnone]
    · simp [hcol, ih ht]

/-- The word of a column in a bundle is that of its record, or none. -/
theorem present_laidWord {b : Laid} (h : Packed b.recs) (col : Nat) :
    present [laidWord b col] = present ((b.recs.filter fun r => recCol r == col).map recWord) := by
  rw [h.filter_eq, laidWord]
  cases b.recs.find? fun r => recCol r == col with
  | none => decide
  | some r => rfl

theorem present_laidWords {L : List Laid} (h : ∀ b ∈ L, Packed b.recs) (col : Nat) :
    present (L.map fun b => laidWord b col) = present (((L.flatMap Laid.recs).filter fun r => recCol r == col).map recWord) := by
  induction L with
  | nil => rfl
  | cons b L ih =>
    rw [List.map_cons, List.flatMap_cons, List.filter_append, List.map_append, present_append,
      ← ih fun b hb => h b (List.mem_cons_of_mem _ hb), ← present_laidWord (h b List.mem_cons_self) col]
    exact present_append [_] _

/-! #### The words of a translation -/

theorem forall₂_of_mapM {α β : Type} {f : α → Option β} {l : List α} {ls : List β} (h : l.mapM f = some ls) :
    List.Forall₂ (fun a b => f a = some b) l ls := by
  induction l generalizing ls with
  | nil =>
    rw [List.mapM_nil] at h
    cases h
    exact .nil
  | cons a l ih =>
    rw [List.mapM_cons] at h
    simp only [Option.bind_eq_bind, Option.bind_eq_some_iff, Option.pure_def, Option.some.injEq] at h
    obtain ⟨b, hb, bs, hbs, rfl⟩ := h
    exact .cons hb (ih hbs)

theorem mapM_isSome {α β : Type} {f : α → Option β} {l : List α} (h : ∀ a ∈ l, (f a).isSome) : ∃ ls, l.mapM f = some ls := by
  induction l with
  | nil => exact ⟨[], List.mapM_nil⟩
  | cons a l ih =>
    obtain ⟨b, hb⟩ := Option.isSome_iff_exists.mp (h a List.mem_cons_self)
    obtain ⟨bs, hbs⟩ := ih fun a ha => h a (List.mem_cons_of_mem _ ha)
    exact ⟨b :: bs, by rw [List.mapM_cons, hb, hbs]; rfl⟩

theorem map_of_forall₂ {α β γ : Type} {R : α → β → Prop} {f : α → γ} {g : β → γ} {l : List α} {ls : List β} (h : List.Forall₂ R l ls)
    (hR : ∀ a ∈ l, ∀ b, R a b → g b = f a) : ls.map g = l.map f := by
  induction h with
  | nil => rfl
  | cons hab _ ih =>
    rw [List.map_cons, List.map_cons, hR _ List.mem_cons_self _ hab, ih fun a ha => hR a (List.mem_cons_of_mem _ ha)]

theorem of_mem_forall₂ {α β : Type} {R : α → β → Prop} {P : β → Prop} {l : List α} {ls : List β} (h : List.Forall₂ R l ls)
    (hR : ∀ a b, R a b → P b) : ∀ b ∈ ls, P b := by
  induction h with
  | nil => exact fun b hb => absurd hb List.not_mem_nil
  | cons hab _ ih =>
    intro b hb
    obtain rfl | hb := List.mem_cons.mp hb
    exacts [hR _ _ hab, ih b hb]

theorem getElem?_of_forall₂ {α β : Type} {R : α → β → Prop} {l : List α} {ls : List β} (h : List.Forall₂ R l ls) {i : Nat} {b : β}
    (hb : ls[i]? = some b) : ∃ a, l[i]? = some a ∧ R a b := by
  induction h generalizing i with
  | nil => exact absurd hb (Option.some_ne_none _).symm
  | cons hab _ ih =>
    cases i with
    | zero =>
      obtain rfl := Option.some.inj hb
      exact ⟨_, rfl, hab⟩
    | succ i => exact ih hb

/-- The control word of a bundle: its delay, its loop ends, its guards (06 R144). -/
def laidControl (rs : List (BitVec 128)) (b : Laid) : BitVec 32 :=
  let g := fun (k at' inv : Nat) => (laidGuard b k).1 * 2 ^ at' + if (laidGuard b k).2 then 2 ^ inv else 0
  let flag := fun (l : Bool) => if b.ends && endsLoop rs l b.last then 1 else 0
  BitVec.ofNat 32 (b.delay * 2 ^ 26 + flag true * 2 ^ 25 + flag false * 2 ^ 24 + g 1 14 23 + g 2 7 22 + g 3 0 21)

theorem laidWords_eq (rs : List (BitVec 128)) (bs : List Laid) (p : Nat) (b : Laid) :
    laidWords rs bs p b = (laidX bs p b).map fun x => [laidControl rs b, laidWord b 1, laidWord b 2, x] := rfl

section
variable {rs : List (BitVec 128)} {words : List (BitVec 32)} (h : translate rs = some words)
include h

/-- A translation is the blocks of its bundles. -/
theorem translate_blocks : ∃ ls : List (List (BitVec 32)), words = ls.flatten ∧ (∀ b ∈ ls, b.length = 4) ∧
    List.Forall₂ (fun q blk => laidWords rs (laid rs) q.2 q.1 = some blk) (laid rs).zipIdx ls := by
  obtain ⟨ls, hls, rfl⟩ := Option.map_eq_some_iff.mp h
  have hall := forall₂_of_mapM hls
  refine ⟨ls, rfl, of_mem_forall₂ hall fun q blk hblk => ?_, hall⟩
  obtain ⟨x, -, rfl⟩ := Option.map_eq_some_iff.mp ((laidWords_eq rs _ q.2 q.1).symm.trans hblk)
  rfl

/-- The words of a column are those of the bundles. -/
theorem column_translate {col : Nat} {f : Laid → BitVec 32} (hcol : col < 4) (hf : ∀ q ∈ (laid rs).zipIdx, ∀ x,
    laidX (laid rs) q.2 q.1 = some x → [laidControl rs q.1, laidWord q.1 1, laidWord q.1 2, x][col]?.getD 0 = f q.1) :
    column words col = (laid rs).map f := by
  obtain ⟨ls, rfl, hlen, hall⟩ := translate_blocks h
  rw [column_flatten_blocks hlen hcol, map_of_forall₂ (f := fun q => f q.1) hall fun q hq blk hblk => ?_]
  · exact (List.map_map (f := Prod.fst) (g := f)).symm.trans (congrArg (List.map f) (List.zipIdx_map_fst 0 _))
  · obtain ⟨x, hx, rfl⟩ := Option.map_eq_some_iff.mp ((laidWords_eq rs _ q.2 q.1).symm.trans hblk)
    exact hf q hq x hx

/-- The words of one bundle. -/
theorem translate_bundle {i : Nat} (hi : 4 * i < words.length) : ∃ b, (laid rs)[i]? = some b ∧ words[4 * i]? = some (laidControl rs b) ∧
    words[4 * i + 1]? = some (laidWord b 1) ∧ words[4 * i + 2]? = some (laidWord b 2) := by
  obtain ⟨ls, rfl, hlen, hall⟩ := translate_blocks h
  rw [length_flatten_blocks hlen] at hi
  have hblk : ls[i]? = some ls[i] := List.getElem?_eq_getElem (by omega)
  obtain ⟨q, hq, hwords⟩ := getElem?_of_forall₂ hall hblk
  obtain ⟨x, -, hx⟩ := Option.map_eq_some_iff.mp ((laidWords_eq rs _ q.2 q.1).symm.trans hwords)
  have hat : ∀ c, c < 4 → ls.flatten[4 * i + c]? = [laidControl rs q.1, laidWord q.1 1, laidWord q.1 2, x][c]? := fun c hc => by
    rw [getElem?_flatten_blocks hlen hc, hblk, ← hx]
    rfl
  rw [List.getElem?_zipIdx] at hq
  obtain ⟨b, hb, rfl⟩ := Option.map_eq_some_iff.mp hq
  exact ⟨b, hb, hat 0 (by decide), hat 1 (by decide), hat 2 (by decide)⟩

theorem translate_length : words.length % 4 = 0 := by
  obtain ⟨ls, rfl, hlen, -⟩ := translate_blocks h
  rw [length_flatten_blocks hlen]
  omega

/-- The M words and the V words of a translation are those of the records, in their order. -/
theorem translate_keeps {col : Nat} (hcol : col = 1 ∨ col = 2) :
    present (column words col) = present ((rs.filter fun r => recCol r == col).map recWord) := by
  have hword : column words col = (laid rs).map fun b => laidWord b col := by
    obtain rfl | rfl := hcol
    · exact column_translate h (by decide) fun q _ x _ => rfl
    · exact column_translate h (by decide) fun q _ x _ => rfl
  rw [hword, present_laidWords (fun b hb => packed_of_mem_laid hb), laid_recs]

end

/-! #### Legal records without loops -/

theorem recordUses_of_legal {past : List (List Loc)} {rs : List (BitVec 128)} (h : recordsLegal past rs = true) :
    ∀ r ∈ rs, ∃ u, recordUses r = some u := by
  induction rs generalizing past with
  | nil => exact fun r hr => absurd hr List.not_mem_nil
  | cons r rest ih =>
    unfold recordsLegal at h
    split at h
    · exact absurd h Bool.false_ne_true
    · next reads writes huses =>
      intro x hx
      obtain rfl | hx := List.mem_cons.mp hx
      · exact ⟨_, huses⟩
      · exact ih (Bool.and_eq_true_iff.mp h).2 x hx

/-- A legal record of the X column is an instruction. -/
theorem xInstr_of_uses {r : BitVec 128} {u : List Loc × List Loc} (h : recordUses r = some u) (hcol : recCol r = 3) :
    ∃ i, xInstr (recWord r) = some i := by
  unfold recordUses at h
  dsimp only at h
  rw [show bitsAt r 32 2 = 3 from hcol] at h
  split at h
  · exact absurd h (Option.some_ne_none _).symm
  · obtain ⟨q, hq, -⟩ := Option.map_eq_some_iff.mp h
    obtain ⟨i, hi, -⟩ := Option.map_eq_some_iff.mp hq
    exact ⟨i, hi⟩

section
variable {rs : List (BitVec 128)} (hlegal : recordsLegal [] rs = true) (hloop : ∀ r ∈ rs, recLoop r = none)

theorem mem_of_mem_laid {b : Laid} (hb : b ∈ laid rs) {r : BitVec 128} (hr : r ∈ b.recs) : r ∈ rs := by
  rw [← laid_recs rs]
  exact List.mem_flatMap.mpr ⟨b, hb, hr⟩

include hlegal hloop in
/-- Without loops the X word of a bundle is that of its record, or none. -/
theorem laidX_plain {b : Laid} (hb : b ∈ laid rs) (p : Nat) : laidX (laid rs) p b = some (laidWord b 3) := by
  cases hfind : b.recs.find? fun r => recCol r == 3 with
  | none =>
    have hword : laidWord b 3 = 0 := by rw [laidWord, hfind]; rfl
    unfold laidX
    rw [hfind, hword]
    split
    · next hno => exact absurd hno (Option.some_ne_none _).symm
    · rfl
  | some r =>
    have hr := mem_of_mem_laid hb (List.mem_of_find?_eq_some hfind)
    have hcol : recCol r = 3 := beq_iff_eq.mp (List.find?_some (p := fun r => recCol r == 3) hfind)
    have hword : laidWord b 3 = recWord r := by rw [laidWord, hfind]; rfl
    obtain ⟨u, hu⟩ := recordUses_of_legal hlegal r hr
    obtain ⟨i, hi⟩ := xInstr_of_uses hu hcol
    unfold laidX
    rw [hfind, hword, hi]
    dsimp only
    rw [hloop r hr]

include hlegal hloop in
theorem translate_isSome : ∃ words, translate rs = some words := by
  have hblocks : ∀ q ∈ (laid rs).zipIdx, (laidWords rs (laid rs) q.2 q.1).isSome := fun q hq => by
    have hb : q.1 ∈ laid rs := (List.zipIdx_map_fst 0 (laid rs)) ▸ List.mem_map_of_mem hq
    rw [laidWords_eq, laidX_plain hlegal hloop hb]
    rfl
  obtain ⟨ls, hls⟩ := mapM_isSome hblocks
  exact ⟨ls.flatten, Option.map_eq_some_iff.mpr ⟨ls, hls, rfl⟩⟩

include hlegal hloop in
/-- The X words of a translation without loops are those of the records, in their order. -/
theorem translate_keeps_x {words : List (BitVec 32)} (h : translate rs = some words) :
    present (column words 3) = present ((rs.filter fun r => recCol r == 3).map recWord) := by
  have hword : column words 3 = (laid rs).map fun b => laidWord b 3 := column_translate h (by decide) fun q hq x hx => by
    have hb : q.1 ∈ laid rs := (List.zipIdx_map_fst 0 (laid rs)) ▸ List.mem_map_of_mem hq
    rw [laidX_plain hlegal hloop hb] at hx
    exact (Option.some.inj hx).symm
  rw [hword, present_laidWords (fun b hb => packed_of_mem_laid hb), laid_recs]

/-! #### Delays -/

theorem recLatency_le (r : BitVec 128) : recLatency r ≤ 38 := by
  unfold recLatency mTiming vTiming
  dsimp only
  split_ifs <;> decide

include hloop in
theorem endsBlock_plain (i : Nat) : endsBlock rs i = false := by
  have hstart : ∀ k : Nat, rs[k]?.bind recLoop = none := fun k => by
    cases hk : rs[k]? with
    | none => rfl
    | some r => exact hloop r (List.mem_of_getElem? hk)
  have hends : ∀ l, endsLoop rs l i = false := fun l => by
    rw [endsLoop, List.any_eq_false]
    intro k _
    rw [hstart k]
    exact Bool.false_ne_true
  rw [endsBlock, hstart, hends, hends]
  rfl

/-- The wait that a bundle leaves the next one. -/
def latency (g : List (BitVec 128)) : Nat := (g.map recLatency).foldl max 1

theorem le_foldl_max (l : List Nat) (a : Nat) : a ≤ l.foldl max a ∧ ∀ x ∈ l, x ≤ l.foldl max a := by
  induction l generalizing a with
  | nil => exact ⟨le_refl a, fun x hx => absurd hx List.not_mem_nil⟩
  | cons b l ih =>
    obtain ⟨hle, hall⟩ := ih (max a b)
    refine ⟨(le_max_left a b).trans hle, fun x hx => ?_⟩
    obtain rfl | hx := List.mem_cons.mp hx
    exacts [(le_max_right a x).trans hle, hall x hx]

theorem foldl_max_le {l : List Nat} {a n : Nat} (ha : a ≤ n) (h : ∀ x ∈ l, x ≤ n) : l.foldl max a ≤ n := by
  induction l generalizing a with
  | nil => exact ha
  | cons b l ih => exact ih (max_le ha (h b List.mem_cons_self)) fun x hx => h x (List.mem_cons_of_mem _ hx)

theorem latency_le (g : List (BitVec 128)) : latency g ≤ 38 :=
  foldl_max_le (by decide) fun x hx => by
    obtain ⟨r, -, rfl⟩ := List.mem_map.mp hx
    exact recLatency_le r

theorem recLatency_le_latency {g : List (BitVec 128)} {r : BitVec 128} (hr : r ∈ g) : recLatency r ≤ latency g :=
  (le_foldl_max _ 1).2 _ (List.mem_map_of_mem hr)

include hloop in
theorem layBundles_cons (n wait : Nat) (g : List (BitVec 128)) (t : List (List (BitVec 128))) :
    layBundles rs n wait (g :: t) = { recs := g, last := n + g.length - 1, delay := wait, ends := false } ::
      layBundles rs (n + g.length) (latency g - 1) t := by
  rw [layBundles, endsBlock_plain hloop, if_neg Bool.false_ne_true]
  rfl

include hloop in
/-- Each bundle waits until the results of the bundle before it have landed. -/
theorem layBundles_delay (n wait : Nat) (bs : List (List (BitVec 128))) (i : Nat) {b b' : Laid}
    (hb : (layBundles rs n wait bs)[i]? = some b) (hb' : (layBundles rs n wait bs)[i + 1]? = some b') :
    b'.delay = latency b.recs - 1 ∧ b'.ends = false := by
  induction bs generalizing n wait i with
  | nil => exact absurd hb (by simp [layBundles])
  | cons g t ih =>
    rw [layBundles_cons hloop] at hb hb'
    cases i with
    | succ i => exact ih _ _ i hb hb'
    | zero =>
      obtain rfl : _ = b := Option.some.inj hb
      cases t with
      | nil => exact absurd hb' (by simp [layBundles])
      | cons g' t' =>
        rw [layBundles_cons hloop] at hb'
        obtain rfl : _ = b' := Option.some.inj hb'
        exact ⟨rfl, rfl⟩

/-- A guard field has seven bits. -/
theorem laidGuard_lt (b : Laid) (col : Nat) : (laidGuard b col).1 < 2 ^ 7 := by
  unfold laidGuard
  cases b.recs.find? fun r => recCol r == col with
  | none => decide
  | some r => exact bitsAt_lt r 35 7

/-- The DELAY field of a control word outside loops. -/
theorem laidControl_delay {b : Laid} (hends : b.ends = false) (hdelay : b.delay < 2 ^ 6) :
    (laidControl rs b).toNat / 2 ^ 26 = b.delay := by
  have hguards := And.intro (laidGuard_lt b 1) (And.intro (laidGuard_lt b 2) (laidGuard_lt b 3))
  have hinv : ∀ (c : Bool) (n : Nat), (if c then 2 ^ n else 0) ≤ 2 ^ n := fun c n => by
    split
    exacts [le_refl _, Nat.zero_le _]
  have h1 := hinv (laidGuard b 1).2 23
  have h2 := hinv (laidGuard b 2).2 22
  have h3 := hinv (laidGuard b 3).2 21
  unfold laidControl
  dsimp only
  rw [hends]
  simp only [Bool.false_and, Bool.false_eq_true, if_false, Nat.zero_mul, Nat.add_zero]
  rw [BitVec.toNat_ofNat, Nat.mod_eq_of_lt (by omega)]
  omega

/-- The word of a column that is there is that of a record of the bundle. -/
theorem laidWord_record {b : Laid} {col : Nat} (h : laidWord b col ≠ 0) :
    ∃ r ∈ b.recs, recCol r = col ∧ recWord r = laidWord b col := by
  unfold laidWord at *
  cases hfind : b.recs.find? fun r => recCol r == col with
  | none =>
    rw [hfind] at h
    exact absurd rfl h
  | some r => exact ⟨r, List.mem_of_find?_eq_some hfind, beq_iff_eq.mp (List.find?_some (p := fun r => recCol r == col) hfind), rfl⟩

include hloop in
/-- The words of two bundles that follow each other. -/
theorem translate_delay {words : List (BitVec 32)} (h : translate rs = some words) {i : Nat} (hi : 4 * i + 4 < words.length) :
    ∃ b ∈ laid rs, words[4 * i + 1]?.getD 0 = laidWord b 1 ∧ words[4 * i + 2]?.getD 0 = laidWord b 2 ∧
      (words[4 * i + 4]?.getD 0).toNat / 2 ^ 26 + 1 = latency b.recs := by
  obtain ⟨b, hb, -, h1, h2⟩ := translate_bundle h (i := i) (by omega)
  obtain ⟨b', hb', hcontrol, -⟩ := translate_bundle h (i := i + 1) (by omega)
  obtain ⟨hdelay, hends⟩ := layBundles_delay hloop 0 0 _ i hb hb'
  have hle := latency_le b.recs
  have hpos : 1 ≤ latency b.recs := (le_foldl_max _ 1).1
  refine ⟨b, List.mem_of_getElem? hb, by rw [h1]; rfl, by rw [h2]; rfl, ?_⟩
  rw [show 4 * i + 4 = 4 * (i + 1) by omega, hcontrol, Option.getD_some, laidControl_delay hends (by omega), hdelay]
  omega

include hloop in
/-- What a bundle issues has landed when the next one issues. -/
theorem translate_lands {words : List (BitVec 32)} (h : translate rs = some words) {i : Nat} (hi : 4 * i + 4 < words.length) :
    (words[4 * i + 1]?.getD 0 ≠ 0 →
      (mTiming (colWord (words[4 * i + 1]?.getD 0)).op).1 ≤ (words[4 * i + 4]?.getD 0).toNat / 2 ^ 26 + 1) ∧
    (words[4 * i + 2]?.getD 0 ≠ 0 →
      (vTiming (colWord (words[4 * i + 2]?.getD 0)).op 32).1 ≤ (words[4 * i + 4]?.getD 0).toNat / 2 ^ 26 + 1) := by
  obtain ⟨b, -, h1, h2, hdelay⟩ := translate_delay hloop h hi
  rw [h1, h2, hdelay]
  refine ⟨fun hm => ?_, fun hv => ?_⟩
  · obtain ⟨r, hr, hcol, hword⟩ := laidWord_record hm
    have hlat : recLatency r = (mTiming (colWord (laidWord b 1)).op).1 := by
      rw [recLatency, hword, if_neg hm, if_pos hcol]
    exact hlat ▸ recLatency_le_latency hr
  · obtain ⟨r, hr, hcol, hword⟩ := laidWord_record hv
    have hlat : recLatency r = (vTiming (colWord (laidWord b 2)).op 32).1 := by
      rw [recLatency, hword, if_neg hv, if_neg (by omega), if_pos hcol]
    exact hlat ▸ recLatency_le_latency hr

end

end Sys2Proof.Machine

namespace Sys2Proof.Machine

/-! ### The mailboxes (17 R427, R429) -/

theorem mailSlot_mailPut_self (l : List (Nat × BitVec 512)) (n : Nat) (m : BitVec 512) : mailSlot (mailPut l n m) n = m := by
  have hnone : (l.filter fun e => e.1 != n % 64).find? (fun e => e.1 == n % 64) = none := by simp
  simp [mailSlot, mailPut, List.find?_append, hnone]

theorem mailSlot_mailPut_ne {k n : Nat} (h : k % 64 ≠ n % 64) (l : List (Nat × BitVec 512)) (m : BitVec 512) :
    mailSlot (mailPut l n m) k = mailSlot l k := by
  have hfilter : (l.filter fun e => e.1 != n % 64).find? (fun e => e.1 == k % 64) = l.find? fun e => e.1 == k % 64 := by
    rw [List.find?_filter]
    congr 1
    funext e
    by_cases he : e.1 = k % 64 <;> simp [he, h]
  have hput : (n % 64 == k % 64) = false := beq_eq_false_iff_ne.mpr (Ne.symm h)
  rw [mailSlot, mailPut, List.find?_append, hfilter, List.find?_cons, hput, List.find?_nil, Option.or_none]
  rfl

/-- The tail of a mailbox counter that is written, and its head. -/
theorem mbTail_putTail (w : Word) (x : Nat) : mbTail (putBits w 0 16 x) = x % 2 ^ 16 := bitsAt_putBits_self w (by decide) x

theorem mbHead_putTail (w : Word) (x : Nat) : mbHead (putBits w 0 16 x) = mbHead w := bitsAt_putBits_apart w (.inr (by decide)) x

theorem mbHead_putHead (w : Word) (x : Nat) : mbHead (putBits w 16 16 x) = x % 2 ^ 16 := bitsAt_putBits_self w (by decide) x

theorem mbTail_putHead (w : Word) (x : Nat) : mbTail (putBits w 16 16 x) = mbTail w := bitsAt_putBits_apart w (.inl (by decide)) x

theorem bitsAt_toNat {k : Nat} (v : BitVec k) (lo n : Nat) : bitsAt v lo n = v.toNat / 2 ^ lo % 2 ^ n := by
  rw [bitsAt, BitVec.extractLsb'_toNat, Nat.shiftRight_eq_div_pow]

/-- A number of 64 bits is itself in a wider word. -/
theorem toNat_ofNat_word {w x : Nat} (hw : 64 ≤ w) (hx : x < 2 ^ 64) : (BitVec.ofNat w x).toNat = x := by
  rw [BitVec.toNat_ofNat]
  exact Nat.mod_eq_of_lt (hx.trans_le (Nat.pow_le_pow_right Nat.two_pos hw))

theorem mailCode_eq (m : BitVec 512) : mailCode m = m.toNat % 2 ^ 8 := by
  rw [mailCode, bitsAt_toNat, Nat.pow_zero, Nat.div_one]

section
variable {s : State} {m : BitVec 512}

/-- An answer carries the code, the tag and a status. -/
theorem State.answer_word {st : Nat} (h : st < 2 ^ 32) :
    (mailSlot (s.answer m st).host.outbound (mbTail s.host.mbout)).toNat = m.toNat % 2 ^ 8 + 2 ^ 16 * (m.toNat / 2 ^ 16 % 2 ^ 16) +
      2 ^ 32 * st := by
  have hslot : mailSlot (s.answer m st).host.outbound (mbTail s.host.mbout) =
      BitVec.ofNat 512 (mailCode m + 2 ^ 16 * bitsAt m 16 16 + 2 ^ 32 * st) := mailSlot_mailPut_self _ _ _
  have hcode : m.toNat % 2 ^ 8 < 2 ^ 8 := Nat.mod_lt _ (by decide)
  have htag : m.toNat / 2 ^ 16 % 2 ^ 16 < 2 ^ 16 := Nat.mod_lt _ (by decide)
  have hsmall : m.toNat % 2 ^ 8 + 2 ^ 16 * (m.toNat / 2 ^ 16 % 2 ^ 16) + 2 ^ 32 * st < 2 ^ 64 := by omega
  rw [hslot, mailCode_eq, bitsAt_toNat, toNat_ofNat_word (by decide) hsmall]

/-- An answer takes one slot of each mailbox. -/
theorem State.answer_counters (st : Nat) : mbTail (s.answer m st).host.mbout = (mbTail s.host.mbout + 1) % 2 ^ 16 ∧
    mbHead (s.answer m st).host.mbout = mbHead s.host.mbout ∧ mbHead (s.answer m st).host.mbin = (mbHead s.host.mbin + 1) % 2 ^ 16 ∧
    mbTail (s.answer m st).host.mbin = mbTail s.host.mbin :=
  ⟨mbTail_putTail _ _, mbHead_putTail _ _, mbHead_putHead _ _, mbTail_putHead _ _⟩

/-! #### Which act serves a message -/

theorem State.serve_none (h : s.message = none) (code : Nat) (f : State → BitVec 512 → State) : s.serve code f = s := by
  rw [State.serve, h]

theorem State.serve_idle (h : s.message = some m) {code : Nat} (hidle : s.boot.ready = false ∨ m.toNat % 2 ^ 8 ≠ code ∨ s.replyRoom = false)
    (f : State → BitVec 512 → State) : s.serve code f = s := by
  rw [State.serve, h]
  refine if_neg fun hserves => ?_
  simp only [Bool.and_eq_true, beq_iff_eq, mailCode_eq] at hserves
  obtain ⟨⟨hready, hcode⟩, hroom⟩ := hserves
  obtain hno | hno | hno := hidle
  · exact Bool.false_ne_true (hno.symm.trans hready)
  · exact hno hcode
  · exact Bool.false_ne_true (hno.symm.trans hroom)

theorem State.serve_noRoom (h : s.replyRoom = false) (code : Nat) (f : State → BitVec 512 → State) : s.serve code f = s := by
  cases hm : s.message with
  | none => exact State.serve_none hm _ _
  | some m => exact State.serve_idle hm (.inr (.inr h)) _

theorem State.serve_some (h : s.message = some m) (hroom : s.replyRoom = true) (hready : s.boot.ready = true) {code : Nat}
    (hcode : m.toNat % 2 ^ 8 = code) (f : State → BitVec 512 → State) : s.serve code f = f s m := by
  rw [State.serve, h]
  refine if_pos ?_
  rw [hready, hroom, mailCode_eq, hcode, beq_self_eq_true]
  rfl

/-- Without a message no message act does anything. -/
theorem exec_messages_none (h : s.message = none) (p : Sys2Proof.LoadPlan) (job : Nat) : exec .partition s = .next s ∧
    exec (.loadjob p) s = .next s ∧ exec (.endjob job) s = .next s ∧ exec .reset s = .next s ∧ exec .supervisorMessage s = .next s ∧
    exec .mailboxUnknownCode s = .next s := by
  rw [exec_partition, execPartition, exec_loadjob, execLoadjob, exec_endjob, execEndjob, exec_reset, execReset, exec_supervisorMessage,
    execSupervisorMessage, exec_mailboxUnknownCode, execMailboxUnknownCode, State.serve_none h, State.serve_none h, State.serve_none h, h]
  exact ⟨rfl, rfl, rfl, rfl, rfl, rfl⟩

/-- Without room for an answer no message is answered. -/
theorem exec_messages_noRoom (h : s.replyRoom = false) (p : Sys2Proof.LoadPlan) (job : Nat) : exec .partition s = .next s ∧
    exec (.loadjob p) s = .next s ∧ exec (.endjob job) s = .next s ∧ exec .reset s = .next s ∧ exec .mailboxUnknownCode s = .next s := by
  rw [exec_partition, execPartition, exec_loadjob, execLoadjob, exec_endjob, execEndjob, exec_reset, execReset,
    exec_mailboxUnknownCode, execMailboxUnknownCode, State.serve_noRoom h, State.serve_noRoom h, State.serve_noRoom h, h]
  refine ⟨rfl, rfl, rfl, ?_, ?_⟩
  · cases s.message with
    | none => rfl
    | some m => exact congrArg Host.Outcome.next (if_neg (by rw [Bool.and_false]; exact Bool.false_ne_true))
  · cases s.message <;> rfl

variable (hm : s.message = some m)
include hm

theorem exec_reset_idle (h : s.boot.ready = false ∧ s.boot.stage ≠ 15 ∨ m.toNat % 2 ^ 8 ≠ 4) : exec .reset s = .next s := by
  rw [exec_reset, execReset, hm]
  refine congrArg Host.Outcome.next (if_neg fun hserves => ?_)
  simp only [State.servesReset, Bool.and_eq_true, Bool.or_eq_true, beq_iff_eq, mailCode_eq] at hserves
  obtain ⟨⟨hready | hstage, hcode⟩, -⟩ := hserves
  · obtain ⟨hno, -⟩ | hne := h
    exacts [Bool.false_ne_true (hno.symm.trans hready), hne hcode]
  · obtain ⟨-, hno⟩ | hne := h
    exacts [hno hstage, hne hcode]

theorem exec_reset_serves (hroom : s.replyRoom = true) (h : s.boot.ready = true ∨ s.boot.stage = 15) (hcode : m.toNat % 2 ^ 8 = 4) :
    exec .reset s = .next (s.answer m 0).restart := by
  have hserves : s.servesReset = true := by simpa [State.servesReset] using h
  rw [exec_reset, execReset, hm]
  refine congrArg Host.Outcome.next (if_pos ?_)
  rw [hserves, hroom, mailCode_eq, hcode]
  rfl

theorem exec_supervisorMessage_idle (h : s.boot.ready = false ∨ m.toNat % 2 ^ 8 < 0x80) : exec .supervisorMessage s = .next s := by
  rw [exec_supervisorMessage, execSupervisorMessage, hm]
  refine congrArg Host.Outcome.next (if_neg fun hserves => ?_)
  simp only [Bool.and_eq_true, decide_eq_true_eq, mailCode_eq] at hserves
  obtain ⟨hready, hcode⟩ := hserves
  obtain hno | hlt := h
  · exact Bool.false_ne_true (hno.symm.trans hready)
  · omega

theorem exec_supervisorMessage_passes (hready : s.boot.ready = true) (hcode : 0x80 ≤ m.toNat % 2 ^ 8) :
    exec .supervisorMessage s = .next (s.takeMessage.modHost fun h => { h with toSup := h.toSup ++ [m] }) := by
  rw [exec_supervisorMessage, execSupervisorMessage, hm]
  refine congrArg Host.Outcome.next (if_pos ?_)
  rw [hready, mailCode_eq, Bool.true_and]
  exact decide_eq_true hcode

theorem exec_mailboxUnknownCode_known (hready : s.boot.ready = true) (hpos : 1 ≤ m.toNat % 2 ^ 8)
    (h : m.toNat % 2 ^ 8 ≤ 4 ∨ 0x80 ≤ m.toNat % 2 ^ 8) : exec .mailboxUnknownCode s = .next s := by
  rw [exec_mailboxUnknownCode, execMailboxUnknownCode, hm]
  dsimp only
  rw [hready, mailCode_eq]
  split
  · rfl
  · rw [if_neg (by decide), if_neg (by omega)]

theorem exec_mailboxUnknownCode_reset (hstage : s.boot.stage = 15) (hcode : m.toNat % 2 ^ 8 = 4) :
    exec .mailboxUnknownCode s = .next s := by
  rw [exec_mailboxUnknownCode, execMailboxUnknownCode, hm]
  refine congrArg Host.Outcome.next (if_pos ?_)
  rw [State.servesReset, hstage, mailCode_eq, hcode]
  simp

theorem exec_mailboxUnknownCode_undefined (hroom : s.replyRoom = true) (hready : s.boot.ready = true)
    (h : m.toNat % 2 ^ 8 = 0 ∨ (5 ≤ m.toNat % 2 ^ 8 ∧ m.toNat % 2 ^ 8 < 0x80)) :
    exec .mailboxUnknownCode s = .next (s.answer m 1) := by
  have hcode : (m.toNat % 2 ^ 8 == 4) = false := beq_eq_false_iff_ne.mpr (by omega)
  rw [exec_mailboxUnknownCode, execMailboxUnknownCode, hm]
  dsimp only
  rw [mailCode_eq, hroom, hcode, Bool.and_false, if_neg (by decide), hready, if_neg (by decide), if_pos h]

theorem exec_mailboxUnknownCode_early (hroom : s.replyRoom = true) (hready : s.boot.ready = false)
    (h : s.boot.stage ≠ 15 ∨ m.toNat % 2 ^ 8 ≠ 4) : exec .mailboxUnknownCode s = .next (s.answer m 2) := by
  have hreset : (s.servesReset && m.toNat % 2 ^ 8 == 4) = false := by
    rw [State.servesReset, hready, Bool.false_or, Bool.and_eq_false_iff, beq_eq_false_iff_ne, beq_eq_false_iff_ne]
    exact h
  rw [exec_mailboxUnknownCode, execMailboxUnknownCode, hm]
  dsimp only
  rw [mailCode_eq, hroom, hreset, if_neg (by decide), hready, if_pos (by decide)]

/-! ### PARTITION (12 R291) -/

theorem exec_partition_eq (hroom : s.replyRoom = true) (hready : s.boot.ready = true) (hcode : m.toNat % 2 ^ 8 = 1) :
    exec .partition s = .next (if ((List.range 16).filter fun k => bitsAt (mailOperand m 0) (4 * k) 4 != s.partOf k).all s.slotIdle
      then { s with partcfg := mailOperand m 0 }.answer m 0 else s) := by
  rw [exec_partition, execPartition, State.serve_some hm hroom hready hcode]

theorem exec_partition_writes (hroom : s.replyRoom = true) (hready : s.boot.ready = true) (hcode : m.toNat % 2 ^ 8 = 1)
    (h : ∀ k, k < 16 → bitsAt (mailOperand m 0) (4 * k) 4 ≠ bitsAt s.partcfg (4 * k) 4 → s.slotIdle k = true) :
    exec .partition s = .next ({ s with partcfg := mailOperand m 0 }.answer m 0) := by
  rw [exec_partition_eq hm hroom hready hcode, if_pos (List.all_eq_true.mpr fun k hk => ?_)]
  obtain ⟨hlt, hmoved⟩ := List.mem_filter.mp hk
  exact h k (List.mem_range.mp hlt) (bne_iff_ne.mp hmoved)

theorem exec_partition_waits (hroom : s.replyRoom = true) (hready : s.boot.ready = true) (hcode : m.toNat % 2 ^ 8 = 1)
    (h : ∃ k, k < 16 ∧ bitsAt (mailOperand m 0) (4 * k) 4 ≠ bitsAt s.partcfg (4 * k) 4 ∧ s.slotIdle k = false) :
    exec .partition s = .next s := by
  obtain ⟨k, hk, hmoved, hbusy⟩ := h
  rw [exec_partition_eq hm hroom hready hcode, if_neg fun hall => ?_]
  have hidle := List.all_eq_true.mp hall k (List.mem_filter.mpr ⟨List.mem_range.mpr hk, bne_iff_ne.mpr hmoved⟩)
  exact Bool.false_ne_true (hbusy.symm.trans hidle)

end

/-! ### HOST_BAR_WRITE (17 R427) -/

section
variable {s : State} {off : Nat} {v : BitVec 64}

theorem exec_hostBarWrite_slot (hlo : 0x1000 ≤ off) (hhi : off < 0x2000) : ∃ t, exec (.hostBarWrite off v) s = .next t ∧
    ((mailSlot t.host.inbound ((off - 0x1000) / 64)).extractLsb' (64 * (off % 64 / 8)) 64 = v ∧
     (∀ k, k < 8 → k ≠ off % 64 / 8 → (mailSlot t.host.inbound ((off - 0x1000) / 64)).extractLsb' (64 * k) 64 =
       (mailSlot s.host.inbound ((off - 0x1000) / 64)).extractLsb' (64 * k) 64) ∧
     (∀ k, k < 64 → k ≠ (off - 0x1000) / 64 → mailSlot t.host.inbound k = mailSlot s.host.inbound k)) ∧
    t.host.mbin = s.host.mbin ∧ t.host.mbout = s.host.mbout ∧ t.ranks = s.ranks ∧ s.SameMemory t := by
  rw [exec_hostBarWrite, execHostBarWrite, if_pos ⟨hlo, hhi⟩]
  refine ⟨_, rfl, ⟨?_, fun k hk hne => ?_, fun k hk hne => mailSlot_mailPut_ne (by omega) _ _⟩, rfl, rfl, rfl,
    State.sameMemory_of_memories rfl⟩
  · refine (congrArg (BitVec.extractLsb' _ 64) (mailSlot_mailPut_self _ _ _)).trans ?_
    rw [Nat.mul_comm 64, extractLsb'_putBits_self _ (by omega)]
    rw [BitVec.ofNat_toNat, BitVec.setWidth_eq]
  · refine (congrArg (BitVec.extractLsb' _ 64) (mailSlot_mailPut_self _ _ _)).trans ?_
    refine extractLsb'_putBits_apart _ ?_ _
    omega

theorem exec_hostBarWrite_mbin : ∃ t, exec (.hostBarWrite 0x3000 v) s = .next t ∧ mbTail t.host.mbin = v.toNat % 2 ^ 16 ∧
    mbHead t.host.mbin = mbHead s.host.mbin ∧ t.host.mbout = s.host.mbout := by
  rw [exec_hostBarWrite, execHostBarWrite, if_neg (by decide), if_pos rfl]
  refine ⟨_, rfl, (mbTail_putTail _ _).trans ?_, mbHead_putTail _ _, rfl⟩
  rw [mbTail, bitsAt_toNat, Nat.pow_zero, Nat.div_one, Nat.mod_mod]

theorem exec_hostBarWrite_mbout : ∃ t, exec (.hostBarWrite 0x3008 v) s = .next t ∧ mbHead t.host.mbout = v.toNat / 2 ^ 16 % 2 ^ 16 ∧
    mbTail t.host.mbout = mbTail s.host.mbout ∧ t.host.mbin = s.host.mbin := by
  rw [exec_hostBarWrite, execHostBarWrite, if_neg (by decide), if_neg (by decide), if_pos rfl]
  refine ⟨_, rfl, (mbHead_putHead _ _).trans ?_, mbTail_putHead _ _, rfl⟩
  rw [mbHead, bitsAt_toNat, Nat.mod_mod]

theorem exec_hostBarWrite_other (h : off < 0x1000 ∨ 0x2000 ≤ off) (hmbin : off ≠ 0x3000) (hmbout : off ≠ 0x3008) :
    exec (.hostBarWrite off v) s = .next s := by
  rw [exec_hostBarWrite, execHostBarWrite, if_neg (by omega), if_neg hmbin, if_neg hmbout]

end

/-! ### What the end of gangs leaves: the mailboxes, and no rank that was not there (14 R351; 17 R429) -/

/-- The rank's VR, job and step: what launches and the settling of dependences leave. -/
def Rank.ident (r : Rank) : Nat × Nat × Word := (r.vr, r.job, r.stepno)

theorem Rank.retireGang_ident (r : Rank) (l : LaunchRec) (abandoned : Bool) : (r.retireGang l abandoned).ident = r.ident := by
  unfold Rank.retireGang Rank.retireRecord
  split
  · split
    · rfl
    · split <;> rfl
  · rfl

theorem Rank.settle_ident (n : Nat) (r : Rank) : (r.settle n).ident = r.ident := by
  induction n generalizing r with
  | zero => rfl
  | succ n ih =>
    rw [Rank.settle]
    split
    · rfl
    · rw [ih, Rank.retireGang_ident]
      rfl

/-- The mailboxes are as they were, and every rank was held before, in its job. -/
structure State.Shrunk (s t : State) : Prop where
  host : t.host = s.host
  ranks : ∀ r ∈ t.ranks, ∃ q ∈ s.ranks, q.vr = r.vr ∧ q.job = r.job

theorem State.Shrunk.refl (s : State) : s.Shrunk s := ⟨rfl, fun r hr => ⟨r, hr, rfl, rfl⟩⟩

section
variable {s t : State} (h : s.Shrunk t)
include h

theorem State.Shrunk.congr {u : State} (hhost : u.host = t.host) (hranks : u.ranks = t.ranks) : s.Shrunk u :=
  ⟨hhost.trans h.host, hranks ▸ h.ranks⟩

theorem State.Shrunk.filter {u : State} {p : Rank → Bool} (hhost : u.host = t.host) (hranks : u.ranks = t.ranks.filter p) : s.Shrunk u :=
  ⟨hhost.trans h.host, fun r hr => h.ranks r (List.mem_filter.mp (hranks ▸ hr)).1⟩

theorem State.Shrunk.modRank {vr : Nat} {f : Rank → Rank} (hf : ∀ r, (f r).ident = r.ident) : s.Shrunk (t.modRank vr f) := by
  refine ⟨h.host, fun r hr => ?_⟩
  obtain ⟨x, hx, rfl⟩ := List.mem_map.mp hr
  obtain ⟨q, hq, hvr, hjob⟩ := h.ranks x hx
  split
  · exact ⟨q, hq, hvr.trans (congrArg (·.1) (hf x)).symm, hjob.trans (congrArg (·.2.1) (hf x)).symm⟩
  · exact ⟨q, hq, hvr, hjob⟩

theorem State.Shrunk.modCore (r : SRef) (f : Core → Core) : s.Shrunk (t.modCore r f) := h.modRank fun _ => rfl

theorem State.Shrunk.bufferStore (vr : Nat) (b : BStore) : s.Shrunk (t.bufferStore vr b) :=
  (h.modRank (vr := vr) (f := fun r => { r with sbuf := r.sbuf ++ [{ b with order := t.nextId }] }) fun _ => rfl).congr rfl rfl

theorem State.Shrunk.storeScratch (r : SRef) (slot addr : Nat) (bs : List Byte) : s.Shrunk (t.storeScratch r slot addr bs) := by
  unfold State.storeScratch
  split
  · exact h.congr rfl rfl
  · exact h.bufferStore _ _
  · exact h

theorem State.Shrunk.writeElems (r : SRef) (slot sz : Nat) (data : Buf) (l : List (Int × Nat)) :
    s.Shrunk (t.writeElems r slot sz data l) := by
  induction l generalizing t with
  | nil => exact h
  | cons _ _ ih => exact ih (h.storeScratch _ _ _ _)

theorem State.Shrunk.finishEntry (r : SRef) (z slot : Nat) (cores : List Nat) (st : Stream) (rows : List RowSrc) :
    s.Shrunk (t.finishEntry r z slot cores st rows) := by
  unfold State.finishEntry
  split
  · unfold State.deliverEntry
    dsimp only
    split <;> exact h.modCore _ _
  · split
    · unfold State.drainEntry
      dsimp only
      split
      · exact h.modCore _ _
      · split
        · exact h.modCore _ _
        · exact (h.writeElems _ _ _ _ _).modCore _ _
    · exact h

theorem State.Shrunk.stopStreams (r : SRef) (i : StrandId) : s.Shrunk (t.stopStreams r i) := by
  rw [State.stopStreams_eq]
  refine List.foldlRecOn (motive := fun u : State => s.Shrunk u) _ _ h fun t h z _ => ?_
  unfold State.stopStream
  split
  · dsimp only
    split
    · exact (h.finishEntry _ _ _ _ _ _).modCore _ _
    · exact h.modCore _ _
  · exact h

theorem State.Shrunk.putCommitted (slot : Nat) (d : StoreTo) (bs : List Byte) : s.Shrunk (t.putCommitted slot d bs) := by
  cases d <;> exact h.congr rfl rfl

theorem State.Shrunk.undefine (slot : Nat) (r : SRef) (l : List (Space × Nat)) : s.Shrunk (t.undefine slot r l) := by
  induction l generalizing t with
  | nil => exact h
  | cons p l ih =>
    unfold State.undefine
    dsimp only
    refine ih ?_
    have hfree : s.Shrunk (t.freeBytes p.2).2 := h.congr rfl rfl
    split
    · exact hfree.putCommitted _ _ _
    · exact List.foldlRecOn (motive := fun u : State => s.Shrunk u) _ _ hfree fun t h q _ => h.putCommitted _ _ _

theorem State.Shrunk.leaveFreed (c : BitVec 512) (vr : Nat) : s.Shrunk (if t.migrHere c then t else match t.rank? vr with
    | some r => t.leaveRank r
    | none => t) := by
  split
  · exact h
  · split
    · exact h.filter rfl rfl
    · exact h

theorem State.Shrunk.freeSource (c : BitVec 512) : s.Shrunk (t.freeSource c) := by
  unfold State.freeSource
  dsimp only
  split
  · refine State.Shrunk.leaveFreed ?_ c _
    exact h.congr rfl rfl
  · exact h.leaveFreed c _

theorem State.Shrunk.tell (vr : Nat) : s.Shrunk (t.tell vr) := by
  unfold State.tell
  split
  · split
    · exact h.congr rfl rfl
    · exact h
  · exact h

theorem State.Shrunk.abandonMigr (c : Cmd) : s.Shrunk (t.abandonMigr c) := by
  unfold State.abandonMigr
  split
  · next x _ _ _ _ _ _ =>
    have hmoved : s.Shrunk (t.modRank (bitsAt x 32 24) fun r => { r with place := migrSource x }) := h.modRank fun _ => rfl
    dsimp only
    split
    · refine State.Shrunk.tell ?_ _
      exact hmoved.congr rfl rfl
    · split
      · exact h.freeSource _
      · exact h
  · exact h

theorem State.Shrunk.discardCmds (p : Cmd → Bool) : s.Shrunk (t.discardCmds p) := by
  unfold State.discardCmds
  refine List.foldlRecOn (motive := fun u : State => s.Shrunk u) _ _ (h.congr rfl rfl) fun u hu c _ => ?_
  refine State.Shrunk.abandonMigr ?_ c
  exact (hu.undefine _ _ _).congr rfl rfl

omit h in
theorem State.host_notify (s : State) (n : BitVec 1024) : (s.notify n).host = s.host := by
  unfold State.notify
  split <;> rfl

theorem State.Shrunk.schedFault (vr why : Nat) : s.Shrunk (t.schedFault vr why) := by
  unfold State.schedFault
  split
  · exact h
  · refine State.Shrunk.congr (h.modRank (vr := vr) fun r => ?_) ?_ (State.notify_ranks _ _)
    rotate_left
    · exact State.host_notify _ _
    · exact Rank.settle_ident _ _

theorem State.Shrunk.endGang (vr k : Nat) : s.Shrunk (t.endGang vr k) := by
  unfold State.endGang
  split
  · exact h
  next x _ =>
    have hstop : s.Shrunk (if x.holdsCores then x.cores.foldl (fun (s : State) c =>
        (s.stopStreams { vr := vr, gang := k, core := c.coreno, strand := .l } .l).stopStreams
          { vr := vr, gang := k, core := c.coreno, strand := .l } .s) t else t) := by
      split
      · exact List.foldlRecOn (motive := fun u : State => s.Shrunk u) _ _ h fun u hu c _ => (hu.stopStreams _ _).stopStreams _ _
      · exact h
    have hdrop := (hstop.discardCmds fun c => c.by'.vr == vr && c.by'.gang == k).modRank (vr := vr)
      (f := fun r => ((r.dropGang k).retireGang x.launch true).settleAll)
      fun r => (Rank.settle_ident _ _).trans (Rank.retireGang_ident _ _ _)
    dsimp only
    split
    · exact hdrop.schedFault _ _
    · exact hdrop

theorem State.Shrunk.removeRank (r : Rank) : s.Shrunk (t.removeRank r) := by
  have hends := List.foldlRecOn (motive := fun u : State => s.Shrunk u) r.gangs (fun u g => u.endGang r.vr g.id) h
    fun u hu g _ => hu.endGang _ _
  exact ⟨hends.host, fun q hq => hends.ranks q (List.mem_filter.mp hq).1⟩

end

/-! ### ENDJOB (17 R429, 15 R379) -/

/-- A rank that is removed is no longer held. -/
theorem State.vr_ne_of_removeRank (s : State) (r : Rank) : ∀ q ∈ (s.removeRank r).ranks, q.vr ≠ r.vr := by
  intro q hq
  exact bne_iff_ne.mp (List.mem_filter.mp hq).2

/-- What ENDJOB leaves of the ranks of a job. -/
def State.endRanks (s : State) (job : Nat) : State := (s.ranks.filter fun r => r.job == job).foldl (fun (s : State) r => s.removeRank r) s

theorem State.shrunk_endRanks (s : State) (job : Nat) : s.Shrunk (s.endRanks job) :=
  List.foldlRecOn (motive := fun u : State => s.Shrunk u) _ _ (.refl s) fun _ hu _ _ => hu.removeRank _

theorem State.endRanks_job (s : State) (job : Nat) : ∀ r ∈ (s.endRanks job).ranks, r.job ≠ job := by
  intro r hr hjob
  obtain ⟨q, hq, hvr, hqjob⟩ := (s.shrunk_endRanks job).ranks r hr
  have hgone : ∀ x ∈ (s.endRanks job).ranks, x.vr ≠ q.vr := by
    have hin : q ∈ s.ranks.filter fun r => r.job == job := List.mem_filter.mpr ⟨hq, beq_iff_eq.mpr (hqjob.trans hjob)⟩
    refine foldl_reaches (p := fun u : State => ∀ x ∈ u.ranks, x.vr ≠ q.vr) (fun u b hu x hx => ?_) hin
      (fun u => u.vr_ne_of_removeRank q) s
    obtain ⟨y, hy, hyvr, -⟩ := ((State.Shrunk.refl u).removeRank b).ranks x hx
    exact hyvr ▸ hu y hy
  exact hgone r hr hvr.symm

theorem exec_endjob_serves {s : State} {m : BitVec 512} (hm : s.message = some m) (hroom : s.replyRoom = true)
    (hready : s.boot.ready = true) (hcode : m.toNat % 2 ^ 8 = 3) (job : Nat) : ∃ t, exec (.endjob job) s = .next t ∧ (∀ r ∈ t.ranks, r.job ≠ job) ∧
      (∀ j ∈ t.jobs, j.id ≠ job) ∧ mbHead t.host.mbin = (mbHead s.host.mbin + 1) % 2 ^ 16 := by
  have hhost := (s.shrunk_endRanks job).host
  refine ⟨_, (exec_endjob job s).trans (congrArg Host.Outcome.next (State.serve_some hm hroom hready hcode _)), s.endRanks_job job,
    fun j hj => bne_iff_ne.mp (List.mem_filter.mp hj).2, ?_⟩
  refine (State.answer_counters 0).2.2.1.trans ?_
  exact congrArg (fun h : HostIf => (mbHead h.mbin + 1) % 2 ^ 16) hhost

/-! ### LOADJOB (17 R429 to R434) -/

/-- A word of code is read where it was put. -/
theorem physBytes_putCode {m : Memory} (h : m.wf = true) {a : Nat} {words : List (BitVec 32)}
    (he : ∀ i, i < 4 * words.length → physExists (a + i) = true) {i : Nat} (hi : i < words.length) :
    physBytes (putCode m a words) (a + 4 * i) 4 = leBytes 4 (words[i]).toNat := by
  have hlen := length_flatMap_pieces (fun w : BitVec 32 => length_leBytes 4 w.toNat) words
  refine physBytes_of_getElem (length_leBytes 4 _) fun j hj => ?_
  rw [length_leBytes] at hj
  have hlt : 4 * i + j < (words.flatMap fun w => leBytes 4 w.toNat).length := by omega
  have hget := getElem_flatMap_piece (fun w : BitVec 32 => length_leBytes 4 w.toNat) hi hj
  rw [List.getElem?_eq_getElem hlt, List.getElem?_eq_getElem (by rw [length_leBytes]; exact hj)] at hget
  rw [Nat.add_assoc, putCode, physRead_physPut h (by rwa [hlen]) hlt]
  exact Option.some.inj hget

/-- The memory that a load leaves. -/
def State.loadedMem (s : State) (p : Sys2Proof.LoadPlan) (portable : Bool) : Memory :=
  let mem := p.bytes.foldl (fun m b => physWrite m b.1 b.2) s.mem
  if portable then p.records.foldl (fun m q => putCode m q.1 ((translate q.2).getD [])) mem else mem

/-- The code of the last section of a plan is in the memory that the load leaves. -/
theorem State.loadedMem_code {s : State} {p : Sys2Proof.LoadPlan} {l : List (Nat × List (BitVec 128))} {q : Nat × List (BitVec 128)}
    {words : List (BitVec 32)} (hrec : p.records = l ++ [q]) (htr : translate q.2 = some words) (hwf : s.mem.wf = true)
    (he : ∀ i, i < 4 * words.length → physExists (q.1 + i) = true) {i : Nat} (hi : i < words.length) :
    leNat (physBytes (s.loadedMem p true) (q.1 + 4 * i) 4) = (words[i]?.getD 0).toNat := by
  have hbytes := wf_foldl hwf (fun _ b hn => wf_physWrite hn b.1 b.2) p.bytes
  have hcode : ∀ m : Memory, m.wf = true → (l.foldl (fun m q => putCode m q.1 ((translate q.2).getD [])) m).wf = true := fun m hm =>
    wf_foldl hm (fun _ q hn => wf_physPut hn _ _) l
  have hmem : s.loadedMem p true = putCode (l.foldl (fun m q => putCode m q.1 ((translate q.2).getD []))
      (p.bytes.foldl (fun m b => physWrite m b.1 b.2) s.mem)) q.1 words := by
    rw [State.loadedMem, if_pos rfl, hrec, List.foldl_append]
    exact congrArg (putCode _ q.1) (by rw [htr]; rfl)
  rw [hmem, physBytes_putCode (hcode _ hbytes) he hi, leNat_leBytes, List.getElem?_eq_getElem hi, Option.getD_some]
  exact Nat.mod_eq_of_lt (words[i]).isLt

/-- What the launches of a plan leave: memory, jobs, mailboxes, and who the ranks are. -/
def State.loadView (s : State) : Memory × List Job × HostIf × List (Nat × Nat × Word) := (s.mem, s.jobs, s.host, s.ranks.map Rank.ident)

theorem State.loadView_post (s : State) (vr : Nat) (l : LaunchRec) (src : GSource) : (s.post vr l src).loadView = s.loadView := by
  have hranks : (s.ranks.map fun r => if r.vr = vr then
      Rank.settleAll { r with gangs := r.gangs ++ [Gang.posted l src s.nextAge], walk := true } else r).map Rank.ident =
      s.ranks.map Rank.ident := by
    rw [List.map_map]
    refine List.map_congr_left fun r _ => ?_
    rw [Function.comp_apply]
    split
    · exact Rank.settle_ident _ _
    · rfl
  exact congrArg (fun l => (s.mem, s.jobs, s.host, l)) hranks

theorem State.loadView_placeLoadeds (f : Sys2Proof.RankPlan → Rank) (l : List Sys2Proof.RankPlan) (s : State) :
    (l.foldl (fun u p => u.placeLoaded (f p)) s).loadView =
      (s.mem, s.jobs, s.host, s.ranks.map Rank.ident ++ l.map fun p => (f p).ident) := by
  induction l generalizing s with
  | nil => rw [List.map_nil, List.append_nil]; rfl
  | cons p l ih =>
    have hplaced : (s.placeLoaded (f p)).loadView = (s.mem, s.jobs, s.host, s.ranks.map Rank.ident ++ [(f p).ident]) := by
      unfold State.placeLoaded State.loadView
      dsimp only
      split <;> rw [List.map_append] <;> rfl
    have hview := ih (s.placeLoaded (f p))
    simp only [State.loadView, Prod.mk.injEq] at hplaced
    obtain ⟨hmem, hjobs, hhost, hranks⟩ := hplaced
    rw [List.foldl_cons, hview, hmem, hjobs, hhost, hranks, List.append_assoc]
    rfl

theorem State.loadPlan_view (s : State) (p : Sys2Proof.LoadPlan) (n : Nat) (seed : Word) (portable : Bool) :
    (s.loadPlan p n seed portable).loadView = (s.loadedMem p portable,
      s.jobs ++ [{ id := p.job, n := n, seed := seed, groups := p.groups, arrived := [] }], s.host,
      s.ranks.map Rank.ident ++ p.ranks.map fun r => (r.vr, p.job, (1 : Word))) := by
  unfold State.loadPlan
  dsimp only
  refine (foldl_keeps State.loadView (fun u g => ?_) _ _).trans ?_
  · split
    · split
      · rfl
      · exact u.loadView_post _ _ _
    · rfl
  · refine (State.loadView_placeLoadeds (fun r => Rank.loaded r p.job seed) p.ranks _).trans ?_
    have hplaces : ∀ u : State, (p.scratch.foldl (fun (s : State) b => s.modSlot b.1 fun k =>
        { k with pads := memWrite k.pads b.2.1 b.2.2, shadow := memWrite k.shadow b.2.1 b.2.2 })
        (p.entries.foldl (fun (s : State) e => s.setPlace e.1 e.2) u)).loadView = u.loadView := fun u => by
      refine (foldl_keeps State.loadView (fun s b => ?_) _ _).trans (foldl_keeps State.loadView (fun s e => ?_) _ _)
      · rfl
      · rfl
    exact congrArg (fun v : Memory × List Job × HostIf × List (Nat × Nat × Word) =>
      (v.1, v.2.1, v.2.2.1, v.2.2.2 ++ p.ranks.map fun r => (r.vr, p.job, (1 : Word)))) (hplaces _)

section
variable {s : State} {m : BitVec 512} (hm : s.message = some m) (hroom : s.replyRoom = true) (hready : s.boot.ready = true)
  (hcode : m.toNat % 2 ^ 8 = 2) (p : Sys2Proof.LoadPlan)
include hm hroom hready hcode

/-- LOADJOB by the status of its image and by whether its plan fits. -/
theorem exec_loadjob_eq : exec (.loadjob p) s = .next (
    if (s.loadStatus p (mailOperand m 0).toNat (mailOperand m 1).toNat).1 ≠ 0 then
      s.answer m (s.loadStatus p (mailOperand m 0).toNat (mailOperand m 1).toNat).1
    else if s.planOk p (mailOperand m 2).toNat then
      (s.loadPlan p (mailOperand m 2).toNat (mailOperand m 3)
        (s.loadStatus p (mailOperand m 0).toNat (mailOperand m 1).toNat).2).answer m 0
    else s) := by
  rw [exec_loadjob, execLoadjob, State.serve_some hm hroom hready hcode]

theorem exec_loadjob_refused (h : (s.loadStatus p (mailOperand m 0).toNat (mailOperand m 1).toNat).1 ≠ 0) :
    exec (.loadjob p) s = .next (s.answer m (s.loadStatus p (mailOperand m 0).toNat (mailOperand m 1).toNat).1) := by
  rw [exec_loadjob_eq hm hroom hready hcode, if_pos h]

variable (h : (s.loadStatus p (mailOperand m 0).toNat (mailOperand m 1).toNat).1 = 0)
include h

theorem exec_loadjob_unfit (hplan : s.planOk p (mailOperand m 2).toNat = false) : exec (.loadjob p) s = .next s := by
  rw [exec_loadjob_eq hm hroom hready hcode, if_neg (not_not_intro h), hplan, if_neg Bool.false_ne_true]

theorem exec_loadjob_loads (hplan : s.planOk p (mailOperand m 2).toNat = true) : exec (.loadjob p) s =
    .next ((s.loadPlan p (mailOperand m 2).toNat (mailOperand m 3)
      (s.loadStatus p (mailOperand m 0).toNat (mailOperand m 1).toNat).2).answer m 0) := by
  rw [exec_loadjob_eq hm hroom hready hcode, if_neg (not_not_intro h), if_pos hplan]

end

/-- A plan that fits is one of a legal number of ranks (00 R3, 01 R14). -/
theorem State.planOk_count {s : State} {p : Sys2Proof.LoadPlan} {n : Nat} (h : s.planOk p n = true) : 1 ≤ n ∧ n ≤ 16777216 := by
  simp only [State.planOk, Bool.and_eq_true, decide_eq_true_eq, and_assoc] at h
  obtain ⟨hpos, hle, -⟩ := h
  exact ⟨hpos, hle⟩

/-- Settles O52: the mailboxes and the acts by their guards, a load by what its plan leaves, a translation by its bundles. -/
theorem hostMailbox : Obligations.HostMailbox := by
  intro s
  refine ⟨fun m st hst => ?_, exec_messages_none, exec_messages_noRoom, fun m hm => ?_, fun m hm hroom => ?_, fun rs words htr => ?_,
    fun rs hlegal hloop => ?_, fun off v => ?_⟩
  · exact ⟨State.answer_word hst, State.answer_counters st⟩
  · have hserve : ∀ code, s.boot.ready = false ∨ m.toNat % 2 ^ 8 ≠ code → ∀ f, s.serve code f = s := fun code h f =>
      State.serve_idle hm (h.imp_right .inl) f
    refine ⟨fun h => ?_, fun h p => ?_, fun h job => ?_, exec_reset_idle hm, exec_supervisorMessage_idle hm,
      exec_mailboxUnknownCode_known hm, exec_mailboxUnknownCode_reset hm, fun hready hcode => ?_⟩
    · rw [exec_partition, execPartition, hserve 1 h]
    · rw [exec_loadjob, execLoadjob, hserve 2 h]
    · rw [exec_endjob, execEndjob, hserve 3 h]
    · exact ⟨_, exec_supervisorMessage_passes hm hready hcode, rfl, rfl, mbHead_putHead _ _⟩
  · refine ⟨fun hready hcode => ⟨exec_partition_writes hm hroom hready hcode, exec_partition_waits hm hroom hready hcode⟩,
      fun hready hcode p => ⟨exec_loadjob_refused hm hroom hready hcode p, exec_loadjob_unfit hm hroom hready hcode p, fun hst hplan => ?_⟩,
      exec_endjob_serves hm hroom, fun hready hcode => ?_, exec_mailboxUnknownCode_undefined hm hroom,
      exec_mailboxUnknownCode_early hm hroom⟩
    · obtain ⟨hpos, hle⟩ := State.planOk_count hplan
      have hview := s.loadPlan_view p (mailOperand m 2).toNat (mailOperand m 3)
        (s.loadStatus p (mailOperand m 0).toNat (mailOperand m 1).toNat).2
      simp only [State.loadView, Prod.mk.injEq] at hview
      obtain ⟨hmem, hjobs, hhost, hranks⟩ := hview
      refine ⟨_, exec_loadjob_loads hm hroom hready hcode p hst hplan, hpos, hle, ?_, hranks, hjobs, ?_⟩
      · intro l q words hportable hrec htr hwf he i hi
        rw [hportable] at hmem ⊢
        exact (congrArg (fun mem => leNat (physBytes mem (q.1 + 4 * i) 4)) hmem).trans (State.loadedMem_code hrec htr hwf he hi)
      · exact (State.answer_counters 0).2.2.1.trans (congrArg (fun h : HostIf => (mbHead h.mbin + 1) % 2 ^ 16) hhost)
    · exact ⟨_, exec_reset_serves hm hroom hready hcode, rfl, rfl, rfl, rfl, rfl, rfl, rfl, mbHead_putHead _ _⟩
  · exact ⟨translate_length htr, fun col hcol => translate_keeps htr hcol⟩
  · obtain ⟨words, htr⟩ := translate_isSome hlegal hloop
    exact ⟨words, htr, translate_keeps_x hlegal hloop htr, fun i hi => translate_lands hloop htr hi⟩
  · exact ⟨exec_hostBarWrite_slot, exec_hostBarWrite_mbin, exec_hostBarWrite_mbout, exec_hostBarWrite_other⟩

end Sys2Proof.Machine
